-- ==== Sys2Proof/Word.lean ====
section
/-! DEFINITION. The words of the Sahorn P48 and the sparse table type every storage of the model uses. -/

namespace Sys2Proof

/-- One byte (R5, R6). -/
abbrev Byte := BitVec 8
/-- A 16-bit value, one element of a pair (R67). -/
abbrev Half := BitVec 16
/-- A 32-bit register or word (R51). -/
abbrev Word := BitVec 32
/-- A 64-bit value: a register pair, a tile descriptor, an address (R7, R57, R92). -/
abbrev DWord := BitVec 64
/-- One bit for each of the 64 lanes (R20). -/
abbrev Mask := BitVec 64
/-- A sparse table: numbered places and their values, numbers strictly rising, no place listed that holds the table's
resting value. Registers, scratchpad bytes and memory bytes are kept in this one form. -/
abbrev Store (β : Type) := List (Nat × β)

end Sys2Proof
end

