-- ==== Sys2Proof/Syntax.lean ====
section
/-! DEFINITION. The syntax of the Sahorn P48: one constructor of `Instr` for each row of the table of operations and
events. An instruction's constructor holds its operands; a row that is a step of one of the panel's own units holds
what names the unit or object that moves. -/

namespace Sys2Proof

/-- The guard of an instruction (R184, R186): a predicate p0 to p7 and whether it is negated. -/
structure Guard where
  neg : Bool
  p : Fin 8
  deriving DecidableEq, Repr

/-- A vector or uniform register (R185). -/
inductive Reg where
  | v (n : Fin 192)
  | s (n : Fin 64)
  deriving DecidableEq, Repr

/-- A source: a register, a 32-bit immediate (R189) or a 64-bit immediate (R190). -/
inductive Operand where
  | reg (r : Reg)
  | imm (w : Word)
  | imm64 (w : DWord)
  deriving DecidableEq, Repr

/-- A uniform register or a 32-bit immediate: the source of a gang-level instruction. -/
inductive UOperand where
  | s (n : Fin 64)
  | imm (w : Word)
  deriving DecidableEq, Repr

/-- The source of SYSWR: a uniform register, a 32-bit or a 64-bit immediate (R368). -/
inductive SysOperand where
  | s (n : Fin 64)
  | imm (w : Word)
  | imm64 (w : DWord)
  deriving DecidableEq, Repr

/-- The address operand of LAUNCH: a uniform pair or a 64-bit immediate (R311). -/
inductive AddrOperand where
  | s (n : Fin 64)
  | imm64 (w : DWord)
  deriving DecidableEq, Repr

/-- .i32 and .n32 (R73). -/
inductive IntTy where
  | i32 | n32
  deriving DecidableEq, Repr

/-- The types of IADD and ISUB (R226). -/
inductive AddTy where
  | i32 | n32 | b64
  deriving DecidableEq, Repr

/-- .b32 and .b64. -/
inductive BitTy where
  | b32 | b64
  deriving DecidableEq, Repr

/-- .f32, .f16 and .bf16. -/
inductive FloatTy where
  | f32 | f16 | bf16
  deriving DecidableEq, Repr

/-- The element formats of the paired instructions (R257). -/
inductive HalfTy where
  | f16 | bf16
  deriving DecidableEq, Repr

/-- The rounding modes of R68. -/
inductive Rnd where
  | rn | rz | rp | rm
  deriving DecidableEq, Repr

/-- The comparisons of ICMP (R239). -/
inductive ICmp where
  | eq | ne | lt | le | gt | ge
  deriving DecidableEq, Repr

/-- The comparisons of FCMP (R255). -/
inductive FCmp where
  | eq | ne | lt | le | gt | ge | ueq | une | ult | ule | ugt | uge | num | nan
  deriving DecidableEq, Repr

/-- The combining operation of a compare and the predicate it combines with (R239). -/
inductive Combine where
  | none
  | and (q : Fin 8)
  | or (q : Fin 8)
  | xor (q : Fin 8)
  deriving DecidableEq, Repr

/-- The source formats of CVTFI and CVTFF (R260). -/
inductive CvtSrc where
  | f32 | f16 (hi : Bool) | bf16 (hi : Bool) | f64
  deriving DecidableEq, Repr

/-- The source formats of CVTIF (R260). -/
inductive CvtInt where
  | i32 | n32 | i64 | n64
  deriving DecidableEq, Repr

/-- The destination formats of CVTFF (R260). -/
inductive CvtDst where
  | f32 | f16 | bf16 | f64
  deriving DecidableEq, Repr

/-- The element types of IWIDEN and INARROW with the element index (R260). -/
inductive NarrowTy where
  | i8 (k : Fin 4) | n8 (k : Fin 4) | i4 (k : Fin 8) | n4 (k : Fin 8) | b16 (k : Fin 2) (sx : Bool) | b32 (sx : Bool)
  deriving DecidableEq, Repr

/-- The modes of SHFL (R274); `.rev` takes no B. -/
inductive ShflMode where
  | lane | back | fwd | flip
  deriving DecidableEq, Repr

/-- The votes of R275. -/
inductive VoteMode where
  | all | any | same
  deriving DecidableEq, Repr

/-- The fold operations of GRED, GSCAN and NRED with the types R276 gives each. -/
inductive FoldOp where
  | addI (ty : IntTy) | addF (rnd : Rnd) | minI (ty : IntTy) | maxI (ty : IntTy) | minF | maxF | and | or | xor
  deriving DecidableEq, Repr

/-- SUB and TYPE of NRED: a fold, or a type that R276 does not give the operation of SUB, which check 2 finds (R338). -/
inductive NredOp where
  | fold (op : FoldOp)
  | broken (sub : Fin 6) (type : Fin 16)
  deriving DecidableEq, Repr

/-- The access sizes of loads and stores (R279); `b128` is .b64 with .x2. -/
inductive MemTy where
  | b8 | b16 | b32 | b64 | b128
  deriving DecidableEq, Repr

/-- How a load extends: zero or sign (R279); the sign only for 1 and 2 bytes. -/
inductive LoadTy where
  | b8 (sx : Bool) | b16 (sx : Bool) | b32 | b64 | b128
  deriving DecidableEq, Repr

/-- The texel types of LDQ (R283). -/
inductive TexTy where
  | f32 | f16 | bf16 | nf
  deriving DecidableEq, Repr

/-- The address modes of LDQ (R166). -/
inductive TexMode where
  | clamp | wrap | zero
  deriving DecidableEq, Repr

/-- The operations of ATOM, ATOMS and RED with the types R293 gives each. -/
inductive AtomOp where
  | addI (ty : IntTy) | addF | add64 | minI (ty : IntTy) | maxI (ty : IntTy) | minF | maxF
  | and (ty : BitTy) | or (ty : BitTy) | xor (ty : BitTy) | exch (ty : BitTy)
  deriving DecidableEq, Repr

/-- The operations of ATAGG (R293). -/
inductive AggOp where
  | addI (ty : IntTy) | add64 | and (ty : BitTy) | or (ty : BitTy) | xor (ty : BitTy)
  deriving DecidableEq, Repr

/-- The counts of BARINIT: each uniform or immediate (R300). -/
inductive BarCounts where
  | regs (nt nc : Fin 64)
  | immT (nt : Word) (nc : Fin 64)
  | immC (nt : Fin 64) (nc : Word)
  | both (nt nc : Half)
  deriving DecidableEq, Repr

/-- The operand formats of MMA and MMAT (R313, R316). -/
inductive MatTy where
  | f16 | bf16 | nf | i8 | n8 | i4 | n4
  deriving DecidableEq, Repr

/-- The matrix or the copy sequencer of a sheet (R321). -/
inductive SeqKind where
  | m | c
  deriving DecidableEq, Repr

/-- The directions of CPL (R333); the last two name a completion counter. -/
inductive CplDir where
  | gs
  | sg (cnt : Fin 8)
  | gg (cnt : Fin 8)
  deriving DecidableEq, Repr

/-- The sizes of CPL (R333). -/
inductive CplSize where
  | b4 | b8 | b16
  deriving DecidableEq, Repr

/-- The directions of NXCH (R338). -/
inductive Compass where
  | east | west | north | south
  deriving DecidableEq, Repr

/-- The groups of a collective (R146). -/
inductive ShardGroup where
  | row | col | plane
  deriving DecidableEq, Repr

/-- The immediate of a collective (R338): source tile, destination tile, counter and its enable. -/
structure CollImm where
  ts : Fin 8
  td : Fin 8
  cnt : Fin 8
  cen : Bool
  deriving DecidableEq, Repr

/-- What the power-on self-test and the configuration flash say of one cluster (R457, R458, R366). -/
structure ClusterTest where
  dx : Nat
  dy : Nat
  cx : Nat
  cy : Nat
  /-- Architectural width 64, 32 or 16. -/
  aw : Nat
  /-- Live pool granules, 0 to 128. -/
  lgr : Nat
  /-- Live physical lanes, 0 to 64. -/
  lln : Nat
  /-- Current step of releasing one gang, mA (R366). -/
  igang : Nat
  /-- The lane ratio code firmware writes (R366). -/
  ratio : Nat
  /-- The current-slope limit in force at power-on (R366). -/
  didt : Nat
  /-- Whether the seal equals the digest of the image (R458). -/
  sealed : Bool
  deriving DecidableEq, Repr

/-- A grade of R441: live dies, clusters, pool granules, HBM capacity in GB, boost step. -/
structure Grade where
  dies : Nat
  clusters : Nat
  granules : Nat
  hbm : Nat
  step : Nat
  deriving DecidableEq, Repr, Inhabited

/-- What bring-up finds (R457): the configuration record and the self-test of every live element. -/
structure PowerOnRecord where
  /-- The record's signature verifies (R457 step 1). -/
  recordValid : Bool
  /-- Steward chiplet 0 passes its own self-test (R457). -/
  steward0Ok : Bool
  /-- The controller public keys that may claim (R458). -/
  keys : List (BitVec 256)
  /-- The shipped grade (R441). -/
  shipped : Grade
  /-- The checkpoint safe tier, as the record names it (R458). -/
  tier : List Byte
  /-- The bytes of the configuration record (R457, R460). -/
  record : List Byte
  /-- The device number of this package on the Tronis fabric (R362). -/
  device : Nat
  /-- Live clusters; a die is live when it holds one. -/
  clusters : List ClusterTest
  /-- HBM stacks that pass their self-test: die rank and capacity in GB (R441, R457). -/
  hbmStacks : List (Nat × Nat)
  /-- UCIe edges that pass their self-test, by the ranks of the dies they join (R457). -/
  edges : List (Nat × Nat)
  /-- The highest sustained boost step (R441). -/
  step : Nat
  deriving DecidableEq, Repr, Inhabited

/-- The header of a steward command that the port accepted for handling (R462, R465): the sender's key and sequence number. -/
structure CmdHdr where
  key : BitVec 256
  seq : Nat
  deriving DecidableEq, Repr

/-- An agent that RE_ADMISSION readmits (R440): a die by rank, a steward chiplet, or a peer package by device number. -/
inductive Readmitted where
  | die (rank : Nat)
  | steward (n : Nat)
  | peer (device : Nat)
  deriving DecidableEq, Repr

/-- What a blotter may find or a change of strength touch (R434, R435): an L2 slice of a die or the pool of a cluster. -/
inductive EccRegion where
  | slice (die slice : Nat)
  | pool (cluster : Nat)
  deriving DecidableEq, Repr

/-- A word of a cluster pool or scratchpad under ECC (R434, R435): scratchpad bytes, a vector register of a lane, or an element of an
accumulator fragment. -/
inductive PoolWord where
  | spad (addr size : Nat)
  | vec (gang reg lane : Nat)
  | acc (gang frag elem : Nat)
  deriving DecidableEq, Repr

/-- Words found that cannot be corrected (R434, R435): a physical address in each of memory, and each of a pool or scratchpad with
its sheet. -/
structure LostWords where
  atoms : List Nat := []
  pool : List (Nat × PoolWord) := []
  deriving DecidableEq, Repr

/-- One constructor for each row of the table. -/
inductive Instr where
  -- control and divergence (R216 to R225)
  | nop (g : Guard)
  | bra (g : Guard) (disp : Word)
  | brx (g : Guard) (a : Reg)
  | call (g : Guard) (d : Fin 192) (disp : Word)
  | callx (g : Guard) (d : Fin 192) (a : Reg)
  | ret (g : Guard) (a : Reg)
  | exit (g : Guard)
  | meet (g : Guard) (k : Fin 8) (disp : Word)
  | mleave (g : Guard) (k : Fin 8)
  | yield (g : Guard)
  | nap (g : Guard) (a : Fin 64)
  | napImm (g : Guard) (n : Word)
  | napEnd (sheet gang : Nat)
  | trap (g : Guard)
  | trapImm (g : Guard) (code : Word)
  | bkpt (g : Guard)
  | perf (g : Guard) (a : Fin 64)
  | perfImm (g : Guard) (n : Word)
  -- integer arithmetic (R226 to R231)
  | iadd (g : Guard) (ty : AddTy) (sat : Bool) (d : Reg) (a b : Operand)
  | isub (g : Guard) (ty : AddTy) (sat : Bool) (d : Reg) (a b : Operand)
  | iadd3 (g : Guard) (ty : IntTy) (d : Reg) (a b c : Operand)
  | imul (g : Guard) (ty : IntTy) (d : Reg) (a b : Operand)
  | imulh (g : Guard) (ty : IntTy) (d : Reg) (a b : Operand)
  | imad (g : Guard) (ty : IntTy) (d : Reg) (a b c : Operand)
  | imadw (g : Guard) (ty : IntTy) (d : Reg) (a b c : Operand)
  | idiv (g : Guard) (ty : IntTy) (d : Reg) (a b : Operand)
  | irem (g : Guard) (ty : IntTy) (d : Reg) (a b : Operand)
  | imin (g : Guard) (ty : IntTy) (d : Reg) (a b : Operand)
  | imax (g : Guard) (ty : IntTy) (d : Reg) (a b : Operand)
  | iabs (g : Guard) (sat : Bool) (d : Reg) (a : Operand)
  | ineg (g : Guard) (sat : Bool) (d : Reg) (a : Operand)
  | clamp (g : Guard) (ty : IntTy) (d : Reg) (a b c : Operand)
  -- logic, shifts and bit fields (R232 to R238)
  | and (g : Guard) (ty : BitTy) (d : Reg) (a b : Operand)
  | or (g : Guard) (ty : BitTy) (d : Reg) (a b : Operand)
  | xor (g : Guard) (ty : BitTy) (d : Reg) (a b : Operand)
  | andn (g : Guard) (ty : BitTy) (d : Reg) (a b : Operand)
  | orn (g : Guard) (ty : BitTy) (d : Reg) (a b : Operand)
  | shl (g : Guard) (ty : BitTy) (d : Reg) (a b : Operand)
  | shr (g : Guard) (ty : BitTy) (d : Reg) (a b : Operand)
  | sar (g : Guard) (ty : BitTy) (d : Reg) (a b : Operand)
  | rot (g : Guard) (ty : BitTy) (d : Reg) (a b : Operand)
  | fsh (g : Guard) (left : Bool) (d : Reg) (a b c : Operand)
  | bfx (g : Guard) (ty : IntTy) (d : Reg) (a b : Operand)
  | bfi (g : Guard) (d : Reg) (a b c : Operand)
  | popc (g : Guard) (d : Reg) (a : Operand)
  | clz (g : Guard) (d : Reg) (a : Operand)
  | ctz (g : Guard) (d : Reg) (a : Operand)
  | brev (g : Guard) (d : Reg) (a : Operand)
  | bytesel (g : Guard) (d : Reg) (a b c : Operand)
  | lea (g : Guard) (scale : Fin 8) (sx : Bool) (d : Reg) (a b : Operand)
  -- compare, select and predicates (R239 to R243)
  | icmp (g : Guard) (ty : IntTy) (cmp : ICmp) (comb : Combine) (pd : Fin 8) (a b : Operand)
  | sel (g : Guard) (ty : BitTy) (p : Fin 8) (neg : Bool) (d : Fin 192) (a b : Operand)
  | pcomb (g : Guard) (pd pa pb pc : Fin 8) (tt : Byte)
  | psetm (g : Guard) (pd : Fin 8) (a : Fin 64)
  | psetmMask (g : Guard) (pd : Fin 8) (k : Fin 8)
  | pmovToReg (g : Guard) (p : Fin 8) (d : Fin 192)
  | pmovToPred (g : Guard) (pd : Fin 8) (a : Reg)
  | pmovFromMask (g : Guard) (k : Fin 8) (d : Fin 64)
  -- moves (R244 to R246)
  | mov (g : Guard) (ty : BitTy) (d : Reg) (a : Operand)
  | movi (g : Guard) (ty : BitTy) (d : Reg) (a : Operand)
  | movs (g : Guard) (num : Fin 15) (d : Reg)
  -- binary32 (R250 to R256)
  | fadd (g : Guard) (r : Rnd) (d : Reg) (a b : Operand)
  | fsub (g : Guard) (r : Rnd) (d : Reg) (a b : Operand)
  | fmul (g : Guard) (r : Rnd) (d : Reg) (a b : Operand)
  | ffma (g : Guard) (r : Rnd) (d : Reg) (a b c : Operand)
  | fmin (g : Guard) (d : Reg) (a b : Operand)
  | fmax (g : Guard) (d : Reg) (a b : Operand)
  | frnd (g : Guard) (r : Rnd) (d : Reg) (a : Operand)
  | fscale (g : Guard) (r : Rnd) (d : Reg) (a b : Operand)
  | ffract (g : Guard) (d : Reg) (a : Operand)
  | frcp (g : Guard) (r : Rnd) (d : Reg) (a : Operand)
  | frsq (g : Guard) (d : Reg) (a : Operand)
  | fsqrt (g : Guard) (r : Rnd) (d : Reg) (a : Operand)
  | fdiv (g : Guard) (r : Rnd) (d : Reg) (a b : Operand)
  | fexp2 (g : Guard) (d : Reg) (a : Operand)
  | flog2 (g : Guard) (d : Reg) (a : Operand)
  | fsin (g : Guard) (d : Reg) (a : Operand)
  | fcos (g : Guard) (d : Reg) (a : Operand)
  | fcmp (g : Guard) (cmp : FCmp) (comb : Combine) (pd : Fin 8) (a b : Operand)
  | fclass (g : Guard) (ty : FloatTy) (hi : Bool) (d : Reg) (a : Operand)
  -- paired half precision (R257 to R259)
  | hadd2 (g : Guard) (ty : HalfTy) (r : Rnd) (d : Reg) (a b : Operand)
  | hmul2 (g : Guard) (ty : HalfTy) (r : Rnd) (d : Reg) (a b : Operand)
  | hfma2 (g : Guard) (ty : HalfTy) (r : Rnd) (d : Reg) (a b c : Operand)
  | hmin2 (g : Guard) (ty : HalfTy) (d : Reg) (a b : Operand)
  | hmax2 (g : Guard) (ty : HalfTy) (d : Reg) (a b : Operand)
  | fdot2 (g : Guard) (ty : HalfTy) (r : Rnd) (d : Reg) (a b c : Operand)
  -- conversions (R260 to R264)
  | cvtfi (g : Guard) (ty : IntTy) (wide : Bool) (src : CvtSrc) (r : Rnd) (d : Reg) (a : Operand)
  | cvtif (g : Guard) (ty : FloatTy) (src : CvtInt) (r : Rnd) (d : Reg) (a : Operand)
  | cvtff (g : Guard) (dst : CvtDst) (src : CvtSrc) (r : Rnd) (d : Reg) (a : Operand) (pk : Option Operand)
  | iwiden (g : Guard) (ty : NarrowTy) (d : Reg) (a : Operand)
  | inarrow (g : Guard) (ty : NarrowTy) (sat : Bool) (d : Reg) (a : Operand) (b : Option Operand)
  -- NF packing and block scales (R265 to R267)
  | nfpack (g : Guard) (k : Fin 8) (d : Reg) (a b c : Operand)
  | nfunp (g : Guard) (k : Fin 8) (d : Reg) (a b c : Operand)
  | scaleblk (g : Guard) (d : Reg) (a b c : Operand)
  -- ray tests (R268 to R271)
  | rbox (g : Guard) (pd : Fin 8) (d : Fin 192) (a b : Reg)
  | rtri (g : Guard) (pd : Fin 8) (cull : Fin 3) (d : Fin 192) (a b : Reg)
  -- cross-lane (R272 to R276); `mode` none is SHFL.rev
  | shfl (g : Guard) (ty : BitTy) (mode : Option (ShflMode × Operand)) (d : Fin 192) (a : Reg)
  | vote (g : Guard) (mode : VoteMode) (pd pa : Fin 8) (neg : Bool)
  | ballot (g : Guard) (d : Fin 192) (pa : Fin 8) (neg : Bool)
  | match_ (g : Guard) (ty : BitTy) (alleq : Option (Fin 8)) (d : Fin 192) (a : Reg)
  | gred (g : Guard) (op : FoldOp) (d : Reg) (a : Reg)
  | gscan (g : Guard) (op : FoldOp) (excl : Bool) (d : Fin 192) (a : Reg)
  -- memory access (R283 to R291)
  | ld (g : Guard) (ty : LoadTy) (d a : Reg) (off : Option Word)
  | st (g : Guard) (ty : MemTy) (a : Reg) (off : Option Word) (b : Reg)
  | writeAtHome (id : Nat)
  | stF (g : Guard) (ty : MemTy) (a : Reg) (off : Option Word) (b c : Reg)
  | lds (g : Guard) (ty : LoadTy) (d : Reg) (a : Option Reg) (off : Option Word)
  | sts (g : Guard) (ty : MemTy) (a : Option Reg) (off : Option Word) (b : Reg)
  | ldc (g : Guard) (ty : LoadTy) (d : Reg) (a : Option Reg) (off : Option Word)
  | ldq (g : Guard) (ty : TexTy) (mode : TexMode) (d : Fin 192) (a b c : Reg)
  | pref (g : Guard) (l2 : Bool) (a : Reg) (off : Option Word)
  | sptest (g : Guard) (pd : Fin 8) (a : Option Reg) (off : Option Word)
  -- atomics (R292 to R296)
  | atom (g : Guard) (op : AtomOp) (d a : Reg) (off : Option Word) (b : Reg)
  | atoms (g : Guard) (op : AtomOp) (d : Reg) (a : Option Reg) (off : Option Word) (b : Reg)
  | cas (g : Guard) (ty : BitTy) (d a : Reg) (off : Option Word) (b c : Reg)
  | red (g : Guard) (op : AtomOp) (a : Reg) (off : Option Word) (b : Reg)
  | atagg (g : Guard) (op : AggOp) (d : Reg) (a : Fin 64) (off : Option Word) (b : Reg)
  -- fences (R297, R298)
  | fenceG (g : Guard)
  | fenceS (g : Guard)
  | fenceC (g : Guard) (k : Fin 8) (d : Reg)
  -- barriers (R299 to R304)
  | bar (g : Guard) (b : Fin 16) (pd : Fin 8)
  | barArrive (g : Guard) (b : Fin 16)
  | barrierWaveRelease (sheet gang : Nat)
  | barinit (g : Guard) (b : Fin 16) (ext : Bool) (counts : BarCounts)
  | barinv (g : Guard) (b : Fin 16)
  -- queues (R305 to R308)
  | qinit (g : Guard) (q : Fin 16) (a : UOperand)
  | qpush (g : Guard) (q : Fin 16) (a : UOperand)
  | qpop (g : Guard) (q : Fin 16) (pd : Fin 8) (d : Fin 64)
  | qtry (g : Guard) (q : Fin 16) (pd : Fin 8) (d : Fin 64)
  | qclose (g : Guard) (q : Fin 16)
  -- folios and launches (R309 to R311)
  | fopen (g : Guard) (d : Fin 64) (a : UOperand)
  | fclose (g : Guard) (a : Fin 64)
  | folioClose (ctx slot : Nat)
  | launch (g : Guard) (d : Fin 64) (a : AddrOperand)
  -- matrix (R312 to R320)
  | mma (g : Guard) (ty : MatTy) (acc : Fin 16) (z : Bool) (a b : Fin 192) (c : Option Reg)
  | accz (g : Guard) (k : Fin 16)
  | accrdV (g : Guard) (k : Fin 16) (d : Fin 192)
  | accrdSp (g : Guard) (k : Fin 16) (a : Option Reg) (off : Option Word)
  | accrdT (g : Guard) (t : Fin 8) (d : Fin 64)
  | accwrV (g : Guard) (k : Fin 16) (a : Fin 192)
  | accwrSp (g : Guard) (k : Fin 16) (a : Option Reg) (off : Option Word)
  | accwrT (g : Guard) (t : Fin 8) (a : Fin 64)
  -- sequencers (R321 to R332)
  | forkM (g : Guard) (disp : Word)
  | forkC (g : Guard) (disp : Word)
  | rdvThread (g : Guard) (which : SeqKind) (d : Fin 64)
  | rdvSequencer (g : Guard)
  | mmat (g : Guard) (ty : MatTy) (acc : Fin 16) (z : Bool) (ta tb : Fin 8) (oa ob : Option (Fin 64))
  | mvsScale (g : Guard) (c p : Fin 16) (ta tb : Fin 8) (ofs : Option (Fin 64))
  | mvsSt (g : Guard) (c : Fin 16) (ta : Fin 8) (ofs : Option (Fin 64))
  | mvsStbf (g : Guard) (c : Fin 16) (ta : Fin 8) (ofs : Option (Fin 64))
  | mvsLd (g : Guard) (c : Fin 16) (ta : Fin 8) (ofs : Option (Fin 64))
  -- copies and ownership (R333 to R337)
  | cpl (g : Guard) (dir : CplDir) (size : CplSize) (dst src : Reg)
  | cptIn (g : Guard) (rec line org : Fin 64)
  | cptOut (g : Guard) (rec line org : Fin 64) (cnt : Fin 8)
  | copyCompletion (id : Nat)
  | ownEng (g : Guard) (t : Fin 8) (ofs : Option (Fin 64))
  | ownThr (g : Guard) (t : Fin 8) (ofs : Option (Fin 64))
  | residOpen (g : Guard) (prio : Fin 4) (d a b : Fin 64)
  | residPrio (g : Guard) (prio : Fin 4) (d a : Fin 64)
  | residClose (g : Guard) (d a : Fin 64)
  -- collectives (R338 to R342)
  | nxch (g : Guard) (dir : Compass) (imm : CollImm)
  | nred (g : Guard) (op : NredOp) (group : ShardGroup) (imm : CollImm)
  | nbc (g : Guard) (group : ShardGroup) (root : Fin 64) (imm : CollImm)
  | collectiveCompletion (id : Nat)
  -- geometry (R343 to R345) and raster (R153 to R162)
  | emit (g : Guard) (slot : Fin 4) (a : Reg) (b c : Fin 64)
  | emitend (g : Guard) (slot : Fin 4) (a : Fin 64)
  | primitivePacket (id : Nat)
  | closeMarker (id : Nat)
  | rasteriseGroup (die ctx slot : Nat)
  | drawAdvance (ctx slot : Nat)
  -- system (R363 to R378)
  | sysrd (g : Guard) (num : Byte) (wide : Bool) (d : Fin 64)
  | syswr (g : Guard) (num : Byte) (wide : Bool) (a : SysOperand)
  | syswrTtb (g : Guard) (a : SysOperand)
  | syswrCeil (g : Guard) (a : SysOperand)
  | eret (g : Guard)
  | tlbinvPage (g : Guard) (a : Fin 64)
  | tlbinvRange (g : Guard) (a b : Fin 64)
  | tlbinvCtx (g : Guard)
  | invrep (g : Guard) (a : Fin 64)
  | invrepRange (g : Guard) (a b : Fin 64)
  | replicaConversion (ctx page : Nat)
  | ctxsaveCopy (g : Guard) (d a : Fin 64)
  | ctxsavePark (g : Guard) (d a : Fin 64)
  | ctxload (g : Guard) (d a : Fin 64)
  | halt (g : Guard) (a : UOperand)
  | wdclr (g : Guard)
  | stamp (g : Guard) (a : UOperand)
  -- asynchronous errors and watchdogs (R377, R388 to R392)
  | asyncErrorDelivery (sheet : Nat)
  | deadlockWatchdog (ctx : Nat)
  | externalWaitTimeout (sheet gang : Nat)
  | supervisorWatchdog (sheet gang : Nat)
  -- scheduling hardware (R174, R402 to R410) and preemption (R393 to R397)
  | weightWindowOpen (cluster : Nat)
  | placeSheet (die : Nat)
  | stealRequest (die : Nat)
  | stealRetry (die : Nat)
  | restoreListPass (die sheet : Nat)
  | preemptionRequest (die : Nat)
  | drainTimeout (sheet : Nat)
  | save (sheet : Nat)
  | flush (sheet : Nat)
  | sheetRetire (sheet : Nat)
  | launchRetire (launch : Nat)
  -- reliability (R427 to R440)
  | rollback (sheet gang : Nat) (consumed : Bool)
  | blotterSweep (bad : LostWords)
  | eccReencode (region : EccRegion) (bad : LostWords)
  | countersignReplay (audit : Nat)
  -- translation and migration (R417, R425)
  | pageWalk (ctx cluster page : Nat)
  | migrationCutover (id : Nat)
  -- power (R443 to R453)
  | boostIntervalBoundary (die : Nat)
  | permitRefill (die : Nat)
  | retentionEntry (cluster : Nat)
  | retentionWake (cluster : Nat)
  -- bring-up, ownership and commands (R457 to R469)
  | powerOn (r : PowerOnRecord)
  | claim (h : CmdHdr) (body : List Byte)
  | heartbeat (h : CmdHdr) (body : List Byte)
  | handover (h : CmdHdr) (body : List Byte)
  | leaseLapse
  | status (h : CmdHdr) (body : List Byte)
  | attest (h : CmdHdr) (body : List Byte)
  | notices (h : CmdHdr) (body : List Byte)
  | partCreate (h : CmdHdr) (body : List Byte)
  | partEnd (h : CmdHdr) (body : List Byte)
  | ctxCreate (h : CmdHdr) (body : List Byte)
  | ctxEnd (h : CmdHdr) (body : List Byte)
  | stewardLaunch (h : CmdHdr) (body : List Byte)
  | preempt (h : CmdHdr) (body : List Byte)
  | keyLoad (h : CmdHdr) (body : List Byte)
  | keyClear (h : CmdHdr) (body : List Byte)
  | keyGrant (h : CmdHdr) (body : List Byte)
  | replicate (h : CmdHdr) (body : List Byte)
  | migrate (h : CmdHdr) (body : List Byte)
  | region (h : CmdHdr) (body : List Byte)
  | clset (h : CmdHdr) (body : List Byte)
  | checkpoint (h : CmdHdr) (body : List Byte)
  | restore (h : CmdHdr) (body : List Byte)
  | reset (h : CmdHdr) (body : List Byte)
  | rdmaWrite (rkey : Nat) (va : Nat) (data : List Byte)
  | rdmaRead (rkey : Nat) (va len : Nat)
  | linkUnreachable (device : Nat)
  | reAdmission (who : Readmitted)
  | checkpointComplete (id : Nat)
  deriving DecidableEq, Repr

end Sys2Proof
end

