-- ==== Sys2Proof/Machine/Float.lean ====
section
/-! DEFINITION. The IEEE formats of R65 as exact values and the one rounding of R69: a value is read exactly, the
operation is exact, and the result is rounded once. Conversions, comparisons and classification follow R70 to R72. -/

namespace Sys2Proof.Machine

/-- A format of R65: mantissa bits and exponent bits. -/
structure Fmt where
  p : Nat
  e : Nat
  deriving DecidableEq, Repr

/-- binary32. -/
def fmt32 : Fmt := { p := 23, e := 8 }
/-- binary16. -/
def fmt16 : Fmt := { p := 10, e := 5 }
/-- BF16. -/
def fmtB16 : Fmt := { p := 7, e := 8 }
/-- binary64. -/
def fmt64 : Fmt := { p := 52, e := 11 }

/-- The exponent bias. -/
def Fmt.bias (f : Fmt) : Int := 2 ^ (f.e - 1) - 1
/-- The weight exponent of the last mantissa bit of a subnormal. -/
def Fmt.low (f : Fmt) : Int := 1 - f.bias - f.p
/-- The bits of +∞. -/
def Fmt.infBits (f : Fmt) : Nat := (2 ^ f.e - 1) * 2 ^ f.p
/-- The weight of the sign bit. -/
def Fmt.signBit (f : Fmt) : Nat := 2 ^ (f.e + f.p)
/-- The canonical NaN (R65). -/
def Fmt.nanBits (f : Fmt) : Nat := f.infBits + 2 ^ (f.p - 1)

/-- An exact value: NaN, an infinity, or (-1)^neg · m · 2^e. A zero keeps its sign. -/
inductive FVal where
  | nan
  | inf (neg : Bool)
  | fin (neg : Bool) (m : Nat) (e : Int)
  deriving DecidableEq, Repr

/-- The value of a code (R65). -/
def Fmt.read (f : Fmt) (w : Nat) : FVal :=
  let neg := w / f.signBit % 2 == 1
  let ex := w / 2 ^ f.p % 2 ^ f.e
  let m := w % 2 ^ f.p
  if ex == 2 ^ f.e - 1 then (if m == 0 then .inf neg else .nan)
  else if ex == 0 then .fin neg m f.low
  else .fin neg (2 ^ f.p + m) (f.low + ex - 1)

/-- Number of bits of a number. -/
def bitLen (m : Nat) : Nat := if m == 0 then 0 else m.log2 + 1

/-- Whether a discarded part raises the magnitude by one unit: `k` the kept part, `c` the discarded part against a
half unit, `inexact` whether anything is discarded (R68). -/
def roundUp (r : Rnd) (neg odd inexact : Bool) (c : Ordering) : Bool :=
  match r with
  | .rn => c == .gt || (c == .eq && odd)
  | .rz => false
  | .rp => !neg && inexact
  | .rm => neg && inexact

/-- Drop `s` bits of `m` (with `sticky` for a nonzero part below it) and round in mode `r`. -/
def dropBits (r : Rnd) (neg : Bool) (m s : Nat) (sticky : Bool) : Nat :=
  if s ≥ bitLen m + 2 then (if roundUp r neg false (m != 0 || sticky) .lt then 1 else 0)
  else
    let k := m / 2 ^ s
    let rem := m % 2 ^ s
    let c := if s == 0 then .lt else
      match compare rem (2 ^ (s - 1)) with
      | .eq => if sticky then .gt else .eq
      | o => o
    k + (if roundUp r neg (k % 2 == 1) (rem != 0 || sticky) c then 1 else 0)

/-- What overflow gives (R69). -/
def Fmt.overflow (f : Fmt) (r : Rnd) (neg : Bool) : Nat :=
  match r with
  | .rn => f.infBits
  | .rz => f.infBits - 1
  | .rp => if neg then f.infBits - 1 else f.infBits
  | .rm => if neg then f.infBits else f.infBits - 1

/-- Put a sign on a magnitude. -/
def Fmt.withSign (f : Fmt) (neg : Bool) (mag : Nat) : Nat := mag + (if neg then f.signBit else 0)

/-- Round (-1)^neg · m · 2^e, with `sticky` for a nonzero part below one unit of `m`, once into the format (R69). -/
def Fmt.round (f : Fmt) (r : Rnd) (neg : Bool) (m : Nat) (e : Int) (sticky : Bool) : Nat :=
  if m == 0 && !sticky then f.withSign neg 0
  else
    let q : Int := max (e + bitLen m - 1 - f.p) f.low
    let k := if q ≤ e then m * 2 ^ (e - q).toNat else dropBits r neg m (q - e).toNat sticky
    let bits := (q - f.low).toNat * 2 ^ f.p + k
    f.withSign neg (if bits ≥ f.infBits then f.overflow r neg else bits)

/-- The code of an exact value, rounded once; a NaN is the canonical one (R70). -/
def Fmt.write (f : Fmt) (r : Rnd) (v : FVal) : Nat :=
  match v with
  | .nan => f.nanBits
  | .inf neg => f.withSign neg f.infBits
  | .fin neg m e => f.round r neg m e false

/-- The value with its sign reversed. -/
def FVal.negate : FVal → FVal
  | .nan => .nan
  | .inf n => .inf (!n)
  | .fin n m e => .fin (!n) m e

/-- The exact value as a signed multiple of 2^e. -/
def scaled (neg : Bool) (m : Nat) (e lo : Int) : Int :=
  let k : Int := m * 2 ^ (e - lo).toNat
  if neg then -k else k

/-- The exact sum; an exact zero takes its sign by R70. -/
def FVal.add (r : Rnd) (a b : FVal) : FVal :=
  match a, b with
  | .nan, _ | _, .nan => .nan
  | .inf x, .inf y => if x == y then .inf x else .nan
  | .inf x, .fin .. => .inf x
  | .fin .., .inf y => .inf y
  | .fin n1 m1 e1, .fin n2 m2 e2 =>
    let lo := min e1 e2
    let s := scaled n1 m1 e1 lo + scaled n2 m2 e2 lo
    if s == 0 then
      .fin (if m1 == 0 && m2 == 0 && n1 == n2 then n1 else r == .rm) 0 lo
    else .fin (s < 0) s.natAbs lo

/-- The exact product (R70). -/
def FVal.mul (a b : FVal) : FVal :=
  match a, b with
  | .nan, _ | _, .nan => .nan
  | .inf x, .inf y => .inf (x != y)
  | .inf x, .fin n m _ => if m == 0 then .nan else .inf (x != n)
  | .fin n m _, .inf y => if m == 0 then .nan else .inf (n != y)
  | .fin n1 m1 e1, .fin n2 m2 e2 => .fin (n1 != n2) (m1 * m2) (e1 + e2)

/-- A · B rounded by the mode. -/
def Fmt.mul (f : Fmt) (r : Rnd) (a b : Nat) : Nat := f.write r ((f.read a).mul (f.read b))
/-- A + B rounded by the mode. -/
def Fmt.add (f : Fmt) (r : Rnd) (a b : Nat) : Nat := f.write r ((f.read a).add r (f.read b))
/-- A − B rounded by the mode (R70: the second operand is negated first). -/
def Fmt.sub (f : Fmt) (r : Rnd) (a b : Nat) : Nat := f.write r ((f.read a).add r (f.read b).negate)
/-- A · B + C rounded once (R69). -/
def Fmt.fma (f : Fmt) (r : Rnd) (a b c : Nat) : Nat :=
  f.write r (((f.read a).mul (f.read b)).add r (f.read c))

/-- A / B rounded by the mode (R251, R70). -/
def Fmt.div (f : Fmt) (r : Rnd) (a b : Nat) : Nat :=
  match f.read a, f.read b with
  | .nan, _ | _, .nan => f.nanBits
  | .inf _, .inf _ => f.nanBits
  | .inf x, .fin n _ _ => f.withSign (x != n) f.infBits
  | .fin n _ _, .inf y => f.withSign (n != y) 0
  | .fin n1 m1 e1, .fin n2 m2 e2 =>
    let neg := n1 != n2
    if m2 == 0 then (if m1 == 0 then f.nanBits else f.withSign neg f.infBits)
    else
      let k := f.p + 3 + bitLen m2
      let num := m1 * 2 ^ k
      f.round r neg (num / m2) (e1 - e2 - k) (num % m2 != 0)

/-- Integer square root by one bit at a time. -/
def isqrtGo (n : Nat) : Nat → Nat → Nat
  | 0, r => r
  | i + 1, r => isqrtGo n i (if (r + 2 ^ i) * (r + 2 ^ i) ≤ n then r + 2 ^ i else r)
/-- The integer square root. -/
def isqrt (n : Nat) : Nat := isqrtGo n (bitLen n / 2 + 1) 0

/-- The square root rounded by the mode (R251). -/
def Fmt.sqrt (f : Fmt) (r : Rnd) (a : Nat) : Nat :=
  match f.read a with
  | .nan => f.nanBits
  | .inf neg => if neg then f.nanBits else f.infBits
  | .fin neg m e =>
    if m == 0 then f.withSign neg 0
    else if neg then f.nanBits
    else
      let odd : Nat := (e % 2).toNat
      let k := f.p + 4
      let n := m * 2 ^ (odd + 2 * k)
      let q := isqrt n
      f.round r false q ((e - odd) / 2 - k) (q * q != n)

/-- 1 / sqrt(A), rounded RNE (R254). -/
def Fmt.rsqrt (f : Fmt) (a : Nat) : Nat :=
  match f.read a with
  | .nan => f.nanBits
  | .inf neg => if neg then f.nanBits else f.withSign false 0
  | .fin neg m e =>
    if m == 0 then f.withSign neg f.infBits
    else if neg then f.nanBits
    else
      let odd : Nat := (e % 2).toNat
      let m2 := m * 2 ^ odd
      let k := f.p + 4 + bitLen m2
      let q := isqrt (2 ^ (2 * k) / m2)
      f.round .rn false q (-(e - odd) / 2 - k) (q * q * m2 != 2 ^ (2 * k))

/-- The integer a finite value rounds to in a mode. -/
def roundInt (r : Rnd) (neg : Bool) (m : Nat) (e : Int) : Int :=
  let k : Nat := if 0 ≤ e then m * 2 ^ e.toNat else dropBits r neg m (-e).toNat false
  if neg then -(k : Int) else k

/-- Round to an integral value; a zero result keeps the sign (R253). -/
def Fmt.toIntegral (f : Fmt) (r : Rnd) (a : Nat) : Nat :=
  match f.read a with
  | .nan => f.nanBits
  | .inf neg => f.withSign neg f.infBits
  | .fin neg m e => f.round .rn neg (roundInt r neg m e).natAbs 0 false

/-- A · 2^n rounded by the mode (R251). -/
def Fmt.scale (f : Fmt) (r : Rnd) (a : Nat) (n : Int) : Nat :=
  match f.read a with
  | .nan => f.nanBits
  | .inf neg => f.withSign neg f.infBits
  | .fin neg m e => if m == 0 then f.withSign neg 0 else f.round r neg m (e + n) false

/-- A − floor(A) rounded RNE, with 1.0 replaced by the value below it (R253). -/
def Fmt.fract (f : Fmt) (a : Nat) : Nat :=
  match f.read a with
  | .nan => f.nanBits
  | .inf _ => f.nanBits
  | .fin neg m e =>
    if 0 ≤ e then 0
    else
      let s := (-e).toNat
      let x : Int := if neg then -(m : Int) else m
      let w := f.round .rn false (x % 2 ^ s).toNat e false
      if w == f.round .rn false 1 0 false then w - 1 else w

/-- Whether the code is a NaN. -/
def Fmt.isNaN (f : Fmt) (a : Nat) : Bool := f.read a == .nan

/-- An order key of a non-NaN code in which −0 is below +0 (R252). -/
def Fmt.key (f : Fmt) (a : Nat) : Int :=
  if a / f.signBit % 2 == 1 then -(a % f.signBit : Nat) - 1 else (a % f.signBit : Nat)

/-- The smaller operand by R252. -/
def Fmt.minBits (f : Fmt) (a b : Nat) : Nat :=
  if f.isNaN a then (if f.isNaN b then f.nanBits else b)
  else if f.isNaN b then a
  else if f.key b < f.key a then b else a
/-- The larger operand by R252. -/
def Fmt.maxBits (f : Fmt) (a b : Nat) : Nat :=
  if f.isNaN a then (if f.isNaN b then f.nanBits else b)
  else if f.isNaN b then a
  else if f.key a < f.key b then b else a

/-- A key in which the two zeros are equal, for comparisons (R255). -/
def Fmt.cmpKey (f : Fmt) (a : Nat) : Int :=
  if a / f.signBit % 2 == 1 then -(a % f.signBit : Nat) else (a % f.signBit : Nat)
/-- A < B, false on NaN. -/
def Fmt.lt (f : Fmt) (a b : Nat) : Bool := !f.isNaN a && !f.isNaN b && f.cmpKey a < f.cmpKey b
/-- A ≤ B, false on NaN. -/
def Fmt.le (f : Fmt) (a b : Nat) : Bool := !f.isNaN a && !f.isNaN b && f.cmpKey a ≤ f.cmpKey b
/-- A = B, false on NaN. -/
def Fmt.eq (f : Fmt) (a b : Nat) : Bool := !f.isNaN a && !f.isNaN b && f.cmpKey a == f.cmpKey b

/-- The comparisons of R255. -/
def fcmpHolds (c : FCmp) (a b : Nat) : Bool :=
  let f := fmt32
  let u := f.isNaN a || f.isNaN b
  match c with
  | .eq => f.eq a b
  | .ne => !u && !f.eq a b
  | .lt => f.lt a b
  | .le => f.le a b
  | .gt => f.lt b a
  | .ge => f.le b a
  | .ueq => u || f.eq a b
  | .une => u || !f.eq a b
  | .ult => u || f.lt a b
  | .ule => u || f.le a b
  | .ugt => u || f.lt b a
  | .uge => u || f.le b a
  | .num => !u
  | .nan => u

/-- The class bit of a code (R256). -/
def Fmt.classBit (f : Fmt) (a : Nat) : Nat :=
  match f.read a with
  | .nan => 8
  | .inf neg => if neg then 0 else 7
  | .fin neg m _ =>
    if m == 0 then (if neg then 3 else 4)
    else if m < 2 ^ f.p then (if neg then 2 else 5)
    else (if neg then 1 else 6)

/-- Clamp an exact integer. -/
def clampInt (x lo hi : Int) : Int := max lo (min x hi)

/-- A floating value as an integer of `w` bits, saturating; NaN is 0 (R72). -/
def toIntSat (r : Rnd) (signed : Bool) (w : Nat) (v : FVal) : Int :=
  let lo : Int := if signed then -(2 ^ (w - 1)) else 0
  let hi : Int := if signed then 2 ^ (w - 1) - 1 else 2 ^ w - 1
  match v with
  | .nan => 0
  | .inf neg => if neg then lo else hi
  | .fin neg m e => clampInt (roundInt r neg m e) lo hi

/-- An integer rounded into a format (R72). -/
def Fmt.ofInt (f : Fmt) (r : Rnd) (x : Int) : Nat := f.round r (x < 0) x.natAbs 0 false

/-- A code converted to another format (R72); a NaN is the canonical one. -/
def Fmt.convert (f g : Fmt) (r : Rnd) (a : Nat) : Nat := g.write r (f.read a)

/-- The exact sum of products of R83: NaN on NaN or opposite infinities, else an infinity, else the exact sum; a zero
sum is −0 when every term is −0. -/
def sumExact : List FVal → FVal
  | [] => .fin true 0 0
  | v :: vs =>
    match v, sumExact vs with
    | .nan, _ | _, .nan => .nan
    | .inf x, .inf y => if x == y then .inf x else .nan
    | .inf x, .fin .. => .inf x
    | .fin .., .inf y => .inf y
    | .fin n1 m1 e1, .fin n2 m2 e2 =>
      let lo := min e1 e2
      let s := scaled n1 m1 e1 lo + scaled n2 m2 e2 lo
      if s == 0 then .fin (n1 && m1 == 0 && n2 && m2 == 0) 0 lo else .fin (s < 0) s.natAbs lo

/-- FDOT2 (R259). -/
def fdot2Bits (h : Fmt) (r : Rnd) (a b c : Nat) : Nat :=
  let p0 := (h.read (a % 65536)).mul (h.read (b % 65536))
  let p1 := (h.read (a / 65536)).mul (h.read (b / 65536))
  let vc := fmt32.read c
  match sumExact [p0, p1, vc] with
  | .fin n 0 e =>
    let allPos := (match p0, p1, vc with
      | .fin n0 m0 _, .fin n1 m1 _, .fin n2 m2 _ =>
        !n0 && m0 == 0 && !n1 && m1 == 0 && !n2 && m2 == 0
      | _, _, _ => false)
    fmt32.write r (.fin (n || (r == .rm && !allPos)) 0 e)
  | v => fmt32.write r v

end Sys2Proof.Machine
end

