-- ==== Sys2Proof/WellFormed.lean ====
section
/-! DEFINITION. Which instructions the encoding can hold: the operand limits of R7, R53, R185 to R190 and of each
entry's forms table that do not depend on the sheet. Limits that depend on the sheet (N_v, N_a, R52) are checked when
the instruction executes. A row that is a step of the panel's own units has no encoding and is not well formed. -/

namespace Sys2Proof

/-- The register number within its class. -/
def Reg.num : Reg → Nat
  | .v n => n.val
  | .s n => n.val

/-- Whether the register is a vector register. -/
def Reg.isVec : Reg → Bool
  | .v _ => true
  | .s _ => false

/-- The last register number of the class (R51). -/
def Reg.last : Reg → Nat
  | .v _ => 191
  | .s _ => 63

/-- A pair is named by its even register (R7). -/
def Reg.okPair (r : Reg) (pair : Bool) : Bool := !pair || r.num % 2 == 0

/-- A group of `n` registers stays within its class (R268). -/
def Reg.okGroup (r : Reg) (n : Nat) : Bool := r.num + n ≤ r.last + 1

/-- A source is a register (even for a pair), a 32-bit immediate, or a 64-bit immediate in place of a pair (R190). -/
def Operand.ok (o : Operand) (pair : Bool) : Bool :=
  match o with
  | .reg r => r.okPair pair
  | .imm _ => true
  | .imm64 _ => pair

/-- Whether the source is an immediate. -/
def Operand.isImm : Operand → Bool
  | .reg _ => false
  | .imm _ => true
  | .imm64 _ => true

/-- Whether the source is a vector register. -/
def Operand.isVec : Operand → Bool
  | .reg r => r.isVec
  | .imm _ => false
  | .imm64 _ => false

/-- At most one source is an immediate (R189), and a uniform destination has no vector source (R53). -/
def okSources (d : Reg) (srcs : List Operand) : Bool :=
  (srcs.filter Operand.isImm).length ≤ 1 && (d.isVec || !(srcs.any Operand.isVec))

/-- One source. -/
def okAlu1 (pd pa : Bool) (d : Reg) (a : Operand) : Bool :=
  d.okPair pd && a.ok pa && okSources d [a]
/-- Two sources. -/
def okAlu2 (pd pa pb : Bool) (d : Reg) (a b : Operand) : Bool :=
  d.okPair pd && a.ok pa && b.ok pb && okSources d [a, b]
/-- Three sources. -/
def okAlu3 (pd pa pb pc : Bool) (d : Reg) (a b c : Operand) : Bool :=
  d.okPair pd && a.ok pa && b.ok pb && c.ok pc && okSources d [a, b, c]

/-- Two sources of a compare: 32-bit each, at most one immediate (R239). -/
def okCmp (comb : Combine) (a b : Operand) : Bool :=
  a.ok false && b.ok false && !(a.isImm && b.isImm) && (match comb with | .none => true | _ => true)

/-- How the data register of an access is grouped (R279). -/
def MemTy.okData (t : MemTy) (r : Reg) : Bool :=
  match t with
  | .b64 => r.num % 2 == 0
  | .b128 => r.num % 4 == 0
  | _ => true

/-- The access size a load reads. -/
def LoadTy.mem : LoadTy → MemTy
  | .b8 _ => .b8
  | .b16 _ => .b16
  | .b32 => .b32
  | .b64 => .b64
  | .b128 => .b128

/-- A uniform destination needs uniform sources (R53). -/
def okUniform (d : Reg) (srcs : List Reg) : Bool := d.isVec || !(srcs.any Reg.isVec)

/-- Whether an atomic works on 64-bit pairs (R293). -/
def AtomOp.wide : AtomOp → Bool
  | .add64 => true
  | .and t | .or t | .xor t | .exch t => t == .b64
  | _ => false
/-- Whether an aggregate works on 64-bit pairs (R293). -/
def AggOp.wide : AggOp → Bool
  | .add64 => true
  | .and t | .or t | .xor t => t == .b64
  | _ => false

/-- Specials of 64 bits (R60). -/
def specialWide (n : Nat) : Bool := n == 3 || n == 4 || n == 7 || n == 8 || n == 9 || n == 10
/-- Specials of lane scope (R60). -/
def specialLane (n : Nat) : Bool := n == 0 || n == 10

/-- The last element index of a narrow type is held in the type itself; `.b32` has a pair on one side (R260). -/
def NarrowTy.isB32 : NarrowTy → Bool
  | .b32 _ => true
  | _ => false

/-- Whether the source format of a conversion is a pair (R260). -/
def CvtSrc.wide : CvtSrc → Bool
  | .f64 => true
  | _ => false
/-- Whether the source integer of a conversion is a pair (R260). -/
def CvtInt.wide : CvtInt → Bool
  | .i64 | .n64 => true
  | _ => false

/-- A displacement is a multiple of 4 (R216). -/
def okDisp (w : Word) : Bool := w.toNat % 4 == 0

/-- The operand of SYSWR for a register of 64 or 32 bits (R368). -/
def SysOperand.ok (o : SysOperand) (wide : Bool) : Bool :=
  match o with
  | .s n => !wide || n.val % 2 == 0
  | .imm _ => true
  | .imm64 _ => wide

/-- A broken type of NRED is one that R276 does not give the operation: integer or binary32 to .add, .min and .max, and .b32 to the
others. -/
def NredOp.ok (op : NredOp) : Bool :=
  match op with
  | .fold _ => true
  | .broken sub t => if sub.val < 3 then !([5, 6, 7].contains t.val) else t.val != 3

/-- The forms a fold accepts are built into FoldOp (R276); its sources are one register. -/
def okFold (d : Reg) (a : Reg) : Bool := d.isVec || !a.isVec

/-- Whether the encoding can hold the instruction. -/
def Instr.wellFormed : Instr → Bool
  | .nop _ | .exit _ | .yield _ | .trap _ | .bkpt _ | .trapImm _ _ | .nap _ _ | .napImm _ _ | .perf _ _
  | .perfImm _ _ | .mleave _ _ | .brx _ _ | .callx _ _ _ | .ret _ _ => true
  | .bra _ o | .call _ _ o | .meet _ _ o | .forkM _ o | .forkC _ o => okDisp o
  | .iadd _ ty sat d a b | .isub _ ty sat d a b =>
    okAlu2 (ty == .b64) (ty == .b64) (ty == .b64) d a b && !(sat && ty == .b64)
  | .iadd3 _ _ d a b c | .imad _ _ d a b c | .clamp _ _ d a b c | .fsh _ _ d a b c | .bfi _ d a b c
  | .bytesel _ d a b c | .ffma _ _ d a b c | .hfma2 _ _ _ d a b c | .fdot2 _ _ _ d a b c
  | .nfpack _ _ d a b c | .nfunp _ _ d a b c => okAlu3 false false false false d a b c
  | .imadw _ _ d a b c => okAlu3 true false false true d a b c
  | .imul _ _ d a b | .imulh _ _ d a b | .idiv _ _ d a b | .irem _ _ d a b | .imin _ _ d a b | .imax _ _ d a b
  | .bfx _ _ d a b | .fadd _ _ d a b | .fsub _ _ d a b | .fmul _ _ d a b | .fmin _ d a b | .fmax _ d a b
  | .fscale _ _ d a b | .fdiv _ _ d a b | .hadd2 _ _ _ d a b | .hmul2 _ _ _ d a b | .hmin2 _ _ d a b
  | .hmax2 _ _ d a b => okAlu2 false false false d a b
  | .iabs _ _ d a | .ineg _ _ d a | .popc _ d a | .clz _ d a | .ctz _ d a | .brev _ d a
  | .frnd _ _ d a | .ffract _ d a | .frcp _ _ d a | .frsq _ d a | .fsqrt _ _ d a | .fexp2 _ d a | .flog2 _ d a
  | .fsin _ d a | .fcos _ d a => okAlu1 false false d a
  | .fclass _ ty hi d a => okAlu1 false false d a && !(hi && ty == .f32)
  | .and _ ty d a b | .or _ ty d a b | .xor _ ty d a b | .andn _ ty d a b | .orn _ ty d a b =>
    okAlu2 (ty == .b64) (ty == .b64) (ty == .b64) d a b
  | .shl _ ty d a b | .shr _ ty d a b | .sar _ ty d a b | .rot _ ty d a b =>
    okAlu2 (ty == .b64) (ty == .b64) false d a b
  | .lea _ _ _ d a b => okAlu2 true true false d a b
  | .icmp _ _ _ comb _ a b | .fcmp _ _ comb _ a b => okCmp comb a b
  | .sel _ ty _ _ d a b => okAlu2 (ty == .b64) (ty == .b64) (ty == .b64) (.v d) a b
  | .pcomb _ _ _ _ _ _ | .psetmMask _ _ _ | .pmovToReg _ _ _ | .pmovToPred _ _ _ | .vote _ _ _ _ _ => true
  | .psetm _ _ a => a.val % 2 == 0
  | .pmovFromMask _ _ d => d.val % 2 == 0
  | .mov _ ty d a => okAlu1 (ty == .b64) (ty == .b64) d a
  | .movi _ ty d a => okAlu1 (ty == .b64) (ty == .b64) d a && a.isImm
  | .movs _ n d => d.okPair (specialWide n.val) && (d.isVec || !specialLane n.val)
  | .cvtfi _ _ wide src _ d a => okAlu1 wide src.wide d a
  | .cvtif _ _ src _ d a => okAlu1 false src.wide d a
  | .cvtff _ dst src _ d a pk =>
    match pk with
    | none => okAlu1 (dst == .f64) src.wide d a
    | some b => okAlu2 false false false d a b && (dst == .f16 || dst == .bf16) && src == .f32
  | .iwiden _ ty d a => okAlu1 ty.isB32 false d a
  | .inarrow _ ty _ d a b =>
    match b with
    | none => okAlu1 false true d a && ty.isB32
    | some b => okAlu2 false false false d a b && !ty.isB32
  | .scaleblk _ d a b c => okAlu3 false false false false d a b c && !b.isVec
  | .rbox _ _ d a b => d.val % 2 == 0 && a.okGroup 8 && b.okGroup 6
  | .rtri _ _ _ d a b => Reg.okGroup (.v d) 3 && a.okGroup 8 && b.okGroup 9
  | .shfl _ ty mode d a =>
    Reg.okPair (.v d) (ty == .b64) && a.okPair (ty == .b64) &&
      (match mode with | none => true | some (_, b) => b.ok false)
  | .ballot _ d _ _ => d.val % 2 == 0
  | .match_ _ ty _ d a => d.val % 2 == 0 && a.okPair (ty == .b64)
  | .gred _ _ d a => okFold d a
  | .gscan _ _ _ _ _ => true
  | .ld _ ty d a _ => ty.mem.okData d && a.okPair true && okUniform d [a]
  | .st _ ty a _ b => ty.okData b && a.okPair true
  | .stF _ ty a _ b _ => ty.okData b && a.okPair true
  | .lds _ ty d a _ | .ldc _ ty d a _ => ty.mem.okData d && okUniform d a.toList
  | .sts _ ty _ _ b => ty.okData b
  | .ldq _ _ _ d _ _ _ => Reg.okGroup (.v d) 6
  | .pref _ _ a _ => a.okPair true
  | .sptest _ _ _ _ => true
  | .atom _ op d a _ b => d.okPair op.wide && b.okPair op.wide && a.okPair true && okUniform d [a, b]
  | .atoms _ op d a _ b => d.okPair op.wide && b.okPair op.wide && okUniform d (b :: a.toList)
  | .cas _ ty d a _ b c =>
    d.okPair (ty == .b64) && b.okPair (ty == .b64) && c.okPair (ty == .b64) && a.okPair true && okUniform d [a, b, c]
  | .red _ op a _ b => b.okPair op.wide && a.okPair true
  | .atagg _ op d a _ b => d.okPair op.wide && b.okPair op.wide && a.val % 2 == 0 && okUniform d [b]
  | .fenceG _ | .fenceS _ | .fenceC _ _ _ | .bar _ _ _ | .barArrive _ _ | .barinit _ _ _ _ | .barinv _ _
  | .qinit _ _ _ | .qpush _ _ _ | .qpop _ _ _ _ | .qtry _ _ _ _ | .qclose _ _ | .fopen _ _ _ | .fclose _ _ => true
  | .launch _ _ a => match a with | .s n => n.val % 2 == 0 | .imm64 _ => true
  | .mma _ ty _ z _ _ c =>
    match c with
    | none => ty != .nf
    | some r => ty == .nf && !z && r.okGroup 2
  | .accz _ _ | .accrdV _ _ _ | .accrdSp _ _ _ _ | .accwrV _ _ _ | .accwrSp _ _ _ _ => true
  | .accrdT _ _ d => d.val % 2 == 0
  | .accwrT _ _ a => a.val % 2 == 0
  | .rdvThread _ _ _ | .rdvSequencer _ | .mmat .. | .mvsScale _ _ _ _ _ _ | .mvsSt _ _ _ _ | .mvsStbf _ _ _ _ | .mvsLd _ _ _ _ =>
    true
  | .cpl _ dir _ dst src =>
    match dir with
    | .gs => src.okPair true
    | .sg _ => dst.okPair true
    | .gg _ => src.okPair true && dst.okPair true
  | .cptIn _ _ _ _ | .cptOut _ _ _ _ _ | .ownEng _ _ _ | .ownThr _ _ _ => true
  | .residOpen _ _ _ a b => a.val % 2 == 0 && b.val % 2 == 0
  | .residPrio _ _ _ _ | .residClose _ _ _ | .nxch _ _ _ => true
  | .nred _ op _ _ => op.ok
  | .nbc _ _ root _ => root.val % 2 == 0
  | .emit _ _ a b _ => a.okGroup 11 && b.val % 2 == 0
  | .emitend _ _ _ => true
  | .sysrd _ _ wide d => !wide || d.val % 2 == 0
  | .syswr _ num wide a => a.ok wide && !(num == 3 && wide) && !(num == 4 && !wide)
  | .syswrTtb _ a => a.ok true
  | .syswrCeil _ a => a.ok false
  | .eret _ | .tlbinvCtx _ | .halt _ _ | .wdclr _ | .stamp _ _ => true
  | .tlbinvPage _ a | .invrep _ a | .tlbinvRange _ a _ | .invrepRange _ a _ | .ctxsaveCopy _ _ a
  | .ctxsavePark _ _ a | .ctxload _ _ a => a.val % 2 == 0
  | .napEnd .. | .writeAtHome .. | .barrierWaveRelease .. | .folioClose .. | .copyCompletion ..
  | .collectiveCompletion .. | .primitivePacket .. | .closeMarker .. | .rasteriseGroup .. | .drawAdvance ..
  | .replicaConversion .. | .asyncErrorDelivery .. | .deadlockWatchdog .. | .externalWaitTimeout ..
  | .supervisorWatchdog .. | .weightWindowOpen .. | .placeSheet .. | .stealRequest .. | .stealRetry ..
  | .restoreListPass .. | .preemptionRequest .. | .drainTimeout .. | .save .. | .flush .. | .sheetRetire ..
  | .launchRetire .. | .rollback .. | .blotterSweep .. | .eccReencode .. | .countersignReplay .. | .pageWalk ..
  | .migrationCutover .. | .boostIntervalBoundary .. | .permitRefill .. | .retentionEntry .. | .retentionWake ..
  | .powerOn .. | .claim .. | .heartbeat .. | .handover .. | .leaseLapse | .status .. | .attest .. | .notices ..
  | .partCreate .. | .partEnd .. | .ctxCreate .. | .ctxEnd .. | .stewardLaunch .. | .preempt .. | .keyLoad ..
  | .keyClear .. | .keyGrant .. | .replicate .. | .migrate .. | .region .. | .clset .. | .checkpoint ..
  | .restore .. | .reset .. | .rdmaWrite .. | .rdmaRead .. | .linkUnreachable .. | .reAdmission ..
  | .checkpointComplete .. => false

end Sys2Proof
end

