-- ==== Sys2Proof/Decode.lean ====
section
/-! DEFINITION. The instruction words: fields of R184 and R187, decoding by the opcode map of R192 and the forms
tables, each refusal by the name of the check of R194 it fails, and the encoder written from the same tables. -/

namespace Sys2Proof

/-- The check of R194 an instruction fails at decode. Every one of them is the illegal-instruction trap. -/
inductive Reject where
  /-- Item 1: length code 0b11 on a word that is not a pad (R181). -/
  | badLength
  /-- Item 2: the instruction crosses its 32-byte block (R182). -/
  | crossesBlock
  /-- Item 3: an unassigned opcode (R192). -/
  | unassigned
  /-- Item 4: length and ISEL form no form of the entry (R191). -/
  | badForm
  /-- Item 5: SUB, TYPE, XMOD or RND holds a value the entry does not assign. -/
  | badModifier
  /-- Item 6: an unused operand field is nonzero (R185). -/
  | unusedField
  /-- Item 7: an odd pair register or a misplaced group of four (R7, R279). -/
  | oddPair
  /-- Item 7: a group passes the last register of its class (R268). -/
  | badGroup
  /-- Item 7: a uniform destination with a vector source (R53). -/
  | uniformDestination
  /-- Item 8: the extension word or the immediate breaks its layout (R190, R216, R241). -/
  | badExtension
  /-- Item 9: an operand code of a class the field does not allow. -/
  | badClass
  /-- A special or a lane-scope special that MOVS cannot write there (R60). -/
  | badSpecial
  /-- Fewer bytes than the length code asks for. -/
  | truncated
  deriving DecidableEq, Repr

/-- The fields of an instruction word (R184, R187); `ext` is bits 127:64 as far as the length goes. -/
structure Fields where
  len : Nat
  opc : Nat
  grd : Nat
  dst : Nat := 0
  sra : Nat := 0
  srb : Nat := 0
  src : Nat := 0
  rnd : Nat := 0
  xmod : Nat := 0
  type : Nat := 0
  isel : Nat := 0
  sub : Nat := 0
  ext : Nat := 0
  deriving DecidableEq, Repr

/-- Every field within its width; `ext` within the length's bits. -/
def Fields.inRange (f : Fields) : Bool :=
  f.len < 3 && f.opc < 256 && f.grd < 16 && f.dst < 256 && f.sra < 256 && f.srb < 256 && f.src < 256 && f.rnd < 4 &&
  f.xmod < 64 && f.type < 16 && f.isel < 4 && f.sub < 16 &&
  f.ext < (if f.len == 0 then 1 else if f.len == 1 then 4294967296 else 18446744073709551616)

/-- The word as one number, bit 0 first (R184, R187, R189, R190). -/
def Fields.pack (f : Fields) : Nat :=
  f.len + 4 * (f.opc + 256 * (f.grd + 16 * (f.dst + 256 * (f.sra + 256 * (f.srb + 256 * (f.src + 256 * (f.rnd +
    4 * (f.xmod + 64 * (f.type + 16 * (f.isel + 4 * (f.sub + 16 * f.ext)))))))))))

/-- The fields of a word (R184, R187). -/
def Fields.unpack (w : Nat) : Fields :=
  { len := w % 4, opc := w / 4 % 256, grd := w / 1024 % 16, dst := w / 16384 % 256, sra := w / 4194304 % 256
    srb := w / 1073741824 % 256, src := w / 274877906944 % 256, rnd := w / 70368744177664 % 4
    xmod := w / 281474976710656 % 64, type := w / 18014398509481984 % 16, isel := w / 288230376151711744 % 4
    sub := w / 1152921504606846976 % 16, ext := w / 18446744073709551616 }

/-- The bytes of an instruction of the length code (R181). -/
def lengthBytes (len : Nat) : Nat := 8 + 4 * len

/-- The guard of a word (R184). -/
def Fields.guard (f : Fields) : Guard := { neg := f.grd / 8 == 1, p := Fin.ofNat 8 f.grd }
/-- The code of a guard. -/
def Guard.code (g : Guard) : Nat := g.p.val + (if g.neg then 8 else 0)

/-- The register of an operand code (R185). -/
def Reg.ofCode (c : Nat) : Reg := if h : c < 192 then .v ⟨c, h⟩ else .s (Fin.ofNat 64 (c - 192))
/-- The operand code of a register (R185). -/
def Reg.code : Reg → Nat
  | .v n => n.val
  | .s n => n.val + 192

/-- Fail with `r` unless `b` holds. -/
def need (b : Bool) (r : Reject) : Except Reject Unit := if b then .ok () else .error r

/-- The form is exactly this length code and ISEL (R191). -/
def Fields.form (f : Fields) (len isel : Nat) : Except Reject Unit := need (f.len == len && f.isel == isel) .badForm

/-- SUB, TYPE, XMOD and RND hold exactly these values. -/
def Fields.mods (f : Fields) (sub type xmod rnd : Nat) : Except Reject Unit :=
  need (f.sub == sub && f.type == type && f.xmod == xmod && f.rnd == rnd) .badModifier

/-- The operand fields marked unused are zero (R185). -/
def Fields.unused (f : Fields) (d a b c : Bool) : Except Reject Unit :=
  need ((!d || f.dst == 0) && (!a || f.sra == 0) && (!b || f.srb == 0) && (!c || f.src == 0)) .unusedField

/-- A register operand, even for a pair (R7). -/
def regOf (c : Nat) (pair : Bool) : Except Reject Reg :=
  if pair && c % 2 == 1 then .error .oddPair else .ok (Reg.ofCode c)

/-- A vector register operand. -/
def vecOf (c : Nat) (pair : Bool) : Except Reject (Fin 192) :=
  if h : c < 192 then (if pair && c % 2 == 1 then .error .oddPair else .ok ⟨c, h⟩) else .error .badClass

/-- A uniform register operand. -/
def uniOf (c : Nat) (pair : Bool) : Except Reject (Fin 64) :=
  if c < 192 then .error .badClass
  else if pair && c % 2 == 1 then .error .oddPair else .ok (Fin.ofNat 64 (c - 192))

/-- The operand field of source 1, 2 or 3. -/
def Fields.field (f : Fields) (k : Nat) : Nat := if k == 1 then f.sra else if k == 2 then f.srb else f.src

/-- Source `k`: a register, or the immediate that ISEL puts in its place (R189, R190). -/
def Fields.source (f : Fields) (k : Nat) (pair : Bool) : Except Reject Operand :=
  if f.isel == k then
    if f.field k != 0 then .error .unusedField
    else if f.len == 1 then .ok (.imm (BitVec.ofNat 32 f.ext))
    else if pair then .ok (.imm64 (BitVec.ofNat 64 f.ext))
    else .error .badForm
  else (regOf (f.field k) pair).map .reg

/-- The forms of R227 for `n` sources. -/
def Fields.aluForm (f : Fields) (n : Nat) : Except Reject Unit :=
  need ((f.len == 0 && f.isel == 0) || (1 ≤ f.len && 1 ≤ f.isel && f.isel ≤ n)) .badForm

/-- A uniform destination has no vector source (R53). -/
def uniformRule (d : Reg) (srcs : List Operand) : Except Reject Unit :=
  need (d.isVec || !(srcs.any Operand.isVec)) .uniformDestination

/-- Destination and one source. -/
def Fields.alu1 (f : Fields) (pd pa : Bool) : Except Reject (Reg × Operand) := do
  f.aluForm 1
  f.unused false false true true
  let d ← regOf f.dst pd
  let a ← f.source 1 pa
  uniformRule d [a]
  return (d, a)

/-- Destination and two sources. -/
def Fields.alu2 (f : Fields) (pd pa pb : Bool) : Except Reject (Reg × Operand × Operand) := do
  f.aluForm 2
  f.unused false false false true
  let d ← regOf f.dst pd
  let a ← f.source 1 pa
  let b ← f.source 2 pb
  uniformRule d [a, b]
  return (d, a, b)

/-- Destination and three sources. -/
def Fields.alu3 (f : Fields) (pd pa pb pc : Bool) : Except Reject (Reg × Operand × Operand × Operand) := do
  f.aluForm 3
  let d ← regOf f.dst pd
  let a ← f.source 1 pa
  let b ← f.source 2 pb
  let c ← f.source 3 pc
  uniformRule d [a, b, c]
  return (d, a, b, c)

/-- .i32 or .n32 (R188). -/
def intTy (t : Nat) : Except Reject IntTy :=
  if t == 5 then .ok .i32 else if t == 6 then .ok .n32 else .error .badModifier
/-- The code of an integer type (R188). -/
def IntTy.code : IntTy → Nat
  | .i32 => 5
  | .n32 => 6
/-- .i32, .n32 or .b64 (R226). -/
def addTy (t : Nat) : Except Reject AddTy :=
  if t == 5 then .ok .i32 else if t == 6 then .ok .n32 else if t == 4 then .ok .b64 else .error .badModifier
/-- The code of an addition type (R188). -/
def AddTy.code : AddTy → Nat
  | .i32 => 5
  | .n32 => 6
  | .b64 => 4
/-- .b32 or .b64. -/
def bitTy (t : Nat) : Except Reject BitTy :=
  if t == 3 then .ok .b32 else if t == 4 then .ok .b64 else .error .badModifier
/-- .b32, .b64 or the omitted type that means .b32 (R244, R245, R272). -/
def bitTy0 (t : Nat) : Except Reject BitTy := if t == 0 then .ok .b32 else bitTy t
/-- The code of a bit type (R188). -/
def BitTy.code : BitTy → Nat
  | .b32 => 3
  | .b64 => 4
/-- .f32, written or omitted (R247), .f16 or .bf16. -/
def floatTy (t : Nat) : Except Reject FloatTy :=
  if t == 0 || t == 7 then .ok .f32 else if t == 8 then .ok .f16 else if t == 9 then .ok .bf16 else .error .badModifier
/-- The code of a floating type (R188). -/
def FloatTy.code : FloatTy → Nat
  | .f32 => 7
  | .f16 => 8
  | .bf16 => 9
/-- .f16 or .bf16 (R257). -/
def halfTy (t : Nat) : Except Reject HalfTy :=
  if t == 8 then .ok .f16 else if t == 9 then .ok .bf16 else .error .badModifier
/-- The code of a paired element format (R188). -/
def HalfTy.code : HalfTy → Nat
  | .f16 => 8
  | .bf16 => 9
/-- The rounding mode of an RND value (R68). -/
def rndOf (r : Nat) : Rnd := if r == 0 then .rn else if r == 1 then .rz else if r == 2 then .rp else .rm
/-- The RND value of a rounding mode (R68). -/
def Rnd.code : Rnd → Nat
  | .rn => 0
  | .rz => 1
  | .rp => 2
  | .rm => 3
/-- The comparison of ICMP (R239). -/
def icmpOf (s : Nat) : Except Reject ICmp :=
  match s with
  | 0 => .ok .eq | 1 => .ok .ne | 2 => .ok .lt | 3 => .ok .le | 4 => .ok .gt | 5 => .ok .ge
  | _ => .error .badModifier
/-- The SUB value of a comparison (R239). -/
def ICmp.code : ICmp → Nat
  | .eq => 0 | .ne => 1 | .lt => 2 | .le => 3 | .gt => 4 | .ge => 5
/-- The comparison of FCMP (R255). -/
def fcmpOf (s : Nat) : Except Reject FCmp :=
  match s with
  | 0 => .ok .eq | 1 => .ok .ne | 2 => .ok .lt | 3 => .ok .le | 4 => .ok .gt | 5 => .ok .ge
  | 6 => .ok .ueq | 7 => .ok .une | 8 => .ok .ult | 9 => .ok .ule | 10 => .ok .ugt | 11 => .ok .uge
  | 12 => .ok .num | 13 => .ok .nan
  | _ => .error .badModifier
/-- The SUB value of a floating comparison (R255). -/
def FCmp.code : FCmp → Nat
  | .eq => 0 | .ne => 1 | .lt => 2 | .le => 3 | .gt => 4 | .ge => 5
  | .ueq => 6 | .une => 7 | .ult => 8 | .ule => 9 | .ugt => 10 | .uge => 11 | .num => 12 | .nan => 13
/-- The combining operation of RND and pq (R239). -/
def combineOf (rnd q : Nat) : Except Reject Combine :=
  match rnd with
  | 0 => if q == 0 then .ok .none else .error .badModifier
  | 1 => .ok (.and (Fin.ofNat 8 q))
  | 2 => .ok (.or (Fin.ofNat 8 q))
  | _ => .ok (.xor (Fin.ofNat 8 q))
/-- RND of a combining operation. -/
def Combine.rnd : Combine → Nat
  | .none => 0 | .and _ => 1 | .or _ => 2 | .xor _ => 3
/-- pq of a combining operation. -/
def Combine.pq : Combine → Nat
  | .none => 0 | .and q => q.val | .or q => q.val | .xor q => q.val

/-- The source format of CVTFI and CVTFF: XMOD 49:48, and XMOD 50 `.hi` (R260). -/
def cvtSrcOf (x : Nat) (hi : Bool) : Except Reject CvtSrc :=
  match x with
  | 0 => if hi then .error .badModifier else .ok .f32
  | 1 => .ok (.f16 hi)
  | 2 => .ok (.bf16 hi)
  | _ => if hi then .error .badModifier else .ok .f64
/-- XMOD 50:48 of a conversion source. -/
def CvtSrc.code : CvtSrc → Nat
  | .f32 => 0 | .f16 hi => 1 + (if hi then 4 else 0) | .bf16 hi => 2 + (if hi then 4 else 0) | .f64 => 3
/-- The source format of CVTIF (R260). -/
def cvtIntOf (x : Nat) : CvtInt :=
  match x with
  | 0 => .i32 | 1 => .n32 | 2 => .i64 | _ => .n64
/-- XMOD 49:48 of an integer source. -/
def CvtInt.code : CvtInt → Nat
  | .i32 => 0 | .n32 => 1 | .i64 => 2 | .n64 => 3
/-- The destination format of CVTFF (R260). -/
def cvtDstOf (t : Nat) : Except Reject CvtDst :=
  if t == 0 || t == 7 then .ok .f32 else if t == 8 then .ok .f16 else if t == 9 then .ok .bf16
  else if t == 4 then .ok .f64 else .error .badModifier
/-- TYPE of a conversion destination. -/
def CvtDst.code : CvtDst → Nat
  | .f32 => 7 | .f16 => 8 | .bf16 => 9 | .f64 => 4
/-- The narrow type of IWIDEN and INARROW: TYPE, element index and `.sx` (R260). -/
def narrowOf (t k : Nat) (sx : Bool) : Except Reject NarrowTy :=
  if t == 11 && !sx && k < 4 then .ok (.i8 (Fin.ofNat 4 k))
  else if t == 12 && !sx && k < 4 then .ok (.n8 (Fin.ofNat 4 k))
  else if t == 13 && !sx then .ok (.i4 (Fin.ofNat 8 k))
  else if t == 14 && !sx then .ok (.n4 (Fin.ofNat 8 k))
  else if t == 2 && k < 2 then .ok (.b16 (Fin.ofNat 2 k) sx)
  else if t == 3 && k == 0 then .ok (.b32 sx)
  else .error .badModifier
/-- TYPE of a narrow type. -/
def NarrowTy.code : NarrowTy → Nat
  | .i8 _ => 11 | .n8 _ => 12 | .i4 _ => 13 | .n4 _ => 14 | .b16 _ _ => 2 | .b32 _ => 3
/-- XMOD 51:48 of a narrow type. -/
def NarrowTy.xmod : NarrowTy → Nat
  | .i8 k => k.val | .n8 k => k.val | .i4 k => k.val | .n4 k => k.val
  | .b16 k sx => k.val + (if sx then 8 else 0) | .b32 sx => if sx then 8 else 0

/-- The operation of a fold: SUB, TYPE and RND (R276). -/
def foldOf (sub type rnd : Nat) (omitted : Bool) : Except Reject FoldOp :=
  let isF := type == 7 || (omitted && type == 0)
  match sub with
  | 0 =>
    if isF then .ok (.addF (rndOf rnd))
    else if rnd != 0 then .error .badModifier
    else (intTy type).map .addI
  | 1 => if rnd != 0 then .error .badModifier else if isF then .ok .minF else (intTy type).map .minI
  | 2 => if rnd != 0 then .error .badModifier else if isF then .ok .maxF else (intTy type).map .maxI
  | 3 => if rnd == 0 && type == 3 then .ok .and else .error .badModifier
  | 4 => if rnd == 0 && type == 3 then .ok .or else .error .badModifier
  | 5 => if rnd == 0 && type == 3 then .ok .xor else .error .badModifier
  | _ => .error .badModifier
/-- SUB of a fold. -/
def FoldOp.sub : FoldOp → Nat
  | .addI _ | .addF _ => 0 | .minI _ | .minF => 1 | .maxI _ | .maxF => 2 | .and => 3 | .or => 4 | .xor => 5
/-- TYPE of a fold. -/
def FoldOp.type : FoldOp → Nat
  | .addI t | .minI t | .maxI t => t.code | .addF _ | .minF | .maxF => 7 | .and | .or | .xor => 3
/-- RND of a fold. -/
def FoldOp.rnd : FoldOp → Nat
  | .addF r => r.code | _ => 0

/-- The operation of NRED (R338): a type that breaks R276 decodes, and check 2 finds it. That SUB above 5
and RND other than 0 beside .add.f32 are values the entry does not assign, and so fail decode, is the model's choice (log entry 89). -/
def nredOf (sub type rnd : Nat) : Except Reject NredOp :=
  match foldOf sub type rnd false with
  | .ok op => .ok (.fold op)
  | .error r =>
    if h : sub < 6 ∧ rnd = 0 then
      match foldOf sub type 0 false with
      | .ok _ => .error r
      | .error _ => .ok (.broken ⟨sub, h.1⟩ (Fin.ofNat 16 type))
    else .error r
/-- SUB of NRED. -/
def NredOp.sub : NredOp → Nat
  | .fold op => op.sub | .broken k _ => k.val
/-- TYPE of NRED. -/
def NredOp.type : NredOp → Nat
  | .fold op => op.type | .broken _ t => t.val
/-- RND of NRED. -/
def NredOp.rnd : NredOp → Nat
  | .fold op => op.rnd | .broken .. => 0
/-- Whether the type is one R276 gives the operation. -/
def NredOp.legal : NredOp → Bool
  | .fold _ => true | .broken .. => false
/-- The fold, when it is legal. -/
def NredOp.get : NredOp → FoldOp
  | .fold op => op | .broken .. => .and

/-- The access size of a store: TYPE and X2 (R279). -/
def memTyOf (type : Nat) (x2 : Bool) : Except Reject MemTy :=
  match type with
  | 1 => if x2 then .error .badModifier else .ok .b8
  | 2 => if x2 then .error .badModifier else .ok .b16
  | 3 => if x2 then .error .badModifier else .ok .b32
  | 4 => .ok (if x2 then .b128 else .b64)
  | _ => .error .badModifier
/-- TYPE of an access size. -/
def MemTy.code : MemTy → Nat
  | .b8 => 1 | .b16 => 2 | .b32 => 3 | .b64 | .b128 => 4
/-- XMOD of an access size: X2 (R277). -/
def MemTy.xmod : MemTy → Nat
  | .b128 => 8 | _ => 0
/-- The type of a load: TYPE, X2 and SX (R279). -/
def loadTyOf (type : Nat) (x2 sx : Bool) : Except Reject LoadTy :=
  match type with
  | 1 => if x2 then .error .badModifier else .ok (.b8 sx)
  | 2 => if x2 then .error .badModifier else .ok (.b16 sx)
  | 3 => if x2 || sx then .error .badModifier else .ok .b32
  | 4 => if sx then .error .badModifier else .ok (if x2 then .b128 else .b64)
  | _ => .error .badModifier
/-- XMOD of a load: X2 and SX (R277). -/
def LoadTy.xmod : LoadTy → Nat
  | .b8 sx | .b16 sx => if sx then 4 else 0
  | .b128 => 8
  | _ => 0

/-- The offset form of R278. -/
def Fields.offset (f : Fields) : Except Reject (Option Word) :=
  if f.isel != 0 then .error .badForm
  else if f.len == 0 then .ok none
  else if f.len == 1 then .ok (some (BitVec.ofNat 32 f.ext))
  else .error .badForm

/-- The base of a scratchpad or constant address; NB is MOD bit 53 (R277, R278). -/
def Fields.base (f : Fields) (nb : Bool) : Except Reject (Option Reg) :=
  if nb then (if f.sra == 0 then .ok none else .error .unusedField) else .ok (some (Reg.ofCode f.sra))

/-- The data register of an access (R279). -/
def dataOf (c : Nat) (t : MemTy) : Except Reject Reg :=
  let r := Reg.ofCode c
  if t.okData r then .ok r else .error .oddPair

/-- A uniform destination needs uniform sources (R53), by register. -/
def uniformRegs (d : Reg) (srcs : List Reg) : Except Reject Unit := need (okUniform d srcs) .uniformDestination

/-- The operation of ATOM, ATOMS and RED (R293). -/
def atomOf (sub type : Nat) : Except Reject AtomOp :=
  match sub with
  | 0 => if type == 7 then .ok .addF else if type == 4 then .ok .add64 else (intTy type).map .addI
  | 1 => if type == 7 then .ok .minF else (intTy type).map .minI
  | 2 => if type == 7 then .ok .maxF else (intTy type).map .maxI
  | 3 => (bitTy type).map .and
  | 4 => (bitTy type).map .or
  | 5 => (bitTy type).map .xor
  | 6 => (bitTy type).map .exch
  | _ => .error .badModifier
/-- SUB of an atomic operation. -/
def AtomOp.sub : AtomOp → Nat
  | .addI _ | .addF | .add64 => 0 | .minI _ | .minF => 1 | .maxI _ | .maxF => 2 | .and _ => 3 | .or _ => 4
  | .xor _ => 5 | .exch _ => 6
/-- TYPE of an atomic operation. -/
def AtomOp.type : AtomOp → Nat
  | .addI t | .minI t | .maxI t => t.code | .addF | .minF | .maxF => 7 | .add64 => 4
  | .and t | .or t | .xor t | .exch t => t.code
/-- The operation of ATAGG (R293). -/
def aggOf (sub type : Nat) : Except Reject AggOp :=
  match sub with
  | 0 => if type == 4 then .ok .add64 else (intTy type).map .addI
  | 3 => (bitTy type).map .and
  | 4 => (bitTy type).map .or
  | 5 => (bitTy type).map .xor
  | _ => .error .badModifier
/-- SUB of an aggregate operation. -/
def AggOp.sub : AggOp → Nat
  | .addI _ | .add64 => 0 | .and _ => 3 | .or _ => 4 | .xor _ => 5
/-- TYPE of an aggregate operation. -/
def AggOp.type : AggOp → Nat
  | .addI t => t.code | .add64 => 4 | .and t | .or t | .xor t => t.code

/-- TYPE of a matrix instruction (R313). -/
def matTyOf (t : Nat) : Except Reject MatTy :=
  match t with
  | 8 => .ok .f16 | 9 => .ok .bf16 | 10 => .ok .nf | 11 => .ok .i8 | 12 => .ok .n8 | 13 => .ok .i4 | 14 => .ok .n4
  | _ => .error .badModifier
/-- The TYPE code of a matrix format. -/
def MatTy.code : MatTy → Nat
  | .f16 => 8 | .bf16 => 9 | .nf => 10 | .i8 => 11 | .n8 => 12 | .i4 => 13 | .n4 => 14
/-- TYPE of LDQ (R283). -/
def texTyOf (t : Nat) : Except Reject TexTy :=
  match t with
  | 7 => .ok .f32 | 8 => .ok .f16 | 9 => .ok .bf16 | 10 => .ok .nf
  | _ => .error .badModifier
/-- The TYPE code of a texel type. -/
def TexTy.code : TexTy → Nat
  | .f32 => 7 | .f16 => 8 | .bf16 => 9 | .nf => 10
/-- The address mode of LDQ (R288). -/
def texModeOf (x : Nat) : Except Reject TexMode :=
  match x with
  | 0 => .ok .clamp | 1 => .ok .wrap | 2 => .ok .zero
  | _ => .error .badModifier
/-- XMOD 49:48 of an address mode. -/
def TexMode.code : TexMode → Nat
  | .clamp => 0 | .wrap => 1 | .zero => 2
/-- The group of a collective (R338). -/
def groupOf (x : Nat) : Except Reject ShardGroup :=
  match x with
  | 0 => .ok .row | 1 => .ok .col | 2 => .ok .plane
  | _ => .error .badModifier
/-- XMOD 49:48 of a group. -/
def ShardGroup.code : ShardGroup → Nat
  | .row => 0 | .col => 1 | .plane => 2
/-- The immediate of a collective (R338). -/
def collImmOf (e : Nat) : Except Reject CollImm :=
  if e < 1024 then
    .ok { ts := Fin.ofNat 8 e, td := Fin.ofNat 8 (e / 8), cnt := Fin.ofNat 8 (e / 64), cen := e / 512 == 1 }
  else .error .badExtension
/-- The immediate's bits (R338). -/
def CollImm.code (c : CollImm) : Nat := c.ts.val + 8 * c.td.val + 64 * c.cnt.val + (if c.cen then 512 else 0)

/-- A displacement in the immediate, a multiple of 4 (R216). -/
def Fields.disp (f : Fields) : Except Reject Word :=
  if f.ext % 4 == 0 then .ok (BitVec.ofNat 32 f.ext) else .error .badExtension

/-- An optional uniform offset: a register when its enable is set, a zero field otherwise (R330, R332, R336). -/
def offsetReg (on : Bool) (c : Nat) : Except Reject (Option (Fin 64)) :=
  if on then (uniOf c false).map some else if c == 0 then .ok none else .error .unusedField

/-- A uniform source or a 32-bit immediate in place of A (R216, R305, R368). -/
def Fields.uniOrImm (f : Fields) : Except Reject UOperand :=
  if f.len == 0 && f.isel == 0 then (uniOf f.sra false).map .s
  else if f.len == 1 && f.isel == 1 then
    (if f.sra == 0 then .ok (.imm (BitVec.ofNat 32 f.ext)) else .error .unusedField)
  else .error .badForm

/-- A group of `n` registers stays within its class (R268). -/
def groupReg (c n : Nat) : Except Reject Reg :=
  let r := Reg.ofCode c
  if r.okGroup n then .ok r else .error .badGroup

/-- Control instructions, 0x00 to 0x0D (R216). The table writes CALLX with `va` alone and lists no class as illegal there: that
SRA may be a vector or a uniform register is the model's choice (log entry 87). -/
def Fields.control (f : Fields) : Except Reject Instr := do
  let g := f.guard
  match f.opc with
  | 0x00 => do f.form 0 0; f.unused true true true true; f.mods 0 0 0 0; return .nop g
  | 0x01 => do
    f.form 1 0; f.unused true true true true; f.mods 0 0 0 0
    return .bra g (← f.disp)
  | 0x02 => do f.form 0 0; f.unused true false true true; f.mods 0 0 0 0; return .brx g (Reg.ofCode f.sra)
  | 0x03 => do
    f.form 1 0; f.unused false true true true; f.mods 0 0 0 0
    return .call g (← vecOf f.dst false) (← f.disp)
  | 0x04 => do
    f.form 0 0; f.unused false false true true; f.mods 0 0 0 0
    return .callx g (← vecOf f.dst false) (Reg.ofCode f.sra)
  | 0x05 => do f.form 0 0; f.unused true false true true; f.mods 0 0 0 0; return .ret g (Reg.ofCode f.sra)
  | 0x06 => do f.form 0 0; f.unused true true true true; f.mods 0 0 0 0; return .exit g
  | 0x07 => do
    f.form 1 0; f.unused true true true true
    need (f.xmod < 8) .badModifier; f.mods 0 0 f.xmod 0
    return .meet g (Fin.ofNat 8 f.xmod) (← f.disp)
  | 0x08 => do
    f.form 0 0; f.unused true true true true
    need (f.xmod < 8) .badModifier; f.mods 0 0 f.xmod 0
    return .mleave g (Fin.ofNat 8 f.xmod)
  | 0x09 => do f.form 0 0; f.unused true true true true; f.mods 0 0 0 0; return .yield g
  | 0x0A => do
    f.unused true false true true; f.mods 0 0 0 0
    match ← f.uniOrImm with
    | .s a => return .nap g a
    | .imm w => return .napImm g w
  | 0x0B => do
    f.unused true true true true; f.mods 0 0 0 0
    if f.len == 0 && f.isel == 0 then return .trap g
    else do f.form 1 0; return .trapImm g (BitVec.ofNat 32 f.ext)
  | 0x0C => do f.form 0 0; f.unused true true true true; f.mods 0 0 0 0; return .bkpt g
  | 0x0D => do
    f.unused true false true true; f.mods 0 0 0 0
    match ← f.uniOrImm with
    | .s a => return .perf g a
    | .imm w => return .perfImm g w
  | _ => .error .unassigned

/-- Integer arithmetic, 0x20 to 0x2C (R226). -/
def Fields.integer (f : Fields) : Except Reject Instr := do
  let g := f.guard
  match f.opc with
  | 0x20 => do
    let t ← addTy f.type
    need (f.xmod == 0 || (f.xmod == 1 && t != .b64)) .badModifier; f.mods 0 f.type f.xmod 0
    let (d, a, b) ← f.alu2 (t == .b64) (t == .b64) (t == .b64)
    return .iadd g t (f.xmod == 1) d a b
  | 0x21 => do
    let t ← addTy f.type
    need (f.xmod == 0 || (f.xmod == 1 && t != .b64)) .badModifier; f.mods 0 f.type f.xmod 0
    let (d, a, b) ← f.alu2 (t == .b64) (t == .b64) (t == .b64)
    return .isub g t (f.xmod == 1) d a b
  | 0x22 => do
    let t ← intTy f.type; f.mods 0 f.type 0 0
    let (d, a, b, c) ← f.alu3 false false false false
    return .iadd3 g t d a b c
  | 0x23 => do
    let t ← intTy f.type; f.mods 0 f.type 0 0
    let (d, a, b) ← f.alu2 false false false
    return .imul g t d a b
  | 0x24 => do
    let t ← intTy f.type; f.mods 0 f.type 0 0
    let (d, a, b) ← f.alu2 false false false
    return .imulh g t d a b
  | 0x25 => do
    let t ← intTy f.type; f.mods 0 f.type 0 0
    let (d, a, b, c) ← f.alu3 false false false false
    return .imad g t d a b c
  | 0x26 => do
    let t ← intTy f.type; f.mods 0 f.type 0 0
    let (d, a, b, c) ← f.alu3 true false false true
    return .imadw g t d a b c
  | 0x27 => do
    let t ← intTy f.type; f.mods 0 f.type 0 0
    let (d, a, b) ← f.alu2 false false false
    return .idiv g t d a b
  | 0x28 => do
    let t ← intTy f.type; f.mods 0 f.type 0 0
    let (d, a, b) ← f.alu2 false false false
    return .irem g t d a b
  | 0x29 => do
    need (f.sub < 2) .badModifier
    let t ← intTy f.type; f.mods f.sub f.type 0 0
    let (d, a, b) ← f.alu2 false false false
    if f.sub == 0 then return .imin g t d a b else return .imax g t d a b
  | 0x2A => do
    need (f.xmod < 2) .badModifier; f.mods 0 5 f.xmod 0
    let (d, a) ← f.alu1 false false
    return .iabs g (f.xmod == 1) d a
  | 0x2B => do
    need (f.xmod < 2) .badModifier; f.mods 0 5 f.xmod 0
    let (d, a) ← f.alu1 false false
    return .ineg g (f.xmod == 1) d a
  | 0x2C => do
    let t ← intTy f.type; f.mods 0 f.type 0 0
    let (d, a, b, c) ← f.alu3 false false false false
    return .clamp g t d a b c
  | _ => .error .unassigned

/-- Logic, shifts and bit fields, 0x2D to 0x34 (R232). That LEA also takes an immediate for its pair A (ISEL 1) is the model's choice
(log entry 22). -/
def Fields.bits (f : Fields) : Except Reject Instr := do
  let g := f.guard
  match f.opc with
  | 0x2D => do
    need (f.sub < 5) .badModifier
    let t ← bitTy f.type; f.mods f.sub f.type 0 0
    let (d, a, b) ← f.alu2 (t == .b64) (t == .b64) (t == .b64)
    match f.sub with
    | 0 => return .and g t d a b
    | 1 => return .or g t d a b
    | 2 => return .xor g t d a b
    | 3 => return .andn g t d a b
    | _ => return .orn g t d a b
  | 0x2E => do
    need (f.sub < 4) .badModifier
    let t ← bitTy f.type; f.mods f.sub f.type 0 0
    let (d, a, b) ← f.alu2 (t == .b64) (t == .b64) false
    match f.sub with
    | 0 => return .shl g t d a b
    | 1 => return .shr g t d a b
    | 2 => return .sar g t d a b
    | _ => return .rot g t d a b
  | 0x2F => do
    need (f.xmod < 2) .badModifier; f.mods 0 3 f.xmod 0
    let (d, a, b, c) ← f.alu3 false false false false
    return .fsh g (f.xmod == 1) d a b c
  | 0x30 => do
    let t ← intTy f.type; f.mods 0 f.type 0 0
    let (d, a, b) ← f.alu2 false false false
    return .bfx g t d a b
  | 0x31 => do
    f.mods 0 3 0 0
    let (d, a, b, c) ← f.alu3 false false false false
    return .bfi g d a b c
  | 0x32 => do
    need (f.sub < 4) .badModifier; f.mods f.sub 3 0 0
    let (d, a) ← f.alu1 false false
    match f.sub with
    | 0 => return .popc g d a
    | 1 => return .clz g d a
    | 2 => return .ctz g d a
    | _ => return .brev g d a
  | 0x33 => do
    f.mods 0 3 0 0
    let (d, a, b, c) ← f.alu3 false false false false
    return .bytesel g d a b c
  | 0x34 => do
    need (f.xmod < 16) .badModifier; f.mods 0 4 f.xmod 0
    let (d, a, b) ← f.alu2 true true false
    return .lea g (Fin.ofNat 8 f.xmod) (f.xmod / 8 == 1) d a b
  | _ => .error .unassigned

/-- Compare, select, moves and predicates, 0x35 to 0x3C (R239 to R246). The table writes PMOV SUB 1 with `va` and lists no class as
illegal there: that source A may be a vector or a uniform register is the model's choice (log entry 88). -/
def Fields.moves (f : Fields) : Except Reject Instr := do
  let g := f.guard
  match f.opc with
  | 0x35 => do
    let t ← intTy f.type
    let c ← icmpOf f.sub
    let cb ← combineOf f.rnd (f.xmod / 8)
    need (f.len != 2) .badForm; f.aluForm 2; f.unused true false false true
    let a ← f.source 1 false
    let b ← f.source 2 false
    return .icmp g t c cb (Fin.ofNat 8 f.xmod) a b
  | 0x36 => do
    let t ← bitTy f.type
    need (f.xmod < 16) .badModifier; f.mods 0 f.type f.xmod 0
    let (d, a, b) ← f.alu2 (t == .b64) (t == .b64) (t == .b64)
    match d with
    | .v d => return .sel g t (Fin.ofNat 8 f.xmod) (f.xmod / 8 == 1) d a b
    | .s _ => .error .uniformDestination
  | 0x37 => do
    let t ← bitTy0 f.type; f.mods 0 f.type 0 0
    let (d, a) ← f.alu1 (t == .b64) (t == .b64)
    return .mov g t d a
  | 0x38 => do
    let t ← bitTy0 f.type; f.mods 0 f.type 0 0
    need (f.isel == 1) .badForm
    let (d, a) ← f.alu1 (t == .b64) (t == .b64)
    return .movi g t d a
  | 0x39 => do
    f.form 0 0; f.unused false true true true
    let n := f.xmod * 4 + f.rnd
    f.mods 0 0 f.xmod f.rnd
    need (n < 15) .badSpecial
    let d ← regOf f.dst (specialWide n)
    need (d.isVec || !specialLane n) .badSpecial
    return .movs g (Fin.ofNat 15 n) d
  | 0x3A => do
    f.form 1 0; f.unused true true true true
    need (f.xmod < 8) .badModifier; f.mods 0 0 f.xmod 0
    let e := f.ext
    need (e / 8 % 2 == 0 && e / 128 % 2 == 0 && e / 2048 % 32 == 0 && e / 16777216 == 0) .badExtension
    return .pcomb g (Fin.ofNat 8 f.xmod) (Fin.ofNat 8 e) (Fin.ofNat 8 (e / 16)) (Fin.ofNat 8 (e / 256))
      (BitVec.ofNat 8 (e / 65536))
  | 0x3B => do
    f.form 0 0
    need (f.sub < 2) .badModifier
    if f.sub == 0 then do
      need (f.xmod < 8) .badModifier; f.mods 0 0 f.xmod 0; f.unused true false true true
      return .psetm g (Fin.ofNat 8 f.xmod) (← uniOf f.sra true)
    else do
      f.mods 1 0 f.xmod 0; f.unused true true true true
      return .psetmMask g (Fin.ofNat 8 f.xmod) (Fin.ofNat 8 (f.xmod / 8))
  | 0x3C => do
    f.form 0 0
    match f.sub with
    | 0 => do
      need (f.xmod < 8) .badModifier; f.mods 0 0 f.xmod 0; f.unused false true true true
      return .pmovToReg g (Fin.ofNat 8 f.xmod) (← vecOf f.dst false)
    | 1 => do
      need (f.xmod < 8) .badModifier; f.mods 1 0 f.xmod 0; f.unused true false true true
      return .pmovToPred g (Fin.ofNat 8 f.xmod) (Reg.ofCode f.sra)
    | 2 => do
      need (f.xmod % 8 == 0) .badModifier; f.mods 2 0 f.xmod 0; f.unused false true true true
      return .pmovFromMask g (Fin.ofNat 8 (f.xmod / 8)) (← uniOf f.dst true)
    | _ => .error .badModifier
  | _ => .error .unassigned

/-- TYPE .f32, written or omitted (R247). -/
def Fields.isF32 (f : Fields) : Bool := f.type == 0 || f.type == 7

/-- Binary32 arithmetic, 0x40 to 0x52 (R250, R255, R256). -/
def Fields.float (f : Fields) : Except Reject Instr := do
  let g := f.guard
  let r := rndOf f.rnd
  match f.opc with
  | 0x40 => do
    need f.isF32 .badModifier; f.mods 0 f.type 0 f.rnd
    let (d, a, b) ← f.alu2 false false false
    return .fadd g r d a b
  | 0x41 => do
    need f.isF32 .badModifier; f.mods 0 f.type 0 f.rnd
    let (d, a, b) ← f.alu2 false false false
    return .fsub g r d a b
  | 0x42 => do
    need f.isF32 .badModifier; f.mods 0 f.type 0 f.rnd
    let (d, a, b) ← f.alu2 false false false
    return .fmul g r d a b
  | 0x43 => do
    need f.isF32 .badModifier; f.mods 0 f.type 0 f.rnd
    let (d, a, b, c) ← f.alu3 false false false false
    return .ffma g r d a b c
  | 0x44 => do
    need f.isF32 .badModifier; f.mods 0 f.type 0 0
    let (d, a, b) ← f.alu2 false false false
    return .fmin g d a b
  | 0x45 => do
    need f.isF32 .badModifier; f.mods 0 f.type 0 0
    let (d, a, b) ← f.alu2 false false false
    return .fmax g d a b
  | 0x46 => do
    need f.isF32 .badModifier
    let c ← fcmpOf f.sub
    let cb ← combineOf f.rnd (f.xmod / 8)
    need (f.len != 2) .badForm; f.aluForm 2; f.unused true false false true
    let a ← f.source 1 false
    let b ← f.source 2 false
    return .fcmp g c cb (Fin.ofNat 8 f.xmod) a b
  | 0x47 => do
    let t ← floatTy f.type
    need (f.xmod == 0 || (f.xmod == 1 && t != .f32)) .badModifier; f.mods 0 f.type f.xmod 0
    let (d, a) ← f.alu1 false false
    return .fclass g t (f.xmod == 1) d a
  | 0x48 => do
    need f.isF32 .badModifier; f.mods 0 f.type 0 f.rnd
    let (d, a) ← f.alu1 false false
    return .frnd g r d a
  | 0x49 => do
    need f.isF32 .badModifier; f.mods 0 f.type 0 f.rnd
    let (d, a, b) ← f.alu2 false false false
    return .fscale g r d a b
  | 0x4A => do
    need f.isF32 .badModifier; f.mods 0 f.type 0 0
    let (d, a) ← f.alu1 false false
    return .ffract g d a
  | 0x4B => do
    need f.isF32 .badModifier; f.mods 0 f.type 0 f.rnd
    let (d, a) ← f.alu1 false false
    return .frcp g r d a
  | 0x4C => do
    need f.isF32 .badModifier; f.mods 0 f.type 0 0
    let (d, a) ← f.alu1 false false
    return .frsq g d a
  | 0x4D => do
    need f.isF32 .badModifier; f.mods 0 f.type 0 f.rnd
    let (d, a) ← f.alu1 false false
    return .fsqrt g r d a
  | 0x4E => do
    need f.isF32 .badModifier; f.mods 0 f.type 0 f.rnd
    let (d, a, b) ← f.alu2 false false false
    return .fdiv g r d a b
  | 0x4F => do
    need f.isF32 .badModifier; f.mods 0 f.type 0 0
    let (d, a) ← f.alu1 false false
    return .fexp2 g d a
  | 0x50 => do
    need f.isF32 .badModifier; f.mods 0 f.type 0 0
    let (d, a) ← f.alu1 false false
    return .flog2 g d a
  | 0x51 => do
    need f.isF32 .badModifier; f.mods 0 f.type 0 0
    let (d, a) ← f.alu1 false false
    return .fsin g d a
  | 0x52 => do
    need f.isF32 .badModifier; f.mods 0 f.type 0 0
    let (d, a) ← f.alu1 false false
    return .fcos g d a
  | _ => .error .unassigned

/-- Paired arithmetic, conversions, NF and ray tests, 0x53 to 0x71 (R257, R260, R265, R269, R270). -/
def Fields.convert (f : Fields) : Except Reject Instr := do
  let g := f.guard
  let r := rndOf f.rnd
  match f.opc with
  | 0x53 => do
    let t ← halfTy f.type; f.mods 0 f.type 0 f.rnd
    let (d, a, b) ← f.alu2 false false false
    return .hadd2 g t r d a b
  | 0x54 => do
    let t ← halfTy f.type; f.mods 0 f.type 0 f.rnd
    let (d, a, b) ← f.alu2 false false false
    return .hmul2 g t r d a b
  | 0x55 => do
    let t ← halfTy f.type; f.mods 0 f.type 0 f.rnd
    let (d, a, b, c) ← f.alu3 false false false false
    return .hfma2 g t r d a b c
  | 0x56 => do
    let t ← halfTy f.type; f.mods 0 f.type 0 0
    let (d, a, b) ← f.alu2 false false false
    return .hmin2 g t d a b
  | 0x57 => do
    let t ← halfTy f.type; f.mods 0 f.type 0 0
    let (d, a, b) ← f.alu2 false false false
    return .hmax2 g t d a b
  | 0x58 => do
    let t ← halfTy f.type; f.mods 0 f.type 0 f.rnd
    let (d, a, b, c) ← f.alu3 false false false false
    return .fdot2 g t r d a b c
  | 0x60 => do
    let t ← intTy f.type
    need (f.xmod < 16) .badModifier; f.mods 0 f.type f.xmod f.rnd
    let s ← cvtSrcOf (f.xmod % 4) (f.xmod / 4 % 2 == 1)
    let (d, a) ← f.alu1 (f.xmod / 8 == 1) s.wide
    return .cvtfi g t (f.xmod / 8 == 1) s r d a
  | 0x61 => do
    let t ← floatTy f.type
    need (f.xmod < 4) .badModifier; f.mods 0 f.type f.xmod f.rnd
    let s := cvtIntOf f.xmod
    let (d, a) ← f.alu1 false s.wide
    return .cvtif g t s r d a
  | 0x62 => do
    let t ← cvtDstOf f.type
    need (f.xmod < 16) .badModifier; f.mods 0 f.type f.xmod f.rnd
    let s ← cvtSrcOf (f.xmod % 4) (f.xmod / 4 % 2 == 1)
    if f.xmod / 8 == 1 then do
      need ((t == .f16 || t == .bf16) && s == .f32) .badModifier
      let (d, a, b) ← f.alu2 false false false
      return .cvtff g t s r d a (some b)
    else do
      let (d, a) ← f.alu1 (t == .f64) s.wide
      return .cvtff g t s r d a none
  | 0x63 => do
    need (f.xmod < 8) .badModifier; f.mods 0 0 f.xmod 0
    let (d, a, b, c) ← f.alu3 false false false false
    return .nfpack g (Fin.ofNat 8 f.xmod) d a b c
  | 0x64 => do
    need (f.xmod < 8) .badModifier; f.mods 0 0 f.xmod 0
    let (d, a, b, c) ← f.alu3 false false false false
    return .nfunp g (Fin.ofNat 8 f.xmod) d a b c
  | 0x65 => do
    f.mods 0 0 0 0
    let (d, a, b, c) ← f.alu3 false false false false
    need (!b.isVec) .badClass
    return .scaleblk g d a b c
  | 0x66 => do
    need (f.xmod < 16) .badModifier; f.mods 0 f.type f.xmod 0
    let t ← narrowOf f.type (f.xmod % 8) (f.xmod / 8 == 1)
    let (d, a) ← f.alu1 t.isB32 false
    return .iwiden g t d a
  | 0x67 => do
    need (f.xmod < 32) .badModifier; f.mods 0 f.type f.xmod 0
    let t ← narrowOf f.type (f.xmod % 8) (f.xmod / 8 % 2 == 1)
    if t.isB32 then do
      let (d, a) ← f.alu1 false true
      return .inarrow g t (f.xmod / 16 == 1) d a none
    else do
      let (d, a, b) ← f.alu2 false false false
      return .inarrow g t (f.xmod / 16 == 1) d a (some b)
  | 0x70 => do
    f.form 0 0; f.unused false false false true
    need (f.isF32 && f.xmod < 8) .badModifier; f.mods 0 f.type f.xmod 0
    let d ← vecOf f.dst true
    return .rbox g (Fin.ofNat 8 f.xmod) d (← groupReg f.sra 8) (← groupReg f.srb 6)
  | 0x71 => do
    f.form 2 0; f.unused false false false true
    need (f.isF32 && f.xmod < 8) .badModifier; f.mods 0 f.type f.xmod 0
    need (f.ext < 3) .badExtension
    let d ← vecOf f.dst false
    need (Reg.okGroup (.v d) 3) .badGroup
    return .rtri g (Fin.ofNat 8 f.xmod) (Fin.ofNat 3 f.ext) d (← groupReg f.sra 8) (← groupReg f.srb 9)
  | _ => .error .unassigned

/-- Memory access, 0x80 to 0x88 (R283). -/
def Fields.memory (f : Fields) : Except Reject Instr := do
  let g := f.guard
  let x2 := f.xmod / 8 % 2 == 1
  let sx := f.xmod / 4 % 2 == 1
  let nb := f.xmod / 32 == 1
  match f.opc with
  | 0x80 => do
    need (f.sub == 0 && f.rnd == 0 && (f.xmod == 0 || f.xmod == 4 || f.xmod == 8)) .badModifier
    let t ← loadTyOf f.type x2 sx
    f.unused false false true true
    let off ← f.offset
    let d ← dataOf f.dst t.mem
    let a ← regOf f.sra true
    uniformRegs d [a]
    return .ld g t d a off
  | 0x81 => do
    need (f.sub == 0 && f.rnd == 0 && (f.xmod == 0 || f.xmod == 8)) .badModifier
    let t ← memTyOf f.type x2
    f.unused true false false true
    let off ← f.offset
    let a ← regOf f.sra true
    return .st g t a off (← dataOf f.srb t)
  | 0x82 => do
    need (f.sub == 0 && f.rnd == 0 && (f.xmod == 0 || f.xmod == 8)) .badModifier
    let t ← memTyOf f.type x2
    f.unused true false false false
    let off ← f.offset
    let a ← regOf f.sra true
    return .stF g t a off (← dataOf f.srb t) (Reg.ofCode f.src)
  | 0x83 => do
    need (f.sub == 0 && f.rnd == 0 && (f.xmod % 32 == 0 || f.xmod % 32 == 4 || f.xmod % 32 == 8)) .badModifier
    let t ← loadTyOf f.type x2 sx
    f.unused false false true true
    let off ← f.offset
    let d ← dataOf f.dst t.mem
    let a ← f.base nb
    uniformRegs d a.toList
    return .lds g t d a off
  | 0x84 => do
    need (f.sub == 0 && f.rnd == 0 && (f.xmod % 32 == 0 || f.xmod % 32 == 8)) .badModifier
    let t ← memTyOf f.type x2
    f.unused true false false true
    let off ← f.offset
    let a ← f.base nb
    return .sts g t a off (← dataOf f.srb t)
  | 0x85 => do
    need (f.sub == 0 && f.rnd == 0 && (f.xmod % 32 == 0 || f.xmod % 32 == 4 || f.xmod % 32 == 8)) .badModifier
    let t ← loadTyOf f.type x2 sx
    f.unused false false true true
    let off ← f.offset
    let d ← dataOf f.dst t.mem
    let a ← f.base nb
    uniformRegs d a.toList
    return .ldc g t d a off
  | 0x86 => do
    f.form 0 0
    let t ← texTyOf f.type
    need (f.xmod < 4) .badModifier; f.mods 0 f.type f.xmod 0
    let m ← texModeOf f.xmod
    let d ← vecOf f.dst false
    need (Reg.okGroup (.v d) 6) .badGroup
    return .ldq g t m d (Reg.ofCode f.sra) (Reg.ofCode f.srb) (Reg.ofCode f.src)
  | 0x87 => do
    need (f.xmod < 2) .badModifier; f.mods 0 0 f.xmod 0
    f.unused true false true true
    let off ← f.offset
    return .pref g (f.xmod == 1) (← regOf f.sra true) off
  | 0x88 => do
    need (f.xmod % 32 < 8) .badModifier; f.mods 0 0 f.xmod 0
    f.unused true false true true
    let off ← f.offset
    return .sptest g (Fin.ofNat 8 f.xmod) (← f.base nb) off
  | _ => .error .unassigned

/-- Atomics, 0xA0 to 0xA4 (R292). -/
def Fields.atomic (f : Fields) : Except Reject Instr := do
  let g := f.guard
  match f.opc with
  | 0xA0 => do
    need (f.xmod == 0 && f.rnd == 0) .badModifier
    let op ← atomOf f.sub f.type
    f.unused false false false true
    let off ← f.offset
    let d ← regOf f.dst op.wide
    let a ← regOf f.sra true
    let b ← regOf f.srb op.wide
    uniformRegs d [a, b]
    return .atom g op d a off b
  | 0xA1 => do
    need (f.xmod % 32 == 0 && f.rnd == 0) .badModifier
    let op ← atomOf f.sub f.type
    f.unused false false false true
    let off ← f.offset
    let d ← regOf f.dst op.wide
    let a ← f.base (f.xmod / 32 == 1)
    let b ← regOf f.srb op.wide
    uniformRegs d (b :: a.toList)
    return .atoms g op d a off b
  | 0xA2 => do
    let t ← bitTy f.type; f.mods 0 f.type 0 0
    let off ← f.offset
    let d ← regOf f.dst (t == .b64)
    let a ← regOf f.sra true
    let b ← regOf f.srb (t == .b64)
    let c ← regOf f.src (t == .b64)
    uniformRegs d [a, b, c]
    return .cas g t d a off b c
  | 0xA3 => do
    need (f.xmod == 0 && f.rnd == 0) .badModifier
    let op ← atomOf f.sub f.type
    f.unused true false false true
    let off ← f.offset
    let a ← regOf f.sra true
    return .red g op a off (← regOf f.srb op.wide)
  | 0xA4 => do
    need (f.xmod == 0 && f.rnd == 0) .badModifier
    let op ← aggOf f.sub f.type
    f.unused false false false true
    let off ← f.offset
    let d ← regOf f.dst op.wide
    let a ← uniOf f.sra true
    let b ← regOf f.srb op.wide
    uniformRegs d [b]
    return .atagg g op d a off b
  | _ => .error .unassigned

/-- Fences, barriers, queues, folios and LAUNCH, 0xB0 to 0xBB (R297, R300, R305, R309 to R311). -/
def Fields.sync (f : Fields) : Except Reject Instr := do
  let g := f.guard
  let obj : Fin 16 := Fin.ofNat 16 (f.xmod / 4)
  let pd : Fin 8 := Fin.ofNat 8 (f.xmod % 4 * 2 + f.rnd / 2)
  match f.opc with
  | 0xB0 => do
    f.form 0 0
    match f.sub with
    | 0 => do f.unused true true true true; f.mods 0 0 0 0; return .fenceG g
    | 1 => do f.unused true true true true; f.mods 1 0 0 0; return .fenceS g
    | 2 => do
      need (f.xmod < 8) .badModifier; f.unused false true true true; f.mods 2 0 f.xmod 0
      return .fenceC g (Fin.ofNat 8 f.xmod) (Reg.ofCode f.dst)
    | _ => .error .badModifier
  | 0xB1 => do
    f.form 0 0; f.unused true true true true; f.mods 0 0 f.xmod f.rnd
    if f.rnd % 2 == 0 then return .bar g obj pd
    else do need (f.xmod % 4 == 0 && f.rnd == 1) .badModifier; return .barArrive g obj
  | 0xB2 => do
    need (f.xmod % 2 == 0) .badModifier
    f.mods 0 0 f.xmod f.rnd
    need (f.rnd == 0) .badModifier
    f.unused true false false true
    let ext := f.xmod / 2 % 2 == 1
    if f.len == 0 && f.isel == 0 then return .barinit g obj ext (.regs (← uniOf f.sra false) (← uniOf f.srb false))
    else if f.len == 1 && f.isel == 1 then do
      f.unused false true false false
      return .barinit g obj ext (.immT (BitVec.ofNat 32 f.ext) (← uniOf f.srb false))
    else if f.len == 1 && f.isel == 2 then do
      f.unused false false true false
      return .barinit g obj ext (.immC (← uniOf f.sra false) (BitVec.ofNat 32 f.ext))
    else do
      f.form 1 0; f.unused false true true false
      return .barinit g obj ext (.both (BitVec.ofNat 16 f.ext) (BitVec.ofNat 16 (f.ext / 65536)))
  | 0xB3 => do
    f.form 0 0; f.unused true true true true; need (f.xmod % 4 == 0) .badModifier; f.mods 0 0 f.xmod 0
    return .barinv g obj
  | 0xB4 => do
    f.unused true false true true; need (f.xmod % 4 == 0) .badModifier; f.mods 0 0 f.xmod 0
    return .qinit g obj (← f.uniOrImm)
  | 0xB5 => do
    f.unused true false true true; need (f.xmod % 4 == 0) .badModifier; f.mods 0 0 f.xmod 0
    return .qpush g obj (← f.uniOrImm)
  | 0xB6 => do
    f.form 0 0; f.unused false true true true; need (f.rnd % 2 == 0) .badModifier; f.mods 0 0 f.xmod f.rnd
    return .qpop g obj pd (← uniOf f.dst false)
  | 0xB7 => do
    f.form 0 0; f.unused false true true true; need (f.rnd % 2 == 0) .badModifier; f.mods 0 0 f.xmod f.rnd
    return .qtry g obj pd (← uniOf f.dst false)
  | 0xB8 => do
    f.form 0 0; f.unused true true true true; need (f.xmod % 4 == 0) .badModifier; f.mods 0 0 f.xmod 0
    return .qclose g obj
  | 0xB9 => do
    f.unused false false true true; f.mods 0 0 0 0
    let d ← uniOf f.dst false
    return .fopen g d (← f.uniOrImm)
  | 0xBA => do
    f.form 0 0; f.unused true false true true; f.mods 0 0 0 0
    return .fclose g (← uniOf f.sra false)
  | 0xBB => do
    f.unused false false true true; f.mods 0 0 0 0
    let d ← uniOf f.dst false
    if f.len == 0 && f.isel == 0 then return .launch g d (.s (← uniOf f.sra true))
    else do
      f.form 2 1; f.unused false true false false
      return .launch g d (.imm64 (BitVec.ofNat 64 f.ext))
  | _ => .error .unassigned

/-- Cross-lane instructions, 0xC0 to 0xC5 (R272). -/
def Fields.lanes (f : Fields) : Except Reject Instr := do
  let g := f.guard
  let neg := f.rnd == 1
  let pd : Fin 8 := Fin.ofNat 8 f.xmod
  let pa : Fin 8 := Fin.ofNat 8 (f.xmod / 8)
  match f.opc with
  | 0xC0 => do
    let t ← bitTy0 f.type
    need (f.sub < 5) .badModifier; f.mods f.sub f.type 0 0
    let d ← vecOf f.dst (t == .b64)
    if f.sub == 4 then do
      f.form 0 0; f.unused false false true true
      return .shfl g t none d (← regOf f.sra (t == .b64))
    else do
      need ((f.len == 0 && f.isel == 0) || (f.len == 1 && f.isel == 2)) .badForm
      f.unused false false false true
      let a ← regOf f.sra (t == .b64)
      let b ← f.source 2 false
      match f.sub with
      | 0 => return .shfl g t (some (.lane, b)) d a
      | 1 => return .shfl g t (some (.back, b)) d a
      | 2 => return .shfl g t (some (.fwd, b)) d a
      | _ => return .shfl g t (some (.flip, b)) d a
  | 0xC1 => do
    f.form 0 0; f.unused true true true true
    need (f.sub < 3 && f.rnd < 2) .badModifier; f.mods f.sub 0 f.xmod f.rnd
    match f.sub with
    | 0 => return .vote g .all pd pa neg
    | 1 => return .vote g .any pd pa neg
    | _ => return .vote g .same pd pa neg
  | 0xC2 => do
    f.form 0 0; f.unused false true true true
    need (f.xmod % 8 == 0 && f.rnd < 2) .badModifier; f.mods 0 0 f.xmod f.rnd
    return .ballot g (← vecOf f.dst true) pa neg
  | 0xC3 => do
    f.form 0 0; f.unused false false true true
    let t ← bitTy0 f.type
    let d ← vecOf f.dst true
    let a ← regOf f.sra (t == .b64)
    match f.sub with
    | 0 => do f.mods 0 f.type 0 0; return .match_ g t none d a
    | 1 => do need (f.xmod < 8) .badModifier; f.mods 1 f.type f.xmod 0; return .match_ g t (some pd) d a
    | _ => .error .badModifier
  | 0xC4 => do
    f.form 0 0; f.unused false false true true
    need (f.xmod == 0) .badModifier
    let op ← foldOf f.sub f.type f.rnd true
    let d := Reg.ofCode f.dst
    let a := Reg.ofCode f.sra
    need (okFold d a) .uniformDestination
    return .gred g op d a
  | 0xC5 => do
    f.form 0 0; f.unused false false true true
    need (f.xmod < 2) .badModifier
    let op ← foldOf f.sub f.type f.rnd true
    return .gscan g op (f.xmod == 1) (← vecOf f.dst false) (Reg.ofCode f.sra)
  | _ => .error .unassigned

/-- Matrix instructions, 0xD0 to 0xD5 (R316, R319, R330, R332). -/
def Fields.matrix (f : Fields) : Except Reject Instr := do
  let g := f.guard
  let k : Fin 16 := Fin.ofNat 16 f.xmod
  let nb := f.xmod / 32 == 1
  match f.opc with
  | 0xD0 => do
    f.form 2 0
    let t ← matTyOf f.type; f.mods 0 f.type 0 0
    f.unused true false false false
    need (f.ext < 32) .badExtension
    let a ← vecOf f.sra false
    let b ← vecOf f.srb false
    let z := f.ext / 16 == 1
    if t == .nf then do
      need (!z) .badExtension
      return .mma g t (Fin.ofNat 16 f.ext) z a b (some (← groupReg f.src 2))
    else do
      f.unused false false false true
      return .mma g t (Fin.ofNat 16 f.ext) z a b none
  | 0xD1 => do
    f.form 2 0
    let t ← matTyOf f.type; f.mods 0 f.type 0 0
    f.unused true false false true
    need (f.ext < 8192) .badExtension
    let z := f.ext / 16 % 2 == 1
    let oa ← offsetReg (f.ext / 2048 % 2 == 1) f.sra
    let ob ← offsetReg (f.ext / 4096 == 1) f.srb
    return .mmat g t (Fin.ofNat 16 f.ext) z (Fin.ofNat 8 (f.ext / 32)) (Fin.ofNat 8 (f.ext / 256)) oa ob
  | 0xD2 => do
    f.form 1 0; f.unused true false true true
    need (f.sub < 4) .badModifier; f.mods f.sub 0 0 0
    need (f.ext < 32768) .badExtension
    let c : Fin 16 := Fin.ofNat 16 f.ext
    let p : Fin 16 := Fin.ofNat 16 (f.ext / 16)
    let ta : Fin 8 := Fin.ofNat 8 (f.ext / 256)
    let tb : Fin 8 := Fin.ofNat 8 (f.ext / 2048)
    let ofs ← offsetReg (f.ext / 16384 == 1) f.sra
    if f.sub == 0 then return .mvsScale g c p ta tb ofs
    else do
      need (p.val == 0 && tb.val == 0) .badExtension
      match f.sub with
      | 1 => return .mvsSt g c ta ofs
      | 2 => return .mvsStbf g c ta ofs
      | _ => return .mvsLd g c ta ofs
  | 0xD3 => do
    f.form 0 0; f.unused true true true true
    need (f.xmod < 16) .badModifier; f.mods 0 0 f.xmod 0
    return .accz g k
  | 0xD4 => do
    match f.sub with
    | 0 => do
      f.form 0 0; need (f.xmod < 16) .badModifier; f.mods 0 0 f.xmod 0; f.unused false true true true
      return .accrdV g k (← vecOf f.dst false)
    | 1 => do
      need (f.xmod % 32 < 16) .badModifier; f.mods 1 0 f.xmod 0; f.unused true false true true
      let off ← f.offset
      return .accrdSp g k (← f.base nb) off
    | 2 => do
      f.form 0 0; need (f.xmod < 8) .badModifier; f.mods 2 0 f.xmod 0; f.unused false true true true
      return .accrdT g (Fin.ofNat 8 f.xmod) (← uniOf f.dst true)
    | _ => .error .badModifier
  | 0xD5 => do
    match f.sub with
    | 0 => do
      f.form 0 0; need (f.xmod < 16) .badModifier; f.mods 0 0 f.xmod 0; f.unused true false true true
      return .accwrV g k (← vecOf f.sra false)
    | 1 => do
      need (f.xmod % 32 < 16) .badModifier; f.mods 1 0 f.xmod 0; f.unused true false true true
      let off ← f.offset
      return .accwrSp g k (← f.base nb) off
    | 2 => do
      f.form 0 0; need (f.xmod < 8) .badModifier; f.mods 2 0 f.xmod 0; f.unused true false true true
      return .accwrT g (Fin.ofNat 8 f.xmod) (← uniOf f.sra true)
    | _ => .error .badModifier
  | _ => .error .unassigned

/-- Engines, copies, collectives and geometry, 0xE0 to 0xEC (R323, R324, R333, R335 to R338, R343). That RESID.close, which has no
priority, takes none in XMOD is the model's choice (log entry 96). -/
def Fields.engine (f : Fields) : Except Reject Instr := do
  let g := f.guard
  match f.opc with
  | 0xE0 => do
    f.form 1 0; f.unused true true true true
    need (f.sub < 2) .badModifier; f.mods f.sub 0 0 0
    let t ← f.disp
    if f.sub == 0 then return .forkM g t else return .forkC g t
  | 0xE1 => do
    f.form 0 0
    need (f.sub < 3) .badModifier; f.mods f.sub 0 0 0
    match f.sub with
    | 0 => do f.unused false true true true; return .rdvThread g .m (← uniOf f.dst false)
    | 1 => do f.unused false true true true; return .rdvThread g .c (← uniOf f.dst false)
    | _ => do f.unused true true true true; return .rdvSequencer g
  | 0xE2 => do
    f.form 0 0; f.unused true false false true
    need (f.rnd == 0 && f.sub < 3 && f.xmod % 16 < 16 && f.xmod / 16 == 0) .badModifier
    let size ← (match f.type, f.xmod / 8 == 1 with
      | 3, false => .ok CplSize.b4
      | 4, false => .ok CplSize.b8
      | 4, true => .ok CplSize.b16
      | _, _ => .error .badModifier : Except Reject CplSize)
    let cnt : Fin 8 := Fin.ofNat 8 f.xmod
    match f.sub with
    | 0 => do
      need (f.xmod % 8 == 0) .badModifier
      let a ← regOf f.sra true
      return .cpl g .gs size (Reg.ofCode f.srb) a
    | 1 => do
      let b ← regOf f.srb true
      return .cpl g (.sg cnt) size b (Reg.ofCode f.sra)
    | _ => do
      let a ← regOf f.sra true
      let b ← regOf f.srb true
      return .cpl g (.gg cnt) size b a
  | 0xE3 => do
    f.form 2 0; f.unused true false false false; f.mods 0 0 0 0
    let a ← uniOf f.sra false
    let b ← uniOf f.srb false
    let c ← uniOf f.src false
    need (f.ext < 16) .badExtension
    if f.ext % 2 == 0 then do need (f.ext == 0) .badExtension; return .cptIn g a b c
    else return .cptOut g a b c (Fin.ofNat 8 (f.ext / 2))
  | 0xE4 => do
    f.form 0 0; f.unused true false true true
    need (f.sub < 2 && f.xmod < 16) .badModifier; f.mods f.sub 0 f.xmod 0
    let ofs ← offsetReg (f.xmod / 8 == 1) f.sra
    if f.sub == 0 then return .ownEng g (Fin.ofNat 8 f.xmod) ofs else return .ownThr g (Fin.ofNat 8 f.xmod) ofs
  | 0xE5 => do
    f.form 0 0
    need (f.sub < 3) .badModifier
    let d ← uniOf f.dst false
    match f.sub with
    | 0 => do
      need (f.xmod < 4) .badModifier; f.mods 0 0 f.xmod 0; f.unused false false false true
      return .residOpen g (Fin.ofNat 4 f.xmod) d (← uniOf f.sra true) (← uniOf f.srb true)
    | 1 => do
      need (f.xmod < 4) .badModifier; f.mods 1 0 f.xmod 0; f.unused false false true true
      return .residPrio g (Fin.ofNat 4 f.xmod) d (← uniOf f.sra false)
    | _ => do
      f.mods 2 0 0 0; f.unused false false true true
      return .residClose g d (← uniOf f.sra false)
  | 0xE8 => do
    f.form 1 0; f.unused true true true true
    need (f.sub < 4) .badModifier; f.mods f.sub 0 0 0
    let i ← collImmOf f.ext
    match f.sub with
    | 0 => return .nxch g .east i
    | 1 => return .nxch g .west i
    | 2 => return .nxch g .north i
    | _ => return .nxch g .south i
  | 0xE9 => do
    f.form 1 0; f.unused true true true true
    let op ← nredOf f.sub f.type f.rnd
    let gr ← groupOf f.xmod
    return .nred g op gr (← collImmOf f.ext)
  | 0xEA => do
    f.form 1 0; f.unused true false true true
    f.mods 0 0 f.xmod 0
    let gr ← groupOf f.xmod
    let r ← uniOf f.sra true
    return .nbc g gr r (← collImmOf f.ext)
  | 0xEB => do
    f.form 0 0; f.unused true false false false
    need (f.xmod < 4) .badModifier; f.mods 0 0 f.xmod 0
    return .emit g (Fin.ofNat 4 f.xmod) (← groupReg f.sra 11) (← uniOf f.srb true) (← uniOf f.src false)
  | 0xEC => do
    f.form 0 0; f.unused true false true true
    need (f.xmod < 4) .badModifier; f.mods 0 0 f.xmod 0
    return .emitend g (Fin.ofNat 4 f.xmod) (← uniOf f.sra false)
  | _ => .error .unassigned

/-- The width of a system register access: TYPE .b32 or .b64 (R368). -/
def sysWide (t : Nat) : Except Reject Bool :=
  if t == 3 then .ok false else if t == 4 then .ok true else .error .badModifier

/-- The operand of SYSWR (R368). -/
def Fields.sysOperand (f : Fields) (wide : Bool) : Except Reject SysOperand :=
  if f.len == 0 && f.isel == 0 then (uniOf f.sra wide).map .s
  else if f.isel != 1 then .error .badForm
  else if f.sra != 0 then .error .unusedField
  else if f.len == 1 then .ok (.imm (BitVec.ofNat 32 f.ext))
  else if f.len == 2 && wide then .ok (.imm64 (BitVec.ofNat 64 f.ext))
  else .error .badForm

/-- System instructions, 0xF0 to 0xF9 (R368). -/
def Fields.system (f : Fields) : Except Reject Instr := do
  let g := f.guard
  let num := f.xmod * 4 + f.rnd
  match f.opc with
  | 0xF0 => do
    f.form 0 0; f.unused false true true true
    let w ← sysWide f.type; f.mods 0 f.type f.xmod f.rnd
    return .sysrd g (BitVec.ofNat 8 num) w (← uniOf f.dst w)
  | 0xF1 => do
    f.unused true false true true
    let w ← sysWide f.type; f.mods 0 f.type f.xmod f.rnd
    let a ← f.sysOperand w
    if num == 3 && w then return .syswrTtb g a
    else if num == 4 && !w then return .syswrCeil g a
    else return .syswr g (BitVec.ofNat 8 num) w a
  | 0xF2 => do f.form 0 0; f.unused true true true true; f.mods 0 0 0 0; return .eret g
  | 0xF3 => do
    f.form 0 0
    match f.sub with
    | 0 => do f.unused true false true true; f.mods 0 0 0 0; return .tlbinvPage g (← uniOf f.sra true)
    | 1 => do
      f.unused true false false true; f.mods 1 0 0 0
      return .tlbinvRange g (← uniOf f.sra true) (← uniOf f.srb false)
    | 2 => do f.unused true true true true; f.mods 2 0 0 0; return .tlbinvCtx g
    | _ => .error .badModifier
  | 0xF4 => do
    f.form 0 0
    match f.sub with
    | 0 => do f.unused true false true true; f.mods 0 0 0 0; return .invrep g (← uniOf f.sra true)
    | 1 => do
      f.unused true false false true; f.mods 1 0 0 0
      return .invrepRange g (← uniOf f.sra true) (← uniOf f.srb false)
    | _ => .error .badModifier
  | 0xF5 => do
    f.form 0 0; f.unused false false true true
    need (f.sub < 2) .badModifier; f.mods f.sub 0 0 0
    let d ← uniOf f.dst false
    let a ← uniOf f.sra true
    if f.sub == 0 then return .ctxsaveCopy g d a else return .ctxsavePark g d a
  | 0xF6 => do
    f.form 0 0; f.unused false false true true; f.mods 0 0 0 0
    return .ctxload g (← uniOf f.dst false) (← uniOf f.sra true)
  | 0xF7 => do f.unused true false true true; f.mods 0 0 0 0; return .halt g (← f.uniOrImm)
  | 0xF8 => do f.form 0 0; f.unused true true true true; f.mods 0 0 0 0; return .wdclr g
  | 0xF9 => do f.unused true false true true; f.mods 0 0 0 0; return .stamp g (← f.uniOrImm)
  | _ => .error .unassigned

/-- The instruction of a word's fields, or the check of R194 it fails. -/
def decodeFields (f : Fields) : Except Reject Instr :=
  if f.len ≥ 3 then .error .badLength
  else if f.opc ≤ 0x0D then f.control
  else if f.opc < 0x20 then .error .unassigned
  else if f.opc ≤ 0x2C then f.integer
  else if f.opc ≤ 0x34 then f.bits
  else if f.opc ≤ 0x3F then f.moves
  else if f.opc ≤ 0x52 then f.float
  else if f.opc < 0x80 then f.convert
  else if f.opc < 0xA0 then f.memory
  else if f.opc < 0xB0 then f.atomic
  else if f.opc < 0xC0 then f.sync
  else if f.opc < 0xD0 then f.lanes
  else if f.opc < 0xE0 then f.matrix
  else if f.opc < 0xF0 then f.engine
  else f.system

/-- Little-endian bytes as a number (R6). -/
def ofBytesLE : List Byte → Nat
  | [] => 0
  | b :: bs => b.toNat + 256 * ofBytesLE bs

/-- The low `n` bytes of a number, lowest first (R6). -/
def toBytesLE : Nat → Nat → List Byte
  | 0, _ => []
  | n + 1, w => BitVec.ofNat 8 w :: toBytesLE n (w / 256)

/-- The fields of the instruction that begins the bytes: the first word's length code says how many are read (R181). -/
def bytesFields (bs : List Byte) : Except Reject Fields :=
  let len := ofBytesLE (bs.take 1) % 4
  if len == 3 then .error .badLength
  else if bs.length < lengthBytes len then .error .truncated
  else .ok (Fields.unpack (ofBytesLE (bs.take (lengthBytes len))))

/-- The instruction that begins the bytes (R181, R194). -/
def decodeBytes (bs : List Byte) : Except Reject Instr := bytesFields bs >>= decodeFields

/-- The instruction of a table row's bits, bit 0 the lowest bit of the first word; bits above `nbits` are zero. -/
def decodeTableWord (_nbits w : Nat) : Option Instr := (decodeBytes (toBytesLE 16 w)).toOption

/-- Whether an opcode is in the assigned system range (R194, R359). -/
def systemOpcode (opc : Nat) : Bool := 0xF0 ≤ opc && opc ≤ 0xF9

/-- A blank word of an opcode with its guard. -/
def blank (g : Guard) (opc : Nat) : Fields := { len := 0, opc := opc, grd := g.code }

/-- Put source `k` into its field, or into the immediate (R189, R190). -/
def Fields.withSource (f : Fields) (k : Nat) (o : Operand) : Fields :=
  match o with
  | .reg r =>
    if k == 1 then { f with sra := r.code } else if k == 2 then { f with srb := r.code } else { f with src := r.code }
  | .imm w => { f with len := 1, isel := k, ext := w.toNat }
  | .imm64 w => { f with len := 2, isel := k, ext := w.toNat }

/-- One source and a destination. -/
def Fields.put1 (f : Fields) (d : Reg) (a : Operand) : Fields := { f with dst := d.code }.withSource 1 a
/-- Two sources and a destination. -/
def Fields.put2 (f : Fields) (d : Reg) (a b : Operand) : Fields := (f.put1 d a).withSource 2 b
/-- Three sources and a destination. -/
def Fields.put3 (f : Fields) (d : Reg) (a b c : Operand) : Fields := (f.put2 d a b).withSource 3 c
/-- A 32-bit immediate in the 96-bit form. -/
def Fields.withImm (f : Fields) (isel : Nat) (w : Word) : Fields := { f with len := 1, isel := isel, ext := w.toNat }
/-- The offset form of R278. -/
def Fields.withOffset (f : Fields) (off : Option Word) : Fields :=
  match off with
  | none => f
  | some w => { f with len := 1, ext := w.toNat }
/-- The base of a scratchpad or constant address, or NB (R277). -/
def Fields.withBase (f : Fields) (a : Option Reg) : Fields :=
  match a with
  | none => { f with xmod := f.xmod + 32 }
  | some r => { f with sra := r.code }
/-- A uniform source or an immediate in place of A. -/
def Fields.withUni (f : Fields) (a : UOperand) : Fields :=
  match a with
  | .s n => { f with sra := n.val + 192 }
  | .imm w => f.withImm 1 w
/-- An object number and pd in MOD bits 53:47 (R300, R305). -/
def objMods (f : Fields) (obj : Fin 16) (pd : Fin 8) : Fields :=
  { f with xmod := obj.val * 4 + pd.val / 2, rnd := pd.val % 2 * 2 }
/-- The code of a shuffle mode (R272). -/
def ShflMode.code : ShflMode → Nat
  | .lane => 0 | .back => 1 | .fwd => 2 | .flip => 3
/-- SUB of a vote (R272). -/
def VoteMode.code : VoteMode → Nat
  | .all => 0 | .any => 1 | .same => 2
/-- SUB of an exchange direction (R338). -/
def Compass.code : Compass → Nat
  | .east => 0 | .west => 1 | .north => 2 | .south => 3
/-- The code of an optional uniform offset. -/
def offsetCode (o : Option (Fin 64)) : Nat :=
  match o with
  | none => 0
  | some n => n.val + 192
/-- TYPE and X2 of a lane copy (R333). -/
def CplSize.type : CplSize → Nat
  | .b4 => 3 | .b8 | .b16 => 4
/-- The X2 bit of a lane copy (R333). -/
def CplSize.xmod : CplSize → Nat
  | .b16 => 8 | _ => 0
/-- The operand of SYSWR in its form (R368). -/
def Fields.withSys (f : Fields) (a : SysOperand) : Fields :=
  match a with
  | .s n => { f with sra := n.val + 192 }
  | .imm w => f.withImm 1 w
  | .imm64 w => { f with len := 2, isel := 1, ext := w.toNat }
/-- TYPE of a system access. -/
def wideCode (w : Bool) : Nat := if w then 4 else 3
/-- 1 for true. -/
def bit (b : Bool) : Nat := if b then 1 else 0

/-- The fields of an instruction, from the same tables; a step of the panel's own units has none. -/
def encodeFields : Instr → Option Fields
  | .nop g => some (blank g 0x00)
  | .bra g o => some ((blank g 0x01).withImm 0 o)
  | .brx g a => some { blank g 0x02 with sra := a.code }
  | .call g d o => some ({ blank g 0x03 with dst := d.val }.withImm 0 o)
  | .callx g d a => some { blank g 0x04 with dst := d.val, sra := a.code }
  | .ret g a => some { blank g 0x05 with sra := a.code }
  | .exit g => some (blank g 0x06)
  | .meet g k o => some ({ blank g 0x07 with xmod := k.val }.withImm 0 o)
  | .mleave g k => some { blank g 0x08 with xmod := k.val }
  | .yield g => some (blank g 0x09)
  | .nap g a => some { blank g 0x0A with sra := a.val + 192 }
  | .napImm g n => some ((blank g 0x0A).withImm 1 n)
  | .trap g => some (blank g 0x0B)
  | .trapImm g c => some ((blank g 0x0B).withImm 0 c)
  | .bkpt g => some (blank g 0x0C)
  | .perf g a => some { blank g 0x0D with sra := a.val + 192 }
  | .perfImm g n => some ((blank g 0x0D).withImm 1 n)
  | .iadd g t sat d a b => some ({ blank g 0x20 with type := t.code, xmod := bit sat }.put2 d a b)
  | .isub g t sat d a b => some ({ blank g 0x21 with type := t.code, xmod := bit sat }.put2 d a b)
  | .iadd3 g t d a b c => some ({ blank g 0x22 with type := t.code }.put3 d a b c)
  | .imul g t d a b => some ({ blank g 0x23 with type := t.code }.put2 d a b)
  | .imulh g t d a b => some ({ blank g 0x24 with type := t.code }.put2 d a b)
  | .imad g t d a b c => some ({ blank g 0x25 with type := t.code }.put3 d a b c)
  | .imadw g t d a b c => some ({ blank g 0x26 with type := t.code }.put3 d a b c)
  | .idiv g t d a b => some ({ blank g 0x27 with type := t.code }.put2 d a b)
  | .irem g t d a b => some ({ blank g 0x28 with type := t.code }.put2 d a b)
  | .imin g t d a b => some ({ blank g 0x29 with type := t.code }.put2 d a b)
  | .imax g t d a b => some ({ blank g 0x29 with type := t.code, sub := 1 }.put2 d a b)
  | .iabs g sat d a => some ({ blank g 0x2A with type := 5, xmod := bit sat }.put1 d a)
  | .ineg g sat d a => some ({ blank g 0x2B with type := 5, xmod := bit sat }.put1 d a)
  | .clamp g t d a b c => some ({ blank g 0x2C with type := t.code }.put3 d a b c)
  | .and g t d a b => some ({ blank g 0x2D with type := t.code }.put2 d a b)
  | .or g t d a b => some ({ blank g 0x2D with type := t.code, sub := 1 }.put2 d a b)
  | .xor g t d a b => some ({ blank g 0x2D with type := t.code, sub := 2 }.put2 d a b)
  | .andn g t d a b => some ({ blank g 0x2D with type := t.code, sub := 3 }.put2 d a b)
  | .orn g t d a b => some ({ blank g 0x2D with type := t.code, sub := 4 }.put2 d a b)
  | .shl g t d a b => some ({ blank g 0x2E with type := t.code }.put2 d a b)
  | .shr g t d a b => some ({ blank g 0x2E with type := t.code, sub := 1 }.put2 d a b)
  | .sar g t d a b => some ({ blank g 0x2E with type := t.code, sub := 2 }.put2 d a b)
  | .rot g t d a b => some ({ blank g 0x2E with type := t.code, sub := 3 }.put2 d a b)
  | .fsh g left d a b c => some ({ blank g 0x2F with type := 3, xmod := bit left }.put3 d a b c)
  | .bfx g t d a b => some ({ blank g 0x30 with type := t.code }.put2 d a b)
  | .bfi g d a b c => some ({ blank g 0x31 with type := 3 }.put3 d a b c)
  | .popc g d a => some ({ blank g 0x32 with type := 3 }.put1 d a)
  | .clz g d a => some ({ blank g 0x32 with type := 3, sub := 1 }.put1 d a)
  | .ctz g d a => some ({ blank g 0x32 with type := 3, sub := 2 }.put1 d a)
  | .brev g d a => some ({ blank g 0x32 with type := 3, sub := 3 }.put1 d a)
  | .bytesel g d a b c => some ({ blank g 0x33 with type := 3 }.put3 d a b c)
  | .lea g sc sx d a b => some ({ blank g 0x34 with type := 4, xmod := sc.val + 8 * bit sx }.put2 d a b)
  | .icmp g t c cb pd a b =>
    some (({ blank g 0x35 with type := t.code, sub := c.code, rnd := cb.rnd, xmod := pd.val + 8 * cb.pq }.withSource
      1 a).withSource 2 b)
  | .sel g t p neg d a b => some ({ blank g 0x36 with type := t.code, xmod := p.val + 8 * bit neg }.put2 (.v d) a b)
  | .pcomb g pd pa pb pc tt =>
    some { blank g 0x3A with len := 1, xmod := pd.val, ext := pa.val + 16 * pb.val + 256 * pc.val + 65536 * tt.toNat }
  | .psetm g pd a => some { blank g 0x3B with xmod := pd.val, sra := a.val + 192 }
  | .psetmMask g pd k => some { blank g 0x3B with sub := 1, xmod := pd.val + 8 * k.val }
  | .pmovToReg g p d => some { blank g 0x3C with xmod := p.val, dst := d.val }
  | .pmovToPred g pd a => some { blank g 0x3C with sub := 1, xmod := pd.val, sra := a.code }
  | .pmovFromMask g k d => some { blank g 0x3C with sub := 2, xmod := 8 * k.val, dst := d.val + 192 }
  | .mov g t d a => some ({ blank g 0x37 with type := t.code }.put1 d a)
  | .movi g t d a => some ({ blank g 0x38 with type := t.code }.put1 d a)
  | .movs g n d => some { blank g 0x39 with xmod := n.val / 4, rnd := n.val % 4, dst := d.code }
  | .fadd g r d a b => some ({ blank g 0x40 with type := 7, rnd := r.code }.put2 d a b)
  | .fsub g r d a b => some ({ blank g 0x41 with type := 7, rnd := r.code }.put2 d a b)
  | .fmul g r d a b => some ({ blank g 0x42 with type := 7, rnd := r.code }.put2 d a b)
  | .ffma g r d a b c => some ({ blank g 0x43 with type := 7, rnd := r.code }.put3 d a b c)
  | .fmin g d a b => some ({ blank g 0x44 with type := 7 }.put2 d a b)
  | .fmax g d a b => some ({ blank g 0x45 with type := 7 }.put2 d a b)
  | .frnd g r d a => some ({ blank g 0x48 with type := 7, rnd := r.code }.put1 d a)
  | .fscale g r d a b => some ({ blank g 0x49 with type := 7, rnd := r.code }.put2 d a b)
  | .ffract g d a => some ({ blank g 0x4A with type := 7 }.put1 d a)
  | .frcp g r d a => some ({ blank g 0x4B with type := 7, rnd := r.code }.put1 d a)
  | .frsq g d a => some ({ blank g 0x4C with type := 7 }.put1 d a)
  | .fsqrt g r d a => some ({ blank g 0x4D with type := 7, rnd := r.code }.put1 d a)
  | .fdiv g r d a b => some ({ blank g 0x4E with type := 7, rnd := r.code }.put2 d a b)
  | .fexp2 g d a => some ({ blank g 0x4F with type := 7 }.put1 d a)
  | .flog2 g d a => some ({ blank g 0x50 with type := 7 }.put1 d a)
  | .fsin g d a => some ({ blank g 0x51 with type := 7 }.put1 d a)
  | .fcos g d a => some ({ blank g 0x52 with type := 7 }.put1 d a)
  | .fcmp g c cb pd a b =>
    some (({ blank g 0x46 with type := 7, sub := c.code, rnd := cb.rnd, xmod := pd.val + 8 * cb.pq }.withSource
      1 a).withSource 2 b)
  | .fclass g t hi d a => some ({ blank g 0x47 with type := t.code, xmod := bit hi }.put1 d a)
  | .hadd2 g t r d a b => some ({ blank g 0x53 with type := t.code, rnd := r.code }.put2 d a b)
  | .hmul2 g t r d a b => some ({ blank g 0x54 with type := t.code, rnd := r.code }.put2 d a b)
  | .hfma2 g t r d a b c => some ({ blank g 0x55 with type := t.code, rnd := r.code }.put3 d a b c)
  | .hmin2 g t d a b => some ({ blank g 0x56 with type := t.code }.put2 d a b)
  | .hmax2 g t d a b => some ({ blank g 0x57 with type := t.code }.put2 d a b)
  | .fdot2 g t r d a b c => some ({ blank g 0x58 with type := t.code, rnd := r.code }.put3 d a b c)
  | .cvtfi g t wide s r d a =>
    some ({ blank g 0x60 with type := t.code, xmod := s.code + 8 * bit wide, rnd := r.code }.put1 d a)
  | .cvtif g t s r d a => some ({ blank g 0x61 with type := t.code, xmod := s.code, rnd := r.code }.put1 d a)
  | .cvtff g t s r d a pk =>
    match pk with
    | none => some ({ blank g 0x62 with type := t.code, xmod := s.code, rnd := r.code }.put1 d a)
    | some b => some ({ blank g 0x62 with type := t.code, xmod := s.code + 8, rnd := r.code }.put2 d a b)
  | .iwiden g t d a => some ({ blank g 0x66 with type := t.code, xmod := t.xmod }.put1 d a)
  | .inarrow g t sat d a b =>
    match b with
    | none => some ({ blank g 0x67 with type := t.code, xmod := t.xmod + 16 * bit sat }.put1 d a)
    | some b => some ({ blank g 0x67 with type := t.code, xmod := t.xmod + 16 * bit sat }.put2 d a b)
  | .nfpack g k d a b c => some ({ blank g 0x63 with xmod := k.val }.put3 d a b c)
  | .nfunp g k d a b c => some ({ blank g 0x64 with xmod := k.val }.put3 d a b c)
  | .scaleblk g d a b c => some ((blank g 0x65).put3 d a b c)
  | .rbox g pd d a b => some { blank g 0x70 with type := 7, xmod := pd.val, dst := d.val, sra := a.code, srb := b.code }
  | .rtri g pd cull d a b =>
    some { blank g 0x71 with
      len := 2, type := 7, xmod := pd.val, dst := d.val, sra := a.code, srb := b.code, ext := cull.val }
  | .shfl g t mode d a =>
    match mode with
    | none => some { blank g 0xC0 with type := t.code, sub := 4, dst := d.val, sra := a.code }
    | some (m, b) =>
      some ({ blank g 0xC0 with type := t.code, sub := m.code, dst := d.val, sra := a.code }.withSource 2 b)
  | .vote g m pd pa neg => some { blank g 0xC1 with sub := m.code, xmod := pd.val + 8 * pa.val, rnd := bit neg }
  | .ballot g d pa neg => some { blank g 0xC2 with xmod := 8 * pa.val, rnd := bit neg, dst := d.val }
  | .match_ g t alleq d a =>
    match alleq with
    | none => some { blank g 0xC3 with type := t.code, dst := d.val, sra := a.code }
    | some pd => some { blank g 0xC3 with type := t.code, sub := 1, xmod := pd.val, dst := d.val, sra := a.code }
  | .gred g op d a => some { blank g 0xC4 with sub := op.sub, type := op.type, rnd := op.rnd, dst := d.code, sra := a.code }
  | .gscan g op excl d a =>
    some { blank g 0xC5 with
      sub := op.sub, type := op.type, rnd := op.rnd, xmod := bit excl, dst := d.val, sra := a.code }
  | .ld g t d a off =>
    some ({ blank g 0x80 with type := t.mem.code, xmod := t.xmod, dst := d.code, sra := a.code }.withOffset off)
  | .st g t a off b =>
    some ({ blank g 0x81 with type := t.code, xmod := t.xmod, sra := a.code, srb := b.code }.withOffset off)
  | .stF g t a off b c =>
    some ({ blank g 0x82 with type := t.code, xmod := t.xmod, sra := a.code, srb := b.code, src := c.code }.withOffset off)
  | .lds g t d a off =>
    some (({ blank g 0x83 with type := t.mem.code, xmod := t.xmod, dst := d.code }.withBase a).withOffset off)
  | .sts g t a off b =>
    some (({ blank g 0x84 with type := t.code, xmod := t.xmod, srb := b.code }.withBase a).withOffset off)
  | .ldc g t d a off =>
    some (({ blank g 0x85 with type := t.mem.code, xmod := t.xmod, dst := d.code }.withBase a).withOffset off)
  | .ldq g t m d a b c =>
    some { blank g 0x86 with type := t.code, xmod := m.code, dst := d.val, sra := a.code, srb := b.code, src := c.code }
  | .pref g l2 a off => some ({ blank g 0x87 with xmod := bit l2, sra := a.code }.withOffset off)
  | .sptest g pd a off => some (({ blank g 0x88 with xmod := pd.val }.withBase a).withOffset off)
  | .atom g op d a off b =>
    some ({ blank g 0xA0 with sub := op.sub, type := op.type, dst := d.code, sra := a.code, srb := b.code }.withOffset off)
  | .atoms g op d a off b =>
    some (({ blank g 0xA1 with sub := op.sub, type := op.type, dst := d.code, srb := b.code }.withBase a).withOffset off)
  | .cas g t d a off b c =>
    some ({ blank g 0xA2 with type := t.code, dst := d.code, sra := a.code, srb := b.code, src := c.code }.withOffset off)
  | .red g op a off b =>
    some ({ blank g 0xA3 with sub := op.sub, type := op.type, sra := a.code, srb := b.code }.withOffset off)
  | .atagg g op d a off b =>
    some ({ blank g 0xA4 with
      sub := op.sub, type := op.type, dst := d.code, sra := a.val + 192, srb := b.code }.withOffset off)
  | .fenceG g => some (blank g 0xB0)
  | .fenceS g => some { blank g 0xB0 with sub := 1 }
  | .fenceC g k d => some { blank g 0xB0 with sub := 2, xmod := k.val, dst := d.code }
  | .bar g b pd => some (objMods (blank g 0xB1) b pd)
  | .barArrive g b => some { blank g 0xB1 with xmod := b.val * 4, rnd := 1 }
  | .barinit g b ext counts =>
    let f := { blank g 0xB2 with xmod := b.val * 4 + 2 * bit ext }
    match counts with
    | .regs nt nc => some { f with sra := nt.val + 192, srb := nc.val + 192 }
    | .immT nt nc => some ({ f with srb := nc.val + 192 }.withImm 1 nt)
    | .immC nt nc => some ({ f with sra := nt.val + 192 }.withImm 2 nc)
    | .both nt nc => some { f with len := 1, ext := nt.toNat + 65536 * nc.toNat }
  | .barinv g b => some { blank g 0xB3 with xmod := b.val * 4 }
  | .qinit g q a => some ({ blank g 0xB4 with xmod := q.val * 4 }.withUni a)
  | .qpush g q a => some ({ blank g 0xB5 with xmod := q.val * 4 }.withUni a)
  | .qpop g q pd d => some { objMods (blank g 0xB6) q pd with dst := d.val + 192 }
  | .qtry g q pd d => some { objMods (blank g 0xB7) q pd with dst := d.val + 192 }
  | .qclose g q => some { blank g 0xB8 with xmod := q.val * 4 }
  | .fopen g d a => some ({ blank g 0xB9 with dst := d.val + 192 }.withUni a)
  | .fclose g a => some { blank g 0xBA with sra := a.val + 192 }
  | .launch g d a =>
    match a with
    | .s n => some { blank g 0xBB with dst := d.val + 192, sra := n.val + 192 }
    | .imm64 w => some { blank g 0xBB with dst := d.val + 192, len := 2, isel := 1, ext := w.toNat }
  | .mma g t acc z a b c =>
    some { blank g 0xD0 with
      len := 2, type := t.code, sra := a.val, srb := b.val, src := (match c with | none => 0 | some r => r.code)
      ext := acc.val + 16 * bit z }
  | .accz g k => some { blank g 0xD3 with xmod := k.val }
  | .accrdV g k d => some { blank g 0xD4 with xmod := k.val, dst := d.val }
  | .accrdSp g k a off => some (({ blank g 0xD4 with sub := 1, xmod := k.val }.withBase a).withOffset off)
  | .accrdT g t d => some { blank g 0xD4 with sub := 2, xmod := t.val, dst := d.val + 192 }
  | .accwrV g k a => some { blank g 0xD5 with xmod := k.val, sra := a.val }
  | .accwrSp g k a off => some (({ blank g 0xD5 with sub := 1, xmod := k.val }.withBase a).withOffset off)
  | .accwrT g t a => some { blank g 0xD5 with sub := 2, xmod := t.val, sra := a.val + 192 }
  | .forkM g o => some ((blank g 0xE0).withImm 0 o)
  | .forkC g o => some ({ blank g 0xE0 with sub := 1 }.withImm 0 o)
  | .rdvThread g w d => some { blank g 0xE1 with sub := (match w with | .m => 0 | .c => 1), dst := d.val + 192 }
  | .rdvSequencer g => some { blank g 0xE1 with sub := 2 }
  | .mmat g t acc z ta tb oa ob =>
    some { blank g 0xD1 with
      len := 2, type := t.code, sra := offsetCode oa, srb := offsetCode ob
      ext := acc.val + 16 * bit z + 32 * ta.val + 256 * tb.val + 2048 * bit oa.isSome + 4096 * bit ob.isSome }
  | .mvsScale g c p ta tb ofs =>
    some { blank g 0xD2 with
      len := 1, sra := offsetCode ofs
      ext := c.val + 16 * p.val + 256 * ta.val + 2048 * tb.val + 16384 * bit ofs.isSome }
  | .mvsSt g c ta ofs =>
    some { blank g 0xD2 with len := 1, sub := 1, sra := offsetCode ofs, ext := c.val + 256 * ta.val + 16384 * bit ofs.isSome }
  | .mvsStbf g c ta ofs =>
    some { blank g 0xD2 with len := 1, sub := 2, sra := offsetCode ofs, ext := c.val + 256 * ta.val + 16384 * bit ofs.isSome }
  | .mvsLd g c ta ofs =>
    some { blank g 0xD2 with len := 1, sub := 3, sra := offsetCode ofs, ext := c.val + 256 * ta.val + 16384 * bit ofs.isSome }
  | .cpl g dir size dst src =>
    let f := { blank g 0xE2 with type := size.type, sra := src.code, srb := dst.code, xmod := size.xmod }
    match dir with
    | .gs => some f
    | .sg c => some { f with sub := 1, xmod := size.xmod + c.val }
    | .gg c => some { f with sub := 2, xmod := size.xmod + c.val }
  | .cptIn g a b c => some { blank g 0xE3 with len := 2, sra := a.val + 192, srb := b.val + 192, src := c.val + 192 }
  | .cptOut g a b c cnt =>
    some { blank g 0xE3 with len := 2, sra := a.val + 192, srb := b.val + 192, src := c.val + 192, ext := 1 + 2 * cnt.val }
  | .ownEng g t ofs => some { blank g 0xE4 with xmod := t.val + 8 * bit ofs.isSome, sra := offsetCode ofs }
  | .ownThr g t ofs => some { blank g 0xE4 with sub := 1, xmod := t.val + 8 * bit ofs.isSome, sra := offsetCode ofs }
  | .residOpen g p d a b =>
    some { blank g 0xE5 with xmod := p.val, dst := d.val + 192, sra := a.val + 192, srb := b.val + 192 }
  | .residPrio g p d a => some { blank g 0xE5 with sub := 1, xmod := p.val, dst := d.val + 192, sra := a.val + 192 }
  | .residClose g d a => some { blank g 0xE5 with sub := 2, dst := d.val + 192, sra := a.val + 192 }
  | .nxch g dir i => some { blank g 0xE8 with len := 1, sub := dir.code, ext := i.code }
  | .nred g op gr i =>
    some { blank g 0xE9 with len := 1, sub := op.sub, type := op.type, rnd := op.rnd, xmod := gr.code, ext := i.code }
  | .nbc g gr r i => some { blank g 0xEA with len := 1, xmod := gr.code, sra := r.val + 192, ext := i.code }
  | .emit g slot a b c =>
    some { blank g 0xEB with xmod := slot.val, sra := a.code, srb := b.val + 192, src := c.val + 192 }
  | .emitend g slot a => some { blank g 0xEC with xmod := slot.val, sra := a.val + 192 }
  | .sysrd g num w d =>
    some { blank g 0xF0 with type := wideCode w, xmod := num.toNat / 4, rnd := num.toNat % 4, dst := d.val + 192 }
  | .syswr g num w a =>
    some ({ blank g 0xF1 with type := wideCode w, xmod := num.toNat / 4, rnd := num.toNat % 4 }.withSys a)
  | .syswrTtb g a => some ({ blank g 0xF1 with type := 4, xmod := 0, rnd := 3 }.withSys a)
  | .syswrCeil g a => some ({ blank g 0xF1 with type := 3, xmod := 1, rnd := 0 }.withSys a)
  | .eret g => some (blank g 0xF2)
  | .tlbinvPage g a => some { blank g 0xF3 with sra := a.val + 192 }
  | .tlbinvRange g a b => some { blank g 0xF3 with sub := 1, sra := a.val + 192, srb := b.val + 192 }
  | .tlbinvCtx g => some { blank g 0xF3 with sub := 2 }
  | .invrep g a => some { blank g 0xF4 with sra := a.val + 192 }
  | .invrepRange g a b => some { blank g 0xF4 with sub := 1, sra := a.val + 192, srb := b.val + 192 }
  | .ctxsaveCopy g d a => some { blank g 0xF5 with dst := d.val + 192, sra := a.val + 192 }
  | .ctxsavePark g d a => some { blank g 0xF5 with sub := 1, dst := d.val + 192, sra := a.val + 192 }
  | .ctxload g d a => some { blank g 0xF6 with dst := d.val + 192, sra := a.val + 192 }
  | .halt g a => some ((blank g 0xF7).withUni a)
  | .wdclr g => some (blank g 0xF8)
  | .stamp g a => some ((blank g 0xF9).withUni a)
  | .napEnd .. | .writeAtHome .. | .barrierWaveRelease .. | .folioClose .. | .copyCompletion ..
  | .collectiveCompletion .. | .primitivePacket .. | .closeMarker .. | .rasteriseGroup .. | .drawAdvance ..
  | .replicaConversion .. | .asyncErrorDelivery .. | .deadlockWatchdog .. | .externalWaitTimeout ..
  | .supervisorWatchdog .. | .weightWindowOpen .. | .placeSheet .. | .stealRequest .. | .stealRetry ..
  | .restoreListPass .. | .preemptionRequest .. | .drainTimeout .. | .save .. | .flush .. | .sheetRetire ..
  | .launchRetire .. | .rollback .. | .blotterSweep .. | .eccReencode .. | .countersignReplay .. | .pageWalk ..
  | .migrationCutover .. | .boostIntervalBoundary .. | .permitRefill .. | .retentionEntry .. | .retentionWake ..
  | .powerOn .. | .claim .. | .heartbeat .. | .handover .. | .leaseLapse | .status .. | .attest .. | .notices ..
  | .partCreate .. | .partEnd .. | .ctxCreate .. | .ctxEnd .. | .stewardLaunch .. | .preempt .. | .keyLoad ..
  | .keyClear .. | .keyGrant .. | .replicate .. | .migrate .. | .region .. | .clset .. | .checkpoint ..
  | .restore .. | .reset .. | .rdmaWrite .. | .rdmaRead .. | .linkUnreachable .. | .reAdmission ..
  | .checkpointComplete .. => none

/-- The instruction's word as one number (R184). -/
def encode (i : Instr) : Option Nat := (encodeFields i).map Fields.pack

/-- The instruction's bytes in memory order (R6, R184). -/
def encodeBytes (i : Instr) : Option (List Byte) :=
  (encodeFields i).map fun f => toBytesLE (lengthBytes f.len) f.pack

end Sys2Proof
end

