-- ==== Sys2Proof/Config.lean ====
section
/-! DEFINITION. What an implementation fixes and what the spec leaves open: free values and standard functions the spec
names and does not define. Every constant here is opaque, so no proof can see a value of it. -/

namespace Sys2Proof.Config

/-- The points at which the spec leaves a choice or a value open (R9); each draw is numbered (log entry 4). -/
inductive FreeKind where
  /-- Which of several things that can happen next happens (log entry 7). -/
  | nextEvent
  /-- Which program counter a gang issues (R23). -/
  | programCounter
  /-- The view time of a load above its lower bound (R131). -/
  | viewTime
  /-- A cached or a walked translation (R417). -/
  | translation
  /-- A byte of a load on a software-managed page: home or near cache (R103). -/
  | nearByte
  /-- Which thread's clock the panel raises, and how far (R128; log entry 8). -/
  | clockRaise
  /-- How far the scratchpad epoch rises (R132). -/
  | epoch
  /-- Which overlapping copy wins an element (R116). -/
  | copyWinner
  /-- Whether a copy reads a source element before or after a store in its span (R115). -/
  | copySource
  /-- Whether a copy element in flight when its context ends is written (R375). -/
  | copyAtEnd
  /-- The place of a duration the spec bounds or leaves open (R472). -/
  | duration
  /-- Old or new code bytes after a store to code (R183). -/
  | codeBytes
  /-- The order of primitives of equal token (R156). -/
  | tokenOrder
  /-- How many claims the envelope cap denies on a die (R473). -/
  | envelope
  /-- Whether the envelope cap denies claims of class 3 in an interval (R448, R473). -/
  | envelopeClass
  /-- Which launches are audited (R436). -/
  | sample
  /-- Energy drawn (R473). -/
  | energy
  /-- The fall of a cluster's supply current, in mA (R453). -/
  | taper
  /-- A cluster or victim the scheduling hardware may choose freely (R402 to R410). -/
  | placement
  /-- An error code the spec names no value for (R128, R361, R377). -/
  | errorCode
  /-- NOFF and ACT of a trap on a word that is no instruction (R383). -/
  | noInstruction
  /-- Bytes produced by a random generator (R419, R461). -/
  | random
  /-- Whether the first check of a matrix instruction fails, so that it is executed again (R433). -/
  | matrixRetry
  deriving DecidableEq, Repr

/-- The free values: the `n`-th draw of a kind. -/
opaque choice : FreeKind → Nat → Nat

/-- The address a notice of a trap at S carries, which names the gang: its sheet and gang number (R361; log entry 16). -/
opaque gangName : (sheet gang : Nat) → Nat

/-- Packets and markers a die's raster buffer holds for one slot (R163; log entry 17). -/
opaque rasterBuffer : Nat

/-- The record that the `n`-th power-on self-test and the configuration flash give (R457; log entry 3). -/
opaque selfTest : Nat → PowerOnRecord

/-- Ed25519 verification of a message under a key (R462; log entry 11). -/
opaque verify : BitVec 256 → List Byte → List Byte → Bool

/-- The device's Ed25519 signature of a message (R461; log entry 11). -/
opaque sign : List Byte → List Byte

/-- SHA-512 (R458; log entry 11). -/
opaque sha512 : List Byte → List Byte

/-- The AES keys a wrapped key block holds, if it unwraps (R467; log entry 11). -/
opaque unwrapKey : List Byte → Option (List Byte)

/-- What 32 bytes stored at a physical address under one key pair read as under another, byte by byte (R419; log entry 11). -/
opaque recrypt : (old new : List Byte) → (address : Nat) → List Byte → Nat → Byte

/-- The device identity public key and the device wrapping public key, derived from the PUF (R457). -/
opaque identityKey : BitVec 256
/-- The device wrapping public key (R457). -/
opaque wrappingKey : BitVec 256
/-- Steward ROM as the attestation report digests it (R460). -/
opaque stewardRom : List Byte
/-- The bytes of a ruling table of these entries (R457, R460; log entry 11). -/
opaque rulingTable : List (List Nat) → List Byte
/-- The root seal digest of the images of live clusters at these places: die, column and row (R457, R460; log entry 11). -/
opaque rootSeal : List (Nat × Nat × Nat) → List Byte
/-- How many regions beyond one the region table holds (R466; log entry 41). -/
opaque moreRegions : Nat
/-- How many regions the region table holds: one at least, since REGION gives a region (R466, R467; log entry 41). -/
def regionSlots : Nat := moreRegions + 1

end Sys2Proof.Config
end

