-- ==== Sys2Proof/Machine/Table.lean ====
section
/-! DEFINITION. Tables of numbered places, the one shape in which memory, registers, threads, gangs, sheets and every
other numbered thing is kept. A `Tab` lists places in rising order; a `Store` is a `Tab` that lists no place holding
its resting value. -/

namespace Sys2Proof.Machine

/-- The value at place `k`. -/
def tabGet {α : Type} (k : Nat) : List (Nat × α) → Option α
  | [] => none
  | (j, v) :: r => if j = k then some v else tabGet k r

/-- Put `v` at place `k`. -/
def tabPut {α : Type} (k : Nat) (v : α) : List (Nat × α) → List (Nat × α)
  | [] => [(k, v)]
  | (j, w) :: r => if j = k then (k, v) :: r else if k < j then (k, v) :: (j, w) :: r else (j, w) :: tabPut k v r

/-- Remove place `k`. -/
def tabDel {α : Type} (k : Nat) : List (Nat × α) → List (Nat × α)
  | [] => []
  | (j, w) :: r => if j = k then tabDel k r else (j, w) :: tabDel k r

/-- Change the value at place `k`, if there is one. -/
def tabMod {α : Type} (k : Nat) (f : α → α) (l : List (Nat × α)) : List (Nat × α) :=
  match tabGet k l with
  | none => l
  | some v => tabPut k (f v) l

/-- Change every value. -/
def tabMap {α : Type} (f : Nat → α → α) (l : List (Nat × α)) : List (Nat × α) := l.map fun p => (p.1, f p.1 p.2)

/-- The value at place `k` of a store whose resting value is `d`. -/
def stGet {β : Type} (d : β) (k : Nat) (l : Store β) : β := (tabGet k l).getD d

/-- Write place `k` of a store whose resting value is `d`. -/
def stPut {β : Type} [DecidableEq β] (d : β) (k : Nat) (v : β) (l : Store β) : Store β :=
  if v = d then tabDel k l else tabPut k v l

/-- Places strictly rising from `lo` on. -/
def risingFrom {α : Type} : Nat → List (Nat × α) → Bool
  | _, [] => true
  | lo, (k, _) :: r => lo ≤ k && risingFrom (k + 1) r

/-- The canonical form of a store: places strictly rising, none holding the resting value. -/
def storeWf {β : Type} [DecidableEq β] (d : β) (l : Store β) : Bool :=
  risingFrom 0 l && l.all (fun p => p.2 != d)

/-- A store with the values `vs` from place `k` on. -/
def stPutList {β : Type} [DecidableEq β] (d : β) (k : Nat) : List β → Store β → Store β
  | [], l => l
  | v :: vs, l => stPutList d (k + 1) vs (stPut d k v l)

/-- `n` values from place `k` on. -/
def stGetList {β : Type} (d : β) (k : Nat) : Nat → Store β → List β
  | 0, _ => []
  | n + 1, l => stGet d k l :: stGetList d (k + 1) n l

end Sys2Proof.Machine
end

