-- ==== Sys2Proof/Machine/State.lean ====
section
/-! DEFINITION. The state of the package: every register, memory, object and unit the spec names, as plain data; the
reasons a step can stop; and the state right after reset. -/

namespace Sys2Proof.Machine

/-- Why a step stops with a fault. -/
inductive Fault where
  /-- An instruction of a program is executed while no gang or sequencer is issuing. Raised by `enter`. Safe: the panel
  issues an instruction only from a gang or a sequencer (R23, R322). -/
  | noIssuer
  /-- A step of one of the panel's own units is executed while the condition its rule names does not hold. Raised by the
  meanings of those rows. Safe: the panel takes the step only when the condition holds. -/
  | notEnabled
  deriving DecidableEq, Repr

/-- Why a step is refused. -/
inductive Refusal where
  /-- The instruction has no meaning in this model. Raised only by Dispatch. Safe. -/
  | notModelled (mnemonic : String)
  deriving DecidableEq, Repr

/-- A table of numbered things. -/
abbrev Tab (α : Type) := List (Nat × α)

/-- The name of a register, for the scoreboard (R29) and the existence check (R52). -/
inductive RegName where
  | v (n : Nat) | s (n : Nat) | p (n : Nat) | t (n : Nat) | m (n : Nat) | a (n : Nat)
  deriving DecidableEq, Repr

/-- The registers of a gang (R51) or of a sequencer (R321). `v` is keyed by 64 · register + lane and `a` by
256 · fragment + element. Predicate p7 is not stored. -/
structure Regs where
  v : Store Word := []
  s : Store Word := []
  p : Store Mask := []
  t : Store DWord := []
  m : Store Mask := []
  a : Store Word := []
  deriving DecidableEq, Repr

/-- What a wait on scratchpad lines needs of every line. -/
inductive LineNeed where
  /-- Present and owned by the waiter's side (R97). -/
  | free
  /-- Owned by the waiter's side (R112, R341). -/
  | owned
  /-- Present, and read by no copy or collective in flight (R336). -/
  | idle
  deriving DecidableEq, Repr

/-- The states of a thread (R29). -/
inductive TState where
  | running
  | held
  /-- Waiting on scratchpad lines. -/
  | line (lines : List Nat) (need : LineNeed)
  | barrier (b : Nat) (pd : Fin 8)
  | push (q : Nat)
  | pop (q : Nat)
  /-- Waiting in RDV, with the register that receives the result. -/
  | seq (k : SeqKind) (d : Fin 64)
  | draw (slot draw : Nat)
  | nap (until_ : Nat)
  /-- Released by a barrier; runs from its wave's tick on (R179). -/
  | wave (at_ : Nat)
  /-- Released while the gang is at S; runs at U after ERET (R386). -/
  | uRun
  | exited
  deriving DecidableEq, Repr

/-- A thread (R15). -/
structure Thread where
  pc : Word
  stack : List (Word × Fin 8) := []
  clock : Nat
  st : TState := .running
  /-- When the present wait began, in ticks (R392). -/
  since : Nat := 0
  /-- Ticks of the same wait spent before the sheet was set aside: the restore makes the wait anew (R392, R397). -/
  again : Option Nat := none
  /-- Issues of the gang since the thread was last selected while it could be (R23). -/
  skipped : Nat := 0
  deriving DecidableEq, Repr

/-- A gang (R15, R51, R358, R386). -/
structure Gang where
  regs : Regs := {}
  threads : Tab Thread
  atS : Bool := false
  frame : Option Nat := none
  yielded : Bool := false
  /-- The issue cycle at which the gang became ready (R174). -/
  readyAt : Option Nat := none
  /-- Vector registers in the gang's register cache, the most recently used first (R62, R411). -/
  cache : List Nat := []
  /-- Vector registers stored in the register file as a single copy tagged uniform (R64). -/
  tags : List Nat := []
  /-- Registers not yet available, with the lane cycle from which they are (R29, R472). -/
  board : List (RegName × Nat) := []
  /-- Registers that receive the result of an atomic not yet performed, with its number among the writes (R29, R130). -/
  awaiting : List (RegName × Nat) := []
  /-- Slots and draws for which EMITEND was executed (R345). -/
  emitEnd : List (Nat × Nat) := []
  /-- Lanes that were waiting on a barrier at trap entry, with its number, and lanes that were napping, with 16 (R386, R387). -/
  entryWait : Tab Nat := []
  /-- The predicate results of barrier waits that ended while the gang was at S (R386, R387). -/
  relPd : List (Nat × Fin 8 × Bool) := []
  /-- Supervisor watchdog: ticks spent so far and the tick measuring resumed (R377). -/
  wdSpent : Nat := 0
  wdFrom : Option Nat := none
  deriving DecidableEq, Repr

/-- A sheet barrier (R299); the waiting set is the threads in `TState.barrier`. -/
structure Barrier where
  valid : Bool := false
  ext : Bool := false
  nt : Nat := 0
  nc : Nat := 0
  at_ : Nat := 0
  ac : Nat := 0
  clk : Nat := 0
  deriving DecidableEq, Repr

/-- The states of a queue (R119). -/
inductive QState where
  | uninit | opened | closed | broken
  deriving DecidableEq, Repr

/-- An entry of a queue with its producer slot and clock (R307, R401). -/
structure QEntry where
  val : Word
  slot : Nat
  clk : Nat
  deriving DecidableEq, Repr

/-- A producer slot: gang number, or 0x80000000 and 0x80000001 for the sequencers (R121, R401). -/
structure QSlot where
  who : Nat
  allow : Nat
  clk : Nat := 0
  exited : Bool := false
  deriving DecidableEq, Repr

/-- A gang waiting in QPOP, in the order the waits began (R307). -/
structure QPopWait where
  gang : Nat
  lanes : Mask
  dst : Fin 64
  pd : Fin 8
  next : Word
  deriving DecidableEq, Repr

/-- A queue (R119 to R121). -/
structure Queue where
  st : QState := .uninit
  cfg : Word := 0
  entries : List QEntry := []
  slots : List QSlot := []
  pops : List QPopWait := []
  endClk : Nat := 0
  deriving DecidableEq, Repr

/-- A completion counter (R114, R298). -/
structure Counter where
  count : Word := 0
  cmax : Nat := 0
  deriving DecidableEq, Repr

/-- A scratchpad line (R96); `stamp` is relative to the epoch (R132), `inXs` counts inbound copies that read only
external-signal pages (R390), `coll` counts inbound collectives (R399). -/
structure Line where
  present : Bool := true
  eng : Bool := false
  stamp : Nat := 0
  inbound : Nat := 0
  inXs : Nat := 0
  coll : Nat := 0
  deriving DecidableEq, Repr

/-- A trap a sequencer holds (R326). -/
structure HeldTrap where
  cause : Nat
  ioff : Word
  noff : Word
  addr : Nat
  info : Nat
  lane : Nat
  deriving DecidableEq, Repr

/-- The states of a sequencer (R321). -/
inductive SeqSt where
  | idle | running | parked | faulted
  deriving DecidableEq, Repr

/-- What a running sequencer waits for. -/
inductive SeqWait where
  | none
  | lines (l : List Nat) (need : LineNeed)
  | push (q : Nat)
  deriving DecidableEq, Repr

/-- A sequencer (R321). -/
structure Seq where
  st : SeqSt := .idle
  pc : Word := 0
  clock : Nat := 0
  regs : Regs := {}
  starter : Option Nat := none
  held : Option HeldTrap := none
  wait : SeqWait := .none
  /-- The tick of its latest issue: it issues once a tick (R472; log entry 70). -/
  issuedAt : Option Nat := none
  deriving DecidableEq, Repr

/-- A pending collective of a sheet (R341, R401): the match key and number name its partners. -/
structure PendColl where
  id : Nat
  bits : DWord
  imm : Word
  key : Nat
  num : Nat
  clock : Nat
  td : DWord
  ts : DWord
  op : FoldOp
  root : Nat
  /-- Whether the source tile has been read and sent to every partner. -/
  sent : Bool := false
  /-- Source bytes already read when a store to the tile came (R115). -/
  got : Tab Byte := []
  deriving DecidableEq, Repr

/-- A frame record as read (R148). -/
structure FrameRec where
  addr : Nat
  vb : Nat
  dz : Nat
  wm1 : Nat
  hm1 : Nat
  pitch : Nat
  jx : Int
  jy : Int
  ok : Bool
  deriving DecidableEq, Repr

/-- The present interval of a sheet (R427 to R429). -/
structure Interval where
  tag : Nat
  observed : Bool := false
  unprotected : Bool := false
  /-- Something of R395 was done since the shadow point. -/
  pinnedDown : Bool := false
  /-- Other contexts whose agents observed it (R442). -/
  observers : List Nat := []
  /-- Atoms whose prior version this interval pins. -/
  pins : List Nat := []
  deriving DecidableEq, Repr

/-- Where a sheet is (R373, R396). -/
inductive Residence where
  | on (cluster : Nat)
  /-- Saved or flushed, on the restore list of a die. -/
  | saved
  | parked (tag pk : Nat)
  deriving DecidableEq, Repr

/-- What arrives for a sheet that is set aside, delivered at restore (R396, R397). -/
inductive HeldArrival where
  | counter (c : Nat) (clk : Nat)
  deriving DecidableEq, Repr

/-- What a preemption request has decided for a sheet (R393). -/
inductive Request where
  | none
  /-- Draining; turned into a save at this tick. -/
  | drain (by_ : Nat)
  | save
  | flush
  deriving DecidableEq, Repr

/-- A trap: class, number of the failing check of R281, lane, address and detail (R379, R383, R384). -/
structure Trap where
  cause : Nat
  check : Nat := 0
  lane : Option Nat := none
  addr : Nat := 0
  info : Nat := 0
  /-- Uncorrectable data in a version of the sheet's own interval: a loss of its state, not a trap (R430). -/
  own : Bool := false
  deriving DecidableEq, Repr

/-- Where a trap is taken: the gang, the offsets of the instruction, and the lanes active and enabled for it. -/
structure TrapSite where
  sid : Nat
  gang : Nat
  ioff : Word
  noff : Word
  act : Mask
  enb : Mask
  deriving DecidableEq, Repr

/-- A sheet (R15, R31, R321). -/
structure Sheet where
  ctx : Nat
  launch : Nat
  index : Nat
  W : Nat
  T : Nat
  nv : Nat
  na : Nat
  spg : Nat
  pool : Nat
  duct : Nat
  diexy : Nat
  gangs : Tab Gang
  spad : Store Byte := []
  /-- Words of the sheet's pool granules and scratchpad that cannot be corrected (R434). -/
  bad : List PoolWord := []
  lines : Store Line := []
  epoch : Nat := 0
  bars : Tab Barrier := []
  queues : Tab Queue := []
  counters : Tab Counter := []
  fmt : Store Word := []
  preq : Nat := 0
  cyc : Nat := 0
  /-- WSTRETCH in ticks (R171). -/
  wstretch : Nat := 0
  mseq : Seq := {}
  cseq : Seq := {}
  /-- Collectives issued under each key (R339). -/
  matches_ : Tab Nat := []
  pend : List PendColl := []
  /-- Lines of collectives that can no longer complete, with the TD descriptor (R342). -/
  dead : List (Nat × Nat) := []
  /-- Frame records read, by 65,536 · slot + draw (R162). -/
  recs : Tab FrameRec := []
  ivl : Interval
  home : Residence
  /-- Placement order on its cluster (R175). -/
  order : Nat
  /-- Tick of the present residence's start, and of the first placement (R394, R410). -/
  placedAt : Nat
  firstAt : Nat
  /-- Tick of the next interval boundary for asynchronous errors (R388). -/
  errAt : Nat
  arrivals : List HeldArrival := []
  /-- Store signature and whether audit is excluded (R436, R437). -/
  sig : Nat := 0
  noAudit : Bool := false
  /-- A countersign replay performs no write (R437). -/
  replay : Option Nat := none
  /-- Waits whose deadlock trap is due at restore (R391). -/
  deadlockDue : Bool := false
  /-- The sheet was killed (R432): only this gang, at S, may still issue. -/
  killed : Option Nat := none
  /-- Uncorrectable data of the sheet's own interval was consumed: rollback or kill is due (R430). For a gang, where it consumed them
  and the trap that a kill makes of it (R432). -/
  loss : Option (Option (TrapSite × Trap)) := none
  request : Request := .none
  /-- Ticks of earlier residences, and when the sheet was last set aside (R392, R394). -/
  resided : Nat := 0
  asideAt : Nat := 0
  /-- Die of the last residence (R409). -/
  lastDie : Nat := 0
  deriving DecidableEq, Repr

/-- A shadow image of a sheet (R427): the sheet as it stood at its shadow point. -/
structure Shadow where
  sheet : Sheet
  /-- Whether the image is found uncorrectable (R432). -/
  bad : Bool := false
  deriving DecidableEq, Repr

/-- A dependence of a launch (R39). -/
structure Dep where
  addr : Nat
  /-- Physical address of the counter, where the watch of R403 is registered. -/
  pa : Nat
  /-- Key slot of its page (R419). -/
  key : Nat := 0
  thr : Nat
  met : Option Nat := none
  deriving DecidableEq, Repr

/-- A patch of the overlay (R201): offset of the immediate, and its bytes. -/
structure Patch where
  off : Nat
  bytes : List Byte
  deriving DecidableEq, Repr

/-- A run of unplaced sheet indices lo, lo + step, ... of one distributor (R405, R406). -/
structure Run where
  lo : Nat
  step : Nat
  count : Nat
  deriving DecidableEq, Repr

/-- A launch (R35 to R43, R195). -/
structure Launch where
  ctx : Nat
  kaddr : Nat
  entry : Nat
  mseq : Nat
  mseqN : Nat
  cseq : Nat
  cseqN : Nat
  gwid : Nat
  T : Nat
  pool : Nat
  dpc : Nat
  audit : Bool
  fmt : Store Word
  /-- Constant space: parameter block and constant image (R94). -/
  const : Store Byte
  patches : List Patch
  gx : Nat
  gy : Nat
  gz : Nat
  prio : Nat
  cpv : Bool
  caddr : Nat
  deps : List Dep
  submitClk : Nat
  /-- Order of eligibility; none while a dependence is unmet (R403). -/
  eligible : Option Nat := none
  /-- Unplaced sheets by logical die (R405). -/
  unplaced : Tab (List Run) := []
  left : Nat
  retired : Nat := 0
  /-- Sum of placement-to-retirement ticks over retired sheets (R394). -/
  spent : Nat := 0
  maxTime : Nat := 0
  /-- Whether the launch still holds its queue entry (R402). -/
  queued : Bool := true
  audits : Nat := 0
  /-- Linear indices of retired sheets (R342). -/
  gone : List Nat := []
  /-- Code blocks filled: cluster, virtual block address, bytes (R183). -/
  code : List (Nat × Nat × List Byte) := []
  deriving DecidableEq, Repr

/-- A leaf translation (R413): what a walk found for one 64 KiB page. -/
structure Leaf where
  pa : Nat
  pl : Nat
  cm : Bool
  xs : Bool
  ro : Bool
  x : Bool
  u : Bool
  key : Nat
  block : Bool
  /-- Physical address of the leaf entry. -/
  entryPa : Nat
  deriving DecidableEq, Repr

/-- The states of a folio slot (R122, R123, R309). -/
inductive FolioSt where
  | free | opened | closing | closed
  deriving DecidableEq, Repr

/-- One lane's store that has joined a folio (R285), with the interval it was made in (R431). -/
structure FolioStore where
  va : Nat
  pa : Nat
  key : Nat
  home : Nat
  /-- The clock of the lane when it issued (R124). -/
  clk : Nat := 0
  /-- The bytes of its width; none where a higher lane of the same instruction writes (R105). -/
  bytes : List (Option Byte)
  tag : Nat
  deriving DecidableEq, Repr

/-- A folio slot (R122 to R125). -/
structure Folio where
  st : FolioSt := .free
  gen : Nat := 0
  count : Nat := 0
  /-- Greatest clock of the contributors so far (R138). -/
  clk : Nat := 0
  /-- The stores under the handle, in the order they issued. -/
  joins : List FolioStore := []
  closeT : Nat := 0
  /-- The sheet, gang and lanes whose clocks rise to T (R310). -/
  closer : Option (Nat × Nat × Mask) := none
  deriving DecidableEq, Repr

/-- An asynchronous error (R388, R389, R442). -/
structure AsyncErr where
  code : Nat
  addr : Nat
  detail : Nat
  deriving DecidableEq, Repr

/-- A frame slot of a context (R152): the oldest unfinished draw and the launches bound to draws, oldest first. -/
structure FrameSlot where
  o : Nat := 0
  bound : List (Nat × Nat) := []
  deriving DecidableEq, Repr

/-- A residency handle (R106). -/
structure Handle where
  base : Nat
  len : Nat
  prio : Nat
  deriving DecidableEq, Repr

/-- A context (R363, R365, R402, R418). -/
structure Context where
  part : Nat
  svec : Nat
  tfrm : Nat
  ttb : Nat
  ceil : Nat
  cmax : Nat
  ewl : Nat := 0
  plq : Nat := 1000
  swd : Nat := 0
  tring : Nat := 0
  thead : Nat := 0
  audk : Nat := 0
  rank : Nat
  frames : List Nat := []
  folios : Tab Folio := []
  handles : Tab Handle := []
  errs : List AsyncErr := []
  lost : Nat := 0
  clock : Nat := 0
  /-- An access needed a time at or above 2^63 (R128); the context ends with the step. -/
  expired : Bool := false
  slots : Tab FrameSlot := []
  blockedAt : Option Nat := none
  /-- The dies' translation caches: die, page number and leaf (R416, R417). -/
  tlb : List (Nat × Nat × Leaf) := []
  /-- The clusters' near TLBs: cluster, page number and leaf (R416). -/
  near : List (Nat × Nat × Leaf) := []
  /-- Pages a translation with CM = 1 has served since the last discard, with their leaves (R422). -/
  soft : List (Nat × Leaf) := []
  /-- The dies' cached level-1 entries: die, entry index and the level-2 table it names (R416). -/
  mids : List (Nat × Nat × Nat) := []
  /-- First page, last page and least view time of the walks that began after a discard (R371, R417, R421, R426). -/
  floors : List (Nat × Nat × Nat) := []
  deriving DecidableEq, Repr

/-- The retained prior version of an atom (R104). -/
structure Prior where
  w : Nat
  bytes : List Byte
  /-- Write time of the version that replaced it (R129, R131). -/
  ends : Nat := 0
  /-- Tick at which it was replaced (R131). -/
  goneAt : Nat := 0
  /-- The interval that pins it (R428). -/
  pin : Option Nat := none
  /-- Context whose write replaced it: its retention horizon decides how long it is kept (R140). -/
  ctx : Nat := 0
  /-- Key slot it was stored under (R419). -/
  key : Nat := 0
  /-- Folio tag and version of the prior version (R138, R431). -/
  folio : Option Nat := none
  /-- Its poisoned words when it was replaced (R434; log entry 48). -/
  poison : Nat := 0
  deriving DecidableEq, Repr

/-- What the home keeps of an atom beside its bytes (R104, R428). -/
structure Atom where
  w : Nat := 0
  e : Nat := 0
  /-- Tick at which the current version was performed (R131). -/
  wAt : Nat := 0
  prior : Option Prior := none
  /-- Handle of the folio that wrote the current version. -/
  folio : Option Nat := none
  /-- Interval tag of the current version (R428). -/
  itag : Option Nat := none
  /-- Poisoned 8-byte words, bit k for bytes 8k to 8k + 7; 16 when the ECC unit is the whole atom (R434, R435). -/
  poison : Nat := 0
  /-- Key slot the atom is stored under (R419). -/
  key : Nat := 0
  /-- The die that is its home, where the page of its last write said so (R99, R100). -/
  home : Option Nat := none
  deriving DecidableEq, Repr

/-- What one lane does at a home. -/
inductive LaneOp where
  | store (bytes : List Byte)
  | red (op : AtomOp) (x : Nat)
  | atom (op : AtomOp) (x : Nat)
  | cas (wide : Bool) (want new : Nat)
  /-- One home operation for the gang (R296): the total, and each lane's exclusive prefix. -/
  | agg (op : AtomOp) (tot : Nat) (pre : Tab Nat)
  deriving DecidableEq, Repr

/-- One lane's part of a write not yet performed. -/
structure LaneWrite where
  lane : Nat
  va : Nat
  pa : Nat
  key : Nat
  op : LaneOp
  /-- The die of the home (R99, R100). -/
  home : Option Nat := none
  /-- The request ID of an atomic, a reduction or an ATAGG: CLID and number (R424). -/
  req : Option (Nat × Nat) := none
  deriving DecidableEq, Repr

/-- A write issued and not yet performed at its home (R130), with the folio handle of an ST.F (R285). -/
structure PendWrite where
  sheet : Nat
  gang : Nat
  ctx : Nat
  /-- Lanes whose clocks take the time (R129, R280). -/
  lanes : Mask
  /-- Whether the instruction ran once for the gang (R280). -/
  once : Bool
  /-- The cluster whose near cache holds the bytes dirty, for a software-managed page (R103). -/
  dirtyOn : Option Nat
  /-- Interval tag of the sheet at issue (R428). -/
  tag : Nat := 0
  parts : List LaneWrite
  /-- The register an atomic's old value goes to, and whether it is a pair (R294 to R296). -/
  dst : Option Reg := none
  wide : Bool := false
  deriving DecidableEq, Repr

/-- One read of a copy from global memory, not yet made. -/
structure CopyRead where
  va : Nat
  pa : Nat
  key : Nat
  /-- Bytes read; for a 4-bit element 1. -/
  n : Nat
  /-- For a 4-bit element, whether it lies in the high nibble. -/
  high : Option Bool
  /-- Scratchpad byte it goes to (for a 4-bit element, twice the byte plus 1 for the high nibble), or index in `out`. -/
  dst : Nat
  deriving DecidableEq, Repr

/-- One element a copy writes to global memory. -/
structure CopyElem where
  va : Nat
  pa : Nat
  key : Nat
  bytes : List Byte
  /-- Nibble enables of each byte: bit 0 low, bit 1 high (R110). -/
  en : List Nat
  /-- Scratchpad nibbles of each byte, low and high, while the element is not read (R115); empty once it is. -/
  src : List (Nat × Nat) := []
  /-- The die of the home (R99, R100). -/
  home : Option Nat := none
  /-- Bytes of one element written, 0 for a 4-bit element (R437). -/
  size : Nat := 4
  /-- Aligned 4-byte elements, by physical address / 4, that another copy wins (R116). -/
  ceded : List Nat := []
  deriving DecidableEq, Repr

/-- One scratchpad destination of a copy. -/
structure CopyDest where
  sheet : Nat
  lines : List Nat
  /-- Barrier that receives the arrival (R113). -/
  mbar : Option Nat
  /-- Aligned 4-byte elements another copy wins (R116). -/
  lost : List Nat := []
  deriving DecidableEq, Repr

/-- A copy in flight (R107 to R116, R137). -/
structure Copy where
  ctx : Nat
  sheet : Nat
  issue : Nat
  /-- Time of the source reads. -/
  view : Nat
  /-- Greatest time of any access so far. -/
  top : Nat
  reads : List CopyRead := []
  /-- Bytes for scratchpad, the same in every destination. -/
  spad : Tab Byte := []
  dests : List CopyDest := []
  out : List CopyElem := []
  cnt : Option Nat := none
  /-- Scratchpad lines it reads (R112). -/
  srcLines : List Nat := []
  /-- Interval tag of the sheet at issue (R428). -/
  tag : Nat := 0
  /-- Whether every global page it reads is external-signal (R390). -/
  xs : Bool := false
  deriving DecidableEq, Repr

/-- Data of one collective sent by a sheet (R339): held by the fabric until every partner has it. -/
structure CollMsg where
  launch : Nat
  index : Nat
  key : Nat
  num : Nat
  clk : Nat
  rows : List (List Byte)
  deriving DecidableEq, Repr

/-- A primitive packet (R154) on its way to a die. -/
structure Packet where
  die : Nat
  ctx : Nat
  slot : Nat
  fr : Nat
  draw : Nat
  group : Nat
  prim : Nat
  xy : List Int
  z : List Word
  vid : Word
  gcm1 : Nat
  clk : Nat
  sheet : Nat
  deriving DecidableEq, Repr

/-- A close marker (R155) on its way to a die. -/
structure Marker where
  die : Nat
  ctx : Nat
  slot : Nat
  draw : Nat
  group : Nat
  gcm1 : Nat
  clk : Nat
  sheet : Nat
  deriving DecidableEq, Repr

/-- What a die's raster unit holds of one draw (R155 to R162). -/
structure DrawState where
  gcm1 : Nat
  packets : List Packet := []
  /-- Clock of each close marker received, by group. -/
  marks : Tab Nat := []
  /-- Next group to rasterise. -/
  next : Nat := 0
  record : Option FrameRec := none
  /-- The draw is discarded on the die (R149). -/
  failed : Bool := false
  deriving DecidableEq, Repr

/-- A die's raster unit for one slot of one context. -/
structure RasterSlot where
  clk : Nat := 0
  draws : Tab DrawState := []
  deriving DecidableEq, Repr

/-- A directory entry of a replicated page (R420). -/
structure Replica where
  ctx : Nat
  page : Nat
  /-- Physical address of the page, and the home die whose directory holds the entry. -/
  pa : Nat
  home : Nat
  /-- Address of the replica in each live die of the partition. -/
  copies : Tab Nat
  converting : Bool := false
  deriving DecidableEq, Repr

/-- A page migration in progress (R425). -/
structure Migration where
  ctx : Nat
  page : Nat
  src : Nat
  dst : Nat
  deriving DecidableEq, Repr

/-- A countersign audit in progress (R437, R438): the finished sheet, and the cluster and signature of the original and
of each replay that has ended. -/
structure Audit where
  sheet : Sheet
  sigs : List (Nat × Nat)
  /-- The replay sheet now running. -/
  running : Option Nat := none
  /-- Whether the replay performs its writes (R438). -/
  writes : Bool := false
  /-- The rewriting replay has been ordered: the cluster it runs on. -/
  rewrite : Option Nat := none
  deriving DecidableEq, Repr

/-- A cluster (R366, R169, R174, R451). -/
structure Cluster where
  die : Nat
  cx : Nat
  cy : Nat
  aw : Nat
  lgr : Nat
  lln : Nat
  igang : Nat
  ratio : Nat
  /-- A lane ratio firmware wrote while a sheet was resident (R366). -/
  ratioNext : Option Nat := none
  didt : Nat
  /-- The tick of the latest wave sequence, and the gangs it releases: placement order, sheet, gang and lanes (R452). -/
  wavesAt : Nat × List (Nat × Nat × Nat × List Nat) := (0, [])
  fstep : Nat := 0
  /-- Front-end step to take at the next lane-cycle boundary (R167). -/
  fnext : Option Nat := none
  /-- Weight of the present window, and its issue cycles left (R174). -/
  window : Nat := 3
  windowLeft : Nat := 0
  issueNo : Nat := 0
  laneNo : Nat := 0
  /-- Tick at which the next issue cycle begins. -/
  nextAt : Nat := 0
  /-- The second half pass of the present issue cycle is still to come (R168). -/
  half : Bool := false
  /-- The gangs of the active set, by sheet and gang number, those the selector would choose soonest first (R62, R411). -/
  active : List (Nat × Nat) := []
  /-- Execute-stage occupancy: first lane cycle no longer occupied, multiple in quarters (R169). -/
  occ : List (Nat × Nat) := []
  /-- Since when the cluster has been idle at class 0 (R451). Its current falls from there, and the ballast tapers (R453). -/
  idleAt : Option Nat := none
  /-- In retention mode (R451). -/
  retained : Bool := false
  /-- The tick by which a waking cluster issues again (R451). -/
  wakeBy : Option Nat := none
  enrg : Nat := 0
  quarantined : Bool := false
  /-- ECC code of the pool, and the code a change has set (R435). -/
  ecc : Nat × Nat := (0, 0)
  /-- Near-cache bytes of software-managed pages by physical address; a dirty one with the tag of the interval that stored it
  (R103, R428). -/
  near : Tab (Byte × Option Nat) := []
  /-- Copies of atoms of other packages: when each was asked for, and the write time its home had then (R131). -/
  remote : Tab (Nat × Nat) := []
  orders : Nat := 0
  deriving DecidableEq, Repr

/-- The steal state of a distributor (R406). -/
inductive Steal where
  | none
  /-- Asking the distributor this many steps ahead. -/
  | asking (k : Nat)
  /-- All were asked without result; asks again at this tick. -/
  | resting (at_ : Nat)
  deriving DecidableEq, Repr

/-- What a distributor offers (R408): a saved sheet, or the next unplaced sheet of a launch. -/
inductive Offer where
  | saved (sheet : Nat)
  | new (launch index : Nat)
  deriving DecidableEq, Repr

/-- A preemption request (R410): the sheet that caused it, the cluster it is to have, and the victims there with the granules and
gangs each frees. -/
structure Asked where
  offer : Offer
  cluster : Nat
  victims : List (Nat × Nat × Nat)
  deriving DecidableEq, Repr

/-- A die (R443, R404 to R410, R435, R440). -/
structure Die where
  rank : Nat
  x : Nat
  y : Nat
  permits : Nat := 64
  pointer : Nat := 0
  /-- Consecutive boost-idle intervals, the present one included (R449). -/
  idle : Nat := 0
  /-- Tick of the next interval boundary (R443). -/
  boostAt : Nat := 0
  /-- Saved sheets awaiting restore: sheet and the tick it joined the list here (R409). -/
  restore : List (Nat × Nat) := []
  /-- For each scheduling key, the CTXID after which the rotation offers (R404). -/
  rotation : Tab Nat := []
  /-- The preemption request made last and not yet done with (R410). -/
  asked : Option Asked := none
  steal : Steal := .none
  /-- Offered sheets that fit nowhere on the die, and since when (R408, R410). -/
  waiting : List (Offer × Nat) := []
  raster : Tab RasterSlot := []
  /-- ECC code of each L2 slice, and the code a change has set (R435). -/
  ecc : Tab (Nat × Nat) := []
  deriving DecidableEq, Repr

/-- A partition (R418). -/
structure Partition where
  x0 : Nat
  y0 : Nat
  x1 : Nat
  y1 : Nat
  winBase : Nat
  winSize : Nat
  ranges : List (Nat × Nat)
  devices : List Nat
  deriving DecidableEq, Repr

/-- A notice to the penholder (R467). -/
structure Notice where
  kind : Nat
  ctx : Nat
  code : Nat
  origin : Nat
  etime : Nat
  addr : Nat
  deriving DecidableEq, Repr

/-- A RoCEv2 region (R469). -/
structure Region where
  ctx : Nat
  base : Nat
  len : Nat
  deriving DecidableEq, Repr

/-- A reply sent by the steward (R465): code, sequence number, status and body. -/
structure Reply where
  code : Nat
  seq : Nat
  key : BitVec 256
  stat : Nat
  body : List Byte
  deriving DecidableEq, Repr

/-- A key slot (R419): its contents, none while empty, and the partitions granted. -/
structure KeySlot where
  key : Option (List Byte) := none
  /-- The key pair the slot held last, under which what was written is stored. -/
  last : Option (List Byte) := none
  grants : Nat := 0
  deriving DecidableEq, Repr

/-- The state a checkpoint keeps (R468): memory with its coherence state, and what belongs to the partition's contexts. -/
structure Checkpoint where
  part : Nat
  /-- The grants whose memory it holds, and the tier it lies in (R458, R464). -/
  grant : Partition
  tier : List Byte := []
  mem : Store Byte
  atoms : Store Atom
  ctxs : Tab Context
  launches : Tab Launch
  sheets : Tab Sheet
  shadows : Tab Shadow
  msgs : List CollMsg
  packets : Tab Packet
  markers : Tab Marker
  /-- Raster slots by die. -/
  raster : Tab (Tab RasterSlot)
  replicas : List Replica
  audits : Tab Audit
  /-- Images of its saved sheets (R398). -/
  images : Tab (List Byte)
  deriving DecidableEq, Repr

/-- The steward chiplets and the controllers' protocol (R457 to R470). -/
structure Steward where
  /-- Bring-up has run (R457). -/
  up : Bool := false
  badConfig : Bool := false
  active : Nat := 0
  keys : List (BitVec 256) := []
  shipped : Option Grade := none
  /-- HBM capacity in GB and the highest sustained boost step, as bring-up measured them (R441). -/
  measured : Nat × Nat := (0, 0)
  /-- The HBM stacks and the UCIe edges that passed their self-test: die rank and GB, and the ranks an edge joins (R457). -/
  hbmStacks : List (Nat × Nat) := []
  edges : List (Nat × Nat) := []
  /-- The configuration record, and the checkpoint safe tier it lists (R457, R458). -/
  record : List Byte := []
  tier : List Byte := []
  /-- The package is down after RESET, so that bring-up re-admits its agents (R440). -/
  restarted : Bool := false
  device : Nat := 0
  pen : Option (BitVec 256) := none
  leaseEnd : Nat := 0
  seqs : List (BitVec 256 × Nat) := []
  notices : List Notice := []
  regions : Tab Region := []
  outbox : List Reply := []
  /-- RDMA data returned (R469). -/
  rdmaOut : List (List Byte) := []
  checkpoints : Tab Checkpoint := []
  /-- A checkpoint in progress (R468): its identity and partition. -/
  saving : Option (Nat × Nat × CmdHdr) := none
  /-- The current grade the penholder was last told of, below the shipped one (R441). -/
  gradeSeen : Option Grade := none
  deriving DecidableEq, Repr

/-- What reaches the package from outside: a datagram, an RDMA access, a fault or a link event. -/
inductive Input where
  | datagram (bytes : List Byte)
  | event (i : Instr)
  /-- The shadow image of a sheet is found uncorrectable (R432). -/
  | shadowLost (sheet : Nat)
  deriving DecidableEq, Repr

/-- One thing that can happen between instructions (log entry 7). -/
inductive Happening where
  | unit (i : Instr)
  | cycle (cluster : Nat)
  | sequencer (sheet : Nat) (k : SeqKind)
  | input
  /-- A thread's clock rises (R128). -/
  | raise
  | time
  deriving DecidableEq, Repr

/-- Which agent of a sheet issues (R23, R322). -/
inductive Agent where
  | gang (g : Nat)
  | seq (k : SeqKind)
  deriving DecidableEq, Repr

/-- What stands at a program counter. -/
inductive Fetched where
  | pad
  | instr (i : Instr)
  /-- A trap, with NOFF and the active lanes of its frame; none when the word is no instruction. -/
  | trap (t : Trap) (site : Option (Word × Guard))
  deriving DecidableEq, Repr

/-- The issue in progress (log entry 7): the agent, the lanes the divergence state enables, the offset of the instruction, and what
the selector saw there. -/
structure Issue where
  sheet : Nat
  agent : Agent
  lanes : Mask
  pc : Word
  /-- What the selector fetched; a sequencer, and a program placed from outside, fetch as they issue. -/
  seen : Option Fetched := none
  deriving DecidableEq, Repr

/-- The package. -/
structure State where
  /-- Memory by physical address (R362): strictly rising, no entry equal to what an unlisted byte reads as. -/
  mem : Store Byte := []
  atoms : Store Atom := []
  /-- ETIME in ticks; 96,512 ticks make 1 ns (log entry 9). -/
  now : Nat := 0
  /-- The model's own counter of free choices (log entry 4). -/
  choices : Nat := 0
  issue : Option Issue := none
  nextId : Nat := 1
  sheets : Tab Sheet := []
  shadows : Tab Shadow := []
  launches : Tab Launch := []
  ctxs : Tab Context := []
  parts : Tab Partition := []
  clusters : Tab Cluster := []
  dies : Tab Die := []
  keys : Tab KeySlot := []
  steward : Steward := {}
  writes : Tab PendWrite := []
  copies : Tab Copy := []
  msgs : List CollMsg := []
  packets : Tab Packet := []
  markers : Tab Marker := []
  /-- The directories of replicated pages (R420). -/
  replicas : List Replica := []
  migrations : Tab Migration := []
  audits : Tab Audit := []
  /-- Request IDs a home has executed: die of the home, CLID, number, and the tick (R424). -/
  requests : List (Nat × Nat × Nat × Nat) := []
  requestNo : Nat := 0
  imageTag : Nat := 0
  /-- Placement stopped by a checkpoint (R468): the partition. -/
  placeStop : Option Nat := none
  /-- Peer packages declared unreachable (R470). -/
  unreachable : List Nat := []
  /-- Incarnation numbers (R440): dies by rank, the steward chiplets at 64 and 65, peer packages by device number from 256. -/
  incarnations : Tab Nat := []
  /-- Images of saved sheets in the HBM regions firmware reserves (R396, R398). -/
  images : Tab (List Byte) := []
  inputs : List Input := []
  /-- What can happen and whose moment is open, with the tick by which it happens: every duration is finite (R48, R472). -/
  due : List (Happening × Nat) := []
  /-- The tick at which the panel last raised a clock: at most once a tick (R128; log entry 8). -/
  raisedAt : Option Nat := none
  deriving DecidableEq, Repr

/-- The machine right after reset: bring-up has not run, no cluster is known, no context, launch or sheet exists, and
memory lists nothing (log entries 1, 12). -/
def State.reset : State := {}

end Sys2Proof.Machine
end

