-- ==== Sys2Proof/Machine/Operands.lean ====
section
/-! DEFINITION. Reading and writing the registers of a gang or a sequencer: guards and active lanes, every operand form,
and the destinations of R53 and R213. -/

namespace Sys2Proof.Machine

/-- Lane `l` of a mask. -/
def laneOn (m : Mask) (l : Nat) : Bool := m.getLsbD l

/-- The mask with lanes 0 to n − 1. -/
def lanesBelow (n : Nat) : Mask := BitVec.ofNat 64 (2 ^ n - 1)

/-- The lanes of a mask in increasing order, below `W`. -/
def lanesOf (m : Mask) (W : Nat) : List Nat := (List.range W).filter (laneOn m)

/-- The lowest-numbered lane of a mask. -/
def lowestLane (m : Mask) (W : Nat) : Option Nat := (lanesOf m W).head?

/-- The mask of a list of lanes. -/
def maskOf (ls : List Nat) : Mask := ls.foldl (fun m l => m ||| BitVec.ofNat 64 (2 ^ l)) 0

/-- Vector register `n` in lane `l`. -/
def Regs.vec (r : Regs) (n l : Nat) : Word := stGet 0 (64 * n + l) r.v
/-- Uniform register `n`. -/
def Regs.uni (r : Regs) (n : Nat) : Word := stGet 0 n r.s
/-- Predicate `p` as a mask; p7 reads true (R51). -/
def Regs.pred (r : Regs) (p : Fin 8) : Mask := if p.val = 7 then 18446744073709551615 else stGet 0 p.val r.p
/-- Tile descriptor `n`. -/
def Regs.tile (r : Regs) (n : Nat) : DWord := stGet 0 n r.t
/-- Rejoin mask `k`. -/
def Regs.rejoin (r : Regs) (k : Nat) : Mask := stGet 0 k r.m
/-- Element `e` of accumulator fragment `k`. -/
def Regs.acc (r : Regs) (k e : Nat) : Word := stGet 0 (256 * k + e) r.a

/-- Write a vector register in one lane. -/
def Regs.setVec (r : Regs) (n l : Nat) (x : Word) : Regs := { r with v := stPut 0 (64 * n + l) x r.v }
/-- Write a uniform register. -/
def Regs.setUni (r : Regs) (n : Nat) (x : Word) : Regs := { r with s := stPut 0 n x r.s }
/-- Write a predicate's mask; a write to p7 is ignored (R51). -/
def Regs.setPred (r : Regs) (p : Fin 8) (x : Mask) : Regs := if p.val = 7 then r else { r with p := stPut 0 p.val x r.p }
/-- Write a tile descriptor, unchecked (R58). -/
def Regs.setTile (r : Regs) (n : Nat) (x : DWord) : Regs := { r with t := stPut 0 n x r.t }
/-- Write a rejoin mask. -/
def Regs.setRejoin (r : Regs) (k : Nat) (x : Mask) : Regs := { r with m := stPut 0 k x r.m }
/-- Write one element of a fragment. -/
def Regs.setAcc (r : Regs) (k e : Nat) (x : Word) : Regs := { r with a := stPut 0 (256 * k + e) x r.a }

/-- Predicate `p` in lane `l`. -/
def Regs.predAt (r : Regs) (p : Fin 8) (l : Nat) : Bool := laneOn (r.pred p) l

/-- The guard in lane `l` (R184, R186). -/
def Regs.guardAt (r : Regs) (g : Guard) (l : Nat) : Bool := r.predAt g.p l != g.neg

/-- What an instruction sees of its issuer: registers, effective width and the lanes the divergence state enables. -/
structure View where
  regs : Regs
  W : Nat
  lanes : Mask
  deriving DecidableEq, Repr

/-- The enabled lanes in increasing order. -/
def View.enabled (c : View) : List Nat := lanesOf c.lanes c.W
/-- The active lanes (R13): enabled, with the guard true. -/
def View.active (c : View) (g : Guard) : List Nat := c.enabled.filter (c.regs.guardAt g)
/-- Whether a gang-level instruction, or one on the uniform datapath, acts: the guard of the lowest-numbered enabled
lane (R53, R213). -/
def View.acts (c : View) (g : Guard) : Bool :=
  match c.enabled.head? with
  | none => false
  | some l => c.regs.guardAt g l
/-- The lane whose guard decides. -/
def View.lead (c : View) : Nat := c.enabled.head?.getD 0

/-- A register's value in a lane. -/
def View.reg32 (c : View) (l : Nat) (r : Reg) : Word :=
  match r with
  | .v n => c.regs.vec n.val l
  | .s n => c.regs.uni n.val
/-- Register `k` after a register of the same class. -/
def View.regPlus (c : View) (l : Nat) (r : Reg) (k : Nat) : Word :=
  match r with
  | .v n => c.regs.vec (n.val + k) l
  | .s n => c.regs.uni (n.val + k)
/-- A pair's value in a lane, low word in the even register (R7). -/
def View.reg64 (c : View) (l : Nat) (r : Reg) : DWord := c.regPlus l r 1 ++ c.regPlus l r 0
/-- A 32-bit source. -/
def View.src32 (c : View) (l : Nat) (o : Operand) : Word :=
  match o with
  | .reg r => c.reg32 l r
  | .imm w => w
  | .imm64 w => w.setWidth 32
/-- A 64-bit source; a 32-bit immediate is sign-extended (R189). -/
def View.src64 (c : View) (l : Nat) (o : Operand) : DWord :=
  match o with
  | .reg r => c.reg64 l r
  | .imm w => w.signExtend 64
  | .imm64 w => w
/-- A uniform or immediate source of a gang-level instruction. -/
def View.uop (c : View) (o : UOperand) : Word :=
  match o with
  | .s n => c.regs.uni n.val
  | .imm w => w
/-- A uniform pair. -/
def View.upair (c : View) (n : Fin 64) : DWord := c.regs.uni (n.val + 1) ++ c.regs.uni n.val

/-- A global effective address (R278). -/
def View.globalAt (c : View) (l : Nat) (a : Reg) (off : Option Word) : Nat :=
  (c.reg64 l a + (off.getD 0).signExtend 64).toNat
/-- A scratchpad or constant effective address (R278). -/
def View.localAt (c : View) (l : Nat) (a : Option Reg) (off : Option Word) : Nat :=
  ((a.map (c.reg32 l)).getD 0 + off.getD 0).toNat

/-- Write a 32-bit value to a vector register in each of the lanes. -/
def Regs.putLanes (r : Regs) (n : Nat) (f : Nat → Word) (ls : List Nat) : Regs :=
  ls.foldl (fun r l => r.setVec n l (f l)) r

/-- Write a 32-bit result: in every active lane of a vector destination, or once into a uniform one (R53, R213). -/
def View.put32 (c : View) (g : Guard) (d : Reg) (f : Nat → Word) : Regs :=
  match d with
  | .v n => c.regs.putLanes n.val f (c.active g)
  | .s n => if c.acts g then c.regs.setUni n.val (f c.lead) else c.regs

/-- Write the two words of a 64-bit result (R7). -/
def View.put64 (c : View) (g : Guard) (d : Reg) (f : Nat → DWord) : Regs :=
  match d with
  | .v n =>
    (c.regs.putLanes n.val (fun l => (f l).setWidth 32) (c.active g)).putLanes (n.val + 1)
      (fun l => (f l).extractLsb' 32 32) (c.active g)
  | .s n =>
    if c.acts g then
      (c.regs.setUni n.val ((f c.lead).setWidth 32)).setUni (n.val + 1) ((f c.lead).extractLsb' 32 32)
    else c.regs

/-- Write a group of words from a register on, in each of the lanes. -/
def View.putGroup (c : View) (n : Nat) (ls : List Nat) (f : Nat → List Word) : Regs :=
  ls.foldl (fun r l => ((f l).zipIdx).foldl (fun r p => r.setVec (n + p.2) l p.1) r) c.regs

/-- The mask with lane `l` set to `b`. -/
def setLane (m : Mask) (l : Nat) (b : Bool) : Mask :=
  if b then m ||| BitVec.ofNat 64 (2 ^ l) else m &&& ~~~(BitVec.ofNat 64 (2 ^ l))

/-- Write a predicate in each of the lanes. -/
def Regs.putPred (r : Regs) (pd : Fin 8) (ls : List Nat) (f : Nat → Bool) : Regs :=
  r.setPred pd (ls.foldl (fun m l => setLane m l (f l)) (r.pred pd))

/-- Write a predicate in every active lane (R13). -/
def View.putPred (c : View) (g : Guard) (pd : Fin 8) (f : Nat → Bool) : Regs := c.regs.putPred pd (c.active g) f

end Sys2Proof.Machine

namespace Sys2Proof

/-- The register an operand code names, with its group size. -/
def Reg.group (r : Reg) (k : Nat) : Machine.RegName × Nat :=
  match r with
  | .v n => (.v n.val, k)
  | .s n => (.s n.val, k)

/-- The registers a source names. -/
def Operand.group (o : Operand) (k : Nat) : List (Machine.RegName × Nat) :=
  match o with
  | .reg r => [r.group k]
  | _ => []

end Sys2Proof
end

