-- ==== Sys2Proof/Machine/Flags.lean ====
section
/-! DEFINITION. Predicate computations (the P48 keeps no status flags, R71): comparisons, combination, truth tables, and
the integer arithmetic of R226 to R238 as functions of words. -/

namespace Sys2Proof

/-- A word by type: signed for .i32, unsigned for .n32 (R73). -/
def IntTy.val (t : IntTy) (w : Word) : Int :=
  match t with
  | .i32 => w.toInt
  | .n32 => w.toNat

/-- The smallest and largest values of a type (R228). -/
def IntTy.lo : IntTy → Int
  | .i32 => -2147483648
  | .n32 => 0
/-- The largest value of a type (R228). -/
def IntTy.hi : IntTy → Int
  | .i32 => 2147483647
  | .n32 => 4294967295

/-- The integer type of an addition that is not .b64. -/
def AddTy.int : AddTy → IntTy
  | .i32 => .i32
  | .n32 => .n32
  | .b64 => .n32

end Sys2Proof

namespace Sys2Proof.Machine

/-- The comparisons of R239. -/
def icmpHolds (c : ICmp) (a b : Int) : Bool :=
  match c with
  | .eq => a == b
  | .ne => a != b
  | .lt => a < b
  | .le => a ≤ b
  | .gt => b < a
  | .ge => b ≤ a

/-- Combine a comparison with a predicate in a lane (R239). -/
def combineAt (r : Regs) (cb : Combine) (l : Nat) (x : Bool) : Bool :=
  match cb with
  | .none => x
  | .and q => x && r.predAt q l
  | .or q => x || r.predAt q l
  | .xor q => x != r.predAt q l

/-- Bit (pa + 2·pb + 4·pc) of a truth table (R241). -/
def truthBit (tt : Byte) (a b c : Bool) : Bool := tt.getLsbD ((if a then 1 else 0) + (if b then 2 else 0) + (if c then 4 else 0))

/-- An exact integer into 32 bits (R73). -/
def wrap32 (x : Int) : Word := BitVec.ofInt 32 x

/-- Narrow an exact result, saturating or modulo 2^32 (R228). -/
def narrow (t : IntTy) (sat : Bool) (x : Int) : Word := wrap32 (if sat then max t.lo (min x t.hi) else x)

/-- A + B or A − B (R228). -/
def addSub (sub : Bool) (t : IntTy) (sat : Bool) (a b : Word) : Word :=
  narrow t sat (if sub then t.val a - t.val b else t.val a + t.val b)

/-- The high word of the product (R229). -/
def mulHigh (t : IntTy) (a b : Word) : Word := wrap32 ((t.val a * t.val b) / 4294967296)

/-- A × B + C modulo 2^64 (R229). -/
def mulAddWide (t : IntTy) (a b : Word) (c : DWord) : DWord := BitVec.ofInt 64 (t.val a * t.val b) + c

/-- The quotient of R230, with the borderline cases of R74. -/
def divWord (t : IntTy) (a b : Word) : Word :=
  if b = 0 then 4294967295 else wrap32 ((t.val a).tdiv (t.val b))
/-- The remainder of R230, with the borderline cases of R74. -/
def remWord (t : IntTy) (a b : Word) : Word :=
  if b = 0 then a else wrap32 ((t.val a).tmod (t.val b))

/-- The smaller by type. -/
def minWord (t : IntTy) (a b : Word) : Word := if t.val b < t.val a then b else a
/-- The larger by type. -/
def maxWord (t : IntTy) (a b : Word) : Word := if t.val a < t.val b then b else a

/-- IABS (R231). -/
def absWord (sat : Bool) (a : Word) : Word := narrow .i32 sat (if a.toInt < 0 then -a.toInt else a.toInt)
/-- INEG (R231). -/
def negWord (sat : Bool) (a : Word) : Word := narrow .i32 sat (-a.toInt)

/-- The funnel shift (R234). -/
def funnel (left : Bool) (a b n : Word) : Word :=
  let k := min n.toNat 32
  let f : Nat := a.toNat * 4294967296 + b.toNat
  if left then BitVec.ofNat 32 (f * 2 ^ k / 4294967296) else BitVec.ofNat 32 (f / 2 ^ k)

/-- The field position and length of a control operand (R235). -/
def fieldPos (b : Word) : Nat := b.toNat % 256
/-- The field length, at most 32 (R235). -/
def fieldLen (b : Word) : Nat := min (b.toNat / 256 % 256) 32

/-- BFX (R235). -/
def bitField (t : IntTy) (a b : Word) : Word :=
  let n := fieldLen b
  let x := (t.val a / 2 ^ fieldPos b) % 2 ^ n
  match t with
  | .n32 => wrap32 x
  | .i32 => if n = 0 then 0 else wrap32 (if x ≥ 2 ^ (n - 1) then x - 2 ^ n else x)

/-- BFI (R235). -/
def bitInsert (a b c : Word) : Word :=
  let mask : Word := BitVec.ofNat 32 ((2 ^ fieldLen b - 1) * 2 ^ fieldPos b)
  (c &&& ~~~mask) ||| (BitVec.ofNat 32 (a.toNat * 2 ^ fieldPos b) &&& mask)

/-- The number of one bits (R236). -/
def popCount (a : Word) : Nat := ((List.range 32).filter a.getLsbD).length
/-- The zero bits above the highest one bit (R236). -/
def leadingZeros (a : Word) : Nat := if a = 0 then 32 else 31 - a.toNat.log2
/-- The zero bits below the lowest one bit (R236). -/
def trailingZeros (a : Word) : Nat := ((List.range 32).find? a.getLsbD).getD 32
/-- The bits reversed (R236). -/
def bitReverse (a : Word) : Word := BitVec.ofNat 32 (((List.range 32).filter a.getLsbD).foldl (fun x i => x + 2 ^ (31 - i)) 0)

/-- One byte of BYTESEL (R237). -/
def selectByte (x : Nat) (sel : Nat) : Nat :=
  let b := x / 256 ^ (sel % 8) % 256
  match sel / 8 % 4 with
  | 0 => b
  | 1 => 0
  | 2 => if b ≥ 128 then 255 else 0
  | _ => 255

/-- BYTESEL (R237). -/
def byteSelect (a b c : Word) : Word :=
  let x := a.toNat + 4294967296 * b.toNat
  let s := c.toNat
  BitVec.ofNat 32 (selectByte x (s % 256) + 256 * selectByte x (s / 256 % 256) + 65536 * selectByte x (s / 65536 % 256)
    + 16777216 * selectByte x (s / 16777216))

/-- Shift left by an unsigned amount (R233). -/
def shiftLeft {w : Nat} (a : BitVec w) (n : Nat) : BitVec w := if n ≥ w then 0 else a <<< n
/-- Shift right, unsigned (R233). -/
def shiftRight {w : Nat} (a : BitVec w) (n : Nat) : BitVec w := if n ≥ w then 0 else a >>> n
/-- Shift right, signed (R233). -/
def shiftArith {w : Nat} (a : BitVec w) (n : Nat) : BitVec w := a.sshiftRight (min n (w - 1))
/-- Rotate left (R233). -/
def rotate {w : Nat} (a : BitVec w) (n : Nat) : BitVec w := a.rotateLeft (n % w)

/-- LEA (R238). -/
def scaledAddress (a : DWord) (b : Word) (scale : Nat) (sx : Bool) : DWord :=
  a + (if sx then b.signExtend 64 else b.setWidth 64) * BitVec.ofNat 64 (2 ^ scale)

end Sys2Proof.Machine
end

