-- ==== Sys2Proof/Machine/Base.lean ====
section
/-! DEFINITION. Named updates of the package, the free-choice stream, times, notices and asynchronous errors. -/

namespace Sys2Proof.Machine

/-- Ticks of one nanosecond (log entry 9). -/
def tickNs : Nat := 96512
/-- Ticks of one microsecond. -/
def tickUs : Nat := 96512000
/-- The first logical time no access may take (R128). -/
def timeEnd : Nat := 9223372036854775808

/-- ETIME in whole nanoseconds (R171). -/
def State.etime (s : State) : Nat := s.now / tickNs

/-- Draw the next free value of a kind (R9, log entry 4). -/
def State.free (s : State) (k : Config.FreeKind) : Nat := Config.choice k s.choices
/-- Advance the counter of free choices. -/
def State.drew (s : State) : State := { s with choices := s.choices + 1 }

/-- Change sheet `k`. -/
def State.modSheet (s : State) (k : Nat) (f : Sheet → Sheet) : State := { s with sheets := tabMod k f s.sheets }
/-- Change gang `g` of a sheet. -/
def Sheet.modGang (h : Sheet) (g : Nat) (f : Gang → Gang) : Sheet := { h with gangs := tabMod g f h.gangs }
/-- Change gang `g` of sheet `k`. -/
def State.modGang (s : State) (k g : Nat) (f : Gang → Gang) : State := s.modSheet k (·.modGang g f)
/-- Change lane `l` of a gang. -/
def Gang.modThread (g : Gang) (l : Nat) (f : Thread → Thread) : Gang := { g with threads := tabMod l f g.threads }
/-- Change every lane of a list. -/
def Gang.modThreads (g : Gang) (ls : List Nat) (f : Nat → Thread → Thread) : Gang :=
  ls.foldl (fun g l => g.modThread l (f l)) g
/-- A sequencer of a sheet. -/
def Sheet.seq (h : Sheet) (k : SeqKind) : Seq :=
  match k with
  | .m => h.mseq
  | .c => h.cseq
/-- Change a sequencer of a sheet. -/
def Sheet.modSeq (h : Sheet) (k : SeqKind) (f : Seq → Seq) : Sheet :=
  match k with
  | .m => { h with mseq := f h.mseq }
  | .c => { h with cseq := f h.cseq }
/-- Change a context. -/
def State.modCtx (s : State) (k : Nat) (f : Context → Context) : State := { s with ctxs := tabMod k f s.ctxs }
/-- Change a launch. -/
def State.modLaunch (s : State) (k : Nat) (f : Launch → Launch) : State := { s with launches := tabMod k f s.launches }
/-- Change a cluster. -/
def State.modCluster (s : State) (k : Nat) (f : Cluster → Cluster) : State := { s with clusters := tabMod k f s.clusters }
/-- Change a die. -/
def State.modDie (s : State) (k : Nat) (f : Die → Die) : State := { s with dies := tabMod k f s.dies }

/-- The threads of a sheet with their gang and lane. -/
def Sheet.threads (h : Sheet) : List (Nat × Nat × Thread) :=
  h.gangs.flatMap fun p => p.2.threads.map fun q => (p.1, q.1, q.2)
/-- Whether every thread of the gang has executed EXIT. -/
def Gang.exited (g : Gang) : Bool := g.threads.all fun p => p.2.st == .exited
/-- Whether every thread of the sheet has executed EXIT. -/
def Sheet.allExited (h : Sheet) : Bool := h.gangs.all fun p => p.2.exited
/-- Lexicographic order of lists of numbers. -/
def lexLe : List Nat → List Nat → Bool
  | [], _ => true
  | _, [] => false
  | a :: r, b :: t => a < b || (a == b && lexLe r t)
/-- The greatest of a list of times. -/
def maxOf (l : List Nat) : Nat := l.foldl max 0
/-- The greatest clock over the lanes of a gang (R280). -/
def Gang.clockOf (g : Gang) (ls : List Nat) : Nat := maxOf (ls.map fun l => ((tabGet l g.threads).map (·.clock)).getD 0)
/-- Raise the clocks of lanes to at least `t`. -/
def Gang.raiseClock (g : Gang) (ls : List Nat) (t : Nat) : Gang :=
  g.modThreads ls fun _ th => { th with clock := max th.clock t }
/-- The greatest clock of a sheet's threads and sequencers. -/
def Sheet.topClock (h : Sheet) : Nat :=
  max (maxOf (h.threads.map fun p => p.2.2.clock)) (max h.mseq.clock h.cseq.clock)
/-- Whether the sheet is resident, and where. -/
def Sheet.cluster? (h : Sheet) : Option Nat :=
  match h.home with
  | .on k => some k
  | _ => none
/-- Scratchpad size in bytes (R54, R95). -/
def Sheet.spadSize (h : Sheet) : Nat := h.spg * 16384
/-- The resting state of a scratchpad line (R31). -/
def Line.fresh : Line := {}
/-- A scratchpad line. -/
def Sheet.line (h : Sheet) (n : Nat) : Line := stGet Line.fresh n h.lines
/-- Write a scratchpad line's state. -/
def Sheet.putLine (h : Sheet) (n : Nat) (x : Line) : Sheet := { h with lines := stPut Line.fresh n x h.lines }

/-- Queue a notice for the penholder: at most 1,024, the oldest dropped first (R463). -/
def State.notice (s : State) (kind ctx code origin addr : Nat) : State :=
  let l := s.steward.notices ++ [{ kind := kind, ctx := ctx, code := code, origin := origin, etime := s.etime, addr := addr }]
  { s with steward := { s.steward with notices := l.drop (l.length - 1024) } }

/-- Whether the context has a resident sheet or a sheet to place, one of a launch not yet eligible included (R388). -/
def State.canDeliver (s : State) (cx : Nat) : Bool :=
  s.sheets.any (fun p => p.2.ctx == cx && (match p.2.home with | .parked _ _ => false | _ => true)) ||
    s.launches.any (fun p => p.2.ctx == cx && (p.2.eligible.isNone || p.2.unplaced.any (fun q => q.2.any (0 < ·.count))))

/-- The next boundary of a sheet from now on, when nothing was queued while the last ones passed (R388). -/
def Sheet.nextErrAt (h : Sheet) (now : Nat) : Nat :=
  let p := 100 * tickUs
  if now ≤ h.errAt then h.errAt else h.errAt + (now - h.errAt + p - 1) / p * p

/-- Raise an asynchronous machine error: queue it, count it lost when 64 are queued, or report it to the penholder when
no sheet can take it (R388). -/
def State.asyncError (s : State) (cx code addr detail : Nat) : State :=
  if s.canDeliver cx then
    let none := ((tabGet cx s.ctxs).map (·.errs.isEmpty)).getD true
    let s := if none then { s with sheets := tabMap (fun _ h => if h.ctx == cx then { h with errAt := h.nextErrAt s.now } else h) s.sheets } else s
    s.modCtx cx fun c =>
      if c.errs.length < 64 then { c with errs := c.errs ++ [{ code := code, addr := addr, detail := detail }] }
      else { c with lost := c.lost + 1 }
  else s.notice 2 cx code 0 addr

/-- The sheet that carries an interval tag as its present interval, if it is not `who` (R429). -/
def State.taggedBy (s : State) (tag : Option Nat) (who : Option Nat) : Option Nat :=
  match tag with
  | none => none
  | some t => (s.sheets.find? fun p => p.2.ivl.tag == t && some p.1 != who).map (·.1)

/-- An agent outside a sheet has touched a version of its interval (R429), on account of the sheet `who` or of the context `cx`. -/
def State.observe (s : State) (tag : Option Nat) (who : Option Nat) (cx : Option Nat := none) : State :=
  match s.taggedBy tag who with
  | none => s
  | some k =>
    let cx := ((who.bind fun n => tabGet n s.sheets).map (·.ctx)).or cx
    s.modSheet k fun h => { h with ivl := { h.ivl with
      observed := true, observers := h.ivl.observers ++ (cx.toList.filter fun c => c != h.ctx && !h.ivl.observers.contains c) } }

/-- What a flush may not discard has been done since the last shadow point (R395). -/
def State.pinDown (s : State) (k : Nat) : State :=
  s.modSheet k fun h => { h with ivl := { h.ivl with pinnedDown := true } }

/-- A sampled sheet may not have done this (R436). -/
def State.noAudit (s : State) (k : Nat) : State := s.modSheet k fun h => { h with noAudit := true }

/-- A fresh identity. -/
def State.fresh (s : State) : State := { s with nextId := s.nextId + 1 }

/-- The first number from `c` on, modulo 2^32, that is neither 0 nor taken. -/
def freeNumber (taken : List Nat) (c : Nat) : Nat :=
  (((List.range (taken.length + 2)).map fun i => (c + i) % 4294967296).find? fun n => n ≠ 0 && !taken.contains n).getD 0
/-- A fresh 32-bit interval tag (R427): one that no interval, version, copy, write, folio store or near-cache byte carries. -/
def State.freshTag (s : State) : Nat :=
  freeNumber (s.sheets.map (·.2.ivl.tag) ++ s.atoms.filterMap (·.2.itag) ++ s.copies.map (·.2.tag) ++ s.writes.map (·.2.tag)
    ++ s.ctxs.flatMap (fun c => c.2.folios.flatMap fun f => f.2.joins.map (·.tag))
    ++ s.clusters.flatMap fun c => c.2.near.filterMap (·.2.2)) s.nextId

/-- A free error code (log entry 16): none of the codes 68 to 127, which are never written (R442). -/
def openCode (n : Nat) : Nat :=
  let c := n % 4294967296
  if 68 ≤ c && c < 128 then c + 60 else c

/-- Whether a vector register holds one value in every lane below W (R64). -/
def Regs.uniform (r : Regs) (W n : Nat) : Bool := (List.range W).all fun l => r.vec n l == r.vec n 0
/-- Registers whose lanes differ now are expanded in the register file (R64). -/
def Gang.expand (g : Gang) (W : Nat) : Gang := { g with tags := g.tags.filter (g.regs.uniform W) }
/-- Cached registers are written back to the register file: those with one value in every lane are tagged uniform (R62, R64). -/
def Gang.writeBack (g : Gang) (W : Nat) (rs : List Nat) : Gang :=
  { g with cache := g.cache.filter fun r => !rs.contains r, tags := (g.tags.filter fun r => !rs.contains r) ++ rs.filter (g.regs.uniform W) }
/-- A gang's register cache after an instruction: the registers it used, the most recent first, and of the others the least recently
used ones are replaced (R411). -/
def cacheAfter (cache used : List Nat) : List Nat := ((used.reverse.eraseDups) ++ cache.filter fun r => !used.contains r).take 6

/-! ### System register numbers -/

/-- Whether a system register number is in the table of R363, and whether it is 64 bits wide. -/
def sysRegWide (n : Nat) : Option Bool :=
  match n with
  | 0x00 | 0x04 | 0x05 | 0x06 | 0x07 | 0x0A | 0x40 | 0x41 | 0x42 | 0x43 | 0x44 | 0x45 => some false
  | 0x01 | 0x02 | 0x03 | 0x08 | 0x09 | 0x0B | 0x46 => some true
  | _ => none
/-- Whether S may write it (R363). -/
def sysRegWritable (n : Nat) : Bool := 3 ≤ n && n ≤ 9
/-- Whether a register number of the table is one S may not write: a SYSWR to it is the privilege trap (R364). -/
def sysReadOnly (n : Nat) : Bool := (sysRegWide n).isSome && !sysRegWritable n

end Sys2Proof.Machine
end

