-- ==== Sys2Proof/Machine/Effects.lean ====
section
/-! DEFINITION. What an instruction names, apart from its meaning: guard, registers written and read (the scoreboard of
R29 and the existence check of R52), stroke weight (R169), length (R181), the kinds of R130, and the engine subset
(R215, R322). -/

namespace Sys2Proof

open Machine (RegName)

/-- The guard of an instruction with an encoding; p7 for a step of the panel's own units. -/
def Instr.guard (i : Instr) : Guard :=
  match encodeFields i with
  | some f => f.guard
  | none => { neg := false, p := 7 }

/-- The length in bytes (R181). -/
def Instr.bytes (i : Instr) : Nat :=
  match encodeFields i with
  | some f => lengthBytes f.len
  | none => 8

/-- The opcode (R192). -/
def Instr.opcode (i : Instr) : Nat :=
  match encodeFields i with
  | some f => f.opc
  | none => 0

/-- How many registers a 32-bit or 64-bit operand takes (R7). -/
def span (pair : Bool) : Nat := if pair then 2 else 1
/-- How many registers an access takes (R279). -/
def MemTy.span (t : MemTy) : Nat :=
  match t with
  | .b64 => 2
  | .b128 => 4
  | _ => 1
/-- The bytes of an access (R279). -/
def MemTy.size (t : MemTy) : Nat :=
  match t with
  | .b8 => 1
  | .b16 => 2
  | .b32 => 4
  | .b64 => 8
  | .b128 => 16

/-- An address base, if there is one. -/
def baseOf (a : Option Reg) (k : Nat) : List (RegName × Nat) := (a.map fun r => r.group k).toList
/-- A uniform register. -/
def sReg (n : Fin 64) (k : Nat) : RegName × Nat := (.s n.val, k)
/-- A uniform operand's register. -/
def UOperand.regs (a : UOperand) : List (RegName × Nat) :=
  match a with
  | .s n => [sReg n 1]
  | .imm _ => []
/-- An optional uniform offset register. -/
def offReg (o : Option (Fin 64)) : List (RegName × Nat) := (o.map fun n => sReg n 1).toList
/-- The predicate a compare combines with. -/
def Combine.regs (c : Combine) : List (RegName × Nat) :=
  match c with
  | .none => []
  | .and q | .or q | .xor q => [(.p q.val, 1)]
/-- The registers SYSWR reads. -/
def SysOperand.regs (a : SysOperand) (k : Nat) : List (RegName × Nat) :=
  match a with
  | .s n => [sReg n k]
  | _ => []

/-- The registers an instruction writes, with group sizes; `W` is the effective width. -/
def Instr.dests (W : Nat) (i : Instr) : List (RegName × Nat) :=
  match i with
  | .call _ d _ | .callx _ d _ => [(.v d.val, 1)]
  | .meet _ k _ | .mleave _ k => [(.m k.val, 1)]
  | .iadd _ ty _ d _ _ | .isub _ ty _ d _ _ => [d.group (span (ty == .b64))]
  | .iadd3 _ _ d _ _ _ | .imul _ _ d _ _ | .imulh _ _ d _ _ | .imad _ _ d _ _ _ | .idiv _ _ d _ _ | .irem _ _ d _ _
  | .imin _ _ d _ _ | .imax _ _ d _ _ | .iabs _ _ d _ | .ineg _ _ d _ | .clamp _ _ d _ _ _ | .fsh _ _ d _ _ _
  | .bfx _ _ d _ _ | .bfi _ d _ _ _ | .popc _ d _ | .clz _ d _ | .ctz _ d _ | .brev _ d _ | .bytesel _ d _ _ _
  | .fadd _ _ d _ _ | .fsub _ _ d _ _ | .fmul _ _ d _ _ | .ffma _ _ d _ _ _ | .fmin _ d _ _ | .fmax _ d _ _
  | .frnd _ _ d _ | .fscale _ _ d _ _ | .ffract _ d _ | .frcp _ _ d _ | .frsq _ d _ | .fsqrt _ _ d _ | .fdiv _ _ d _ _
  | .fexp2 _ d _ | .flog2 _ d _ | .fsin _ d _ | .fcos _ d _ | .fclass _ _ _ d _ | .hadd2 _ _ _ d _ _ | .hmul2 _ _ _ d _ _
  | .hfma2 _ _ _ d _ _ _ | .hmin2 _ _ d _ _ | .hmax2 _ _ d _ _ | .fdot2 _ _ _ d _ _ _ | .cvtif _ _ _ _ d _
  | .inarrow _ _ _ d _ _ | .nfpack _ _ d _ _ _ | .nfunp _ _ d _ _ _ | .scaleblk _ d _ _ _ | .gred _ _ d _
  | .fenceC _ _ d => [d.group 1]
  | .imadw _ _ d _ _ _ | .lea _ _ _ d _ _ => [d.group 2]
  | .and _ ty d _ _ | .or _ ty d _ _ | .xor _ ty d _ _ | .andn _ ty d _ _ | .orn _ ty d _ _ | .shl _ ty d _ _
  | .shr _ ty d _ _ | .sar _ ty d _ _ | .rot _ ty d _ _ | .mov _ ty d _ | .movi _ ty d _ => [d.group (span (ty == .b64))]
  | .icmp _ _ _ _ pd _ _ | .fcmp _ _ _ pd _ _ | .pcomb _ pd _ _ _ _ | .psetm _ pd _ | .psetmMask _ pd _
  | .pmovToPred _ pd _ | .vote _ _ pd _ _ | .sptest _ pd _ _ | .bar _ _ pd => [(.p pd.val, 1)]
  | .sel _ ty _ _ d _ _ => [(.v d.val, span (ty == .b64))]
  | .pmovToReg _ _ d => [(.v d.val, 1)]
  | .pmovFromMask _ _ d => [sReg d 2]
  | .movs _ n d => [d.group (span (specialWide n.val))]
  | .cvtfi _ _ wide _ _ d _ => [d.group (span wide)]
  | .cvtff _ dst _ _ d _ _ => [d.group (span (dst == .f64))]
  | .iwiden _ ty d _ => [d.group (span ty.isB32)]
  | .rbox _ pd d _ _ => [(.p pd.val, 1), (.v d.val, 2)]
  | .rtri _ pd _ d _ _ => [(.p pd.val, 1), (.v d.val, 3)]
  | .shfl _ ty _ d _ => [(.v d.val, span (ty == .b64))]
  | .ballot _ d _ _ => [(.v d.val, 2)]
  | .match_ _ _ alleq d _ => (.v d.val, 2) :: (alleq.map fun p => (RegName.p p.val, 1)).toList
  | .gscan _ _ _ d _ => [(.v d.val, 1)]
  | .ld _ ty d _ _ | .lds _ ty d _ _ | .ldc _ ty d _ _ => [d.group ty.mem.span]
  | .ldq _ _ _ d _ _ _ => [(.v d.val, 6)]
  | .atom _ op d _ _ _ | .atoms _ op d _ _ _ => [d.group (span op.wide)]
  | .cas _ ty d _ _ _ _ => [d.group (span (ty == .b64))]
  | .atagg _ op d _ _ _ => [d.group (span op.wide)]
  | .qpop _ _ pd d | .qtry _ _ pd d => [(.p pd.val, 1), sReg d 1]
  | .fopen _ d _ | .launch _ d _ | .rdvThread _ _ d | .residOpen _ _ d _ _ | .residPrio _ _ d _ | .residClose _ d _
  | .ctxsaveCopy _ d _ | .ctxsavePark _ d _ | .ctxload _ d _ => [sReg d 1]
  | .mma _ _ acc _ _ _ _ | .accz _ acc | .accwrV _ acc _ | .accwrSp _ acc _ _ => [(.a acc.val, 1)]
  | .accrdV _ _ d => [(.v d.val, 256 / W)]
  | .accrdT _ _ d => [sReg d 2]
  | .accwrT _ t _ => [(.t t.val, 1)]
  | .mmat _ _ acc _ _ _ _ _ => [(.a acc.val, 1)]
  | .mvsScale _ c _ _ _ _ | .mvsLd _ c _ _ => [(.a c.val, 1)]
  | .sysrd _ _ wide d => [sReg d (span wide)]
  | _ => []

/-- The registers an instruction reads, with group sizes, its guard left out. -/
def Instr.sources (W : Nat) (i : Instr) : List (RegName × Nat) :=
  match i with
  | .brx _ a | .callx _ _ a | .ret _ a | .pmovToPred _ _ a => [a.group 1]
  | .nap _ a | .perf _ a | .fclose _ a | .residPrio _ _ _ a | .residClose _ _ a
  | .emitend _ _ a => [sReg a 1]
  | .iadd _ ty _ _ a b | .isub _ ty _ _ a b => a.group (span (ty == .b64)) ++ b.group (span (ty == .b64))
  | .iadd3 _ _ _ a b c | .imad _ _ _ a b c | .clamp _ _ _ a b c | .fsh _ _ _ a b c | .bfi _ _ a b c
  | .bytesel _ _ a b c | .ffma _ _ _ a b c | .hfma2 _ _ _ _ a b c | .fdot2 _ _ _ _ a b c | .nfpack _ _ _ a b c
  | .nfunp _ _ _ a b c | .scaleblk _ _ a b c => a.group 1 ++ b.group 1 ++ c.group 1
  | .imadw _ _ _ a b c => a.group 1 ++ b.group 1 ++ c.group 2
  | .imul _ _ _ a b | .imulh _ _ _ a b | .idiv _ _ _ a b | .irem _ _ _ a b | .imin _ _ _ a b | .imax _ _ _ a b
  | .bfx _ _ _ a b | .fadd _ _ _ a b | .fsub _ _ _ a b | .fmul _ _ _ a b | .fmin _ _ a b | .fmax _ _ a b
  | .fscale _ _ _ a b | .fdiv _ _ _ a b | .hadd2 _ _ _ _ a b | .hmul2 _ _ _ _ a b | .hmin2 _ _ _ a b
  | .hmax2 _ _ _ a b => a.group 1 ++ b.group 1
  | .iabs _ _ _ a | .ineg _ _ _ a | .popc _ _ a | .clz _ _ a | .ctz _ _ a | .brev _ _ a | .frnd _ _ _ a | .ffract _ _ a
  | .frcp _ _ _ a | .frsq _ _ a | .fsqrt _ _ _ a | .fexp2 _ _ a | .flog2 _ _ a | .fsin _ _ a | .fcos _ _ a
  | .fclass _ _ _ _ a | .iwiden _ _ _ a => a.group 1
  | .and _ ty _ a b | .or _ ty _ a b | .xor _ ty _ a b | .andn _ ty _ a b | .orn _ ty _ a b =>
    a.group (span (ty == .b64)) ++ b.group (span (ty == .b64))
  | .shl _ ty _ a b | .shr _ ty _ a b | .sar _ ty _ a b | .rot _ ty _ a b => a.group (span (ty == .b64)) ++ b.group 1
  | .lea _ _ _ _ a b => a.group 2 ++ b.group 1
  | .icmp _ _ _ cb _ a b | .fcmp _ _ cb _ a b => cb.regs ++ a.group 1 ++ b.group 1
  | .sel _ ty p _ _ a b => (.p p.val, 1) :: (a.group (span (ty == .b64)) ++ b.group (span (ty == .b64)))
  | .pcomb _ _ pa pb pc _ => [(.p pa.val, 1), (.p pb.val, 1), (.p pc.val, 1)]
  | .psetm _ _ a | .accwrT _ _ a | .tlbinvPage _ a | .invrep _ a | .ctxsaveCopy _ _ a | .ctxsavePark _ _ a
  | .ctxload _ _ a => [sReg a 2]
  | .psetmMask _ _ k | .pmovFromMask _ k _ => [(.m k.val, 1)]
  | .pmovToReg _ p _ | .vote _ _ _ p _ | .ballot _ _ p _ => [(.p p.val, 1)]
  | .mov _ ty _ a => a.group (span (ty == .b64))
  | .cvtfi _ _ _ src _ _ a => a.group (span src.wide)
  | .cvtif _ _ src _ _ a => a.group (span src.wide)
  | .cvtff _ _ src _ _ a pk => a.group (span src.wide) ++ (pk.map fun b => b.group 1).getD []
  | .inarrow _ _ _ _ a b => match b with | none => a.group 2 | some b => a.group 1 ++ b.group 1
  | .rbox _ _ _ a b => [a.group 8, b.group 6]
  | .rtri _ _ _ _ a b => [a.group 8, b.group 9]
  | .shfl _ ty mode _ a => a.group (span (ty == .b64)) :: (mode.map fun m => m.2.group 1).getD []
  | .match_ _ ty _ _ a => [a.group (span (ty == .b64))]
  | .gred _ _ _ a | .gscan _ _ _ _ a => [a.group 1]
  | .ld _ _ _ a _ | .pref _ _ a _ => [a.group 2]
  | .st _ ty a _ b => [a.group 2, b.group ty.span]
  | .stF _ ty a _ b c => [a.group 2, b.group ty.span, c.group 1]
  | .lds _ _ _ a _ | .ldc _ _ _ a _ | .sptest _ _ a _ | .accwrSp _ _ a _ => baseOf a 1
  | .accrdSp _ k a _ => (.a k.val, 1) :: baseOf a 1
  | .sts _ ty a _ b => b.group ty.span :: baseOf a 1
  | .ldq _ _ _ _ a b c => [a.group 1, b.group 1, c.group 1]
  | .atom _ op _ a _ b | .red _ op a _ b => [a.group 2, b.group (span op.wide)]
  | .atoms _ op _ a _ b => b.group (span op.wide) :: baseOf a 1
  | .cas _ ty _ a _ b c => [a.group 2, b.group (span (ty == .b64)), c.group (span (ty == .b64))]
  | .atagg _ op _ a _ b => [sReg a 2, b.group (span op.wide)]
  | .barinit _ _ _ cs => match cs with
    | .regs a b => [sReg a 1, sReg b 1]
    | .immT _ b => [sReg b 1]
    | .immC a _ => [sReg a 1]
    | .both _ _ => []
  | .qinit _ _ a | .qpush _ _ a | .fopen _ _ a | .halt _ a | .stamp _ a => a.regs
  | .launch _ _ a => match a with | .s n => [sReg n 2] | .imm64 _ => []
  | .mma _ ty acc z a b c => (if z then [] else [(.a acc.val, 1)]) ++
    ((c.map fun r => r.group 2).toList
      ++ (if ty == .nf then [(.v a.val, 1), (.v b.val, 1)] else [(.v a.val, (128 + W - 1) / W), (.v b.val, (128 + W - 1) / W)]))
  | .accrdV _ k _ => [(.a k.val, 1)]
  | .accwrV _ _ a => [(.v a.val, 256 / W)]
  | .accrdT _ t _ => [(.t t.val, 1)]
  | .mmat _ _ acc z ta tb oa ob => (if z then [] else [(.a acc.val, 1)]) ++ [(.t ta.val, 1), (.t tb.val, 1)] ++ offReg oa ++ offReg ob
  | .mvsScale _ _ p ta tb o => [(.a p.val, 1), (.t ta.val, 1), (.t tb.val, 1)] ++ offReg o
  | .mvsSt _ c ta o | .mvsStbf _ c ta o => [(.a c.val, 1), (.t ta.val, 1)] ++ offReg o
  | .mvsLd _ _ ta o => (.t ta.val, 1) :: offReg o
  | .cpl _ dir _ dst src => match dir with
    | .gs => [src.group 2, dst.group 1]
    | .sg _ => [src.group 1, dst.group 2]
    | .gg _ => [src.group 2, dst.group 2]
  | .cptIn _ r l o | .cptOut _ r l o _ => [sReg r 1, sReg l 1, sReg o 1]
  | .ownEng _ t o | .ownThr _ t o => (.t t.val, 1) :: offReg o
  | .residOpen _ _ _ a b => [sReg a 2, sReg b 2]
  | .nxch _ _ im | .nred _ _ _ im => [(.t im.ts.val, 1), (.t im.td.val, 1)]
  | .nbc _ _ r im => [(.t im.ts.val, 1), (.t im.td.val, 1), sReg r 2]
  | .emit _ _ a b c => [a.group 11, sReg b 2, sReg c 1]
  | .syswr _ _ wide a => a.regs (span wide)
  | .syswrTtb _ a => a.regs 2
  | .syswrCeil _ a => a.regs 1
  | .tlbinvRange _ a b | .invrepRange _ a b => [sReg a 2, sReg b 1]
  | _ => []

/-- Whether every vector register and fragment named exists in the sheet (R52); MMAT checks its fragment itself (R331). -/
def Instr.existing (W nv na : Nat) (i : Instr) : Bool :=
  (match i with | .mmat .. => [] | _ => i.dests W ++ i.sources W).all fun p =>
    match p.1 with
    | .v n => n + p.2 ≤ nv
    | .a n => n + p.2 ≤ na
    | _ => true

/-- The stroke weight: 0 hairline, 1 light, 2 bold, 3 heavy (R169). -/
def Instr.weight (i : Instr) : Nat :=
  match i with
  | .imul .. | .imulh .. | .imad .. | .imadw .. | .cvtfi .. | .cvtif .. | .cvtff .. | .nfpack .. | .nfunp .. | .scaleblk ..
  | .iwiden .. | .inarrow .. | .rbox .. | .hadd2 .. | .hmul2 .. | .hfma2 .. | .hmin2 .. | .hmax2 .. | .fdot2 .. => 1
  | .frcp .. | .frsq .. | .fsqrt .. | .rtri .. | .mma .. | .mmat .. | .mvsScale .. | .mvsSt .. | .mvsStbf ..
  | .mvsLd .. => 2
  | .idiv .. | .irem .. | .fdiv .. | .fsin .. | .fcos .. | .fexp2 .. | .flog2 .. => 3
  | _ => 0
/-- The vector registers an instruction uses, sources before destinations (R62). -/
def Instr.vectors (W : Nat) (i : Instr) : List Nat :=
  (i.sources W ++ i.dests W).flatMap fun p => match p.1 with
    | .v n => (List.range p.2).map (n + ·)
    | _ => []
/-- The multiple of a weight, in quarters (R169). -/
def weightQuarters (w : Nat) : Nat := [4, 5, 6, 8].getD w 4

/-- Whether the opcode is one of the system instructions' (R359, R368). -/
def Instr.isSystem (i : Instr) : Bool := systemOpcode i.opcode

/-- Whether the instruction acts once for the gang (R213, R280, R312, R368). -/
def Instr.gangLevel (i : Instr) : Bool :=
  match i with
  | .yield .. | .nap .. | .napImm .. | .trap .. | .trapImm .. | .bkpt .. | .perf .. | .perfImm .. | .barinit .. | .barinv ..
  | .qinit .. | .qpush .. | .qpop .. | .qtry .. | .qclose .. | .fopen .. | .fclose .. | .launch .. | .mma .. | .accz ..
  | .accrdV .. | .accrdSp .. | .accrdT .. | .accwrV .. | .accwrSp .. | .accwrT .. | .forkM .. | .forkC .. | .rdvThread ..
  | .rdvSequencer .. | .cptIn .. | .cptOut .. | .ownEng .. | .ownThr .. | .residOpen .. | .residPrio .. | .residClose ..
  | .nxch .. | .nred .. | .nbc .. | .emitend .. => true
  | _ => i.isSystem

/-- Whether the instruction runs once for the gang on the uniform datapath (R53): every register it names is uniform, and it
writes no predicate. A branch acts per lane whatever its operand. -/
def Instr.onUniform (i : Instr) : Bool :=
  let rs := i.dests 16 ++ i.sources 16
  let uni (p : RegName × Nat) : Bool := match p.1 with
    | .s _ => true
    | _ => false
  match i with
  | .brx .. | .callx .. | .ret .. => false
  | _ => !i.gangLevel && !rs.isEmpty && rs.all uni

/-- The one address an instruction names, where it names one, as its issuer sees it (R278, R383). -/
def Instr.address (i : Instr) (v : Machine.View) : Nat :=
  let global (a : Reg) (off : Option Word) : Nat := v.globalAt v.lead a off
  let near (a : Option Reg) (off : Option Word) : Nat := v.localAt v.lead a off
  match i with
  | .ld _ _ _ a off | .pref _ _ a off | .st _ _ a off _ | .stF _ _ a off _ _ | .atom _ _ _ a off _ | .cas _ _ _ a off _ _
  | .red _ _ a off _ => global a off
  | .atagg _ _ _ a off _ => global (.s a) off
  | .lds _ _ _ a off | .ldc _ _ _ a off | .sts _ _ a off _ | .atoms _ _ _ a off _ | .accrdSp _ _ a off | .accwrSp _ _ a off => near a off
  | .cptIn _ r _ _ | .cptOut _ r _ _ _ => (v.regs.uni r.val).toNat
  | .launch _ _ a => match a with
    | .s n => (v.upair n).toNat
    | .imm64 w => w.toNat
  | .ctxsaveCopy _ _ a | .ctxsavePark _ _ a | .ctxload _ _ a => (v.upair a).toNat
  | _ => 0

/-- Whether the result is a fragment, available after its last beat (R472). -/
def Instr.onMatrix (i : Instr) : Bool :=
  match i with
  | .mma .. => true
  | _ => false

/-- Whether a result comes from memory, scratchpad, an engine or the fabric, so that when it is available is an implementation
figure (R472). -/
def Instr.reaches (i : Instr) : Bool :=
  match i with
  | .ld .. | .ldq .. | .lds .. | .ldc .. | .sptest .. | .atom .. | .atoms .. | .cas .. | .atagg ..
  | .fopen .. | .launch .. | .rdvThread .. | .accwrSp .. | .residOpen .. | .residPrio .. | .residClose .. | .ctxsaveCopy ..
  | .ctxsavePark .. | .ctxload .. => true
  | _ => false

/-- Whether the instruction keeps the gang's yield flag, which every other clears (R223). -/
def Instr.yields (i : Instr) : Bool :=
  match i with
  | .yield _ => true
  | _ => false

/-- Whether no register operand is a vector, rejoin-mask or accumulator register. -/
def Instr.uniformOnly (i : Instr) : Bool :=
  (i.dests 16 ++ i.sources 16).all fun p =>
    match p.1 with
    | .s _ | .p _ | .t _ => true
    | _ => false

/-- The engine subset of a sequencer (R215, R322, R326). -/
def Instr.engine (k : SeqKind) (i : Instr) : Bool :=
  match i with
  | .nop _ | .bra .. | .exit _ | .qpush .. | .cptIn .. | .cptOut .. | .ownEng .. | .ownThr .. | .rdvSequencer _ => true
  | .brx _ a | .ret _ a => !a.isVec
  | .mmat .. | .mvsScale .. | .mvsSt .. | .mvsStbf .. | .mvsLd .. => k == .m
  | _ => 0x20 ≤ i.opcode && i.opcode ≤ 0x3F && i.uniformOnly

/-- Whether a thread may not execute it (R324, R330). -/
def Instr.sequencerOnly (i : Instr) : Bool :=
  match i with
  | .mmat .. | .mvsScale .. | .mvsSt .. | .mvsStbf .. | .mvsLd .. | .rdvSequencer _ => true
  | _ => false

end Sys2Proof
end

