-- ==== Sys2Proof/Machine/Mesh.lean ====
section
/-! DEFINITION. The panel mesh: die and cluster ranks, ductus numbers, partitions, homes of physical addresses, shard
groups, and the classes and clocks of clusters (R142 to R146, R100, R178, R366, R367). -/

namespace Sys2Proof.Machine

/-- The die ranks of R142, row y = 0 first, 8 to a row. -/
def dieRanks : List Nat :=
  [0, 1, 2, 3, 44, 45, 46, 47] ++ [7, 6, 5, 4, 43, 42, 41, 40] ++ [8, 9, 10, 11, 36, 37, 38, 39]
    ++ [15, 14, 13, 12, 35, 34, 33, 32] ++ [16, 19, 20, 23, 24, 27, 28, 31] ++ [17, 18, 21, 22, 25, 26, 29, 30]
/-- The rank of the die at (x, y) (R142). -/
def dieRank (x y : Nat) : Nat := (dieRanks[8 * y + x]?).getD 48
/-- The rank of a cluster in its die (R143). -/
def clusterRank (cx cy : Nat) : Nat := if cy % 2 = 0 then 12 * cy + cx else 12 * cy + 11 - cx

/-- The live dies of a partition in logical order, by rank (R144). -/
def State.partDies (s : State) (p : Partition) : List Nat :=
  (s.dies.filter fun d => p.x0 ≤ d.2.x && d.2.x ≤ p.x1 && p.y0 ≤ d.2.y && d.2.y ≤ p.y1).map (·.1)
/-- The live dies of a context's partition in logical order. -/
def State.ctxDies (s : State) (cx : Nat) : List Nat :=
  match tabGet cx s.ctxs with
  | none => []
  | some c =>
    match tabGet c.part s.parts with
    | none => []
    | some p => s.partDies p
/-- The logical index of a die in a list of dies. -/
def logicalIndex (dies : List Nat) (d : Nat) : Nat := (dies.findIdx? (· == d)).getD 0

/-- The device number of a physical address (R362). -/
def paDevice (pa : Nat) : Nat := pa / 4398046511104
/-- The offset of a physical address within its package (R362). -/
def paOffset (pa : Nat) : Nat := pa % 4398046511104
/-- Bytes of HBM behind one die (R1). -/
def dieMemory : Nat := 64000000000
/-- Memory of this package (R1, R414; log entry 14). -/
def State.packageMemory (s : State) (device : Nat) : Nat :=
  if device = s.steward.device then dieMemory * s.dies.length else dieMemory * 48
/-- The die whose HBM holds a page of this package that is not interleaved (log entry 14). -/
def State.pageDie (s : State) (pa : Nat) : Nat := (s.dies[paOffset pa / 65536 * 65536 / dieMemory]?.map (·.1)).getD 0

/-- Slice of its die an atom lies in (log entry 14). -/
def atomSlice (pa : Nat) : Nat := pa / 32 % 32

/-- The clusters of the context's partition, in ductus order (R143). -/
def State.ctxClusters (s : State) (cx : Nat) : List Nat :=
  let ds := s.ctxDies cx
  (s.clusters.filter fun c => ds.contains c.2.die).map (·.1)

/-- The class in effect of a sheet (R178). -/
def State.classOf (s : State) (h : Sheet) : Nat :=
  min h.preq (((tabGet h.ctx s.ctxs).map (·.ceil)).getD 0)
/-- The sheets resident on a cluster. -/
def State.residents (s : State) (k : Nat) : List (Nat × Sheet) := s.sheets.filter fun p => p.2.cluster? == some k
/-- The class at which a cluster runs (R178). -/
def State.clusterClass (s : State) (k : Nat) : Nat := maxOf ((s.residents k).map fun p => s.classOf p.2)

/-- The wave spacing of a cluster in ns (R367). -/
def Cluster.spacing (c : Cluster) : Nat := if c.didt = 0 then 0 else min 255 ((8 * c.igang + c.didt - 1) / c.didt)

/-- The lane period in ticks (R167). -/
def Cluster.period (c : Cluster) : Nat :=
  let p := if c.fstep = 0 then 74240 else if c.fstep = 1 then 66560 else 60320
  if c.ratio = 0 then 2 * p else if c.ratio = 2 then p / 2 else p
/-- The multiple of a lane cycle in quarters (R169). -/
def Cluster.multiple (c : Cluster) (lane : Nat) : Nat := (c.occ.filter fun o => lane < o.1).foldl (fun m o => max m o.2) 4

/-- CLID (R366). -/
def State.clid (s : State) (k : Nat) : Nat :=
  match tabGet k s.clusters with
  | none => 0
  | some c =>
    let d := (tabGet c.die s.dies).getD { rank := 0, x := 0, y := 0 }
    k % 8192 + 65536 * (c.cx % 16) + 1048576 * (c.cy % 8) + 16777216 * (d.x % 8) + 268435456 * (d.y % 8)
/-- CLKST of a step, a class and a pool (R366). -/
def clkst (fstep cls permits : Nat) : Nat := fstep % 4 + 16 * (cls % 4) + 256 * (permits % 128)
/-- CLCFG (R366). -/
def Cluster.clcfg (c : Cluster) : Nat := 
  (if c.aw = 64 then 0 else if c.aw = 32 then 1 else 2) + 256 * (c.lgr % 256) + 65536 * (c.lln % 128)

/-- The granules a pool word takes (R54). -/
def poolGranules (pool : Nat) : Nat := pool % 256 + pool / 256 % 256 + pool / 65536 % 256
/-- The gangs resident on a cluster (R56). -/
def State.clusterGangs (s : State) (k : Nat) : Nat := ((s.residents k).map fun p => p.2.gangs.length).foldl (· + ·) 0
/-- The granules taken on a cluster (R56). -/
def State.clusterTaken (s : State) (k : Nat) : Nat := ((s.residents k).map fun p => poolGranules p.2.pool).foldl (· + ·) 0

/-- The sheet count of a launch (R38). -/
def Launch.sheets (l : Launch) : Nat := (l.gx + 1) * (l.gy + 1) * (l.gz + 1)
/-- The coordinates of a linear sheet index (R38). -/
def Launch.coords (l : Launch) (k : Nat) : Nat × Nat × Nat :=
  (k % (l.gx + 1), k / (l.gx + 1) % (l.gy + 1), k / ((l.gx + 1) * (l.gy + 1)))
/-- The linear index of coordinates (R38). -/
def Launch.linear (l : Launch) (x y z : Nat) : Nat := x + (l.gx + 1) * (y + (l.gy + 1) * z)

/-- The members of the group of a sheet, in increasing logical shard index (R146). -/
def Launch.group (l : Launch) (g : ShardGroup) (k : Nat) : List Nat :=
  let (x, y, z) := l.coords k
  match g with
  | .row => (List.range (l.gx + 1)).map fun x' => l.linear x' y z
  | .col => (List.range (l.gy + 1)).map fun y' => l.linear x y' z
  | .plane => (List.range ((l.gx + 1) * (l.gy + 1))).map fun q => l.linear (q % (l.gx + 1)) (q / (l.gx + 1)) z
/-- The neighbour of a sheet in a direction (R146). -/
def Launch.neighbour (l : Launch) (d : Compass) (k : Nat) : Nat :=
  let (x, y, z) := l.coords k
  match d with
  | .east => l.linear ((x + 1) % (l.gx + 1)) y z
  | .west => l.linear ((x + l.gx) % (l.gx + 1)) y z
  | .north => l.linear x ((y + 1) % (l.gy + 1)) z
  | .south => l.linear x ((y + l.gy) % (l.gy + 1)) z

/-- When a launch becomes eligible, distributor i of D owns the indices k with k mod D = i (R405). -/
def ownedRuns (d n : Nat) : Tab (List Run) :=
  (List.range d).map fun i => (i, [{ lo := i, step := d, count := (n + d - 1 - i) / d }])

/-- The time from which a launch whose dependences are met is eligible: the latest at which one was met (R403). A launch without
dependences is eligible from its acceptance, which R403's "the latest of those times" does not say: the model's reading (log
entry 76). -/
def Launch.eligibleAt (l : Launch) : Nat := if l.deps.isEmpty then l.submitClk else maxOf (l.deps.map fun d => d.met.getD 0)

/-- Make a launch eligible if all its dependences are met (R39, R403, R405). -/
def State.tryEligible (s : State) (k : Nat) : State :=
  match tabGet k s.launches with
  | none => s
  | some l =>
    if l.eligible.isNone && l.deps.all (·.met.isSome) then
      s.modLaunch k fun l => { l with eligible := some l.eligibleAt, unplaced := ownedRuns (s.ctxDies l.ctx).length l.sheets }
    else s

end Sys2Proof.Machine
end

