-- ==== Sys2Proof/Machine/Memory.lean ====
section
/-! DEFINITION. The homes: bytes and atoms by physical address, versions and view times, placement of writes at a
logical time, the interval and dependence bookkeeping a write does, and folios' pending bytes. -/

namespace Sys2Proof.Machine

/-- What a byte of memory reads as when nothing has written it (log entry 1). -/
def restingByte : Byte := 0
/-- One byte at a physical address. -/
def State.byte (s : State) (pa : Nat) : Byte := stGet restingByte pa s.mem
/-- `n` bytes from a physical address on. -/
def State.bytes (s : State) (pa n : Nat) : List Byte := stGetList restingByte pa n s.mem
/-- What the home keeps of the atom that holds a physical address (R104). -/
def State.atom (s : State) (pa : Nat) : Atom := stGet {} (pa / 32) s.atoms
/-- Write what the home keeps of an atom. -/
def State.putAtom (s : State) (pa : Nat) (a : Atom) : State := { s with atoms := stPut {} (pa / 32) a s.atoms }
/-- The canonical form of memory. -/
def Memory.wf (m : Store Byte) : Bool := storeWf restingByte m

/-- Write the enabled bytes of a list from a physical address on. -/
def putBytes : Nat → List (Option Byte) → Store Byte → Store Byte
  | _, [], m => m
  | pa, none :: bs, m => putBytes (pa + 1) bs m
  | pa, some b :: bs, m => putBytes (pa + 1) bs (stPut restingByte pa b m)

/-- Whether the retained prior version is the one valid at a view time: the current one is later, and the version that
replaced the prior one had not been written (R131). -/
def Atom.priorAt (a : Atom) (v : Nat) : Option Prior :=
  match a.prior with
  | none => none
  | some p => if v < a.w && v < p.ends then some p else none

/-- The bytes of a version valid at a view time, the current one or the retained prior one (R131). -/
def State.versionBytes (s : State) (v pa n : Nat) : List Byte :=
  match (s.atom pa).priorAt v with
  | none => s.bytes pa n
  | some p => (p.bytes.drop (pa % 32)).take n

/-- The key pair a slot holds, or held last (R419). -/
def State.slotKey (s : State) (k : Nat) : List Byte := ((tabGet k s.keys).bind fun x => x.key.or x.last).getD []
/-- The 32 bytes of a version stored under one key slot as they read under another (R419); what nothing has written reads alike
under every key (log entry 1). -/
def State.rekeyed (s : State) (w stored key pa : Nat) (bs : List Byte) : List Byte :=
  if w = 0 || stored = key || s.slotKey stored = s.slotKey key then bs
  else (List.range 32).map (Config.recrypt (s.slotKey stored) (s.slotKey key) (pa / 32 * 32) bs)
/-- The bytes of the current version as an access under a key slot finds them (R419). -/
def State.bytesAs (s : State) (key pa n : Nat) : List Byte :=
  let a := s.atom pa
  ((s.rekeyed a.w a.key key pa (s.bytes (pa / 32 * 32) 32)).drop (pa % 32)).take n

/-- The bytes an access under a key slot reads of the version valid at a view time (R131, R419). -/
def State.versionAs (s : State) (key v pa n : Nat) : List Byte :=
  let a := s.atom pa
  match a.priorAt v with
  | none => s.bytesAs key pa n
  | some p => ((s.rekeyed p.w p.key key pa p.bytes).drop (pa % 32)).take n

/-- The least view time at which a load issued now may read an atom: a retained version is valid, and the 2 µs bound
holds (R131). An atom of another package is fetched: its floor is the write time its home has now. -/
def State.viewFloor (s : State) (pa : Nat) : Nat :=
  let a := s.atom pa
  match a.prior with
  | none => a.w
  | some p => if p.goneAt + 2 * tickUs ≤ s.now || paDevice pa != s.steward.device then a.w else p.w

/-- Raise a view time over the atoms that have no version valid at it (R131). -/
def State.raiseView (s : State) (v : Nat) (pas : List Nat) : Nat :=
  pas.foldl (fun v pa => if ((s.atom pa).priorAt v).isSome then v else max v (s.atom pa).w) v
/-- Raise a view time until every atom has a version valid at it: each atom is raised over once at most. -/
def State.settleView (s : State) (pas : List Nat) : Nat → Nat → Nat
  | 0, v => v
  | n + 1, v => s.settleView pas n (s.raiseView v pas)

/-- The view time of one load instruction over the atoms it reads (R131): any time from the least one allowed on; `floor`
gives each atom's. -/
def State.viewFrom (s : State) (floor : Nat → Nat) (c : Nat) (pas : List Nat) : Nat :=
  let lo := max c (maxOf (pas.map floor))
  s.settleView pas pas.length (if lo < timeEnd then lo + s.free .viewTime % (timeEnd - lo) else lo)
/-- The view time of a load that no near cache serves. -/
def State.viewTime (s : State) (c : Nat) (pas : List Nat) : Nat := s.viewFrom s.viewFloor c pas

/-- The copy of another package's atom that a cluster may still use, by the write time its home had: asked for within 2 µs
(R131). -/
def State.remoteCopy (s : State) (k pa : Nat) : Option Nat :=
  match (tabGet k s.clusters).bind fun c => tabGet (pa / 32) c.remote with
  | none => none
  | some (t, w) => if s.now ≤ t + 2 * tickUs then some w else none
/-- The least view time of a load of a cluster (R131); a copy older than the version its home retains is not used (log entry 69). -/
def State.loadFloor (s : State) (k pa : Nat) : Nat :=
  if paDevice pa = s.steward.device then s.viewFloor pa
  else max ((s.remoteCopy k pa).getD (s.atom pa).w) (((s.atom pa).prior.map (·.w)).getD 0)
/-- A load of a cluster fetches the atoms of other packages of which it has no copy to use (R131). -/
def State.fetchRemote (s : State) (k : Nat) (pas : List Nat) : State :=
  let new := pas.filter fun pa => paDevice pa != s.steward.device && (s.remoteCopy k pa).isNone
  if new.isEmpty then s
  else s.modCluster k fun c =>
    let live := c.remote.filter fun x => s.now ≤ x.2.1 + 2 * tickUs
    { c with remote := new.foldl (fun m pa => tabPut (pa / 32) (s.now, (s.atom pa).w) m) live }

/-- Whether the version valid at `v` is the current one. -/
def Atom.currentAt (a : Atom) (v : Nat) : Bool := (a.priorAt v).isNone

/-- A read of an atom at a view time: the lease extends, and an interval whose version is read is observed (R129, R429). -/
def State.markRead (s : State) (who : Option Nat) (v : Nat) (pa : Nat) (cx : Option Nat := none) : State :=
  let a := s.atom pa
  if a.currentAt v then (s.putAtom pa { a with e := max a.e v }).observe a.itag who cx else s

/-- Reads of several atoms at one view time. -/
def State.markReads (s : State) (who : Option Nat) (v : Nat) (pas : List Nat) (cx : Option Nat := none) : State :=
  pas.foldl (fun s pa => s.markRead who v pa cx) s

/-- Whether the bytes of an atom's version contain a word of its poison (R434). -/
def poisonMeets (p pa n : Nat) : Bool :=
  p ≥ 16 || (List.range 4).any fun k => p.testBit k && pa % 32 < 8 * k + 8 && 8 * k < pa % 32 + n
/-- Whether bytes contain a poisoned word (R434). -/
def State.poisoned (s : State) (pa n : Nat) : Bool := poisonMeets (s.atom pa).poison pa n
/-- Whether the bytes of the version valid at a view time contain a poisoned word (R430, R434). -/
def State.poisonedAt (s : State) (v pa n : Nat) : Bool :=
  match (s.atom pa).priorAt v with
  | none => s.poisoned pa n
  | some p => poisonMeets p.poison pa n

/-- Which 8-byte words of its atom a write covers whole. -/
def wholeWords (pa : Nat) (bs : List (Option Byte)) : List Nat :=
  let on (i : Nat) : Bool := pa % 32 ≤ i && (bs[i - pa % 32]?.join).isSome
  (List.range 4).filter fun k => (List.range 8).all fun j => on (8 * k + j)
/-- Which 8-byte words of its atom a write touches. -/
def touchedWords (pa : Nat) (bs : List (Option Byte)) : List Nat :=
  let on (i : Nat) : Bool := pa % 32 ≤ i && (bs[i - pa % 32]?.join).isSome
  (List.range 4).filter fun k => (List.range 8).any fun j => on (8 * k + j)

/-- The poison left after a write, and whether the write merged into a poisoned word (R434). -/
def poisonAfter (p pa : Nat) (bs : List (Option Byte)) : Nat × Bool :=
  let whole := wholeWords pa bs
  if p ≥ 16 then (if whole.length = 4 then (0, false) else (p, true))
  else
    ((List.range 4).foldl (fun q k => if p.testBit k && !whole.contains k then q + 2 ^ k else q) 0,
      (touchedWords pa bs).any fun k => p.testBit k && !whole.contains k)

/-- Test the watches registered at an atom (R403): a dependence is met at the first write at which its condition holds. The test reads
the counter for the launch's context (R429). -/
def State.testWatches (s : State) (pa t : Nat) : State :=
  let hit := s.launches.filter fun p => p.2.eligible.isNone && p.2.deps.any fun d => d.met.isNone && d.pa / 32 = pa / 32
  hit.foldl (fun s p =>
    ((s.observe (s.atom pa).itag none (some p.2.ctx)).modLaunch p.1 fun l => { l with deps := l.deps.map fun d =>
      if d.met.isNone && d.pa / 32 = pa / 32 && d.thr ≤ ((s.bytesAs d.key d.pa 8).foldr (fun b n => b.toNat + 256 * n) 0) then
        { d with met := some t } else d }).tryEligible p.1) s

/-- Who writes: the sheet whose interval the write belongs to, if any, the context told of errors, and the page's key. -/
structure Writer where
  sheet : Option Nat
  ctx : Nat
  /-- Key slot of the page written (R419). -/
  key : Nat
  /-- The die of the home, where the page says so (R99, R100). -/
  home : Option Nat := none
  /-- Whether the new value is computed from the old: it clears no poison (R434). -/
  reads : Bool := false
  deriving DecidableEq, Repr

/-- The version an atom retains when a writer replaces its current one at time `t` (R104, R428): a pinned prior is
displaced by nothing; the first write of an interval pins the version it replaces. Also whether the interval stays
protected. -/
def Atom.retained (a : Atom) (old : List Byte) (t now cx : Nat) (tag : Option Nat) (protect : Bool) : Option Prior × Bool :=
  let fresh : Prior := { w := a.w, bytes := old, ends := t, goneAt := now, pin := if protect then tag else none, folio := a.folio
                         poison := a.poison, key := a.key, ctx := cx }
  match a.prior with
  | some p => if p.pin.isSome then (some p, a.itag == tag) else if tag.isSome && a.itag == tag then (some p, true) else (some fresh, true)
  | none => if tag.isSome && a.itag == tag then (none, true) else (some fresh, true)

/-- Whether a sheet is a countersign replay that performs no write (R437). -/
def State.dryReplay (s : State) (who : Option Nat) : Bool :=
  match (who.bind fun k => tabGet k s.sheets).bind (·.replay) with
  | none => false
  | some a => !((tabGet a s.audits).any (·.writes))

/-- Perform a write of enabled bytes within one atom at logical time `t` at its home (R105, R129): the version replaced
is retained, write time and lease end become `t`, the interval is tagged, another's interval is observed, watches are
tested, and poison clears or is reported. A replay performs nothing (R437). -/
def State.perform (s : State) (w : Writer) (t pa : Nat) (bs : List (Option Byte)) (folio : Option Nat) : State :=
  if s.dryReplay w.sheet then s else
  let a := s.atom pa
  let old := s.bytes (pa / 32 * 32) 32
  let ivl := (w.sheet.bind fun k => tabGet k s.sheets).map (·.ivl)
  let tag := ivl.map (·.tag)
  let room := match ivl with | some i => (i.pins.contains (pa / 32) || i.pins.length < 16384) && !i.unprotected | none => false
  let (prior, kept) := a.retained old t s.now w.ctx tag room
  let (poison, merged) := if w.reads && poisonMeets a.poison pa bs.length then (a.poison, true) else poisonAfter a.poison pa bs
  let s := s.observe a.itag w.sheet (some w.ctx)
  let base : List (Option Byte) := if a.key = w.key then [] else (s.rekeyed a.w a.key w.key pa old).map some
  let s := { s with mem := putBytes pa bs (putBytes (pa / 32 * 32) base s.mem) }
  let s := s.putAtom pa { w := t, e := t, wAt := s.now, prior := prior, folio := folio, itag := tag, poison := poison
                          key := w.key, home := w.home.or a.home }
  let s := match w.sheet with
    | none => s
    | some k => s.modSheet k fun h => { h with ivl := { h.ivl with
        pins := if h.ivl.pins.contains (pa / 32) then h.ivl.pins else h.ivl.pins ++ [pa / 32]
        unprotected := h.ivl.unprotected || !room || !kept } }
  let s := if merged then s.asyncError w.ctx 6 (pa / 32 * 32) 0 else s
  s.testWatches pa t

/-- The time a write takes at an atom for a clock (R129). -/
def State.writeTime (s : State) (c pa : Nat) : Nat := max c ((s.atom pa).e + 1)

/-- The retention horizon of a context (R140), when anything holds it. -/
def State.horizon? (s : State) (cx : Nat) : Option Nat :=
  let ts := (s.sheets.filter fun p => p.2.ctx == cx).flatMap fun p =>
    ((p.2.threads.filter fun q => q.2.2.st != .exited).map fun q => q.2.2.clock)
      ++ (if p.2.mseq.st == .running then [p.2.mseq.clock] else [])
      ++ (if p.2.cseq.st == .running then [p.2.cseq.clock] else [])
  let cs := (s.copies.filter fun p => p.2.ctx == cx).map fun p => p.2.issue
  let ls := (s.launches.filter fun p => p.2.ctx == cx && p.2.eligible.isSome && p.2.unplaced.any (fun q => q.2.any (0 < ·.count))).map
    fun p => 1 + max p.2.submitClk (maxOf (p.2.deps.map fun d => d.met.getD 0))
  (ts ++ cs ++ ls).min?
/-- Whether the horizon has passed a time. -/
def State.horizonPassed (s : State) (cx t : Nat) : Bool :=
  match s.horizon? cx with
  | none => true
  | some h => t < h
/-- Prior versions that no access can need are dropped: nothing pins them, and the horizon has passed the write time of the
current version (R140). -/
def State.dropPriors (s : State) : State :=
  let old := s.atoms.filter fun a => a.2.prior.any fun p => p.pin.isNone && s.horizonPassed p.ctx a.2.w
  old.foldl (fun s a => s.putAtom (32 * a.1) { a.2 with prior := none }) s
/-- RHOR as read: the greatest time when nothing holds the horizon (log entry 15). -/
def State.horizon (s : State) (cx : Nat) : Nat := (s.horizon? cx).getD (timeEnd - 1)

/-- Whether a folio other than the named one of a context, open or closing in any context, holds pending bytes of an atom
(R123). -/
def State.folioElsewhere (s : State) (cx slot pa : Nat) : Bool :=
  s.ctxs.any fun c => c.2.folios.any fun p =>
    (p.2.st == .opened || p.2.st == .closing) && (p.2.joins.any fun j => j.pa / 32 == pa / 32) && !(c.1 == cx && p.1 == slot)

/-- The atoms a folio's stores touch (R123). -/
def Folio.atoms (f : Folio) : List Nat := (f.joins.map (·.pa / 32)).eraseDups
/-- The byte a store of a folio has for an address, if it has one. -/
def FolioStore.at (j : FolioStore) (pa : Nat) : Option Byte := if j.pa ≤ pa then (j.bytes[pa - j.pa]?).join else none
/-- The pending bytes of an atom: of several stores to one byte the last in logical order stands, by the clocks of the lanes
that made them, and the last to issue among equals (R124; log entry 78). -/
def Folio.pending (f : Folio) (a : Nat) : List (Option Byte) :=
  (List.range 32).map fun i => (f.joins.foldl (fun (b : Option (Nat × Byte)) j =>
    match j.at (32 * a + i), b with
    | none, b => b
    | some x, none => some (j.clk, x)
    | some x, some y => if y.1 ≤ j.clk then some (j.clk, x) else some y) none).map (·.2)

end Sys2Proof.Machine
end

