-- ==== Sys2Proof/Machine/Translate.lean ====
section
/-! DEFINITION. Translation: page-table entries and walks (R413, R414, R417), the checks of an access (R281 checks 3 to 7,
R415), cached translations, replica conversion (R421), and coherence switching (R422). -/

namespace Sys2Proof.Machine

/-- The illegal-instruction trap of a check. -/
def Trap.illegal (check : Nat) : Trap := { cause := 1, check := check }

/-- A field of a number: `n` bits from `i`. -/
def bitsOf (w i n : Nat) : Nat := w / 2 ^ i % 2 ^ n

/-- Whether the home of a physical address cannot be reached (R470). -/
def State.unreach (s : State) (pa : Nat) : Bool := s.unreachable.contains (paDevice pa)

/-- A page-table entry as its two words (R413). -/
structure Entry where
  lo : Nat
  pa : Nat
  deriving DecidableEq, Repr

/-- Consecutive pages of a context, by number. -/
structure Pages where
  first : Nat
  last : Nat
  deriving DecidableEq, Repr
/-- One page. -/
def Pages.one (p : Nat) : Pages := { first := p, last := p }
/-- Every page (R371). -/
def Pages.all : Pages := { first := 0, last := 4294967295 }
/-- Whether a page is one of them. -/
def Pages.has (r : Pages) (p : Nat) : Bool := r.first ≤ p && p ≤ r.last
/-- Whether a cached translation serves one of them: a block's serves the 8,192 pages from its first on. -/
def Pages.meets (r : Pages) (p : Nat) (l : Leaf) : Bool := p ≤ r.last && r.first ≤ p + (if l.block then 8191 else 0)

/-- The two words of 16 bytes (R413). -/
def Entry.of (bs : List Byte) : Entry := { lo := ofBytesLE (bs.take 8), pa := ofBytesLE (bs.drop 8) }
/-- Whether the entry a walk reads at a view time is uncorrectable, or cannot be reached (R434, R470). -/
def State.entryLost (s : State) (v pa : Nat) : Bool := s.poisonedAt v pa 16 || s.unreach pa
/-- An entry whose bytes are uncorrectable or out of reach: the walk that reads it ends (R434, R470). -/
def Entry.lost : Entry := { lo := 0, pa := 0 }
/-- One entry read as a one-lane load (R417), the `k`-th load of a walk: its words and the view time. -/
def State.readEntry (s : State) (c k pa : Nat) : Entry × Nat :=
  let v := { s with choices := s.choices + k }.viewTime c [pa]
  (if s.entryLost v pa then Entry.lost else Entry.of (s.versionBytes v pa 16), v)
/-- One entry as its home holds it now, for a step of the panel's own units. -/
def State.entryNow (s : State) (_k pa : Nat) : Entry × Nat :=
  (if s.poisoned pa 16 || s.unreach pa then Entry.lost else Entry.of (s.bytes pa 16), 0)

/-- A valid table entry (R413, R414). -/
def Entry.table (e : Entry) : Bool := bitsOf e.lo 0 3 == 1 && e.lo / 8 == 0 && e.pa % 131072 == 0

/-- A valid leaf entry of a level, as the leaf of the 64 KiB page `page` (R413, R414). -/
def Entry.leaf (e : Entry) (level page at_ memory : Nat) : Option Leaf :=
  let kind := bitsOf e.lo 1 2
  let pl := bitsOf e.lo 3 2
  let block := level == 1
  if e.lo % 2 == 1 && kind == (if block then 2 else 1) && pl ≠ 3 && !(block && pl == 2) && bitsOf e.lo 10 6 == 0
      && e.lo / 16777216 == 0 && e.pa % (if block then 536870912 else 65536) == 0 && paOffset e.pa < memory then
    some { pa := e.pa + (if block then page % 8192 * 65536 else 0), pl := pl, cm := e.lo.testBit 5, xs := e.lo.testBit 6
           ro := e.lo.testBit 7, x := e.lo.testBit 8, u := e.lo.testBit 9, key := bitsOf e.lo 16 8, block := block
           entryPa := at_ }
  else none

/-- What a walk finds: the leaf, the level-2 table it passed through, and the entries read with their view times. -/
structure Walked where
  leaf : Option Leaf := none
  table : Option Nat := none
  reads : List (Nat × Nat) := []
  deriving DecidableEq, Repr

/-- The last step of a walk: the level-2 entry of a page (R413, R414). -/
def State.walkLast (s : State) (read : Nat → Nat → Entry × Nat) (base page : Nat) (before : List (Nat × Nat)) : Walked :=
  let at2 := base + 16 * (page % 8192)
  let (e2, v2) := read before.length at2
  { leaf := e2.leaf 2 page at2 (s.packageMemory (paDevice e2.pa)), table := some base, reads := before ++ [(at2, v2)] }

/-- Walk the tables of a context for a page, reading entries by `read` (R413, R414, R417). -/
def State.walkGo (s : State) (read : Nat → Nat → Entry × Nat) (ttb page : Nat) : Walked :=
  let at0 := ttb / 65536 * 65536 + 16 * (page / 67108864)
  let (root, v0) := read 0 at0
  if root.table then
    let at1 := root.pa + 16 * (page / 8192 % 8192)
    let (e1, v1) := read 1 at1
    if e1.table then s.walkLast read e1.pa page [(at0, v0), (at1, v1)]
    else { leaf := e1.leaf 1 page at1 (s.packageMemory (paDevice e1.pa)), reads := [(at0, v0), (at1, v1)] }
  else { reads := [(at0, v0)] }

/-- What a walk of a context's tables finds for a page now, for a step of the panel's own units. -/
def State.walkNow (s : State) (cx page : Nat) : Walked := ((tabGet cx s.ctxs).map fun c => s.walkGo s.entryNow c.ttb page).getD {}
/-- The leaf a context's tables give a page now. -/
def State.leafNow (s : State) (cx page : Nat) : Option Leaf := (s.walkNow cx page).leaf

/-- The least view time of a walk of a page (R371, R417). -/
def Context.floor (c : Context) (page : Nat) : Nat :=
  maxOf ((c.floors.filter fun f => f.1 ≤ page && page ≤ f.2.1).map (·.2.2))

/-- A walk of a context's tables for a die, with what its loads do: a level-1 entry the die holds may serve it (R416). -/
def State.walk (s : State) (cx die c page : Nat) : Walked × State :=
  match tabGet cx s.ctxs with
  | none => ({}, s)
  | some ctx =>
    let mid := (ctx.mids.find? fun m => m.1 == die && m.2.1 == page / 8192).map (·.2.2)
    let use := mid.isSome && s.free .translation % 2 = 0
    let s := if mid.isSome then s.drew else s
    let read := s.readEntry (max c (ctx.floor page))
    let w := match mid with
      | some base => if use then s.walkLast read base page [] else s.walkGo read ctx.ttb page
      | none => s.walkGo read ctx.ttb page
    (w, w.reads.foldl (fun s r => (s.markRead none r.2 r.1 (some cx)).drew) s)

/-- Where a translation is cached: a block's leaf serves every page of its 512 MiB, by its first (R416). -/
def Leaf.based (l : Leaf) (page : Nat) : Nat × Leaf :=
  if l.block then (page / 8192 * 8192, { l with pa := l.pa - page % 8192 * 65536 }) else (page, l)
/-- The entry at which a walk ended because it is uncorrectable or out of reach, with its view time (R434, R470). -/
def State.walkLost (s : State) (w : Walked) : Option (Nat × Nat) := w.reads.find? fun r => s.entryLost r.2 r.1

/-- A list of keyed cache entries with one more, the oldest leaving a full cache. -/
def cachePut {α : Type} (size k n : Nat) (x : α) (l : List (Nat × Nat × α)) : List (Nat × Nat × α) :=
  let l := (l.filter fun p => !(p.1 == k && p.2.1 == n)) ++ [(k, n, x)]
  if size < (l.filter (·.1 == k)).length then l.eraseIdx (l.findIdx (·.1 == k)) else l
/-- An entry of such a list. -/
def cacheGet {α : Type} (k n : Nat) (l : List (Nat × Nat × α)) : Option α := (l.find? fun p => p.1 == k && p.2.1 == n).map (·.2.2)
/-- The translation of a page in a list of cached ones: its own, or its block's (R416). -/
def leafGet (k page : Nat) (l : List (Nat × Nat × Leaf)) : Option Leaf :=
  ((cacheGet k page l).filter fun x => !x.block).or
    (((cacheGet k (page / 8192 * 8192) l).filter (·.block)).map fun x => { x with pa := x.pa + page % 8192 * 65536 })

/-- A cluster's near TLB takes a translation (R416). -/
def Context.cacheNear (c : Context) (cl : Option Nat) (page : Nat) (l : Leaf) : Context :=
  match cl with
  | none => c
  | some k => { c with near := cachePut 128 k (l.based page).1 (l.based page).2 c.near }
/-- What a walk found enters the caches of a die and of the cluster it serves; a failed walk enters none (R416). -/
def Context.cache (c : Context) (cl : Option Nat) (die page : Nat) (w : Walked) : Context :=
  let c := match w.table with
    | none => c
    | some base => { c with mids := cachePut 512 die (page / 8192) base c.mids }
  match w.leaf with
  | none => c
  | some l =>
    ({ c with
      tlb := cachePut 8192 die (l.based page).1 (l.based page).2 c.tlb
      soft := if l.cm && !c.soft.contains (page, l) then c.soft ++ [(page, l)] else c.soft }).cacheNear cl page l

/-- The translation an access uses (R416, R417): one its cluster holds, one its die holds, or a walk's; which is free where
they differ. -/
def State.leafOf (s : State) (cx : Nat) (cl : Option Nat) (die c page : Nat) : Option Leaf × State :=
  let (w, s') := s.walk cx die c page
  let walked : Option Leaf × State := (w.leaf, s'.modCtx cx (·.cache cl die page w))
  match tabGet cx s.ctxs with
  | none => (none, s)
  | some ctx =>
    let near := cl.bind fun k => leafGet k page ctx.near
    let mine := leafGet die page ctx.tlb
    match near.or mine with
    | none => walked
    | some l =>
      if (mine = some l || mine.isNone) && w.leaf = some l then (some l, if near.isSome then s else s.modCtx cx (·.cacheNear cl page l))
      else
        let pick := s.free .translation % 3
        match near, mine with
        | some l, none => if pick = 0 then (some l, s.drew) else (w.leaf, s'.drew.modCtx cx (·.cache cl die page w))
        | none, some l => if pick ≠ 2 then (some l, s.drew.modCtx cx (·.cacheNear cl page l)) else (w.leaf, s'.drew.modCtx cx (·.cache cl die page w))
        | some l, some m =>
          if pick = 0 then (some l, s.drew)
          else if pick = 1 then (some m, s.drew.modCtx cx (·.cacheNear cl page m))
          else (w.leaf, s'.drew.modCtx cx (·.cache cl die page w))
        | none, none => walked

/-- The kinds of access (R415). -/
inductive Access where
  | read | write | fetch
  deriving DecidableEq, Repr

/-- One address an instruction uses. -/
structure Req where
  lane : Nat
  va : Nat
  size : Nat
  kind : Access
  deriving DecidableEq, Repr

/-- What translating a page gave: its leaf, and where there is none the entry that was lost, if one was. -/
structure Translated where
  leaf : Option Leaf
  lost : Option (Nat × Nat) := none
  deriving DecidableEq, Repr

/-- Who accesses: context, die, privilege, and the clock of a walk. -/
structure Issuer where
  cx : Nat
  die : Nat
  atS : Bool
  clk : Nat
  /-- Whether steward firmware accesses on the penholder's behalf (R43). -/
  steward : Bool := false
  /-- The cluster whose near TLB serves the access (R416). -/
  cl : Option Nat := none
  /-- The sheet whose access it is (R430). -/
  sid : Option Nat := none
  /-- The pages its instruction has translated already (R417). -/
  known : Tab Translated := []
  deriving DecidableEq, Repr

/-- Translate each distinct page once (R417, R371). -/
def State.translatePages (s : State) (w : Issuer) : List Nat → Tab Translated → Tab Translated × State
  | [], m => (m, s)
  | p :: ps, m =>
    match tabGet p m with
    | some _ => s.translatePages w ps m
    | none =>
      let (l, t) := s.leafOf w.cx w.cl w.die w.clk p
      t.translatePages w ps (tabPut p { leaf := l, lost := if l.isNone then s.walkLost (s.walk w.cx w.die w.clk p).1 else none } m)

/-- Whether the version of an atom valid at a view time is the current one and carries the tag of the accessing sheet's interval: its
loss is one of the sheet's own state (R430). -/
def State.ownVersion (s : State) (w : Issuer) (v pa : Nat) : Bool :=
  let a := s.atom pa
  a.currentAt v && a.itag.isSome && a.itag == (w.sid.bind fun k => tabGet k s.sheets).map (·.ivl.tag)
/-- The trap of an access whose walk met a lost entry (R430, R434, R470): check 9. -/
def State.walkTrap (s : State) (w : Issuer) (t : Trap) (r : Nat × Nat) : Trap :=
  { t with cause := 16, check := 9, own := s.poisonedAt r.2 r.1 16 && s.ownVersion w r.2 r.1 }

/-- Whether a leaf's page lies in what the partition was granted (R418). -/
def State.granted (s : State) (cx : Nat) (l : Leaf) : Bool :=
  match (tabGet cx s.ctxs).bind fun c => tabGet c.part s.parts with
  | none => false
  | some p =>
    let within (base size : Nat) : Bool := base ≤ l.pa && l.pa + 65536 ≤ base + size
    if l.pl = 0 then within p.winBase p.winSize && paDevice l.pa == s.steward.device
    else if paDevice l.pa == s.steward.device then p.ranges.any fun r => within r.1 r.2
    else p.devices.contains (paDevice l.pa)

/-- Whether the access passes the permission check of R415. -/
def State.permits (s : State) (w : Issuer) (k : Access) (l : Leaf) : Bool :=
  !(k == .write && l.ro) && !(k == .fetch && !l.x) && (w.atS || l.u) && s.granted w.cx l

/-- Whether the leaf's key slot is filled and granted (R415, R419). -/
def State.keyOk (s : State) (cx : Nat) (l : Leaf) : Bool :=
  match tabGet l.key s.keys, tabGet cx s.ctxs with
  | some k, some c => k.key.isSome && k.grants.testBit c.part
  | _, _ => false

/-- The first request that fails a check, as its trap. -/
def firstFail (reqs : List Req) (cause check : Nat) (info : Req → Nat) (ok : Req → Bool) : Option Trap :=
  (reqs.find? fun r => !ok r).map fun r => { cause := cause, check := check, lane := some r.lane, addr := r.va, info := info r }

/-- Checks 3 to 7 of R281 on every address of an instruction, in order; the leaf of each address when all pass. Either way the state
after the walks: one that ends in a trap has read its entries too (R417, R429). -/
def State.checkAccess (s : State) (w : Issuer) (reqs : List Req) : Except (Trap × State) (List (Req × Leaf) × State) :=
  match firstFail reqs 3 3 (fun _ => 0) (fun r => r.va % r.size == 0) with
  | some t => .error (t, s)
  | none =>
    match firstFail reqs 4 4 (fun _ => 0) (fun r => r.va < 281474976710656) with
    | some t => .error (t, s)
    | none =>
      let (m, s') := s.translatePages w (reqs.map fun r => r.va / 65536) w.known
      let leaf (r : Req) : Option Leaf := (tabGet (r.va / 65536) m).bind (·.leaf)
      match firstFail reqs 4 5 (fun _ => 0) (fun r => (leaf r).isSome) with
      | some t => .error ((((tabGet (t.addr / 65536) m).bind (·.lost)).map (s.walkTrap w t)).getD t, s')
      | none =>
        match firstFail reqs 5 6 (fun _ => 0) (fun r => (leaf r).any (s.permits w r.kind)) with
        | some t => .error (t, s')
        | none =>
          match firstFail reqs 6 7 (fun r => ((leaf r).map (·.key)).getD 0) (fun r => (leaf r).any (s.keyOk w.cx)) with
          | some t => .error (t, s')
          | none => .ok (reqs.filterMap fun r => (leaf r).map fun l => (r, l), s')

/-- The pages of some translated addresses keep their entries for the rest of the instruction (R417). -/
def Issuer.learn (w : Issuer) (xs : List (Req × Leaf)) : Issuer :=
  { w with known := xs.foldl (fun m x => tabPut (x.1.va / 65536) { leaf := some x.2 } m) w.known }

/-- The physical address of a translated address. -/
def Leaf.phys (l : Leaf) (va : Nat) : Nat := l.pa + va % 65536

/-- The die that is the home of a byte (R99, R100): on an interleaved page the live dies of the partition take 4 KiB granules in
turn, by virtual address. -/
def State.homeOf (s : State) (cx va : Nat) (l : Leaf) : Nat :=
  let ds := s.ctxDies cx
  if l.pl = 0 then (ds[va / 4096 % ds.length]?).getD 0 else s.pageDie l.pa

/-- The leaf of a completion object or a dependence counter, which is tested for translation alone (R37, R42). One outside what the
partition was granted (R418) counts as failing it (log entry 38). -/
def State.counterLeaf (s : State) (w : Issuer) (va : Nat) : Option Leaf × State :=
  let (l, s) := match (tabGet (va / 65536) w.known).bind (·.leaf) with
    | some l => (some l, s)
    | none => s.leafOf w.cx w.cl w.die w.clk (va / 65536)
  (l.filter (s.granted w.cx), s)

/-- Discard cached translations of pages of a context in every cluster and die of the partition; walks that begin later read
at a view time of at least `c` (R371, R421, R426). -/
def State.discard (s : State) (cx c : Nat) (r : Pages) : State :=
  s.modCtx cx fun x => { x with
    tlb := x.tlb.filter fun p => !r.meets p.2.1 p.2.2
    near := x.near.filter fun p => !r.meets p.2.1 p.2.2
    soft := x.soft.filter fun p => !r.has p.1
    mids := x.mids.filter fun p => r.last < 8192 * p.2.1 || 8192 * p.2.1 + 8191 < r.first
    floors := (x.floors.filter fun f => !(r.first ≤ f.1 && f.2.1 ≤ r.last && f.2.2 ≤ c)) ++ [(r.first, r.last, c)] }

/-- Rewrite a leaf's first byte or its PA by one atomic access at its home (R421, R426). -/
def State.rewriteLeaf (s : State) (cx at_ : Nat) (bs : List (Option Byte)) : State :=
  s.perform { sheet := none, ctx := cx, key := (s.atom at_).key } (s.writeTime 0 at_) at_ bs none

/-- A write reaches a replicated page: its directory entry becomes converting (R101, R421 step 1). -/
def State.startConvert (s : State) (cx page : Nat) : State :=
  { s with replicas := s.replicas.map fun r => if r.ctx == cx && r.page == page then { r with converting := true } else r }

end Sys2Proof.Machine
end

