-- ==== Sys2Proof/Machine/Home.lean ====
section
/-! DEFINITION. What the homes do with one lane's access: atomic operations (R293), placement of a write at its time
(R129) with the exhaustion rule (R128), writes issued and performed later (R130), software-managed bytes (R103), and the
store signature (R437). -/

namespace Sys2Proof.Machine

/-- The new value at the atom (R293), by operation, old value and operand. -/
def atomNew (op : AtomOp) (old x : Nat) : Nat :=
  match op with
  | .addI _ => (old + x) % 4294967296
  | .add64 => (old + x) % 18446744073709551616
  | .addF => fmt32.add .rn old x
  | .minI t => (minWord t (BitVec.ofNat 32 old) (BitVec.ofNat 32 x)).toNat
  | .maxI t => (maxWord t (BitVec.ofNat 32 old) (BitVec.ofNat 32 x)).toNat
  | .minF => fmt32.minBits old x
  | .maxF => fmt32.maxBits old x
  | .and _ => Nat.land old x
  | .or _ => Nat.lor old x
  | .xor _ => Nat.xor old x
  | .exch _ => x
/-- The SUB code of an operation (R293). -/
def AtomOp.sub (op : AtomOp) : Nat :=
  match op with
  | .addI _ | .add64 | .addF => 0
  | .minI _ | .minF => 1
  | .maxI _ | .maxF => 2
  | .and _ => 3
  | .or _ => 4
  | .xor _ => 5
  | .exch _ => 6
/-- The operand width in bytes (R293). -/
def atomBytes (op : AtomOp) : Nat := if op.wide then 8 else 4

/-- Logical time is exhausted: an asynchronous error, and the context ends with the step (R128; log entry 16). -/
def State.exhaust (s : State) (cx : Nat) : State := ((s.asyncError cx (openCode (s.free .errorCode)) 0 0).drew).modCtx cx fun c => { c with expired := true }

/-- Place one write of bytes within an atom at the clock `c`: the state after it and its time; none when the time would
be exhausted (R128, R129). -/
def State.placeWrite (s : State) (w : Writer) (c pa : Nat) (bs : List (Option Byte)) : Option (State × Nat) :=
  let t := s.writeTime c pa
  if t < timeEnd then some (s.perform w t pa bs none, t) else none

/-- The contribution of one write to the store signature (R437). -/
def signatureOf (va kind size data : Nat) : Nat :=
  ofBytesLE ((Config.sha512 (toBytesLE 8 va ++ toBytesLE 1 kind ++ toBytesLE 1 size ++ toBytesLE 6 0 ++ toBytesLE 16 data)).take 8)
/-- Add contributions to a sheet's signature when its launch is auditable (R436, R437). -/
def State.sign (s : State) (k : Nat) (cs : List Nat) : State :=
  match (tabGet k s.sheets).bind fun h => tabGet h.launch s.launches with
  | none => s
  | some l => if l.audit then s.modSheet k fun h => { h with sig := (h.sig + cs.foldl (· + ·) 0) % 18446744073709551616 } else s

/-- The near-cache bytes of a cluster. -/
def State.nearByte (s : State) (k pa : Nat) : Option (Byte × Option Nat) := (tabGet k s.clusters).bind fun c => tabGet pa c.near
/-- Put bytes in a near cache, dirty ones under an interval tag (R103). That no byte leaves for want of room is the model's choice
(log entry 101). -/
def State.putNear (s : State) (k pa : Nat) (dirty : Option Nat) (bs : List Byte) : State :=
  s.modCluster k fun c => { c with near := bs.zipIdx.foldl (fun n p => tabPut (pa + p.2) (p.1, dirty) n) c.near }

/-- The sheet whose present interval carries a tag (R428). -/
def State.tagOwner (s : State) (tag : Nat) : Option Nat := (s.sheets.find? fun p => p.2.ivl.tag == tag).map (·.1)
/-- Write a near cache's dirty bytes of a span to the home (R103, R422), at the clock `c`: those of each interval as a write of
it (R428). -/
def State.writeBack (s : State) (k cx c key : Nat) (home : Option Nat) (pa n : Nat) : State :=
  let held := (List.range n).map fun i => s.nearByte k (pa + i)
  let tags := (held.filterMap fun b => b.bind (·.2)).eraseDups
  tags.foldl (fun s tag =>
    let bs := held.map fun b => b.bind fun x => if x.2 = some tag then some x.1 else none
    let s := (((s.placeWrite { sheet := s.tagOwner tag, ctx := cx, key := key, home := home } c pa bs).map (·.1))).getD (s.exhaust cx)
    s.modCluster k fun cl => { cl with near := cl.near.map fun p =>
      if pa ≤ p.1 && p.1 < pa + n && p.2.2 = some tag then (p.1, (p.2.1, none)) else p }) s

/-- The write-back sweep of one page (R422): clusters of the partition in ductus order write their dirty bytes; clean
copies are discarded. Bytes of an unreachable home are not written and raise error 7 (R470). -/
def State.sweepPage (s : State) (cx c page : Nat) (l : Leaf) : State :=
  (s.ctxClusters cx).foldl (fun s k =>
    let mine := (((tabGet k s.clusters).map (·.near)).getD []).filter fun p => l.pa ≤ p.1 && p.1 < l.pa + 65536
    let atoms := ((mine.filter fun p => p.2.2.isSome).map fun p => p.1 / 32).eraseDups
    let s := atoms.foldl (fun s a =>
      let va := 65536 * page + 32 * a % 65536
      if s.unreach (32 * a) then s.asyncError cx 7 va 0 else s.writeBack k cx c l.key (some (s.homeOf cx va l)) (32 * a) 32) s
    s.modCluster k fun q => { q with near := q.near.filter fun p => !(l.pa ≤ p.1 && p.1 < l.pa + 65536) }) s

/-- Convert a replicated page to home-only (R421): the leaf's PL goes from 2 to 1, every translation of the page is discarded
as by TLBINV.page, and the directory entry is freed. The page's physical address does not change, so accesses that used a discarded
translation reach the same bytes before or after the discard, and writes that wait for the conversion are performed at the home as
they are. A later walk reads no version of the page's entries older than the present one. A page without a directory entry is left
alone. -/
def State.convert (s : State) (cx page : Nat) : State :=
  if s.replicas.any (fun r => r.ctx == cx && r.page == page) then
    let s := match s.leafNow cx page with
      | none => s
      | some l =>
        let s := if l.pl = 2 then s.rewriteLeaf cx l.entryPa [some ((s.byte l.entryPa &&& 231) ||| 8)] else s
        if l.cm then s.sweepPage cx 0 page l else s
    let s := s.discard cx (maxOf ((s.walkNow cx page).reads.map fun r => (s.atom r.1).w)) (Pages.one page)
    { s with replicas := s.replicas.filter fun r => !(r.ctx == cx && r.page == page) }
  else s
/-- A write waits for the conversion of a replicated page (R101): the conversion is made first. -/
def State.beforeWrite (s : State) (cx va : Nat) : State := s.convert cx (va / 65536)

/-- Whether a context has a folio whose count is 0 and which has not closed yet (R138). -/
def State.closing (s : State) (cx : Nat) : Bool :=
  ((tabGet cx s.ctxs).map fun c => c.folios.any fun p => p.2.st == .closing).getD false

/-- Perform a folio's close (R138): the replicated pages its stores name are converted first (R101), and every atom takes a
new version with the folio's bytes over the committed ones, at one time above every contributor's clock and every lease end;
a time that would be exhausted ends the context instead (R128). An atom of an unreachable home is not written and raises error 7
(R470). -/
def State.closeFolio (s : State) (cx slot : Nat) : State :=
  match (tabGet cx s.ctxs).bind fun c => tabGet slot c.folios with
  | none => s
  | some f =>
    let s := f.joins.foldl (fun s j => s.beforeWrite cx j.va) s
    let t := 1 + max f.clk (maxOf (f.atoms.map fun a => (s.atom (32 * a)).e))
    if t < timeEnd then
      let handle := slot + 256 * f.gen
      let s := f.atoms.foldl (fun s a =>
        let j := f.joins.find? fun j => j.pa / 32 == a
        if s.unreach (32 * a) then s.asyncError cx 7 ((j.map (·.va)).getD 0 / 32 * 32) 0
        else s.perform { sheet := none, ctx := cx, key := (j.map (·.key)).getD 0, home := j.map (·.home) } t (32 * a) (f.pending a) (some handle)) s
      let shut : Folio := { f with st := .closed, closeT := t, joins := [], closer := none }
      let s := s.modCtx cx fun c => { c with folios := tabPut slot shut c.folios }
      match f.closer with
      | none => s
      | some (k, g, m) => s.modGang k g fun g => g.raiseClock (lanesOf m 64) t
    else s.exhaust cx
/-- Close every closing folio of a context. -/
def State.closeAll (s : State) (cx : Nat) : State :=
  (((tabGet cx s.ctxs).map fun c => (c.folios.filter fun p => p.2.st == .closing).map (·.1)).getD []).foldl (fun s n => s.closeFolio cx n) s

/-- The bytes an operation reads and writes at its home. -/
def LaneOp.size (op : LaneOp) : Nat :=
  match op with
  | .store bs => bs.length
  | .red op _ | .atom op _ | .agg op _ _ => atomBytes op
  | .cas wide _ _ => if wide then 8 else 4
/-- The bytes an operation writes where it finds a value; none where a comparison fails (R293 to R296). -/
def LaneOp.writes (op : LaneOp) (old : Nat) : Option (List Byte) :=
  match op with
  | .store bs => some bs
  | .red op x | .atom op x => some (toBytesLE (atomBytes op) (atomNew op old x))
  | .cas wide want new => if old = want then some (toBytesLE (if wide then 8 else 4) new) else none
  | .agg op tot _ => some (toBytesLE (atomBytes op) (atomNew op old tot))
/-- Whether the value an operation writes comes from the value it finds. -/
def LaneOp.computes (op : LaneOp) : Bool :=
  match op with
  | .store _ => false
  | _ => true
/-- What a lane receives: the old value, or under an aggregate the value with the lane's prefix in it (R294 to R296). -/
def LaneOp.result (op : LaneOp) (old l : Nat) : Nat :=
  match op with
  | .agg op _ pre => atomNew op old ((tabGet l pre).getD 0)
  | _ => old

/-- Give the result of an atomic to its destination, in each of the lanes or once (R294 to R296). -/
def Regs.deliver (r : Regs) (wide : Bool) (d : Reg) (ls : List Nat) (f : Nat → Nat) : Regs :=
  match d with
  | .v n => ls.foldl (fun r l =>
      let r := r.setVec n.val l (BitVec.ofNat 32 (f l))
      if wide then r.setVec (n.val + 1) l (BitVec.ofNat 32 (f l / 4294967296)) else r) r
  | .s n =>
    match ls.head? with
    | none => r
    | some l =>
      let r := r.setUni n.val (BitVec.ofNat 32 (f l))
      if wide then r.setUni (n.val + 1) (BitVec.ofNat 32 (f l / 4294967296)) else r

/-- Whether the home has executed a request already (R424). -/
def State.repeated (s : State) (p : LaneWrite) : Bool :=
  p.req.any fun q => s.requests.any fun r => r.1 == p.home.getD 0 && r.2.1 == q.1 && r.2.2.1 == q.2 && s.now ≤ r.2.2.2 + 10 * tickUs
/-- A home executes a request: its request ID is kept for 10 µs (R424). -/
def State.executed (s : State) (p : LaneWrite) : State :=
  match p.req with
  | none => s
  | some (k, n) => { s with requests := (s.requests.filter fun r => s.now ≤ r.2.2.2 + 10 * tickUs) ++ [(p.home.getD 0, k, n, s.now)] }

/-- Place one operation at its home: a write, or the read alone of a comparison that failed (R129, R295). -/
def State.placeOp (s : State) (w : Writer) (c : Nat) (p : LaneWrite) : Option (State × Nat) :=
  match p.op.writes (ofBytesLE (s.bytesAs p.key p.pa p.op.size)) with
  | some bs => s.placeWrite w c p.pa (bs.map some)
  | none =>
    let t := s.writeTime c p.pa
    if t < timeEnd then some (s.markRead w.sheet t p.pa (some w.ctx), t) else none

/-- Perform one lane's part of a write at its home: the time goes to the lane's clock and an atomic's result to its
destination. A replay writes nothing, so that no error and no conversion comes of it (R437). -/
def State.performPart (s : State) (w : PendWrite) (p : LaneWrite) : State :=
  let dry := s.dryReplay (some w.sheet)
  let owner := if dry || ((tabGet w.sheet s.sheets).map (·.ivl.tag)) = some w.tag then some w.sheet else none
  let who : Writer := { sheet := owner, ctx := w.ctx, key := p.key, home := p.home, reads := p.op.computes }
  if s.unreach p.pa && !dry then s.asyncError w.ctx 7 p.va 0
  else
    match w.dirtyOn, p.op with
    | some k, .store bs => if dry then s else (s.beforeWrite w.ctx p.va).writeBack k w.ctx 0 p.key p.home p.pa bs.length
    | _, op =>
      let old := ofBytesLE (s.bytesAs p.key p.pa op.size)
      let s := if (op.writes old).isSome && !dry then s.beforeWrite w.ctx p.va else s
      let gang := (tabGet w.sheet s.sheets).bind fun h => tabGet w.gang h.gangs
      let ls := if w.once then lanesOf w.lanes 64 else [p.lane]
      let width := ((tabGet w.sheet s.sheets).map (·.W)).getD 0
      let c := (gang.map (·.clockOf ls)).getD 0
      if s.repeated p then s
      else
        match (s.executed p).placeOp who c p with
        | none => s.exhaust w.ctx
        | some (s, t) => s.modGang w.sheet w.gang fun q =>
          let q := q.raiseClock ls t
          match w.dst with
          | none => q
          | some d => { q with regs := q.regs.deliver w.wide d ls (op.result old) }.expand width

/-- The destination of an atomic that has been performed is available. -/
def State.arrived (s : State) (w : PendWrite) (id : Nat) : State :=
  if w.dst.isNone then s else s.modGang w.sheet w.gang fun q => { q with awaiting := q.awaiting.filter (·.2 != id) }

/-- Perform a write that was issued earlier (R129, R130), lanes in increasing order. -/
def State.performWrite (s : State) (id : Nat) : State :=
  match tabGet id s.writes with
  | none => s
  | some w =>
    let s := { s with writes := tabDel id s.writes }
    (w.parts.foldl (fun s p => s.performPart w p) s).arrived w id

/-- The lane's part of a pending write that is performed next when part n is asked for: the lanes' parts in one atom keep their order. -/
def PendWrite.pick (w : PendWrite) (n : Nat) : Nat :=
  w.parts.findIdx fun p => some (p.pa / 32) == (w.parts[n]?).map (·.pa / 32)

/-- Perform one lane's part of a pending write; the other lanes' parts stay pending (R129: each lane's access has its own time). -/
def State.writePart (s : State) (id n : Nat) : State :=
  match tabGet id s.writes with
  | none => s
  | some w =>
    match w.parts[w.pick n]? with
    | none => s
    | some p =>
      let left := w.parts.eraseIdx (w.pick n)
      let s := { s with writes := if left.isEmpty then tabDel id s.writes else tabPut id { w with parts := left } s.writes }
      if left.isEmpty then (s.performPart w p).arrived w id else s.performPart w p

/-- Whether every earlier write of the same threads has been performed, so that this one is next in program order. -/
def State.nextWrite (s : State) (id : Nat) : Bool :=
  match tabGet id s.writes with
  | none => false
  | some w => !(s.writes.any fun p => p.1 < id && p.2.sheet == w.sheet && p.2.gang == w.gang && (p.2.lanes &&& w.lanes) ≠ 0)

/-- Perform the pending writes that satisfy a condition, oldest first. -/
def State.drain (s : State) (f : PendWrite → Bool) : State :=
  ((s.writes.filter fun p => f p.2).map (·.1)).foldl (fun s id => s.performWrite id) s

/-- R130: every earlier store, atomic and reduction of these lanes has its time. Software-managed bytes take no part. -/
def State.drainLanes (s : State) (k g : Nat) (m : Mask) : State :=
  s.drain fun w => w.sheet == k && w.gang == g && w.dirtyOn.isNone && (w.lanes &&& m) ≠ 0
/-- Every earlier write of a sheet has its time (R135). -/
def State.drainSheet (s : State) (k : Nat) : State := s.drain fun w => w.sheet == k && w.dirtyOn.isNone

/-- Issue a write: it is performed later (R130). -/
def State.issueWrite (s : State) (w : PendWrite) : State :=
  if w.parts.isEmpty then s else { s with writes := tabPut s.nextId w s.writes, nextId := s.nextId + 1 }

end Sys2Proof.Machine
end

