-- ==== Sys2Proof/Machine/Ops.lean ====
section
/-! DEFINITION. The shared operations of every meaning: the issuing agent, meetings, waits and releases, queues that
break, the end of a context, taking a trap and returning from one, and the entry and completion of an instruction. -/

namespace Sys2Proof.Machine

/-- What an instruction of a program acts on: the issuing agent as it stands. -/
structure Site where
  sid : Nat
  sh : Sheet
  agent : Agent
  view : View
  pc : Word
  atS : Bool
  die : Nat
  /-- The clock of R280, or the sequencer's own (R136). -/
  clk : Nat
  deriving DecidableEq, Repr

/-- The gang number of the site; a sequencer's is the gang that started it. -/
def Site.gang (c : Site) : Nat :=
  match c.agent with
  | .gang g => g
  | .seq k => (c.sh.seq k).starter.getD 0

/-- The die on which a sheet is resident. -/
def State.dieOf (s : State) (h : Sheet) : Nat := ((h.cluster?.bind fun k => tabGet k s.clusters).map (·.die)).getD 0

/-- The registers, width and lanes the issue in progress sees. -/
def State.site (s : State) : Option Site :=
  match s.issue with
  | none => none
  | some i =>
    match tabGet i.sheet s.sheets with
    | none => none
    | some h =>
      match i.agent with
      | .gang g =>
        match tabGet g h.gangs with
        | none => none
        | some q => some { sid := i.sheet, sh := h, agent := i.agent, view := { regs := q.regs, W := h.W, lanes := i.lanes }
                           pc := i.pc, atS := q.atS, die := s.dieOf h, clk := q.clockOf (lanesOf i.lanes h.W) }
      | .seq k => some { sid := i.sheet, sh := h, agent := i.agent, view := { regs := (h.seq k).regs, W := 1, lanes := 1 }
                         pc := i.pc, atS := false, die := s.dieOf h, clk := (h.seq k).clock }

/-- Who accesses memory for this instruction. -/
def Site.issuer (c : Site) : Issuer := { cx := c.sh.ctx, die := c.die, atS := c.atS, clk := c.clk, cl := c.sh.cluster?, sid := some c.sid }

/-! ### Meetings -/

/-- Threads whose counter is on top of their stack arrive and are held (R25). -/
def Gang.arrive (g : Gang) : Gang :=
  { g with threads := tabMap (fun _ t =>
      if t.st == .running && (t.stack.head?.map (·.1)) == some t.pc then { t with st := .held } else t) g.threads }

/-- The entry a held lane is held with. -/
def Thread.heldAt (t : Thread) : Option (Word × Fin 8) := if t.st == .held then t.stack.head? else none

/-- Whether the meeting releases: every lane whose bit is set in its mask is held with the entry on top (R25, R222). -/
def Gang.meets (g : Gang) (e : Word × Fin 8) : Bool :=
  (List.range 64).all fun l => !laneOn (g.regs.rejoin e.2.val) l || ((tabGet l g.threads).bind (·.heldAt)) == some e

/-- Release a meeting: the lanes held on it pop, clear their bits and run on (R25). -/
def Gang.releaseMeeting (g : Gang) (e : Word × Fin 8) : Gang :=
  let ls := (g.threads.filter fun p => p.2.heldAt == some e).map (·.1)
  { g with
    threads := tabMap (fun _ t => if t.heldAt == some e then { t with st := .running, stack := t.stack.drop 1 } else t) g.threads
    regs := g.regs.setRejoin e.2.val (g.regs.rejoin e.2.val &&& ~~~(maskOf ls)) }

/-- Arrivals and releases until none is left; each release pops an entry. -/
def Gang.settleGo : Nat → Gang → Gang
  | 0, g => g
  | n + 1, g =>
    let g := g.arrive
    match (g.threads.filterMap (·.2.heldAt)).find? g.meets with
    | none => g
    | some e => Gang.settleGo n (g.releaseMeeting e)

/-- Settle the meetings of a gang; at S arrival is not tested (R386). -/
def Gang.settle (g : Gang) : Gang := if g.atS then g else g.settleGo 513

/-! ### Waits and their ends -/

/-- How a lane goes on when its wait ends: it runs, or runs at U after ERET when the gang is at S and the lane waited on a
barrier or napped at entry (R386). -/
def Gang.goesOn (g : Gang) (l : Nat) : TState := if g.atS && (tabGet l g.entryWait).isSome then .uRun else .running
/-- Lanes return to running (R386). -/
def Gang.wake (g : Gang) (ls : List Nat) : Gang := (g.modThreads ls fun l t => { t with st := g.goesOn l }).settle

/-- The lanes of a gang in a state. -/
def Gang.lanesIn (g : Gang) (f : TState → Bool) : List Nat := (g.threads.filter fun p => f p.2.st).map (·.1)

/-- Whether a lane leaves with a wave. -/
def TState.inWave (t : TState) : Bool :=
  match t with
  | .wave _ => true
  | _ => false
/-- A wave sequence with another gang in it, by placement order and gang number; a gang is in it once (R452). -/
def addWave (seq : List (Nat × Nat × Nat × List Nat)) (x : Nat × Nat × Nat × List Nat) : List (Nat × Nat × Nat × List Nat) :=
  let same (y : Nat × Nat × Nat × List Nat) : Bool := y.2.1 == x.2.1 && y.2.2.1 == x.2.2.1
  let x := (x.1, x.2.1, x.2.2.1, (seq.find? same).elim x.2.2.2 fun y => y.2.2.2 ++ x.2.2.2.filter fun l => !y.2.2.2.contains l)
  let rest := seq.filter fun y => !same y
  rest.filter (fun y => lexLe [y.1, y.2.2.1] [x.1, x.2.2.1]) ++ x :: rest.filter fun y => !lexLe [y.1, y.2.2.1] [x.1, x.2.2.1]
/-- Gangs of one cluster that become ready at one instant leave in waves of eight, spaced by the current-slope limit
(R179, R452): one sequence, whichever event released each of them. Without a limit they run at once. `waves` gives each gang's lanes. -/
def State.releaseWaves (s : State) (k : Nat) (waves : List (Nat × Nat × List Nat)) : State :=
  let gap := ((tabGet k s.clusters).map (·.spacing)).getD 0 * tickNs
  if gap = 0 then waves.foldl (fun s p => s.modGang p.1 p.2.1 (·.wake p.2.2)) s
  else
    let old := ((tabGet k s.clusters).map fun c => if c.wavesAt.1 = s.now then c.wavesAt.2 else []).getD []
    let seq := waves.foldl (fun q p => addWave q (((tabGet p.1 s.sheets).map (·.order)).getD 0, p.1, p.2.1, p.2.2)) old
    let s := waves.foldl (fun s p => s.modGang p.1 p.2.1 fun q => q.modThreads p.2.2 fun _ t => { t with st := .wave s.now }) s
    let s := s.modCluster k fun c => { c with wavesAt := (s.now, seq) }
    seq.zipIdx.foldl (fun s p => s.modGang p.1.2.1 p.1.2.2.1 fun q => q.modThreads p.1.2.2.2 fun _ t =>
      if t.st.inWave then { t with st := .wave (s.now + p.2 / 8 * gap) } else t) s
/-- An event that wakes a cluster in retention mode: it issues again within 2 µs (R451). -/
def Cluster.roused (c : Cluster) (now : Nat) : Cluster :=
  { c with wakeBy := if c.retained then some (c.wakeBy.getD (now + 2 * tickUs)) else c.wakeBy }
/-- A line of a resident sheet becomes present, which wakes its cluster (R451). -/
def State.rouse (s : State) (sid : Nat) : State :=
  match (tabGet sid s.sheets).bind (·.cluster?) with
  | none => s
  | some k => s.modCluster k (·.roused s.now)

/-- Every line is present and on one side, thread or engine (R97). -/
def Sheet.linesFor (h : Sheet) (eng : Bool) (ls : List Nat) : Bool := ls.all fun n => (h.line n).present && (h.line n).eng == eng
/-- Every line is present and thread-owned. -/
def Sheet.linesFree (h : Sheet) (ls : List Nat) : Bool := h.linesFor false ls
/-- Every line is on one side, present or not (R112). -/
def Sheet.linesOwned (h : Sheet) (eng : Bool) (ls : List Nat) : Bool := ls.all fun n => (h.line n).eng == eng
/-- Lines are present, whoever owns them (R336). -/
def Sheet.linesHere (h : Sheet) (ls : List Nat) : Bool := ls.all fun n => (h.line n).present

/-! ### Queues that change state -/

/-- The identity of a producer (R121, R401). -/
def Agent.producer (a : Agent) : Nat :=
  match a with
  | .gang g => g
  | .seq .m => 2147483648
  | .seq .c => 2147483649

/-- Close or break a queue: every gang waiting on it is released with the closing agent's clock (R119, R133). -/
def Sheet.endQueue (h : Sheet) (q : Nat) (st : QState) (clk : Nat) : Sheet :=
  let h := { h with queues := tabMod q (fun x => { x with st := st, endClk := clk, pops := [] }) h.queues }
  let onQ (t : TState) : Bool := t == .push q || t == .pop q
  let h := { h with gangs := tabMap (fun _ g => (g.raiseClock (g.lanesIn onQ) clk).wake (g.lanesIn onQ)) h.gangs }
  let free (x : Seq) : Seq := if x.wait == .push q then { x with wait := .none, clock := max x.clock clk } else x
  { h with mseq := free h.mseq, cseq := free h.cseq }

/-- A producer exits: its slots are marked, and a queue all of whose P slots are registered and exited closes (R33, R121). -/
def Sheet.producerExits (h : Sheet) (who clk : Nat) : Sheet :=
  h.queues.foldl (fun h p =>
    match tabGet p.1 h.queues with
    | none => h
    | some q =>
      if q.st == .opened && q.slots.any (·.who == who) then
        let slots := q.slots.map fun x => if x.who == who then { x with exited := true } else x
        let h := { h with queues := tabMod p.1 (fun x => { x with slots := slots }) h.queues }
        if slots.length == bitsOf q.cfg.toNat 8 8 && slots.all (·.exited) then h.endQueue p.1 .closed clk else h
      else h) h

/-- A producer ends other than by EXIT: its open queues break (R119, R308). -/
def Sheet.producerBreaks (h : Sheet) (who clk : Nat) : Sheet :=
  h.queues.foldl (fun h p =>
    match tabGet p.1 h.queues with
    | none => h
    | some q => if q.st == .opened && q.slots.any (fun x => x.who == who && !x.exited) then h.endQueue p.1 .broken clk else h) h

/-! ### The end of a context -/

/-- Bytes merged by nibble enables over the bytes held (R110). -/
def mergeNibbles (old : List Byte) (new : List Byte) (en : List Nat) : List (Option Byte) :=
  ((old.zip new).zip en).map fun p =>
    let o := p.1.1.toNat
    let n := p.1.2.toNat
    if p.2 = 0 then none
    else some (BitVec.ofNat 8 ((if p.2 % 2 = 1 then n % 16 else o % 16) + 16 * (if p.2 / 2 % 2 = 1 then n / 16 else o / 16)))

/-- The nibble enables of an element but for what another copy wins (R116). -/
def CopyElem.live (e : CopyElem) : List Nat := e.en.zipIdx.map fun x => if e.ceded.contains ((e.pa + x.2) / 4) then 0 else x.1
/-- Perform one element of a copy at its home, as a one-lane store at a clock of the copy's view time (R137): the state
and the time it took. A replay performs none (R437). -/
def State.performElem (s : State) (cp : Copy) (e : CopyElem) : State × Nat :=
  if s.dryReplay (some cp.sheet) || e.live.all (· == 0) then (s, 0)
  else if s.unreach e.pa then (s.asyncError cp.ctx 7 e.va 0, 0)
  else
    let s := s.beforeWrite cp.ctx e.va
    let bs := mergeNibbles (s.bytesAs e.key e.pa e.bytes.length) e.bytes e.live
    let owner := if ((tabGet cp.sheet s.sheets).map (·.ivl.tag)) == some cp.tag then some cp.sheet else none
    match s.placeWrite { sheet := owner, ctx := cp.ctx, key := e.key, home := e.home } cp.view e.pa bs with
    | none => (s.exhaust cp.ctx, 0)
    | some (s, t) => (s, t)

/-- The bytes of an element of a copy as they stand: read already, or in scratchpad (R115). -/
def CopyElem.now (e : CopyElem) (h : Sheet) : List Byte :=
  if e.src.isEmpty then e.bytes
  else
    let nib (a : Nat) : Nat :=
      let b := (stGet 0 (a / 2) h.spad).toNat
      if a % 2 = 1 then b / 16 else b % 16
    e.src.map fun p => BitVec.ofNat 8 (nib p.1 + 16 * nib p.2)

/-- A cluster has lost a sheet: its gangs leave the active set (R62). Once none is resident, a lane ratio written meanwhile and a
front-end step not yet taken take effect (R366, R450), and no half pass is left (R168). -/
def State.leaveCluster (s : State) (k : Nat) : State :=
  let here := (s.residents k).map (·.1)
  let s := s.modCluster k fun c => { c with active := c.active.filter fun m => here.contains m.1 }
  if (s.residents k).isEmpty then
    s.modCluster k fun c =>
      { c with ratio := c.ratioNext.getD c.ratio, ratioNext := none, fstep := c.fnext.getD c.fstep, fnext := none, half := false }
  else s

/-- Each element of a copy in flight holds its old value or the copy's when its context ends (R375, R116). -/
def State.dropCopy (s : State) (cp : Copy) : State :=
  cp.out.foldl (fun s e =>
    let e' : CopyElem := match tabGet cp.sheet s.sheets with
      | none => e
      | some h => { e with bytes := e.now h, src := [] }
    if s.free .copyAtEnd % 2 = 0 || !cp.reads.isEmpty then s.drew else (s.drew.performElem cp e').1) s

/-- The class that entitles a cluster to its present step: a remaining resident sheet with a running thread (R453); released lanes of
a gang at S run too (R29). -/
def State.entitled (s : State) (k step : Nat) : Bool :=
  (s.residents k).any fun p => step ≤ s.classOf p.2 - 1 && p.2.threads.any fun q => q.2.2.st == .running || q.2.2.st == .uRun

/-- End a context (R375): gangs and sequencers stop, issued writes are performed and folios whose count is 0 close, copies stop
part way, open folios stay invisible, what the context held is freed (R418), clusters fall one frequency step (R453), and the
penholder is told (R471). -/
def State.endContext (s : State) (cx origin code : Nat) : State :=
  match tabGet cx s.ctxs with
  | none => s
  | some _ =>
    let s := (s.drain fun w => w.ctx == cx).closeAll cx
    let s := (s.copies.filter fun p => p.2.ctx == cx).foldl (fun s p => s.dropCopy p.2) s
    let held := ((s.sheets.filter fun p => p.2.ctx == cx).filterMap fun p => p.2.cluster?).eraseDups
    let gone := (s.sheets.filter fun p => p.2.ctx == cx).map (·.1)
    let launches := (s.launches.filter fun p => p.2.ctx == cx).map (·.1)
    let s := { s with
      sheets := s.sheets.filter fun p => p.2.ctx != cx
      shadows := s.shadows.filter fun p => !gone.contains p.1
      launches := s.launches.filter fun p => p.2.ctx != cx
      ctxs := tabDel cx s.ctxs
      copies := s.copies.filter fun p => p.2.ctx != cx
      msgs := s.msgs.filter fun m => !launches.contains m.launch
      packets := s.packets.filter fun p => p.2.ctx != cx
      markers := s.markers.filter fun p => p.2.ctx != cx
      replicas := s.replicas.filter fun r => r.ctx != cx
      migrations := s.migrations.filter fun m => m.2.ctx != cx
      audits := s.audits.filter fun a => a.2.sheet.ctx != cx
      dies := tabMap (fun _ d => { d with
        raster := d.raster.filter fun r => r.1 / 4 != cx
        restore := d.restore.filter fun r => !gone.contains r.1 }) s.dies
      images := s.images.filter fun p => !gone.contains p.1
      steward := { s.steward with regions := s.steward.regions.filter fun r => r.2.ctx != cx }
      issue := match s.issue with
        | none => none
        | some i => if gone.contains i.sheet then none else some i }
    let s := held.foldl (fun s k => s.modCluster k fun c =>
      if c.fstep > 0 && !s.entitled k c.fstep then { c with fnext := some (c.fstep - 1) } else c) s
    (held.foldl (fun s k => s.leaveCluster k) s).notice 1 cx code origin 0

/-- Whether a clock of a context has reached the end of logical time (R128). -/
def State.clockEnds (s : State) (cx : Nat) : Bool := s.sheets.any fun p => p.2.ctx == cx && timeEnd ≤ p.2.topClock
/-- End every context whose logical time is exhausted, by an access or by a clock (R128, R471). -/
def State.reap (s : State) : State :=
  let s := ((s.ctxs.filter fun p => !p.2.expired && s.clockEnds p.1).map (·.1)).foldl (fun s cx => s.exhaust cx) s
  ((s.ctxs.filter fun p => p.2.expired).map (·.1)).foldl (fun s cx => s.endContext cx 1 4294902017) s

/-! ### Taking a trap -/

/-- The flag bits of CAUSE above the check number (R383). -/
inductive TrapFlag where
  | plain | seq (k : SeqKind) | noRes | async
  deriving DecidableEq, Repr

/-- The CAUSE word (R383). -/
def causeWord (t : Trap) (f : TrapFlag) : Nat :=
  t.cause + 256 * t.check + (match f with
    | .plain => 0
    | .seq .m => 65536
    | .seq .c => 196608
    | .noRes => 262144
    | .async => 524288)

/-- The state byte of a lane in the frame (R384). -/
def laneCode (t : Option Thread) : Nat :=
  match t with
  | none => 4
  | some x =>
    match x.st with
    | .exited => 4
    | .held => 1
    | .barrier b _ => 2 + 16 * b
    | .nap _ => 3
    | _ => 0

/-- Whether the active lanes resume at the next offset (R385). -/
def resumesNext (t : Trap) (f : TrapFlag) : Bool :=
  match f with
  | .seq _ => true
  | .async => false
  | _ => t.cause == 18 || t.cause == 19

/-- The ETIME at which a nap ends, in ns. -/
def Gang.napEnd (g : Gang) : Nat :=
  maxOf (g.threads.map fun p => match p.2.st with | .nap u => (u + tickNs - 1) / tickNs | _ => 0)

/-- The 1,024 bytes of a trap frame (R383). -/
def State.frameBytes (s : State) (ts : TrapSite) (h : Sheet) (g : Gang) (t : Trap) (f : TrapFlag) (lost : Nat) : List Byte :=
  let th (l : Nat) : Option Thread := tabGet l g.threads
  let rpc (l : Nat) : Word :=
    match th l with
    | none => 0
    | some x => if resumesNext t f && laneOn ts.act l then ts.noff else x.pc
  toBytesLE 4 (causeWord t f) ++ toBytesLE 4 (t.lane.getD 4294967295) ++ toBytesLE 4 ts.ioff.toNat ++ toBytesLE 4 ts.noff.toNat
    ++ toBytesLE 8 t.addr ++ toBytesLE 8 t.info ++ toBytesLE 4 ts.gang ++ toBytesLE 4 ((h.cluster?.map s.clid).getD 0)
    ++ toBytesLE 8 h.index ++ toBytesLE 8 (g.clockOf (List.range h.W)) ++ toBytesLE 8 s.etime
    ++ toBytesLE 8 ts.act.toNat ++ toBytesLE 8 ts.enb.toNat ++ toBytesLE 8 g.napEnd ++ toBytesLE 4 lost ++ toBytesLE 36 0
    ++ (List.range 16).flatMap (fun n => toBytesLE 4 (g.regs.uni n).toNat)
    ++ (List.range 7).flatMap (fun p => toBytesLE 8 (g.regs.pred (Fin.ofNat 8 p)).toNat) ++ toBytesLE 8 0
    ++ (List.range 64).flatMap (fun l => toBytesLE 4 (rpc l).toNat)
    ++ (List.range 64).flatMap (fun l => toBytesLE 1 (if l < h.W then laneCode (th l) else 4)) ++ toBytesLE 448 0

/-- The lowest free frame slot of a context, if one of the 2^20 is free (R382). -/
def freeSlot (taken : List Nat) : Option Nat := (List.range (taken.length + 1)).find? fun n => !taken.contains n && n < 1048576

/-- Store a list of bytes at virtual addresses as stores of whole atoms, checked first for translation and permission at
S; the state and the clock after them. The address is a multiple of 32. -/
def State.storeBlock (s : State) (w : Issuer) (sheet : Option Nat) (va : Nat) (bs : List Byte) :
    Except (Trap × State) (State × Nat) :=
  let n := (bs.length + 31) / 32
  let reqs := (List.range n).map fun i => { lane := 0, va := va + 32 * i, size := 32, kind := Access.write : Req }
  match s.checkAccess w reqs with
  | .error t => .error t
  | .ok (ls, s) =>
    .ok ((ls.zipIdx).foldl (fun (q : State × Nat) (p : (Req × Leaf) × Nat) =>
      let (s, c) := q
      let ((r, l), i) := p
      if s.unreach (l.phys r.va) then (s.asyncError w.cx 7 r.va 0, c)
      else
        let s := s.beforeWrite w.cx r.va
        match s.placeWrite { sheet := sheet, ctx := w.cx, key := l.key, home := some (s.homeOf w.cx r.va l) } c (l.phys r.va)
            ((((bs.drop (32 * i)).take 32)).map some) with
        | none => (s.exhaust w.cx, c)
        | some (s, t) => (s, t)) (s, w.clk))

/-- The end of a context by a trap no handler can take (R361, R382, R471); the penholder is told the cause and the gang (R361).
How the notice names the gang is open (log entry 16). -/
def State.trapEnds (s : State) (cx sid gang : Nat) (t : Trap) : State :=
  (s.notice 2 cx t.cause 0 (Config.gangName sid gang)).endContext cx 1 (4294901760 + t.cause)

/-- The gang as it runs at S after entry (R386). -/
def Gang.entered (g : Gang) (n : Nat) (frame ent cause now : Nat) : Gang :=
  let wait := g.threads.filterMap fun p => match p.2.st with | .barrier b _ => some (p.1, b) | .nap _ => some (p.1, 16) | _ => none
  let moves (st : TState) : Bool := match st with
    | .barrier _ _ | .nap _ | .exited => false
    | _ => true
  let r := g.regs
  let r := (List.range 13).foldl (fun r i => r.setUni (i + 3) 0) r
  let r := ((r.setUni 0 (BitVec.ofNat 32 frame)).setUni 1 (BitVec.ofNat 32 (frame / 4294967296))).setUni 2 (BitVec.ofNat 32 cause)
  { g with
    threads := tabMap (fun _ t => if moves t.st then { t with pc := BitVec.ofNat 32 (32 * ent), st := .running, again := none } else t) g.threads
    regs := { r with p := [] }
    atS := true
    frame := some n
    yielded := false
    entryWait := wait
    wdSpent := 0
    wdFrom := some now }

/-- Every thread of a sheet exits and its sequencers are idle. -/
def Sheet.stopped (h : Sheet) : Sheet :=
  { h with gangs := tabMap (fun _ g => { g with threads := tabMap (fun _ t => { t with st := .exited }) g.threads }) h.gangs
           mseq := { h.mseq with st := .idle, held := none }, cseq := { h.cseq with st := .idle, held := none } }

/-- Take a trap (R382, R383, R386): the gang's producer slots break unless it is a breakpoint or a user trap (R308), the
frame is stored in the lowest free slot, and the gang runs at S from the supervisor's entry. At S, or when the frame
cannot be written, the context ends (R361, R382). A countersign replay that would trap stops: it cannot match. -/
def State.trapEntry (s : State) (ts : TrapSite) (t : Trap) (f : TrapFlag) : State :=
  match tabGet ts.sid s.sheets with
  | none => s
  | some h =>
    match tabGet ts.gang h.gangs, tabGet h.ctx s.ctxs with
    | some g, some ctx =>
      if h.replay.isSome then (s.modSheet ts.sid Sheet.stopped).noAudit ts.sid
      else if h.killed.any (· != ts.gang) then s
      else if g.atS then s.trapEnds h.ctx ts.sid ts.gang t
      else
        match freeSlot ctx.frames with
        | none => s.trapEnds h.ctx ts.sid ts.gang t
        | some n =>
          let s := s.drainLanes ts.sid ts.gang (lanesBelow h.W)
          let g := ((tabGet ts.sid s.sheets).bind fun h => tabGet ts.gang h.gangs).getD g
          let frame := ctx.tfrm + 1024 * n
          let lanes := lanesOf ts.enb h.W
          let w : Issuer := { cx := h.ctx, die := s.dieOf h, atS := true, clk := g.clockOf lanes, cl := h.cluster?, sid := some ts.sid }
          match s.storeBlock w (some ts.sid) frame (s.frameBytes ts h g t f ctx.lost) with
          | .error (_, s) => s.trapEnds h.ctx ts.sid ts.gang t
          | .ok (s, clk) =>
            let clkTop := g.clockOf (List.range h.W)
            let s := s.modGang ts.sid ts.gang fun g =>
              (g.raiseClock lanes clk).entered n frame (ctx.svec / 281474976710656) (causeWord t f) s.now
            let s := s.modSheet ts.sid fun h =>
              let h := { h with queues := tabMap (fun _ q => { q with pops := q.pops.filter (·.gang != ts.gang) }) h.queues }
              if t.cause == 18 || t.cause == 19 then h else h.producerBreaks ts.gang clkTop
            let s := s.modCtx h.ctx fun c => { c with frames := c.frames ++ [n] }
            (s.pinDown ts.sid).noAudit ts.sid
    | _, _ => s

/-- Whether a lane waits in RDV on a sequencer. -/
def TState.onSeq (k : SeqKind) (t : TState) : Bool :=
  match t with
  | .seq k' _ => k' == k
  | _ => false

/-- Lanes waiting in RDV on a sequencer receive a value, each in the register its own RDV names (R324). -/
def Gang.rdvResult (g : Gang) (k : SeqKind) (v : Word) : Gang :=
  { g with regs := g.threads.foldl (fun r p => match p.2.st with
      | .seq k' d => if k' == k then r.setUni d.val v else r
      | _ => r) g.regs }
/-- Lanes waiting in RDV on a sequencer go on after it (R324). -/
def Gang.rdvGo (g : Gang) (k : SeqKind) : Gang :=
  let ls := g.lanesIn (TState.onSeq k)
  (g.modThreads ls fun _ t => { t with pc := t.pc + 8 }).wake ls

/-- A held trap is delivered (R324): the lowest-numbered gang waiting in RDV, or `taker`, takes it, and the others receive
2. With no thread left to take it, asynchronous error 5 is raised (R326). -/
def State.deliverHeld (s : State) (sid : Nat) (k : SeqKind) (taker : Option Nat) : State :=
  match tabGet sid s.sheets with
  | none => s
  | some h =>
    let isSeq : TState → Bool := TState.onSeq k
    let waiting := (h.gangs.filter fun p => !(p.2.lanesIn isSeq).isEmpty).map (·.1)
    match (h.seq k).held with
    | none => s
    | some t =>
      let idle (s : State) : State := s.modSheet sid (·.modSeq k fun q => { q with st := .idle, held := none, wait := .none })
      if h.allExited then idle (s.asyncError h.ctx 5 t.addr t.cause)
      else
        match (waiting ++ taker.toList).min? with
        | none => s
        | some g =>
          let s := idle s
          let s := waiting.foldl (fun s q => if q == g then s else
            s.modGang sid q fun x =>
              (x.rdvResult k 2).rdvGo k) s
          match (tabGet sid s.sheets).bind fun h => tabGet g h.gangs with
          | none => s
          | some x =>
            let ls := x.lanesIn isSeq
            let ls := if taker = some g then (match s.issue with | some i => lanesOf i.lanes h.W | none => ls) else ls
            let rdv := ((ls.head?.bind fun l => tabGet l x.threads).map (·.pc)).getD 0
            let ls := ls.filter fun l => ((tabGet l x.threads).map (·.pc)) == some rdv
            s.trapEntry { sid := sid, gang := g, ioff := t.ioff, noff := rdv + 8, act := maskOf ls, enb := maskOf ls }
              { cause := t.cause % 256, check := t.cause / 256 % 16, lane := (if t.lane = 4294967295 then none else some t.lane)
                addr := t.addr, info := t.info } (.seq k)

/-- A sequencer instruction that would trap holds the trap: the sequencer stops Faulted at it, and its queues break
(R326, R308). -/
def State.holdTrap (s : State) (sid : Nat) (k : SeqKind) (pc noff : Word) (t : Trap) : State :=
  let held : HeldTrap := { cause := causeWord t (.seq k), ioff := pc, noff := noff, addr := t.addr, info := t.info
                           lane := t.lane.getD 4294967295 }
  let s := s.modSheet sid fun h =>
    let h := h.modSeq k fun q => { q with st := .faulted, pc := pc, held := some held, wait := .none }
    h.producerBreaks (Agent.seq k).producer (h.seq k).clock
  s.deliverHeld sid k none

/-- Every gang waiting in RDV on a sequencer receives a value, has its clocks raised to the sequencer's, and continues
(R324, R133). -/
def Sheet.releaseRdv (h : Sheet) (k : SeqKind) (v : Word) : Sheet :=
  { h with gangs := tabMap (fun _ g =>
      if (g.lanesIn (TState.onSeq k)).isEmpty then g
      else { (((g.rdvResult k v).raiseClock (g.lanesIn (TState.onSeq k)) (h.seq k).clock).rdvGo k) with yielded := false }) h.gangs }

/-- A sequencer becomes Idle (R325): its producer slots exit, and gangs waiting in RDV receive 0. -/
def Sheet.seqIdle (h : Sheet) (k : SeqKind) : Sheet :=
  let h := h.modSeq k fun q => { q with st := .idle, wait := .none }
  (h.producerExits (Agent.seq k).producer (h.seq k).clock).releaseRdv k 0

/-- The last thread of a sheet has exited: a Parked sequencer becomes Idle (R325), a held trap is reported (R326). -/
def State.afterExit (s : State) (sid : Nat) : State :=
  match tabGet sid s.sheets with
  | none => s
  | some h =>
    if h.allExited then
      [SeqKind.m, SeqKind.c].foldl (fun s k =>
        match (h.seq k).st with
        | .parked => s.modSheet sid (·.seqIdle k)
        | .faulted => s.deliverHeld sid k none
        | _ => s) s
    else s

/-! ### Completing an instruction -/

/-- Put the registers an instruction leaves. -/
def State.putRegs (s : State) (c : Site) (r : Regs) : State :=
  match c.agent with
  | .gang g => s.modGang c.sid g fun q => { q with regs := r }
  | .seq k => s.modSheet c.sid (·.modSeq k fun q => { q with regs := r })

/-- Raise the clocks of the enabled lanes, or the sequencer's, to at least `t` (R280, R136). -/
def State.raiseTo (s : State) (c : Site) (t : Nat) : State :=
  match c.agent with
  | .gang g => s.modGang c.sid g (·.raiseClock c.view.enabled t)
  | .seq k => s.modSheet c.sid (·.modSeq k fun q => { q with clock := max q.clock t })

/-- The lane cycles an instruction of a gang of width `W` occupies the execute stages (R168, R169). -/
def Cluster.stages (c : Cluster) (W : Nat) : Nat := if c.ratio == 2 && c.lln == 32 && 32 < W then 5 else 4
/-- The first lane cycle from which results of an instruction are available (R472; log entry 13): the first lane cycle of its
issue has been counted. -/
def State.readyCycle (s : State) (h : Sheet) : Nat :=
  match h.cluster?.bind fun k => tabGet k s.clusters with
  | none => 0
  | some c => c.laneNo + c.stages h.W - 1
/-- The first lane cycle from which the result of this instruction is available; for one that comes from memory, scratchpad, an
engine or the fabric the latency above that is free, and a fragment waits for the beats of its own (R472). -/
def State.resultAt (s : State) (h : Sheet) (i : Instr) : Nat :=
  if i.onMatrix then 0 else s.readyCycle h + (if i.reaches then s.free .duration else 0)

/-- What an instruction that was carried out leaves in a gang's register cache (R62 to R64, R411); one that traps or waits leaves it
alone. -/
def Gang.cached (g : Gang) (W : Nat) (i : Instr) : Gang :=
  let g := g.expand W
  let after := cacheAfter g.cache (i.vectors W)
  { g.writeBack W (g.cache.filter fun r => !after.contains r) with cache := after }

/-- Scoreboard entries of registers, one per register, with the lane cycle they are available from. -/
def boardOf (rs : List (RegName × Nat)) (at_ : Nat) : List (RegName × Nat) :=
  rs.flatMap fun p => (List.range p.2).map fun i =>
    (match p.1 with
      | .v n => RegName.v (n + i)
      | .s n => RegName.s (n + i)
      | r => r, at_)

/-! ### Words that cannot be corrected -/

/-- The trap of lost pool or scratchpad words (R434): uncorrectable data, and a loss of the sheet's own state (R430). -/
def lostData (lane : Option Nat) (addr : Nat := 0) : Trap := { cause := 16, check := 9, lane := lane, addr := addr, own := true }
/-- Whether one of some registers of a site's gang, in some lanes, is lost. -/
def Site.lost (c : Site) (ls : List Nat) (rs : List (RegName × Nat)) : Bool :=
  c.sh.bad.any fun w => match w with
    | .vec g r l => c.agent == .gang g && ls.contains l && (boardOf rs 0).any (·.1 == .v r)
    | .acc g k _ => c.gang == g && !ls.isEmpty && (boardOf rs 0).any (·.1 == .a k)
    | .spad .. => false
/-- The lanes in which an instruction reads its operands. -/
def Site.readers (c : Site) (i : Instr) : List Nat :=
  if i.gangLevel then (if c.view.acts i.guard then c.view.enabled else []) else c.view.active i.guard
/-- The trap of an instruction that reads a lost register (R430, R434); the lowest such lane is named. -/
def Site.lostSource (c : Site) (i : Instr) : Option Trap :=
  let ls := c.readers i
  let rs := i.sources c.sh.W
  if c.lost ls rs then some (lostData ((ls.find? fun l => c.lost [l] rs).or ls.head?)) else none
/-- Whether a scratchpad word in a span is lost. -/
def Sheet.lostSpan (h : Sheet) (a n : Nat) : Bool :=
  h.bad.any fun w => match w with
    | .spad b m => b < a + n && a < b + m
    | _ => false
/-- Whether a scratchpad word in one of some spans, by address and size, is lost. -/
def Sheet.lostSpans (h : Sheet) (xs : List (Nat × Nat)) : Bool := xs.any fun x => h.lostSpan x.1 x.2
/-- The trap of a read of scratchpad addresses by lane that finds a lost word. -/
def Sheet.lostRead (h : Sheet) (n : Nat) (xs : List (Nat × Nat)) : Option Trap :=
  (xs.find? fun x => h.lostSpan x.2 n).map fun x => lostData (some x.1) x.2
/-- A write of a whole word ends its mark (R434): what a completed instruction has written, in the lanes in which it acts. -/
def Sheet.mended (h : Sheet) (c : Site) (i : Instr) : Sheet :=
  let rs := boardOf (i.dests c.sh.W) 0
  let ls := c.readers i
  { h with bad := h.bad.filter fun w => match w with
      | .vec g r l => !(c.agent == .gang g && ls.contains l && rs.any (·.1 == .v r))
      | .acc g k _ => !(c.gang == g && !ls.isEmpty && rs.any (·.1 == .a k))
      | .spad .. => true }

/-- The lane cycle of a sheet's cluster. -/
def State.laneOf (s : State) (h : Sheet) : Nat := ((h.cluster?.bind fun k => tabGet k s.clusters).map (·.laneNo)).getD 0
/-- Move the enabled lanes, or the sequencer, on from the instruction: `next` gives a lane's program counter. Meetings
settle, the scoreboard takes the destinations, and the issue is over. -/
def State.finishAt (s : State) (c : Site) (i : Instr) (next : Nat → Word) : State :=
  let s : State := match c.agent with
    | .gang g =>
      let at_ := s.resultAt c.sh i
      let lane := s.laneOf c.sh
      (if i.reaches then s.drew else s).modGang c.sid g fun (q : Gang) =>
        let q : Gang := q.modThreads c.view.enabled fun l (t : Thread) =>
          if t.st == TState.running then { t with pc := next l, again := none } else t
        let q : Gang := { q with
          yielded := i.yields && q.yielded
          board := (q.board.filter fun (p : RegName × Nat) => lane ≤ p.2) ++ boardOf (i.dests c.sh.W) at_ }
        (q.cached c.sh.W i).settle
    | .seq k => s.modSheet c.sid (·.modSeq k fun (q : Seq) => { q with pc := if q.st == SeqSt.running then next 0 else q.pc + BitVec.ofNat 32 i.bytes })
  { s.modSheet c.sid (·.mended c i) with issue := none }.reap

/-- The next offset (R212). -/
def Site.next (c : Site) (i : Instr) : Word := c.pc + BitVec.ofNat 32 i.bytes

/-- Complete an instruction: the enabled lanes continue at the next offset. -/
def State.finish (s : State) (c : Site) (i : Instr) : State := s.finishAt c i fun _ => c.next i

/-- Wait (R29, R280): every enabled thread enters the state, keeps its counter, and the instruction issues again. The issue ends
a YIELD (R223). -/
def State.waitIn (s : State) (c : Site) (st : TState) : State :=
  let s := match c.agent with
    | .gang g => s.modGang c.sid g fun q =>
      { q.modThreads c.view.enabled fun _ t => { t with st := st, since := s.now - t.again.getD 0, again := none } with yielded := false }
    | .seq _ => s
  { s with issue := none }.reap

/-- A sequencer waits and issues the instruction again (R97, R282, R336). -/
def State.seqWait (s : State) (c : Site) (w : SeqWait) : State :=
  let s := match c.agent with
    | .seq k => s.modSheet c.sid (·.modSeq k fun q => { q with wait := w })
    | .gang _ => s
  { s with issue := none }.reap

/-- What a trap's frame names: for an instruction that acts once for the gang, its lead lane, and the address it used (R383;
log entry 59). -/
def Trap.once (t : Trap) (v : View) (i : Instr) : Trap :=
  if i.gangLevel || i.onUniform then
    { t with lane := some v.lead
             addr := if t.addr = 0 && (2 ≤ t.check || t.cause = 14 || t.cause = 15) then i.address v else t.addr }
  else t
/-- What the frame of a trap at a site names; a sequencer's is held as it is (R326). -/
def Trap.named (t : Trap) (c : Site) (i : Instr) : Trap :=
  match c.agent with
  | .seq _ => t
  | .gang _ => t.once c.view i

/-- What becomes of a trap found at a site: a gang takes it (R386), a sequencer holds it (R326). Lost state of the sheet itself is
no trap: the instruction changes nothing, and rollback or kill is due (R430 to R432). In a sheet already killed it is a trap. -/
def State.takeTrap (s : State) (c : Site) (site : TrapSite) (t : Trap) : State :=
  match c.agent with
  | .seq k =>
    if t.own && c.sh.killed.isNone then s.modSheet c.sid fun h => { h with loss := some none }
    else (s.holdTrap c.sid k c.pc site.noff t).reap
  | .gang _ =>
    if t.own && c.sh.killed.isNone then s.modSheet c.sid fun h => { h with loss := some (some (site, t)) }
    else (s.trapEntry site t .plain).reap

/-- Raise a trap of an instruction at its site. -/
def State.raise (s : State) (c : Site) (i : Instr) (t : Trap) : State :=
  { s with issue := none }.takeTrap c { sid := c.sid, gang := c.gang, ioff := c.pc, noff := c.next i
                                        act := maskOf (c.view.active i.guard), enb := c.view.lanes } (t.named c i)

/-- The checks made before every other (R194, R326, R359, R380): the engine subset of a sequencer, privilege, register
existence, and what a thread may not execute; and last, as operands are read, registers that are lost (R434). -/
def precheck (i : Instr) (c : Site) : Option Trap :=
  match c.agent with
  | .seq k =>
    if !i.engine k then some { cause := 12 }
    else if !i.existing c.sh.W c.sh.nv c.sh.na then some (Trap.illegal 1)
    else c.lostSource i
  | .gang _ =>
    if i.isSystem && !c.atS then some { cause := 2, check := 1 }
    else if !i.existing c.sh.W c.sh.nv c.sh.na then some (Trap.illegal 1)
    else if i.sequencerOnly then some (Trap.illegal 1)
    else c.lostSource i

/-- Enter an instruction of a program: find the issuing agent, make the checks that come first, and act. -/
def enter (i : Instr) (s : State) (k : Site → Host.Outcome State Fault Refusal) : Host.Outcome State Fault Refusal :=
  match s.site with
  | none => .fault .noIssuer
  | some c =>
    match precheck i c with
    | some t => .next (s.raise c i t)
    | none => k c

/-- Enter a gang-level instruction: with its guard false it changes nothing and makes no further check (R213). -/
def enterGang (i : Instr) (g : Guard) (s : State) (k : Site → Host.Outcome State Fault Refusal) :
    Host.Outcome State Fault Refusal :=
  enter i s fun c => if c.view.acts g then k c else .next (s.finish c i)

/-- An instruction that only computes registers from registers. -/
def alu (i : Instr) (s : State) (f : View → Regs) : Host.Outcome State Fault Refusal :=
  enter i s fun c => .next ((s.putRegs c (f c.view)).finish c i)

/-- Outcome of a check that may trap, with the state after what it read. -/
def orTrap {α : Type} (c : Site) (i : Instr) (r : Except (Trap × State) α) (k : α → Host.Outcome State Fault Refusal) :
    Host.Outcome State Fault Refusal :=
  match r with
  | .error (t, s) => .next (s.raise c i t)
  | .ok a => k a

end Sys2Proof.Machine
end

