-- ==== Sys2Proof/Machine/Integer.lean ====
section
/-! DEFINITION. The integer arithmetic instructions (R226 to R231), with the shapes every register-to-register instruction shares. -/

namespace Sys2Proof.Machine

/-- One 32-bit source, one 32-bit result. -/
def alu1 (i : Instr) (g : Guard) (d : Reg) (a : Operand) (f : Word → Word) (s : State) : Host.Outcome State Fault Refusal :=
  alu i s fun c => c.put32 g d fun l => f (c.src32 l a)
/-- Two 32-bit sources. -/
def alu2 (i : Instr) (g : Guard) (d : Reg) (a b : Operand) (f : Word → Word → Word) (s : State) : Host.Outcome State Fault Refusal :=
  alu i s fun c => c.put32 g d fun l => f (c.src32 l a) (c.src32 l b)
/-- Three 32-bit sources. -/
def alu3 (i : Instr) (g : Guard) (d : Reg) (a b c : Operand) (f : Word → Word → Word → Word) (s : State) : Host.Outcome State Fault Refusal :=
  alu i s fun v => v.put32 g d fun l => f (v.src32 l a) (v.src32 l b) (v.src32 l c)
/-- Two 64-bit sources, one 64-bit result. -/
def alu2w (i : Instr) (g : Guard) (d : Reg) (a b : Operand) (f : DWord → DWord → DWord) (s : State) : Host.Outcome State Fault Refusal :=
  alu i s fun c => c.put64 g d fun l => f (c.src64 l a) (c.src64 l b)
/-- A 64-bit source and a 32-bit one, one 64-bit result. -/
def alu2m (i : Instr) (g : Guard) (d : Reg) (a b : Operand) (f : DWord → Word → DWord) (s : State) : Host.Outcome State Fault Refusal :=
  alu i s fun c => c.put64 g d fun l => f (c.src64 l a) (c.src32 l b)

/-- IADD (R228). -/
def execIadd (g : Guard) (ty : AddTy) (sat : Bool) (d : Reg) (a b : Operand) (s : State) : Host.Outcome State Fault Refusal :=
  if ty = .b64 then alu2w (.iadd g ty sat d a b) g d a b (fun x y => x + y) s
  else alu2 (.iadd g ty sat d a b) g d a b (addSub false ty.int sat) s
/-- ISUB (R228). -/
def execIsub (g : Guard) (ty : AddTy) (sat : Bool) (d : Reg) (a b : Operand) (s : State) : Host.Outcome State Fault Refusal :=
  if ty = .b64 then alu2w (.isub g ty sat d a b) g d a b (fun x y => x - y) s
  else alu2 (.isub g ty sat d a b) g d a b (addSub true ty.int sat) s
/-- IADD3 (R228). -/
def execIadd3 (g : Guard) (ty : IntTy) (d : Reg) (a b c : Operand) (s : State) : Host.Outcome State Fault Refusal :=
  alu3 (.iadd3 g ty d a b c) g d a b c (fun x y z => x + y + z) s
/-- IMUL (R229). -/
def execImul (g : Guard) (ty : IntTy) (d : Reg) (a b : Operand) (s : State) : Host.Outcome State Fault Refusal :=
  alu2 (.imul g ty d a b) g d a b (fun x y => x * y) s
/-- IMULH (R229). -/
def execImulh (g : Guard) (ty : IntTy) (d : Reg) (a b : Operand) (s : State) : Host.Outcome State Fault Refusal :=
  alu2 (.imulh g ty d a b) g d a b (mulHigh ty) s
/-- IMAD (R229). -/
def execImad (g : Guard) (ty : IntTy) (d : Reg) (a b c : Operand) (s : State) : Host.Outcome State Fault Refusal :=
  alu3 (.imad g ty d a b c) g d a b c (fun x y z => x * y + z) s
/-- IMADW (R229). -/
def execImadw (g : Guard) (ty : IntTy) (d : Reg) (a b c : Operand) (s : State) : Host.Outcome State Fault Refusal :=
  alu (.imadw g ty d a b c) s fun v => v.put64 g d fun l => mulAddWide ty (v.src32 l a) (v.src32 l b) (v.src64 l c)
/-- IDIV (R230, R74). -/
def execIdiv (g : Guard) (ty : IntTy) (d : Reg) (a b : Operand) (s : State) : Host.Outcome State Fault Refusal :=
  alu2 (.idiv g ty d a b) g d a b (divWord ty) s
/-- IREM (R230, R74). -/
def execIrem (g : Guard) (ty : IntTy) (d : Reg) (a b : Operand) (s : State) : Host.Outcome State Fault Refusal :=
  alu2 (.irem g ty d a b) g d a b (remWord ty) s
/-- IMIN (R231). -/
def execImin (g : Guard) (ty : IntTy) (d : Reg) (a b : Operand) (s : State) : Host.Outcome State Fault Refusal :=
  alu2 (.imin g ty d a b) g d a b (minWord ty) s
/-- IMAX (R231). -/
def execImax (g : Guard) (ty : IntTy) (d : Reg) (a b : Operand) (s : State) : Host.Outcome State Fault Refusal :=
  alu2 (.imax g ty d a b) g d a b (maxWord ty) s
/-- IABS (R231). -/
def execIabs (g : Guard) (sat : Bool) (d : Reg) (a : Operand) (s : State) : Host.Outcome State Fault Refusal :=
  alu1 (.iabs g sat d a) g d a (absWord sat) s
/-- INEG (R231). -/
def execIneg (g : Guard) (sat : Bool) (d : Reg) (a : Operand) (s : State) : Host.Outcome State Fault Refusal :=
  alu1 (.ineg g sat d a) g d a (negWord sat) s
/-- CLAMP (R231). -/
def execClamp (g : Guard) (ty : IntTy) (d : Reg) (a b c : Operand) (s : State) : Host.Outcome State Fault Refusal :=
  alu3 (.clamp g ty d a b c) g d a b c (fun x y z => minWord ty (maxWord ty x y) z) s

end Sys2Proof.Machine
end

