-- ==== Sys2Proof/Machine/Transcend.lean ====
section
/-! DEFINITION. FEXP2, FLOG2, FSIN and FCOS (R249, R254): the exact mathematical value rounded once, RNE, into
binary32. Each function is enclosed between two rational bounds, at rising precision, until both bounds round to one
value; the listed exact results are taken first. -/

namespace Sys2Proof.Machine

/-- A lower and an upper bound of a nonnegative real, in units of 2^-P. -/
structure Bounds where
  lo : Nat
  hi : Nat
  deriving DecidableEq, Repr

/-- Product of two bounded reals at precision `P`. -/
def Bounds.mul (P : Nat) (x y : Bounds) : Bounds :=
  { lo := x.lo * y.lo / 2 ^ P, hi := x.hi * y.hi / 2 ^ P + 1 }

/-- The sum of x^(2i+1)/(2i+1) over `n` terms for x = 1/q, in units of 2^-P: `pw` is 2^P / q^(2i+1). -/
def atanhSum (q2 : Nat) : Nat → Nat → Nat → Nat
  | 0, _, _ => 0
  | n + 1, i, pw => pw / (2 * i + 1) + atanhSum q2 n (i + 1) (pw / q2)

/-- ln 2 = 2 atanh(1/3), in units of 2^-P, with the error of the truncated terms. -/
def ln2Bounds (P : Nat) : Bounds :=
  let n := P / 3 + 2
  let s := 2 * atanhSum 9 n 0 (2 ^ P / 3)
  { lo := s, hi := s + 6 * n + 4 }

/-- The alternating sum of arctan(1/q), positive and negative terms apart, in units of 2^-P. -/
def atanSum (q2 : Nat) : Nat → Nat → Nat → Bool → Int
  | 0, _, _, _ => 0
  | n + 1, i, pw, neg =>
    (if neg then -((pw / (2 * i + 1) : Nat) : Int) else (pw / (2 * i + 1) : Nat)) + atanSum q2 n (i + 1) (pw / q2) (!neg)

/-- π = 16 atan(1/5) − 4 atan(1/239), in units of 2^-P. -/
def piBounds (P : Nat) : Bounds :=
  let n := P / 4 + 4
  let s := 16 * atanSum 25 n 0 (2 ^ P / 5) false - 4 * atanSum 57121 n 0 (2 ^ P / 239) false
  let slack := 40 * n + 40
  { lo := s.toNat - slack, hi := s.toNat + slack }

/-- The sum of x^i / i! from `i`, given the term before; bounds kept apart. -/
def expSum (P : Nat) (x : Bounds) : Nat → Nat → Bounds → Bounds
  | 0, _, _ => { lo := 0, hi := 0 }
  | n + 1, i, t =>
    let t' : Bounds := { lo := t.lo * x.lo / 2 ^ P / i, hi := t.hi * x.hi / 2 ^ P / i + 1 }
    let r := expSum P x n (i + 1) t'
    { lo := t.lo + r.lo, hi := t.hi + r.hi }

/-- 2^f for 0 ≤ f < 1 given as `x` / 2^s. -/
def exp2Bounds (P x s : Nat) : Bounds :=
  let l := ln2Bounds P
  let y : Bounds := { lo := l.lo * x / 2 ^ s, hi := l.hi * x / 2 ^ s + 1 }
  let r := expSum P y (P / 2 + 4) 1 { lo := 2 ^ P, hi := 2 ^ P }
  { lo := r.lo, hi := r.hi + 4 }

/-- ln y = 2 atanh((y − 1)/(y + 1)) for 1 ≤ y < 2 given as `m` / 2^b. -/
def lnBounds (P m b : Nat) : Bounds :=
  let u := m - 2 ^ b
  let v := m + 2 ^ b
  let z : Bounds := { lo := u * 2 ^ P / v, hi := u * 2 ^ P / v + 1 }
  let z2 := z.mul P z
  let rec go : Nat → Nat → Bounds → Bounds
    | 0, _, _ => { lo := 0, hi := 0 }
    | n + 1, i, t =>
      let r := go n (i + 1) (t.mul P z2)
      { lo := t.lo / (2 * i + 1) + r.lo, hi := t.hi / (2 * i + 1) + 1 + r.hi }
  let r := go (P / 3 + 2) 0 z
  { lo := 2 * r.lo, hi := 2 * r.hi + 4 }

/-- sin x or cos x for 0 ≤ x < 1 by the alternating series: the term before is `t`, its index `i`. -/
def altSum (P : Nat) (x2 : Bounds) : Nat → Nat → Bounds → Bool → Int × Int
  | 0, _, _, _ => (0, 0)
  | n + 1, i, t, neg =>
    let t' : Bounds :=
      { lo := t.lo * x2.lo / 2 ^ P / ((i + 1) * (i + 2)), hi := t.hi * x2.hi / 2 ^ P / ((i + 1) * (i + 2)) + 1 }
    let (lo, hi) := altSum P x2 n (i + 2) t' (!neg)
    if neg then (lo - t.hi, hi - t.lo) else (lo + t.lo, hi + t.hi)

/-- sin(π x / 2^s) for x / 2^s ≤ 1/4. -/
def sinBounds (P x s : Nat) : Bounds :=
  let p := piBounds P
  let y : Bounds := { lo := p.lo * x / 2 ^ s, hi := p.hi * x / 2 ^ s + 1 }
  let (lo, hi) := altSum P (y.mul P y) (P / 4 + 4) 1 y false
  { lo := (lo - 2).toNat, hi := (hi + 2).toNat }

/-- cos(π x / 2^s) for x / 2^s ≤ 1/4. -/
def cosBounds (P x s : Nat) : Bounds :=
  let p := piBounds P
  let y : Bounds := { lo := p.lo * x / 2 ^ s, hi := p.hi * x / 2 ^ s + 1 }
  let (lo, hi) := altSum P (y.mul P y) (P / 4 + 4) 0 { lo := 2 ^ P, hi := 2 ^ P } false
  { lo := (lo - 2).toNat, hi := (hi + 2).toNat }

/-- The one binary32 value both bounds round to, trying the precisions in turn; the last one stands. -/
def roundBounds (neg : Bool) (e : Int) (b : Nat → Bounds) : List Nat → Nat
  | [] => 0
  | P :: ps =>
    let x := b P
    let lo := fmt32.round .rn neg x.lo (e - P) false
    if lo == fmt32.round .rn neg x.hi (e - P) false || ps.isEmpty then lo else roundBounds neg e b ps

/-- The precisions tried beyond `k` bits. -/
def precisions (k : Nat) : List Nat := [k + 64, k + 128, k + 256]

/-- FEXP2 (R254). -/
def fexp2Bits (a : Nat) : Nat :=
  match fmt32.read a with
  | .nan => fmt32.nanBits
  | .inf neg => if neg then 0 else fmt32.infBits
  | .fin neg m e =>
    if 0 ≤ e || m == 0 then
      let k : Nat := m * 2 ^ e.toNat
      if k ≥ 256 then (if neg then 0 else fmt32.infBits)
      else fmt32.round .rn false 1 (if neg then -(k : Int) else k) false
    else
      let s := (-e).toNat
      let x : Int := if neg then -(m : Int) else m
      let n := x / 2 ^ s
      let r := (x % 2 ^ s).toNat
      if r == 0 then fmt32.round .rn false 1 n false
      else roundBounds false n (fun P => exp2Bounds P r s) (precisions 32)

/-- FLOG2 (R254). -/
def flog2Bits (a : Nat) : Nat :=
  match fmt32.read a with
  | .nan => fmt32.nanBits
  | .inf neg => if neg then fmt32.nanBits else fmt32.infBits
  | .fin neg m e =>
    if m == 0 then fmt32.withSign true fmt32.infBits
    else if neg then fmt32.nanBits
    else
      let b := bitLen m - 1
      let n : Int := e + b
      if m == 2 ^ b then fmt32.ofInt .rn n
      else if 0 ≤ n then
        roundBounds false 0 (fun P =>
          let l := ln2Bounds P
          let y := lnBounds P m b
          { lo := n.toNat * 2 ^ P + y.lo * 2 ^ P / l.hi, hi := n.toNat * 2 ^ P + y.hi * 2 ^ P / l.lo + 1 }) (precisions 64)
      else
        roundBounds true 0 (fun P =>
          let l := ln2Bounds P
          let y := lnBounds P m b
          { lo := (-n).toNat * 2 ^ P - (y.hi * 2 ^ P / l.lo + 1), hi := (-n).toNat * 2 ^ P - y.lo * 2 ^ P / l.hi })
          (precisions 64)

/-- sin(π x / 2^s) for 0 ≤ x / 2^s ≤ 1/2, rounded. -/
def sinQuarter (neg : Bool) (x s : Nat) : Nat :=
  if x == 0 then fmt32.withSign neg 0
  else if 4 * x ≤ 2 ^ s then roundBounds neg 0 (fun P => sinBounds P x s) (precisions (32 + s - (bitLen x - 1)))
  else roundBounds neg 0 (fun P => cosBounds P (2 ^ s / 2 - x) s) (precisions 32)

/-- FSIN (R254): the argument in half-turns. -/
def fsinBits (a : Nat) : Nat :=
  match fmt32.read a with
  | .nan => fmt32.nanBits
  | .inf _ => fmt32.nanBits
  | .fin neg m e =>
    if 0 ≤ e then fmt32.withSign neg 0
    else
      let s := (-e).toNat + 2
      let x := m * 4
      let r := x % 2 ^ s
      let odd := x / 2 ^ s % 2 == 1
      if r == 0 then fmt32.withSign neg 0
      else sinQuarter (neg != odd) (if 2 * r ≤ 2 ^ s then r else 2 ^ s - r) s

/-- FCOS (R254): the argument in half-turns. -/
def fcosBits (a : Nat) : Nat :=
  match fmt32.read a with
  | .nan => fmt32.nanBits
  | .inf _ => fmt32.nanBits
  | .fin _ m e =>
    if 0 ≤ e then fmt32.withSign (m * 2 ^ e.toNat % 2 == 1) (fmt32.round .rn false 1 0 false)
    else
      let s := (-e).toNat + 2
      let x := m * 4
      let r := x % 2 ^ s
      let odd := x / 2 ^ s % 2 == 1
      let h := 2 ^ s / 2
      if r == h then 0
      else if r < h then sinQuarter odd (h - r) s
      else sinQuarter (!odd) (r - h) s

end Sys2Proof.Machine
end

