-- ==== Sys2Proof/Machine/FloatOps.lean ====
section
/-! DEFINITION. The binary32 instructions (R250 to R256). -/

namespace Sys2Proof.Machine

/-- A word from a bit pattern. -/
def ofBits (x : Nat) : Word := BitVec.ofNat 32 x
/-- FADD (R251). -/
def execFadd (g : Guard) (r : Rnd) (d : Reg) (a b : Operand) (s : State) : Host.Outcome State Fault Refusal :=
  alu2 (.fadd g r d a b) g d a b (fun x y => ofBits (fmt32.add r x.toNat y.toNat)) s
/-- FSUB (R251). -/
def execFsub (g : Guard) (r : Rnd) (d : Reg) (a b : Operand) (s : State) : Host.Outcome State Fault Refusal :=
  alu2 (.fsub g r d a b) g d a b (fun x y => ofBits (fmt32.sub r x.toNat y.toNat)) s
/-- FMUL (R251). -/
def execFmul (g : Guard) (r : Rnd) (d : Reg) (a b : Operand) (s : State) : Host.Outcome State Fault Refusal :=
  alu2 (.fmul g r d a b) g d a b (fun x y => ofBits (fmt32.mul r x.toNat y.toNat)) s
/-- FDIV (R251). -/
def execFdiv (g : Guard) (r : Rnd) (d : Reg) (a b : Operand) (s : State) : Host.Outcome State Fault Refusal :=
  alu2 (.fdiv g r d a b) g d a b (fun x y => ofBits (fmt32.div r x.toNat y.toNat)) s
/-- FFMA (R251). -/
def execFfma (g : Guard) (r : Rnd) (d : Reg) (a b c : Operand) (s : State) : Host.Outcome State Fault Refusal :=
  alu3 (.ffma g r d a b c) g d a b c (fun x y z => ofBits (fmt32.fma r x.toNat y.toNat z.toNat)) s
/-- FMIN (R252). -/
def execFmin (g : Guard) (d : Reg) (a b : Operand) (s : State) : Host.Outcome State Fault Refusal :=
  alu2 (.fmin g d a b) g d a b (fun x y => ofBits (fmt32.minBits x.toNat y.toNat)) s
/-- FMAX (R252). -/
def execFmax (g : Guard) (d : Reg) (a b : Operand) (s : State) : Host.Outcome State Fault Refusal :=
  alu2 (.fmax g d a b) g d a b (fun x y => ofBits (fmt32.maxBits x.toNat y.toNat)) s
/-- FRND (R253). -/
def execFrnd (g : Guard) (r : Rnd) (d : Reg) (a : Operand) (s : State) : Host.Outcome State Fault Refusal :=
  alu1 (.frnd g r d a) g d a (fun x => ofBits (fmt32.toIntegral r x.toNat)) s
/-- FSCALE (R251). -/
def execFscale (g : Guard) (r : Rnd) (d : Reg) (a b : Operand) (s : State) : Host.Outcome State Fault Refusal :=
  alu2 (.fscale g r d a b) g d a b (fun x n => ofBits (fmt32.scale r x.toNat n.toInt)) s
/-- FFRACT (R253). -/
def execFfract (g : Guard) (d : Reg) (a : Operand) (s : State) : Host.Outcome State Fault Refusal :=
  alu1 (.ffract g d a) g d a (fun x => ofBits (fmt32.fract x.toNat)) s
/-- FRCP (R251). -/
def execFrcp (g : Guard) (r : Rnd) (d : Reg) (a : Operand) (s : State) : Host.Outcome State Fault Refusal :=
  alu1 (.frcp g r d a) g d a (fun x => ofBits (fmt32.div r 0x3F800000 x.toNat)) s
/-- FRSQ (R254). -/
def execFrsq (g : Guard) (d : Reg) (a : Operand) (s : State) : Host.Outcome State Fault Refusal :=
  alu1 (.frsq g d a) g d a (fun x => ofBits (fmt32.rsqrt x.toNat)) s
/-- FSQRT (R251). -/
def execFsqrt (g : Guard) (r : Rnd) (d : Reg) (a : Operand) (s : State) : Host.Outcome State Fault Refusal :=
  alu1 (.fsqrt g r d a) g d a (fun x => ofBits (fmt32.sqrt r x.toNat)) s
/-- FEXP2 (R254). -/
def execFexp2 (g : Guard) (d : Reg) (a : Operand) (s : State) : Host.Outcome State Fault Refusal :=
  alu1 (.fexp2 g d a) g d a (fun x => ofBits (fexp2Bits x.toNat)) s
/-- FLOG2 (R254). -/
def execFlog2 (g : Guard) (d : Reg) (a : Operand) (s : State) : Host.Outcome State Fault Refusal :=
  alu1 (.flog2 g d a) g d a (fun x => ofBits (flog2Bits x.toNat)) s
/-- FSIN (R254). -/
def execFsin (g : Guard) (d : Reg) (a : Operand) (s : State) : Host.Outcome State Fault Refusal :=
  alu1 (.fsin g d a) g d a (fun x => ofBits (fsinBits x.toNat)) s
/-- FCOS (R254). -/
def execFcos (g : Guard) (d : Reg) (a : Operand) (s : State) : Host.Outcome State Fault Refusal :=
  alu1 (.fcos g d a) g d a (fun x => ofBits (fcosBits x.toNat)) s
/-- FCMP (R255). -/
def execFcmp (g : Guard) (cmp : FCmp) (comb : Combine) (pd : Fin 8) (a b : Operand) (s : State) : Host.Outcome State Fault Refusal :=
  alu (.fcmp g cmp comb pd a b) s fun c => c.putPred g pd fun l =>
    combineAt c.regs comb l (fcmpHolds cmp (c.src32 l a).toNat (c.src32 l b).toNat)
/-- The format of a floating-point type. -/
def fmtOf (t : FloatTy) : Fmt :=
  match t with
  | .f32 => fmt32
  | .f16 => fmt16
  | .bf16 => fmtB16
/-- One half of a pair (R67). -/
def halfOf (hi : Bool) (x : Word) : Nat := if hi then x.toNat / 65536 else x.toNat % 65536
/-- FCLASS (R256). -/
def execFclass (g : Guard) (ty : FloatTy) (hi : Bool) (d : Reg) (a : Operand) (s : State) : Host.Outcome State Fault Refusal :=
  alu1 (.fclass g ty hi d a) g d a
    (fun x => ofBits (2 ^ (fmtOf ty).classBit (if ty = .f32 then x.toNat else halfOf hi x))) s

end Sys2Proof.Machine
end

