-- ==== Sys2Proof/Machine/NarrowFloat.lean ====
section
/-! DEFINITION. The NF formats: format words (R76, R77), code values (R78), packing and unpacking (R80), block scales
(R81, R82), and the summation orders of the matrix unit (R83 to R87). -/

namespace Sys2Proof.Machine

/-- The fields of a format word (R76). -/
structure NFWord where
  wid : Nat
  sgn : Nat
  exb : Nat
  bias : Int
  spec : Nat
  blk : Nat
  sck : Nat
  prnd : Nat
  top : Nat
  deriving DecidableEq, Repr

/-- The fields of a 32-bit word (R76). -/
def NFWord.ofNat (w : Nat) : NFWord :=
  let b := w / 256 % 256
  { wid := w % 16, sgn := w / 16 % 2, exb := w / 32 % 8, bias := if b < 128 then b else (b : Int) - 256
    spec := w / 65536 % 4, blk := w / 262144 % 4, sck := w / 1048576 % 4, prnd := w / 4194304 % 4
    top := w / 16777216 }

/-- The mantissa bits m = WID − s − e of a format with m ≥ 0. -/
def NFWord.man (f : NFWord) : Nat := f.wid - f.sgn - f.exb

/-- The value of a code (R78); the code's upper bits beyond WID are ignored (R79). -/
def NFWord.value (f : NFWord) (code : Nat) : FVal :=
  let c := code % 2 ^ f.wid
  let neg := f.sgn == 1 && c / 2 ^ (f.wid - 1) == 1
  let ex := c / 2 ^ f.man % 2 ^ f.exb
  let m := c % 2 ^ f.man
  if f.exb == 0 then .fin neg m (-f.bias)
  else if f.spec == 1 && ex == 2 ^ f.exb - 1 && m == 2 ^ f.man - 1 then .nan
  else if f.spec == 2 && ex == 2 ^ f.exb - 1 then (if m == 0 then .inf neg else .nan)
  else if ex == 0 then .fin neg m (1 - f.bias - f.man)
  else .fin neg (2 ^ f.man + m) (ex - f.bias - f.man)

/-- The largest magnitude code that is neither NaN nor an infinity (R78). -/
def NFWord.maxCode (f : NFWord) : Nat :=
  let all := 2 ^ (f.wid - f.sgn) - 1
  if f.spec == 1 then all - 1 else if f.spec == 2 then all - 2 ^ f.man else all

/-- A nonnegative exact value as a mantissa and an exponent. -/
def FVal.mag : FVal → Nat × Int
  | .fin _ m e => (m, e)
  | _ => (0, 0)

/-- floor(log2) of a nonzero magnitude. -/
def magLog2 (v : FVal) : Int := v.mag.2 + bitLen v.mag.1 - 1

/-- The smallest nonzero magnitude's exponent. -/
def NFWord.minExp (f : NFWord) : Int := if f.exb == 0 then -f.bias else 1 - f.bias - f.man

/-- Well-formed (R77). -/
def NFWord.wf (f : NFWord) : Bool :=
  2 ≤ f.wid && f.wid ≤ 8 && f.sgn + f.exb ≤ f.wid && f.spec != 3 && f.blk != 3 && f.sck < 2 && f.prnd != 3 && f.top == 0 &&
  ((f.blk == 0) == (f.sck == 0)) && (f.exb != 0 || f.spec == 0) &&
  (f.spec != 1 || (1 ≤ f.exb && 2 ≤ f.wid - f.sgn)) && (f.spec != 2 || (2 ≤ f.exb && 1 ≤ f.man)) &&
  magLog2 (f.value f.maxCode) < 128 &&
  (if f.exb != 0 && f.man == 0 then -149 ≤ (if f.spec == 1 && f.exb == 1 then -149 else 1 - f.bias) else -149 ≤ f.minExp)

/-- Codes per 32-bit word (R79). -/
def NFWord.perWord (f : NFWord) : Nat := if f.wid ≤ 4 then 8 else 4
/-- The container width of R79. -/
def NFWord.container (f : NFWord) : Nat := if f.wid ≤ 4 then 4 else 8
/-- The block size of BLK (R76). -/
def NFWord.block (f : NFWord) : Nat := if f.blk == 1 then 16 else 32

/-- The code with a sign (R78). -/
def NFWord.signed (f : NFWord) (neg : Bool) (c : Nat) : Nat :=
  c + (if neg && f.sgn == 1 then 2 ^ (f.wid - 1) else 0)

/-- The NaN code of rule 1 of R80. -/
def NFWord.nanCode (f : NFWord) : Nat := if f.spec == 0 then f.maxCode else 2 ^ (f.wid - f.sgn) - 1

/-- What a magnitude beyond max packs to (rule 4 of R80). -/
def NFWord.beyond (f : NFWord) (neg : Bool) : Nat :=
  if f.prnd == 0 && f.spec == 2 then f.signed neg ((2 ^ f.exb - 1) * 2 ^ f.man)
  else if f.prnd == 0 && f.spec == 1 then f.nanCode
  else f.signed neg f.maxCode

/-- Pack an exact value (R80). -/
def NFWord.pack (f : NFWord) (v : FVal) : Nat :=
  let r : Rnd := if f.prnd == 1 then .rz else .rn
  match v with
  | .nan => f.nanCode
  | .inf neg =>
    if f.sgn == 0 && neg then 0
    else if f.spec == 2 && f.prnd == 0 then f.signed neg ((2 ^ f.exb - 1) * 2 ^ f.man)
    else if f.spec == 1 && f.prnd == 0 then f.nanCode
    else f.signed neg f.maxCode
  | .fin neg m e =>
    if f.sgn == 0 && neg then 0
    else if m == 0 then f.signed neg 0
    else
      let q : Int := if f.exb == 0 then -f.bias else max (e + bitLen m - 1 - f.man) (1 - f.bias - f.man)
      let k := if q ≤ e then m * 2 ^ (min (e - q).toNat 512) else dropBits r neg m (q - e).toNat false
      -- the code as an ordinal: `k` units of 2^q; each binade above the subnormals adds 2^man codes
      let c := if f.exb == 0 then k else (q - (1 - f.bias - f.man)).toNat * 2 ^ f.man + k
      if c > f.maxCode then f.beyond neg else f.signed neg c

/-- Divide an exact value by 2^(s − 127) (R82); the NaN scale makes it NaN. -/
def unscaleVal (s : Nat) (v : FVal) : FVal :=
  if s == 255 then .nan else match v with
    | .fin n m e => .fin n m (e - (s - 127))
    | v => v

/-- NFPACK of one binary32 value under scale `s` (R266, R82). -/
def NFWord.packScaled (f : NFWord) (x s : Nat) : Nat := f.pack (unscaleVal s (fmt32.read x))

/-- NFUNP of one code under scale `s` (R266, R82). -/
def NFWord.unpackScaled (f : NFWord) (code s : Nat) : Nat :=
  if f.sck == 0 then fmt32.write .rn (f.value code)
  else if s == 255 then fmt32.nanBits
  else match f.value code with
    | .fin n m e => fmt32.write .rn (.fin n m (e + (s - 127)))
    | v => fmt32.write .rn v

/-- The scale of a block of binary32 values (R82); an empty block receives 127 (R267). -/
def NFWord.blockScale (f : NFWord) (xs : List Nat) : Nat :=
  let vs := xs.map fmt32.read
  if vs.any (fun v => match v with | .nan | .inf _ => true | _ => false) then 255
  else
    let live := vs.filter (fun v => v.mag.1 != 0)
    if live.isEmpty then 127
    else
      let top := live.foldl (fun a v => max a (magLog2 v)) (-1000)
      (clampInt (top - magLog2 (f.value f.maxCode) + 127) 0 254).toNat

/-- One accumulator element of a BF16 or binary16 product (R84): groups of four products, each group rounded once and
added once. -/
def halfDot (h : Fmt) : List (Nat × Nat) → Nat → Nat
  | (a0, b0) :: (a1, b1) :: (a2, b2) :: (a3, b3) :: rest, c =>
    let t := fmt32.write .rn (sumExact [(h.read a0).mul (h.read b0), (h.read a1).mul (h.read b1),
      (h.read a2).mul (h.read b2), (h.read a3).mul (h.read b3)])
    halfDot h rest (fmt32.add .rn c t)
  | _, c => c

/-- The partial of an NF product (R85): the exact sum rounded once. -/
def nfDot (fa fb : NFWord) (ps : List (Nat × Nat)) : Nat :=
  fmt32.write .rn (sumExact (ps.map fun (a, b) => (fa.value a).mul (fb.value b)))

/-- A narrow integer element of width `b` (R75). -/
def narrowInt (signed : Bool) (b x : Nat) : Int :=
  let y := x % 2 ^ b
  if signed && y ≥ 2 ^ (b - 1) then (y : Int) - 2 ^ b else y

/-- An integer product added to the element modulo 2^32 (R87). -/
def intDot (signed : Bool) (b : Nat) (ps : List (Nat × Nat)) (c : Nat) : Nat :=
  (((c : Int) + (ps.map fun (x, y) => narrowInt signed b x * narrowInt signed b y).sum) % 4294967296).toNat

/-- The reference scaling step (R86). -/
def scaleStep (p xa xb c : Nat) : Nat :=
  let q := if xa == 255 || xb == 255 then fmt32.nanBits
    else fmt32.scale .rn p (((xa : Int) - 127) + (xb - 127))
  fmt32.add .rn c q

end Sys2Proof.Machine
end

