-- ==== Sys2Proof/Machine/Spad.lean ====
section
/-! DEFINITION. The scratchpad: stamps and epoch (R98, R132), byte access, line waits (R97), tile descriptors (R57, R58)
and layout records (R108, R109). -/

namespace Sys2Proof.Machine

/-- The time a line's stamp stands for (R98). -/
def Sheet.lineTime (h : Sheet) (n : Nat) : Nat := h.epoch + (h.line n).stamp

/-- Raise the scratchpad epoch: stamps below it are recorded as the epoch (R132). -/
def Sheet.raiseEpoch (h : Sheet) (e : Nat) : Sheet :=
  { h with
    epoch := e
    lines := h.lines.foldl (fun m p => stPut Line.fresh p.1 { p.2 with stamp := h.epoch + p.2.stamp - e } m) [] }

/-- Record a time in a line's stamp, raising the epoch when the time lies 65,536 or more above it; how far it rises is
free (R132). -/
def State.stampLine (s : State) (sid n t : Nat) : State :=
  match tabGet sid s.sheets with
  | none => s
  | some h =>
    if t < h.epoch + 65536 then s.modSheet sid fun h => h.putLine n { h.line n with stamp := t - h.epoch }
    else
      let e := t - s.free .epoch % 65536
      s.drew.modSheet sid fun h =>
        let h := h.raiseEpoch e
        h.putLine n { h.line n with stamp := t - e }

/-- One scratchpad byte. -/
def Sheet.spadByte (h : Sheet) (a : Nat) : Byte := stGet 0 a h.spad
/-- Scratchpad bytes. -/
def Sheet.spadBytes (h : Sheet) (a n : Nat) : List Byte := stGetList 0 a n h.spad
/-- Write scratchpad bytes; a write of a whole word ends its mark (R434). -/
def Sheet.putSpad (h : Sheet) (a : Nat) (bs : List Byte) : Sheet :=
  { h with spad := stPutList 0 a bs h.spad
           bad := h.bad.filter fun w => match w with
             | .spad b m => !(a ≤ b && b + m ≤ a + bs.length)
             | _ => true }
/-- Scratchpad words of which every byte has been written are marked no longer (R434). -/
def Sheet.mend (h : Sheet) (wrote : Nat → Bool) : Sheet :=
  { h with bad := h.bad.filter fun w => match w with
      | .spad b m => !((List.range m).all fun i => wrote (b + i))
      | _ => true }

/-- How an access to a line is placed (R132). -/
inductive LineUse where
  | read | write
  deriving DecidableEq, Repr

/-- Place one access to a line at the clock `c` (R132): the state and the access's time. -/
def State.placeLine (s : State) (sid cx n c : Nat) (u : LineUse) : State × Nat :=
  let st := ((tabGet sid s.sheets).map (·.lineTime n)).getD 0
  let t := match u with
    | .read => max c st
    | .write => max c (st + 1)
  if t < timeEnd then (s.stampLine sid n t, t) else (s.exhaust cx, c)

/-- The clock of the lane or agent that makes an access: a lane's own, or the clock of R280 for one made once. -/
def Site.clockAt (c : Site) (once : Bool) (l : Nat) : Nat :=
  match c.agent with
  | .seq _ => c.clk
  | .gang g => if once then c.clk else ((tabGet g c.sh.gangs).map fun q => q.clockOf [l]).getD 0

/-- Give a time to the lane that made an access, or to every enabled lane when it was made once (R280). -/
def State.giveTime (s : State) (c : Site) (once : Bool) (l t : Nat) : State :=
  match c.agent with
  | .seq k => s.modSheet c.sid (·.modSeq k fun q => { q with clock := max q.clock t })
  | .gang g => s.modGang c.sid g (·.raiseClock (if once then c.view.enabled else [l]) t)

/-- Place an access to each line for a lane, one after another (R132). -/
def State.placeLines (s : State) (c : Site) (once : Bool) (l : Nat) (u : LineUse) (lines : List Nat) : State :=
  lines.foldl (fun s n =>
    let clk := (s.site.map fun c => c.clockAt once l).getD (c.clockAt once l)
    let (s, t) := s.placeLine c.sid c.sh.ctx n clk u
    s.giveTime c once l t) s

/-- The lines a span of bytes touches. -/
def spanLines (a n : Nat) : List Nat := (List.range ((a + n + 127) / 128 - a / 128)).map fun i => a / 128 + i

/-- The side an issuer's accesses need lines to be on. -/
def Site.eng (c : Site) : Bool :=
  match c.agent with
  | .seq _ => true
  | .gang _ => false

/-- Wait on lines (R97, R112, R336). A line of a collective that can no longer complete raises the deadlock trap (R342). -/
def State.waitLines (s : State) (c : Site) (i : Instr) (lines : List Nat) (need : LineNeed) : State :=
  match c.agent with
  | .seq _ => s.seqWait c (.lines lines need)
  | .gang _ =>
    match c.sh.dead.find? fun p => lines.contains p.1 with
    | some p => s.raise c i { cause := 15, info := 5 + 256 * p.2 }
    | none => s.waitIn c (.line lines need)

/-- Whether the issuer's side has the lines: present, and thread-owned for a gang or engine-owned for a sequencer. -/
def Site.hasLines (c : Site) (lines : List Nat) : Bool := c.sh.linesFor c.eng lines

/-! ### Tile descriptors -/

/-- A tile descriptor's fields (R57). -/
structure Tile where
  base : Nat
  rows : Nat
  pitch : Nat
  rlen : Nat
  fmt : Nat
  spare : Nat
  deriving DecidableEq, Repr

/-- The fields of a descriptor, with an offset added to BASE (R57, R331). -/
def Tile.of (w : DWord) (ofs : Nat) : Tile :=
  { base := bitsOf w.toNat 0 14 + ofs, rows := bitsOf w.toNat 14 12, pitch := bitsOf w.toNat 26 14, rlen := bitsOf w.toNat 40 13
    fmt := bitsOf w.toNat 53 4, spare := bitsOf w.toNat 57 7 }
/-- Lines of one row. -/
def Tile.rowLines (t : Tile) : Nat := (t.rlen + 127) / 128
/-- Whether the descriptor is well formed against a scratchpad of `n` lines (R58). -/
def Tile.wf (t : Tile) (n : Nat) : Bool :=
  t.rlen ≠ 0 && t.rlen % 4 == 0 && t.rlen ≤ 4096 && (t.rows == 0 || t.rowLines ≤ t.pitch)
    && t.base + t.rows * t.pitch + t.rowLines ≤ n && t.spare == 0
/-- Whether entry `n` of the sheet's format table is well-formed (R90). -/
def Sheet.fmtOk (h : Sheet) (n : Nat) : Bool := (NFWord.ofNat (stGet 0 n h.fmt).toNat).wf
/-- Whether an instruction of this sheet may use the descriptor (R58, R90). -/
def Tile.ok (t : Tile) (h : Sheet) : Bool := t.wf (h.spg * 128) && h.fmtOk t.fmt
/-- The byte address of a row (R58). -/
def Tile.rowAt (t : Tile) (r : Nat) : Nat := (t.base + r * t.pitch) * 128
/-- The lines of a tile, row by row. -/
def Tile.lines (t : Tile) : List Nat :=
  ((List.range (t.rows + 1)).flatMap fun r => (List.range t.rowLines).map fun k => t.base + r * t.pitch + k).eraseDups
/-- The bytes of a tile, row by row. -/
def Tile.bytes (t : Tile) (h : Sheet) : List (List Byte) := (List.range (t.rows + 1)).map fun r => h.spadBytes (t.rowAt r) t.rlen

/-! ### Stores to lines a copy or collective has still to read -/

/-- Fix the bytes of an element as they stand. -/
def CopyElem.settled (e : CopyElem) (h : Sheet) : CopyElem := { e with bytes := e.now h, src := [] }
/-- Whether an element still reads a scratchpad byte of a span. -/
def CopyElem.readsIn (e : CopyElem) (a n : Nat) : Bool :=
  e.src.any fun p => (a ≤ p.1 / 2 && p.1 / 2 < a + n) || (a ≤ p.2 / 2 && p.2 / 2 < a + n)

/-- Before scratchpad bytes change, each element of a copy in flight that reads them has read them or not (R115). -/
def State.settleCopies (s : State) (sid a n : Nat) : State :=
  match tabGet sid s.sheets with
  | none => s
  | some h =>
    s.copies.foldl (fun s p =>
      if p.2.sheet == sid && p.2.out.any (·.readsIn a n) then
        let (s, out) := p.2.out.foldl (fun (q : State × List CopyElem) e =>
          if e.readsIn a n then (q.1.drew, q.2 ++ [if q.1.free .copySource % 2 = 0 then e.settled h else e]) else (q.1, q.2 ++ [e])) (s, [])
        { s with copies := tabPut p.1 { p.2 with out := out } s.copies }
      else s) s

/-- The aligned 4-byte elements of a tile that a span touches. -/
def Tile.words (t : Tile) (a n : Nat) : List Nat :=
  ((List.range ((a + n + 3) / 4 - a / 4)).map fun i => a / 4 + i).filter fun w =>
    (List.range (t.rows + 1)).any fun r => t.rowAt r ≤ 4 * w && 4 * w < t.rowAt r + t.rlen

/-- The same for the source tile of a collective not yet sent (R341). -/
def State.settleColls (s : State) (sid a n : Nat) : State :=
  match tabGet sid s.sheets with
  | none => s
  | some h =>
    let (s, pend) := h.pend.foldl (fun (q : State × List PendColl) p =>
      if p.sent then (q.1, q.2 ++ [p])
      else
        let ws := ((Tile.of p.ts 0).words a n).filter fun w => (tabGet (4 * w) p.got).isNone
        let (s, got) := ws.foldl (fun (q : State × Tab Byte) w =>
          (q.1.drew, if q.1.free .copySource % 2 = 0 then
            (List.range 4).foldl (fun m i => tabPut (4 * w + i) (h.spadByte (4 * w + i)) m) q.2 else q.2)) (q.1, p.got)
        (s, q.2 ++ [{ p with got := got }])) (s, [])
    if h.pend.isEmpty then s else s.modSheet sid fun h => { h with pend := pend }

/-- Write scratchpad bytes. -/
def State.writeSpad (s : State) (sid a : Nat) (bs : List Byte) : State :=
  ((s.settleCopies sid a bs.length).settleColls sid a bs.length).modSheet sid (·.putSpad a bs)

/-- Lines that a copy in flight, or a collective not yet sent, reads (R112, R336). -/
def State.readLines (s : State) (sid : Nat) : List Nat :=
  ((s.copies.filter fun p => p.2.sheet == sid).flatMap fun p => p.2.srcLines)
    ++ (((tabGet sid s.sheets).map fun h => (h.pend.filter fun p => !p.sent).flatMap fun p => (Tile.of p.ts 0).lines).getD [])

/-- Whether lines meet a need of one side. -/
def State.linesMeet (s : State) (sid : Nat) (h : Sheet) (eng : Bool) (ls : List Nat) (need : LineNeed) : Bool :=
  match need with
  | .free => h.linesFor eng ls
  | .owned => h.linesOwned eng ls
  | .idle => h.linesHere ls && !(ls.any (s.readLines sid).contains)

/-- Line waits that are over end: gangs issue again, sequencers go on (R97, R112, R336). -/
def State.wakeLines (s : State) (sid : Nat) : State :=
  s.modSheet sid fun h =>
    let isOver (t : TState) : Bool := match t with
      | .line ls need => s.linesMeet sid h false ls need || h.dead.any fun p => ls.contains p.1
      | _ => false
    let free (q : Seq) : Seq := match q.wait with
      | .lines ls need => if s.linesMeet sid h true ls need then { q with wait := .none } else q
      | _ => q
    { h with gangs := tabMap (fun _ g => if (g.lanesIn isOver).isEmpty then g else g.wake (g.lanesIn isOver)) h.gangs
             mseq := free h.mseq, cseq := free h.cseq }

/-! ### Layout records -/

/-- One dimension of a layout record (R108). -/
structure Dim where
  ext : Nat
  box : Nat
  str : Nat
  spare : Nat
  deriving DecidableEq, Repr

/-- A layout record (R108). -/
structure Layout where
  gaddr : Nat
  ndim : Nat
  esz : Nat
  fmt : Nat
  mc : Bool
  mbar : Nat
  pitch : Nat
  mmask : Nat
  spare : Nat
  dims : List Dim
  deriving DecidableEq, Repr

/-- The fields of 128 bytes (R108). -/
def Layout.of (bs : List Byte) : Layout :=
  let w := ofBytesLE bs
  { gaddr := bitsOf w 0 64, ndim := bitsOf w 64 3, esz := bitsOf w 67 3, fmt := bitsOf w 70 4, mc := w.testBit 74
    mbar := bitsOf w 75 4, pitch := bitsOf w 80 14, mmask := bitsOf w 128 96
    spare := bitsOf w 79 1 + bitsOf w 94 34 + bitsOf w 224 32 + bitsOf w 896 128
    dims := (List.range 5).map fun d =>
      let b := 256 + 128 * d
      { ext := bitsOf w b 32, box := bitsOf w (b + 32) 16, str := bitsOf w (b + 64) 48
        spare := bitsOf w (b + 48) 16 + bitsOf w (b + 112) 16 } }

/-- Element size in bytes; 4-bit elements count as 1 for alignment (R109). -/
def Layout.size (r : Layout) : Nat := if r.esz = 0 then 1 else 2 ^ (r.esz - 1)
/-- The dimensions in use. -/
def Layout.used (r : Layout) : List Dim := r.dims.take r.ndim
/-- Bytes of one box row along dimension 0. -/
def Layout.rowBytes (r : Layout) : Nat :=
  let b := ((r.dims.head?.map (·.box)).getD 0) + 1
  if r.esz = 0 then (b + 1) / 2 else b * r.size

/-- Whether the record is well formed, but for the live-cluster condition of MMASK (R109). -/
def Layout.wf (r : Layout) : Bool :=
  1 ≤ r.ndim && r.ndim ≤ 5 && r.esz ≤ 4 && r.spare == 0 && r.used.all (fun d => d.spare == 0 && d.ext ≠ 0)
    && r.gaddr < 281474976710656 && r.gaddr % r.size == 0 && (r.used.drop 1).all (fun d => d.str % r.size == 0)
    && !(r.esz == 0 && r.used.head?.any fun d => d.box % 2 == 0) && r.rowBytes ≤ r.pitch * 128

/-- The global address of tensor element `cs`, and for 4-bit elements whether it lies in the high nibble (R110). -/
def Layout.address (r : Layout) (cs : List Int) : Nat × Bool :=
  let c0 := cs.headD 0
  let rest := (((cs.drop 1).zip (r.used.drop 1)).map fun p => p.1 * (p.2.str : Int)).foldl (· + ·) 0
  let a : Int := r.gaddr + (if r.esz = 0 then c0 / 2 else c0 * r.size) + rest
  ((a % 18446744073709551616).toNat, r.esz = 0 && c0 % 2 == 1)

end Sys2Proof.Machine
end

