-- ==== Sys2Proof/Machine/Access.lean ====
section
/-! DEFINITION. The memory access instructions (R277 to R291). -/

namespace Sys2Proof.Machine

/-- The folios that a gang's FCLOSE is closing close before its next access (R138). -/
def State.closeFor (s : State) (c : Site) (g : Nat) : State :=
  match tabGet c.sh.ctx s.ctxs with
  | none => s
  | some ctx =>
    (ctx.folios.filter fun p => p.2.st == .closing && (p.2.closer.map fun x => (x.1, x.2.1)) == some (c.sid, g)).foldl
      (fun s p => s.closeFolio c.sh.ctx p.1) s

/-- Enter an instruction that reaches memory, scratchpad or a sheet object: earlier writes of the enabled lanes have
their times first (R130, R280), and a folio the gang closes has closed (R138). -/
def enterMem (i : Instr) (s : State) (k : State → Site → Host.Outcome State Fault Refusal) :
    Host.Outcome State Fault Refusal :=
  enter i s fun c =>
    let s := match c.agent with
      | .gang g => (s.drainLanes c.sid g c.view.lanes).closeFor c g
      | .seq _ => s
    match s.site with
    | none => .fault .noIssuer
    | some c => k s c

/-- Enter a gang-level instruction that reaches memory or a sheet object: with its guard false it changes nothing (R213). -/
def enterMemGang (i : Instr) (g : Guard) (s : State) (k : State → Site → Host.Outcome State Fault Refusal) :
    Host.Outcome State Fault Refusal :=
  enterMem i s fun s c => if c.view.acts g then k s c else .next (s.finish c i)

/-- The lanes for which an access is made: the active lanes, or the lead lane alone when the instruction runs once on
the uniform datapath (R53, R280). -/
def Site.accessLanes (c : Site) (g : Guard) (once : Bool) : List Nat :=
  if once then (if c.view.acts g then [c.view.lead] else []) else c.view.active g

/-- The words of a loaded value (R279). -/
def loadWords (ty : LoadTy) (bs : List Byte) : List Word :=
  let w (k : Nat) : Word := ofBits (ofBytesLE ((bs.drop (4 * k)).take 4))
  match ty with
  | .b8 sx => [if sx then ((bs.headD 0).signExtend 32) else ((bs.headD 0).setWidth 32)]
  | .b16 sx => [if sx then (BitVec.ofNat 16 (ofBytesLE bs)).signExtend 32 else ofBits (ofBytesLE bs)]
  | .b32 => [w 0]
  | .b64 => [w 0, w 1]
  | .b128 => [w 0, w 1, w 2, w 3]

/-- The bytes a store takes from its data register (R279). -/
def View.storeBytes (c : View) (l : Nat) (ty : MemTy) (b : Reg) : List Byte :=
  ((List.range ty.span).flatMap fun k => toBytesLE 4 (c.regPlus l b k).toNat).take ty.size

/-- Write a group of words to the destination: in each lane of a vector destination, or once into a uniform one. -/
def View.putWords (c : View) (d : Reg) (ls : List Nat) (f : Nat → List Word) : Regs :=
  match d with
  | .v n => c.putGroup n.val ls f
  | .s n =>
    match ls.head? with
    | none => c.regs
    | some l => ((f l).zipIdx).foldl (fun r p => r.setUni (n.val + p.2) p.1) c.regs

/-- Check 9 of R281 on bytes to be consumed: poison, or an unreachable home (R470). `bad` says which versions are poisoned. A
current version that carries the sheet's own interval tag is a loss of the sheet's state (R430). -/
def State.dataTrap (s : State) (c : Site) (xs : List (Req × Leaf)) (bad : Req × Leaf → Bool) (now_ : Nat → Bool) : Option Trap :=
  (xs.find? fun x => bad x || s.unreach (x.2.phys x.1.va)).map fun x =>
    let pa := x.2.phys x.1.va
    { cause := 16, check := 9, lane := some x.1.lane, addr := x.1.va
      own := bad x && now_ pa && (s.atom pa).itag == some c.sh.ivl.tag }
/-- Check 9 of an access that takes the current version. -/
def State.checkData (s : State) (c : Site) (xs : List (Req × Leaf)) : Option Trap :=
  s.dataTrap c xs (fun x => s.poisoned (x.2.phys x.1.va) x.1.size) fun _ => true
/-- Check 9 of a load at the clock `clk`, on the versions its view time gives it (R131, R430). -/
def State.checkLoad (s : State) (c : Site) (clk : Nat) (xs : List (Req × Leaf)) : Option Trap :=
  let hard := (xs.filter fun x => !x.2.cm).map fun x => x.2.phys x.1.va
  let v := s.viewFrom (s.loadFloor (c.sh.cluster?.getD 0)) clk hard
  s.dataTrap c xs (fun x => if x.2.cm then s.poisoned (x.2.phys x.1.va) x.1.size else s.poisonedAt v (x.2.phys x.1.va) x.1.size)
    fun pa => (s.atom pa).currentAt v

/-- One byte of a load on a software-managed page: the home's, or one the near cache holds (R103). A clean copy of what
the home gave stays in the near cache; an interval whose version the home gives is observed (R429). -/
def State.softByte (s : State) (who : Option Nat) (k key pa : Nat) : Byte × State :=
  let a := s.atom pa
  let home := ((s.rekeyed a.w a.key key pa (s.bytes (pa / 32 * 32) 32))[pa % 32]?).getD restingByte
  match s.nearByte k pa with
  | none => (home, (s.observe a.itag who).putNear k pa none [home])
  | some (b, dirty) =>
    if b = home then (home, (s.observe a.itag who).observe dirty who)
    else if s.free .nearByte % 2 = 0 then (b, s.drew.observe dirty who)
    else (home, if dirty.isSome then s.drew.observe a.itag who else (s.drew.observe a.itag who).putNear k pa none [home])
/-- Bytes of a load on a software-managed page. -/
def State.softBytes (s : State) (who : Option Nat) (k key pa : Nat) : Nat → List Byte × State
  | 0 => ([], s)
  | n + 1 =>
    let (b, s) := s.softByte who k key pa
    let (bs, s) := s.softBytes who k key (pa + 1) n
    (b :: bs, s)

/-- Read translated addresses as one load instruction at the clock `c`: the bytes of each, the view time when a coherent
page is read, and the state with leases extended (R129, R131, R103). -/
def State.loadAll (s : State) (who : Option Nat) (k c : Nat) (xs : List (Req × Leaf)) :
    List (Nat × List Byte) × Option Nat × State :=
  let hard := xs.filter fun x => !x.2.cm
  let pas := hard.map fun x => x.2.phys x.1.va
  let v := s.viewFrom (s.loadFloor k) c pas
  let s1 := if hard.isEmpty then s else ((s.fetchRemote k pas).markReads who v pas).drew
  let (out, s1) := xs.foldl (fun (q : List (Nat × List Byte) × State) x =>
    let pa := x.2.phys x.1.va
    if x.2.cm then
      let (bs, t) := q.2.softBytes who k x.2.key pa x.1.size
      (q.1 ++ [(x.1.lane, bs)], t)
    else (q.1 ++ [(x.1.lane, s.versionAs x.2.key v pa x.1.size)], q.2)) ([], s1)
  (out, if hard.isEmpty then none else some v, s1)

/-- The clock of a lane, or of the whole access, as it stands. -/
def State.clockNow (s : State) (once : Bool) (l : Nat) : Nat := (s.site.map fun c => c.clockAt once l).getD 0

/-- Give one time to every lane of an access, or to every enabled lane when it was made once. -/
def State.giveTimes (s : State) (c : Site) (once : Bool) (ls : List Nat) (t : Nat) : State :=
  if once then s.raiseTo c t else ls.foldl (fun s l => s.giveTime c false l t) s

/-- The greatest clock of the lanes of an access. -/
def Site.clockOver (c : Site) (once : Bool) (ls : List Nat) : Nat := if once then c.clk else maxOf (ls.map (c.clockAt false))

/-- LD (R284). -/
def execLd (g : Guard) (ty : LoadTy) (d a : Reg) (off : Option Word) (s : State) : Host.Outcome State Fault Refusal :=
  let i := Instr.ld g ty d a off
  enterMem i s fun s c =>
    let once := !d.isVec
    let ls := c.accessLanes g once
    let reqs := ls.map fun l => { lane := l, va := c.view.globalAt l a off, size := ty.mem.size, kind := .read : Req }
    orTrap c i (s.checkAccess c.issuer reqs) fun (xs, s') =>
      match s'.checkLoad c (c.clockOver once ls) xs with
      | some t => .next (s'.raise c i t)
      | none =>
        let (out, v, s') := s'.loadAll (some c.sid) (c.sh.cluster?.getD 0) (c.clockOver once ls) xs
        let s' := match v with
          | none => s'
          | some v => s'.giveTimes c once ls v
        let words (l : Nat) : List Word := loadWords ty ((tabGet l out).getD [])
        .next ((s'.putRegs c (c.view.putWords d ls words)).finish c i)

/-- The part of a write that one lane makes at one translated address. -/
def State.part (s : State) (c : Site) (x : Req × Leaf) (op : LaneOp) : LaneWrite × Leaf :=
  ({ lane := x.1.lane, va := x.1.va, pa := x.2.phys x.1.va, key := x.2.key, op := op, home := some (s.homeOf c.sh.ctx x.1.va x.2) }, x.2)

/-- Issue the writes of an instruction: on coherent pages they are performed at their homes later (R130); on
software-managed pages a store's bytes are held dirty in the near cache (R103). A write to a replicated page starts its
conversion (R101). -/
def State.issueParts (s : State) (c : Site) (once soft : Bool) (ps : List (LaneWrite × Leaf)) : State :=
  let s := ps.foldl (fun s p => if p.2.pl = 2 then s.startConvert c.sh.ctx (p.1.va / 65536) else s) s
  let base : PendWrite := { sheet := c.sid, gang := c.gang, ctx := c.sh.ctx, lanes := 0, once := once, dirtyOn := none, tag := c.sh.ivl.tag, parts := [] }
  let mask (ps : List (LaneWrite × Leaf)) : Mask := if once then c.view.lanes else maskOf (ps.map (·.1.lane))
  let hard := ps.filter fun p => !(soft && p.2.cm)
  let near := ps.filter fun p => soft && p.2.cm
  let k := c.sh.cluster?.getD 0
  let s := (if s.dryReplay (some c.sid) then [] else near).foldl (fun s p => match p.1.op with
    | .store bs => s.putNear k p.1.pa (some c.sh.ivl.tag) bs
    | _ => s) s
  let s := s.issueWrite { base with lanes := mask near, dirtyOn := some k, parts := near.map (·.1) }
  s.issueWrite { base with lanes := mask hard, parts := hard.map (·.1) }

/-- ST (R284). -/
def execSt (g : Guard) (ty : MemTy) (a : Reg) (off : Option Word) (b : Reg) (s : State) :
    Host.Outcome State Fault Refusal :=
  let i := Instr.st g ty a off b
  enterMem i s fun s c =>
    let once := !a.isVec && !b.isVec
    let ls := c.accessLanes g once
    let reqs := ls.map fun l => { lane := l, va := c.view.globalAt l a off, size := ty.size, kind := .write : Req }
    orTrap c i (s.checkAccess c.issuer reqs) fun (xs, s') =>
      let data (l : Nat) : List Byte := c.view.storeBytes l ty b
      let s' := s'.issueParts c once true (xs.map fun x => s'.part c x (.store (data x.1.lane)))
      .next ((s'.sign c.sid (xs.map fun x => signatureOf x.1.va 0 ty.size (ofBytesLE (data x.1.lane)))).finish c i)

/-- A write is performed at its home (R129): enabled when it is next in its threads' program order. The lanes of one write may be
performed together or one at a time: a free value chooses (log entry 66). -/
def execWriteAtHome (id : Nat) (s : State) : Host.Outcome State Fault Refusal :=
  if s.nextWrite id then
    let parts := ((tabGet id s.writes).map (·.parts.length)).getD 0
    if parts ≤ 1 then .next (s.performWrite id).reap
    else if s.free .duration % 2 = 0 then .next (s.drew.performWrite id).reap
    else .next (s.drew.writePart id (s.free .duration / 2 % parts)).reap
  else .fault .notEnabled

/-- The folio a handle names: its slot, if the generation is current and the folio open (R122). -/
def Context.openFolio (c : Context) (handle : Nat) : Option Folio :=
  match tabGet (handle % 256) c.folios with
  | none => none
  | some f => if f.st == .opened && f.gen == handle / 256 then some f else none

/-- The folio-overflow checks of ST.F over all lanes (R285): a conflict is reported ahead of the count. -/
def State.folioCheck (s : State) (cx : Nat) (c : Context) (xs : List (Nat × Nat × Nat)) : Option Trap :=
  let conflict (x : Nat × Nat × Nat) : Bool :=
    s.folioElsewhere cx (x.2.2 % 256) x.2.1
      || xs.any fun (y : Nat × Nat × Nat) => y.2.1 / 32 == x.2.1 / 32 && y.2.2 ≠ x.2.2
  let count (x : Nat × Nat × Nat) : Bool :=
    let atoms := ((tabGet (x.2.2 % 256) c.folios).map Folio.atoms).getD []
    (atoms ++ (xs.filter fun (y : Nat × Nat × Nat) => y.2.2 == x.2.2).map fun (y : Nat × Nat × Nat) => y.2.1 / 32).eraseDups.length > 4096
  match xs.find? conflict with
  | some x => some { cause := 13, check := 8, lane := some x.1, info := 5 }
  | none => (xs.find? count).map fun x => { cause := 13, check := 8, lane := some x.1, info := 4 }

/-- ST.F (R285). -/
def execStF (g : Guard) (ty : MemTy) (a : Reg) (off : Option Word) (b h : Reg) (s : State) :
    Host.Outcome State Fault Refusal :=
  let i := Instr.stF g ty a off b h
  enterMem i s fun s c =>
    match tabGet c.sh.ctx s.ctxs with
    | none => .next (s.finish c i)
    | some ctx =>
      let once := !a.isVec && !b.isVec && !h.isVec
      let ls := c.accessLanes g once
      let handle (l : Nat) : Nat := (c.view.reg32 l h).toNat
      match ls.find? fun l => (ctx.openFolio (handle l)).isNone with
      | some l => .next (s.raise c i { cause := 1, check := 2, lane := some l })
      | none =>
        let reqs := ls.map fun l => { lane := l, va := c.view.globalAt l a off, size := ty.size, kind := .write : Req }
        orTrap c i (s.checkAccess c.issuer reqs) fun (xs, s') =>
          match s.folioCheck c.sh.ctx ctx (xs.map fun x => (x.1.lane, x.2.phys x.1.va, handle x.1.lane)) with
          | some t => .next (s'.raise c i { t with addr := ((xs.find? fun x => some x.1.lane == t.lane).map (·.1.va)).getD 0 })
          | none =>
            let s' := xs.foldl (fun s x =>
              let pa := x.2.phys x.1.va
              if s.unreach pa then s.asyncError c.sh.ctx 7 x.1.va 0
              else
                let later := xs.filter fun y => x.1.lane < y.1.lane
                let hit (i : Nat) : Bool := later.any fun y => y.2.phys y.1.va ≤ pa + i && pa + i < y.2.phys y.1.va + ty.size
                let bs := (c.view.storeBytes x.1.lane ty b).zipIdx.map fun p => if hit p.2 then none else some p.1
                let j : FolioStore := { va := x.1.va, pa := pa, key := x.2.key, home := s.homeOf c.sh.ctx x.1.va x.2
                                        clk := c.clockAt once x.1.lane, bytes := bs, tag := c.sh.ivl.tag }
                (s.beforeWrite c.sh.ctx x.1.va).modCtx c.sh.ctx fun q =>
                  { q with folios := tabMod (handle x.1.lane % 256) (fun (f : Folio) => { f with joins := f.joins ++ [j] }) q.folios }) s'
            .next ((s'.noAudit c.sid).finish c i)

/-- Checks 3 and 4 on scratchpad addresses (R92, R95). -/
def checkSpad (h : Sheet) (n : Nat) (xs : List (Nat × Nat)) : Option Trap :=
  match xs.find? fun x => x.2 % n ≠ 0 with
  | some x => some { cause := 3, check := 3, lane := some x.1, addr := x.2 }
  | none => (xs.find? fun x => h.spadSize ≤ x.2).map fun x => { cause := 5, check := 4, lane := some x.1, addr := x.2 }

/-- An access to the sheet's scratchpad by lane and address: checks, the wait on its lines, the check of lost words in what it reads
(R434), and then the act (R97, R286). -/
def spadAccess (i : Instr) (s : State) (c : Site) (n : Nat) (reads : Bool) (xs : List (Nat × Nat)) (k : Host.Outcome State Fault Refusal) :
    Host.Outcome State Fault Refusal :=
  match checkSpad c.sh n xs with
  | some t => .next (s.raise c i t)
  | none =>
    let lines := (xs.map fun x => x.2 / 128).eraseDups
    if !c.hasLines lines then .next (s.waitLines c i lines .free)
    else
      match if reads then c.sh.lostRead n xs else none with
      | some t => .next (s.raise c i t)
      | none => k

/-- LDS (R286). -/
def execLds (g : Guard) (ty : LoadTy) (d : Reg) (a : Option Reg) (off : Option Word) (s : State) :
    Host.Outcome State Fault Refusal :=
  let i := Instr.lds g ty d a off
  enterMem i s fun s c =>
    let once := !d.isVec
    let ls := c.accessLanes g once
    let at_ (l : Nat) : Nat := c.view.localAt l a off
    spadAccess i s c ty.mem.size true (ls.map fun l => (l, at_ l)) <|
      let s' := ls.foldl (fun s l => s.placeLines c once l .read [at_ l / 128]) s
      .next ((s'.putRegs c (c.view.putWords d ls fun l => loadWords ty (c.sh.spadBytes (at_ l) ty.mem.size))).finish c i)

/-- STS (R286). -/
def execSts (g : Guard) (ty : MemTy) (a : Option Reg) (off : Option Word) (b : Reg) (s : State) :
    Host.Outcome State Fault Refusal :=
  let i := Instr.sts g ty a off b
  enterMem i s fun s c =>
    let once := !(a.any Reg.isVec) && !b.isVec
    let ls := c.accessLanes g once
    let at_ (l : Nat) : Nat := c.view.localAt l a off
    spadAccess i s c ty.size false (ls.map fun l => (l, at_ l)) <|
      .next ((ls.foldl (fun s l =>
        (s.placeLines c once l .write [at_ l / 128]).writeSpad c.sid (at_ l) (c.view.storeBytes l ty b)) s).finish c i)

/-- LDC (R287). -/
def execLdc (g : Guard) (ty : LoadTy) (d : Reg) (a : Option Reg) (off : Option Word) (s : State) :
    Host.Outcome State Fault Refusal :=
  let i := Instr.ldc g ty d a off
  enter i s fun c =>
    let ls := c.accessLanes g (!d.isVec)
    let at_ (l : Nat) : Nat := c.view.localAt l a off
    match ls.find? fun l => at_ l % ty.mem.size ≠ 0 with
    | some l => .next (s.raise c i { cause := 3, check := 3, lane := some l, addr := at_ l })
    | none =>
      match ls.find? fun l => at_ l ≥ 65536 with
      | some l => .next (s.raise c i { cause := 5, check := 4, lane := some l, addr := at_ l })
      | none =>
        let const := ((tabGet c.sh.launch s.launches).map (·.const)).getD []
        .next ((s.putRegs c (c.view.putWords d ls fun l => loadWords ty (stGetList 0 (at_ l) ty.mem.size const))).finish c i)

/-! ### Texel footprints -/

/-- The first step of a layout record's check 2 (R281): its address. -/
def checkRecordAddress (h : Sheet) (xs : List (Nat × Nat)) : Option Trap :=
  match xs.find? fun x => x.2 % 128 ≠ 0 with
  | some x => some { cause := 3, check := 2, lane := some x.1, addr := x.2 }
  | none => (xs.find? fun x => h.spadSize ≤ x.2).map fun x => { cause := 5, check := 2, lane := some x.1, addr := x.2 }

/-- Whether a record suits LDQ's type (R289). -/
def texelRecordOk (h : Sheet) (ty : TexTy) (r : Layout) : Bool :=
  r.wf && r.ndim == 2 && !r.mc && (match ty with
    | .f32 => r.esz == 3
    | .f16 | .bf16 => r.esz == 2
    | .nf =>
      let f := NFWord.ofNat (stGet 0 r.fmt h.fmt).toNat
      f.wf && f.sck == 0 && r.esz == (if f.wid ≤ 4 then 0 else 1))

/-- floor of a binary32 value clamped to 32 bits; 0 for NaN (R165). -/
def texelIndex (a : Nat) : Int := toIntSat .rm true 32 (fmt32.read a)
/-- The fraction of a coordinate (R165). Where the exact difference is no binary32 value (a coordinate just below 0.5) it is
rounded to nearest even: the model's choice (log entry 79). -/
def texelFraction (a : Nat) : Nat :=
  if fmt32.isNaN a || fmt32.le 0x4B800000 (a % fmt32.signBit) then 0
  else fmt32.sub .rn a (fmt32.ofInt .rn (texelIndex a))
/-- A coordinate after the address mode; none reads as zero (R166). -/
def texelCoord (m : TexMode) (ext : Nat) (c : Int) : Option Int :=
  if 0 ≤ c && c < ext then some c
  else
    match m with
    | .clamp => some (if c < 0 then 0 else (ext : Int) - 1)
    | .wrap => some (c % ext)
    | .zero => none
/-- A texel decoded to binary32 (R165). A binary32 NaN keeps its bits, where R165 says decoded exactly and R70 canonical: the
model's choice (log entry 77). -/
def texelValue (h : Sheet) (ty : TexTy) (r : Layout) (bs : List Byte) (high : Bool) : Nat :=
  let w := ofBytesLE bs
  match ty with
  | .f32 => w
  | .f16 => fmt16.convert fmt32 .rn w
  | .bf16 => fmtB16.convert fmt32 .rn w
  | .nf =>
    let f := NFWord.ofNat (stGet 0 r.fmt h.fmt).toNat
    f.unpackScaled ((if r.esz = 0 then (if high then w / 16 else w % 16) else w) % 2 ^ f.wid) 127

/-- The four texels of one lane: address and nibble, or none for a zero texel (R165, R166). -/
def texels (m : TexMode) (r : Layout) (i j : Int) : List (Option (Nat × Bool)) :=
  let e0 := (r.dims[0]?.map (·.ext)).getD 1
  let e1 := (r.dims[1]?.map (·.ext)).getD 1
  [(i, j), (i + 1, j), (i, j + 1), (i + 1, j + 1)].map fun p =>
    match texelCoord m e0 p.1, texelCoord m e1 p.2 with
    | some x, some y => some (r.address [x, y])
    | _, _ => none

/-- LDQ (R288, R289, R165, R166). -/
def execLdq (g : Guard) (ty : TexTy) (mode : TexMode) (d : Fin 192) (a b rec : Reg) (s : State) :
    Host.Outcome State Fault Refusal :=
  let i := Instr.ldq g ty mode d a b rec
  enterMem i s fun s c =>
    let ls := c.view.active g
    let at_ (l : Nat) : Nat := (c.view.reg32 l rec).toNat
    match checkRecordAddress c.sh (ls.map fun l => (l, at_ l)) with
    | some t => .next (s.raise c i t)
    | none =>
      let lines := (ls.map fun l => at_ l / 128).eraseDups
      if !c.hasLines lines then .next (s.waitLines c i lines .free)
      else
        let layout (l : Nat) : Layout := Layout.of (c.sh.spadBytes (at_ l) 128)
        match ls.find? fun l => !texelRecordOk c.sh ty (layout l) with
        | some l => .next (s.raise c i { cause := 1, check := 2, lane := some l })
        | none =>
          match c.sh.lostRead 128 (ls.map fun l => (l, at_ l)) with
          | some t => .next (s.raise c i t)
          | none =>
          let ua (l : Nat) (r : Reg) : Nat := fmt32.sub .rn (c.view.reg32 l r).toNat 0x3F000000
          let foot (l : Nat) := texels mode (layout l) (texelIndex (ua l a)) (texelIndex (ua l b))
          let reqs := ls.flatMap fun l => (foot l).filterMap fun t => t.map fun p =>
            { lane := l, va := p.1, size := (layout l).size, kind := .read : Req }
          orTrap c i (s.checkAccess c.issuer reqs) fun (xs, s') =>
            let q := ls.foldl (fun s l => s.placeLines c false l .read [at_ l / 128]) s'
            let clk := maxOf (ls.map (q.clockNow false))
            match q.checkLoad c clk xs with
            | some t => .next (s'.raise c i t)
            | none =>
              let s' := q
              let keyed := xs.zipIdx.map fun p => ({ p.1.1 with lane := p.2 }, p.1.2)
              let (out, v, s') := s'.loadAll (some c.sid) (c.sh.cluster?.getD 0) clk keyed
              let s' := match v with
                | none => s'
                | some v => s'.giveTimes c false ls v
              let value (l : Nat) (t : Option (Nat × Bool)) : Word :=
                match t with
                | none => 0
                | some (va, high) =>
                  let n := (xs.findIdx? fun x => x.1.lane == l && x.1.va == va).getD 0
                  ofBits (texelValue c.sh ty (layout l) ((tabGet n out).getD []) high)
              .next ((s'.putRegs c (c.view.putGroup d.val ls fun l =>
                (foot l).map (value l) ++ [ofBits (texelFraction (ua l a)), ofBits (texelFraction (ua l b))])).finish c i)

/-- PREF (R290): it changes no register, memory, lease or clock. -/
def execPref (g : Guard) (l2 : Bool) (a : Reg) (off : Option Word) (s : State) : Host.Outcome State Fault Refusal :=
  let i := Instr.pref g l2 a off
  enter i s fun c => .next (s.finish c i)

/-- SPTEST (R291). -/
def execSptest (g : Guard) (pd : Fin 8) (a : Option Reg) (off : Option Word) (s : State) :
    Host.Outcome State Fault Refusal :=
  let i := Instr.sptest g pd a off
  enterMem i s fun s c =>
    let ls := c.view.active g
    let at_ (l : Nat) : Nat := c.view.localAt l a off
    match checkSpad c.sh 1 (ls.map fun l => (l, at_ l)) with
    | some t => .next (s.raise c i t)
    | none =>
      let here (l : Nat) : Bool := c.sh.linesFree [at_ l / 128]
      let s' := (ls.filter here).foldl (fun s l => s.placeLines c false l .read [at_ l / 128]) s
      .next ((s'.putRegs c (c.view.putPred g pd here)).finish c i)

end Sys2Proof.Machine
end

