-- ==== Sys2Proof/Machine/Atomics.lean ====
section
/-! DEFINITION. The atomic instructions (R292 to R296). -/

namespace Sys2Proof.Machine

/-- A register's value of 32 or 64 bits. -/
def View.value (c : View) (wide : Bool) (l : Nat) (r : Reg) : Nat :=
  if wide then (c.reg64 l r).toNat else (c.reg32 l r).toNat

/-- Write a value of 32 or 64 bits to a destination, in each of the lanes or once. -/
def View.putValue (c : View) (wide : Bool) (d : Reg) (ls : List Nat) (f : Nat → Nat) : Regs :=
  c.putWords d ls fun l => if wide then [ofBits (f l), ofBits (f l / 4294967296)] else [ofBits (f l)]

/-- The parts of an atomic, a reduction or an ATAGG: each is a request with an ID of its own (R424). -/
def State.requests? (s : State) (c : Site) (ps : List (LaneWrite × Leaf)) : List (LaneWrite × Leaf) :=
  ps.zipIdx.map fun p => ({ p.1.1 with req := some (s.clid (c.sh.cluster?.getD 0), (s.requestNo + p.2) % 4294967296) }, p.1.2)

/-- Whether an operation writes only where a comparison holds (R295): whether it converts a replicated page is known at its home. -/
def LaneOp.compares (op : LaneOp) : Bool :=
  match op with
  | .cas .. => true
  | _ => false

/-- Issue an atomic (R130): it is performed at its home later, and its destination is not available until then (R29). `lanes`
are those whose clocks take its time; `once` says it is one access for all of them. -/
def State.issueAtomic (s : State) (c : Site) (once : Bool) (lanes : Mask) (wide : Bool) (d : Reg) (ps : List (LaneWrite × Leaf)) : State :=
  if ps.isEmpty then s
  else
    let ps : List (LaneWrite × Leaf) := s.requests? c ps
    let s := ps.foldl (fun (s : State) (p : LaneWrite × Leaf) => if p.2.pl = 2 && !p.1.op.compares then s.startConvert c.sh.ctx (p.1.va / 65536) else s) s
    let id := s.nextId
    let s := { s with requestNo := s.requestNo + ps.length }.issueWrite
      { sheet := c.sid, gang := c.gang, ctx := c.sh.ctx, lanes := lanes, once := once, dirtyOn := none, tag := c.sh.ivl.tag, parts := ps.map Prod.fst
        dst := some d, wide := wide }
    (s.modGang c.sid c.gang fun q => { q with awaiting := q.awaiting ++ boardOf [d.group (span wide)] id }).noAudit c.sid

/-- ATOM (R294): performed at the home later (R130). -/
def execAtom (g : Guard) (op : AtomOp) (d a : Reg) (off : Option Word) (b : Reg) (s : State) :
    Host.Outcome State Fault Refusal :=
  let i := Instr.atom g op d a off b
  enterMem i s fun s c =>
    let once := !d.isVec
    let ls := c.accessLanes g once
    let reqs := ls.map fun l => { lane := l, va := c.view.globalAt l a off, size := atomBytes op, kind := .write : Req }
    orTrap c i (s.checkAccess c.issuer reqs) fun (xs, s') =>
      match s'.checkData c xs with
      | some t => .next (s'.raise c i t)
      | none =>
        let ps := xs.map fun x => s'.part c x (.atom op (c.view.value op.wide x.1.lane b))
        .next ((s'.issueAtomic c once (if once then c.view.lanes else maskOf ls) op.wide d ps).finish c i)

/-- ATOMS (R294, R132). -/
def execAtoms (g : Guard) (op : AtomOp) (d : Reg) (a : Option Reg) (off : Option Word) (b : Reg) (s : State) :
    Host.Outcome State Fault Refusal :=
  let i := Instr.atoms g op d a off b
  enterMem i s fun s c =>
    let once := !d.isVec
    let ls := c.accessLanes g once
    let at_ (l : Nat) : Nat := c.view.localAt l a off
    let n := atomBytes op
    spadAccess i s c n true (ls.map fun l => (l, at_ l)) <|
      let (s', out) := ls.foldl (fun (q : State × Tab Nat) l =>
        let old := ofBytesLE (((tabGet c.sid q.1.sheets).map (·.spadBytes (at_ l) n)).getD [])
        let new := toBytesLE n (atomNew op old (c.view.value op.wide l b))
        ((q.1.placeLines c once l .write [at_ l / 128]).writeSpad c.sid (at_ l) new, tabPut l old q.2)) (s, [])
      .next ((s'.putRegs c (c.view.putValue op.wide d ls fun l => (tabGet l out).getD 0)).finish c i)

/-- CAS (R295): performed at the home later (R130). A failed comparison writes nothing. -/
def execCas (g : Guard) (ty : BitTy) (d a : Reg) (off : Option Word) (b n : Reg) (s : State) :
    Host.Outcome State Fault Refusal :=
  let i := Instr.cas g ty d a off b n
  enterMem i s fun s c =>
    let once := !d.isVec
    let wide := ty == .b64
    let ls := c.accessLanes g once
    let reqs := ls.map fun l => { lane := l, va := c.view.globalAt l a off, size := (if wide then 8 else 4), kind := .write : Req }
    orTrap c i (s.checkAccess c.issuer reqs) fun (xs, s') =>
      match s'.checkData c xs with
      | some t => .next (s'.raise c i t)
      | none =>
        let ps := xs.map fun x => s'.part c x (.cas wide (c.view.value wide x.1.lane b) (c.view.value wide x.1.lane n))
        .next ((s'.issueAtomic c once (if once then c.view.lanes else maskOf ls) wide d ps).finish c i)

/-- RED (R294): performed at the home later (R130). -/
def execRed (g : Guard) (op : AtomOp) (a : Reg) (off : Option Word) (b : Reg) (s : State) :
    Host.Outcome State Fault Refusal :=
  let i := Instr.red g op a off b
  enterMem i s fun s c =>
    let once := !a.isVec && !b.isVec
    let ls := c.accessLanes g once
    let reqs := ls.map fun l => { lane := l, va := c.view.globalAt l a off, size := atomBytes op, kind := .write : Req }
    orTrap c i (s.checkAccess c.issuer reqs) fun (xs, s') =>
      let x (l : Nat) : Nat := c.view.value op.wide l b
      let ps := s'.requests? c (xs.map fun q => s'.part c q (.red op (x q.1.lane)))
      let s' := { s' with requestNo := s'.requestNo + ps.length }.issueParts c once false ps
      .next ((s'.sign c.sid (xs.map fun q => signatureOf q.1.va (16 + op.sub) (atomBytes op) (x q.1.lane))).finish c i)

/-- The operation an aggregate combines contributions with (R293, R296). -/
def aggAtom (op : AggOp) : AtomOp :=
  match op with
  | .addI t => .addI t
  | .add64 => .add64
  | .and t => .and t
  | .or t => .or t
  | .xor t => .xor t
/-- The identity of an aggregate (R296). -/
def aggIdentity (op : AggOp) : Nat :=
  match op with
  | .and .b32 => 4294967295
  | .and .b64 => 18446744073709551615
  | _ => 0

/-- Exclusive prefixes of the contributions, and their total (R296). -/
def aggregate (op : AtomOp) (tot : Nat) (x : Nat → Nat) : List Nat → Tab Nat × Nat
  | [] => ([], tot)
  | l :: ls =>
    let (m, t) := aggregate op (atomNew op tot (x l)) x ls
    (tabPut l tot m, t)

/-- ATAGG (R296): one home operation for the gang, performed later (R130). -/
def execAtagg (g : Guard) (op : AggOp) (d : Reg) (a : Fin 64) (off : Option Word) (b : Reg) (s : State) :
    Host.Outcome State Fault Refusal :=
  let i := Instr.atagg g op d a off b
  enterMem i s fun s c =>
    let once := !d.isVec
    let ls := c.accessLanes g once
    match ls.head? with
    | none => .next (s.finish c i)
    | some lead =>
      let req : Req := { lane := lead, va := c.view.globalAt lead (.s a) off, size := (if op.wide then 8 else 4), kind := .write }
      orTrap c i (s.checkAccess c.issuer [req]) fun (xs, s') =>
        match s'.checkData c xs, xs with
        | some t, _ => .next (s'.raise c i t)
        | none, [] => .next (s.finish c i)
        | none, x :: _ =>
          let (pre, tot) := aggregate (aggAtom op) (aggIdentity op) (fun l => c.view.value op.wide l b) ls
          let ps := [s'.part c x (.agg (aggAtom op) tot pre)]
          .next ((s'.issueAtomic c true (if once then c.view.lanes else maskOf ls) op.wide d ps).finish c i)

end Sys2Proof.Machine
end

