-- ==== Sys2Proof/Machine/Bits.lean ====
section
/-! DEFINITION. The logic, shift and bit-field instructions (R232 to R238). -/

namespace Sys2Proof.Machine

/-- AND (R233). -/
def execAnd (g : Guard) (ty : BitTy) (d : Reg) (a b : Operand) (s : State) : Host.Outcome State Fault Refusal :=
  if ty = .b64 then alu2w (.and g ty d a b) g d a b (fun x y => x &&& y) s
  else alu2 (.and g ty d a b) g d a b (fun x y => x &&& y) s
/-- OR (R233). -/
def execOr (g : Guard) (ty : BitTy) (d : Reg) (a b : Operand) (s : State) : Host.Outcome State Fault Refusal :=
  if ty = .b64 then alu2w (.or g ty d a b) g d a b (fun x y => x ||| y) s
  else alu2 (.or g ty d a b) g d a b (fun x y => x ||| y) s
/-- XOR (R233). -/
def execXor (g : Guard) (ty : BitTy) (d : Reg) (a b : Operand) (s : State) : Host.Outcome State Fault Refusal :=
  if ty = .b64 then alu2w (.xor g ty d a b) g d a b (fun x y => x ^^^ y) s
  else alu2 (.xor g ty d a b) g d a b (fun x y => x ^^^ y) s
/-- ANDN (R233). -/
def execAndn (g : Guard) (ty : BitTy) (d : Reg) (a b : Operand) (s : State) : Host.Outcome State Fault Refusal :=
  if ty = .b64 then alu2w (.andn g ty d a b) g d a b (fun x y => x &&& ~~~y) s
  else alu2 (.andn g ty d a b) g d a b (fun x y => x &&& ~~~y) s
/-- ORN (R233). -/
def execOrn (g : Guard) (ty : BitTy) (d : Reg) (a b : Operand) (s : State) : Host.Outcome State Fault Refusal :=
  if ty = .b64 then alu2w (.orn g ty d a b) g d a b (fun x y => x ||| ~~~y) s
  else alu2 (.orn g ty d a b) g d a b (fun x y => x ||| ~~~y) s
/-- SHL (R233). -/
def execShl (g : Guard) (ty : BitTy) (d : Reg) (a b : Operand) (s : State) : Host.Outcome State Fault Refusal :=
  if ty = .b64 then alu2m (.shl g ty d a b) g d a b (fun x n => shiftLeft x n.toNat) s
  else alu2 (.shl g ty d a b) g d a b (fun x n => shiftLeft x n.toNat) s
/-- SHR (R233). -/
def execShr (g : Guard) (ty : BitTy) (d : Reg) (a b : Operand) (s : State) : Host.Outcome State Fault Refusal :=
  if ty = .b64 then alu2m (.shr g ty d a b) g d a b (fun x n => shiftRight x n.toNat) s
  else alu2 (.shr g ty d a b) g d a b (fun x n => shiftRight x n.toNat) s
/-- SAR (R233). -/
def execSar (g : Guard) (ty : BitTy) (d : Reg) (a b : Operand) (s : State) : Host.Outcome State Fault Refusal :=
  if ty = .b64 then alu2m (.sar g ty d a b) g d a b (fun x n => shiftArith x n.toNat) s
  else alu2 (.sar g ty d a b) g d a b (fun x n => shiftArith x n.toNat) s
/-- ROT (R233). -/
def execRot (g : Guard) (ty : BitTy) (d : Reg) (a b : Operand) (s : State) : Host.Outcome State Fault Refusal :=
  if ty = .b64 then alu2m (.rot g ty d a b) g d a b (fun x n => rotate x n.toNat) s
  else alu2 (.rot g ty d a b) g d a b (fun x n => rotate x n.toNat) s
/-- FSH (R234). -/
def execFsh (g : Guard) (left : Bool) (d : Reg) (a b c : Operand) (s : State) : Host.Outcome State Fault Refusal :=
  alu3 (.fsh g left d a b c) g d a b c (funnel left) s
/-- BFX (R235). -/
def execBfx (g : Guard) (ty : IntTy) (d : Reg) (a b : Operand) (s : State) : Host.Outcome State Fault Refusal :=
  alu2 (.bfx g ty d a b) g d a b (bitField ty) s
/-- BFI (R235). -/
def execBfi (g : Guard) (d : Reg) (a b c : Operand) (s : State) : Host.Outcome State Fault Refusal :=
  alu3 (.bfi g d a b c) g d a b c bitInsert s
/-- POPC (R236). -/
def execPopc (g : Guard) (d : Reg) (a : Operand) (s : State) : Host.Outcome State Fault Refusal :=
  alu1 (.popc g d a) g d a (fun x => BitVec.ofNat 32 (popCount x)) s
/-- CLZ (R236). -/
def execClz (g : Guard) (d : Reg) (a : Operand) (s : State) : Host.Outcome State Fault Refusal :=
  alu1 (.clz g d a) g d a (fun x => BitVec.ofNat 32 (leadingZeros x)) s
/-- CTZ (R236). -/
def execCtz (g : Guard) (d : Reg) (a : Operand) (s : State) : Host.Outcome State Fault Refusal :=
  alu1 (.ctz g d a) g d a (fun x => BitVec.ofNat 32 (trailingZeros x)) s
/-- BREV (R236). -/
def execBrev (g : Guard) (d : Reg) (a : Operand) (s : State) : Host.Outcome State Fault Refusal :=
  alu1 (.brev g d a) g d a bitReverse s
/-- BYTESEL (R237). -/
def execBytesel (g : Guard) (d : Reg) (a b c : Operand) (s : State) : Host.Outcome State Fault Refusal :=
  alu3 (.bytesel g d a b c) g d a b c byteSelect s
/-- LEA (R238). -/
def execLea (g : Guard) (scale : Fin 8) (sx : Bool) (d : Reg) (a b : Operand) (s : State) : Host.Outcome State Fault Refusal :=
  alu2m (.lea g scale sx d a b) g d a b (fun x y => scaledAddress x y scale.val sx) s

end Sys2Proof.Machine
end

