-- ==== Sys2Proof/Machine/Phases.lean ====
section
/-! DEFINITION. What arrives at a sheet: barrier arrivals and the completion of a phase (R302), counter increments (R114,
R298), the progress of copies (R113 to R116, R137), and shadow points (R427, R428). -/

namespace Sys2Proof.Machine

/-- Whether a thread waits on barrier `b`. -/
def TState.onBarrier (b : Nat) (t : TState) : Bool :=
  match t with
  | .barrier b' _ => b' == b
  | _ => false

/-- The gangs that wait on a barrier, with their lanes. -/
def Sheet.waitersOn (h : Sheet) (b : Nat) : List (Nat × List Nat) :=
  (h.gangs.map fun p => (p.1, p.2.lanesIn (TState.onBarrier b))).filter fun p => !p.2.isEmpty

/-- Give waiting lanes the predicate and the clock of their release (R302, R303); at S the predicate is kept for ERET
(R386). -/
def Gang.releaseLanes (q : Gang) (ls : List Nat) (clk : Nat) (v : Bool) : Gang :=
  ls.foldl (fun q l =>
    match (tabGet l q.threads).map Thread.st with
    | some (.barrier _ pd) =>
      let q := q.modThread l fun t => { t with clock := max t.clock clk }
      if q.atS && (tabGet l q.entryWait).isSome then { q with relPd := q.relPd ++ [(l, pd, v)] }
      else { q with regs := q.regs.putPred pd [l] fun _ => v }
    | _ => q) q

/-- Release every waiter of a barrier, in waves (R302, R303, R179). -/
def State.releaseBarrier (s : State) (sid b clk : Nat) (v : Bool) : State :=
  match tabGet sid s.sheets with
  | none => s
  | some h =>
    let ws := h.waitersOn b
    let s := ws.foldl (fun s p => s.modGang sid p.1 fun q => q.releaseLanes p.2 clk v) s
    match h.cluster? with
    | none => ws.foldl (fun s p => s.modGang sid p.1 fun q => q.wake p.2) s
    | some k => s.releaseWaves k (ws.map fun p => (sid, p.1, p.2))

/-- Change a barrier of a sheet. -/
def State.modBar (s : State) (sid b : Nat) (f : Barrier → Barrier) : State :=
  s.modSheet sid fun h => { h with bars := tabPut b (f ((tabGet b h.bars).getD {})) h.bars }
/-- A barrier of a sheet. -/
def Sheet.bar (h : Sheet) (b : Nat) : Barrier := (tabGet b h.bars).getD {}

/-- A boundary at which queued asynchronous errors are delivered (R388): now, if one is queued. -/
def State.errBoundary (s : State) (sid : Nat) : State :=
  match tabGet sid s.sheets with
  | none => s
  | some h =>
    let queued := ((tabGet h.ctx s.ctxs).map fun c => !c.errs.isEmpty).getD false
    s.modSheet sid fun h => { h with errAt := if queued then s.now else s.now + 100 * tickUs }

/-- A phase completes when both targets are met (R302): whether it did. -/
def State.tryPhase (s : State) (sid b : Nat) : State × Bool :=
  match tabGet sid s.sheets with
  | none => (s, false)
  | some h =>
    let x := h.bar b
    if x.nt ≤ x.at_ && x.nc ≤ x.ac then
      let s := if (h.waitersOn b).isEmpty then s else s.errBoundary sid
      let s := s.releaseBarrier sid b (x.clk + 1) true
      (s.modBar sid b fun x => { x with at_ := x.at_ - x.nt, ac := x.ac - x.nc, clk := 0 }, true)
    else (s, false)

/-- A copy arrives at a barrier (R302): discarded when the barrier is invalid or expects no copies. -/
def State.copyArrival (s : State) (sid b t : Nat) : State × Bool :=
  match tabGet sid s.sheets with
  | none => (s, false)
  | some h =>
    let x := h.bar b
    if !x.valid || x.nc = 0 then (s, false)
    else (s.modBar sid b fun x => { x with ac := x.ac + 1, clk := max x.clk t }).tryPhase sid b

/-- A completion counter increases (R114, R298); for a sheet set aside the increment is held (R396). -/
def State.countUp (s : State) (sid c t : Nat) : State :=
  s.modSheet sid fun h =>
    match h.home with
    | .on _ =>
      let x := (tabGet c h.counters).getD {}
      { h with counters := tabPut c { count := x.count + 1, cmax := max x.cmax t } h.counters }
    | _ => { h with arrivals := h.arrivals ++ [.counter c t] }

/-! ### Copies -/

/-- Change a copy in flight. -/
def State.modCopy (s : State) (id : Nat) (f : Copy → Copy) : State := { s with copies := tabMod id f s.copies }

/-- The bytes of a global read go where the copy takes them. -/
def Copy.took (cp : Copy) (r : CopyRead) (bs : List Byte) : Copy :=
  if cp.dests.isEmpty then
    { cp with out := cp.out.zipIdx.map fun p => if p.2 = r.dst then { p.1 with bytes := bs } else p.1 }
  else
    match r.high with
    | none => { cp with spad := bs.zipIdx.foldl (fun m p => tabPut (r.dst + p.2) p.1 m) cp.spad }
    | some hi =>
      let b := (bs.headD 0).toNat
      let n := if hi then b / 16 else b % 16
      let put (o : Byte) : Byte := BitVec.ofNat 8 (if r.dst % 2 = 1 then o.toNat % 16 + 16 * n else o.toNat / 16 * 16 + n)
      { cp with spad := tabPut (r.dst / 2) (put ((tabGet (r.dst / 2) cp.spad).getD 0)) cp.spad }

/-- A copy reads its global source at one view time (R137). A version found poisoned meanwhile is not read where the current one is
sound; where that is poisoned too, error 6 is raised (log entry 37). -/
def State.copyRead (s : State) (id : Nat) : State :=
  match tabGet id s.copies with
  | none => s
  | some cp =>
    if cp.reads.isEmpty then s
    else
      let pas := cp.reads.map (·.pa)
      let bad (v : Nat) (r : CopyRead) : Bool := s.poisonedAt v r.pa r.n
      let v := s.viewTime cp.view pas
      let v := if cp.reads.any (bad v) then max v (maxOf (pas.map fun pa => (s.atom pa).w)) else v
      let lost := cp.reads.find? (bad v)
      let cp' := cp.reads.foldl (fun c r => c.took r (s.versionAs r.key v r.pa r.n)) cp
      let s := ((s.markReads (some cp.sheet) v pas).drew).modCopy id fun _ => { cp' with reads := [], view := v, top := max cp'.top v }
      match lost with
      | none => s
      | some r => s.asyncError cp.ctx 6 (r.pa / 32 * 32) 0

/-- The nibbles an element writes of the byte at a physical address. -/
def CopyElem.enAt (e : CopyElem) (pa : Nat) : Nat := if e.pa ≤ pa then (e.live[pa - e.pa]?).getD 0 else 0
/-- Whether two elements both write some nibble of an aligned 4-byte element. -/
def CopyElem.meets (e f : CopyElem) (w : Nat) : Bool :=
  (List.range 4).any fun i => Nat.land (e.enAt (4 * w + i)) (f.enAt (4 * w + i)) ≠ 0
/-- The aligned 4-byte elements of a global element that a list of others writes too. -/
def CopyElem.contested (e : CopyElem) (fs : List CopyElem) : List Nat :=
  ((List.range ((e.pa + e.bytes.length + 3) / 4 - e.pa / 4)).map fun i => e.pa / 4 + i).filter fun w => fs.any fun f => e.meets f w

/-- An aligned 4-byte element that another copy wins is left to it whole (R116). -/
def CopyElem.cede (e : CopyElem) (w : Nat) : CopyElem := { e with ceded := e.ceded ++ [w] }
/-- Where a global element meets one of another copy in flight, one of the two wins each aligned 4-byte element that both
write, and the other writes nothing of it (R116). -/
def State.contestOut (s : State) (id : Nat) (e : CopyElem) : CopyElem × State :=
  s.copies.foldl (fun q p =>
    (if p.1 == id then [] else q.1.contested p.2.out).foldl (fun (q : CopyElem × State) w =>
      if q.2.free .copyWinner % 2 = 0 then (q.1.cede w, q.2.drew)
      else (q.1, q.2.drew.modCopy p.1 fun k => { k with out := k.out.map (·.cede w) })) q) (e, s)
/-- The contributions of an element to the store signature (R437): of each narrow element in its aligned word, or of the whole. -/
def CopyElem.signs (e : CopyElem) : List Nat :=
  let nib (i : Nat) : List Nat :=
    let n := (e.en[i]?).getD 0
    let b := ((e.bytes[i]?).getD 0).toNat
    (if n % 2 = 1 then [signatureOf (e.va + i) 0 0 (b % 16)] else []) ++ (if n / 2 = 1 then [signatureOf (e.va + i) 0 0 (b / 16)] else [])
  let part (i : Nat) : List Nat :=
    if (e.en[i]?).getD 0 = 0 then [] else [signatureOf (e.va + i) 0 e.size (ofBytesLE ((e.bytes.drop i).take e.size))]
  if e.size = 0 then (List.range e.bytes.length).flatMap nib
  else if e.size < 4 then (List.range (e.bytes.length / e.size)).flatMap fun k => part (k * e.size)
  else [signatureOf e.va 0 e.size (ofBytesLE e.bytes)]
/-- Sign what an element of a copy writes; one of an earlier interval stays signed when the present interval is discarded (R431,
R437). -/
def State.signCopy (s : State) (cp : Copy) (cs : List Nat) : State :=
  let s' := s.sign cp.sheet cs
  if ((tabGet cp.sheet s.sheets).map (·.ivl.tag)) == some cp.tag then s'
  else
    let was := ((tabGet cp.sheet s.sheets).map (·.sig)).getD 0
    let is_ := ((tabGet cp.sheet s'.sheets).map (·.sig)).getD 0
    { s' with shadows := tabMod cp.sheet (fun w =>
      { w with sheet := { w.sheet with sig := (w.sheet.sig + (is_ + 18446744073709551616 - was)) % 18446744073709551616 } }) s'.shadows }

/-- A copy's scratchpad source is read at a time that covers the stamps of its lines (R137). -/
def State.mergeSource (s : State) (id : Nat) : State :=
  match tabGet id s.copies with
  | none => s
  | some cp =>
    match tabGet cp.sheet s.sheets with
    | none => s
    | some h =>
      let t := max cp.view (maxOf (cp.srcLines.map h.lineTime))
      (cp.srcLines.foldl (fun s n => s.stampLine cp.sheet n t) s).modCopy id fun c => { c with view := t, top := max c.top t }

/-- A scratchpad word that a copy reads is lost: no gang has consumed it, and rollback or kill is due (R430, R434). -/
def State.copyLoses (s : State) (cp : Copy) (e : CopyElem) : State :=
  s.modSheet cp.sheet fun h =>
    if h.loss.isNone && h.killed.isNone && (e.src.zip e.en).any fun p => p.2 ≠ 0 && (h.lostSpan (p.1.1 / 2) 1 || h.lostSpan (p.1.2 / 2) 1) then
      { h with loss := some none }
    else h
/-- Perform one element of a copy's global destination, number `n`. -/
def State.copyElem (s : State) (id n : Nat) : State :=
  let s := s.mergeSource id
  match tabGet id s.copies with
  | none => s
  | some cp =>
    match cp.out[n]? with
    | none => s
    | some e =>
      let s := s.copyLoses cp e
      let e := ((tabGet cp.sheet s.sheets).map e.settled).getD e
      let (f, s) := (s.signCopy cp e.signs).contestOut id e
      let (s, t) := s.performElem cp f
      s.modCopy id fun c => { c with out := c.out.eraseIdx n, top := max c.top t }
/-- Perform every remaining element. -/
def State.copyOut (s : State) (id : Nat) : Nat → State
  | 0 => s
  | n + 1 => (s.copyElem id 0).copyOut id n

/-- In a sheet two copies write, one of the two wins each aligned 4-byte element, and the other writes nothing of it (R116): the
elements this one loses. -/
def State.contestIn (s : State) (id : Nat) (cp : Copy) (d : CopyDest) : List Nat × State :=
  let mine := (cp.spad.map fun p => p.1 / 4).eraseDups
  s.copies.foldl (fun q p =>
    match if p.1 == id then none else p.2.dests.find? (·.sheet == d.sheet) with
    | none => q
    | some x =>
      (mine.filter fun w => !q.1.contains w && !x.lost.contains w && p.2.spad.any fun y => y.1 / 4 == w).foldl (fun (q : List Nat × State) w =>
        if q.2.free .copyWinner % 2 = 0 then (q.1 ++ [w], q.2.drew)
        else (q.1, q.2.drew.modCopy p.1 fun k => { k with dests := k.dests.map fun y =>
          if y.sheet == d.sheet then { y with lost := y.lost ++ [w] } else y })) q) (d.lost, s)

/-- One inbound copy fewer on a line; it becomes present with the last (R96). -/
def Line.arrived (l : Line) (xs : Bool) : Line :=
  { l with inbound := l.inbound - 1, inXs := l.inXs - (if xs then 1 else 0), present := l.inbound - 1 == 0 }

/-- A copy's box is complete in one destination sheet: bytes, presence, stamps and the arrival (R96, R113, R137). -/
def State.copyInto (s : State) (id : Nat) (cp : Copy) (d : CopyDest) (t : Nat) : State × Bool :=
  let (lost, s) := s.contestIn id cp d
  let s := cp.spad.foldl (fun s p => if lost.contains (p.1 / 4) then s else s.writeSpad d.sheet p.1 [p.2]) s
  let s := s.modSheet d.sheet (·.mend fun a => (tabGet a cp.spad).isSome && !lost.contains (a / 4))
  let s := d.lines.foldl (fun s n =>
    let s := s.modSheet d.sheet fun h => h.putLine n ((h.line n).arrived cp.xs)
    s.stampLine d.sheet n (max t (((tabGet d.sheet s.sheets).map (·.lineTime n)).getD 0))) s
  let s := (s.wakeLines d.sheet).rouse d.sheet
  match d.mbar with
  | none => (s, false)
  | some b => s.copyArrival d.sheet b t

/-- A count that a copy of an earlier interval brings is kept when the present interval is discarded (R427, R431). -/
def State.keepCount (s : State) (cp : Copy) (c t : Nat) : State :=
  if ((tabGet cp.sheet s.sheets).map (·.ivl.tag)) == some cp.tag then s
  else
    let add (x : Counter) : Counter := { count := x.count + 1, cmax := max x.cmax t }
    { s with shadows := tabMod cp.sheet (fun w =>
        { w with sheet := { w.sheet with counters := tabPut c (add ((tabGet c w.sheet.counters).getD {})) w.sheet.counters } }) s.shadows }

/-- An access of a sheet's launch took a logical time (R40). -/
def State.launchTime (s : State) (sid t : Nat) : State :=
  match tabGet sid s.sheets with
  | none => s
  | some h => s.modLaunch h.launch fun l => { l with maxTime := max l.maxTime t }

/-- A copy completes (R114, R137): the sheets whose barrier phase it completed. -/
def State.completeCopy (s : State) (id : Nat) : State × List Nat :=
  let s := s.copyRead id
  let s := s.copyOut id (((tabGet id s.copies).map (·.out.length)).getD 0)
  match tabGet id s.copies with
  | none => (s, [])
  | some cp =>
    let t := cp.top + 1
    let s := if t < timeEnd then s else s.exhaust cp.ctx
    let (s, due) := cp.dests.foldl (fun (q : State × List Nat) d =>
      let (s, b) := q.1.copyInto id cp d t
      (s, if b then q.2 ++ [d.sheet] else q.2)) (s, [])
    let s := { s with copies := tabDel id s.copies }.wakeLines cp.sheet
    let s := s.launchTime cp.sheet t
    (match cp.cnt with
      | none => s
      | some c => (s.countUp cp.sheet c t).keepCount cp c t, due)

/-! ### Shadow points -/

/-- The pins of an interval are released (R428). -/
def State.unpin (s : State) (i : Interval) : State :=
  i.pins.foldl (fun s a =>
    let x := s.atom (32 * a)
    s.putAtom (32 * a) { x with prior := x.prior.map fun p => if p.pin = some i.tag then { p with pin := none } else p }) s

/-- The interval ends, its shadow is written, and a new interval begins (R427). -/
def State.takeShadow (s : State) (sid : Nat) : State :=
  let s := s.drainSheet sid
  match tabGet sid s.sheets with
  | none => s
  | some h =>
    let s := s.unpin h.ivl
    let h := { h with ivl := { tag := s.freshTag } }
    { s with nextId := s.nextId + 1, sheets := tabPut sid h s.sheets, shadows := tabPut sid { sheet := h } s.shadows }

/-- The inbound copies of a sheet. -/
def State.inbound (s : State) (sid : Nat) : Option Nat :=
  (s.copies.find? fun p => p.2.dests.any (·.sheet == sid)).map (·.1)

/-- The shadow points of a list of sheets: inbound copies complete first, and may complete phases of other sheets. -/
def State.shadowGo : Nat → List Nat → State → State
  | 0, _, s => s
  | _, [], s => s
  | n + 1, k :: ks, s =>
    match s.inbound k with
    | some id => let (s, due) := s.completeCopy id; State.shadowGo n (k :: (ks ++ due)) s
    | none => State.shadowGo n ks (s.takeShadow k)
/-- Shadow points (R427). -/
def State.shadowPoints (s : State) (ks : List Nat) : State :=
  s.shadowGo (ks.length + s.copies.length + (s.copies.map fun p => p.2.dests.length).foldl (· + ·) 0 + 1) ks

/-- What a copy does next: read its source, perform one element, or complete (R137). -/
def execCopyCompletion (id : Nat) (s : State) : Host.Outcome State Fault Refusal :=
  match tabGet id s.copies with
  | none => .fault .notEnabled
  | some cp =>
    if !cp.reads.isEmpty then .next (s.copyRead id)
    else if 1 < cp.out.length && s.free .duration % 2 = 1 then
      .next (s.drew.copyElem id (s.free .duration / 2 % cp.out.length)).reap
    else
      let (s', due) := (if 1 < cp.out.length then s.drew else s).completeCopy id
      .next (s'.shadowPoints due).reap

end Sys2Proof.Machine
end

