-- ==== Sys2Proof/Machine/Matrix.lean ====
section
/-! DEFINITION. The matrix unit: MMA and the accumulator and tile-descriptor moves (R313 to R320), MMAT and MVS (R330 to
R332). -/

namespace Sys2Proof.Machine

/-- Replace all 256 elements of a fragment. -/
def Regs.putFrag (r : Regs) (k : Nat) (f : Nat → Word) : Regs :=
  let new := (List.range 256).filterMap fun e => if f e = 0 then none else some (256 * k + e, f e)
  { r with a := r.a.filter (fun p => p.1 < 256 * k) ++ new ++ r.a.filter (fun p => 256 * k + 256 ≤ p.1) }

/-- The numbers a product works with: element width, k extent, and how an element accumulates (R313, R84 to R87). -/
structure Shape where
  ty : MatTy
  b : Nat
  K : Nat
  fa : NFWord
  fb : NFWord
  deriving DecidableEq, Repr

/-- The element width of a type; for .nf that of the format word's containers (R79, R313). -/
def matBits (ty : MatTy) (f : NFWord) : Nat :=
  match ty with
  | .f16 | .bf16 => 16
  | .i8 | .n8 => 8
  | .i4 | .n4 => 4
  | .nf => f.container
/-- The shape of MMA (R313). -/
def Shape.mma (ty : MatTy) (fa fb : NFWord) : Shape :=
  let b := matBits ty fa
  { ty := ty, b := b, K := (if ty == .nf && fa.sck ≠ 0 then fa.block else 256 / b), fa := fa, fb := fb }
/-- Words of one operand. -/
def Shape.words (p : Shape) : Nat := p.K * p.b / 2
/-- Registers of one operand's group at a width (R314). -/
def Shape.group (p : Shape) (W : Nat) : Nat := (p.words + W - 1) / W

/-- The beats of a product: 4 lane cycles but where a block or a tile is shorter (R313, R331). -/
def Shape.beats (p : Shape) : Nat := max 1 ((4 * p.K * p.b + 255) / 256)

/-- The matrix unit begins the beats of a gang's instruction with the first lane cycle of its issue, which has been counted, and those
of a sequencer's with the next (R169; log entry 13), and makes them again when the unit's check fails once (R433): the state,
and the first lane cycle after the last beat. -/
def State.startBeats (s : State) (c : Site) (beats : Nat) : State × Nat :=
  let k := c.sh.cluster?.getD 0
  let begun := match c.agent with | .gang _ => 1 | .seq _ => 0
  let last := ((tabGet k s.clusters).map (·.laneNo)).getD 0 - begun + (if s.free .matrixRetry % 2 = 0 then beats else 2 * beats)
  ((s.modCluster k fun q => { q with occ := q.occ ++ [(last, 6)] }).drew, last)

/-- One element of the product, from its pairs of raw elements in increasing k and the accumulator's bits (R84 to R87). -/
def Shape.dot (p : Shape) (ps : List (Nat × Nat)) (c : Word) : Word :=
  match p.ty with
  | .f16 => ofBits (halfDot fmt16 ps c.toNat)
  | .bf16 => ofBits (halfDot fmtB16 ps c.toNat)
  | .i8 | .i4 => ofBits (intDot true p.b ps c.toNat)
  | .n8 | .n4 => ofBits (intDot false p.b ps c.toNat)
  | .nf => ofBits (nfDot p.fa p.fb ps)

/-- The fragment after a product (R318), from the elements A(i, k) and B(k, j). -/
def Shape.product (p : Shape) (r : Regs) (acc : Nat) (z : Bool) (A B : Nat → Nat → Nat) : Regs :=
  r.putFrag acc fun e =>
    p.dot ((List.range p.K).map fun k => (A (e / 16) k, B k (e % 16))) (if z then 0 else r.acc acc e)

/-- Element k of row i of an operand in registers (R314): B(k, j) is element k of row j. -/
def View.matElem (c : View) (p : Shape) (base i k : Nat) : Nat :=
  let w := i * (p.K * p.b / 32) + k * p.b / 32
  bitsOf (c.regs.vec (base + w / c.W) (w % c.W)).toNat (k % (32 / p.b) * p.b) p.b

/-- Whether a gang may not touch its accumulators: it is the bound gang of a matrix sequencer that is not Idle (R329). -/
def Site.accBound (c : Site) : Bool := c.sh.mseq.starter == some c.gang && c.sh.mseq.st != .idle

/-- Whether two format words can be multiplied (R317). -/
def formatsAgree (a b : NFWord) : Bool := a.container == b.container && a.sck == b.sck && a.blk == b.blk

/-- The format-divergence trap of a voted word (R77, R317, R384). -/
def divergence (c : Site) (g : Guard) (r : Reg) (second : Bool) : Option Trap :=
  let ls := c.view.active g
  let word (l : Nat) : Word := c.view.regPlus l r (if second then 1 else 0)
  match ls.head? with
  | none => none
  | some l0 => (ls.find? fun l => word l != word l0).map fun l =>
    { cause := 7, check := 2, info := l0 + 256 * l + (if second then 65536 else 0) }

/-- MMA (R316 to R318). -/
def execMma (g : Guard) (ty : MatTy) (acc : Fin 16) (z : Bool) (a b : Fin 192) (f : Option Reg) (s : State) :
    Host.Outcome State Fault Refusal :=
  let i := Instr.mma g ty acc z a b f
  enterGang i g s fun c =>
    let word (n : Nat) : NFWord := NFWord.ofNat ((f.map fun r => c.view.regPlus c.view.lead r n).getD 0).toNat
    let p := Shape.mma ty (word 0) (word 1)
    let fits := a.val + p.group c.sh.W ≤ c.sh.nv && b.val + p.group c.sh.W ≤ c.sh.nv
    if c.accBound then .next (s.raise c i (Trap.illegal 2))
    else
      match f.bind fun r => (divergence c g r false).or (divergence c g r true) with
      | some t => .next (s.raise c i t)
      | none =>
        if ty == .nf && !(p.fa.wf && p.fb.wf && formatsAgree p.fa p.fb && fits) then .next (s.raise c i (Trap.illegal 2))
        else if c.lost c.view.enabled [(.v a.val, p.group c.sh.W), (.v b.val, p.group c.sh.W)] then
          .next (s.raise c i (lostData (some c.view.lead)))
        else
          let r := p.product c.view.regs acc.val z (c.view.matElem p a.val) fun k j => c.view.matElem p b.val j k
          let (s, last) := s.startBeats c p.beats
          let s := (s.putRegs c r).modGang c.sid c.gang fun q => { q with board := q.board ++ boardOf [(.a acc.val, 1)] last }
          .next (s.finish c i)

/-- A form that names an accumulator and moves it within the gang's registers (R319, R329). -/
def accMove (i : Instr) (g : Guard) (s : State) (f : View → Regs) : Host.Outcome State Fault Refusal :=
  enterGang i g s fun c =>
    if c.accBound then .next (s.raise c i (Trap.illegal 2)) else .next ((s.putRegs c (f c.view)).finish c i)

/-- ACCZ (R320). -/
def execAccz (g : Guard) (k : Fin 16) (s : State) : Host.Outcome State Fault Refusal :=
  accMove (.accz g k) g s fun v => v.regs.putFrag k.val fun _ => 0
/-- ACCRD.v (R320, R315). -/
def execAccrdV (g : Guard) (k : Fin 16) (d : Fin 192) (s : State) : Host.Outcome State Fault Refusal :=
  accMove (.accrdV g k d) g s fun v => v.putGroup d.val v.enabled fun l =>
    (List.range (256 / v.W)).map fun n => v.regs.acc k.val (n * v.W + l)
/-- ACCWR.v (R320, R315). -/
def execAccwrV (g : Guard) (k : Fin 16) (a : Fin 192) (s : State) : Host.Outcome State Fault Refusal :=
  accMove (.accwrV g k a) g s fun v => v.regs.putFrag k.val fun e => v.regs.vec (a.val + e / v.W) (e % v.W)

/-- The checks and the wait of a `.sp` form (R319, R320): its block's address and eight lines; of a form that reads it, its lost
words (R434). -/
def accSpad (i : Instr) (g : Guard) (a : Option Reg) (off : Option Word) (reads : Bool) (s : State)
    (act : State → Site → Nat → List Nat → State) : Host.Outcome State Fault Refusal :=
  enterMemGang i g s fun s c =>
    let at_ := c.view.localAt c.view.lead a off
    if c.accBound then .next (s.raise c i (Trap.illegal 2))
    else if at_ % 128 ≠ 0 then .next (s.raise c i { cause := 3, check := 3, addr := at_ })
    else if c.sh.spadSize < at_ + 1024 then .next (s.raise c i { cause := 5, check := 4, addr := at_ })
    else
      let lines := spanLines at_ 1024
      if !c.hasLines lines then .next (s.waitLines c i lines .free)
      else if reads && c.sh.lostSpan at_ 1024 then .next (s.raise c i (lostData (some c.view.lead) at_))
      else .next ((act s c at_ lines).finish c i)

/-- ACCRD.sp (R320). -/
def execAccrdSp (g : Guard) (k : Fin 16) (a : Option Reg) (off : Option Word) (s : State) :
    Host.Outcome State Fault Refusal :=
  accSpad (.accrdSp g k a off) g a off false s fun s c at_ lines =>
    (s.placeLines c true c.view.lead .write lines).writeSpad c.sid at_
      ((List.range 256).flatMap fun e => toBytesLE 4 (c.view.regs.acc k.val e).toNat)
/-- ACCWR.sp (R320). -/
def execAccwrSp (g : Guard) (k : Fin 16) (a : Option Reg) (off : Option Word) (s : State) :
    Host.Outcome State Fault Refusal :=
  accSpad (.accwrSp g k a off) g a off true s fun s c at_ lines =>
    (s.placeLines c true c.view.lead .read lines).putRegs c
      (c.view.regs.putFrag k.val fun e => ofBits (ofBytesLE (c.sh.spadBytes (at_ + 4 * e) 4)))
/-- ACCRD.t (R320). -/
def execAccrdT (g : Guard) (t : Fin 8) (d : Fin 64) (s : State) : Host.Outcome State Fault Refusal :=
  let i := Instr.accrdT g t d
  enterGang i g s fun c =>
    let w := c.view.regs.tile t.val
    .next ((s.putRegs c ((c.view.regs.setUni d.val (w.setWidth 32)).setUni (d.val + 1) (w.extractLsb' 32 32))).finish c i)
/-- ACCWR.t (R320, R58). -/
def execAccwrT (g : Guard) (t : Fin 8) (a : Fin 64) (s : State) : Host.Outcome State Fault Refusal :=
  let i := Instr.accwrT g t a
  enterGang i g s fun c => .next ((s.putRegs c (c.view.regs.setTile t.val (c.view.upair a))).finish c i)

/-! ### The matrix sequencer -/

/-- The offset an engine instruction adds to a tile's BASE. -/
def View.tileOfs (c : View) (o : Option (Fin 64)) : Nat := (o.map fun n => (c.regs.uni n.val).toNat).getD 0
/-- A tile named by descriptor and offset. -/
def View.tileOf (c : View) (t : Fin 8) (o : Option (Fin 64)) : Tile := Tile.of (c.regs.tile t.val) (c.tileOfs o)

/-- The registers of the sequencer's bound gang (R329). -/
def Site.boundRegs (c : Site) : Regs := ((c.sh.mseq.starter.bind fun g => tabGet g c.sh.gangs).map (·.regs)).getD {}
/-- Write the registers of the bound gang. -/
def State.putBound (s : State) (c : Site) (r : Regs) : State :=
  match c.sh.mseq.starter with
  | none => s
  | some g => s.modGang c.sid g fun q => { q with regs := r }

/-- The rows of a tile as spans of its scratchpad. -/
def Tile.spans (t : Tile) : List (Nat × Nat) := (List.range (t.rows + 1)).map fun r => (t.rowAt r, t.rlen)
/-- An engine instruction on tiles: its checks, the wait on its lines, the lost words of the tiles it reads (R434), its beats and its act
(R97, R136, R331, R332). -/
def onTiles (i : Instr) (g : Guard) (s : State) (ok : Site → Bool) (lines : Site → List Nat) (reads : Site → List Tile) (beats : Site → Nat)
    (act : State → Site → State) : Host.Outcome State Fault Refusal :=
  enterMemGang i g s fun s c =>
    if !ok c then .next (s.raise c i (Trap.illegal 2))
    else if !c.hasLines (lines c) then .next (s.waitLines c i (lines c) .free)
    else if c.sh.lostSpans ((reads c).flatMap Tile.spans) then .next (s.raise c i (lostData none))
    else .next ((act (s.startBeats c (beats c)).1 c).finish c i)

/-- Element k of a tile's row: width `b` bits, the low nibble first (R331). -/
def Sheet.tileElem (h : Sheet) (t : Tile) (b r k : Nat) : Nat :=
  if b = 4 then bitsOf (h.spadByte (t.rowAt r + k / 2)).toNat (k % 2 * 4) 4
  else ofBytesLE (h.spadBytes (t.rowAt r + k * (b / 8)) (b / 8))

/-- The k extent MMAT accepts (R331). -/
def Shape.extentOk (p : Shape) : Bool :=
  match p.ty with
  | .f16 | .bf16 => p.K % 4 == 0
  | .nf => if p.fa.sck = 0 then p.K ≤ 128 else p.K == p.fa.block
  | _ => true

/-- MMAT (R330, R331). -/
def execMmat (g : Guard) (ty : MatTy) (acc : Fin 16) (z : Bool) (ta tb : Fin 8) (oa ob : Option (Fin 64)) (s : State) :
    Host.Outcome State Fault Refusal :=
  let A (c : Site) : Tile := c.view.tileOf ta oa
  let B (c : Site) : Tile := c.view.tileOf tb ob
  let word (c : Site) (t : Tile) : NFWord := NFWord.ofNat (stGet 0 t.fmt c.sh.fmt).toNat
  let shape (c : Site) : Shape :=
    let b := matBits ty (word c (A c))
    { ty := ty, b := b, K := 8 * (A c).rlen / b, fa := word c (A c), fb := word c (B c) }
  onTiles (.mmat g ty acc z ta tb oa ob) g s
    (fun c => (A c).ok c.sh && (B c).ok c.sh && (A c).rows == 15 && (B c).rows == 15 && (A c).rlen == (B c).rlen
      && acc.val < c.sh.na && !(z && ty == .nf) && (ty != .nf || formatsAgree (word c (A c)) (word c (B c))) && (shape c).extentOk)
    (fun c => ((A c).lines ++ (B c).lines).eraseDups) (fun c => [A c, B c]) (fun c => (shape c).beats)
    fun s c =>
      let p := shape c
      let s := s.placeLines c true 0 .read (((A c).lines ++ (B c).lines).eraseDups)
      s.putBound c (p.product c.boundRegs acc.val z (c.sh.tileElem (A c) p.b) fun k j => c.sh.tileElem (B c) p.b j k)

/-- The tile a data form of MVS uses (R332). -/
def mvsTileOk (c : Site) (t : Tile) (rlen : Nat) : Bool := t.ok c.sh && t.rows == 15 && t.rlen == rlen

/-- MVS.scale (R332, R86). -/
def execMvsScale (g : Guard) (k p : Fin 16) (ta tb : Fin 8) (ofs : Option (Fin 64)) (s : State) :
    Host.Outcome State Fault Refusal :=
  let A (c : Site) : Tile := c.view.tileOf ta ofs
  let B (c : Site) : Tile := c.view.tileOf tb none
  onTiles (.mvsScale g k p ta tb ofs) g s
    (fun c => (A c).ok c.sh && (B c).ok c.sh && 16 ≤ (A c).rlen && 16 ≤ (B c).rlen)
    (fun c => ((A c).lines ++ (B c).lines).eraseDups) (fun c => [A c, B c]) (fun _ => 2)
    fun s c =>
      let r := c.boundRegs
      let byte (t : Tile) (n : Nat) : Nat := (c.sh.spadByte (t.rowAt 0 + n)).toNat
      (s.placeLines c true 0 .read (((A c).lines ++ (B c).lines).eraseDups)).putBound c
        (r.putFrag k.val fun e =>
          ofBits (scaleStep (r.acc p.val e).toNat (byte (A c) (e / 16)) (byte (B c) (e % 16)) (r.acc k.val e).toNat))

/-- Store a fragment to a tile, `n` bytes an element (R332). -/
def mvsStore (i : Instr) (g : Guard) (k : Fin 16) (ta : Fin 8) (ofs : Option (Fin 64)) (n : Nat) (f : Word → Nat)
    (s : State) : Host.Outcome State Fault Refusal :=
  let A (c : Site) : Tile := c.view.tileOf ta ofs
  onTiles i g s (fun c => mvsTileOk c (A c) (16 * n)) (fun c => (A c).lines) (fun _ => []) (fun _ => 2) fun s c =>
    (List.range 16).foldl (fun s r =>
      s.writeSpad c.sid ((A c).rowAt r) ((List.range 16).flatMap fun j => toBytesLE n (f (c.boundRegs.acc k.val (16 * r + j)))))
      (s.placeLines c true 0 .write (A c).lines)
/-- MVS.st (R332). -/
def execMvsSt (g : Guard) (k : Fin 16) (ta : Fin 8) (ofs : Option (Fin 64)) (s : State) :
    Host.Outcome State Fault Refusal := mvsStore (.mvsSt g k ta ofs) g k ta ofs 4 BitVec.toNat s
/-- MVS.stbf (R332). -/
def execMvsStbf (g : Guard) (k : Fin 16) (ta : Fin 8) (ofs : Option (Fin 64)) (s : State) :
    Host.Outcome State Fault Refusal :=
  mvsStore (.mvsStbf g k ta ofs) g k ta ofs 2 (fun w => fmt32.convert fmtB16 .rn w.toNat) s
/-- MVS.ld (R332). -/
def execMvsLd (g : Guard) (k : Fin 16) (ta : Fin 8) (ofs : Option (Fin 64)) (s : State) :
    Host.Outcome State Fault Refusal :=
  let A (c : Site) : Tile := c.view.tileOf ta ofs
  onTiles (.mvsLd g k ta ofs) g s (fun c => mvsTileOk c (A c) 64) (fun c => (A c).lines) (fun c => [A c]) (fun _ => 2) fun s c =>
    (s.placeLines c true 0 .read (A c).lines).putBound c
      (c.boundRegs.putFrag k.val fun e => ofBits (ofBytesLE (c.sh.spadBytes ((A c).rowAt (e / 16) + 4 * (e % 16)) 4)))

end Sys2Proof.Machine
end

