-- ==== Sys2Proof/Machine/Engines.lean ====
section
/-! DEFINITION. Sequencers (R321 to R326), owner flips (R336) and residency handles (R106, R337). -/

namespace Sys2Proof.Machine

/-- The code region of a sequencer: first offset and length in bytes (R197). -/
def Launch.region (l : Launch) (k : SeqKind) : Nat × Nat :=
  match k with
  | .m => (l.mseq, 32 * l.mseqN)
  | .c => (l.cseq, 32 * l.cseqN)
/-- Whether an offset lies in a region. -/
def inRegion (r : Nat × Nat) (a : Nat) : Bool := r.1 ≤ a && a < r.1 + r.2

/-- The sequencer as FORK starts it (R323). -/
def Seq.forked (q : Seq) (r : Regs) (gang clk : Nat) (target : Word) : Seq :=
  { st := .running, pc := target, clock := max q.clock clk, starter := some gang, issuedAt := q.issuedAt
    regs := { s := r.s.filter fun p => p.1 < 16, t := r.t } }

/-- FORK (R323). -/
def forkSeq (i : Instr) (g : Guard) (k : SeqKind) (disp : Word) (s : State) : Host.Outcome State Fault Refusal :=
  enterMemGang i g s fun s c =>
    let r := ((tabGet c.sh.launch s.launches).map (·.region k)).getD (0, 0)
    let target := c.pc + disp
    if r.2 = 0 || !inRegion r target.toNat || (c.sh.seq k).st != .idle then .next (s.raise c i (Trap.illegal 2))
    else .next ((s.modSheet c.sid (·.modSeq k fun q => q.forked c.view.regs c.gang c.clk target)).finish c i)
/-- FORK.m (R323). -/
def execForkM (g : Guard) (disp : Word) (s : State) : Host.Outcome State Fault Refusal := forkSeq (.forkM g disp) g .m disp s
/-- FORK.c (R323). -/
def execForkC (g : Guard) (disp : Word) (s : State) : Host.Outcome State Fault Refusal := forkSeq (.forkC g disp) g .c disp s

/-- RDV of a thread (R324). -/
def execRdvThread (g : Guard) (which : SeqKind) (d : Fin 64) (s : State) : Host.Outcome State Fault Refusal :=
  let i := Instr.rdvThread g which d
  enterMemGang i g s fun s c =>
    let q := c.sh.seq which
    let give (v : Word) : State := (s.putRegs c (c.view.regs.setUni d.val v)).raiseTo c q.clock
    match q.st with
    | .idle => .next ((give 0).finish c i)
    | .running => .next (s.waitIn c (.seq which d))
    | .parked =>
      .next (((give 1).modSheet c.sid fun h => (h.releaseRdv which 1).modSeq which fun q => { q with st := .running }).finish c i)
    | .faulted => .next ({ s.deliverHeld c.sid which (some c.gang) with issue := none }.reap)

/-- RDV of a sequencer (R324): waiting gangs meet it at once; with none it is Parked, or Idle when no thread is left. -/
def execRdvSequencer (g : Guard) (s : State) : Host.Outcome State Fault Refusal :=
  let i := Instr.rdvSequencer g
  enterGang i g s fun c =>
    match c.agent with
    | .gang _ => .next (s.raise c i (Trap.illegal 2))
    | .seq k =>
      let met := c.sh.gangs.any fun p => !(p.2.lanesIn (TState.onSeq k)).isEmpty
      if met then .next ((s.modSheet c.sid (·.releaseRdv k 1)).finish c i)
      else
        let s := (s.modSheet c.sid (·.modSeq k fun q => { q with st := .parked })).finish c i
        .next (if c.sh.allExited then s.modSheet c.sid (·.seqIdle k) else s)

/-- OWN (R336). -/
def flipOwner (i : Instr) (g : Guard) (eng : Bool) (t : Fin 8) (ofs : Option (Fin 64)) (s : State) :
    Host.Outcome State Fault Refusal :=
  enterMemGang i g s fun s c =>
    let tile := c.view.tileOf t ofs
    if !tile.ok c.sh then .next (s.raise c i (Trap.illegal 2))
    else
      let lines := tile.lines
      if !s.linesMeet c.sid c.sh c.eng lines .idle then .next (s.waitLines c i lines .idle)
      else
        let (s, top) := lines.foldl (fun (q : State × Nat) n =>
          let (s, t) := q.1.placeLine c.sid c.sh.ctx n c.clk .write
          (s.modSheet c.sid fun h => h.putLine n { h.line n with eng := eng }, max q.2 t)) (s, c.clk)
        .next (((s.wakeLines c.sid).raiseTo c top).finish c i)
/-- OWN.eng (R336). -/
def execOwnEng (g : Guard) (t : Fin 8) (ofs : Option (Fin 64)) (s : State) : Host.Outcome State Fault Refusal :=
  flipOwner (.ownEng g t ofs) g true t ofs s
/-- OWN.thr (R336). -/
def execOwnThr (g : Guard) (t : Fin 8) (ofs : Option (Fin 64)) (s : State) : Host.Outcome State Fault Refusal :=
  flipOwner (.ownThr g t ofs) g false t ofs s

/-! ### Residency handles -/

/-- A RESID instruction: what it does to the context's handles, and the value it returns (R337); `drew` when that takes a
free choice. -/
def residency (i : Instr) (g : Guard) (d : Fin 64) (s : State) (drew : Bool) (f : View → Context → Context × Nat) :
    Host.Outcome State Fault Refusal :=
  enterGang i g s fun c =>
    match tabGet c.sh.ctx s.ctxs with
    | none => .next (s.finish c i)
    | some ctx =>
      let (ctx, v) := f c.view ctx
      let s := (if drew then s.drew else s).modCtx c.sh.ctx fun _ => ctx
      .next ((s.putRegs c (c.view.regs.setUni d.val (BitVec.ofNat 32 v))).finish c i)

/-- RESID.open (R337): which free handle is returned is free. -/
def execResidOpen (g : Guard) (prio : Fin 4) (d a b : Fin 64) (s : State) : Host.Outcome State Fault Refusal :=
  residency (.residOpen g prio d a b) g d s true fun v ctx =>
    let base := (v.upair a).toNat
    let len := (v.upair b).toNat
    if len = 0 || 281474976710656 < base + len then (ctx, 0xFFFFFFFE)
    else
      let free := (List.range 1024).filter fun n => (tabGet n ctx.handles).isNone
      match free[s.free .placement % free.length]? with
      | none => (ctx, 0xFFFFFFFF)
      | some n => ({ ctx with handles := tabPut n { base := base, len := len, prio := prio.val } ctx.handles }, n)
/-- RESID.prio (R337). -/
def execResidPrio (g : Guard) (prio : Fin 4) (d a : Fin 64) (s : State) : Host.Outcome State Fault Refusal :=
  residency (.residPrio g prio d a) g d s false fun v ctx =>
    let n := (v.regs.uni a.val).toNat
    match tabGet n ctx.handles with
    | none => (ctx, 0xFFFFFFFD)
    | some h => ({ ctx with handles := tabPut n { h with prio := prio.val } ctx.handles }, 0)
/-- RESID.close (R337). -/
def execResidClose (g : Guard) (d a : Fin 64) (s : State) : Host.Outcome State Fault Refusal :=
  residency (.residClose g d a) g d s false fun v ctx =>
    let n := (v.regs.uni a.val).toNat
    match tabGet n ctx.handles with
    | none => (ctx, 0xFFFFFFFD)
    | some _ => ({ ctx with handles := tabDel n ctx.handles }, 0)

end Sys2Proof.Machine
end

