-- ==== Sys2Proof/Machine/Copies.lean ====
section
/-! DEFINITION. Lane copies and tensor copies (R107 to R113, R333 to R335). -/

namespace Sys2Proof.Machine

/-- Start a copy: presence clears on every destination line, whose inbound count rises (R96). -/
def State.startCopy (s : State) (c : Site) (cp : Copy) : State :=
  let s := cp.dests.foldl (fun s d => s.modSheet d.sheet fun h => d.lines.foldl (fun h n =>
    let l := h.line n
    h.putLine n { l with present := false, inbound := l.inbound + 1, inXs := l.inXs + (if cp.xs then 1 else 0) }) h) s
  { s with copies := tabPut s.nextId { cp with tag := c.sh.ivl.tag } s.copies, nextId := s.nextId + 1 }

/-- The trap of the lower lane; of the first on a tie. -/
def lowerLane (a b : Option Trap) : Option Trap :=
  match a, b with
  | some x, some y => if y.lane.getD 0 < x.lane.getD 0 then some y else some x
  | some x, none => some x
  | none, y => y

/-- Checks 3 to 7 on the global and the scratchpad addresses of a lane copy (R281, R333). -/
def State.checkCopy (s : State) (c : Site) (n : Nat) (globals : List Req) (locals : List (Nat × Nat)) :
    Except (Trap × State) (List (Req × Leaf) × State) :=
  let bad (cause check : Nat) (p : Nat → Bool) : Option Trap :=
    (locals.find? fun x => p x.2).map fun x => { cause := cause, check := check, lane := some x.1, addr := x.2 }
  match lowerLane (firstFail globals 3 3 (fun _ => 0) fun r => r.va % n == 0) (bad 3 3 fun a => a % n ≠ 0) with
  | some t => .error (t, s)
  | none =>
    match lowerLane (firstFail globals 4 4 (fun _ => 0) fun r => inSpan r.va) (bad 5 4 fun a => c.sh.spadSize ≤ a) with
    | some t => .error (t, s)
    | none => s.checkAccess c.issuer globals
where
  /-- Whether an address lies in the 48-bit space (R92). -/
  inSpan (a : Nat) : Bool := a < 281474976710656

/-- Nibble enables that leave the bytes of later lanes alone (R105). -/
def enables (va n : Nat) (later : List Nat) : List Nat :=
  (List.range n).map fun k => if later.any fun b => b ≤ va + k && va + k < b + n then 0 else 3

/-- The bytes of CPL's size. -/
def cplBytes (z : CplSize) : Nat :=
  match z with
  | .b4 => 4
  | .b8 => 8
  | .b16 => 16

/-- A lane's destination and source addresses of CPL (R333). -/
structure CplLane where
  lane : Nat
  src : Nat
  dst : Nat
  deriving DecidableEq, Repr

/-- The copy a CPL issues, from its lanes, their translated addresses and the homes of what it writes (R99, R107, R334). -/
def cplCopy (c : Site) (dir : CplDir) (n clk : Nat) (ls : List CplLane) (leaf : Nat → Option Leaf) (home : Nat → Leaf → Nat) : Copy :=
  let base : Copy := { ctx := c.sh.ctx, sheet := c.sid, issue := clk, view := clk, top := clk }
  let pa (a : Nat) : Nat := ((leaf a).map (·.phys a)).getD 0
  let key (a : Nat) : Nat := ((leaf a).map (·.key)).getD 0
  let at_ (a : Nat) : Option Nat := (leaf a).map (home a)
  let later (k : Nat) : List Nat := (ls.drop (k + 1)).map (·.dst)
  let xs := ls.all fun l => (leaf l.src).any (·.xs)
  match dir with
  | .gs =>
    let lines := (ls.map fun l => l.dst / 128).eraseDups
    { base with
      reads := ls.map fun l => { va := l.src, pa := pa l.src, key := key l.src, n := n, high := none, dst := l.dst }
      dests := [{ sheet := c.sid, lines := lines, mbar := none }]
      xs := xs }
  | .sg k =>
    { base with
      out := ls.zipIdx.map fun l => { va := l.1.dst, pa := pa l.1.dst, key := key l.1.dst, bytes := List.replicate n 0
                                      en := enables l.1.dst n (later l.2), home := at_ l.1.dst, size := n
                                      src := (List.range n).map fun i => (2 * (l.1.src + i), 2 * (l.1.src + i) + 1) }
      srcLines := (ls.map fun l => l.src / 128).eraseDups
      cnt := some k.val }
  | .gg k =>
    { base with
      reads := ls.zipIdx.map fun l => { va := l.1.src, pa := pa l.1.src, key := key l.1.src, n := n, high := none, dst := l.2 }
      out := ls.zipIdx.map fun l => { va := l.1.dst, pa := pa l.1.dst, key := key l.1.dst, bytes := List.replicate n 0
                                      en := enables l.1.dst n (later l.2), home := at_ l.1.dst, size := n }
      cnt := some k.val }

/-- The addresses of one lane of CPL. -/
def cplLane (v : View) (dir : CplDir) (dst src : Reg) (l : Nat) : CplLane :=
  let g (r : Reg) : Nat := (v.reg64 l r).toNat
  let p (r : Reg) : Nat := (v.reg32 l r).toNat
  match dir with
  | .gs => { lane := l, src := g src, dst := p dst }
  | .sg _ => { lane := l, src := p src, dst := g dst }
  | .gg _ => { lane := l, src := g src, dst := g dst }

/-- CPL (R333, R334). -/
def execCpl (g : Guard) (dir : CplDir) (size : CplSize) (dst src : Reg) (s : State) : Host.Outcome State Fault Refusal :=
  let i := Instr.cpl g dir size dst src
  enterMem i s fun s c =>
    let n := cplBytes size
    let once := !dst.isVec && !src.isVec
    let ls := (c.accessLanes g once).map (cplLane c.view dir dst src)
    let rd (l : CplLane) : Req := { lane := l.lane, va := l.src, size := n, kind := .read }
    let wr (l : CplLane) : Req := { lane := l.lane, va := l.dst, size := n, kind := .write }
    let globals := match dir with
      | .gs => ls.map rd
      | .sg _ => ls.map wr
      | .gg _ => ls.flatMap fun l => [rd l, wr l]
    let locals := match dir with
      | .gs => ls.map fun l => (l.lane, l.dst)
      | .sg _ => ls.map fun l => (l.lane, l.src)
      | .gg _ => []
    orTrap c i (s.checkCopy c n globals locals) fun (xs, s') =>
      match s'.checkData c (xs.filter fun x => x.1.kind == .read) with
      | some t => .next (s'.raise c i t)
      | none =>
        let lines := (locals.map fun x => x.2 / 128).eraseDups
        let need : LineNeed := match dir with | .gs => .owned | _ => .free
        if !s'.linesMeet c.sid c.sh c.eng lines need then .next (s'.waitLines c i lines need)
        else if ls.isEmpty then .next (s'.finish c i)
        else
          let leaf (a : Nat) : Option Leaf := (xs.find? fun x => x.1.va == a).map (·.2)
          let id := s'.nextId
          let s' := (s'.startCopy c (cplCopy c dir n (c.clockOver once (ls.map (·.lane))) ls leaf (s'.homeOf c.sh.ctx))).mergeSource id
          let s' := match dir with
            | .sg _ => s'.pinDown c.sid
            | _ => s'
          .next (s'.finish c i)

/-! ### Tensor copies -/

/-- Elements of the box along dimension d ≥ 1. -/
def Layout.boxOf (r : Layout) (d : Nat) : Nat := if d < r.ndim then ((r.dims[d]?.map (·.box)).getD 0) + 1 else 1
/-- Rows of the box along dimension 0. -/
def Layout.rows (r : Layout) : Nat := r.boxOf 1 * r.boxOf 2 * r.boxOf 3 * r.boxOf 4
/-- Lines of one box row. -/
def Layout.rowLines (r : Layout) : Nat := (r.rowBytes + 127) / 128
/-- First line of row `n` of the box placed at line `l`. -/
def Layout.rowLine (r : Layout) (l n : Nat) : Nat := l + r.pitch * n
/-- Every line of the box. -/
def Layout.boxLines (r : Layout) (l : Nat) : List Nat :=
  ((List.range r.rows).flatMap fun n => (List.range r.rowLines).map fun k => r.rowLine l n + k).eraseDups
/-- The tensor coordinates of element `b0` of row `n` (R110). -/
def Layout.coord (r : Layout) (org : List Int) (n b0 : Nat) : List Int :=
  let b1 := r.boxOf 1
  let b2 := r.boxOf 2
  let b3 := r.boxOf 3
  (([b0, n % b1, n / b1 % b2, n / (b1 * b2) % b3, n / (b1 * b2 * b3)].zip org).map fun p => p.2 + (p.1 : Int)).take r.ndim
/-- Whether an element is in bounds (R110). -/
def Layout.inBounds (r : Layout) (cs : List Int) : Bool := (cs.zip r.used).all fun p => 0 ≤ p.1 && p.1 < p.2.ext

/-- One in-bounds element: row, index in the row, virtual address, and for 4-bit elements whether it is the high nibble. -/
structure BoxElem where
  row : Nat
  b0 : Nat
  va : Nat
  high : Bool
  deriving DecidableEq, Repr

/-- The in-bounds elements of a box, row by row. -/
def Layout.elems (r : Layout) (org : List Int) : List BoxElem :=
  (List.range r.rows).flatMap fun n => (List.range ((r.dims.head?.map (·.box)).getD 0 + 1)).filterMap fun b0 =>
    let cs := r.coord org n b0
    if r.inBounds cs then
      let (a, h) := r.address cs
      some { row := n, b0 := b0, va := a, high := h }
    else none

/-- The scratchpad byte of an element, and for 4-bit elements twice it plus the nibble. -/
def Layout.place (r : Layout) (l : Nat) (e : BoxElem) : Nat :=
  let base := r.rowLine l e.row * 128
  if r.esz = 0 then 2 * base + e.b0 else base + e.b0 * r.size

/-- The element of global memory written for one box element, in its aligned 4-byte word when it is narrower (R110). -/
def Layout.outElem (r : Layout) (l : Nat) (e : BoxElem) (leaf : Leaf) (home : Nat) : CopyElem :=
  let p := r.place l e
  let pa := leaf.phys e.va
  if r.esz = 0 then
    let k := e.va % 4
    { va := e.va - k, pa := pa - k, key := leaf.key, bytes := [0, 0, 0, 0], home := some home, size := 0
      en := (List.range 4).map fun i => if i = k then (if e.high then 2 else 1) else 0
      src := (List.range 4).map fun i => if i = k then (p, p) else (0, 0) }
  else if r.size < 4 then
    let k := e.va % 4
    let z := r.size
    { va := e.va - k, pa := pa - k, key := leaf.key, bytes := [0, 0, 0, 0], home := some home, size := z
      en := (List.range 4).map fun i => if k ≤ i && i < k + z then 3 else 0
      src := (List.range 4).map fun i => if k ≤ i && i < k + z then (2 * (p + i - k), 2 * (p + i - k) + 1) else (0, 0) }
  else
    { va := e.va, pa := pa, key := leaf.key, bytes := List.replicate r.size 0, en := List.replicate r.size 3, home := some home, size := r.size
      src := (List.range r.size).map fun i => (2 * (p + i), 2 * (p + i) + 1) }

/-- Join two parts of one aligned word, the second over the first. -/
def CopyElem.join (a b : CopyElem) : CopyElem :=
  { a with
    en := (a.en.zip b.en).map fun p => Nat.lor p.1 p.2
    src := ((a.src.zip b.src).zip b.en).map fun p =>
      (if p.2 % 2 = 1 then p.1.2.1 else p.1.1.1, if p.2 / 2 = 1 then p.1.2.2 else p.1.1.2) }

/-- Join neighbouring parts of one word. -/
def joinElems : List CopyElem → List CopyElem
  | [] => []
  | e :: es =>
    match joinElems es with
    | [] => [e]
    | f :: fs => if f.pa == e.pa && e.bytes.length == 4 && f.bytes.length == 4 then e.join f :: fs else e :: f :: fs

/-- The sheets a multicast copy is delivered to (R113). A countersign replay writes only itself, and nothing but itself writes it
(R437; log entry 82). -/
def State.receivers (s : State) (c : Site) (r : Layout) : List (Nat × Sheet) :=
  let named (k : Nat) : Bool := (tabGet k s.clusters).any fun cl => cl.die == c.die && r.mmask.testBit (12 * cl.cy + cl.cx)
  s.sheets.filter fun p => (p.2.cluster?.any named) && p.2.launch == c.sh.launch && (p.2.bar r.mbar).valid
    && (p.1 == c.sid || (p.2.replay.isNone && c.sh.replay.isNone))

/-- Whether MMASK names a live cluster of the die (R109). -/
def State.namesCluster (s : State) (c : Site) (r : Layout) : Bool :=
  s.clusters.any fun k => k.2.die == c.die && r.mmask.testBit (12 * k.2.cy + k.2.cx)

/-- The copy a CPT issues (R110, R113). -/
def cptCopy (s : State) (c : Site) (r : Layout) (l : Nat) (out : Option (Fin 8)) (xs : List (BoxElem × Leaf)) : Copy :=
  let base : Copy := { ctx := c.sh.ctx, sheet := c.sid, issue := c.clk, view := c.clk, top := c.clk }
  match out with
  | none =>
    let zeros := (List.range r.rows).flatMap fun n => (List.range r.rowBytes).map fun k => (r.rowLine l n * 128 + k, (0 : Byte))
    { base with
      reads := xs.map fun x => { va := x.1.va, pa := x.2.phys x.1.va, key := x.2.key, n := r.size
                                 high := if r.esz = 0 then some x.1.high else none, dst := r.place l x.1 }
      spad := zeros.foldl (fun m p => tabPut p.1 p.2 m) []
      dests := if r.mc then (s.receivers c r).map fun p => { sheet := p.1, lines := r.boxLines l, mbar := some r.mbar }
        else [{ sheet := c.sid, lines := r.boxLines l, mbar := none }]
      xs := !xs.isEmpty && xs.all fun x => x.2.xs }
  | some k =>
    { base with out := joinElems (xs.map fun x => r.outElem l x.1 x.2 (s.homeOf c.sh.ctx x.1.va x.2)), srcLines := r.boxLines l, cnt := some k.val }

/-- CPT (R335, R108 to R113), into scratchpad, or out of it with a counter. The record's format entry must be well formed, although the
copy does not decode by it (R90). -/
def tensorCopy (i : Instr) (g : Guard) (rec line org : Fin 64) (out : Option (Fin 8)) (s : State) :
    Host.Outcome State Fault Refusal :=
  enterMemGang i g s fun s c =>
    let at_ := (c.view.regs.uni rec.val).toNat
    let l := (c.view.regs.uni line.val).toNat
    match checkRecordAddress c.sh [(c.view.lead, at_)] with
    | some t => .next (s.raise c i t)
    | none =>
      if !c.hasLines [at_ / 128] then .next (s.waitLines c i [at_ / 128] .free)
      else
        let r := Layout.of (c.sh.spadBytes at_ 128)
        if !r.wf || !c.sh.fmtOk r.fmt || (r.mc && (out.isSome || !s.namesCluster c r)) || 64 < org.val + r.ndim then
          .next (s.raise c i (Trap.illegal 2))
        else if c.sh.lostSpan at_ 128 then .next (s.raise c i (lostData (some c.view.lead) at_))
        else if c.sh.spadSize < (r.rowLine l (r.rows - 1) + r.rowLines) * 128 then
          .next (s.raise c i { cause := 5, check := 4, addr := 128 * l })
        else
          let o := (List.range r.ndim).map fun d => (c.view.regs.uni (org.val + d)).toInt
          let es := r.elems o
          let reqs := es.map fun e =>
            { lane := c.view.lead, va := e.va, size := r.size, kind := (if out.isSome then .write else .read) : Req }
          orTrap c i (s.checkAccess c.issuer reqs) fun (xs, s') =>
            match if out.isSome then none else s'.checkData c xs with
            | some t => .next (s'.raise c i t)
            | none =>
              let lines := r.boxLines l
              let need : LineNeed := if out.isSome then .free else .owned
              if !r.mc && !s'.linesMeet c.sid c.sh c.eng lines need then .next (s'.waitLines c i lines need)
              else
                let s' := s'.placeLines c true c.view.lead .read [at_ / 128]
                let c := (s'.site).getD c
                let cp := cptCopy s' c r l out ((es.zip xs).map fun p => (p.1, p.2.2))
                let id := s'.nextId
                let s' := (s'.startCopy c cp).mergeSource id
                let s' := if out.isSome then s'.pinDown c.sid else s'
                .next (s'.finish c i)

/-- CPT.in (R335). -/
def execCptIn (g : Guard) (rec line org : Fin 64) (s : State) : Host.Outcome State Fault Refusal :=
  tensorCopy (.cptIn g rec line org) g rec line org none s
/-- CPT.out (R335). -/
def execCptOut (g : Guard) (rec line org : Fin 64) (cnt : Fin 8) (s : State) : Host.Outcome State Fault Refusal :=
  tensorCopy (.cptOut g rec line org cnt) g rec line org (some cnt) s

end Sys2Proof.Machine
end

