-- ==== Sys2Proof/Machine/Lanes.lean ====
section
/-! DEFINITION. The cross-lane instructions (R272 to R276) and the folds GRED, GSCAN and NRED share. -/

namespace Sys2Proof.Machine

/-- The source lane of SHFL (R274). -/
def shflLane (W l : Nat) (mode : Option ShflMode) (b : Nat) : Nat :=
  match mode with
  | none => W - 1 - l
  | some .lane => b % W
  | some .back => (l + W - b % W) % W
  | some .fwd => (l + b) % W
  | some .flip => (Nat.xor l b) % W
/-- SHFL (R274). -/
def execShfl (g : Guard) (ty : BitTy) (mode : Option (ShflMode × Operand)) (d : Fin 192) (a : Reg) (s : State) :
    Host.Outcome State Fault Refusal :=
  alu (.shfl g ty mode d a) s fun c =>
    let src (l : Nat) : Nat := shflLane c.W l (mode.map (·.1)) ((mode.map fun m => (c.src32 l m.2).toNat).getD 0)
    if ty = .b64 then c.put64 g (.v d) fun l => c.reg64 (src l) a else c.put32 g (.v d) fun l => c.reg32 (src l) a
/-- VOTE (R275). -/
def execVote (g : Guard) (mode : VoteMode) (pd pa : Fin 8) (neg : Bool) (s : State) : Host.Outcome State Fault Refusal :=
  alu (.vote g mode pd pa neg) s fun c =>
    let ps := (c.active g).map fun l => c.regs.predAt pa l != neg
    let x := match mode with
      | .all => ps.all id
      | .any => ps.any id
      | .same => ps.all id || !(ps.any id)
    c.putPred g pd fun _ => x
/-- BALLOT (R275). -/
def execBallot (g : Guard) (d : Fin 192) (pa : Fin 8) (neg : Bool) (s : State) : Host.Outcome State Fault Refusal :=
  alu (.ballot g d pa neg) s fun c =>
    let m := maskOf ((c.active g).filter fun l => c.regs.predAt pa l != neg)
    c.put64 g (.v d) fun _ => m
/-- MATCH (R275). -/
def execMatch (g : Guard) (ty : BitTy) (alleq : Option (Fin 8)) (d : Fin 192) (a : Reg) (s : State) :
    Host.Outcome State Fault Refusal :=
  alu (.match_ g ty alleq d a) s fun c =>
    let act := c.active g
    let val (l : Nat) : Nat := if ty = .b64 then (c.reg64 l a).toNat else (c.reg32 l a).toNat
    let peers (l : Nat) : Mask := maskOf (act.filter fun j => val j == val l)
    match alleq with
    | none => c.put64 g (.v d) peers
    | some pd =>
      let x := act.all fun l => peers l == maskOf act
      (c.put64 g (.v d) fun _ => if x then maskOf act else 0).putPred pd act fun _ => x

/-- The identity of a fold (R276). -/
def foldIdentity (op : FoldOp) : Word :=
  match op with
  | .addI _ | .or | .xor => 0
  | .addF r => if r = .rm then 0 else 0x80000000
  | .minI t => wrap32 t.hi
  | .maxI t => wrap32 t.lo
  | .minF => 0x7F800000
  | .maxF => 0xFF800000
  | .and => 0xFFFFFFFF
/-- One step of a fold (R276). -/
def foldStep (op : FoldOp) (r x : Word) : Word :=
  match op with
  | .addI _ => r + x
  | .addF m => ofBits (fmt32.add m r.toNat x.toNat)
  | .minI t => minWord t r x
  | .maxI t => maxWord t r x
  | .minF => ofBits (fmt32.minBits r.toNat x.toNat)
  | .maxF => ofBits (fmt32.maxBits r.toNat x.toNat)
  | .and => r &&& x
  | .or => r ||| x
  | .xor => r ^^^ x
/-- The contribution of lane `k` to a fold (R276). -/
def foldLane (c : View) (part : List Nat) (op : FoldOp) (a : Reg) (k : Nat) : Word :=
  if part.contains k then c.reg32 k a else foldIdentity op
/-- The fold over lanes 0 to `n` − 1 (R276). -/
def foldTo (c : View) (part : List Nat) (op : FoldOp) (a : Reg) (n : Nat) : Word :=
  (List.range n).foldl (fun r k => foldStep op r (foldLane c part op a k)) (foldIdentity op)
/-- GRED (R276); on the uniform datapath the enabled lanes take part (R273). -/
def execGred (g : Guard) (op : FoldOp) (d a : Reg) (s : State) : Host.Outcome State Fault Refusal :=
  alu (.gred g op d a) s fun c =>
    let part := if d.isVec then c.active g else c.enabled
    c.put32 g d fun _ => foldTo c part op a c.W
/-- GSCAN (R276). -/
def execGscan (g : Guard) (op : FoldOp) (excl : Bool) (d : Fin 192) (a : Reg) (s : State) : Host.Outcome State Fault Refusal :=
  alu (.gscan g op excl d a) s fun c =>
    c.put32 g (.v d) fun l => foldTo c (c.active g) op a (if excl then l else l + 1)

end Sys2Proof.Machine
end

