-- ==== Sys2Proof/Machine/Collectives.lean ====
section
/-! DEFINITION. Neighbour collectives (R146, R147, R338 to R342). -/

namespace Sys2Proof.Machine

/-- The key of NXCH (R339, R400). -/
def compassKey (d : Compass) : Nat :=
  match d with
  | .east => 0
  | .west => 1
  | .north => 2
  | .south => 3
/-- The number of a group kind. -/
def groupCode (g : ShardGroup) : Nat :=
  match g with
  | .row => 0
  | .col => 1
  | .plane => 2
/-- A group kind by number. -/
def groupOf (n : Nat) : ShardGroup := if n = 0 then .row else if n = 1 then .col else .plane
/-- The direction a key's data comes from: nxch.e receives from the west (R339). -/
def sourceSide (key : Nat) : Compass := if key = 0 then .west else if key = 1 then .east else if key = 2 then .south else .north

/-- The sheets whose data a collective waits for (R339, R341). For NXCH that is the one neighbour its data comes from: that a neighbour
which only receives does not hold the collective up or end it by retiring is the model's choice (log entry 94). -/
def collSources (l : Launch) (k key : Nat) : List Nat :=
  if key < 4 then [l.neighbour (sourceSide key) k] else l.group (groupOf ((key - 4) % 3)) k

/-- The message of a sheet's collective, if it has been sent. -/
def State.collMsg (s : State) (launch index key num : Nat) : Option CollMsg :=
  s.msgs.find? fun m => m.launch == launch && m.index == index && m.key == key && m.num == num

/-- The trap of a collective's check 2 (R338): its tiles, and whether its root names a member and its fold is one of R276. -/
def collBad (c : Site) (im : CollImm) (rootOk : Bool) : Bool :=
  let ts := c.view.tileOf im.ts none
  let td := c.view.tileOf im.td none
  !(ts.ok c.sh && td.ok c.sh) || ts.rows ≠ td.rows || ts.rlen ≠ td.rlen || (ts.lines.any td.lines.contains) || !rootOk

/-- Issue a collective (R338, R339, R341). -/
def collective (i : Instr) (g : Guard) (im : CollImm) (key : Nat) (op : FoldOp) (root : Site → Nat) (members : Launch → Nat → Nat)
    (s : State) : Host.Outcome State Fault Refusal :=
  enterMemGang i g s fun s c =>
    match tabGet c.sh.launch s.launches with
    | none => .next (s.finish c i)
    | some l =>
      if collBad c im (root c < members l c.sh.index) then .next (s.raise c i (Trap.illegal 2))
      else
        let ts := c.view.tileOf im.ts none
        let td := c.view.tileOf im.td none
        if !c.hasLines ts.lines then .next (s.waitLines c i ts.lines .free)
        else if !c.sh.linesOwned false td.lines then .next (s.waitLines c i td.lines .owned)
        else
          let bits := (encode i).getD 0
          let num := (tabGet key c.sh.matches_).getD 0
          let p : PendColl := { id := s.nextId, bits := BitVec.ofNat 64 bits, imm := BitVec.ofNat 32 (bits / 18446744073709551616)
                                key := key, num := num, clock := c.clk, td := c.view.regs.tile im.td.val
                                ts := c.view.regs.tile im.ts.val, op := op, root := root c }
          let s := s.modSheet c.sid fun h =>
            let h := td.lines.foldl (fun h n =>
              let x := h.line n
              h.putLine n { x with present := false, inbound := x.inbound + 1, coll := x.coll + 1 }) h
            { h with matches_ := tabPut key (num + 1) h.matches_, pend := h.pend ++ [p] }
          let s := { s with nextId := s.nextId + 1 }
          .next (((s.pinDown c.sid).noAudit c.sid).finish c i)

/-- NXCH (R338 to R341). -/
def execNxch (g : Guard) (dir : Compass) (imm : CollImm) (s : State) : Host.Outcome State Fault Refusal :=
  collective (.nxch g dir imm) g imm (compassKey dir) .and (fun _ => 0) (fun _ _ => 1) s
/-- NRED (R338 to R341): SUB and TYPE that break R276 fail check 2. -/
def execNred (g : Guard) (op : NredOp) (group : ShardGroup) (imm : CollImm) (s : State) :
    Host.Outcome State Fault Refusal :=
  collective (.nred g op group imm) g imm (4 + groupCode group) op.get (fun _ => 0) (fun _ _ => if op.legal then 1 else 0) s
/-- NBC (R338 to R341). -/
def execNbc (g : Guard) (group : ShardGroup) (root : Fin 64) (imm : CollImm) (s : State) :
    Host.Outcome State Fault Refusal :=
  collective (.nbc g group root imm) g imm (7 + groupCode group) .and (fun c => (c.view.upair root).toNat)
    (fun l k => (l.group group k).length) s

/-- A pending collective with what its instruction's bits say of it: its match key and its fold (R338, R401). Bits that decode to no
collective leave them as they are. -/
def PendColl.read (p : PendColl) : PendColl :=
  match decodeBytes (toBytesLE 8 p.bits.toNat ++ toBytesLE 4 p.imm.toNat) with
  | .ok (.nxch _ dir _) => { p with key := compassKey dir, op := .and }
  | .ok (.nred _ op group _) => { p with key := 4 + groupCode group, op := op.get }
  | .ok (.nbc _ group _ _) => { p with key := 7 + groupCode group, op := .and }
  | _ => p
/-- Change the pending collective `id` of a sheet. -/
def State.modPend (s : State) (sid id : Nat) (f : PendColl → PendColl) : State :=
  s.modSheet sid fun h => { h with pend := h.pend.map fun p => if p.id == id then f p else p }

/-- A collective reads its source tile and sends it to every partner (R340, R341); a lost word in it is a loss of the sheet's state
(R430, R434). -/
def State.sendColl (s : State) (sid : Nat) (p : PendColl) : State :=
  match tabGet sid s.sheets with
  | none => s
  | some h =>
    let ts := Tile.of p.ts 0
    let byte (a : Nat) : Byte := (tabGet a p.got).getD (h.spadByte a)
    let rows := (List.range (ts.rows + 1)).map fun r => (List.range ts.rlen).map fun k => byte (ts.rowAt r + k)
    let s := if (List.range (ts.rows + 1)).any (fun r => h.lostSpan (ts.rowAt r) ts.rlen) && h.loss.isNone && h.killed.isNone then
      s.modSheet sid fun h => { h with loss := some none } else s
    let t := max p.clock (maxOf (ts.lines.map h.lineTime))
    let s := ts.lines.foldl (fun s n => s.stampLine sid n t) s
    let msg : CollMsg := { launch := h.launch, index := h.index, key := p.key, num := p.num, clk := t, rows := rows }
    let s := { s with msgs := s.msgs ++ [msg] }.modPend sid p.id fun p => { p with sent := true }
    let s := if p.imm.toNat.testBit 9 then s.countUp sid (bitsOf p.imm.toNat 6 3) (t + 1) else s
    s.wakeLines sid

/-- One row of the destination tile, from the members' rows (R340). -/
def collRow (p : PendColl) (rows : List (List Byte)) (n : Nat) : List Byte :=
  let pick (bs : List Byte) : List Byte := (bs ++ List.replicate n 0).take n
  if p.key < 4 then pick (rows.headD [])
  else if p.key < 7 then
    (List.range (n / 4)).flatMap fun k =>
      let x (bs : List Byte) : Word := if 4 * k + 4 ≤ bs.length then ofBits (ofBytesLE ((bs.drop (4 * k)).take 4)) else foldIdentity p.op
      toBytesLE 4 (rows.foldl (fun r bs => foldStep p.op r (x bs)) (foldIdentity p.op)).toNat
  else pick ((rows[p.root]?).getD [])

/-- A collective leaves the pending list, and its destination lines lose one inbound transfer. -/
def State.dropColl (s : State) (sid id : Nat) : State := s.modSheet sid fun h => { h with pend := h.pend.filter (·.id != id) }

/-- Every partner's data has arrived: the destination tile becomes present (R340, R341). -/
def State.finishColl (s : State) (sid : Nat) (p : PendColl) (ms : List CollMsg) : State :=
  let td := Tile.of p.td 0
  let t := 1 + max p.clock (maxOf (ms.map (·.clk)))
  let s := (List.range (td.rows + 1)).foldl (fun s r =>
    s.writeSpad sid (td.rowAt r) (collRow p (ms.map fun m => (m.rows[r]?).getD []) td.rlen)) s
  let s := td.lines.foldl (fun s n =>
    let s := s.modSheet sid fun h =>
      let x := (h.line n).arrived false
      h.putLine n { x with coll := x.coll - 1 }
    s.stampLine sid n (max t (((tabGet sid s.sheets).map (·.lineTime n)).getD 0))) s
  ((s.dropColl sid p.id).wakeLines sid).rouse sid

/-- A partner has retired without the match: the collective can no longer complete (R342). -/
def State.killColl (s : State) (sid : Nat) (p : PendColl) : State :=
  let td := Tile.of p.td 0
  ((s.modSheet sid fun h => { h with dead := h.dead ++ td.lines.map fun n => (n, bitsOf p.imm.toNat 3 3) }).dropColl sid p.id).wakeLines sid

/-- The sheet and the pending collective of an identity. -/
def State.pending (s : State) (id : Nat) : Option (Nat × Sheet × PendColl) :=
  s.sheets.findSome? fun q => (q.2.pend.find? (·.id == id)).map fun p => (q.1, q.2, p)

/-- What a collective can do next: send, complete, or die with a partner; none while it waits (R147, R341, R342). Those of one key
send and complete in the order they were issued: the fabric keeps the order of messages of one kind, which the model takes to be one key of R339 (R145; log entry 91). -/
def State.collStep (s : State) (id : Nat) : Option State :=
  match s.pending id with
  | none => none
  | some (sid, h, p) =>
    match h.cluster?, tabGet h.launch s.launches with
    | some _, some l =>
      if (h.pend.takeWhile fun q => q.id != id).any fun q => q.key == p.key && (p.sent || !q.sent) then none
      else if !p.sent then some (s.sendColl sid p)
      else
        let srcs := collSources l h.index p.key
        let ms := srcs.map fun k => s.collMsg h.launch k p.key p.num
        if ms.all Option.isSome then some (s.finishColl sid p (ms.filterMap id'))
        else if (srcs.zip ms).any fun x => x.2.isNone && l.gone.contains x.1 then some (s.killColl sid p)
        else none
    | _, _ => none
where
  /-- The identity on options. -/
  id' (x : Option CollMsg) : Option CollMsg := x

/-- The greatest time a collective's next step may give: past the end of logical time the context ends (R128). -/
def State.collTime (s : State) (id : Nat) : Nat :=
  match s.pending id with
  | none => 0
  | some (_, h, p) => 1 + maxOf (p.clock :: (Tile.of p.ts 0).lines.map h.lineTime ++ (s.msgs.filter fun m => m.launch == h.launch).map (·.clk))

/-- COLLECTIVE_COMPLETION (R341, R342). -/
def execCollectiveCompletion (id : Nat) (s : State) : Host.Outcome State Fault Refusal :=
  match s.collStep id, s.pending id with
  | some t, some (_, h, _) => .next (if timeEnd ≤ s.collTime id then t.exhaust h.ctx else t).reap
  | _, _ => .fault .notEnabled

end Sys2Proof.Machine
end

