-- ==== Sys2Proof/Machine/Control.lean ====
section
/-! DEFINITION. The control and divergence instructions (R216 to R225) and the end of a nap. -/

namespace Sys2Proof.Machine

/-- NOP. -/
def execNop (g : Guard) (s : State) : Host.Outcome State Fault Refusal :=
  let i := Instr.nop g
  enter i s fun c => .next (s.finish c i)

/-- Lane `l`'s counter after a branch: its target if active, the next offset if not (R217). -/
def branchPc (c : Site) (i : Instr) (g : Guard) (target : Nat → Word) (l : Nat) : Word :=
  if c.view.regs.guardAt g l then target l else c.next i

/-- BRA (R217). -/
def execBra (g : Guard) (disp : Word) (s : State) : Host.Outcome State Fault Refusal :=
  let i := Instr.bra g disp
  enter i s fun c => .next (s.finishAt c i (branchPc c i g fun _ => c.pc + disp))

/-- A register target whose low bits are not zero in an active lane raises the misalignment trap (R217). -/
def badTarget (c : Site) (g : Guard) (a : Reg) : Option Trap :=
  ((c.view.active g).find? fun l => (c.view.reg32 l a).toNat % 4 ≠ 0).map fun l =>
    { cause := 3, check := 3, lane := some l, addr := (c.view.reg32 l a).toNat }

/-- A branch to a register, with the link written when there is one (R217). -/
def jump (i : Instr) (g : Guard) (d : Option (Fin 192)) (a : Reg) (s : State) : Host.Outcome State Fault Refusal :=
  enter i s fun c =>
    match badTarget c g a with
    | some t => .next (s.raise c i t)
    | none =>
      let s' := match d with
        | none => s
        | some d => s.putRegs c (c.view.regs.putLanes d.val (fun _ => c.next i) (c.view.active g))
      .next (s'.finishAt c i (branchPc c i g fun l => c.view.reg32 l a))

/-- BRX (R217). -/
def execBrx (g : Guard) (a : Reg) (s : State) : Host.Outcome State Fault Refusal := jump (.brx g a) g none a s
/-- CALL (R217). -/
def execCall (g : Guard) (d : Fin 192) (disp : Word) (s : State) : Host.Outcome State Fault Refusal :=
  let i := Instr.call g d disp
  enter i s fun c =>
    .next ((s.putRegs c (c.view.regs.putLanes d.val (fun _ => c.next i) (c.view.active g))).finishAt c i
      (branchPc c i g fun _ => c.pc + disp))
/-- CALLX (R217). -/
def execCallx (g : Guard) (d : Fin 192) (a : Reg) (s : State) : Host.Outcome State Fault Refusal :=
  jump (.callx g d a) g (some d) a s
/-- RET (R217). -/
def execRet (g : Guard) (a : Reg) (s : State) : Host.Outcome State Fault Refusal := jump (.ret g a) g none a s

/-- A lane exits: its bits in every rejoin mask clear and its stack is discarded (R27, R219). -/
def Gang.exitLanes (q : Gang) (ls : List Nat) : Gang :=
  let q := q.modThreads ls fun _ t => { t with st := .exited, stack := [] }
  { q with regs := (List.range 8).foldl (fun r k => r.setRejoin k (r.rejoin k &&& ~~~(maskOf ls))) q.regs }

/-- EXIT (R219, R325): per lane in a gang; in a sequencer it ends the program. -/
def execExit (g : Guard) (s : State) : Host.Outcome State Fault Refusal :=
  let i := Instr.exit g
  enter i s fun c =>
    match c.agent with
    | .gang n =>
      let s := s.modGang c.sid n (·.exitLanes (c.view.active g))
      let s := s.finish c i
      let s := s.modSheet c.sid fun h =>
        match tabGet n h.gangs with
        | none => h
        | some q => if q.exited then h.producerExits n (q.clockOf (List.range h.W)) else h
      .next (s.afterExit c.sid)
    | .seq k =>
      let s := s.finish c i
      if c.view.acts g then .next (s.modSheet c.sid (·.seqIdle k)) else .next s

/-- A lane enrols in a meeting (R24, R220). -/
def Gang.enrol (q : Gang) (ls : List Nat) (a : Word) (k : Fin 8) : Gang :=
  let q := q.modThreads ls fun _ t => { t with stack := (a, k) :: t.stack }
  { q with regs := q.regs.setRejoin k.val (q.regs.rejoin k.val ||| maskOf ls) }

/-- MEET (R220). At S it raises the illegal-instruction trap (R386). -/
def execMeet (g : Guard) (k : Fin 8) (disp : Word) (s : State) : Host.Outcome State Fault Refusal :=
  let i := Instr.meet g k disp
  enter i s fun c =>
    let depth (l : Nat) : Nat := ((((tabGet c.gang c.sh.gangs).bind fun q => tabGet l q.threads)).map (·.stack.length)).getD 0
    if c.atS then .next (s.raise c i (Trap.illegal 2))
    else
      match (c.view.active g).find? fun l => depth l ≥ 8 with
      | some l => .next (s.raise c i { cause := 8, check := 2, lane := some l })
      | none => .next ((s.modGang c.sid c.gang (·.enrol (c.view.active g) (c.pc + disp) k)).finish c i)

/-- One lane leaves a meeting (R26): its bit clears, and the topmost entry of the index goes with every entry above it,
whose bits clear too. -/
def Gang.leave (q : Gang) (k : Fin 8) (l : Nat) : Gang :=
  let clear (r : Regs) (j : Nat) : Regs := r.setRejoin j (setLane (r.rejoin j) l false)
  let stack := ((tabGet l q.threads).map (·.stack)).getD []
  let above := stack.takeWhile fun e => e.2 != k
  let q := { q with regs := clear q.regs k.val }
  if above.length == stack.length then q
  else
    let q := q.modThread l fun t => { t with stack := t.stack.drop (above.length + 1) }
    { q with regs := above.foldl (fun r e => clear r e.2.val) q.regs }

/-- MLEAVE (R221). At S it raises the illegal-instruction trap (R386). -/
def execMleave (g : Guard) (k : Fin 8) (s : State) : Host.Outcome State Fault Refusal :=
  let i := Instr.mleave g k
  enter i s fun c =>
    if c.atS then .next (s.raise c i (Trap.illegal 2))
    else .next ((s.modGang c.sid c.gang fun q => (c.view.active g).foldl (fun q l => q.leave k l) q).finish c i)

/-- YIELD (R223). -/
def execYield (g : Guard) (s : State) : Host.Outcome State Fault Refusal :=
  let i := Instr.yield g
  enterGang i g s fun c => .next ((s.modGang c.sid c.gang fun q => { q with yielded := true }).finish c i)

/-- Nap the enabled threads for a time in ns (R223). -/
def napFor (i : Instr) (g : Guard) (value : Site → Word) (s : State) : Host.Outcome State Fault Refusal :=
  enterGang i g s fun c =>
    let until_ := s.now + min (value c).toNat 1048575 * tickNs
    let s := s.modGang c.sid c.gang fun q =>
      q.modThreads c.view.enabled fun _ t => { t with pc := c.next i, st := .nap until_, since := s.now }
    .next (s.finish c i)

/-- NAP with a register (R223). -/
def execNap (g : Guard) (a : Fin 64) (s : State) : Host.Outcome State Fault Refusal :=
  napFor (.nap g a) g (fun c => c.view.regs.uni a.val) s
/-- NAP with an immediate (R223). -/
def execNapImm (g : Guard) (n : Word) (s : State) : Host.Outcome State Fault Refusal := napFor (.napImm g n) g (fun _ => n) s

/-- Whether a lane's nap is over. -/
def TState.napOver (now : Nat) (t : TState) : Bool :=
  match t with
  | .nap u => u ≤ now
  | _ => false

/-- The end of a nap: threads whose interval has passed return to running (R223). -/
def execNapEnd (sheet gang : Nat) (s : State) : Host.Outcome State Fault Refusal :=
  match (tabGet sheet s.sheets).bind fun h => tabGet gang h.gangs with
  | none => .fault .notEnabled
  | some q =>
    let ls := q.lanesIn (TState.napOver s.now)
    if ls.isEmpty then .fault .notEnabled else .next (s.modGang sheet gang (·.wake ls))

/-- TRAP without a code (R224). -/
def execTrap (g : Guard) (s : State) : Host.Outcome State Fault Refusal :=
  let i := Instr.trap g
  enterGang i g s fun c => .next (s.raise c i { cause := 19 })
/-- TRAP with a code (R224). -/
def execTrapImm (g : Guard) (code : Word) (s : State) : Host.Outcome State Fault Refusal :=
  let i := Instr.trapImm g code
  enterGang i g s fun c => .next (s.raise c i { cause := 19, info := code.toNat })
/-- BKPT (R224). -/
def execBkpt (g : Guard) (s : State) : Host.Outcome State Fault Refusal :=
  let i := Instr.bkpt g
  enterGang i g s fun c => .next (s.raise c i { cause := 18 })

/-- PERF's request (R225). -/
def perfRequest (i : Instr) (g : Guard) (value : Site → Word) (s : State) : Host.Outcome State Fault Refusal :=
  enterGang i g s fun c => .next ((s.modSheet c.sid fun h => { h with preq := min (value c).toNat 3 }).finish c i)
/-- PERF with a register (R225). -/
def execPerf (g : Guard) (a : Fin 64) (s : State) : Host.Outcome State Fault Refusal :=
  perfRequest (.perf g a) g (fun c => c.view.regs.uni a.val) s
/-- PERF with an immediate (R225). -/
def execPerfImm (g : Guard) (n : Word) (s : State) : Host.Outcome State Fault Refusal :=
  perfRequest (.perfImm g n) g (fun _ => n) s

end Sys2Proof.Machine
end

