-- ==== Sys2Proof/Machine/Convert.lean ====
section
/-! DEFINITION. The conversions (R260 to R264). -/

namespace Sys2Proof.Machine

/-- The source format of a conversion, and its bits in a lane (R260). -/
def cvtSource (c : View) (l : Nat) (src : CvtSrc) (a : Operand) : Fmt × Nat :=
  match src with
  | .f32 => (fmt32, (c.src32 l a).toNat)
  | .f16 hi => (fmt16, halfOf hi (c.src32 l a))
  | .bf16 hi => (fmtB16, halfOf hi (c.src32 l a))
  | .f64 => (fmt64, (c.src64 l a).toNat)
/-- CVTFI (R261). -/
def execCvtfi (g : Guard) (ty : IntTy) (wide : Bool) (src : CvtSrc) (r : Rnd) (d : Reg) (a : Operand) (s : State) :
    Host.Outcome State Fault Refusal :=
  alu (.cvtfi g ty wide src r d a) s fun c =>
    let value (l : Nat) : Int :=
      let (f, x) := cvtSource c l src a
      toIntSat r (ty == .i32) (if wide then 64 else 32) (f.read x)
    if wide then c.put64 g d fun l => BitVec.ofInt 64 (value l) else c.put32 g d fun l => wrap32 (value l)
/-- The source integer of CVTIF (R261). -/
def cvtInt (c : View) (l : Nat) (src : CvtInt) (a : Operand) : Int :=
  match src with
  | .i32 => (c.src32 l a).toInt
  | .n32 => (c.src32 l a).toNat
  | .i64 => (c.src64 l a).toInt
  | .n64 => (c.src64 l a).toNat
/-- CVTIF (R261). -/
def execCvtif (g : Guard) (ty : FloatTy) (src : CvtInt) (r : Rnd) (d : Reg) (a : Operand) (s : State) :
    Host.Outcome State Fault Refusal :=
  alu (.cvtif g ty src r d a) s fun c => c.put32 g d fun l => ofBits ((fmtOf ty).ofInt r (cvtInt c l src a))
/-- The destination format of CVTFF (R262). -/
def cvtDst (t : CvtDst) : Fmt :=
  match t with
  | .f32 => fmt32
  | .f16 => fmt16
  | .bf16 => fmtB16
  | .f64 => fmt64
/-- CVTFF (R262). -/
def execCvtff (g : Guard) (dst : CvtDst) (src : CvtSrc) (r : Rnd) (d : Reg) (a : Operand) (pk : Option Operand) (s : State) :
    Host.Outcome State Fault Refusal :=
  alu (.cvtff g dst src r d a pk) s fun c =>
    let one (l : Nat) (o : Operand) : Nat :=
      let (f, x) := cvtSource c l src o
      f.convert (cvtDst dst) r x
    match pk with
    | some b => c.put32 g d fun l => ofBits (one l a + 65536 * one l b)
    | none =>
      if dst = .f64 then c.put64 g d fun l => BitVec.ofNat 64 (one l a) else c.put32 g d fun l => ofBits (one l a)
/-- The width, place and signedness of a narrow element (R75, R263). -/
def narrowShape (t : NarrowTy) : Nat × Nat × Bool :=
  match t with
  | .i8 k => (8, k.val, true)
  | .n8 k => (8, k.val, false)
  | .i4 k => (4, k.val, true)
  | .n4 k => (4, k.val, false)
  | .b16 k sx => (16, k.val, sx)
  | .b32 sx => (32, 0, sx)
/-- Element `k` of width `b` of a word as an integer (R263). -/
def element (b k : Nat) (sx : Bool) (x : Word) : Int :=
  let v := x.toNat / 2 ^ (b * k) % 2 ^ b
  if sx && v ≥ 2 ^ (b - 1) then (v : Int) - 2 ^ b else v
/-- IWIDEN (R263). -/
def execIwiden (g : Guard) (ty : NarrowTy) (d : Reg) (a : Operand) (s : State) : Host.Outcome State Fault Refusal :=
  let (b, k, sx) := narrowShape ty
  alu (.iwiden g ty d a) s fun c =>
    if ty.isB32 then c.put64 g d fun l => BitVec.ofInt 64 (element b k sx (c.src32 l a))
    else c.put32 g d fun l => wrap32 (element b k sx (c.src32 l a))
/-- The low `b` bits of a value, clamped first with `.sat` (R264). -/
def narrowTo (b : Nat) (signed sat : Bool) (x : Int) : Nat :=
  let y := if !sat then x else if signed then clampInt x (-(2 ^ (b - 1))) (2 ^ (b - 1) - 1) else clampInt x 0 (2 ^ b - 1)
  (y % 2 ^ b).toNat
/-- INARROW (R264). -/
def execInarrow (g : Guard) (ty : NarrowTy) (sat : Bool) (d : Reg) (a : Operand) (b : Option Operand) (s : State) :
    Host.Outcome State Fault Refusal :=
  let (w, k, sx) := narrowShape ty
  alu (.inarrow g ty sat d a b) s fun c => c.put32 g d fun l =>
    match b with
    | none => ofBits (narrowTo 32 sx sat (if sx then (c.src64 l a).toInt else (c.src64 l a).toNat))
    | some b =>
      let x := (c.src32 l b).toNat
      let v := narrowTo w sx sat (if sx then (c.src32 l a).toInt else (c.src32 l a).toNat)
      ofBits (x / 2 ^ (w * (k + 1)) * 2 ^ (w * (k + 1)) + v * 2 ^ (w * k) + x % 2 ^ (w * k))

end Sys2Proof.Machine
end

