-- ==== Sys2Proof/Machine/Folios.lean ====
section
/-! DEFINITION. Folios (R122 to R125, R138, R309, R310). -/

namespace Sys2Proof.Machine

/-- The last generation of a folio slot (R309). -/
def lastGeneration : Nat := 16777215
/-- A folio slot of a context. -/
def Context.folio (c : Context) (n : Nat) : Folio := (tabGet n c.folios).getD {}
/-- Whether a folio counts as open (R123); that one whose count is 0 counts until its close is performed is the model's choice (log
entry 98). -/
def Folio.counts (f : Folio) : Bool := f.st == .opened || f.st == .closing

/-- The slot FOPEN takes, or the detail of its folio-overflow trap (R309). -/
def State.folioSlot (s : State) (cx : Nat) (c : Context) : Except Nat Nat :=
  let slots := List.range 256
  if slots.all fun n => (c.folio n).counts then .error 1
  else
    let passed (f : Folio) : Bool := f.st == .free || s.horizonPassed cx f.closeT
    match slots.find? fun n => let f := c.folio n; !f.counts && f.gen < lastGeneration && passed f with
    | some n => .ok n
    | none => .error (if slots.any fun n => let f := c.folio n; !f.counts && f.gen < lastGeneration then 2 else 3)

/-- FOPEN (R309). -/
def execFopen (g : Guard) (d : Fin 64) (a : UOperand) (s : State) : Host.Outcome State Fault Refusal :=
  let i := Instr.fopen g d a
  enterMemGang i g s fun s c =>
    let n := (c.view.uop a).toNat
    if n = 0 || 65535 < n then .next (s.raise c i (Trap.illegal 2))
    else
      match tabGet c.sh.ctx s.ctxs with
      | none => .next (s.finish c i)
      | some ctx =>
        match s.folioSlot c.sh.ctx ctx with
        | .error k => .next (s.raise c i { cause := 13, check := 8, info := k })
        | .ok slot =>
          let gen := (ctx.folio slot).gen + 1
          let f : Folio := { st := .opened, gen := gen, count := n }
          let s := s.modCtx c.sh.ctx fun x => { x with folios := tabPut slot f x.folios }
          let s := s.putRegs c (c.view.regs.setUni d.val (BitVec.ofNat 32 (slot + 256 * gen)))
          .next (((s.pinDown c.sid).noAudit c.sid).finish c i)

/-- FCLOSE (R310): when the count reaches 0 the folio is closing, and closes by FOLIO_CLOSE or before the gang's next
access. -/
def execFclose (g : Guard) (a : Fin 64) (s : State) : Host.Outcome State Fault Refusal :=
  let i := Instr.fclose g a
  enterMemGang i g s fun s c =>
    match tabGet c.sh.ctx s.ctxs with
    | none => .next (s.finish c i)
    | some ctx =>
      let handle := (c.view.regs.uni a.val).toNat
      match ctx.openFolio handle with
      | none => .next (s.raise c i (Trap.illegal 2))
      | some f =>
        let f := { f with count := f.count - 1, clk := max f.clk c.clk }
        let f := if f.count = 0 then { f with st := .closing, closer := some (c.sid, c.gang, c.view.lanes) } else f
        let s := s.modCtx c.sh.ctx fun x => { x with folios := tabPut (handle % 256) f x.folios }
        .next (((s.pinDown c.sid).noAudit c.sid).finish c i)

/-- A folio whose count is 0 closes (R138). -/
def execFolioClose (ctx slot : Nat) (s : State) : Host.Outcome State Fault Refusal :=
  match tabGet ctx s.ctxs with
  | none => .fault .notEnabled
  | some c => if (c.folio slot).st == .closing then .next (s.closeFolio ctx slot).reap else .fault .notEnabled

end Sys2Proof.Machine
end

