-- ==== Sys2Proof/Machine/Geometry.lean ====
section
/-! DEFINITION. Geometry (R148 to R155, R163, R343 to R345): frame records, draw bindings, EMIT, EMITEND, and the arrival
of packets and close markers at a die. -/

namespace Sys2Proof.Machine

/-- The fields of 64 bytes (R148), and whether they are well formed (R149). -/
def FrameRec.of (addr : Nat) (bs : List Byte) : FrameRec :=
  let w := ofBytesLE bs
  let signed (n : Nat) : Int := if n < 128 then n else (n : Int) - 256
  let vb := bitsOf w 0 64
  let dz := bitsOf w 64 64
  { addr := addr, vb := vb, dz := dz, wm1 := bitsOf w 128 14, hm1 := bitsOf w 144 14, pitch := bitsOf w 160 16
    jx := signed (bitsOf w 176 8), jy := signed (bitsOf w 184 8)
    ok := bitsOf w 142 2 == 0 && bitsOf w 158 2 == 0 && bitsOf w 192 320 == 0 && vb < 281474976710656
      && dz < 281474976710656 && vb % 256 == 0 && dz % 256 == 0 && bitsOf w 128 14 + 1 ≤ bitsOf w 160 16 }
/-- Regions across the target (R150). -/
def FrameRec.rw (r : FrameRec) : Nat := (r.wm1 + 64) / 64
/-- The logical index of the owner of region (rx, ry) among `d` dies (R150). -/
def FrameRec.owner (r : FrameRec) (d rx ry : Nat) : Nat := (rx + r.rw * ry) % d

/-- The least and greatest pixel of one axis of a primitive's box clamped to the target, when it is not empty (R153). -/
def boxAxis (xs : List Int) (m1 : Nat) : Option (Nat × Nat) :=
  let lo := xs.foldl min (xs.headD 0) / 256 - 1
  let hi := xs.foldl max (xs.headD 0) / 256 + 1
  let lo := max lo 0
  let hi := min hi m1
  if lo ≤ hi then some (lo.toNat, hi.toNat) else none
/-- The x coordinates of a primitive's vertices. -/
def xsOf (xy : List Int) : List Int := [xy[0]?.getD 0, xy[2]?.getD 0, xy[4]?.getD 0]
/-- The y coordinates. -/
def ysOf (xy : List Int) : List Int := [xy[1]?.getD 0, xy[3]?.getD 0, xy[5]?.getD 0]
/-- Natural numbers from `a` to `b`. -/
def fromTo (a b : Nat) : List Nat := (List.range (b + 1 - a)).map (a + ·)

/-- The logical dies that own a region meeting the clamped box of a primitive (R153). -/
def FrameRec.targets (r : FrameRec) (d : Nat) (xy : List Int) : List Nat :=
  match boxAxis (xsOf xy) r.wm1, boxAxis (ysOf xy) r.hm1 with
  | some (x0, x1), some (y0, y1) =>
    (List.range d).filter fun i => (fromTo (x0 / 64) (x1 / 64)).any fun rx => (fromTo (y0 / 64) (y1 / 64)).any fun ry => r.owner d rx ry == i
  | _, _ => []

/-! ### Draws of a slot -/

/-- A frame slot of a context. -/
def Context.frameSlot (c : Context) (slot : Nat) : FrameSlot := (tabGet slot c.slots).getD {}
/-- How far a draw lies ahead of the oldest unfinished one (R151). -/
def FrameSlot.ahead (f : FrameSlot) (draw : Nat) : Nat := (draw + 65536 - f.o) % 65536
/-- The next draw to bind (R152). -/
def FrameSlot.nextDraw (f : FrameSlot) : Nat :=
  match f.bound.getLast? with
  | none => f.o
  | some b => (b.1 + 1) % 65536
/-- The launch a draw is bound to. -/
def FrameSlot.launchOf (f : FrameSlot) (draw : Nat) : Option Nat := (f.bound.find? fun b => b.1 == draw).map (·.2)
/-- Whether an EMIT or EMITEND naming the draw waits, the buffers left aside (R151, R152). -/
def FrameSlot.waits (f : FrameSlot) (draw : Nat) : Bool :=
  32768 ≤ f.ahead draw || ((f.launchOf draw).isNone && draw != f.nextDraw)
/-- The slot with the draw bound to a launch (R152). -/
def FrameSlot.bind (f : FrameSlot) (draw launch : Nat) : FrameSlot :=
  if (f.launchOf draw).isSome then f else { f with bound := f.bound ++ [(draw, launch)] }

/-- What a die holds for a slot of a context, on its way included. -/
def State.rasterHeld (s : State) (die ctx slot : Nat) : Nat :=
  let held := ((tabGet die s.dies).bind fun d => tabGet (4 * ctx + slot) d.raster).map fun r =>
    (r.draws.map fun p => p.2.packets.length + p.2.marks.length).foldl (· + ·) 0
  held.getD 0 + (s.packets.filter fun p => p.2.die == die && p.2.ctx == ctx && p.2.slot == slot).length
    + (s.markers.filter fun p => p.2.die == die && p.2.ctx == ctx && p.2.slot == slot).length
/-- Whether the buffer of one of the receiving dies is full for a draw (R163). The oldest unfinished draw always finds room
(log entry 17). -/
def State.buffersFull (s : State) (ctx slot draw : Nat) (to_ : List Nat) (f : FrameSlot) : Bool :=
  f.ahead draw ≠ 0 && to_.any fun d => Config.rasterBuffer ≤ s.rasterHeld d ctx slot

/-- A draw wait is tried again by every gang that waits on the slot. -/
def State.wakeDraws (s : State) (ctx slot : Nat) : State :=
  let on (t : TState) : Bool := match t with
    | .draw k _ => k == slot
    | _ => false
  { s with sheets := tabMap (fun _ h => if h.ctx != ctx then h else
      { h with gangs := tabMap (fun _ g => if (g.lanesIn on).isEmpty then g else g.wake (g.lanesIn on)) h.gangs }) s.sheets }

/-- Whether an EMIT or EMITEND that passed its checks and sends to the dies `to_` waits (R151, R152, R163). -/
def State.drawWaits (s : State) (cx slot draw : Nat) (to_ : List Nat) (ctx : Context) : Bool :=
  (ctx.frameSlot slot).waits draw || s.buffersFull cx slot draw to_ (ctx.frameSlot slot)
/-- Bind a draw to its launch (R152) when the instruction that names it goes on. R152 does not say whether one that waits on a full
buffer already binds the draw: that it does not is the model's choice (log entry 86). -/
def State.bindDraw (s : State) (c : Site) (slot draw : Nat) (ctx : Context) : State :=
  if ((ctx.frameSlot slot).launchOf draw).isSome then s
  else
    (s.modCtx c.sh.ctx fun x => { x with slots := tabPut slot ((x.frameSlot slot).bind draw c.sh.launch) x.slots }).wakeDraws c.sh.ctx slot

/-- Whether the gang has executed EMITEND for the slot and draw. -/
def Site.emitEnded (c : Site) (slot draw : Nat) : Bool :=
  (tabGet c.gang c.sh.gangs).any fun g => g.emitEnd.contains (slot, draw)
/-- Whether every other gang of the sheet has executed EMITEND for the slot and draw, so that this one closes the group. -/
def Site.closesGroup (c : Site) (slot draw : Nat) : Bool :=
  c.sh.gangs.all fun p => p.1 == c.gang || p.2.emitEnd.contains (slot, draw)
/-- The limits on linear indices (R344, R345). -/
def emitIndexOk (c : Site) (l : Launch) : Bool := c.sh.index < 4194304 && l.sheets ≤ 4194304
/-- Whether the draw is bound to another launch (R152). -/
def boundElsewhere (c : Site) (ctx : Context) (slot draw : Nat) : Bool :=
  ((ctx.frameSlot slot).launchOf draw).any (· != c.sh.launch)

/-- The frame record an EMIT uses: the one the sheet has read for the slot and draw, or read now (R162, R344). -/
def State.frameRecord (s : State) (c : Site) (lead va key : Nat) : Except (Trap × State) (FrameRec × Option Nat × State) :=
  match tabGet key c.sh.recs with
  | some r => .ok (r, none, s)
  | none =>
    let req (k : Nat) : Req := { lane := lead, va := va + 32 * k, size := 32, kind := .read }
    if va % 64 ≠ 0 then .error ({ cause := 3, check := 2, lane := some lead, addr := va }, s)
    else
      match s.checkAccess c.issuer [req 0, req 1] with
      | .error (t, s) => .error ({ t with check := 2, addr := va }, s)
      | .ok (xs, s') =>
        match s'.checkLoad c c.clk xs with
        | some t => .error ({ t with addr := va }, s')
        | none =>
          let (out, v, s') := s'.loadAll (some c.sid) (c.sh.cluster?.getD 0) c.clk xs
          .ok (FrameRec.of va (out.flatMap (·.2)), v, s')

/-- A packet for every die that owns a region of the primitive's box (R153, R154). -/
def State.sendPrimitive (s : State) (dies : List Nat) (r : FrameRec) (p : Packet) : State :=
  (r.targets dies.length p.xy).foldl (fun s k =>
    { s with packets := tabPut s.nextId { p with die := dies[k]?.getD 0 } s.packets, nextId := s.nextId + 1 }) s

/-- EMIT (R151 to R154, R343, R344). -/
def execEmit (g : Guard) (slot : Fin 4) (a : Reg) (b d : Fin 64) (s : State) : Host.Outcome State Fault Refusal :=
  let i := Instr.emit g slot a b d
  enterMem i s fun s c =>
    let ls := c.accessLanes g (!a.isVec)
    match ls.head?, tabGet c.sh.launch s.launches, tabGet c.sh.ctx s.ctxs with
    | some lead, some l, some ctx =>
      let draw := (c.view.regs.uni d.val).toNat % 65536
      let va := (c.view.upair b).toNat
      let key := 65536 * slot.val + draw
      let word (l k : Nat) : Word := c.view.regPlus l a k
      orTrap c i (s.frameRecord c lead va key) fun (r, v, s') =>
        let xy (l : Nat) : List Int := (List.range 6).map fun k => (word l k).toInt
        let laneOk (l : Nat) : Bool := (xy l).all (fun x => -8388608 ≤ x && x < 8388608) && (word l 10).toNat < 67108864
        let gangOk := emitIndexOk c l && r.ok && r.addr == va && !c.emitEnded slot.val draw && !boundElsewhere c ctx slot.val draw
        match ls.find? fun k => !gangOk || !laneOk k with
        | some l => .next (s'.raise c i { cause := 1, check := 2, lane := some l })
        | none =>
          let dies := s.ctxDies c.sh.ctx
          let to_ := (ls.flatMap fun k => r.targets dies.length (xy k)).eraseDups.map fun k => dies[k]?.getD 0
          if s.drawWaits c.sh.ctx slot.val draw to_ ctx then .next (s'.waitIn c (.draw slot.val draw))
          else
            let s' := (s'.bindDraw c slot.val draw ctx).modSheet c.sid fun h => { h with recs := tabPut key r h.recs }
            let s' := match v with
              | none => s'
              | some v => s'.raiseTo c v
            let packet (k : Nat) : Packet :=
              { die := 0, ctx := c.sh.ctx, slot := slot.val, fr := va, draw := draw, group := c.sh.index
                prim := (word k 10).toNat, xy := xy k, z := [word k 6, word k 7, word k 8], vid := word k 9
                gcm1 := l.sheets - 1, clk := max c.clk (v.getD 0), sheet := c.sid }
            let s' := ls.foldl (fun s k => s.sendPrimitive (s.ctxDies c.sh.ctx) r (packet k)) s'
            .next (((s'.pinDown c.sid).noAudit c.sid).finish c i)
    | _, _, _ => .next (s.finish c i)

/-- The task group closes: a close marker goes to every live die of the partition (R155). -/
def State.sendMarkers (s : State) (c : Site) (slot draw : Nat) (l : Launch) : State :=
  (s.ctxDies c.sh.ctx).foldl (fun s d =>
    let m : Marker := { die := d, ctx := c.sh.ctx, slot := slot, draw := draw, group := c.sh.index, gcm1 := l.sheets - 1
                        clk := c.clk, sheet := c.sid }
    { s with markers := tabPut s.nextId m s.markers, nextId := s.nextId + 1 }) s

/-- EMITEND (R155, R345). -/
def execEmitend (g : Guard) (slot : Fin 4) (a : Fin 64) (s : State) : Host.Outcome State Fault Refusal :=
  let i := Instr.emitend g slot a
  enterMemGang i g s fun s c =>
    match tabGet c.sh.launch s.launches, tabGet c.sh.ctx s.ctxs with
    | some l, some ctx =>
      let draw := (c.view.regs.uni a.val).toNat % 65536
      if !emitIndexOk c l || c.emitEnded slot.val draw || boundElsewhere c ctx slot.val draw then
        .next (s.raise c i (Trap.illegal 2))
      else if s.drawWaits c.sh.ctx slot.val draw (if c.closesGroup slot.val draw then s.ctxDies c.sh.ctx else []) ctx then .next (s.waitIn c (.draw slot.val draw))
      else
        let s := (s.bindDraw c slot.val draw ctx).modGang c.sid c.gang fun q => { q with emitEnd := q.emitEnd ++ [(slot.val, draw)] }
        let all := ((tabGet c.sid s.sheets).map fun h => h.gangs.all fun p => p.2.emitEnd.contains (slot.val, draw)).getD false
        let s := if all then s.sendMarkers c slot.val draw l else s
        .next (((s.pinDown c.sid).noAudit c.sid).finish c i)
    | _, _ => .next (s.finish c i)

/-! ### Arrival at a die -/

/-- Change what a die holds of a draw; the count of groups is that of its first packet or marker (R155). -/
def State.modDraw (s : State) (die ctx slot draw gcm1 : Nat) (f : DrawState → DrawState) : State :=
  s.modDie die fun d =>
    let r := (tabGet (4 * ctx + slot) d.raster).getD {}
    let x := (tabGet draw r.draws).getD { gcm1 := gcm1 }
    { d with raster := tabPut (4 * ctx + slot) { r with draws := tabPut draw (f x) r.draws } d.raster }

/-- A primitive packet reaches its die (R154). -/
def execPrimitivePacket (id : Nat) (s : State) : Host.Outcome State Fault Refusal :=
  match tabGet id s.packets with
  | none => .fault .notEnabled
  | some p =>
    .next ({ s with packets := tabDel id s.packets }.modDraw p.die p.ctx p.slot p.draw p.gcm1 fun d =>
      { d with packets := d.packets ++ [p] })

/-- Whether a packet of a marker's group is still on its way to the marker's die (R155). -/
def State.markerBlocked (s : State) (m : Marker) : Bool :=
  s.packets.any fun p => p.2.die == m.die && p.2.ctx == m.ctx && p.2.slot == m.slot && p.2.draw == m.draw && p.2.group == m.group

/-- A close marker reaches its die, after every packet of its group (R155). An excess or repeated one is discarded. -/
def execCloseMarker (id : Nat) (s : State) : Host.Outcome State Fault Refusal :=
  match tabGet id s.markers with
  | none => .fault .notEnabled
  | some m =>
    if s.markerBlocked m then .fault .notEnabled
    else
      let s := { s with markers := tabDel id s.markers }.modDraw m.die m.ctx m.slot m.draw m.gcm1 fun d => d
      let d := ((tabGet m.die s.dies).bind fun d => tabGet (4 * m.ctx + m.slot) d.raster).bind fun r => tabGet m.draw r.draws
      if d.any fun d => d.gcm1 < m.group || (tabGet m.group d.marks).isSome then .next (s.asyncError m.ctx 4 0 0)
      else .next (s.modDraw m.die m.ctx m.slot m.draw m.gcm1 fun d => { d with marks := tabPut m.group m.clk d.marks })

end Sys2Proof.Machine
end

