-- ==== Sys2Proof/Machine/Half.lean ====
section
/-! DEFINITION. The paired half-precision instructions (R257 to R259). -/

namespace Sys2Proof.Machine

/-- The format of a paired instruction. -/
def halfFmt (t : HalfTy) : Fmt :=
  match t with
  | .f16 => fmt16
  | .bf16 => fmtB16
/-- Act on both elements of pairs (R67). -/
def pairwise2 (f : Nat → Nat → Nat) (x y : Word) : Word :=
  ofBits (f (halfOf false x) (halfOf false y) + 65536 * f (halfOf true x) (halfOf true y))
/-- HADD2 (R258). -/
def execHadd2 (g : Guard) (ty : HalfTy) (r : Rnd) (d : Reg) (a b : Operand) (s : State) : Host.Outcome State Fault Refusal :=
  alu2 (.hadd2 g ty r d a b) g d a b (pairwise2 ((halfFmt ty).add r)) s
/-- HMUL2 (R258). -/
def execHmul2 (g : Guard) (ty : HalfTy) (r : Rnd) (d : Reg) (a b : Operand) (s : State) : Host.Outcome State Fault Refusal :=
  alu2 (.hmul2 g ty r d a b) g d a b (pairwise2 ((halfFmt ty).mul r)) s
/-- HFMA2 (R258). -/
def execHfma2 (g : Guard) (ty : HalfTy) (r : Rnd) (d : Reg) (a b c : Operand) (s : State) : Host.Outcome State Fault Refusal :=
  alu3 (.hfma2 g ty r d a b c) g d a b c (fun x y z => ofBits
    ((halfFmt ty).fma r (halfOf false x) (halfOf false y) (halfOf false z)
      + 65536 * (halfFmt ty).fma r (halfOf true x) (halfOf true y) (halfOf true z))) s
/-- HMIN2 (R258). -/
def execHmin2 (g : Guard) (ty : HalfTy) (d : Reg) (a b : Operand) (s : State) : Host.Outcome State Fault Refusal :=
  alu2 (.hmin2 g ty d a b) g d a b (pairwise2 (halfFmt ty).minBits) s
/-- HMAX2 (R258). -/
def execHmax2 (g : Guard) (ty : HalfTy) (d : Reg) (a b : Operand) (s : State) : Host.Outcome State Fault Refusal :=
  alu2 (.hmax2 g ty d a b) g d a b (pairwise2 (halfFmt ty).maxBits) s
/-- FDOT2 (R259). -/
def execFdot2 (g : Guard) (ty : HalfTy) (r : Rnd) (d : Reg) (a b c : Operand) (s : State) : Host.Outcome State Fault Refusal :=
  alu3 (.fdot2 g ty r d a b c) g d a b c (fun x y z => ofBits (fdot2Bits (halfFmt ty) r x.toNat y.toNat z.toNat)) s

end Sys2Proof.Machine
end

