-- ==== Sys2Proof/Machine/SaveImage.lean ====
section
/-! DEFINITION. The layout of a sheet's image (R398 to R401). -/

namespace Sys2Proof.Machine

/-- Bytes filled with zeros to a length. -/
def padTo (n : Nat) (bs : List Byte) : List Byte := bs ++ List.replicate (n - bs.length) 0
/-- Bytes filled with zeros to a multiple of 16 KiB. -/
def padSection (bs : List Byte) : List Byte := padTo ((bs.length + 16383) / 16384 * 16384) bs

/-- Sizes of the sections QU to PC, before rounding (R399). -/
def sectionSizes (T W nv na spg npc : Nat) : List Nat :=
  let g := T / W
  [32768, 64 * g, 256 * g, 64 * g, 64 * g, 64 * g, 64 * T, 4 * nv * T, 1024 * na * g, 16384 * spg, 4 * 128 * spg, 32 * npc]
/-- Byte offsets of sections of the given sizes, from an offset on; 0 when absent (R400). -/
def sectionOffsets : Nat → List Nat → List Nat
  | _, [] => []
  | at_, n :: ns => (if n = 0 then 0 else at_) :: sectionOffsets (at_ + (n + 16383) / 16384 * 16384) ns
/-- The size of an image (R399). -/
def imageSize (T W nv na spg npc : Nat) : Nat :=
  16384 + ((sectionSizes T W nv na spg npc).map fun n => (n + 16383) / 16384 * 16384).foldl (· + ·) 0
/-- The size of a sheet's image. -/
def Sheet.imageSize (h : Sheet) : Nat := Machine.imageSize h.T h.W h.nv h.na h.spg h.pend.length

/-! ### Records -/

/-- A sequencer state's code (R401). -/
def seqCode (t : SeqSt) : Nat :=
  match t with
  | .idle => 0
  | .running => 1
  | .parked => 2
  | .faulted => 3
/-- A queue state's code (R401). -/
def queueCode (t : QState) : Nat :=
  match t with
  | .uninit => 0
  | .opened => 1
  | .closed => 2
  | .broken => 3

/-- A sequencer's 512 bytes (R401). -/
def Seq.image (q : Seq) : List Byte :=
  let held := q.held.getD { cause := 0, ioff := 0, noff := 0, addr := 0, info := 0, lane := 0 }
  let preds := ((List.range 7).map fun p => if q.regs.predAt (Fin.ofNat 8 p) 0 then 2 ^ p else 0).foldl (· + ·) 0
  padTo 512 <|
    (List.range 64).flatMap (fun n => toBytesLE 4 (q.regs.uni n).toNat) ++ (List.range 8).flatMap (fun n => toBytesLE 8 (q.regs.tile n).toNat)
      ++ toBytesLE 4 q.pc.toNat ++ toBytesLE 4 (seqCode q.st) ++ toBytesLE 8 q.clock ++ toBytesLE 4 preds
      ++ toBytesLE 4 (q.starter.getD 0) ++ toBytesLE 4 held.cause ++ toBytesLE 4 held.ioff.toNat ++ toBytesLE 8 held.addr
      ++ toBytesLE 8 held.info

/-- A queue's 2,048 bytes (R401). -/
def Queue.image (q : Queue) : List Byte :=
  let slot (i : Nat) : List Byte :=
    match q.slots[i]? with
    | none => toBytesLE 16 4294967295
    | some x => toBytesLE 4 x.who ++ toBytesLE 2 x.allow ++ toBytesLE 2 (if x.exited then 1 else 0) ++ toBytesLE 8 x.clk
  let head := toBytesLE 4 (queueCode q.st) ++ toBytesLE 4 q.cfg.toNat ++ toBytesLE 8 q.entries.length ++ toBytesLE 8 q.endClk
  padTo 2048 <| padTo 512 (padTo 128 head ++ (List.range 16).flatMap slot)
    ++ q.entries.flatMap fun e => toBytesLE 4 e.val.toNat ++ toBytesLE 4 e.slot ++ toBytesLE 8 e.clk

/-- A gang's status, 64 bytes (R401). -/
def Gang.statusImage (g : Gang) : List Byte :=
  let ended (slot : Nat) : Nat :=
    match (g.emitEnd.filter fun p => p.1 == slot).getLast? with
    | none => 0
    | some p => p.2 + 2147483648
  padTo 64 <|
    toBytesLE 4 ((if g.atS then 1 else 0) + (if g.yielded then 2 else 0)) ++ toBytesLE 4 (g.frame.getD 0) ++ toBytesLE 8 g.napEnd
      ++ (List.range 4).flatMap fun k => toBytesLE 4 (ended k)

/-- A thread's record, 64 bytes (R401). -/
def Thread.image (t : Thread) : List Byte :=
  let stack := t.stack.reverse
  let idx := (stack.zipIdx.map fun p => p.1.2.val * 16 ^ p.2).foldl (· + ·) 0
  padTo 64 <|
    padTo 32 (toBytesLE 4 t.pc.toNat ++ toBytesLE 4 (laneCode (some t)) ++ toBytesLE 8 t.clock ++ toBytesLE 4 stack.length ++ toBytesLE 4 idx)
      ++ stack.flatMap fun e => toBytesLE 4 e.1.toNat

/-- A barrier's 32 bytes (R400). -/
def Barrier.image (b : Barrier) : List Byte :=
  toBytesLE 4 ((if b.valid then 1 else 0) + (if b.ext then 2 else 0)) ++ toBytesLE 4 b.nt ++ toBytesLE 4 b.nc ++ toBytesLE 4 b.at_
    ++ toBytesLE 8 b.ac ++ toBytesLE 8 b.clk
/-- A completion counter's 16 bytes (R400). -/
def Counter.image (c : Counter) : List Byte := toBytesLE 8 c.count.toNat ++ toBytesLE 8 c.cmax
/-- A line's 4 bytes (R399). -/
def Line.image (l : Line) : List Byte :=
  toBytesLE 1 ((if l.present then 1 else 0) + (if l.eng then 2 else 0)) ++ toBytesLE 1 l.coll ++ toBytesLE 2 l.stamp
/-- A pending collective's 32 bytes (R401). -/
def PendColl.image (p : PendColl) : List Byte :=
  toBytesLE 8 p.bits.toNat ++ toBytesLE 4 p.imm.toNat ++ toBytesLE 4 p.num ++ toBytesLE 8 p.clock ++ toBytesLE 8 p.td.toNat

/-- The header (R400). -/
def Sheet.imageHeader (h : Sheet) (kind tag : Nat) : List Byte :=
  let sizes := sectionSizes h.T h.W h.nv h.na h.spg h.pend.length
  let first :=
    toBytesLE 4 0x45564153 ++ toBytesLE 4 1 ++ toBytesLE 4 kind ++ toBytesLE 4 h.W ++ toBytesLE 8 tag ++ toBytesLE 4 h.ctx
      ++ toBytesLE 4 h.T ++ toBytesLE 8 h.launch ++ toBytesLE 8 h.index ++ toBytesLE 4 h.nv ++ toBytesLE 4 h.na
      ++ toBytesLE 4 h.pool ++ toBytesLE 4 h.preq ++ toBytesLE 8 h.cyc ++ toBytesLE 8 (h.wstretch * 256 / tickNs)
      ++ toBytesLE 8 h.topClock ++ toBytesLE 4 h.duct ++ toBytesLE 4 h.diexy ++ toBytesLE 8 h.epoch
      ++ toBytesLE 8 h.pend.length ++ (sectionOffsets 16384 sizes).flatMap (toBytesLE 4)
  let mid := (List.range 16).flatMap (fun n => toBytesLE 4 (stGet 0 n h.fmt).toNat)
    ++ (List.range 8).flatMap fun k => ((tabGet k h.counters).getD {}).image
  let bars := (List.range 16).flatMap fun b => ((tabGet b h.bars).getD {}).image
  padTo 16384 <| padTo 2048 (padTo 1280 (padTo 1024 first ++ mid) ++ bars) ++ h.mseq.image ++ h.cseq.image
    ++ (List.range 10).flatMap fun k => toBytesLE 8 ((tabGet k h.matches_).getD 0)

/-- The image of a sheet (R399). -/
def Sheet.image (h : Sheet) (kind tag : Nat) : List Byte :=
  let gangs (f : Gang → List Byte) : List Byte := h.gangs.flatMap fun p => f p.2
  let thread (t : Nat) : Thread := (((tabGet (t / h.W) h.gangs).bind fun g => tabGet (t % h.W) g.threads)).getD { pc := 0, clock := 0 }
  let vec (r t : Nat) : Nat := (((tabGet (t / h.W) h.gangs).map fun g => (g.regs.vec r (t % h.W)).toNat)).getD 0
  let sections : List (List Byte) :=
    [(List.range 16).flatMap fun q => ((tabGet q h.queues).getD {}).image,
     gangs Gang.statusImage,
     gangs fun g => (List.range 64).flatMap fun n => toBytesLE 4 (g.regs.uni n).toNat,
     gangs fun g => (List.range 8).flatMap fun n => toBytesLE 8 (g.regs.tile n).toNat,
     gangs fun g => (List.range 8).flatMap fun n => toBytesLE 8 (g.regs.rejoin n).toNat,
     gangs fun g => (List.range 7).flatMap (fun n => toBytesLE 8 (g.regs.pred (Fin.ofNat 8 n)).toNat) ++ toBytesLE 8 0,
     (List.range h.T).flatMap fun t => (thread t).image,
     (List.range h.nv).flatMap fun r => (List.range h.T).flatMap fun t => toBytesLE 4 (vec r t),
     gangs fun g => (List.range h.na).flatMap fun k => (List.range 256).flatMap fun e => toBytesLE 4 (g.regs.acc k e).toNat,
     h.spadBytes 0 h.spadSize,
     (List.range (128 * h.spg)).flatMap fun n => (h.line n).image,
     h.pend.flatMap PendColl.image]
  h.imageHeader kind tag ++ sections.flatMap padSection

end Sys2Proof.Machine
end

