-- ==== Sys2Proof/Machine/Raster.lean ====
section
/-! DEFINITION. The raster units (R149, R150, R152, R156 to R162): the order of groups, coverage and depth, pixel updates,
and the advance of a slot's oldest draw. -/

namespace Sys2Proof.Machine

/-- Whether a draw has finished on a die: every group is closed and rasterised (R151, R155). -/
def DrawState.finished (d : DrawState) : Bool := d.gcm1 < d.next
/-- The draw a die works on for a slot: the first from the oldest on that has not finished there (R156). -/
def RasterSlot.current (r : RasterSlot) (o : Nat) : Nat → Option (Nat × DrawState)
  | 0 => none
  | n + 1 =>
    match tabGet o r.draws with
    | none => none
    | some d => if d.finished then r.current ((o + 1) % 65536) n else some (o, d)

/-- The signed area term of edge i → j at a point (R158). -/
def edge (xi yi xj yj px py : Int) : Int := (xj - xi) * (py - yi) - (yj - yi) * (px - xi)

/-- The edge values of a sample when a primitive covers it: |A2|, b1 and b2 (R157, R158, R159). -/
def coverage (xy : List Int) (sx sy : Int) : Option (Int × Int × Int) :=
  match xy with
  | [x0, y0, x1, y1, x2, y2] =>
    let a2 := edge x0 y0 x1 y1 x2 y2
    let s : Int := if a2 < 0 then -1 else 1
    let inside (xi yi xj yj : Int) : Bool :=
      let e := s * edge xi yi xj yj sx sy
      let dx := s * (xj - xi)
      let dy := s * (yj - yi)
      0 < e || (e == 0 && (dy < 0 || (dy == 0 && 0 < dx)))
    if a2 ≠ 0 && inside x0 y0 x1 y1 && inside x1 y1 x2 y2 && inside x2 y2 x0 y0 then
      some (s * a2, s * edge x2 y2 x0 y0 sx sy, s * edge x0 y0 x1 y1 sx sy)
    else none
  | _ => none

/-- The depth of a covered sample (R159). -/
def sampleDepth (z : List Word) (a b1 b2 : Int) : Nat :=
  let zk (k : Nat) : Nat := ((z[k]?).getD 0).toNat
  let f (x : Int) : Nat := fmt32.ofInt .rn x
  let rcp := fmt32.div .rn 0x3F800000 (f a)
  let l1 := fmt32.mul .rn (f b1) rcp
  let l2 := fmt32.mul .rn (f b2) rcp
  let d1 := fmt32.sub .rn (zk 1) (zk 0)
  let d2 := fmt32.sub .rn (zk 2) (zk 0)
  fmt32.fma .rn l2 d2 (fmt32.fma .rn l1 d1 (zk 0))

/-- A word of a plane by pixel (R148). -/
def FrameRec.word (r : FrameRec) (base px py : Nat) : Nat := base + 4 * (py * r.pitch + px)

/-- The pages of both planes that hold words of regions of logical die `me` of `d`, within the target (R149). -/
def FrameRec.pages (r : FrameRec) (d me : Nat) : List Nat :=
  ((fromTo 0 r.hm1).flatMap fun py =>
    ((fromTo 0 (r.wm1 / 64)).filter fun rx => r.owner d rx (py / 64) == me).flatMap fun rx =>
      let last := min (64 * rx + 63) r.wm1
      [r.word r.vb (64 * rx) py / 65536, r.word r.vb last py / 65536, r.word r.dz (64 * rx) py / 65536, r.word r.dz last py / 65536]).eraseDups

/-- The raster unit as an issuer of accesses: at U, with its clock (R149, R160). -/
def rasterIssuer (cx die clk : Nat) : Issuer := { cx := cx, die := die, atS := false, clk := clk }

/-- Whether every page of a list may be written by the raster unit, the translations made on the way kept (R149). -/
def State.planesOk (s : State) (w : Issuer) (pages : List Nat) : Bool × State :=
  let (m, s') := s.translatePages w pages []
  (pages.all fun p => p < 4294967296 && ((tabGet p m).bind (·.leaf)).any fun l => s.permits w .write l && s.keyOk w.cx l, s')

/-- A die begins a draw: it reads the frame record at a time no less than every clock it holds of the draw, and tests the
planes (R149, R162). The record and the view time, or none when the draw is discarded; one that meets lost bytes is discarded too
(log entry 90). -/
def State.beginDraw (s : State) (die cx clk fr : Nat) : Option (FrameRec × Nat) × State :=
  let w := rasterIssuer cx die clk
  match s.checkAccess w [{ lane := 0, va := fr, size := 32, kind := .read }, { lane := 0, va := fr + 32, size := 32, kind := .read }] with
  | .error (_, s) => (none, s)
  | .ok (xs, s) =>
    let pas := xs.map fun x => x.2.phys x.1.va
    let v := s.viewTime clk pas
    let lost := pas.any fun pa => s.poisonedAt v pa 32 || s.unreach pa
    let r := FrameRec.of fr (xs.flatMap fun x => s.versionAs x.2.key v (x.2.phys x.1.va) 32)
    let s := (s.markReads none v pas (some cx)).drew
    let dies := s.ctxDies cx
    if lost || !r.ok then (none, s)
    else
      let (ok, s) := s.planesOk (rasterIssuer cx die v) (r.pages dies.length (logicalIndex dies die))
      if ok then (some (r, v), s) else (none, s)

/-- The page of a plane's word, translated for the raster unit; a word that can no longer be written raises error 3. -/
def State.planeLeaf (s : State) (cx die clk fr va : Nat) : Option Leaf × State :=
  let w := rasterIssuer cx die clk
  let (l, s) := if va < 281474976710656 then s.leafOf cx none die clk (va / 65536) else (none, s)
  match l with
  | none => (none, s.asyncError cx 3 fr 0)
  | some l => if s.permits w .write l && s.keyOk cx l then (some l, s) else (none, s.asyncError cx 3 fr 0)

/-- Update one pixel: the depth test, and depth and visibility word written as one atomic access (R160). A test that fails only reads
the depth word, at the time its write would take; its lease and the clock are raised, and the visibility word is left alone: the
model's choice (log entry 95). -/
def State.pixel (s : State) (cx die clk : Nat) (r : FrameRec) (px py z : Nat) (vid : Word) : State × Nat :=
  let vd := r.word r.dz px py
  let vv := r.word r.vb px py
  match s.planeLeaf cx die clk r.addr vd with
  | (none, s) => (s, clk)
  | (some ld, s) =>
    match s.planeLeaf cx die clk r.addr vv with
    | (none, s) => (s, clk)
    | (some lv, s) =>
      let pd := ld.phys vd
      let pv := lv.phys vv
      if s.unreach pd || s.unreach pv then (s.asyncError cx 7 vd 0, clk)
      else
        let old := ofBytesLE (s.bytesAs ld.key pd 4)
        if timeEnd ≤ max (s.writeTime clk pd) (s.writeTime clk pv) then (s.exhaust cx, clk)
        else if fmt32.lt z old then
          let s := (s.beforeWrite cx vd).beforeWrite cx vv
          let t := max (s.writeTime clk pd) (s.writeTime clk pv)
          let s := s.perform { sheet := none, ctx := cx, key := ld.key, home := some (s.homeOf cx vd ld), reads := true } t pd ((toBytesLE 4 z).map some) none
          (s.perform { sheet := none, ctx := cx, key := lv.key, home := some (s.homeOf cx vv lv) } t pv ((toBytesLE 4 vid.toNat).map some) none, t)
        else
          let t := s.writeTime clk pd
          (s.markRead none t pd (some cx), t)

/-- Rasterise one primitive on a die (R150, R157 to R160). -/
def State.rasterise (s : State) (die clk : Nat) (r : FrameRec) (p : Packet) : State × Nat :=
  let dies := s.ctxDies p.ctx
  let me := logicalIndex dies die
  match boxAxis (xsOf p.xy) r.wm1, boxAxis (ysOf p.xy) r.hm1 with
  | some (x0, x1), some (y0, y1) =>
    (fromTo y0 y1).foldl (fun q py => (fromTo x0 x1).foldl (fun (q : State × Nat) px =>
      if r.owner dies.length (px / 64) (py / 64) != me then q
      else
        match coverage p.xy (256 * px + 128 + r.jx) (256 * py + 128 + r.jy) with
        | none => q
        | some (a, b1, b2) => q.1.pixel p.ctx die q.2 r px py (sampleDepth p.z a b1 b2) p.vid) q) (s, clk)
  | _, _ => (s, clk)

/-- Primitives in token order; which of several of one token goes first is free (R156). -/
def State.tokenOrder (s : State) : Nat → List Packet → List Packet × State
  | 0, l => (l, s)
  | _, [] => ([], s)
  | n + 1, p :: l =>
    let least := (l.map (·.prim)).foldl min p.prim
    let ties := ((p :: l).zipIdx).filter fun q => q.1.prim == least
    let k := s.free .tokenOrder % ties.length
    let s := if 1 < ties.length then s.drew else s
    match ties[k]? with
    | none => (p :: l, s)
    | some q =>
      let (rest, s) := s.tokenOrder n ((p :: l).eraseIdx q.2)
      (q.1 :: rest, s)

/-- The next group of the die's current draw, when it has closed (R156): draw, its state and the marker's clock. -/
def State.nextGroup (s : State) (die ctx slot : Nat) : Option (Nat × DrawState × Nat × Nat) :=
  match (tabGet die s.dies).bind fun d => tabGet (4 * ctx + slot) d.raster, tabGet ctx s.ctxs with
  | some r, some c =>
    match r.current (c.frameSlot slot).o (r.draws.length + 1) with
    | none => none
    | some (n, d) => (tabGet d.next d.marks).map fun m => (n, d, m, r.clk)
  | _, _ => none

/-- A die rasterises the next group of a slot (R156 to R162). Its clock merges those of the packets and markers plus one (R133). -/
def execRasteriseGroup (die ctx slot : Nat) (s : State) : Host.Outcome State Fault Refusal :=
  match s.nextGroup die ctx slot with
  | none => .fault .notEnabled
  | some (draw, d, m, clk) =>
    let ps := d.packets.filter fun p => p.group == d.next
    let clk := max clk (1 + max m (maxOf (ps.map (·.clk))))
    let held := max clk (1 + max (maxOf (d.packets.map (·.clk))) (maxOf (d.marks.map (·.2))))
    let (ps, s) := s.tokenOrder ps.length ps
    let begins := d.record.isNone && !d.failed
    let (d, clk, s) : DrawState × Nat × State :=
      match ps, begins with
      | p :: _, true =>
        match s.beginDraw die ctx held p.fr with
        | (some (r, v), s) => ({ d with record := some r }, max clk v, s)
        | (none, s) => ({ d with failed := true }, clk, s.asyncError ctx 3 p.fr 0)
      | _, _ => (d, clk, s)
    let (s, clk) := match d.record with
      | none => (s, clk)
      | some r => ps.foldl (fun (q : State × Nat) p => q.1.rasterise die q.2 r p) (s, clk)
    let d := { d with packets := d.packets.filter (·.group != d.next), next := d.next + 1 }
    let s := s.modDie die fun x =>
      let r := (tabGet (4 * ctx + slot) x.raster).getD {}
      { x with raster := tabPut (4 * ctx + slot) { clk := clk, draws := tabPut draw d r.draws } x.raster }
    let launch := (tabGet ctx s.ctxs).bind fun c => (c.frameSlot slot).launchOf draw
    let s := (launch.map fun l => s.modLaunch l fun x => { x with maxTime := max x.maxTime clk }).getD s
    .next (if timeEnd ≤ clk then (s.wakeDraws ctx slot).exhaust ctx else s.wakeDraws ctx slot).reap

/-- Whether the oldest unfinished draw of a slot has finished on every live die of the partition (R152). -/
def State.drawDone (s : State) (ctx slot : Nat) : Bool :=
  match tabGet ctx s.ctxs with
  | none => false
  | some c =>
    !(s.ctxDies ctx).isEmpty && (s.ctxDies ctx).all fun die =>
      (((tabGet die s.dies).bind fun d => tabGet (4 * ctx + slot) d.raster).bind fun r => tabGet (c.frameSlot slot).o r.draws).any (·.finished)

/-- The binding of a draw has ended: that gangs ended it is forgotten, and the record read for it (R152, R162). -/
def Sheet.forgetEnd (h : Sheet) (slot draw : Nat) : Sheet :=
  { h with
    gangs := tabMap (fun _ g => { g with emitEnd := g.emitEnd.filter fun p => !(p.1 == slot && p.2 == draw) }) h.gangs
    recs := tabDel (65536 * slot + draw) h.recs }
/-- The oldest unfinished draw of a slot passes (R152). -/
def execDrawAdvance (ctx slot : Nat) (s : State) : Host.Outcome State Fault Refusal :=
  if s.drawDone ctx slot then
    let o := ((tabGet ctx s.ctxs).map fun c => (c.frameSlot slot).o).getD 0
    let passed (f : FrameSlot) : FrameSlot := { o := (o + 1) % 65536, bound := f.bound.filter fun (b : Nat × Nat) => b.1 != o }
    let drop (r : RasterSlot) : RasterSlot := { r with draws := tabDel o r.draws }
    let s := s.modCtx ctx fun c => { c with slots := tabPut slot (passed (c.frameSlot slot)) c.slots }
    let s := { s with dies := tabMap (fun _ d => { d with raster := tabMod (4 * ctx + slot) drop d.raster }) s.dies }
    let s := { s with sheets := tabMap (fun _ h => if h.ctx == ctx then h.forgetEnd slot o else h) s.sheets }
    .next (s.wakeDraws ctx slot)
  else .fault .notEnabled

end Sys2Proof.Machine
end

