-- ==== Sys2Proof/Machine/System.lean ====
section
/-! DEFINITION. The system instructions but for context save: SYSRD and SYSWR (R363 to R369), ERET (R370, R387), TLBINV
(R371, R403, R422), INVREP (R372), HALT (R375), WDCLR (R376) and STAMP (R378), with the conversion of replicas (R421). -/

namespace Sys2Proof.Machine

/-! ### System registers -/

/-- The value SYSRD returns (R363, R365 to R367). -/
def State.sysReg (s : State) (c : Site) (n : Nat) : Nat :=
  match tabGet c.sh.ctx s.ctxs with
  | none => 0
  | some x =>
    let k := c.sh.cluster?.getD 0
    let cl (f : Cluster → Nat) : Nat := ((tabGet k s.clusters).map f).getD 0
    match n with
    | 0x00 => c.sh.ctx
    | 0x01 => x.svec
    | 0x02 => x.tfrm
    | 0x03 => x.ttb
    | 0x04 => x.ceil + 256 * x.cmax
    | 0x05 => x.ewl
    | 0x06 => x.plq
    | 0x07 => x.swd
    | 0x08 => x.tring
    | 0x09 => x.thead
    | 0x0A => x.audk
    | 0x0B => s.horizon c.sh.ctx
    | 0x40 => s.clid k
    | 0x41 => cl Cluster.clcfg
    | 0x42 => cl (·.ratio % 4)
    | 0x43 => cl fun q => q.didt % 65536 + 65536 * (q.igang % 65536)
    | 0x44 => cl Cluster.spacing
    | 0x45 => cl fun q => clkst q.fstep (s.clusterClass k) (((tabGet q.die s.dies).map (·.permits)).getD 0)
    | _ => cl (·.enrg)

/-- Energy has been spent since the cluster's counter was last read; how much is free (R363). -/
def State.spendEnergy (s : State) (c : Site) (n : Nat) : State :=
  if n = 0x46 then
    (s.modCluster (c.sh.cluster?.getD 0) fun q => { q with enrg := (q.enrg + s.free .energy) % 18446744073709551616 }).drew
  else s

/-- A register number or a TYPE that the table does not give fails decode (R194, R364). -/
def sysAccess (i : Instr) (g : Guard) (n : Nat) (wide : Bool) (s : State) (k : Site → Host.Outcome State Fault Refusal) :
    Host.Outcome State Fault Refusal :=
  enter i s fun c =>
    if sysRegWide n ≠ some wide then .next (s.raise c i (Trap.illegal 1))
    else if c.view.acts g then k c else .next (s.finish c i)

/-- SYSRD (R369). -/
def execSysrd (g : Guard) (num : Byte) (wide : Bool) (d : Fin 64) (s : State) : Host.Outcome State Fault Refusal :=
  let i := Instr.sysrd g num wide d
  sysAccess i g num.toNat wide s fun c =>
    let s := s.spendEnergy c num.toNat
    let v := s.sysReg c num.toNat
    let r := c.view.regs.setUni d.val (BitVec.ofNat 32 v)
    let r := if wide then r.setUni (d.val + 1) (BitVec.ofNat 32 (v / 4294967296)) else r
    .next ((s.putRegs c r).finish c i)

/-- The value SYSWR writes (R368, R369). -/
def View.sysValue (v : View) (wide : Bool) (a : SysOperand) : Nat :=
  match a with
  | .s n => if wide then (v.upair n).toNat else (v.regs.uni n.val).toNat
  | .imm w => if wide then (w.signExtend 64).toNat else w.toNat
  | .imm64 w => if wide then w.toNat else w.toNat % 4294967296

/-- A context register after S writes it; reserved fields ignore writes (R363, R364, R365). TTB and CEIL have writes of
their own. -/
def Context.sysWrite (c : Context) (n v : Nat) : Context :=
  match n with
  | 0x05 => { c with ewl := v }
  | 0x06 => { c with plq := max 10 v }
  | 0x07 => { c with swd := v }
  | 0x08 => { c with tring := bitsOf v 12 40 * 4096 + v / 9223372036854775808 * 9223372036854775808 }
  | 0x09 => { c with thead := v }
  | _ => c

/-- SYSWR of a register other than TTB and CEIL (R364, R369): a number of the table that S may not write is the privilege trap, ahead
of a TYPE that does not match (R380). -/
def execSyswr (g : Guard) (num : Byte) (wide : Bool) (a : SysOperand) (s : State) : Host.Outcome State Fault Refusal :=
  let i := Instr.syswr g num wide a
  if sysReadOnly num.toNat then
    enter i s fun c => .next (s.raise c i { cause := 2, check := 1 })
  else
    sysAccess i g num.toNat wide s fun c =>
      let s := s.modCtx c.sh.ctx (·.sysWrite num.toNat (c.view.sysValue wide a))
      .next (((s.pinDown c.sid).noAudit c.sid).finish c i)

/-- SYSWR to CEIL (R365): no more than CMAX is stored. -/
def execSyswrCeil (g : Guard) (a : SysOperand) (s : State) : Host.Outcome State Fault Refusal :=
  let i := Instr.syswrCeil g a
  enterGang i g s fun c =>
    let s := s.modCtx c.sh.ctx fun x => { x with ceil := min (c.view.sysValue false a % 4) x.cmax }
    .next (((s.pinDown c.sid).noAudit c.sid).finish c i)

/-! ### Return from a trap -/

/-- A frame as ERET reads it (R383, R387). -/
structure Frame where
  cause : Nat
  nores : Bool
  napEnd : Nat
  s : List Word
  p : List Mask
  rpc : List Word
  lst : List Nat
  deriving DecidableEq, Repr

/-- The fields of 1,024 bytes (R383). -/
def Frame.of (bs : List Byte) : Frame :=
  let at_ (o n : Nat) : Nat := ofBytesLE ((bs.drop o).take n)
  { cause := at_ 0 1, nores := (at_ 0 4).testBit 18, napEnd := at_ 80 8
    s := (List.range 16).map fun k => BitVec.ofNat 32 (at_ (128 + 4 * k) 4)
    p := (List.range 7).map fun k => BitVec.ofNat 64 (at_ (192 + 8 * k) 8)
    rpc := (List.range 64).map fun l => BitVec.ofNat 32 (at_ (256 + 4 * l) 4)
    lst := (List.range 64).map fun l => at_ (512 + l) 1 }

/-- Whether a state byte is one of R384 that the lane may take: state 2 only for a lane that waited on that barrier at
entry (R387). -/
def Gang.stateByteOk (q : Gang) (l b : Nat) : Bool :=
  b == 0 || b == 1 || b == 3 || b == 4 || (b % 16 == 2 && tabGet l q.entryWait == some (b / 16))
/-- Whether ERET accepts the frame (R387 step 1): every lane's byte is a state of R384 and every offset a multiple of 4. -/
def Frame.ok (f : Frame) (q : Gang) : Bool :=
  (List.range 64).all fun l => q.stateByteOk l ((f.lst[l]?).getD 0) && ((f.rpc[l]?).getD 0).toNat % 4 == 0

/-- One lane as the frame says (R387 step 3). A lane still waiting on its barrier stays there, its wait measured anew
(R392); one released at S runs. -/
def Thread.resumed (t : Thread) (b napEnd now : Nat) (rpc : Word) : Thread :=
  let st : TState :=
    if b = 1 then .held else if b = 3 then .nap (napEnd * tickNs) else if b = 4 then .exited
    else if b = 0 then .running
    else match t.st with
      | .barrier k d => .barrier k d
      | _ => .running
  { t with pc := rpc, st := st, since := now }

/-- The gang ERET leaves (R387 steps 2 to 4); lanes at or above the width keep no predicate bit (R20). -/
def Gang.returned (q : Gang) (f : Frame) (W now : Nat) : Gang :=
  let r := (f.s.zipIdx).foldl (fun r p => r.setUni p.2 p.1) q.regs
  let r := (f.p.zipIdx).foldl (fun r p => r.setPred (Fin.ofNat 8 p.2) (p.1 &&& lanesBelow W)) r
  let kept := q.relPd.filter fun x => ((f.lst[x.1]?).getD 0) % 16 == 2
  let r := kept.foldl (fun r x => r.putPred x.2.1 [x.1] fun _ => x.2.2) r
  let dead := (q.threads.filter fun p => p.2.st != .exited && (f.lst[p.1]?).getD 0 == 4).map (·.1)
  let q := { q with
    threads := tabMap (fun l t => if l < W then t.resumed ((f.lst[l]?).getD 0) f.napEnd now ((f.rpc[l]?).getD 0) else t) q.threads
    regs := r, atS := false, frame := none, yielded := false, entryWait := [], relPd := [], wdSpent := 0, wdFrom := none }
  q.exitLanes dead

/-- Read a frame at a view time of at least the gang's clock (R387): its bytes and the view time. -/
def State.readFrame (s : State) (c : Site) (n : Nat) : Except (Trap × State) (List Byte × Option Nat × State) :=
  let tfrm := ((tabGet c.sh.ctx s.ctxs).map (·.tfrm)).getD 0
  let reqs := (List.range 32).map fun k => { lane := c.view.lead, va := tfrm + 1024 * n + 32 * k, size := 32, kind := .read : Req }
  match s.checkAccess c.issuer reqs with
  | .error t => .error t
  | .ok (xs, s') =>
    let clk := ((tabGet c.gang c.sh.gangs).map (·.clockOf (List.range c.sh.W))).getD 0
    match s'.checkLoad c clk xs with
    | some t => .error (t, s')
    | none =>
      let (out, v, s') := s'.loadAll (some c.sid) (c.sh.cluster?.getD 0) clk xs
      .ok (out.flatMap (·.2), v, s')

/-- ERET (R370, R387). -/
def execEret (g : Guard) (s : State) : Host.Outcome State Fault Refusal :=
  let i := Instr.eret g
  enterMemGang i g s fun s c =>
    match (tabGet c.gang c.sh.gangs).bind fun q => q.frame.map fun n => (q, n) with
    | none => .next (s.raise c i (Trap.illegal 2))
    | some (q, n) =>
      orTrap c i (s.readFrame c n) fun (bs, v, s') =>
        let f := Frame.of bs
        if !f.ok q then .next (s'.raise c i (Trap.illegal 2))
        else if f.nores then .next ({ s' with issue := none }.endContext c.sh.ctx 1 (4294901760 + f.cause))
        else
          let s' := match v with
            | none => s'
            | some v => s'.raiseTo c v
          let s' := s'.modCtx c.sh.ctx fun x => { x with frames := x.frames.filter (· != n) }
          let s' := s'.modGang c.sid c.gang fun q => (q.returned f c.sh.W s.now).settle
          let s' := s'.modSheet c.sid fun h =>
            match tabGet c.gang h.gangs with
            | none => h
            | some q => if q.exited then h.producerExits c.gang (q.clockOf (List.range h.W)) else h
          .next (({ s' with issue := none }.afterExit c.sid).reap)

/-! ### Invalidation of translations -/

/-- Every write of a context to coherent pages has its time, in issue order; what near caches hold dirty is left to the sweep. -/
def State.drainCtx (s : State) (cx : Nat) : State := s.drain fun w => w.ctx == cx && w.dirtyOn.isNone
/-- Whether a copy uses a translation of one of the pages. -/
def Copy.touches (cp : Copy) (r : Pages) : Bool :=
  cp.reads.any (fun x => r.has (x.va / 65536)) || cp.out.any fun e => r.has (e.va / 65536)
/-- The copies of a context that use one of the pages complete. -/
def State.drainCopies (s : State) (cx : Nat) (page : Pages) : State :=
  ((s.copies.filter fun p => p.2.ctx == cx && p.2.touches page).map (·.1)).foldl (fun s id =>
    let (s, due) := s.completeCopy id
    s.shadowPoints due) s

/-- The greatest lease end of the atoms a cached translation reaches, its page's or its block's: no access under it has a later time
(log entry 18). -/
def State.leafTime (s : State) (l : Leaf) : Nat :=
  maxOf ((s.atoms.filter fun a => l.pa ≤ 32 * a.1 && 32 * a.1 < l.pa + (if l.block then 536870912 else 65536)).map fun a => a.2.e)

/-- Dependence counters on the pages are translated again; one that fails removes its launch (R42, R403). No rule says at which logical
time a dependence is met that is found to hold then: that it is the write time of the counter's atom is the model's choice (log entry
39). -/
def State.recheckDeps (s : State) (cx clk : Nat) (page : Pages) : State :=
  (s.launches.filter fun p => p.2.ctx == cx && p.2.eligible.isNone && p.2.deps.any fun d => d.met.isNone && page.has (d.addr / 65536)).foldl
    (fun s p =>
      p.2.deps.foldl (fun s d =>
        if d.met.isNone && page.has (d.addr / 65536) && (tabGet p.1 s.launches).isSome then
          match s.leafOf cx none ((s.ctxDies cx).headD 0) clk (d.addr / 65536) with
          | (some l, s) =>
            let pa := l.phys d.addr
            let moved (x : Dep) : Dep := if x.addr == d.addr && x.met.isNone then { x with pa := pa, key := l.key } else x
            (s.modLaunch p.1 fun q => { q with deps := q.deps.map moved }).testWatches pa (s.atom pa).w
          | (none, s) => { s with launches := tabDel p.1 s.launches }.asyncError cx 1 d.addr 0
        else s) s) s

/-- The accesses of a context that used a translation of some pages are performed, and its software-managed pages among them are swept
(R371, R422). -/
def State.settlePages (s : State) (cx c : Nat) (page : Pages) : State :=
  let s := (s.drainCtx cx).drainCopies cx page
  ((((tabGet cx s.ctxs).map (·.soft)).getD []).filter fun p => page.has p.1).foldl (fun s p => s.sweepPage cx c p.1 p.2) s
/-- Discard the translations of pages of a context as TLBINV does (R371, R422), once the accesses that used them are performed. The
time T. -/
def State.invalidate (s : State) (cx c : Nat) (page : Pages) : State × Nat :=
  let s := s.settlePages cx c page
  let gone := ((((tabGet cx s.ctxs).map fun x => x.tlb ++ x.near).getD []).filter fun p => page.meets p.2.1 p.2.2).map (·.2.2)
  let soft := (((tabGet cx s.ctxs).map (·.soft)).getD []).filter fun p => page.has p.1
  let t := 1 + max c (maxOf ((gone ++ soft.map (·.2)).map s.leafTime))
  let s := s.discard cx c page
  (s.recheckDeps cx c page, t)

/-- The pages a range instruction names, when its operands pass (R371). -/
def pageRange (a n : Nat) : Option Pages :=
  if n = 0 || 65536 < n || 281474976710656 ≤ a || 4294967296 < a / 65536 + n then none
  else some { first := a / 65536, last := a / 65536 + n - 1 }

/-- TLBINV of the named pages (R371). -/
def tlbinv (i : Instr) (g : Guard) (s : State) (pages : View → Option Pages) (f : State → Site → State) :
    Host.Outcome State Fault Refusal :=
  enterMemGang i g s fun s c =>
    match pages c.view with
    | none => .next (s.raise c i (Trap.illegal 2))
    | some page =>
      let (s, t) := (f s c).invalidate c.sh.ctx c.clk page
      .next (if t < timeEnd then (s.raiseTo c t).finish c i else (s.exhaust c.sh.ctx).finish c i)
/-- TLBINV.page (R371). -/
def execTlbinvPage (g : Guard) (a : Fin 64) (s : State) : Host.Outcome State Fault Refusal :=
  tlbinv (.tlbinvPage g a) g s (fun v => pageRange (v.upair a).toNat 1) fun s _ => s
/-- TLBINV.range (R371). -/
def execTlbinvRange (g : Guard) (a b : Fin 64) (s : State) : Host.Outcome State Fault Refusal :=
  tlbinv (.tlbinvRange g a b) g s (fun v => pageRange (v.upair a).toNat (v.regs.uni b.val).toNat) fun s _ => s
/-- TLBINV.ctx (R371). -/
def execTlbinvCtx (g : Guard) (s : State) : Host.Outcome State Fault Refusal :=
  tlbinv (.tlbinvCtx g) g s (fun _ => some .all) fun s _ => s
/-- SYSWR to TTB (R365): the root changes, and the instruction acts as TLBINV.ctx. -/
def execSyswrTtb (g : Guard) (a : SysOperand) (s : State) : Host.Outcome State Fault Refusal :=
  tlbinv (.syswrTtb g a) g s (fun _ => some .all) fun s c =>
    ((s.modCtx c.sh.ctx fun x => { x with ttb := c.view.sysValue true a / 65536 * 65536 }).pinDown c.sid).noAudit c.sid

/-- INVREP of a range: every replicated page of it is converted (R372). -/
def invrep (i : Instr) (g : Guard) (s : State) (pages : View → Option Pages) : Host.Outcome State Fault Refusal :=
  enterMemGang i g s fun s c =>
    match pages c.view with
    | none => .next (s.raise c i (Trap.illegal 2))
    | some page =>
      let mine := (s.replicas.filter fun r => r.ctx == c.sh.ctx && page.has r.page).map (·.page)
      .next ((mine.foldl (fun s p => s.convert c.sh.ctx p) s).finish c i)
/-- INVREP (R372). -/
def execInvrep (g : Guard) (a : Fin 64) (s : State) : Host.Outcome State Fault Refusal :=
  invrep (.invrep g a) g s fun v => pageRange (v.upair a).toNat 1
/-- INVREP.range (R372). -/
def execInvrepRange (g : Guard) (a b : Fin 64) (s : State) : Host.Outcome State Fault Refusal :=
  invrep (.invrepRange g a b) g s fun v => pageRange (v.upair a).toNat (v.regs.uni b.val).toNat

/-- A page whose directory entry is converting becomes home-only (R421). -/
def execReplicaConversion (ctx page : Nat) (s : State) : Host.Outcome State Fault Refusal :=
  if s.replicas.any (fun r => r.ctx == ctx && r.page == page && r.converting) then .next (s.convert ctx page).reap else .fault .notEnabled

/-- A walk of a page for a cluster (R417): its result is cached, unless it failed. -/
def execPageWalk (ctx cluster page : Nat) (s : State) : Host.Outcome State Fault Refusal :=
  match tabGet ctx s.ctxs, tabGet cluster s.clusters with
  | some _, some k =>
    let (w, s) := s.walk ctx k.die 0 page
    .next (s.modCtx ctx (·.cache (some cluster) k.die page w))
  | _, _ => .fault .notEnabled

/-! ### HALT, WDCLR, STAMP -/

/-- HALT (R375). -/
def execHalt (g : Guard) (a : UOperand) (s : State) : Host.Outcome State Fault Refusal :=
  let i := Instr.halt g a
  enterGang i g s fun c => .next ({ s with issue := none }.endContext c.sh.ctx 0 (c.view.uop a).toNat)

/-- WDCLR (R376). -/
def execWdclr (g : Guard) (s : State) : Host.Outcome State Fault Refusal :=
  let i := Instr.wdclr g
  enterGang i g s fun c => .next ((s.modGang c.sid c.gang fun q => { q with wdSpent := 0, wdFrom := some s.now }).finish c i)

/-- The record STAMP writes at a time (R378). -/
def State.stampRecord (s : State) (c : Site) (tag : Word) (t : Nat) : List Byte :=
  toBytesLE 8 s.etime ++ toBytesLE 8 t ++ toBytesLE 8 c.sh.cyc ++ toBytesLE 4 tag.toNat ++ toBytesLE 4 (s.clid (c.sh.cluster?.getD 0))

/-- STAMP (R378). -/
def execStamp (g : Guard) (a : UOperand) (s : State) : Host.Outcome State Fault Refusal :=
  let i := Instr.stamp g a
  enterMemGang i g s fun s c =>
    match tabGet c.sh.ctx s.ctxs with
    | none => .next (s.finish c i)
    | some x =>
      if x.tring < 9223372036854775808 then .next ((s.pinDown c.sid).finish c i)
      else
        let slot := x.thead % (128 * 2 ^ bitsOf x.tring 48 4)
        let addr := bitsOf x.tring 12 36 * 4096 + 32 * slot
        orTrap c i (s.checkAccess c.issuer [{ lane := c.view.lead, va := addr, size := 32, kind := .write }]) fun (xs, s') =>
          match xs with
          | [] => .next (s'.finish c i)
          | (_, l) :: _ =>
            let pa := l.phys addr
            let s' := (s'.beforeWrite c.sh.ctx addr).modCtx c.sh.ctx fun x => { x with thead := (x.thead + 1) % 18446744073709551616 }
            let t := s'.writeTime c.clk pa
            let s' : State :=
              if s'.unreach pa then s'.asyncError c.sh.ctx 7 addr 0
              else
                match s'.placeWrite { sheet := some c.sid, ctx := c.sh.ctx, key := l.key, home := some (s'.homeOf c.sh.ctx addr l) } c.clk pa ((s'.stampRecord c (c.view.uop a) t).map some) with
                | none => s'.exhaust c.sh.ctx
                | some (s', t) => s'.raiseTo c t
            .next (((s'.pinDown c.sid).noAudit c.sid).finish c i)

end Sys2Proof.Machine
end

