-- ==== Sys2Proof/Machine/Fetch.lean ====
section
/-! DEFINITION. Fetch: the code block of an issue (R182, R183, R360), the patch overlay (R201), the engine subset as the
fields show it (R326), and what stands at a program counter (R181, R194, R380). -/

namespace Sys2Proof

/-- Whether the operand code is a uniform register's (R185). -/
def uniCode (c : Nat) : Bool := 192 ≤ c
/-- The number of register sources of an opcode from 0x20 to 0x3C; MOVI's one source is an immediate (R245). -/
def aluSources (opc : Nat) : Nat :=
  if [0x22, 0x25, 0x26, 0x2C, 0x2F, 0x31, 0x33].contains opc then 3
  else if [0x2A, 0x2B, 0x32, 0x37].contains opc then 1
  else if [0x38, 0x39, 0x3A, 0x3B, 0x3C].contains opc then 0
  else 2
/-- Whether every register field in use of an opcode from 0x20 to 0x3C holds a uniform code. -/
def Fields.aluUniform (f : Fields) : Bool :=
  let reg (k : Nat) : Bool := (f.len ≠ 0 && f.isel == k) || uniCode (f.field k)
  let srcs := (List.range (aluSources f.opc)).all fun k => reg (k + 1)
  let d := f.opc == 0x35 || f.opc == 0x3A || uniCode f.dst
  if f.opc == 0x3B then f.sub ≠ 1 && (f.sub ≠ 0 || uniCode f.sra)
  else if f.opc == 0x3C then
    if f.sub == 0 then uniCode f.dst else if f.sub == 1 then uniCode f.sra else f.sub ≠ 2
  else if f.opc == 0x39 && specialLane (f.xmod * 4 + f.rnd) then false
  else d && srcs
/-- Whether the word lies in the engine subset of a sequencer, decided from its opcode, the fields that select its
member and the classes of its operand codes (R194, R215, R322, R326). -/
def Fields.engineSubset (k : SeqKind) (f : Fields) : Bool :=
  match f.opc with
  | 0x00 | 0x01 | 0x06 | 0xB5 | 0xE3 | 0xE4 => true
  | 0x02 | 0x05 => uniCode f.sra
  | 0xE1 => f.sub ≠ 0 && f.sub ≠ 1
  | 0xD1 | 0xD2 => k == .m
  | _ => 0x20 ≤ f.opc && f.opc ≤ 0x3C && f.aluUniform
/-- The same of a word of which its block holds only the first four bytes (R182, R326): the fields it shows (LEN, OPC, DST and
SRA) decide, and where they do not, a member of the subset may stand there (log entry 81). A word longer than 64 bits may have an
immediate in place of SRA. -/
def Fields.headSubset (k : SeqKind) (f : Fields) : Bool :=
  match f.opc with
  | 0xE1 | 0x3B | 0x3C => true
  | _ =>
    if 0x20 ≤ f.opc && f.opc ≤ 0x3A then
      (f.opc == 0x35 || f.opc == 0x3A || uniCode f.dst) && (f.len ≠ 0 || aluSources f.opc == 0 || uniCode f.sra)
    else f.engineSubset k

end Sys2Proof

namespace Sys2Proof.Machine

/-- Whether a word is a SYSWR, as far as its bytes are in the block, that names a register S may not write. Privilege comes
before decode (R380), so neither its TYPE nor another field is looked at (R364). -/
def writesReadOnly (f : Fields) (n : Nat) : Bool := 8 ≤ n && f.opc == 0xF1 && sysReadOnly (f.xmod * 4 + f.rnd)

/-- SBASE, the base of supervisor code (R365). -/
def Context.sbase (c : Context) : Nat := bitsOf c.svec 7 41 * 128
/-- The address code offsets count from: KADDR, or SBASE at S (R212, R360). -/
def State.codeBase (s : State) (h : Sheet) (atS : Bool) : Nat :=
  if atS then ((tabGet h.ctx s.ctxs).map (·.sbase)).getD 0 else ((tabGet h.launch s.launches).map (·.kaddr)).getD 0

/-- The bytes a fetch finds in the aligned 32-byte block: a launch's clusters keep the block they filled, and after a
store to it hold the old bytes or the new (R183); code at S alike (R360). -/
def State.codeBlock (s : State) (h : Sheet) (key va pa : Nat) : List Byte × State :=
  let home := s.bytesAs key (pa / 32 * 32) 32
  let k := h.cluster?.getD 0
  let held := (tabGet h.launch s.launches).bind fun l => l.code.find? fun b => b.1 == k && b.2.1 == va / 32 * 32
  let fill (s : State) : State := s.modLaunch h.launch fun l =>
    { l with code := (l.code.filter fun b => !(b.1 == k && b.2.1 == va / 32 * 32)) ++ [(k, va / 32 * 32, home)] }
  match held with
  | none => (home, fill s)
  | some b =>
    if b.2.2 = home then (home, s)
    else if s.free .codeBytes % 2 = 0 then (b.2.2, s.drew)
    else (home, (fill s).drew)

/-- A block as a launch fetches it, at U or at S (R201, R360): patched immediates stand in place of the bytes in memory (R201, R202). R201 orders no two patches
that meet in a byte and speaks of the block that holds the instruction: that the first entry of the table wins such a byte,
and that the immediate of an instruction which goes on in the next block is overlaid there too, is the model's choice (log
entry 84). -/
def Launch.overlay (l : Launch) (va : Nat) (bs : List Byte) : List Byte :=
  bs.zipIdx.map fun p =>
    let off := va / 32 * 32 + p.2 - l.kaddr
    match l.patches.find? fun q => l.kaddr ≤ va / 32 * 32 + p.2 && q.off ≤ off && off < q.off + q.bytes.length with
    | none => p.1
    | some q => (q.bytes[off - q.off]?).getD p.1

/-- What the bytes from a program counter to the end of its block hold (R181, R182, R194, R326). -/
def fetched (agent : Agent) (atS : Bool) (pc : Word) (bs : List Byte) : Fetched :=
  if ofBytesLE (bs.take 4) = 4294967295 then .pad
  else
    let w := ofBytesLE (bs.take 16)
    let f := Fields.unpack w
    let site := if f.len = 3 then none else some (pc + BitVec.ofNat 32 (lengthBytes f.len), f.guard)
    let outside : Option Trap :=
      match agent with
      | .seq k => if (if bs.length < 8 then f.headSubset k else f.engineSubset k) then none else some { cause := 12 }
      | .gang _ => if systemOpcode f.opc && !atS then some { cause := 2, check := 1 } else none
    match outside with
    | some t => .trap t site
    | none =>
      match decodeBytes bs with
      | .ok i => .instr i
      | .error _ => .trap (if writesReadOnly f bs.length then { cause := 2, check := 1 } else Trap.illegal 1) site

/-- Fetch at a program counter (R182, R197, R380): region, translation, permission, key and data, then the word. -/
def State.fetchAt (s : State) (sid : Nat) (h : Sheet) (agent : Agent) (atS : Bool) (die : Nat) (clk : Nat) (pc : Word) :
    Fetched × State :=
  let l := tabGet h.launch s.launches
  let inside : Bool :=
    match agent with
    | .gang _ => true
    | .seq k => inRegion ((l.map (·.region k)).getD (0, 0)) pc.toNat
  if !inside then (.trap { cause := 12 } none, s)
  else
    let va := s.codeBase h atS + pc.toNat
    match s.checkAccess { cx := h.ctx, die := die, atS := atS, clk := clk, cl := h.cluster?, sid := some sid }
        [{ lane := 0, va := va, size := 4, kind := .fetch }] with
    | .error (t, s) => (.trap { cause := t.cause, addr := va, info := t.info, own := t.own } none, s)
    | .ok ([], s) => (.trap { cause := 4, addr := va } none, s)
    | .ok ((_, leaf) :: _, s) =>
      let pa := leaf.phys va
      if s.poisoned (pa / 32 * 32) 32 || s.unreach pa then
        (.trap { cause := 16, addr := va, own := s.poisoned (pa / 32 * 32) 32 && (s.atom pa).itag == some h.ivl.tag } none, s)
      else
        let (bs, s) := s.codeBlock h leaf.key va pa
        let bs := (l.map fun l => l.overlay va bs).getD bs
        (fetched agent atS pc (bs.drop (va % 32)), s.observe (s.atom pa).itag none (some h.ctx))

/-- Fetch for the issue in progress: what the selector saw, or what stands there now. -/
def State.fetch (s : State) (c : Site) : Fetched × State :=
  match s.issue.bind (·.seen) with
  | some f => (f, s)
  | none => s.fetchAt c.sid c.sh c.agent c.atS c.die c.clk c.pc

/-- Pads are passed over (R181): the lanes move to the next word and the issue is over. -/
def State.skipPad (s : State) (c : Site) : State :=
  let s : State := match c.agent with
    | .gang g => s.modGang c.sid g fun (q : Gang) =>
      (q.modThreads c.view.enabled fun _ (t : Thread) => { t with pc := c.pc + 4 }).settle
    | .seq k => s.modSheet c.sid (·.modSeq k fun (q : Seq) => { q with pc := c.pc + 4 })
  { s with issue := none }

/-- A trap at fetch or decode. The frame's NOFF and ACT have no stated value where no instruction stands; they are free. -/
def State.fetchTrap (s : State) (c : Site) (t : Trap) (site : Option (Word × Guard)) : State :=
  let s := { s with issue := none }
  let noff := match site with
    | some x => x.1
    | none => BitVec.ofNat 32 (s.free .noInstruction)
  let act : Mask := match site with
    | some x => maskOf (c.view.active x.2)
    | none => c.view.lanes &&& BitVec.ofNat 64 (s.free .noInstruction / 4294967296)
  let s := s.drew
  let t := if t.cause = 2 then { t with lane := some c.view.lead } else t
  s.takeTrap c { sid := c.sid, gang := c.gang, ioff := c.pc, noff := noff, act := act, enb := c.view.lanes } t

end Sys2Proof.Machine
end

