-- ==== Sys2Proof/Machine/Watchdogs.lean ====
section
/-! DEFINITION. Waits and what ends them from outside: asynchronous errors (R388, R389), the deadlock watchdog (R390,
R391), the external-wait limit (R392) and the supervisor watchdog (R377). -/

namespace Sys2Proof.Machine

/-! ### Waits -/

/-- Whether every inbound copy of an absent line reads a page marked external-signal (R390). -/
def Line.external (l : Line) : Bool := !l.present && 0 < l.inbound && l.inXs == l.inbound
/-- Whether a queue's EXT bit is set (R306, R307). -/
def Sheet.queueExt (h : Sheet) (q : Nat) : Bool := ((tabGet q h.queues).map fun x => x.cfg.toNat.testBit 24).getD false

/-- Whether a wait on several lines is an external one: some of them are absent, and every inbound copy of each of those reads pages
marked external-signal. R30 and R390 speak of one line; that the absent ones decide is the model's choice (log entry 93). -/
def Sheet.waitsExternal (h : Sheet) (ls : List Nat) : Bool :=
  let away := ls.filter fun n => !(h.line n).present
  !away.isEmpty && away.all fun n => (h.line n).external
/-- Whether a state is a wait, and if it is, whether it is a counted one (R390). -/
def Sheet.counted (h : Sheet) (t : TState) : Option Bool :=
  match t with
  | .held | .seq .. | .draw .. => some true
  | .line ls _ => some (!h.waitsExternal ls)
  | .barrier b _ => some !((tabGet b h.bars).getD {}).ext
  | .push q | .pop q => some (!h.queueExt q)
  | .running | .nap _ | .wave _ | .uRun | .exited => none

/-- Whether a gang is blocked (R390). -/
def Sheet.blocked (h : Sheet) (g : Gang) : Bool :=
  !g.atS && g.threads.all fun p => p.2.st == .exited || h.counted p.2.st == some true
/-- Whether a gang has a thread in a counted wait. -/
def Sheet.waitsCounted (h : Sheet) (g : Gang) : Bool := !g.atS && g.threads.any fun p => h.counted p.2.st == some true

/-- Whether a sequencer leaves the watchdog alone (R391). -/
def Sheet.seqStill (h : Sheet) (q : Seq) : Bool :=
  q.st != .running ||
    match q.wait with
    | .none => false
    | .lines _ _ => true
    | .push k => !h.queueExt k

/-- The object a thread waits on, as INFO names it (R384). -/
def State.waitInfo (s : State) (sid : Nat) (h : Sheet) (t : Thread) : Nat :=
  match t.st with
  | .line ls need =>
    let n := ((ls.filter fun n => !s.linesMeet sid h false [n] need).min?.or ls.min?).getD 0
    match h.pend.find? fun p => (Tile.of p.td 0).lines.contains n with
    | some p => 5 + 256 * bitsOf p.imm.toNat 3 3
    | none => 1 + 256 * n
  | .barrier b _ => 2 + 256 * b
  | .push q | .pop q => 3 + 256 * q
  | .seq k _ => 4 + (if k == .m then 0 else 256)
  | .draw slot d =>
    let f := ((tabGet h.ctx s.ctxs).map (·.frameSlot slot)).getD {}
    if f.waits d then 7 + 256 * slot + 65536 * d else 6 + 256 * slot
  | .held => 8 + 256 * ((t.stack.head?.map fun e => e.2.val).getD 0)
  | _ => 0

/-- The offset of the instruction a thread waits at: its counter, but for a barrier wait the BAR before it (R385). -/
def Thread.waitPc (t : Thread) : Word :=
  match t.st with
  | .barrier _ _ => t.pc - 8
  | _ => t.pc

/-! ### Traps at a gang that issues nothing -/

/-- The trap site of lanes at an offset: the instruction there gives the next offset and the active lanes. Where no
instruction stands they are free. -/
def State.siteAt (s : State) (sid gang : Nat) (pc : Word) (enb : Mask) : TrapSite × Option Instr × State :=
  let base : TrapSite := { sid := sid, gang := gang, ioff := pc, noff := 0, act := 0, enb := enb }
  match (tabGet sid s.sheets).bind fun h => (tabGet gang h.gangs).map fun g => (h, g) with
  | none => (base, none, s)
  | some (h, g) =>
    let v : View := { regs := g.regs, W := h.W, lanes := enb }
    match s.fetchAt sid h (.gang gang) g.atS (s.dieOf h) (g.clockOf (lanesOf enb h.W)) pc with
    | (.instr i, s) => ({ base with noff := pc + BitVec.ofNat 32 i.bytes, act := maskOf (v.active i.guard) }, some i, s)
    | (.trap _ (some x), s) => ({ base with noff := x.1, act := maskOf (v.active x.2) }, none, s)
    | (_, s) =>
      ({ base with noff := BitVec.ofNat 32 (s.free .noInstruction)
                   act := enb &&& BitVec.ofNat 64 (s.free .noInstruction / 4294967296) }, none, s.drew)

/-- The trap a waiting gang takes at a waiting instruction: that of the lanes with the state and counter of the first (R385, R391,
R392). With several kinds of waits, which one the trap names is free. -/
def State.waitSite (s : State) (sid gang : Nat) (pick : Sheet → Thread → Bool) (cause : Nat) : Option (TrapSite × Trap) × State :=
  match (tabGet sid s.sheets).bind fun h => (tabGet gang h.gangs).map fun g => (h, g) with
  | none => (none, s)
  | some (h, g) =>
    let all := g.threads.filter fun p => pick h p.2
    let kinds := (all.map fun p => (p.2.st, p.2.pc)).eraseDups
    let (n, s) := if kinds.length ≤ 1 then (0, s) else (s.free .programCounter % kinds.length, s.drew)
    match kinds[n]? with
    | none => (none, s)
    | some kind =>
      let mine := all.filter fun p => (p.2.st, p.2.pc) == kind
      match mine.head? with
      | none => (none, s)
      | some (_, t) =>
        let (site, i, s) := s.siteAt sid gang t.waitPc (maskOf (mine.map (·.1)))
        let trap : Trap := { cause := cause, info := s.waitInfo sid h t }
        let v : View := { regs := g.regs, W := h.W, lanes := site.enb }
        (some (site, (i.map (trap.once v)).getD trap), s)
/-- Take traps found beforehand, one gang after another. -/
def State.takeTraps (s : State) (l : List (TrapSite × Trap)) : State := (l.foldl (fun s p => s.trapEntry p.1 p.2 .plain) s).reap
/-- The traps of a list of waiting gangs, each found before any is taken (R391). -/
def State.waitSites (s : State) (gs : List (Nat × Nat)) (pick : Sheet → Thread → Bool) (cause : Nat) : List (TrapSite × Trap) × State :=
  gs.foldl (fun (q : List (TrapSite × Trap) × State) g =>
    let (x, s) := q.2.waitSite g.1 g.2 pick cause
    (q.1 ++ x.toList, s)) ([], s)
/-- A waiting gang takes a trap at a waiting instruction. -/
def State.waitTrap (s : State) (sid gang : Nat) (pick : Sheet → Thread → Bool) (cause : Nat) : State :=
  let (l, s) := s.waitSites [(sid, gang)] pick cause
  s.takeTraps l

/-- A thread in a counted wait. -/
def inCounted (h : Sheet) (t : Thread) : Bool := h.counted t.st == some true

/-- Every gang of some sheets in a counted wait takes the deadlock trap (R391): the waits are those that stood when it fired. -/
def State.deadlockSheets (s : State) (sids : List Nat) : State :=
  let gs := sids.flatMap fun sid => match tabGet sid s.sheets with
    | none => []
    | some h => (h.gangs.filter fun p => h.waitsCounted p.2).map fun p => (sid, p.1)
  let (l, s) := s.waitSites gs inCounted 15
  s.takeTraps l

/-! ### The deadlock watchdog -/

/-- Whether a launch is eligible and has sheets still to place. -/
def Launch.placing (l : Launch) : Bool := l.eligible.isSome && l.unplaced.any fun p => p.2.any fun r => 0 < r.count

/-- Whether every condition of R391 holds of a context now, and some gang could take the trap. -/
def State.ctxBlocked (s : State) (cx : Nat) : Bool :=
  let mine := s.sheets.filter fun p => p.2.ctx == cx
  let still (h : Sheet) : Bool :=
    (match h.home with
      | .parked _ _ => true
      | _ => h.gangs.all fun p => h.blocked p.2) && h.seqStill h.mseq && h.seqStill h.cseq
  mine.all (fun p => still p.2)
    && mine.any (fun p => !p.2.deadlockDue && (match p.2.home with | .parked _ _ => false | _ => true)
        && p.2.gangs.any fun q => p.2.waitsCounted q.2)
    && !(s.copies.any fun p => p.2.ctx == cx) && !(s.launches.any fun p => p.2.ctx == cx && p.2.placing)

/-- 50 µs (R391). -/
def deadlockTicks : Nat := 50 * tickUs
/-- Whether the watchdog of a context fires now. -/
def State.deadlockFires (s : State) (cx : Nat) : Bool :=
  s.ctxBlocked cx && ((tabGet cx s.ctxs).bind (·.blockedAt)).any fun t => t + deadlockTicks ≤ s.now

/-- The deadlock watchdog fires (R391): resident gangs take the trap now, saved ones when they are restored. -/
def execDeadlockWatchdog (ctx : Nat) (s : State) : Host.Outcome State Fault Refusal :=
  if !s.deadlockFires ctx then .fault .notEnabled
  else
    let s := s.modCtx ctx fun c => { c with blockedAt := none }
    let mine := s.sheets.filter fun p => p.2.ctx == ctx
    let s := mine.foldl (fun s p => if p.2.home == .saved then
      s.modSheet p.1 fun h => { h with deadlockDue := h.gangs.any fun q => h.waitsCounted q.2 } else s) s
    .next (s.deadlockSheets ((mine.filter fun p => p.2.cluster?.isSome).map (·.1)))

/-! ### The external-wait limit -/

/-- Whether a thread's wait is not counted by R390 and has lasted longer than the limit (R392). -/
def overdue (ewl now : Nat) (h : Sheet) (t : Thread) : Bool :=
  ewl ≠ 0 && h.counted t.st == some false && ewl * tickUs < now - t.since

/-- Whether a gang of a resident sheet takes the external-wait timeout now (R392); one that a kill stopped takes none (R432). -/
def State.timesOut (s : State) (h : Sheet) (n : Nat) (g : Gang) : Bool :=
  h.cluster?.isSome && h.killed.all (· == n) && !g.atS
    && g.threads.any fun p => overdue (((tabGet h.ctx s.ctxs).map (·.ewl)).getD 0) s.now h p.2
/-- A gang takes the external-wait timeout (R392). -/
def State.timeOut (s : State) (sheet gang : Nat) (cx : Nat) : State :=
  s.waitTrap sheet gang (overdue (((tabGet cx s.ctxs).map (·.ewl)).getD 0) s.now) 14
/-- EXTERNAL_WAIT_TIMEOUT (R392). -/
def execExternalWaitTimeout (sheet gang : Nat) (s : State) : Host.Outcome State Fault Refusal :=
  match tabGet sheet s.sheets with
  | none => .fault .notEnabled
  | some h => if (tabGet gang h.gangs).any (s.timesOut h gang) then .next (s.timeOut sheet gang h.ctx) else .fault .notEnabled

/-! ### The supervisor watchdog -/

/-- The time at S that counts for SWD (R377). -/
def Gang.wdMeasure (g : Gang) (now : Nat) : Nat := g.wdSpent + (match g.wdFrom with | some t => now - t | none => 0)

/-- SUPERVISOR_WATCHDOG (R377): the context ends with reason 0xFFFF0100, and the penholder is told. -/
def execSupervisorWatchdog (sheet gang : Nat) (s : State) : Host.Outcome State Fault Refusal :=
  match tabGet sheet s.sheets with
  | none => .fault .notEnabled
  | some h =>
    let swd := ((tabGet h.ctx s.ctxs).map (·.swd)).getD 0
    let due (g : Gang) : Bool := g.atS && swd ≠ 0 && swd * tickUs < g.wdMeasure s.now
    if h.cluster?.isNone || !((tabGet gang h.gangs).map due).getD false then .fault .notEnabled
    else
      let s := (s.notice 2 h.ctx (openCode (s.free .errorCode)) 0 (s.drew.free .errorCode)).drew.drew
      .next (s.endContext h.ctx 1 4294902016)

/-! ### Asynchronous errors -/

/-- The lowest-numbered gang at U with a running thread (R388). -/
def Sheet.errGang (h : Sheet) : Option (Nat × Gang) :=
  h.gangs.find? fun p => !p.2.atS && p.2.threads.any fun q => q.2.st == .running

/-- The longest that a thread at a counter has gone unselected. -/
def passedOver (run : List (Nat × Thread)) (pc : Word) : Nat := maxOf ((run.filter fun p => p.2.pc == pc).map fun p => p.2.skipped)
/-- Whether every group of threads left waiting can still be selected within its 64 issues, one counter an issue (R23): the group
passed over k-th longest has at least k issues left. -/
def promiseKept (waits : List Nat) : Bool := waits.all fun a => a + (waits.filter (a ≤ ·)).length ≤ 64

/-- The counter a gang issues among its running threads that satisfy a condition (R23): its lanes and the counter. The
choice is free as long as the promise of 64 issues can be kept for every other group of running threads, also those whose
instruction is not clear now; the group passed over longest can always be chosen. -/
def State.pickPc (s : State) (g : Gang) (ok : Nat → Thread → Bool) : Option (Word × List Nat) × State :=
  let all := g.threads.filter fun p => p.2.st == .running
  let run := all.filter fun p => ok p.1 p.2
  let every := (all.map (·.2.pc)).eraseDups
  let pcs := (run.map (·.2.pc)).eraseDups
  let at_ (pc : Word) : Word × List Nat :=
    (pc, (g.threads.filter fun p => p.2.st == .running && p.2.pc == pc).map (·.1))
  match pcs with
  | [] => (none, s)
  | [pc] => (some (at_ pc), s)
  | pcs =>
    let kept := pcs.filter fun pc => promiseKept ((every.filter (· != pc)).map fun q => passedOver all q + (if pcs.contains q then 1 else 0))
    let most := maxOf (pcs.map (passedOver run))
    let pool := if kept.isEmpty then pcs.filter fun pc => passedOver run pc == most else kept
    ((pool[s.free .programCounter % pool.length]?).map at_, s.drew)

/-- At a boundary of a sheet the head of its context's error queue goes to a gang of it, or stays (R388); none where no error is
due there. -/
def State.errDelivered (s : State) (sheet : Nat) : Option State :=
  match (tabGet sheet s.sheets).bind fun h => (tabGet h.ctx s.ctxs).map fun c => (h, c) with
  | none => none
  | some (h, c) =>
    match h.cluster?, c.errs with
    | some _, e :: rest =>
      if s.now < h.errAt || h.killed.isSome || h.replay.isSome then none
      else
        match h.errGang with
        | none => some (s.modSheet sheet fun h => { h with errAt := s.now + 100 * tickUs })
        | some (n, g) =>
          let (p, s) := s.pickPc g fun _ _ => true
          let (pc, ls) := p.getD (0, [])
          let s := s.modCtx h.ctx fun c => { c with errs := rest }
          let (site, _, s) := s.siteAt sheet n pc (maskOf ls)
          let s := s.trapEntry site { cause := 20, addr := e.addr, info := e.code + 4294967296 * (e.detail % 4294967296) } .async
          some (s.modCtx h.ctx fun c => { c with lost := 0 }).reap
    | _, _ => none
/-- ASYNC_ERROR_DELIVERY (R388). -/
def execAsyncErrorDelivery (sheet : Nat) (s : State) : Host.Outcome State Fault Refusal :=
  match s.errDelivered sheet with
  | none => .fault .notEnabled
  | some s => .next s

/-- The traps due at the instruction boundaries of a sheet are entered (R396 step 1): a queued error, and waits that have lasted too
long. -/
def State.enterDue (s : State) (sid : Nat) : State :=
  let s := (s.errDelivered sid).getD s
  match tabGet sid s.sheets with
  | none => s
  | some h => (h.gangs.filter fun g => s.timesOut h g.1 g.2).foldl (fun s g => s.timeOut sid g.1 h.ctx) s

end Sys2Proof.Machine
end

