-- ==== Sys2Proof/Machine/Residence.lean ====
section
/-! DEFINITION. Residence of sheets on clusters: first placement (R16 to R19, R31, R43, R54), arrival and departure
(R171, R174, R366, R452), stopping, setting aside, restoring (R396, R397), and the discard of an interval (R395, R431). -/

namespace Sys2Proof.Machine

/-- N_v of a pool word for T threads (R54). -/
def poolNv (pool T : Nat) : Nat := min 192 (8 * (pool % 256 * 512 / T))
/-- N_a of a pool word for T threads of declared width `gwid` (R54). -/
def poolNa (pool T gwid : Nat) : Nat := min 16 (pool / 65536 % 256 * 16 / (T / min gwid 16))
/-- The effective width of a launch's gangs on a cluster (R17). -/
def Launch.width (l : Launch) (c : Cluster) : Nat := min l.gwid c.aw
/-- The clock every thread of a launch begins with (R43). -/
def Launch.startClock (l : Launch) : Nat := 1 + max l.submitClk (maxOf (l.deps.map fun d => d.met.getD 0))

/-- A sheet as it is when first placed, before any instruction executes (R31). That its sequencers' clocks begin with the threads' is
the model's choice (log entry 100). -/
def freshSheet (l : Launch) (launch index : Nat) (k : Nat) (c : Cluster) (d : Die) (ceil tag now : Nat) : Sheet :=
  let W := l.width c
  let thread : Thread := { pc := BitVec.ofNat 32 l.entry, clock := l.startClock }
  { ctx := l.ctx, launch := launch, index := index, W := W, T := l.T, nv := poolNv l.pool l.T, na := poolNa l.pool l.T l.gwid
    spg := l.pool / 256 % 256, pool := l.pool, duct := k % 8192, diexy := d.x + 256 * d.y
    gangs := (List.range (l.T / W)).map fun g => (g, { threads := (List.range W).map fun n => (n, thread) })
    bars := [(0, { valid := true, nt := l.T })], fmt := l.fmt, preq := min l.dpc ceil
    mseq := { clock := l.startClock }, cseq := { clock := l.startClock }
    ivl := { tag := tag }, home := .on k, order := c.orders, placedAt := now, firstAt := now, errAt := now }

/-- The lane cycles that pass on a cluster without a sheet while engine work of a departed one still holds the execute stages
(R169); `n` bounds them. -/
def Cluster.coast (c : Cluster) (now : Nat) : Nat → Cluster
  | 0 => { c with nextAt := max c.nextAt now, occ := c.occ.filter fun o => c.laneNo < o.1 }
  | n + 1 =>
    if now ≤ c.nextAt then { c with occ := c.occ.filter fun o => c.laneNo < o.1 }
    else { c with laneNo := c.laneNo + 1, nextAt := c.nextAt + c.period * c.multiple c.laneNo / 4 }.coast now n
/-- A cluster receives a sheet: its first resident opens the weight windows anew (R174), it is idle no longer, and it wakes from
retention (R451). -/
def State.enterCluster (s : State) (k : Nat) : State :=
  let empty := (s.residents k).isEmpty
  s.modCluster k fun c =>
    let c := { c with orders := c.orders + 1, idleAt := none }.roused s.now
    if empty then { c.coast s.now (maxOf (c.occ.map (·.1)) - c.laneNo) with window := 3, windowLeft := 0 } else c

/-- The gangs of a sheet that are running, or were to run with a wave, leave in waves (R452). -/
def State.startWaves (s : State) (sid : Nat) : State :=
  match tabGet sid s.sheets with
  | none => s
  | some h =>
    match h.cluster? with
    | none => s
    | some k =>
      let ready := (h.gangs.map fun p => (sid, p.1, p.2.lanesIn fun t => t == .running || t.inWave)).filter fun p => !p.2.2.isEmpty
      s.releaseWaves k ready

/-- Place a sheet for the first time (R31, R388, R427, R452). -/
def State.placeNew (s : State) (launch index k : Nat) : State :=
  match tabGet launch s.launches, tabGet k s.clusters with
  | some l, some c =>
    match tabGet c.die s.dies with
    | none => s
    | some d =>
      let ceil := ((tabGet l.ctx s.ctxs).map (·.ceil)).getD 0
      let sid := s.nextId
      let h := freshSheet l launch index k c d ceil s.freshTag s.now
      let s := (s.enterCluster k)
      let s := { s with nextId := sid + 1, sheets := tabPut sid h s.sheets, shadows := tabPut sid { sheet := h } s.shadows }
      (s.errBoundary sid).startWaves sid
  | _, _ => s

/-! ### Stopping and setting aside -/

/-- Copies and collectives finish reading a sheet's scratchpad (R396 step 2). -/
def State.readSources (s : State) (sid : Nat) : State :=
  match tabGet sid s.sheets with
  | none => s
  | some _ =>
    let ids := (s.copies.filter fun p => p.2.sheet == sid && !p.2.srcLines.isEmpty).map (·.1)
    let s := ids.foldl (fun s id => s.mergeSource id) s
    match tabGet sid s.sheets with
    | none => s
    | some h =>
      let settle (c : Copy) : Copy := { c with out := c.out.map fun e => e.settled h, srcLines := [] }
      let s := { s with copies := tabMap (fun id c => if ids.contains id then settle c else c) s.copies }
      (h.pend.filter fun p => !p.sent).foldl (fun s p => s.sendColl sid p) s

/-- The copies into a sheet's scratchpad complete (R396 step 2): fuel bounds the copies. Of a sheet whose interval is lost no shadow
is taken on the way (R431). -/
def State.finishInbound (s : State) (sid : Nat) (lost : Bool) : Nat → State
  | 0 => s
  | n + 1 =>
    match s.inbound sid with
    | none => s
    | some id =>
      let (s, due) := s.completeCopy id
      (s.shadowPoints (due.filter fun k => !(lost && k == sid))).finishInbound sid lost n

/-- Stop a sheet at instruction boundaries (R396 steps 1 and 2): its writes have their times, copies into it complete, its sources
are read, and its gangs leave the ready set (R412). `lost` says that its interval is to be discarded. -/
def State.stopSheet (s : State) (sid : Nat) (lost : Bool) : State :=
  (((s.drainSheet sid).finishInbound sid lost (s.copies.length + 1)).readSources sid).modSheet sid fun h =>
    { h with gangs := tabMap (fun _ g => { g with readyAt := none }) h.gangs }

/-- Every cached register of a sheet is written back to the register file (R63). -/
def Sheet.writtenBack (h : Sheet) : Sheet := { h with gangs := tabMap (fun _ g => g.writeBack h.W g.cache) h.gangs }
/-- What a sheet keeps when it leaves its cluster: the supervisor watchdogs pause (R377), and results are available. -/
def Sheet.aside (h : Sheet) (home : Residence) (die now : Nat) : Sheet :=
  { h with
    home := home, lastDie := die, request := .none, asideAt := now, resided := h.resided + (now - h.placedAt)
    gangs := tabMap (fun _ g =>
      { g with readyAt := none, board := [], awaiting := [], cache := [], tags := [], wdSpent := g.wdSpent + (match g.wdFrom with | some t => now - t | none => 0)
               wdFrom := none }) h.gangs }

/-- A stopped sheet leaves its cluster; its interval ends (R396, R427). -/
def State.setAside (s : State) (sid : Nat) (home : Residence) : State :=
  match tabGet sid s.sheets with
  | none => s
  | some h =>
    let s := s.unpin h.ivl
    let was := h.cluster?.getD 0
    let h := { (h.aside home (s.dieOf h) s.now) with ivl := { tag := s.freshTag } }
    let s := { s with nextId := s.nextId + 1, sheets := tabPut sid h s.sheets }
    s.leaveCluster was

/-- A saved sheet joins the restore list of a die (R409). -/
def State.queueRestore (s : State) (sid die : Nat) : State :=
  s.modDie die fun d => { d with restore := d.restore ++ [(sid, s.now)] }

/-- The image of a sheet is written where firmware reserves HBM (R396 step 3, R398). -/
def State.writeImage (s : State) (sid : Nat) : State :=
  match tabGet sid s.sheets with
  | none => s
  | some h => { s with images := tabPut sid (h.image 0 0) s.images }
/-- Save a sheet (R396); a trap due in it is entered first. -/
def State.saveSheet (s : State) (sid : Nat) : State :=
  let s := s.enterDue sid
  match tabGet sid s.sheets with
  | none => s
  | some h =>
    let die := s.dieOf h
    ((((s.stopSheet sid false).writeImage sid).setAside sid .saved)).queueRestore sid die

/-! ### Restoring -/

/-- Whether a lane waits for an object that its instruction asks for anew (R397). -/
def TState.onObject (t : TState) : Bool :=
  match t with
  | .line .. | .push _ | .pop _ | .seq .. | .draw .. => true
  | .running | .held | .barrier .. | .uRun | .exited | .nap _ | .wave _ => false

/-- Whether a wait is over when a sheet is restored: waits for an object are made anew, the instruction issuing again, and
naps and waves have gone on in ETIME (R397, R223). -/
def TState.reissued (t : TState) (now : Nat) : Bool :=
  match t with
  | .wave a => a ≤ now
  | .nap u => u ≤ now
  | t => t.onObject

/-- A sheet as it is loaded on a cluster (R397, R377, R392). -/
def Sheet.restored (h : Sheet) (k order now : Nat) : Sheet :=
  let away := now - h.asideAt
  { h with
    home := .on k, order := order, placedAt := now, deadlockDue := false, arrivals := []
    gangs := tabMap (fun _ g =>
      { g with wdFrom := if g.atS then some now else none
               threads := tabMap (fun _ t => { t with since := t.since + away }) g.threads }) h.gangs }

/-- The waits of a restored sheet are made anew (R397, R223); an external wait goes on counting (R392). -/
def Sheet.rewaits (h : Sheet) (now : Nat) : Sheet :=
  { h with
    gangs := tabMap (fun _ g =>
      { g with threads := tabMap (fun l t =>
          if t.st.reissued now then { t with st := g.goesOn l, again := if t.st.onObject then some (now - t.since) else none } else t) g.threads }) h.gangs
    queues := tabMap (fun _ q => { q with pops := [] }) h.queues
    mseq := { h.mseq with wait := .none }, cseq := { h.cseq with wait := .none } }

/-- What was held for a sheet while it was set aside is delivered (R396, R397). -/
def State.deliverHeldArrivals (s : State) (sid : Nat) (l : List HeldArrival) : State :=
  l.foldl (fun s a => match a with | .counter c t => s.countUp sid c t) s

/-- Restore a saved sheet on a cluster (R397, R388, R427, R452); a deadlock trap due is taken first (R391). -/
def State.restoreSheet (s : State) (sid k : Nat) : State :=
  match tabGet sid s.sheets, tabGet k s.clusters with
  | some h, some c =>
    let s := s.enterCluster k
    let s := { s with sheets := tabPut sid (h.restored k c.orders s.now) s.sheets
                      dies := tabMap (fun _ d => { d with restore := d.restore.filter (·.1 != sid) }) s.dies
                      images := tabDel sid s.images }
    let s := (s.deliverHeldArrivals sid h.arrivals).takeShadow sid
    let s := if h.deadlockDue then s.deadlockSheets [sid] else s
    let s := s.modSheet sid fun h => h.rewaits s.now
    let s := s.modSheet sid fun h => { h with gangs := tabMap (fun _ g => g.settle) h.gangs }
    (s.errBoundary sid).startWaves sid
  | _, _ => s

/-! ### Discarding an interval -/

/-- Whether an interval may be discarded (R395, R429). -/
def Interval.recoverable (i : Interval) : Bool := !i.observed && !i.unprotected && !i.pinnedDown

/-- The atoms of an interval return to their pinned versions (R431). -/
def State.unwrite (s : State) (i : Interval) : State :=
  i.pins.foldl (fun s a =>
    let x := s.atom (32 * a)
    match x.prior with
    | some p =>
      if p.pin != some i.tag then s
      else if x.itag == some i.tag then
        let s := { s with mem := putBytes (32 * a) (p.bytes.map some) s.mem }
        s.putAtom (32 * a) { x with w := p.w, prior := none, folio := p.folio, itag := none, poison := p.poison, key := p.key }
      else s.putAtom (32 * a) { x with prior := some { p with pin := none } }
    | none => s) s

/-- A sheet's shadow with what does not roll back: residence, counters of time, and the keys of its threads (R431). No gang of it is
ready, and every result is available. -/
def Shadow.reload (w : Shadow) (now_ : Sheet) (tag : Nat) : Sheet :=
  { w.sheet with
    gangs := tabMap (fun _ g => { g with readyAt := none, board := [], awaiting := [], cache := [], tags := [] }) w.sheet.gangs
    home := now_.home, order := now_.order, cyc := now_.cyc, wstretch := now_.wstretch, placedAt := now_.placedAt
    firstAt := now_.firstAt, errAt := now_.errAt, resided := now_.resided, asideAt := now_.asideAt, noAudit := now_.noAudit
    replay := now_.replay, request := now_.request, ivl := { tag := tag }, loss := none }

/-- Raise every clock of a sheet to at least `t`. -/
def Sheet.raiseClocks (h : Sheet) (t : Nat) : Sheet :=
  { h with
    gangs := tabMap (fun _ g => { g with threads := tabMap (fun _ x => { x with clock := max x.clock t }) g.threads }) h.gangs
    mseq := { h.mseq with clock := max h.mseq.clock t }, cseq := { h.cseq with clock := max h.cseq.clock t } }

/-- Every access the interval issued is performed at its home (R431): copies that carry its tag complete. -/
def State.finishInterval (s : State) (sid : Nat) : State :=
  let tag := (tabGet sid s.sheets).map (·.ivl.tag)
  let ids := (s.copies.filter fun p => p.2.sheet == sid && some p.2.tag == tag).map (·.1)
  ids.foldl (fun s id =>
    let (s, due) := s.completeCopy id
    s.shadowPoints (due.filter (· != sid))) s

/-- What near caches and open folios hold of an interval goes with it (R431). -/
def State.forget (s : State) (i : Interval) : State :=
  { s with
    clusters := tabMap (fun _ c => { c with near := c.near.filter fun b => !i.pins.contains (b.1 / 32) && b.2.2 != some i.tag }) s.clusters
    ctxs := tabMap (fun _ c => { c with folios := tabMap (fun _ f => { f with joins := f.joins.filter (·.tag != i.tag) }) c.folios }) s.ctxs }
/-- Discard a sheet's interval and reload its shadow (R395, R431). Every write of the sheet is performed first, those to
software-managed pages too. -/
def State.discardInterval (s : State) (sid : Nat) : State :=
  let s := (s.drain fun w => w.sheet == sid).finishInterval sid
  match tabGet sid s.sheets, tabGet sid s.shadows with
  | some h, some w =>
    let s := (s.unwrite h.ivl).forget h.ivl
    { s with nextId := s.nextId + 1, sheets := tabPut sid (w.reload h s.freshTag) s.sheets }
  | _, _ => s

/-- Flush a sheet (R395): the interval is discarded, and the sheet is set aside as its shadow. No clock goes back (R128): they rise
above every clock of the discarded interval, as at a rollback (R431). -/
def State.flushSheet (s : State) (sid : Nat) : State :=
  match tabGet sid s.sheets with
  | none => s
  | some h =>
    let die := s.dieOf h
    let s := s.stopSheet sid true
    let top := ((tabGet sid s.sheets).map (·.topClock)).getD h.topClock
    ((((s.discardInterval sid).modSheet sid (·.raiseClocks (top + 1))).setAside sid .saved).queueRestore sid die).reap

end Sys2Proof.Machine
end

