-- ==== Sys2Proof/Machine/Image.lean ====
section
/-! DEFINITION. A sheet from its image (R401), CTXSAVE (R373) and CTXLOAD (R374). -/

namespace Sys2Proof.Machine

/-! ### Reading an image -/

/-- A number in an image. -/
def imageAt (bs : List Byte) (o n : Nat) : Nat := ofBytesLE ((bs.drop o).take n)

/-- A sequencer from its record, over what the image does not hold (R401). -/
def Seq.ofImage (q : Seq) (bs : List Byte) : Seq :=
  let at_ := imageAt bs
  let st : SeqSt := match at_ 324 4 with
    | 0 => .idle
    | 1 => .running
    | 2 => .parked
    | _ => .faulted
  let r : Regs := { s := (List.range 64).foldl (fun m n => stPut 0 n (BitVec.ofNat 32 (at_ (4 * n) 4)) m) []
                    t := (List.range 8).foldl (fun m n => stPut 0 n (BitVec.ofNat 64 (at_ (256 + 8 * n) 8)) m) []
                    p := (List.range 7).foldl (fun m n => stPut 0 n (if (at_ 336 1).testBit n then 1 else 0) m) [] }
  { st := st, pc := BitVec.ofNat 32 (at_ 320 4), clock := at_ 328 8, regs := r, starter := some (at_ 340 4)
    held := if st = .faulted then some { cause := at_ 344 4, ioff := BitVec.ofNat 32 (at_ 348 4)
                                         noff := ((q.held.map (·.noff)).getD 0), addr := at_ 352 8, info := at_ 360 8
                                         lane := ((q.held.map (·.lane)).getD 4294967295) } else none }

/-- A queue from its record (R401). -/
def Queue.ofImage (bs : List Byte) : Queue :=
  let at_ := imageAt bs
  let st : QState := match at_ 0 4 with
    | 0 => .uninit
    | 1 => .opened
    | 2 => .closed
    | _ => .broken
  { st := st, cfg := BitVec.ofNat 32 (at_ 4 4), endClk := at_ 16 8
    slots := (List.range 16).filterMap fun i =>
      let o := 128 + 16 * i
      if at_ o 4 = 4294967295 then none else some { who := at_ o 4, allow := at_ (o + 4) 2, clk := at_ (o + 8) 8, exited := at_ (o + 6) 1 ≠ 0 }
    entries := (List.range (min 64 (at_ 8 4))).map fun e =>
      let o := 512 + 16 * e
      { val := BitVec.ofNat 32 (at_ o 4), slot := at_ (o + 4) 4, clk := at_ (o + 8) 8 } }

/-- A thread from its record; the predicate of a barrier wait is kept (R401), and `run` is how a lane in state 0 goes on. -/
def Thread.ofImage (t : Thread) (bs : List Byte) (napEnd : Nat) (run : TState) : Thread :=
  let at_ := imageAt bs
  let b := at_ 4 4
  let pd : Fin 8 := match t.st with
    | .barrier _ d => d
    | _ => 7
  let st : TState :=
    if b = 1 then .held else if b = 3 then .nap (napEnd * tickNs) else if b = 4 then .exited
    else if b % 16 = 2 then .barrier (b / 16) pd else run
  let idx := at_ 20 4
  let stack : List (Word × Fin 8) := (List.range (min 8 (at_ 16 4))).map fun i =>
    (BitVec.ofNat 32 (at_ (32 + 4 * i) 4), Fin.ofNat 8 (idx / 16 ^ i % 8))
  { t with pc := BitVec.ofNat 32 (at_ 0 4), clock := at_ 8 8, stack := stack.reverse, st := st }

/-- The sections of an image by offset. -/
def imageSections (h : Sheet) : List Nat := sectionOffsets 16384 (sectionSizes h.T h.W h.nv h.na h.spg h.pend.length)

/-- A gang from an image (R399, R401); lanes at or above the width keep no mask bit (R20). -/
def Gang.ofImage (q : Gang) (h : Sheet) (g : Nat) (bs : List Byte) : Gang :=
  let sec (k : Nat) : Nat := ((imageSections h)[k]?).getD 0
  let at_ := imageAt bs
  let gs := sec 1 + 64 * g
  let napEnd := at_ (gs + 8) 8
  let vr (r l : Nat) : Word := BitVec.ofNat 32 (at_ (sec 7 + 4 * (h.T * r + (g * h.W + l))) 4)
  let regs : Regs :=
    { s := (List.range 64).foldl (fun m n => stPut 0 n (BitVec.ofNat 32 (at_ (sec 2 + 256 * g + 4 * n) 4)) m) []
      t := (List.range 8).foldl (fun m n => stPut 0 n (BitVec.ofNat 64 (at_ (sec 3 + 64 * g + 8 * n) 8)) m) []
      m := (List.range 8).foldl (fun m n => stPut 0 n (BitVec.ofNat 64 (at_ (sec 4 + 64 * g + 8 * n) 8) &&& lanesBelow h.W) m) []
      p := (List.range 7).foldl (fun m n => stPut 0 n (BitVec.ofNat 64 (at_ (sec 5 + 64 * g + 8 * n) 8) &&& lanesBelow h.W) m) []
      v := (List.range h.nv).foldl (fun m r => (List.range h.W).foldl (fun m l => stPut 0 (64 * r + l) (vr r l) m) m) []
      a := (List.range h.na).foldl (fun m k => (List.range 256).foldl (fun m e =>
        stPut 0 (256 * k + e) (BitVec.ofNat 32 (at_ (sec 8 + 1024 * (h.na * g + k) + 4 * e) 4)) m) m) [] }
  let ended := (List.range 4).filterMap fun k =>
    let w := at_ (gs + 16 + 4 * k) 4
    if w.testBit 31 then some (k, w % 65536) else none
  { q with
    regs := regs, tags := [], atS := (at_ gs 4).testBit 0, yielded := (at_ gs 4).testBit 1
    frame := if (at_ gs 4).testBit 0 then some (at_ (gs + 4) 4) else none
    emitEnd := (q.emitEnd.filter fun p => ended.any fun e => e.1 == p.1 && e.2 != p.2) ++ ended
    threads := tabMap (fun l t => t.ofImage ((bs.drop (sec 6 + 64 * (g * h.W + l))).take 64) napEnd
      ({ q with atS := (at_ gs 4).testBit 0 }.goesOn l)) q.threads }

/-- A parked sheet as its image gives it; what no field of the image holds is as the sheet was parked (R374). -/
def Sheet.ofImage (h : Sheet) (bs : List Byte) : Sheet :=
  let at_ := imageAt bs
  let sec (k : Nat) : Nat := ((imageSections h)[k]?).getD 0
  let line (n : Nat) : Line :=
    let w := at_ (sec 10 + 4 * n) 4
    { h.line n with present := w.testBit 0, eng := w.testBit 1, coll := w / 256 % 256, stamp := w / 65536, inbound := w / 256 % 256 }
  { h with
    gangs := tabMap (fun g q => q.ofImage h g bs) h.gangs, bad := []
    preq := at_ 60 4, cyc := at_ 64 8, wstretch := at_ 72 8 * (tickNs / 256), duct := at_ 88 4, diexy := at_ 92 4, epoch := at_ 96 8
    fmt := (List.range 16).foldl (fun m n => stPut 0 n (BitVec.ofNat 32 (at_ (1024 + 4 * n) 4)) m) []
    counters := (List.range 8).map fun k => (k, { count := BitVec.ofNat 32 (at_ (1088 + 16 * k) 4), cmax := at_ (1096 + 16 * k) 8 })
    bars := (List.range 16).map fun b =>
      let o := 1280 + 32 * b
      (b, { valid := (at_ o 4).testBit 0, ext := (at_ o 4).testBit 1, nt := at_ (o + 4) 4, nc := at_ (o + 8) 4
            at_ := at_ (o + 12) 4, ac := at_ (o + 16) 4, clk := at_ (o + 24) 8 })
    mseq := h.mseq.ofImage ((bs.drop 2048).take 512), cseq := h.cseq.ofImage ((bs.drop 2560).take 512)
    matches_ := (List.range 10).map fun k => (k, at_ (3072 + 8 * k) 8)
    queues := (List.range 16).map fun q => (q, Queue.ofImage ((bs.drop (sec 0 + 2048 * q)).take 2048))
    spad := stPutList 0 0 ((bs.drop (sec 9)).take h.spadSize) []
    lines := (List.range (128 * h.spg)).foldl (fun m n => stPut Line.fresh n (line n) m) []
    pend := h.pend.zipIdx.map fun p =>
      let o := sec 11 + 32 * p.2
      PendColl.read { p.1 with
        bits := BitVec.ofNat 64 (at_ o 8), imm := BitVec.ofNat 32 (at_ (o + 8) 4), num := p.1.num / 4294967296 * 4294967296 + at_ (o + 12) 4
        clock := at_ (o + 16) 8, td := BitVec.ofNat 64 (at_ (o + 24) 8) } }

/-- Whether an image's layout fits the sheet it names (R374, R400). -/
def Sheet.imageOk (h : Sheet) (bs : List Byte) : Bool :=
  let at_ := imageAt bs
  at_ 0 4 == 0x45564153 && at_ 4 4 == 1 && at_ 12 4 == h.W && at_ 28 4 == h.T && at_ 48 4 == h.nv && at_ 52 4 == h.na
    && at_ 56 4 == h.pool && at_ 104 4 == h.pend.length
    && ((imageSections h).zipIdx.all fun p => at_ (112 + 4 * p.2) 4 == p.1)

/-! ### CTXSAVE -/

/-- Requests for a span of whole atoms. -/
def spanReqs (lead va n : Nat) (kind : Access) : List Req :=
  (List.range ((n + 31) / 32)).map fun k => { lane := lead, va := va + 32 * k, size := 32, kind := kind }

/-- Store chunks of 32 bytes at translated addresses, one store after another from a clock (R373): the last time. -/
def State.storeChunks (s : State) (sid cx : Nat) : List (Req × Leaf) → List Byte → Nat → State × Nat
  | [], _, t => (s, t)
  | (r, l) :: xs, bs, t =>
    if s.unreach (l.phys r.va) then (s.asyncError cx 7 r.va 0).storeChunks sid cx xs (bs.drop 32) t
    else
      let s := s.beforeWrite cx r.va
      match s.placeWrite { sheet := some sid, ctx := cx, key := l.key, home := some (s.homeOf cx r.va l) } t (l.phys r.va) ((bs.take 32).map some) with
      | none => (s.exhaust cx).storeChunks sid cx xs (bs.drop 32) t
      | some (s, t) => s.storeChunks sid cx xs (bs.drop 32) t

/-- The issuing gang as its image records it: at its next offset, with D = 1 (R373). -/
def Sheet.asSaved (h : Sheet) (c : Site) (i : Instr) (d : Fin 64) : Sheet :=
  h.modGang c.gang fun g =>
    let g := g.modThreads c.view.enabled fun _ t => { t with pc := c.next i }
    { g with regs := g.regs.setUni d.val 1, yielded := false }

/-- CTXSAVE (R373): the other gangs and the sequencers stop, the image is written, and the sheet continues or parks. The image reads
every word of the sheet, so a lost one is a loss (R434). -/
def ctxsave (i : Instr) (g : Guard) (park : Bool) (d a : Fin 64) (s : State) : Host.Outcome State Fault Refusal :=
  enterMemGang i g s fun s c =>
    let va := (c.view.upair a).toNat
    if va % 4096 ≠ 0 then .next (s.raise c i { cause := 3, check := 3, addr := va })
    else
      orTrap c i (s.checkAccess c.issuer (spanReqs c.view.lead va c.sh.imageSize .write)) fun _ =>
        let s := s.stopSheet c.sid false
        match tabGet c.sid s.sheets with
        | none => .next (s.finish c i)
        | some h =>
          if !h.bad.isEmpty then .next (s.raise c i (lostData (some c.view.lead) va)) else
          match s.checkAccess c.issuer (spanReqs c.view.lead va h.imageSize .write) with
          | .error (t, s) => .next (s.raise c i t)
          | .ok (xs, s) =>
            let saved := h.asSaved c i d
            let tag := if park then s.imageTag + 1 else 0
            let (s, t) := s.storeChunks c.sid c.sh.ctx xs (saved.image (if park then 2 else 1) tag) h.topClock
            let s := ((s.raiseTo c (t + 1)).pinDown c.sid).noAudit c.sid
            if park then
              let s := s.modSheet c.sid fun h => h.asSaved c i d
              let pk := ((tabGet c.sid s.sheets).map (·.topClock)).getD 0
              .next { ({ s with imageTag := tag }.setAside c.sid (.parked tag pk)) with issue := none }.reap
            else .next ((s.modGang c.sid c.gang fun g => { g with regs := g.regs.setUni d.val 0 }).finish c i)
/-- CTXSAVE.copy (R373). -/
def execCtxsaveCopy (g : Guard) (d a : Fin 64) (s : State) : Host.Outcome State Fault Refusal :=
  ctxsave (.ctxsaveCopy g d a) g false d a s
/-- CTXSAVE.park (R373). -/
def execCtxsavePark (g : Guard) (d a : Fin 64) (s : State) : Host.Outcome State Fault Refusal :=
  ctxsave (.ctxsavePark g d a) g true d a s

/-! ### CTXLOAD -/

/-- Read whole atoms at one view time of at least the issuing clock: the bytes (R374). -/
def State.readAtoms (s : State) (c : Site) (va n : Nat) : Except (Trap × State) (List Byte × Option Nat × State) :=
  match s.checkAccess c.issuer (spanReqs c.view.lead va n .read) with
  | .error t => .error t
  | .ok (xs, s) =>
    match s.checkLoad c c.clk xs with
    | some t => .error (t, s)
    | none =>
      let (out, v, s) := s.loadAll (some c.sid) (c.sh.cluster?.getD 0) c.clk xs
      .ok (out.flatMap (·.2), v, s)

/-- The size of the image a header names, when it names one (R400). -/
def headerSize (bs : List Byte) : Nat :=
  let at_ := imageAt bs
  if at_ 0 4 = 0x45564153 && at_ 4 4 = 1 && at_ 12 4 ≠ 0 && at_ 28 4 ≤ 1024 && at_ 48 4 ≤ 192 && at_ 52 4 ≤ 16 && at_ 104 4 ≤ 65536 then
    imageSize (at_ 28 4) (at_ 12 4) (at_ 48 4) (at_ 52 4) (at_ 56 4 / 256 % 256) (at_ 104 4)
  else 16384

/-- The status of CTXLOAD and the sheet it queues (R374). -/
def State.loadStatus (s : State) (cx : Nat) (bs : List Byte) : Nat × Option (Nat × Sheet × Nat) :=
  let at_ := imageAt bs
  let launch := at_ 32 8
  if at_ 24 4 ≠ cx || !((tabGet launch s.launches).any fun l => l.ctx == cx) then (3, none)
  else
    match s.sheets.find? fun p => p.2.launch == launch && p.2.index == at_ 40 8 with
    | none => (2, none)
    | some (sid, h) =>
      match h.home with
      | .parked tag pk => if at_ 8 4 ≠ 2 || at_ 16 8 ≠ tag || !h.imageOk bs then (1, none) else (0, some (sid, h, pk))
      | _ => (2, none)

/-- CTXLOAD (R374). -/
def execCtxload (g : Guard) (d a : Fin 64) (s : State) : Host.Outcome State Fault Refusal :=
  let i := Instr.ctxload g d a
  enterMemGang i g s fun s c =>
    let va := (c.view.upair a).toNat
    if va % 4096 ≠ 0 then .next (s.raise c i { cause := 3, check := 3, addr := va })
    else
      orTrap c i (s.readAtoms c va 16384) fun (head, _, _) =>
        orTrap c i (s.readAtoms c va (headerSize head)) fun (bs, v, s') =>
          let s' := match v with
            | none => s'
            | some v => s'.raiseTo c v
          let (status, found) := s'.loadStatus c.sh.ctx bs
          let s' := match found with
            | none => s'
            | some (sid, h, pk) =>
              let h' := { ((h.ofImage bs).raiseClocks (pk + 1)) with home := .saved }
              ({ s' with sheets := tabPut sid h' s'.sheets }).queueRestore sid h.lastDie
          let s' := (s'.putRegs c (c.view.regs.setUni d.val (BitVec.ofNat 32 status)))
          .next (s'.finish c i)

end Sys2Proof.Machine
end

