-- ==== Sys2Proof/Machine/Launches.lean ====
section
/-! DEFINITION. Submission of launch records (R35 to R39, R43, R195 to R201, R402, R403) and LAUNCH (R311). -/

namespace Sys2Proof.Machine

/-- An access of steward firmware raises the steward's clock for the context (R43). -/
def State.stewardTime (s : State) (w : Issuer) (t : Nat) : State :=
  if w.steward then s.modCtx w.cx fun c => { c with clock := max c.clock t } else s

/-- Why a submission cannot be read: a piece fails translation, permission or key (R37), or is uncorrectable, with the trap
that says where (R434). -/
inductive Unread where
  | xlate
  | lost (t : Trap)
  deriving DecidableEq, Repr

/-- Read `n` bytes of the context's memory in pieces of `z` bytes, as one load with user access (R37). Each page keeps the entry its
first access found (R417). R311 gives the read a view time and does not say that the clocks of the gang's lanes take it; that they
stay as they are is the model's choice (log entry 99). -/
def State.readSpan (s : State) (w : Issuer) (va n z : Nat) : Except (Unread × State) (List Byte × Issuer × State) :=
  let reqs := (List.range ((n + z - 1) / z)).map fun k => { lane := 0, va := va + z * k, size := z, kind := .read : Req }
  match s.checkAccess { w with atS := false } reqs with
  | .error (t, s) => .error (if t.cause = 16 then .lost t else .xlate, s)
  | .ok (xs, s) =>
    let pas := xs.map fun x => x.2.phys x.1.va
    let v := s.viewTime w.clk pas
    match xs.find? fun x => s.poisonedAt v (x.2.phys x.1.va) z || s.unreach (x.2.phys x.1.va) with
    | some x =>
      let pa := x.2.phys x.1.va
      .error (.lost { cause := 16, check := 9, addr := x.1.va, own := s.poisonedAt v pa z && s.ownVersion w v pa }, s)
    | none =>
      .ok ((xs.flatMap fun x => s.versionAs x.2.key v (x.2.phys x.1.va) z).take n, w.learn xs
        , ((s.markReads w.sid v pas (some w.cx)).drew).stewardTime w v)

/-- A launch record (R35). -/
structure LaunchRec where
  kaddr : Nat
  paddr : Nat
  gx : Nat
  gy : Nat
  gz : Nat
  poolov : Nat
  prio : Nat
  ndep : Nat
  pov : Bool
  cpv : Bool
  caddr : Nat
  deps : List (Nat × Nat)
  spare : Nat
  deriving DecidableEq, Repr

/-- The fields of 128 bytes (R35). -/
def LaunchRec.of (bs : List Byte) : LaunchRec :=
  let w := ofBytesLE bs
  { kaddr := bitsOf w 0 64, paddr := bitsOf w 64 64, gx := bitsOf w 128 31, gy := bitsOf w 160 16, gz := bitsOf w 176 16
    poolov := bitsOf w 192 32, prio := bitsOf w 224 3, ndep := bitsOf w 232 3, pov := w.testBit 240, cpv := w.testBit 241
    caddr := bitsOf w 256 64
    deps := (List.range 4).map fun i => (bitsOf w (384 + 128 * i) 64, bitsOf w (448 + 128 * i) 64)
    spare := bitsOf w 159 1 + bitsOf w 227 5 + bitsOf w 235 5 + bitsOf w 242 14 + bitsOf w 320 64 + bitsOf w 896 128 }

/-- The dependences in use. -/
def LaunchRec.used (r : LaunchRec) : List (Nat × Nat) := r.deps.take r.ndep
/-- Whether an address lies below 2^48. -/
def inSpace (a : Nat) : Bool := a < 281474976710656
/-- Status RECORD does not apply (R37). -/
def LaunchRec.recordOk (r : LaunchRec) : Bool :=
  r.spare == 0 && r.ndep ≤ 4 && inSpace r.kaddr && inSpace r.paddr && (!r.cpv || inSpace r.caddr) && r.used.all fun d => inSpace d.1
/-- Status ALIGN does not apply (R37). -/
def LaunchRec.alignOk (r : LaunchRec) : Bool :=
  r.kaddr % 128 == 0 && r.paddr % 16 == 0 && (!r.cpv || r.caddr % 8 == 0) && r.used.all fun d => d.1 % 8 == 0

/-- A kernel header (R195). -/
structure Header where
  magic : Nat
  ver : Nat
  gwid : Nat
  nthr : Nat
  pool : Nat
  psize : Nat
  audit : Bool
  dpc : Nat
  entry : Nat
  mseq : Nat
  cseq : Nat
  mseqN : Nat
  cseqN : Nat
  ptoff : Nat
  ptcnt : Nat
  csize : Nat
  coff : Nat
  fmts : List Nat
  spare : Nat
  deriving DecidableEq, Repr

/-- The fields of 128 bytes (R195). -/
def Header.of (bs : List Byte) : Header :=
  let w := ofBytesLE bs
  { magic := bitsOf w 0 32, ver := bitsOf w 32 16, gwid := bitsOf w 64 8, nthr := bitsOf w 72 11, pool := bitsOf w 96 32
    psize := bitsOf w 128 13, audit := w.testBit 144, dpc := bitsOf w 145 2, entry := bitsOf w 160 32, mseq := bitsOf w 192 32
    cseq := bitsOf w 224 32, mseqN := bitsOf w 256 16, cseqN := bitsOf w 272 16, ptoff := bitsOf w 288 32
    ptcnt := bitsOf w 320 11, csize := bitsOf w 336 16, coff := bitsOf w 352 32
    fmts := (List.range 16).map fun i => bitsOf w (384 + 32 * i) 32
    spare := bitsOf w 48 16 + bitsOf w 83 13 + bitsOf w 141 3 + bitsOf w 147 13 + bitsOf w 331 5 + bitsOf w 896 128 }

/-- The conditions of R196 on the header alone. -/
def Header.ok (h : Header) : Bool :=
  let mEnd := h.mseq + 32 * h.mseqN
  let cEnd := h.cseq + 32 * h.cseqN
  h.magic == 0x4B52444E && h.ver == 1 && h.spare == 0 && h.entry % 4 == 0 && h.mseq % 32 == 0 && h.cseq % 32 == 0
    && h.ptoff % 8 == 0 && h.coff % 4 == 0 && (h.mseqN ≠ 0 || h.mseq == 0) && (h.cseqN ≠ 0 || h.cseq == 0)
    && !(h.mseq < cEnd && h.cseq < mEnd && h.mseqN ≠ 0 && h.cseqN ≠ 0) && !(h.mseq ≤ h.entry && h.entry < mEnd)
    && !(h.cseq ≤ h.entry && h.entry < cEnd) && h.ptcnt ≤ 1024 && h.csize ≤ 61440 && h.csize % 4 == 0

/-- Status SHAPE does not apply (R37). -/
def Header.shapeOk (h : Header) : Bool :=
  (h.gwid == 8 || h.gwid == 16 || h.gwid == 32 || h.gwid == 64) && 1 ≤ h.nthr && h.nthr ≤ 1024 && h.nthr % h.gwid == 0
    && h.nthr ≤ 64 * min h.gwid 16 && h.psize ≤ 4096 && h.psize % 4 == 0

/-- Status POOL does not apply (R55). -/
def State.poolOk (s : State) (cx pool : Nat) : Bool :=
  4 ≤ pool % 256 && pool / 65536 % 256 ≤ 32 && poolGranules pool ≤ 128 && pool / 16777216 == 0
    && (s.ctxClusters cx).any fun k => (tabGet k s.clusters).any fun c => poolGranules pool ≤ c.lgr

/-- A patch entry (R199). -/
structure PatchEntry where
  ioff : Nat
  poff : Nat
  wide : Bool
  spare : Nat
  /-- First word of the instruction. -/
  word : Nat
  deriving DecidableEq, Repr

/-- Whether a patch entry is valid beside the others (R200). R199 makes its two offsets multiples of 4 and names no consequence:
that one which is not makes the entry invalid is the model's choice (log entry 83). -/
def patchOk (psize : Nat) (all : List PatchEntry) (p : PatchEntry) : Bool :=
  p.spare == 0 && p.ioff % 4 == 0 && p.poff % 4 == 0 && p.poff + (if p.wide then 8 else 4) ≤ psize
    && (all.filter fun q => q.ioff == p.ioff).length == 1
    && (if p.wide then p.word % 4 == 2 && isel p.word ≠ 0 else p.word % 4 == 1)
where
  /-- Whether the 128-bit instruction carries a 64-bit immediate is told by ISEL, in its second word. -/
  isel (w : Nat) : Nat := bitsOf w 58 2

/-- Everything a submission reads (R36, R196). -/
structure Submission where
  r : LaunchRec
  h : Header
  params : List Byte
  image : List Byte
  patches : List PatchEntry
  /-- Leaf of the completion object, and of each counter in use. -/
  counters : List (Nat × Nat × Leaf)
  cm : Bool
  deriving DecidableEq, Repr

/-- Read the patch table and the first words of the patched instructions (R196, R199). -/
def State.readPatches (s : State) (w : Issuer) (k : Nat) (h : Header) : Except (Unread × State) (List PatchEntry × Issuer × State) :=
  if h.ptcnt = 0 then .ok ([], w, s)
  else
    match s.readSpan w (k + h.ptoff) (8 * h.ptcnt) (if h.ptoff % 8 = 0 then 8 else 1) with
    | .error e => .error e
    | .ok (bs, w, s) =>
      (List.range h.ptcnt).foldl (fun q i =>
        match q with
        | .error e => .error e
        | .ok (ps, w, s) =>
          let e := ofBytesLE ((bs.drop (8 * i)).take 8)
          let ioff := bitsOf e 0 24
          let at_ := k + ioff / 4 * 4
          let first : Except (Unread × State) (List Byte × Issuer × State) :=
            match s.readSpan w at_ 4 4 with
            | .error e => .error e
            | .ok (x, w, s) =>
              if ofBytesLE x % 4 = 2 then (s.readSpan w (at_ + 4) 4 4).map fun (y : List Byte × Issuer × State) => (x ++ y.1, y.2)
              else .ok (x, w, s)
          match first with
          | .error e => .error e
          | .ok (x, w, s) =>
            .ok (ps ++ [{ ioff := ioff, poff := bitsOf e 24 16, wide := e.testBit 40, spare := bitsOf e 41 23, word := ofBytesLE x }], w, s))
        (.ok ([], w, s))

/-- Translate a list of counters; one that fails makes the submission fail (R37). -/
def State.readCounters (s : State) (w : Issuer) : List (Nat × Nat) → Except (Unread × State) (List (Nat × Nat × Leaf) × Issuer × State)
  | [] => .ok ([], w, s)
  | (a, t) :: r =>
    match s.counterLeaf w a with
    | (none, s) => .error (.xlate, s)
    | (some l, s) =>
      match s.readCounters (w.learn [({ lane := 0, va := a, size := 8, kind := .read }, l)]) r with
      | .error e => .error e
      | .ok (ls, w, s) => .ok ((a, t, l) :: ls, w, s)

/-- Read the header and what it names, in the order of XLATE (R37, R196). -/
def State.readSubmission (s : State) (w : Issuer) (r : LaunchRec) : Except (Unread × State) (Submission × State) :=
  match s.readSpan w r.kaddr 128 32 with
  | .error e => .error e
  | .ok (hb, w, s) =>
    let h := Header.of hb
    match s.readSpan w r.paddr h.psize 4 with
    | .error e => .error e
    | .ok (params, w, s) =>
      match s.readCounters w ((if r.cpv then [(r.caddr, 0)] else []) ++ r.used) with
      | .error e => .error e
      | .ok (cs, w, s) =>
        let at_ : Req := { lane := 0, va := (r.kaddr + h.entry) / 4 * 4, size := 4, kind := .fetch }
        match s.checkAccess { w with atS := false } [at_] with
        | .error (_, s) => .error (.xlate, s)
        | .ok (xs, s) =>
          match s.readSpan (w.learn xs) (r.kaddr + h.coff) h.csize (if h.coff % 4 = 0 then 4 else 1) with
          | .error e => .error e
          | .ok (image, w, s) =>
            match s.readPatches w r.kaddr h with
            | .error e => .error e
            | .ok (ps, _, s) =>
              .ok ({ r := r, h := h, params := params, image := image, patches := ps, counters := if r.cpv then cs.drop 1 else cs
                     cm := cs.any fun x => x.2.2.cm }, s)

/-- The status of R37 once everything is read: COHMODE to FULL, or accepted. -/
def State.submissionStatus (s : State) (cx : Nat) (x : Submission) : Nat :=
  let pool := if x.r.pov then x.r.poolov else x.h.pool
  if x.cm then 4
  else if !x.h.ok || !(x.patches.all (patchOk x.h.psize x.patches)) then 5
  else if !x.h.shapeOk then 6
  else if !s.poolOk cx pool then 7
  else if 256 ≤ (s.launches.filter fun p => p.2.ctx == cx && p.2.queued && p.2.prio == x.r.prio).length then 8
  else 0

/-- The launch a submission makes (R36, R198, R201). -/
def Submission.launch (x : Submission) (cx clk : Nat) (deps : List Dep) : Launch :=
  { ctx := cx, kaddr := x.r.kaddr, entry := x.h.entry, mseq := x.h.mseq, mseqN := x.h.mseqN, cseq := x.h.cseq, cseqN := x.h.cseqN
    gwid := x.h.gwid, T := x.h.nthr, pool := (if x.r.pov then x.r.poolov else x.h.pool), dpc := x.h.dpc, audit := x.h.audit
    fmt := x.h.fmts.zipIdx.foldl (fun m p => stPut 0 p.2 (ofBits p.1) m) []
    const := stPutList 0 4096 x.image (stPutList 0 0 x.params [])
    patches := x.patches.map fun p => { off := p.ioff + 8, bytes := (x.params.drop p.poff).take (if p.wide then 8 else 4) }
    gx := x.r.gx, gy := x.r.gy, gz := x.r.gz, prio := x.r.prio, cpv := x.r.cpv, caddr := x.r.caddr, deps := deps
    submitClk := clk, left := (x.r.gx + 1) * (x.r.gy + 1) * (x.r.gz + 1), maxTime := clk }

/-- A dependence counter as it stands at acceptance (R39, R403): met at the acceptance if its condition holds. -/
def State.acceptDep (s : State) (cx clk : Nat) (d : Nat × Nat × Leaf) : Dep × State :=
  let pa := d.2.2.phys d.1
  let v := max clk (s.atom pa).w
  let met := d.2.1 ≤ ofBytesLE (s.bytesAs d.2.2.key pa 8)
  ({ addr := d.1, pa := pa, key := d.2.2.key, thr := d.2.1, met := if met then some (if d.2.1 = 0 then clk else v) else none }, s.markRead none v pa (some cx))

/-- Submit a launch record for a context at a logical time (R37, R402, R403): the status, and the state with the launch
queued when it is accepted; or the trap of uncorrectable data that the submission reads (R434). -/
def State.submit (s : State) (cx : Nat) (w : Issuer) (rec : List Byte) : Except (Trap × State) (Nat × State) :=
  let r := LaunchRec.of rec
  if !r.recordOk then .ok (1, s)
  else if !r.alignOk then .ok (2, s)
  else
    match s.readSubmission w r with
    | .error (.xlate, s) => .ok (3, s)
    | .error (.lost t, s) => .error (t, s)
    | .ok (x, s) =>
      let status := s.submissionStatus cx x
      if status ≠ 0 then .ok (status, s)
      else
        let (deps, s) := x.counters.foldl (fun (q : List Dep × State) d =>
          let (e, s) := q.2.acceptDep cx w.clk d
          (q.1 ++ [e], s)) ([], s)
        let s := s.stewardTime w (maxOf (x.counters.map fun d => (s.atom (d.2.2.phys d.1)).e))
        let k := s.nextId
        let s := { s with nextId := k + 1, launches := tabPut k (x.launch cx w.clk deps) s.launches }
        .ok (0, s.tryEligible k)

/-- LAUNCH (R311). -/
def execLaunch (g : Guard) (d : Fin 64) (a : AddrOperand) (s : State) : Host.Outcome State Fault Refusal :=
  let i := Instr.launch g d a
  enterMemGang i g s fun s c =>
    let va := match a with
      | .s n => (c.view.upair n).toNat
      | .imm64 w => w.toNat
    if va % 128 ≠ 0 then .next (s.raise c i { cause := 3, check := 3, addr := va })
    else
      let done (status : Nat) (s : State) : Host.Outcome State Fault Refusal :=
        .next ((((s.putRegs c (c.view.regs.setUni d.val (BitVec.ofNat 32 status))).pinDown c.sid).noAudit c.sid).finish c i)
      let lost (t : Trap) (s : State) : Host.Outcome State Fault Refusal :=
        .next (s.raise c i { cause := 16, check := 9, lane := some c.view.lead, addr := t.addr, own := t.own })
      match s.readSpan c.issuer va 128 32 with
      | .error (.xlate, s) => done 3 s
      | .error (.lost t, s) => lost t s
      | .ok (bs, w, s') =>
        match s'.submit c.sh.ctx w bs with
        | .error (t, s') => lost t s'
        | .ok (status, s') => done status s'

end Sys2Proof.Machine
end

