-- ==== Sys2Proof/Machine/Moves.lean ====
section
/-! DEFINITION. The compare, select, predicate and move instructions (R239 to R246) and the special values (R60, R321). -/

namespace Sys2Proof.Machine

/-- ICMP (R239). -/
def execIcmp (g : Guard) (ty : IntTy) (cmp : ICmp) (comb : Combine) (pd : Fin 8) (a b : Operand) (s : State) :
    Host.Outcome State Fault Refusal :=
  alu (.icmp g ty cmp comb pd a b) s fun c => c.putPred g pd fun l =>
    combineAt c.regs comb l (icmpHolds cmp (ty.val (c.src32 l a)) (ty.val (c.src32 l b)))
/-- SEL (R240). -/
def execSel (g : Guard) (ty : BitTy) (p : Fin 8) (neg : Bool) (d : Fin 192) (a b : Operand) (s : State) :
    Host.Outcome State Fault Refusal :=
  alu (.sel g ty p neg d a b) s fun c =>
    let pick (l : Nat) : Operand := if c.regs.predAt p l != neg then a else b
    if ty = .b64 then c.put64 g (.v d) fun l => c.src64 l (pick l) else c.put32 g (.v d) fun l => c.src32 l (pick l)
/-- PCOMB (R241). -/
def execPcomb (g : Guard) (pd pa pb pc : Fin 8) (tt : Byte) (s : State) : Host.Outcome State Fault Refusal :=
  alu (.pcomb g pd pa pb pc tt) s fun c => c.putPred g pd fun l =>
    truthBit tt (c.regs.predAt pa l) (c.regs.predAt pb l) (c.regs.predAt pc l)
/-- PSETM from a uniform pair (R242). -/
def execPsetm (g : Guard) (pd : Fin 8) (a : Fin 64) (s : State) : Host.Outcome State Fault Refusal :=
  alu (.psetm g pd a) s fun c => c.putPred g pd fun l => laneOn (c.upair a) l
/-- PSETM from a rejoin mask (R242). -/
def execPsetmMask (g : Guard) (pd : Fin 8) (k : Fin 8) (s : State) : Host.Outcome State Fault Refusal :=
  alu (.psetmMask g pd k) s fun c => c.putPred g pd fun l => laneOn (c.regs.rejoin k.val) l
/-- PMOV to a register (R243). -/
def execPmovToReg (g : Guard) (p : Fin 8) (d : Fin 192) (s : State) : Host.Outcome State Fault Refusal :=
  alu (.pmovToReg g p d) s fun c => c.put32 g (.v d) fun l => if c.regs.predAt p l then 1 else 0
/-- PMOV to a predicate (R243). -/
def execPmovToPred (g : Guard) (pd : Fin 8) (a : Reg) (s : State) : Host.Outcome State Fault Refusal :=
  alu (.pmovToPred g pd a) s fun c => c.putPred g pd fun l => c.reg32 l a != 0
/-- PMOV of a rejoin mask to a uniform pair (R243). -/
def execPmovFromMask (g : Guard) (k : Fin 8) (d : Fin 64) (s : State) : Host.Outcome State Fault Refusal :=
  alu (.pmovFromMask g k d) s fun c => c.put64 g (.s d) fun _ => c.regs.rejoin k.val
/-- MOV (R244). -/
def execMov (g : Guard) (ty : BitTy) (d : Reg) (a : Operand) (s : State) : Host.Outcome State Fault Refusal :=
  alu (.mov g ty d a) s fun c =>
    if ty = .b64 then c.put64 g d fun l => c.src64 l a else c.put32 g d fun l => c.src32 l a
/-- MOVI (R245). -/
def execMovi (g : Guard) (ty : BitTy) (d : Reg) (a : Operand) (s : State) : Host.Outcome State Fault Refusal :=
  alu (.movi g ty d a) s fun c =>
    if ty = .b64 then c.put64 g d fun l => c.src64 l a else c.put32 g d fun l => c.src32 l a

/-- The value of a special in a lane (R60, R61); in a sequencer the gang number is that of the gang that started it
(R321). -/
def State.special (s : State) (c : Site) (n l : Nat) : Nat :=
  let xyz := match tabGet c.sh.launch s.launches with
    | none => (0, 0, 0)
    | some q => q.coords c.sh.index
  match n with
  | 0 => l
  | 1 => c.sh.W
  | 2 => c.gang
  | 3 => c.sh.index
  | 4 => xyz.1 + 4294967296 * xyz.2.1 + 281474976710656 * xyz.2.2
  | 5 => c.sh.duct
  | 6 => c.sh.diexy
  | 7 => c.sh.cyc
  | 8 => s.etime
  | 9 => c.sh.wstretch / tickNs
  | 10 => ((((tabGet c.gang c.sh.gangs).bind fun g => tabGet l g.threads)).map (·.clock)).getD 0
  | 11 => c.sh.nv
  | 12 => c.sh.na
  | 13 => s.classOf c.sh
  | _ => c.sh.spadSize

/-- MOVS (R246). -/
def execMovs (g : Guard) (num : Fin 15) (d : Reg) (s : State) : Host.Outcome State Fault Refusal :=
  let i := Instr.movs g num d
  enter i s fun c =>
    let r := if specialWide num.val then c.view.put64 g d fun l => BitVec.ofNat 64 (s.special c num.val l)
      else c.view.put32 g d fun l => BitVec.ofNat 32 (s.special c num.val l)
    .next ((s.putRegs c r).finish c i)

end Sys2Proof.Machine
end

