-- ==== Sys2Proof/Machine/Nf.lean ====
section
/-! DEFINITION. NF packing and block scales (R265 to R267). -/

namespace Sys2Proof.Machine

/-- An active lane whose format word is malformed or lacks the container (R266). -/
def badFormat (c : Site) (g : Guard) (k : Nat) (b : Operand) : Option Trap :=
  ((c.view.active g).find? fun l =>
    let f := NFWord.ofNat (c.view.src32 l b).toNat
    !f.wf || f.perWord ≤ k).map fun l => { cause := 1, check := 2, lane := some l }
/-- The scale byte in effect (R266). -/
def scaleByte (f : NFWord) (x : Word) : Nat := if f.sck = 1 then x.toNat % 256 else 127
/-- An NF instruction after its format check: on the uniform datapath the guard decides whether any check is made. -/
def nfOp (i : Instr) (g : Guard) (k : Nat) (d : Reg) (b : Operand) (s : State) (f : View → Nat → Word) : Host.Outcome State Fault Refusal :=
  enter i s fun c =>
    if !d.isVec && !c.view.acts g then .next (s.finish c i)
    else
      match badFormat c g k b with
      | some t => .next (s.raise c i t)
      | none => .next ((s.putRegs c (c.view.put32 g d (f c.view))).finish c i)
/-- NFPACK (R266). -/
def execNfpack (g : Guard) (k : Fin 8) (d : Reg) (a b c : Operand) (s : State) : Host.Outcome State Fault Refusal :=
  nfOp (.nfpack g k d a b c) g k.val d b s fun v l =>
    let f := NFWord.ofNat (v.src32 l b).toNat
    let n := f.container
    let x := (v.reg32 l d).toNat
    ofBits (x / 2 ^ (n * (k.val + 1)) * 2 ^ (n * (k.val + 1))
      + f.packScaled (v.src32 l a).toNat (scaleByte f (v.src32 l c)) * 2 ^ (n * k.val) + x % 2 ^ (n * k.val))
/-- NFUNP (R266). -/
def execNfunp (g : Guard) (k : Fin 8) (d : Reg) (a b c : Operand) (s : State) : Host.Outcome State Fault Refusal :=
  nfOp (.nfunp g k d a b c) g k.val d b s fun v l =>
    let f := NFWord.ofNat (v.src32 l b).toNat
    let code := (v.src32 l a).toNat / 2 ^ (f.container * k.val) % 2 ^ f.wid
    ofBits (f.unpackScaled code (scaleByte f (v.src32 l c)))
/-- The scale of the block that holds element `l` (R267): the values of the lanes taking part only. -/
def blockScaleAt (v : View) (part : List Nat) (f : NFWord) (a c : Operand) (l : Nat) : Nat :=
  let n := f.block
  let idx := (List.range n).map fun j => l / n * n + j
  f.blockScale (idx.filterMap fun e =>
    if e < v.W then (if part.contains e then some (v.src32 e a).toNat else none)
    else if e < 2 * v.W then (if part.contains (e - v.W) then some (v.src32 (e - v.W) c).toNat else none)
    else none)
/-- SCALEBLK (R267). -/
def execScaleblk (g : Guard) (d : Reg) (a b c : Operand) (s : State) : Host.Outcome State Fault Refusal :=
  let i := Instr.scaleblk g d a b c
  enter i s fun q =>
    if !d.isVec && !q.view.acts g then .next (s.finish q i)
    else
      let f := NFWord.ofNat (q.view.src32 q.view.lead b).toNat
      let part := if d.isVec then q.view.active g else q.view.enabled
      if !(f.wf && f.sck = 1) && !part.isEmpty then .next (s.raise q i (Trap.illegal 2))
      else .next ((s.putRegs q (q.view.put32 g d fun l => ofBits (blockScaleAt q.view part f a c l))).finish q i)

end Sys2Proof.Machine
end

