-- ==== Sys2Proof/Machine/Sched.lean ====
section
/-! DEFINITION. The scheduling hardware: offering order and placement (R402 to R409), steals (R406), preemption requests
and their methods (R393 to R396, R410), and the retirement of sheets and launches (R32, R40, R42, R436). -/

namespace Sys2Proof.Machine

/-! ### Ranges of unplaced sheets -/

/-- Unplaced sheets in a list of runs. -/
def runsCount (rs : List Run) : Nat := (rs.map (·.count)).foldl (· + ·) 0
/-- The least unplaced index. -/
def runsHead (rs : List Run) : Option Nat := ((rs.filter fun r => 0 < r.count).map (·.lo)).min?
/-- Remove the least index. -/
def runsTail (rs : List Run) : List Run :=
  match runsHead rs with
  | none => []
  | some k => (rs.map fun r => if r.lo = k then { r with lo := r.lo + r.step, count := r.count - 1 } else r).filter fun r => 0 < r.count

/-- How many indices of a run lie below `v`. -/
def Run.below (r : Run) (v : Nat) : Nat := if v ≤ r.lo then 0 else min r.count ((v - r.lo + r.step - 1) / r.step)
/-- How many indices of a list of runs are at least `v`. -/
def runsFrom (rs : List Run) (v : Nat) : Nat := (rs.map fun r => r.count - r.below v).foldl (· + ·) 0
/-- The least `v` with no more than `m` indices at or above it, between `lo` and `hi`; fuel halves the span. -/
def runsCut (rs : List Run) (m lo hi : Nat) : Nat → Nat
  | 0 => hi
  | n + 1 =>
    if hi ≤ lo then hi
    else
      let mid := (lo + hi) / 2
      if runsFrom rs mid ≤ m then runsCut rs m lo mid n else runsCut rs m (mid + 1) hi n
/-- The indices below the cut, and those from it on: the highest `m` (R406). -/
def runsSplit (rs : List Run) (m : Nat) : List Run × List Run :=
  let v := runsCut rs m 0 18446744073709551616 65
  let keep (r : Run) : Run := { r with count := r.below v }
  let give (r : Run) : Run := { r with lo := r.lo + r.step * r.below v, count := r.count - r.below v }
  ((rs.map keep).filter fun r => 0 < r.count, (rs.map give).filter fun r => 0 < r.count)

/-! ### The offering order -/

/-- Insert by a key, after equal keys. -/
def insertBy {α : Type} (le : α → α → Bool) (x : α) : List α → List α
  | [] => [x]
  | y :: r => if le y x then y :: insertBy le x r else x :: y :: r
/-- A stable sort. -/
def sortBy {α : Type} (le : α → α → Bool) (l : List α) : List α := l.foldl (fun r x => insertBy le x r) []
/-- The partition a die belongs to (R418). -/
def State.partOf (s : State) (die : Nat) : Option (Nat × Partition) :=
  s.parts.find? fun p => (s.partDies p.2).contains die
/-- The rank of a launch's context (R404). -/
def State.rankOf (s : State) (l : Launch) : Nat := ((tabGet l.ctx s.ctxs).map (·.rank)).getD 0
/-- The scheduling key of a launch, the greater the earlier (R404). -/
def State.schedKey (s : State) (l : Launch) : Nat := 8 * s.rankOf l + l.prio

/-- The eligible launches a die's distributor offers, in offering order (R45, R403, R404, R408). -/
def State.dieLaunches (s : State) (die : Nat) : List (Nat × Launch) :=
  match s.partOf die, tabGet die s.dies with
  | some (p, _), some d =>
    let mine := s.launches.filter fun l => l.2.eligible.isSome && ((tabGet l.2.ctx s.ctxs).map (·.part)) == some p
    let turn (l : Launch) : Nat :=
      match tabGet (s.schedKey l) d.rotation with
      | none => l.ctx
      | some r => if r < l.ctx then l.ctx - r else l.ctx + 4294967296 - r
    let key (l : Nat × Launch) : List Nat := [32 - s.schedKey l.2, turn l.2, l.2.eligible.getD 0, l.1]
    sortBy (fun a b => lexLe (key a) (key b)) mine
  | _, _ => []

/-- The logical index of a die in its partition. -/
def State.dieIndex (s : State) (die : Nat) : Nat := ((s.partOf die).map fun p => logicalIndex (s.partDies p.2) die).getD 0
/-- The runs of a launch that a die owns. -/
def State.ownRuns (s : State) (die : Nat) (l : Launch) : List Run := (tabGet (s.dieIndex die) l.unplaced).getD []

/-- What a die offers of one launch: saved sheets by index, then the least unplaced index (R405, R408). -/
def State.offersOf (s : State) (die : Nat) (l : Nat × Launch) : List Offer :=
  let saved := (((tabGet die s.dies).map (·.restore)).getD []).filter fun r => ((tabGet r.1 s.sheets).map (·.launch)) == some l.1
  let index (r : Nat × Nat) : Nat := ((tabGet r.1 s.sheets).map (·.index)).getD 0
  (sortBy (fun a b => index a ≤ index b) saved).map (fun r => Offer.saved r.1)
    ++ ((runsHead (s.ownRuns die l.2)).map (Offer.new l.1)).toList
/-- What a die's distributor offers, in order (R408). -/
def State.offers (s : State) (die : Nat) : List Offer := (s.dieLaunches die).flatMap (s.offersOf die)

/-! ### Fitting -/

/-- What a sheet needs of a cluster: its granules, its gangs there, and whether its width is kept (R407, R18). -/
structure Need where
  granules : Nat
  gangs : Cluster → Nat
  width : Cluster → Bool

/-- What an offered sheet needs. -/
def State.need (s : State) (o : Offer) : Option Need :=
  match o with
  | .saved sid =>
    match tabGet sid s.sheets with
    | none => none
    | some h =>
      (tabGet h.launch s.launches).map fun l =>
        { granules := poolGranules h.pool, gangs := fun _ => h.gangs.length, width := fun c => l.width c == h.W }
  | .new k _ =>
    (tabGet k s.launches).map fun l =>
      { granules := poolGranules l.pool, gangs := fun c => l.T / l.width c, width := fun _ => true }

/-- Whether a cluster would fit a sheet once `gran` granules and `gangs` gangs of it are free besides (R407, R439). -/
def State.fitsOn (s : State) (n : Need) (k gran gangs : Nat) : Bool :=
  match tabGet k s.clusters with
  | none => false
  | some c =>
    !c.quarantined && n.width c && n.granules + s.clusterTaken k ≤ c.lgr + gran && s.clusterGangs k + n.gangs c ≤ 64 + gangs

/-- The preemption request of a die that is not done with (R410). -/
def State.askedOn (s : State) (die : Nat) : Option Asked := (tabGet die s.dies).bind Die.asked
/-- Granules and gangs that the victims of a request have freed on its cluster (R410). -/
def State.freedBy (s : State) (a : Asked) : Nat × Nat :=
  let gone := a.victims.filter fun v => ((tabGet v.1 s.sheets).bind Sheet.cluster?) != some a.cluster
  ((gone.map (·.2.1)).foldl (· + ·) 0, (gone.map (·.2.2)).foldl (· + ·) 0)
/-- Whether a cluster of a die takes an offered sheet (R407): what a preemption request freed there is kept for the sheet that caused
it (R410). -/
def State.takesOn (s : State) (die : Nat) (o : Offer) (n : Need) (k : Nat) : Bool :=
  match (s.askedOn die).filter fun a => a.cluster == k && a.offer != o with
  | none => s.fitsOn n k 0 0
  | some a => s.fitsOn { n with granules := n.granules + (s.freedBy a).1, gangs := fun c => n.gangs c + (s.freedBy a).2 } k 0 0
/-- The cluster of a die that takes a sheet: the one its preemption request is for, if that fits it; then fewest resident gangs, then
lowest ductus number (R407, R410). -/
def State.bestCluster (s : State) (die : Nat) (o : Offer) : Option Nat :=
  match s.need o with
  | none => none
  | some n =>
    let fit := ((s.clusters.filter fun c => c.2.die == die).map (·.1)).filter (s.takesOn die o n)
    (fit.find? fun k => (s.askedOn die).any fun a => a.offer == o && a.cluster == k).or
      (sortBy (fun a b => lexLe [s.clusterGangs a, a] [s.clusterGangs b, b]) fit).head?

/-- The context an offered sheet belongs to. -/
def State.offerCtx (s : State) (o : Offer) : Option Context :=
  let cx := match o with
    | .saved sid => (tabGet sid s.sheets).map Sheet.ctx
    | .new k _ => (tabGet k s.launches).map Launch.ctx
  cx.bind fun k => tabGet k s.ctxs
/-- PLQ of an offered sheet's context in ticks (R363). -/
def State.offerPlq (s : State) (o : Offer) : Nat := ((s.offerCtx o).map (·.plq)).getD 0 * tickUs
/-- Since when an offered sheet has waited on a die (R408, R410). -/
def State.waitsSince (s : State) (die : Nat) (o : Offer) : Option Nat :=
  ((((tabGet die s.dies).map (·.waiting)).getD []).find? (·.1 == o)).map (·.2)
/-- Whether a sheet that fits nowhere may no longer be passed (R408). -/
def State.heldBack (s : State) (die : Nat) (o : Offer) : Bool := (s.waitsSince die o).any fun t => s.offerPlq o < s.now - t

/-- The first sheet in a list of offers that fits, unless one before it may no longer be passed (R408). -/
def State.firstFit (s : State) (die : Nat) : List Offer → Option (Offer × Nat)
  | [] => none
  | o :: r =>
    match s.bestCluster die o with
    | some k => some (o, k)
    | none => if s.heldBack die o then none else s.firstFit die r

/-- The sheet that caused a preemption request, once the request's cluster takes it (R410). -/
def State.askedFit (s : State) (die : Nat) : Option (Offer × Nat) :=
  match s.askedOn die with
  | none => none
  | some a => if (s.offers die).contains a.offer && s.bestCluster die a.offer == some a.cluster then some (a.offer, a.cluster) else none
/-- What a die's distributor places next (R408, R468): space that a preemption request freed goes to its sheet first (R410). -/
def State.placeable (s : State) (die : Nat) : Option (Offer × Nat) :=
  match s.partOf die with
  | none => none
  | some (p, _) => if s.placeStop == some p then none else (s.askedFit die).or (s.firstFit die (s.offers die))

/-- After a sheet is placed the rotation of its key advances by one context, over those that have one to offer (R404). -/
def State.rotate (s : State) (die key : Nat) : State :=
  match (s.dieLaunches die).find? fun l => s.schedKey l.2 == key && !(s.offersOf die l).isEmpty with
  | none => s
  | some l => s.modDie die fun d => { d with rotation := tabPut key l.2.ctx d.rotation }

/-- PLACE_SHEET (R404, R407, R408): a new sheet, or a saved one. -/
def execPlaceSheet (die : Nat) (s : State) : Host.Outcome State Fault Refusal :=
  match s.placeable die with
  | none => .fault .notEnabled
  | some (.saved sid, k) =>
    let key := (((tabGet sid s.sheets).bind fun h => tabGet h.launch s.launches).map s.schedKey).getD 0
    .next ((s.rotate die key).restoreSheet sid k).reap
  | some (.new launch index, k) =>
    let key := ((tabGet launch s.launches).map s.schedKey).getD 0
    let i := s.dieIndex die
    let s := (s.rotate die key).modLaunch launch fun l =>
      let l := { l with unplaced := tabMod i runsTail l.unplaced }
      { l with queued := l.unplaced.any fun p => 0 < runsCount p.2 }
    .next (s.placeNew launch index k).reap

/-! ### Steals -/

/-- Whether a distributor is dry (R406). -/
def State.dry (s : State) (die : Nat) : Bool :=
  (((tabGet die s.dies).map (·.restore)).getD []).isEmpty && (s.dieLaunches die).all fun l => runsCount (s.ownRuns die l.2) = 0
/-- The live dies of a die's partition. -/
def State.siblings (s : State) (die : Nat) : List Nat := ((s.partOf die).map fun p => s.partDies p.2).getD []
/-- How many steps ahead a dry distributor asks next, when it asks now (R406). -/
def State.asking (s : State) (die : Nat) : Option Nat :=
  match tabGet die s.dies with
  | none => none
  | some d =>
    if !s.dry die || (s.siblings die).length < 2 then none
    else
      match d.steal with
      | .none => some 1
      | .asking k => some k
      | .resting _ => none

/-- STEAL_REQUEST (R406): the victim hands over the upper half of its first launch with two or more unplaced sheets. -/
def execStealRequest (die : Nat) (s : State) : Host.Outcome State Fault Refusal :=
  match s.asking die with
  | none => .fault .notEnabled
  | some k =>
    let ds := s.siblings die
    let victim := (ds[(s.dieIndex die + k) % ds.length]?).getD die
    match (s.dieLaunches victim).find? fun l => 2 ≤ runsCount (s.ownRuns victim l.2) with
    | none =>
      let next := if k + 1 < ds.length then Steal.asking (k + 1) else Steal.resting (s.now + 5 * tickUs)
      .next (s.modDie die fun d => { d with steal := next })
    | some (id, l) =>
      let (keep, give) := runsSplit (s.ownRuns victim l) (runsCount (s.ownRuns victim l) / 2)
      let s := s.modLaunch id fun l =>
        { l with unplaced := tabPut (s.dieIndex die) (s.ownRuns die l ++ give) (tabPut (s.dieIndex victim) keep l.unplaced) }
      .next (s.modDie die fun d => { d with steal := .none })

/-- Whether a distributor that found nothing asks again now (R406). -/
def State.retries (s : State) (die : Nat) : Bool :=
  s.dry die && (s.dieLaunches die).any (fun l => l.2.placing) &&
    match (tabGet die s.dies).map Die.steal with
    | some (.resting t) => t ≤ s.now
    | _ => false

/-- STEAL_RETRY (R406). -/
def execStealRetry (die : Nat) (s : State) : Host.Outcome State Fault Refusal :=
  if s.retries die then .next (s.modDie die fun d => { d with steal := .asking 1 }) else .fault .notEnabled

/-! ### Preemption -/

/-- Whether a drain has no bound (R394): no sheet of the launch has retired, or a gang is at S, in an external wait or
napping. -/
def Sheet.drainOpen (h : Sheet) (l : Launch) : Bool :=
  l.retired = 0 || h.gangs.any fun p => p.2.atS || p.2.threads.any fun q =>
    h.counted q.2.st == some false || (match q.2.st with | .nap _ => true | _ => false)
/-- Ticks a sheet has been resident. -/
def Sheet.residentFor (h : Sheet) (now : Nat) : Nat := h.resided + (if h.cluster?.isSome then now - h.placedAt else 0)

/-- Choose the method for a sheet under a latency bound in µs (R393, R394). -/
def State.requestPreempt (s : State) (sid L : Nat) : State :=
  match (tabGet sid s.sheets).bind fun h => (tabGet h.launch s.launches).map fun l => (h, l) with
  | none => s
  | some (h, l) =>
    let bound := L * tickUs
    let drain := l.spent / max 1 l.retired - h.residentFor s.now
    let save := h.imageSize * tickNs / 200
    let flush := tickUs / 2 + 2 * h.ivl.pins.length * tickNs
    let r : Request :=
      if !h.drainOpen l && drain ≤ bound then .drain (s.now + bound)
      else if save ≤ bound then .save
      else if h.ivl.recoverable && flush ≤ bound then .flush
      else .save
    s.modSheet sid fun h => { h with request := r }

/-- The resident sheets of a die that may be preempted, lowest key first, then longest resident (R410). -/
def State.victims (s : State) (die : Nat) : List (Nat × Sheet) :=
  let mine := s.sheets.filter fun p =>
    p.2.replay.isNone && ((p.2.cluster?.bind fun k => tabGet k s.clusters).map (·.die)) == some die
  let key (h : Sheet) : Nat := ((tabGet h.launch s.launches).map s.schedKey).getD 0
  sortBy (fun a b => lexLe [key a.2, a.2.placedAt, a.1] [key b.2, b.2.placedAt, b.1]) mine

/-- Victims of one cluster in order, with the granules and gangs each frees, until it would fit the waiting sheet (R410). -/
def State.takeVictims (s : State) (n : Need) (k : Nat) : List (Nat × Sheet) → Nat → Nat → List (Nat × Nat × Nat) → Option (List (Nat × Nat × Nat))
  | [], gran, gangs, out => if s.fitsOn n k gran gangs then some out else none
  | v :: r, gran, gangs, out =>
    if s.fitsOn n k gran gangs then some out
    else if v.2.cluster? == some k then
      s.takeVictims n k r (gran + poolGranules v.2.pool) (gangs + v.2.gangs.length) (out ++ [(v.1, poolGranules v.2.pool, v.2.gangs.length)])
    else s.takeVictims n k r gran gangs out
/-- The request that victims of a list can meet for an offered sheet, cluster by cluster in the order of the list (R410). -/
def State.roomFrom (s : State) (vs : List (Nat × Sheet)) (o : Offer) : Option Asked :=
  (s.need o).bind fun n => vs.findSome? fun v => v.2.cluster?.bind fun k =>
    (s.takeVictims n k vs 0 0 []).map fun l => { offer := o, cluster := k, victims := l }

/-- Whether a preemption request of a die is still being met: a victim of it is still resident (R410). -/
def State.meeting (s : State) (die : Nat) : Bool :=
  (s.askedOn die).any fun a => a.victims.any fun v => (tabGet v.1 s.sheets).any fun h => h.request != .none && h.cluster?.isSome
/-- The scheduling key of an offered sheet's launch (R404). -/
def State.offerKey (s : State) (o : Offer) : Nat :=
  let launch := match o with
    | .saved sid => ((tabGet sid s.sheets).map (·.launch)).getD 0
    | .new k _ => k
  ((tabGet launch s.launches).map s.schedKey).getD 0
/-- The offered sheets that fit nowhere on a die and have waited PLQ of their context, the longest waiting first (R48, R410; log entry
49). -/
def State.overdue (s : State) (die : Nat) : List Offer :=
  let late := (s.offers die).filter fun o => (s.bestCluster die o).isNone && (s.waitsSince die o).any fun t => s.offerPlq o ≤ s.now - t
  sortBy (fun a b => (s.waitsSince die a).getD 0 ≤ (s.waitsSince die b).getD 0) late
/-- The preemption request of a die and its latency bound (R410): made while the first sheet in offering order fits nowhere, for that
sheet where sheets of a lower key make room, else for the sheet that has waited longest beyond PLQ; none while a request is being
met. -/
def State.preemption (s : State) (die : Nat) : Option (Asked × Nat) :=
  match (s.offers die).head?, s.partOf die with
  | some o, some (p, _) =>
    if s.placeStop == some p || (s.bestCluster die o).isSome || s.meeting die then none
    else
      let all := (s.victims die).filter fun v => v.2.request == .none
      let low := all.filter fun v => ((tabGet v.2.launch s.launches).map s.schedKey).getD 0 < s.offerKey o
      let plq (cx : Nat) : Nat := ((tabGet cx s.ctxs).map (·.plq)).getD 0
      let old := all.filter fun v => plq v.2.ctx * tickUs < s.now - v.2.placedAt
      ((s.roomFrom low o).map fun a => (a, 20)).or (((s.overdue die).findSome? (s.roomFrom old)).map fun a => (a, 100))
  | _, _ => none

/-- PREEMPTION_REQUEST (R410). -/
def execPreemptionRequest (die : Nat) (s : State) : Host.Outcome State Fault Refusal :=
  match s.preemption die with
  | none => .fault .notEnabled
  | some (a, L) => .next ((a.victims.foldl (fun s v => s.requestPreempt v.1 L) s).modDie die fun d => { d with asked := some a })

/-! ### The restore list -/

/-- Whether a preemption request of a die is to be made, or is being met, for an offered sheet (R410). -/
def State.seeks (s : State) (die : Nat) (o : Offer) : Bool :=
  (s.preemption die).any (·.1.offer == o) || (s.meeting die && (s.askedOn die).any (·.offer == o))
/-- Whether a saved sheet has fitted nowhere on the die for 5 µs (R409); one for which the die frees space stays (R48; log entry
49). -/
def State.passes (s : State) (die sheet : Nat) : Bool :=
  (((tabGet die s.dies).map (·.restore)).getD []).any fun r =>
    r.1 == sheet && r.2 + 5 * tickUs ≤ s.now && (s.bestCluster die (.saved r.1)).isNone && !s.seeks die (.saved r.1)

/-- RESTORE_LIST_PASS (R409): to the distributor of the ductus successor, where it goes on waiting (R48, R410). -/
def execRestoreListPass (die sheet : Nat) (s : State) : Host.Outcome State Fault Refusal :=
  if !s.passes die sheet then .fault .notEnabled
  else
    let ds := s.siblings die
    let next := (ds[(s.dieIndex die + 1) % ds.length]?).getD die
    let wait := (((tabGet die s.dies).map (·.waiting)).getD []).filter (·.1 == .saved sheet)
    let s := s.modDie die fun d =>
      { d with restore := d.restore.filter (·.1 != sheet), waiting := d.waiting.filter (·.1 != .saved sheet) }
    .next ((s.queueRestore sheet next).modDie next fun d => { d with waiting := d.waiting ++ wait })

/-- DRAIN_TIMEOUT (R393). -/
def execDrainTimeout (sheet : Nat) (s : State) : Host.Outcome State Fault Refusal :=
  match (tabGet sheet s.sheets).map Sheet.request with
  | some (.drain t) => if t ≤ s.now then .next (s.modSheet sheet fun h => { h with request := .save }) else .fault .notEnabled
  | _ => .fault .notEnabled

/-- SAVE (R396); a sheet that has lost state is rolled back or killed first (R430). -/
def execSave (sheet : Nat) (s : State) : Host.Outcome State Fault Refusal :=
  match tabGet sheet s.sheets with
  | none => .fault .notEnabled
  | some h => if h.request == .save && h.cluster?.isSome && h.loss.isNone then .next (s.saveSheet sheet).reap else .fault .notEnabled

/-- FLUSH (R395): a sheet that has meanwhile become one that may not be flushed is saved. -/
def execFlush (sheet : Nat) (s : State) : Host.Outcome State Fault Refusal :=
  match tabGet sheet s.sheets with
  | none => .fault .notEnabled
  | some h =>
    if h.request != .flush || h.cluster?.isNone then .fault .notEnabled
    else if h.ivl.recoverable then .next (s.flushSheet sheet).reap
    else .next (s.modSheet sheet fun h => { h with request := .save })

/-! ### Retirement -/

/-- Whether everything a sheet issued is done (R32, R161, R342). -/
def State.sheetDone (s : State) (sid : Nat) (h : Sheet) : Bool :=
  h.cluster?.isSome && h.allExited && h.mseq.st == .idle && h.cseq.st == .idle && h.pend.isEmpty
    && !(s.copies.any fun p => p.2.sheet == sid) && !(s.writes.any fun p => p.2.sheet == sid)
    && !(s.packets.any fun p => p.2.sheet == sid) && !s.closing h.ctx
    && !(s.dies.any fun d => d.2.raster.any fun r => r.2.draws.any fun x => x.2.packets.any (·.sheet == sid))

/-- A sheet leaves the package: its granules return, its interval ends. -/
def State.removeSheet (s : State) (sid : Nat) : State :=
  match tabGet sid s.sheets with
  | none => s
  | some h =>
    let s := s.unpin h.ivl
    let s := { s with sheets := tabDel sid s.sheets, shadows := tabDel sid s.shadows }
    (h.cluster?.map s.leaveCluster).getD s

/-- The clusters on which a replay of a sheet may run, the dies of `used` left out where the partition has more (R437,
R438). -/
def State.replayClusters (s : State) (h : Sheet) (used : List Nat) : List Nat :=
  match tabGet h.launch s.launches with
  | none => []
  | some l =>
    let ds := s.ctxDies h.ctx
    let other := ds.filter fun d => !used.contains d
    let ok := if other.isEmpty then ds else other
    (s.clusters.filter fun c => ok.contains c.2.die && !c.2.quarantined && l.width c.2 == h.W && poolGranules h.pool ≤ c.2.lgr).map (·.1)

/-- Whether the finished sheet is sampled for audit (R436, R437): free where the spec leaves it so. -/
def State.sampled (s : State) (h : Sheet) : Bool :=
  let audk := ((tabGet h.ctx s.ctxs).map (·.audk)).getD 0
  let audit := ((tabGet h.launch s.launches).map (·.audit)).getD false
  audk.testBit 31 && audit && !h.noAudit && !(s.replayClusters h [s.dieOf h]).isEmpty
    && (audk % 32 = 0 || s.free .sample % 2 = 0)

/-- SHEET_RETIRE (R32, R436). -/
def execSheetRetire (sheet : Nat) (s : State) : Host.Outcome State Fault Refusal :=
  match tabGet sheet s.sheets with
  | none => .fault .notEnabled
  | some h =>
    if !s.sheetDone sheet h || h.replay.isSome then .fault .notEnabled
    else
      let take := s.sampled h
      let s := s.drew
      let audit : Audit := { sheet := h, sigs := [(h.cluster?.getD 0, h.sig)] }
      let s := if take then { s with audits := tabPut s.nextId audit s.audits, nextId := s.nextId + 1 } else s
      let s := s.modLaunch h.launch fun l =>
        { l with left := l.left - 1, retired := l.retired + 1, spent := l.spent + (s.now - h.firstAt)
                 maxTime := max l.maxTime h.topClock, gone := l.gone ++ [h.index], audits := l.audits + (if take then 1 else 0) }
      .next (s.removeSheet sheet)

/-- The completion object of a retired launch takes its increment, later than every access of the launch (R40); only one that
fails translation takes none (R42). -/
def State.increment (s : State) (l : Launch) : State :=
  let clk := l.maxTime + 1
  match s.counterLeaf { cx := l.ctx, die := (s.ctxDies l.ctx).headD 0, atS := false, clk := clk } l.caddr with
  | (some leaf, s) =>
    let pa := leaf.phys l.caddr
    if s.unreach pa then s.asyncError l.ctx 7 l.caddr 0
    else
      let s := s.beforeWrite l.ctx l.caddr
      let v := (ofBytesLE (s.bytesAs leaf.key pa 8) + 1) % 18446744073709551616
      match s.placeWrite { sheet := none, ctx := l.ctx, key := leaf.key, home := some (s.homeOf l.ctx l.caddr leaf), reads := true } clk pa ((toBytesLE 8 v).map some) with
      | none => s.exhaust l.ctx
      | some (s, _) => s
  | (none, s) => s.asyncError l.ctx 2 l.caddr 0

/-- LAUNCH_RETIRE (R40, R42, R438). -/
def execLaunchRetire (launch : Nat) (s : State) : Host.Outcome State Fault Refusal :=
  match tabGet launch s.launches with
  | none => .fault .notEnabled
  | some l =>
    if l.eligible.isNone || l.left ≠ 0 || l.audits ≠ 0 || s.closing l.ctx then .fault .notEnabled
    else
      let s := if l.cpv then s.increment l else s
      .next { s with launches := tabDel launch s.launches, msgs := s.msgs.filter (·.launch != launch) }.reap

end Sys2Proof.Machine
end

