-- ==== Sys2Proof/Machine/Reliab.lean ====
section
/-! DEFINITION. Reliability (R427 to R442): rollback and kill, blotters and re-encoding, countersign replays and
quarantine; and the cutover of a page migration (R423 to R426). -/

namespace Sys2Proof.Machine

/-! ### Rollback and kill -/

/-- Draw waits of a reloaded shadow are made anew: draws have gone on meanwhile. -/
def Sheet.redraws (h : Sheet) : Sheet :=
  let again (t : TState) : TState := match t with
    | .draw .. => .running
    | t => t
  { h with gangs := tabMap (fun _ g => { g with threads := tabMap (fun _ t => { t with st := again t.st }) g.threads }) h.gangs }

/-- Roll a sheet back to its shadow (R431): its clocks lie above every one of the discarded interval. -/
def State.rollBack (s : State) (sid : Nat) : State :=
  let s := ((s.drain fun w => w.sheet == sid).stopSheet sid true).finishInterval sid
  let m := ((tabGet sid s.sheets).map Sheet.topClock).getD 0
  let s := (s.discardInterval sid).modSheet sid fun h => (h.raiseClocks (m + 1)).redraws
  let s := s.modSheet sid fun h => { h with gangs := tabMap (fun _ g => g.settle) h.gangs }
  (s.wakeLines sid).startWaves sid

/-- Where a kill traps (R432), and its trap: where the gang consumed the bad bytes, when an access of its did; otherwise at a
counter of the gang, and which of its lanes they struck is free. -/
def State.killSite (s : State) (sid n : Nat) (h : Sheet) (g : Gang) (consumed : Bool) : (TrapSite × Trap) × State :=
  match h.loss with
  | some (some x) => (x, s)
  | _ =>
    let (p, s) := s.pickPc g fun _ _ => true
    let pc := (p.map (·.1)).getD ((g.threads.head?.map fun t => t.2.waitPc).getD 0)
    let ls := (p.map (·.2)).getD []
    let (site, i, s) := s.siteAt sid n pc (maskOf ls)
    let lane := if (i.map Instr.gangLevel).getD false then ls.head? else ls[s.free .noInstruction % ls.length]?
    ((site, if consumed then { cause := 16, check := 9, lane := lane } else { cause := 17 }), s.drew)

/-- Kill a sheet (R432): every gang stops, its cached registers written back (R63), and one takes the trap with NORES set; the contexts on whose account it could not be
rolled back are told (R442). -/
def State.kill (s : State) (sid gang : Nat) (consumed : Bool) : State :=
  match tabGet sid s.sheets with
  | none => s
  | some h =>
    let n := if consumed then gang else (((h.gangs.find? fun p => !p.2.exited).or h.gangs.head?).map (·.1)).getD 0
    match tabGet n h.gangs with
    | none => s
    | some g =>
      let ((site, t), s) := (s.modSheet sid (·.writtenBack)).killSite sid n h g consumed
      let s := h.ivl.observers.foldl (fun s cx => s.asyncError cx 66 0 0) s
      ((s.trapEntry site { t with own := false } .noRes).modSheet sid fun h => { h with killed := some n, loss := none, noAudit := true }).reap

/-- ROLLBACK (R430 to R432): a loss of a sheet's own state, consumed by a gang or not: memory that an access of the sheet found lost,
or a register, scratchpad, pool or matrix loss from outside. A recoverable interval whose shadow is good rolls back; otherwise the
sheet is killed. -/
def execRollback (sheet gang : Nat) (consumed : Bool) (s : State) : Host.Outcome State Fault Refusal :=
  match tabGet sheet s.sheets, tabGet sheet s.shadows with
  | some h, some w =>
    if h.cluster?.isNone || (tabGet gang h.gangs).isNone || h.killed.isSome then .fault .notEnabled
    else if h.ivl.recoverable && !w.bad then .next (s.rollBack sheet).reap
    else .next (s.kill sheet gang consumed)
  | _, _ => .fault .notEnabled

/-! ### Blotters -/

/-- The die whose slices hold an atom (R99, R100): where its last write found its home, or that of its page. -/
def State.atomDie (s : State) (pa : Nat) : Nat := (s.atom pa).home.getD (s.pageDie pa)
/-- The code a slice carries (R435). -/
def State.sliceCode (s : State) (pa : Nat) : Nat :=
  (((tabGet (s.atomDie pa) s.dies).bind fun d => tabGet (atomSlice pa) d.ecc).map (·.1)).getD 0
/-- Poison the ECC word at a physical address (R434): 8 bytes under SECDED, the atom under DEC-TED (R435). -/
def State.poisonWord (s : State) (pa : Nat) : State :=
  let a := s.atom pa
  let p := if s.sliceCode pa = 1 then 16 else Nat.lor a.poison (2 ^ (pa % 32 / 8))
  s.putAtom pa { a with poison := p }

/-- The entries of a table of which memory lists a byte. -/
def State.listedEntries (s : State) (base n : Nat) : List (Nat × Entry) :=
  let ks := ((s.mem.filter fun b => base ≤ b.1 && b.1 < base + 16 * n).map fun b => (b.1 - base) / 16).eraseDups
  ks.map fun k => (k, { lo := ofBytesLE (s.bytes (base + 16 * k) 8), pa := ofBytesLE (s.bytes (base + 16 * k + 8) 8) })
/-- Whether a leaf of a context's tables maps a physical address. -/
def State.mapsAddress (s : State) (c : Context) (pa : Nat) : Bool :=
  (s.listedEntries (c.ttb / 65536 * 65536) 64).any fun r => r.2.table &&
    (s.listedEntries r.2.pa 8192).any fun e =>
      if e.2.table then
        (s.listedEntries e.2.pa 8192).any fun x =>
          (x.2.leaf 2 0 0 (s.packageMemory (paDevice x.2.pa))).any fun l => l.pa ≤ pa && pa < l.pa + 65536
      else (e.2.leaf 1 0 0 (s.packageMemory (paDevice e.2.pa))).any fun l => l.pa ≤ pa && pa < l.pa + 536870912

/-- A sweep finds one word it cannot correct: poison, and error 67 to every context whose page holds it (R434, R442). -/
def State.sweepWord (s : State) (pa : Nat) : State :=
  let s := s.poisonWord pa
  ((s.ctxs.filter fun c => s.mapsAddress c.2 pa).map (·.1)).foldl (fun s cx => s.asyncError cx 67 (pa / 32 * 32) 0) s

/-- Scratchpad words under the ECC code of a pool: 8 bytes, or 32 (R435). -/
def poolUnits (code : Nat) (w : PoolWord) : List PoolWord :=
  match w with
  | .spad a n => if code = 1 then [.spad (a / 32 * 32) 32] else (List.range ((a + n + 7) / 8 - a / 8)).map fun k => .spad (a / 8 * 8 + 8 * k) 8
  | w => [w]
/-- The ECC code of a sheet's pool. -/
def State.poolCode (s : State) (h : Sheet) : Nat := ((h.cluster?.bind fun k => tabGet k s.clusters).map (·.ecc.1)).getD 0
/-- A word of the pool or scratchpad of a resident sheet is marked (R434). -/
def State.poisonPool (s : State) (p : Nat × PoolWord) : State :=
  match tabGet p.1 s.sheets with
  | none => s
  | some h => if h.cluster?.isNone then s else s.modSheet p.1 fun h => { h with bad := (h.bad ++ poolUnits (s.poolCode h) p.2).eraseDups }

/-- BLOTTER_SWEEP (R434) of the words found. Which registers share an ECC word is not stated, so each is marked by itself (log
entry 80). -/
def execBlotterSweep (bad : LostWords) (s : State) : Host.Outcome State Fault Refusal :=
  if s.steward.up then .next (bad.pool.foldl State.poisonPool (bad.atoms.foldl (fun s pa => s.sweepWord pa) s)) else .fault .notEnabled

/-- Poison in the units of a new code (R435). -/
def recode (code p : Nat) : Nat := if p = 0 then 0 else if code = 1 then 16 else if p = 16 then 15 else p

/-- ECC_REENCODE (R435): the region's units are written under the new code; units found uncorrectable are poisoned. -/
def execEccReencode (region : EccRegion) (bad : LostWords) (s : State) : Host.Outcome State Fault Refusal :=
  match region with
  | .slice die slice =>
    match (tabGet die s.dies).bind fun d => tabGet slice d.ecc with
    | none => .fault .notEnabled
    | some (old, new) =>
      if old = new then .fault .notEnabled
      else
        let inside (pa : Nat) : Bool := s.atomDie pa == die && atomSlice pa == slice
        let s := (bad.atoms.filter inside).foldl (fun s pa => s.poisonWord pa) s
        let s := ((s.atoms.filter fun a => inside (32 * a.1)).map (·.1)).foldl (fun s a =>
          let x := s.atom (32 * a)
          s.putAtom (32 * a) { x with poison := recode new x.poison }) s
        .next (s.modDie die fun d => { d with ecc := tabPut slice (new, new) d.ecc })
  | .pool k =>
    match tabGet k s.clusters with
    | none => .fault .notEnabled
    | some c =>
      if c.ecc.1 = c.ecc.2 then .fault .notEnabled
      else
        let s := (bad.pool.filter fun w => (s.residents k).any (·.1 == w.1)).foldl State.poisonPool s
        let s := (s.residents k).foldl (fun s p => s.modSheet p.1 fun h =>
          { h with bad := (h.bad.flatMap (poolUnits c.ecc.2)).eraseDups }) s
        .next (s.modCluster k fun c => { c with ecc := (c.ecc.2, c.ecc.2) })

/-! ### Countersign -/

/-- The measured current grade (R441): quarantined clusters are left out, and a die with no other. -/
def State.currentGrade (s : State) : Grade :=
  let live := s.clusters.filter fun c => !c.2.quarantined
  { dies := (live.map (·.2.die)).eraseDups.length, clusters := live.length, granules := (live.map fun c => c.2.lgr).foldl (· + ·) 0
    hbm := s.steward.measured.1, step := s.steward.measured.2 }
/-- Whether a grade falls below another in a field. -/
def gradeBelow (g f : Grade) : Bool :=
  g.dies < f.dies || g.clusters < f.clusters || g.granules < f.granules || g.hbm < f.hbm || g.step < f.step
/-- The penholder is told whenever a field of the current grade falls below the shipped one, or further below it (R441). -/
def State.checkGrade (s : State) : State :=
  match s.steward.shipped with
  | none => s
  | some f =>
    let g := s.currentGrade
    let low := gradeBelow g f
    let falls := low && s.steward.gradeSeen.all fun was => gradeBelow g was
    let s := { s with steward := { s.steward with gradeSeen := if low then some g else none } }
    if falls then (s.notice 4 0 (s.free .errorCode) 0 0).drew else s

/-- Quarantine a cluster (R438, R439): it takes no new sheet, and its resident sheets are saved. -/
def State.quarantine (s : State) (k cx : Nat) : State :=
  let s := s.modCluster k fun c => { c with quarantined := true }
  let s := (s.residents k).foldl (fun s p => s.modSheet p.1 fun h => { h with request := .save }) s
  ((s.notice 3 cx (s.free .errorCode) 0 0).drew).checkGrade

/-- An audit ends (R438). -/
def State.endAudit (s : State) (a : Nat) (x : Audit) : State :=
  { s with audits := tabDel a s.audits }.modLaunch x.sheet.launch fun l => { l with audits := l.audits - 1 }
/-- Error 64 or 65 of an audited sheet (R442). -/
def State.auditError (s : State) (x : Audit) (code : Nat) : State := s.asyncError x.sheet.ctx code 0 (x.sheet.index % 4294967296)

/-- What the signatures say (R438): the audit goes on, ends, or orders the rewriting replay. -/
def State.judge (s : State) (a : Nat) (x : Audit) : State :=
  let go (x : Audit) : State := { s with audits := tabPut a x s.audits }
  match x.sigs with
  | [o, r] => if o.2 = r.2 then s.endAudit a x else go x
  | [o, r, t] =>
    if t.2 = o.2 then (s.quarantine r.1 x.sheet.ctx).endAudit a x
    else if t.2 = r.2 then (go { x with writes := true, rewrite := some r.1 }).quarantine o.1 x.sheet.ctx
    else (s.auditError x 65).endAudit a x
  | _ => go x

/-- Whether a replay has ended: finished, or stopped by a trap it would have taken. -/
def State.replayOver (s : State) (sid : Nat) (h : Sheet) : Bool :=
  s.sheetDone sid h || (h.noAudit && h.allExited && !(s.copies.any fun p => p.2.sheet == sid) && !(s.writes.any fun p => p.2.sheet == sid)
    && !s.closing h.ctx)

/-- The cluster the next replay of an audit goes to (R437, R438). -/
def State.replayCluster (s : State) (x : Audit) : Option Nat :=
  let used := x.sigs.filterMap fun p => (tabGet p.1 s.clusters).map (·.die)
  let all := s.replayClusters x.sheet used
  let all := match x.rewrite with
    | some k => k :: all.filter (· != k)
    | none => all
  let n : Need := { granules := poolGranules x.sheet.pool, gangs := fun _ => x.sheet.gangs.length, width := fun _ => true }
  (all.filter fun k => s.fitsOn n k 0 0).head?

/-- COUNTERSIGN_REPLAY (R437, R438): the next replay of an audit is placed, or the one that ran has ended and is judged. -/
def execCountersignReplay (audit : Nat) (s : State) : Host.Outcome State Fault Refusal :=
  match tabGet audit s.audits with
  | none => .fault .notEnabled
  | some x =>
    match x.running with
    | some sid =>
      match tabGet sid s.sheets with
      | none => .next (s.endAudit audit x)
      | some h =>
        if !s.replayOver sid h then .fault .notEnabled
        else
          let sig := if h.noAudit then 18446744073709551616 + x.sigs.length else h.sig
          let s := s.removeSheet sid
          let s := if x.writes then s.modLaunch h.launch fun l => { l with maxTime := max l.maxTime h.topClock } else s
          if x.rewrite.isSome then .next ((s.auditError x 64).endAudit audit x)
          else .next (s.judge audit { x with running := none, sigs := x.sigs ++ [(h.cluster?.getD 0, sig)] })
    | none =>
      if (((tabGet x.sheet.ctx s.ctxs).map (·.part)).any fun p => s.placeStop == some p) then .fault .notEnabled else
      match s.replayCluster x with
      | some k =>
        let sid := s.nextId
        let s := (s.placeNew x.sheet.launch x.sheet.index k).modSheet sid fun h => { h with replay := some audit }
        .next { s with audits := tabPut audit { x with running := some sid } s.audits }.reap
      | none =>
        if (s.replayClusters x.sheet []).isEmpty then .next (s.endAudit audit x) else .fault .notEnabled

/-! ### Migration -/

/-- A physical address after a page has moved. -/
def movePa (src dst pa : Nat) : Nat := if src ≤ pa && pa < src + 65536 then pa - src + dst else pa
/-- What stays at an old address when its atom has moved. -/
def Atom.left (a : Atom) : Atom := { a with prior := none, folio := none, itag := none }

/-- An atom is stored under another key slot, its versions reading under it as before (R419, R423). -/
def State.rekeyAtom (s : State) (key a : Nat) : State :=
  let x := s.atom (32 * a)
  let prior := x.prior.map fun p => { p with bytes := s.rekeyed p.w p.key key (32 * a) p.bytes, key := key }
  let bs := s.rekeyed x.w x.key key (32 * a) (s.bytes (32 * a) 32)
  { s with mem := putBytes (32 * a) (bs.map some) s.mem }.putAtom (32 * a) { x with key := key, prior := prior }
/-- The atoms of a page move with all their state (R423, R425): bytes, coherence state, pending folio bytes, pins, watches
and near-cache bytes; requests on their way are redirected (R425). They are encrypted anew under the page's KEY. -/
def State.movePage (s : State) (src dst key : Nat) : State :=
  let s := ((s.atoms.filter fun a => src / 32 ≤ a.1 && a.1 < (src + 65536) / 32 && (a.2.key ≠ key || a.2.prior.any (·.key ≠ key))).map (·.1)).foldl
    (fun s a => s.rekeyAtom key a) s
  let f := movePa src dst
  let inside (n k : Nat) : Bool := src / n ≤ k && k < (src + 65536) / n
  let there (n k : Nat) : Bool := dst / n ≤ k && k < (dst + 65536) / n
  let at_ (a : Nat) : Nat := f (32 * a) / 32
  let die := s.pageDie dst
  let mem := (s.mem.filter fun b => inside 1 b.1).foldl (fun m b => stPut restingByte (f b.1) b.2 m) (s.mem.filter fun b => !there 1 b.1)
  let atoms := (s.atoms.filter fun a => inside 32 a.1).foldl
    (fun m a => stPut {} a.1 a.2.left (stPut {} (at_ a.1) { a.2 with home := some die } m)) (s.atoms.filter fun a => !there 32 a.1)
  let folio (x : Folio) : Folio :=
    { x with joins := x.joins.map fun j => if f j.pa = j.pa then j else { j with pa := f j.pa, home := die } }
  let copy (x : Copy) : Copy :=
    { x with reads := x.reads.map fun r => { r with pa := f r.pa }, out := x.out.map fun e => { e with pa := f e.pa } }
  let part (p : LaneWrite) : LaneWrite := if f p.pa = p.pa then p else { p with pa := f p.pa, home := some die }
  { s with
    mem := mem, atoms := atoms
    writes := tabMap (fun _ w => { w with parts := w.parts.map part }) s.writes, copies := tabMap (fun _ c => copy c) s.copies
    ctxs := tabMap (fun _ c => { c with folios := tabMap (fun _ x => folio x) c.folios }) s.ctxs
    sheets := tabMap (fun _ h => { h with ivl := { h.ivl with pins := h.ivl.pins.map at_ } }) s.sheets
    launches := tabMap (fun _ l => { l with deps := l.deps.map fun d => { d with pa := f d.pa } }) s.launches
    clusters := tabMap (fun _ c => { c with near := c.near.foldl (fun m b => tabPut (f b.1) b.2 m) [] }) s.clusters }

/-- A page's migration cuts over (R425, R426): accesses that used the page complete, its atoms move, its leaf names the new home, and
its translations are discarded. A page whose leaf has changed meanwhile is left alone. -/
def State.cutover (s : State) (id : Nat) (m : Migration) : State :=
  let s := { s with migrations := tabDel id s.migrations }
  match (s.leafNow m.ctx m.page).filter (·.pa == m.src) with
  | none => s
  | some l =>
    let s := ((s.settlePages m.ctx 0 (Pages.one m.page)).movePage m.src m.dst l.key).rewriteLeaf m.ctx (l.entryPa + 8) ((toBytesLE 8 m.dst).map some)
    let t := (s.atom (l.entryPa + 8)).w
    (s.discard m.ctx t (Pages.one m.page)).recheckDeps m.ctx t (Pages.one m.page)
/-- MIGRATION_CUTOVER (R425, R426). -/
def execMigrationCutover (id : Nat) (s : State) : Host.Outcome State Fault Refusal :=
  match tabGet id s.migrations with
  | none => .fault .notEnabled
  | some m => .next (s.cutover id m).reap

end Sys2Proof.Machine
end

