-- ==== Sys2Proof/Machine/Power.lean ====
section
/-! DEFINITION. Power control (R443 to R451, R473): boost boundaries, ink permits, and retention mode. -/

namespace Sys2Proof.Machine

/-- Ticks of a boost interval (R443). -/
def boostTicks : Nat := 5000 * tickNs

/-- Whether a thread of a resident sheet of a cluster runs (R444). -/
def State.runsOn (s : State) (k : Nat) : Bool :=
  (s.residents k).any fun p => p.2.threads.any fun q => q.2.2.st == .running || q.2.2.st == .uRun
/-- The class a cluster claims boost at (R444); a cluster in retention claims nothing (R451). -/
def State.boostClaim (s : State) (k : Nat) (c : Cluster) : Option Nat :=
  let cls := s.clusterClass k
  if !c.retained && 2 ≤ cls && s.runsOn k then some cls else none

/-- The clusters of a die that claim at a class, in the order of the rotation (R446). -/
def State.claimsAt (s : State) (die cls pointer : Nat) : List Nat :=
  let mine := (s.clusters.filter fun c => c.2.die == die && s.boostClaim c.1 c.2 == some cls).map (·.1)
  (mine.filter (pointer ≤ ·)) ++ (mine.filter (· < pointer))

/-- The claims of a die that the envelope cap leaves, by class (R448, R473): the denials are free, class 2 before class 3
over the whole package and the last of the rotation first. -/
def State.uncapped (s : State) (d : Die) (die : Nat) : List Nat × List Nat :=
  let c3 := s.claimsAt die 3 d.pointer
  let c2 := s.claimsAt die 2 d.pointer
  let n := s.free .envelope
  if Config.choice .envelopeClass (d.boostAt / boostTicks) % 2 = 0 then (c3, c2.take (c2.length - n % (c2.length + 1)))
  else (c3.take (c3.length - n % (c3.length + 1)), [])

/-- The pointer after the claims of one class, of which the first `won` were granted (R446). -/
def pointerAfter (p : Nat) (claims : List Nat) (won : Nat) : Nat :=
  if won < claims.length then
    match (claims.take won).getLast? with
    | some k => k + 1
    | none => p
  else p

/-- The step a cluster runs the interval at (R445, R447): `won` is the class its claim was granted at. -/
def Cluster.boostStep (c : Cluster) (won : Option Nat) : Nat :=
  match won with
  | some cls => cls - 1
  | none => if c.fnext.getD c.fstep = 2 then 1 else 0

/-- A cluster takes a front-end step: at its next lane-cycle boundary when its lane clock counts for a sheet (R167, R450). -/
def Cluster.takeStep (c : Cluster) (n : Nat) (empty : Bool) : Cluster :=
  if empty then { c with fstep := n, fnext := none } else { c with fnext := if n = c.fstep then none else some n }

/-- An interval boundary of a die: claims, grants and steps (R443 to R448). -/
def State.boost (s : State) (die : Nat) : State :=
  match tabGet die s.dies with
  | none => s
  | some d =>
      let any := !(s.claimsAt die 3 0).isEmpty || !(s.claimsAt die 2 0).isEmpty
      let (c3, c2) := s.uncapped d die
      let s := s.drew
      let won3 := c3.take d.permits
      let won2 := c2.take (d.permits - won3.length)
      let pointer := pointerAfter (pointerAfter d.pointer c3 won3.length) c2 won2.length
      let step (k : Nat) (c : Cluster) : Nat :=
        c.boostStep (if won3.contains k then some 3 else if won2.contains k then some 2 else none)
      let mine := s.clusters.filter fun c => c.2.die == die
      let fast := mine.any fun c => step c.1 c.2 ≠ 0
      let s := mine.foldl (fun s c => s.modCluster c.1 fun x => x.takeStep (step c.1 x) (s.residents c.1).isEmpty) s
      s.modDie die fun d =>
        { d with permits := d.permits - won3.length - won2.length, pointer := pointer, boostAt := d.boostAt + boostTicks
                 idle := if any || fast then 0 else d.idle + 1 }

/-- BOOST_INTERVAL_BOUNDARY (R443 to R448). -/
def execBoostIntervalBoundary (die : Nat) (s : State) : Host.Outcome State Fault Refusal :=
  match tabGet die s.dies with
  | none => .fault .notEnabled
  | some d => if s.now < d.boostAt || d.idle = 5 then .fault .notEnabled else .next (s.boost die)

/-- PERMIT_REFILL (R449): the fifth consecutive boost-idle interval ends, and the boundary there has the permit. -/
def execPermitRefill (die : Nat) (s : State) : Host.Outcome State Fault Refusal :=
  match tabGet die s.dies with
  | none => .fault .notEnabled
  | some d =>
    if s.now < d.boostAt || d.idle ≠ 5 then .fault .notEnabled
    else .next ((s.modDie die fun d => { d with permits := min 64 (d.permits + 1), idle := 0 }).boost die)

/-! ### Retention -/

/-- A thread that runs, or is about to with its wave. -/
def TState.live (t : TState) : Bool :=
  match t with
  | .running | .uRun | .wave _ => true
  | _ => false

/-- Whether a cluster is idle at class 0 (R451). -/
def State.idleCluster (s : State) (k : Nat) : Bool :=
  (s.residents k).all fun p =>
    s.classOf p.2 = 0 && !(p.2.threads.any fun q => q.2.2.st.live) && p.2.mseq.st != .running && p.2.cseq.st != .running
      && p.2.pend.isEmpty && !(s.copies.any fun c => c.2.sheet == p.1 || c.2.dests.any fun d => d.sheet == p.1)

/-- The tick at which a cluster idle since `t` enters retention mode: after 20 µs, and not before the taper of its ballast has ended
(R451, R453). How long a taper lasts follows from currents the spec does not give, so it is free; without a slope limit there is none (log entry
102). -/
def Cluster.retainsAt (c : Cluster) (k t : Nat) : Nat :=
  t + max (20 * tickUs) (if c.didt = 0 then 0 else Config.choice .taper (k + 4294967296 * t) * tickNs / c.didt)
/-- Whether a cluster enters retention now (R451). -/
def State.mayRetain (s : State) (k : Nat) (c : Cluster) : Bool :=
  !c.retained && s.idleCluster k && c.idleAt.any fun t => c.retainsAt k t ≤ s.now

/-- RETENTION_ENTRY (R451). -/
def execRetentionEntry (cluster : Nat) (s : State) : Host.Outcome State Fault Refusal :=
  match tabGet cluster s.clusters with
  | none => .fault .notEnabled
  | some c =>
    if s.mayRetain cluster c then .next (s.modCluster cluster fun c => { c with retained := true, wakeBy := none })
    else .fault .notEnabled

/-- The first end of a nap on a cluster. -/
def State.napOn (s : State) (k : Nat) : Option Nat :=
  ((s.residents k).flatMap fun p => p.2.threads.filterMap fun q =>
    match q.2.2.st with
    | .nap u => some u
    | _ => none).min?
/-- Whether an event has arrived for a cluster in retention: a placement, a restore or a line that became present, a thread that
would run, or a nap about to end (R451). -/
def State.wakes (s : State) (k : Nat) : Bool :=
  (tabGet k s.clusters).any (·.wakeBy.isSome) || (s.residents k).any (fun p => p.2.threads.any fun q => q.2.2.st.live)
    || (s.napOn k).any fun u => u ≤ s.now + 2 * tickUs

/-- RETENTION_WAKE (R451, R452): the clocks run again, and the gangs that run leave in waves. -/
def execRetentionWake (cluster : Nat) (s : State) : Host.Outcome State Fault Refusal :=
  match tabGet cluster s.clusters with
  | none => .fault .notEnabled
  | some c =>
    if !c.retained || !s.wakes cluster then .fault .notEnabled
    else
      let s := s.modCluster cluster fun c => { c with retained := false, wakeBy := none, idleAt := none, nextAt := max c.nextAt s.now }
      let ready := (s.residents cluster).flatMap fun p =>
        (p.2.gangs.map fun g => (p.1, g.1, g.2.lanesIn fun t => t == .running || t.inWave)).filter fun g => !g.2.2.isEmpty
      .next (s.releaseWaves cluster ready)

end Sys2Proof.Machine
end

