-- ==== Sys2Proof/Machine/Queues.lean ====
section
/-! DEFINITION. The queue instructions (R119 to R121, R305 to R308). -/

namespace Sys2Proof.Machine

/-- A queue of a sheet. -/
def Sheet.queue (h : Sheet) (q : Nat) : Queue := (tabGet q h.queues).getD {}
/-- Change a queue of a sheet. -/
def Sheet.modQueue (h : Sheet) (q : Nat) (f : Queue → Queue) : Sheet := { h with queues := tabPut q (f (h.queue q)) h.queues }
/-- The limits of QINIT (R119, R306). -/
def queueConfigOk (w : Nat) : Bool :=
  let d := bitsOf w 0 8
  let p := bitsOf w 8 8
  let a := bitsOf w 16 8
  1 ≤ d && d ≤ 64 && 1 ≤ p && p ≤ 16 && 1 ≤ a && p * a ≤ d && bitsOf w 25 7 == 0
/-- Whether a thread waits on queue `q`. -/
def TState.onQueue (q : Nat) (t : TState) : Bool := t == .push q || t == .pop q
/-- Whether any gang or sequencer waits on a queue. -/
def Sheet.queueWaited (h : Sheet) (q : Nat) : Bool :=
  (h.threads.any fun p => p.2.2.st.onQueue q) || h.mseq.wait == .push q || h.cseq.wait == .push q

/-- QINIT (R119, R306). -/
def execQinit (g : Guard) (q : Fin 16) (a : UOperand) (s : State) : Host.Outcome State Fault Refusal :=
  let i := Instr.qinit g q a
  enterMemGang i g s fun s c =>
    let w := c.view.uop a
    let x := c.sh.queue q.val
    if !queueConfigOk w.toNat then .next (s.raise c i (Trap.illegal 2))
    else if x.st == .opened || x.st == .broken || (x.st == .closed && (!x.entries.isEmpty || c.sh.queueWaited q.val)) then
      .next (s.raise c i { cause := 11, check := 8 })
    else .next ((s.modSheet c.sid (·.modQueue q.val fun _ => { st := .opened, cfg := w })).finish c i)

/-- The trap a queue in this state raises for an operation that needs it open or closed (R119, R307). -/
def queueTrap (st : QState) (push : Bool) : Option Trap :=
  match st with
  | .uninit => some (Trap.illegal 2)
  | .broken => some { cause := 11, check := 8 }
  | .closed => if push then some { cause := 11, check := 8 } else none
  | .opened => none

/-- An entry handed to a gang that waits in QPOP: its register, its lanes' predicates, counters and clocks (R307). -/
def Gang.take (g : Gang) (w : QPopWait) (W : Nat) (v : Word) (clk : Nat) : Gang :=
  let ls := lanesOf w.lanes W
  let g := { g with regs := (g.regs.setUni w.dst.val v).putPred w.pd ls fun _ => true }
  ((g.modThreads ls fun _ t => { t with pc := w.next }).raiseClock ls clk).wake ls

/-- An entry has left: its producer's allowance returns with the remover's clock (R120, R133), and its wait ends. -/
def Sheet.returnAllowance (h : Sheet) (q slot clk : Nat) : Sheet :=
  let who := ((h.queue q).slots[slot]?).map (·.who)
  let h := h.modQueue q fun x => { x with slots := x.slots.zipIdx.map fun p =>
    if p.2 = slot then { p.1 with allow := p.1.allow + 1, clk := max p.1.clk clk } else p.1 }
  let h := { h with gangs := tabMap (fun n g => if who == some n then g.wake (g.lanesIn (· == TState.push q)) else g) h.gangs }
  let free (k : SeqKind) (x : Seq) : Seq :=
    if who == some (Agent.seq k).producer && x.wait == .push q then { x with wait := .none } else x
  { h with mseq := free .m h.mseq, cseq := free .c h.cseq }

/-- Append an entry, or hand it to the gang that has waited longest (R120, R307). -/
def Sheet.append (h : Sheet) (q : Nat) (e : QEntry) : Sheet :=
  match (h.queue q).pops with
  | [] => h.modQueue q fun x => { x with entries := x.entries ++ [e] }
  | w :: ws =>
    let h := h.modQueue q fun x => { x with pops := ws }
    let h := h.modGang w.gang fun g => g.take w h.W e.val e.clk
    let clk := ((tabGet w.gang h.gangs).map fun g => g.clockOf (lanesOf w.lanes h.W)).getD e.clk
    h.returnAllowance q e.slot clk

/-- QPUSH (R119 to R121, R282, R307). A sequencer whose program ended and which is forked again keeps its slot of a queue still open,
though that slot counts as exited: R121 does not say, and that it may push there is the model's choice (log entry 85). -/
def execQpush (g : Guard) (q : Fin 16) (a : UOperand) (s : State) : Host.Outcome State Fault Refusal :=
  let i := Instr.qpush g q a
  enterMemGang i g s fun s c =>
    let x := c.sh.queue q.val
    let who := c.agent.producer
    match queueTrap x.st true with
    | some t => .next (s.raise c i t)
    | none =>
      let slots := if x.slots.any (·.who == who) then x.slots
        else x.slots ++ [{ who := who, allow := bitsOf x.cfg.toNat 16 8 }]
      let n := (slots.findIdx? (·.who == who)).getD 0
      match slots[n]? with
      | none => .next (s.finish c i)
      | some slot =>
        if bitsOf x.cfg.toNat 8 8 < slots.length then .next (s.raise c i { cause := 11, check := 8 })
        else if slot.allow = 0 then
          match c.agent with
          | .gang _ => .next (s.waitIn c (.push q.val))
          | .seq _ => .next (s.seqWait c (.push q.val))
        else
          let clk := max c.clk slot.clk
          let slots := slots.zipIdx.map fun p => if p.2 = n then { p.1 with allow := p.1.allow - 1 } else p.1
          let s := s.raiseTo c clk
          let s := s.modSheet c.sid fun h =>
            (h.modQueue q.val fun x => { x with slots := slots }).append q.val { val := c.view.uop a, slot := n, clk := clk }
          .next ((s.pinDown c.sid).finish c i)

/-- Remove the oldest entry for a gang (R120, R307, R133). -/
def State.popEntry (s : State) (c : Site) (i : Instr) (q : Nat) (pd : Fin 8) (d : Fin 64) (e : QEntry) : State :=
  let s := s.modSheet c.sid (·.modQueue q fun x => { x with entries := x.entries.drop 1 })
  let s := s.raiseTo c e.clk
  let s := s.modSheet c.sid (·.returnAllowance q e.slot (max c.clk e.clk))
  let r := (c.view.regs.setUni d.val e.val).putPred pd c.view.enabled fun _ => true
  ((s.putRegs c r).pinDown c.sid).finish c i

/-- QPOP and QTRY (R119, R307): what an empty open queue does is `wait`. -/
def popOrElse (i : Instr) (g : Guard) (q : Fin 16) (pd : Fin 8) (d : Fin 64) (wait : Bool) (s : State) :
    Host.Outcome State Fault Refusal :=
  enterMemGang i g s fun s c =>
    let x := c.sh.queue q.val
    match queueTrap x.st false with
    | some t => .next (s.raise c i t)
    | none =>
      match x.entries with
      | e :: _ => .next (s.popEntry c i q.val pd d e)
      | [] =>
        if wait && x.st == .opened then
          let w : QPopWait := { gang := c.gang, lanes := c.view.lanes, dst := d, pd := pd, next := c.next i }
          let s := s.modSheet c.sid (·.modQueue q.val fun x => { x with pops := x.pops ++ [w] })
          .next ((s.pinDown c.sid).waitIn c (.pop q.val))
        else .next (((s.putRegs c (c.view.regs.putPred pd c.view.enabled fun _ => false)).pinDown c.sid).finish c i)

/-- QPOP (R307). -/
def execQpop (g : Guard) (q : Fin 16) (pd : Fin 8) (d : Fin 64) (s : State) : Host.Outcome State Fault Refusal :=
  popOrElse (.qpop g q pd d) g q pd d true s
/-- QTRY (R307). -/
def execQtry (g : Guard) (q : Fin 16) (pd : Fin 8) (d : Fin 64) (s : State) : Host.Outcome State Fault Refusal :=
  popOrElse (.qtry g q pd d) g q pd d false s

/-- QCLOSE (R307). -/
def execQclose (g : Guard) (q : Fin 16) (s : State) : Host.Outcome State Fault Refusal :=
  let i := Instr.qclose g q
  enterMemGang i g s fun s c =>
    let x := c.sh.queue q.val
    match queueTrap x.st false with
    | some t => .next (s.raise c i t)
    | none =>
      let s := if x.st == .opened then s.modSheet c.sid (·.endQueue q.val .closed c.clk) else s
      .next ((s.pinDown c.sid).finish c i)

end Sys2Proof.Machine
end

