-- ==== Sys2Proof/Machine/Ray.lean ====
section
/-! DEFINITION. The ray tests (R268 to R271). -/

namespace Sys2Proof.Machine

/-- A binary32 addition, subtraction, product and fused operation, RNE (R269, R271). -/
def rAdd (a b : Nat) : Nat := fmt32.add .rn a b
/-- A difference, RNE. -/
def rSub (a b : Nat) : Nat := fmt32.sub .rn a b
/-- A product, RNE. -/
def rMul (a b : Nat) : Nat := fmt32.mul .rn a b
/-- A fused product and sum, RNE. -/
def rFma (a b c : Nat) : Nat := fmt32.fma .rn a b c
/-- The negation of a binary32 value; a NaN stays the canonical NaN. -/
def rNeg (a : Nat) : Nat := fmt32.write .rn (fmt32.read a).negate

/-- Register `k` of a group as bits. -/
def View.groupAt (c : View) (l : Nat) (r : Reg) (k : Nat) : Nat := (c.regPlus l r k).toNat

/-- The entry and exit of a ray through a slab box (R269): tnear, tfar and whether it hits. -/
def boxTest (a b : Nat → Nat) : Nat × Nat × Bool :=
  let bound (ax : Nat) : Nat × Nat :=
    let lo := rMul (rSub (b ax) (a ax)) (a (3 + ax))
    let hi := rMul (rSub (b (3 + ax)) (a ax)) (a (3 + ax))
    let n := fmt32.minBits lo hi
    let f := fmt32.maxBits lo hi
    (if fmt32.isNaN n then fmt32.infBits + fmt32.signBit else n, if fmt32.isNaN f then fmt32.infBits else f)
  let near := [0, 1, 2].foldl (fun t ax => fmt32.maxBits t (bound ax).1) (a 6)
  let far := [0, 1, 2].foldl (fun t ax => fmt32.minBits t (bound ax).2) (a 7)
  (near, far, fmt32.le near far)

/-- RBOX (R269). -/
def execRbox (g : Guard) (pd : Fin 8) (d : Fin 192) (a b : Reg) (s : State) : Host.Outcome State Fault Refusal :=
  alu (.rbox g pd d a b) s fun c =>
    let hit (l : Nat) := boxTest (c.groupAt l a) (c.groupAt l b)
    (c.putGroup d.val (c.active g) fun l => [ofBits (hit l).1, ofBits (hit l).2.1]).putPred pd (c.active g) fun l => (hit l).2.2

/-- One component of a cross product (R271). -/
def rCross1 (a b c d : Nat) : Nat := rFma a b (rNeg (rMul c d))
/-- A cross product (R271). -/
def rCross (p q : Nat × Nat × Nat) : Nat × Nat × Nat :=
  (rCross1 p.2.1 q.2.2 p.2.2 q.2.1, rCross1 p.2.2 q.1 p.1 q.2.2, rCross1 p.1 q.2.1 p.2.1 q.1)
/-- A dot product (R271). -/
def rDot (p q : Nat × Nat × Nat) : Nat := rFma p.2.2 q.2.2 (rFma p.2.1 q.2.1 (rMul p.1 q.1))
/-- A difference of vectors (R271). -/
def rSub3 (p q : Nat × Nat × Nat) : Nat × Nat × Nat := (rSub p.1 q.1, rSub p.2.1 q.2.1, rSub p.2.2 q.2.2)

/-- The triangle test (R271): t, u, v and whether it hits. -/
def triTest (cull : Nat) (a b : Nat → Nat) : Nat × Nat × Nat × Bool :=
  let vec (f : Nat → Nat) (k : Nat) := (f k, f (k + 1), f (k + 2))
  let e1 := rSub3 (vec b 3) (vec b 0)
  let e2 := rSub3 (vec b 6) (vec b 0)
  let pv := rCross (vec a 3) e2
  let det := rDot e1 pv
  let culled := (cull = 1 && fmt32.lt det 0) || (cull = 2 && fmt32.lt 0 det)
  if fmt32.eq det 0 || fmt32.isNaN det || culled then (fmt32.nanBits, fmt32.nanBits, fmt32.nanBits, false)
  else
    let inv := fmt32.div .rn 0x3F800000 det
    let tv := rSub3 (vec a 0) (vec b 0)
    let u := rMul (rDot tv pv) inv
    let qv := rCross tv e1
    let v := rMul (rDot (vec a 3) qv) inv
    let t := rMul (rDot e2 qv) inv
    (t, u, v, fmt32.le 0 u && fmt32.le 0 v && fmt32.le (rAdd u v) 0x3F800000 && fmt32.le (a 6) t && fmt32.le t (a 7))

/-- RTRI (R271). -/
def execRtri (g : Guard) (pd : Fin 8) (cull : Fin 3) (d : Fin 192) (a b : Reg) (s : State) : Host.Outcome State Fault Refusal :=
  alu (.rtri g pd cull d a b) s fun c =>
    let hit (l : Nat) := triTest cull.val (c.groupAt l a) (c.groupAt l b)
    (c.putGroup d.val (c.active g) fun l => [ofBits (hit l).1, ofBits (hit l).2.1, ofBits (hit l).2.2.1]).putPred pd
      (c.active g) fun l => (hit l).2.2.2

end Sys2Proof.Machine
end

