-- ==== Sys2Proof/Machine/Select.lean ====
section
/-! DEFINITION. The issue selector (R23, R29, R174 to R177): clear instructions, ready gangs, weight windows, and the gang
an issue cycle takes. -/

namespace Sys2Proof.Machine

/-- The source groups whose length the instruction's own operands give: the A and B groups of MMA.nf, by its format words (R314,
R315), and CPT's origin, by the record's number of dimensions (R335). -/
def Sheet.groupsOf (h : Sheet) (v : View) (i : Instr) : List (RegName × Nat) :=
  match i with
  | .mma _ .nf _ _ a b f =>
    let word (n : Nat) : NFWord := NFWord.ofNat ((f.map fun r => v.regPlus v.lead r n).getD 0).toNat
    let n := (Shape.mma .nf (word 0) (word 1)).group h.W
    [(.v a.val, n), (.v b.val, n)]
  | .cptIn _ r _ o | .cptOut _ r _ o _ => [sReg o (Layout.of (h.spadBytes (v.regs.uni r.val).toNat 128)).ndim]
  | _ => []
/-- The registers an instruction needs available (R29): its sources, its destinations and its guard. -/
def needs (h : Sheet) (v : View) (i : Instr) : List (RegName × Nat) :=
  boardOf (i.dests h.W ++ i.sources h.W ++ h.groupsOf v i ++ [(.p i.guard.p.val, 1)]) 0

/-- Whether the scoreboard shows every register of an instruction as available (R29). -/
def Gang.clear (g : Gang) (lane : Nat) (h : Sheet) (lanes : Mask) (i : Instr) : Bool :=
  let need := needs h { regs := g.regs, W := h.W, lanes := lanes } i
  !(g.board.any fun b => lane < b.2 && need.any fun n => n.1 == b.1)
    && !(g.awaiting.any fun b => need.any fun n => n.1 == b.1)

/-- The running lanes at a counter. -/
def Gang.lanesAt (g : Gang) (pc : Word) : List Nat := (g.threads.filter fun p => p.2.st == .running && p.2.pc == pc).map (·.1)
/-- The fetch at a counter of a gang, as the selector makes it. -/
def State.previewed (s : State) (sid : Nat) (h : Sheet) (n : Nat) (g : Gang) (pc : Word) : Fetched × State :=
  s.fetchAt sid h (.gang n) g.atS (s.dieOf h) (g.clockOf (g.lanesAt pc)) pc
/-- What stands at a counter of a gang, as the selector sees it. -/
def State.preview (s : State) (sid : Nat) (h : Sheet) (n : Nat) (g : Gang) (pc : Word) : Fetched := (s.previewed sid h n g pc).1
/-- What the selector knows of a clear instruction: its weight (R174), and the multiple at which it holds the execute stages, in
quarters (R169). -/
structure Slot where
  weight : Nat := 0
  stage : Nat := 4
  deriving DecidableEq, Repr

/-- What stands at a counter, when it is clear; a word that traps has no register and no weight. -/
def Fetched.ready (f : Fetched) (g : Gang) (lane : Nat) (h : Sheet) (lanes : List Nat) : Option Slot :=
  match f with
  | .instr i => if g.clear lane h (maskOf lanes) i then some { weight := i.weight, stage := weightQuarters i.weight } else none
  | .trap _ _ => some {}
  | .pad => none

/-- A ready gang with the counter it would issue, the lanes there, and what stands there. -/
structure Ready where
  sheet : Nat
  gang : Nat
  order : Nat
  since : Nat
  yielded : Bool
  pc : Word
  lanes : List Nat
  slot : Slot
  /-- The counter of free choices at which the selector fetched. -/
  drawn : Nat := 0
  deriving DecidableEq, Repr

/-- The gangs of a cluster that may issue: of a killed sheet only the one that took the trap (R432), and of a sheet that has lost
state none until it is rolled back or killed (R430). -/
def State.issuers (s : State) (k : Nat) : List (Nat × Sheet × Nat × Gang) :=
  ((s.residents k).filter fun p => p.2.loss.isNone).flatMap fun p =>
    (p.2.gangs.filter fun g => p.2.killed.all (· == g.1)).map fun g => (p.1, p.2, g.1, g.2)

/-- The counters of a gang whose next instruction is clear, with what stands there (R29). -/
def State.clearPcs (s : State) (sid : Nat) (h : Sheet) (n : Nat) (g : Gang) (lane : Nat) : List (Word × Slot) :=
  (((g.threads.filter fun p => p.2.st == .running).map (·.2.pc)).eraseDups).filterMap fun pc =>
    ((s.preview sid h n g pc).ready g lane h (g.lanesAt pc)).map fun w => (pc, w)

/-- The ready gangs of a cluster (R29); each draws the counter it would issue (R23). -/
def State.readyGangs (s : State) (k : Nat) (c : Cluster) : List Ready × State :=
  (s.issuers k).foldl (fun (q : List Ready × State) x =>
    let (sid, h, n, g) := x
    let cs := q.2.clearPcs sid h n g c.laneNo
    match q.2.pickPc g fun _ t => cs.any (·.1 == t.pc) with
    | (some (pc, ls), s) =>
      let r : Ready := { sheet := sid, gang := n, order := h.order, since := g.readyAt.getD c.issueNo, yielded := g.yielded
                         pc := pc, lanes := ls, slot := ((cs.find? fun p => p.1 == pc).map (·.2)).getD {}, drawn := q.2.choices }
      (q.1 ++ [r], s)
    | (none, s) => (q.1, s)) ([], s)

/-! ### Weight windows -/

/-- The weight of a window: the first after the previous one, in the cyclic order, that a ready gang has; else the next
(R174). -/
def nextWindow (last : Nat) (weights : List Nat) : Nat :=
  ([1, 2, 3, 4].map fun k => (last + k) % 4).find? (weights.contains ·) |>.getD ((last + 1) % 4)

/-- Whether a cluster's lane clock runs for resident sheets and its next issue cycle has come. -/
def State.cycleDue (s : State) (k : Nat) (c : Cluster) : Bool :=
  !c.retained && !(s.residents k).isEmpty && c.nextAt ≤ s.now

/-- WEIGHT_WINDOW_OPEN (R174). -/
def execWeightWindowOpen (cluster : Nat) (s : State) : Host.Outcome State Fault Refusal :=
  match tabGet cluster s.clusters with
  | none => .fault .notEnabled
  | some c =>
    if !s.cycleDue cluster c || c.windowLeft ≠ 0 || c.half then .fault .notEnabled
    else
      let (rs, s) := s.readyGangs cluster c
      .next (s.modCluster cluster fun c => { c with window := nextWindow c.window (rs.map (·.slot.weight)), windowLeft := 16 })

/-! ### The choice of an issue cycle -/

/-- Age order (R175): when it became ready, then placement order, then gang number. -/
def Ready.le (a b : Ready) : Bool := lexLe [a.since, a.order, a.gang] [b.since, b.order, b.gang]
/-- The oldest of some ready gangs. -/
def oldest (l : List Ready) : Option Ready := (sortBy Ready.le l).head?
/-- Whether a gang is urgent in an issue cycle (R175). -/
def urgent (now : Nat) (l : List Ready) (r : Ready) : Bool := 64 ≤ now - r.since + (l.filter fun x => x.since ≤ r.since).length

/-- The gang an issue cycle takes (R175). -/
def choose (now window : Nat) (l : List Ready) : Option Ready :=
  if l.any (urgent now l) then oldest l
  else
    let fresh := l.filter fun r => !r.yielded
    (oldest (fresh.filter fun r => r.slot.weight == window)).or ((oldest fresh).or (oldest l))

/-! ### Lane cycles -/

/-- One lane cycle of a cluster (R167 to R171): a front-end step is taken at its boundary, and it is counted, as it begins, for every
resident sheet. -/
def State.laneCycle (s : State) (k : Nat) : State :=
  match tabGet k s.clusters with
  | none => s
  | some c =>
    let c := { c with fstep := c.fnext.getD c.fstep, fnext := none, occ := c.occ.filter fun o => c.laneNo < o.1 }
    let m := c.multiple c.laneNo
    let s := { s with clusters := tabPut k { c with laneNo := c.laneNo + 1, nextAt := c.nextAt + c.period * m / 4 } s.clusters }
    (s.residents k).foldl (fun s p => s.modSheet p.1 fun h =>
      { h with cyc := (h.cyc + 1) % 18446744073709551616, wstretch := h.wstretch + c.period * (m - 4) / 4 }) s
/-- An issue cycle begins with its first lane cycle (R168, R169, R174): `slot` is the width and the multiple of what issues; with
two half passes a second lane cycle follows. -/
def State.clockCycle (s : State) (k : Nat) (slot : Option (Nat × Nat)) : State :=
  (s.modCluster k fun c =>
    { c with occ := c.occ ++ (slot.map fun w => (c.laneNo + c.stages w.1, w.2)).toList
             half := slot.any fun w => c.stages w.1 == 5
             issueNo := c.issueNo + 1, windowLeft := c.windowLeft - 1 }).laneCycle k
/-- The second half pass of an issue cycle (R168). -/
def State.halfPass (s : State) (k : Nat) : State := (s.laneCycle k).modCluster k fun c => { c with half := false }

/-! ### The active set -/

/-- The ready gangs in the order R175 would choose them, one an issue cycle, were nothing else to become ready: the first `n`. -/
def soonest (now window : Nat) (l : List Ready) : Nat → List Ready
  | 0 => []
  | n + 1 =>
    match choose now window l with
    | none => []
    | some r => r :: soonest (now + 1) window (l.filter (· != r)) n
/-- The active set after a choice (R62, R411): the gangs R175 chooses soonest, the one chosen now first, and then waiting members,
eight in all. A gang that leaves it has its cache written back. That members are exchanged at issue cycles, that the window is
taken as it stands, and that waiting members stay in their old order are the model's choices (log entry 92). -/
def State.activate (s : State) (k now window : Nat) (rs : List Ready) : State :=
  let soon := (soonest now window rs 8).map fun r => (r.sheet, r.gang)
  let was := ((tabGet k s.clusters).map (·.active)).getD []
  let members := (soon ++ was.filter fun m => !soon.contains m).take 8
  let s := (was.filter fun m => !members.contains m).foldl (fun s m =>
    s.modSheet m.1 fun h => h.modGang m.2 fun g => g.writeBack h.W g.cache) s
  s.modCluster k fun c => { c with active := members }
/-- The instruction of the gang chosen is the issue in progress, as the selector fetched it (R183). -/
def State.startIssue (s : State) (r : Ready) : State :=
  match (tabGet r.sheet s.sheets).bind fun h => (tabGet r.gang h.gangs).map fun g => (h, g) with
  | none => s
  | some (h, g) =>
    let (f, t) := { s with choices := r.drawn }.previewed r.sheet h r.gang g r.pc
    { t with choices := max s.choices t.choices
             issue := some { sheet := r.sheet, agent := .gang r.gang, lanes := maskOf r.lanes, pc := r.pc, seen := some f } }

/-- What the selection leaves in a gang: since when it is ready (R174, R175), and how often each clear thread was passed over
(R23). -/
def Gang.selected (g : Gang) (ready : Option Ready) (issued : Bool) (now : Nat) (cs : List (Word × Slot)) : Gang :=
  match ready with
  | none => { g with readyAt := none }
  | some r =>
    if !issued then { g with readyAt := some (g.readyAt.getD now) }
    else
      { g with
        readyAt := none
        threads := tabMap (fun l t =>
          if r.lanes.contains l then { t with skipped := 0 }
          else if t.st == .running && cs.any (·.1 == t.pc) then { t with skipped := t.skipped + 1 } else t) g.threads }

/-- An issue cycle of a cluster (R174, R175): the chosen gang's instruction is the issue in progress. -/
def State.issueCycle (s : State) (k : Nat) : State :=
  match tabGet k s.clusters with
  | none => s
  | some c =>
    let (rs, s) := s.readyGangs k c
    let pick := choose c.issueNo c.window rs
    let s := (s.issuers k).foldl (fun s x =>
      let (sid, h, n, g) := x
      let r := rs.find? fun r => r.sheet == sid && r.gang == n
      s.modGang sid n fun q => q.selected r (r == pick && pick.isSome) c.issueNo (s.clearPcs sid h n g c.laneNo)) s
    let width := pick.map fun r => ((((tabGet r.sheet s.sheets).map (·.W)).getD 0), r.slot.stage)
    let s := s.activate k c.issueNo c.window rs
    let s := match pick with
      | none => s
      | some r => s.startIssue r
    s.clockCycle k width

/-- A gang with threads at a pad passes it before it is looked at (R181): the issue in progress is the pad. -/
def State.padIssue (s : State) : Option Issue :=
  s.clusters.findSome? fun c =>
    if !s.cycleDue c.1 c.2 || c.2.half then none
    else
      (s.issuers c.1).findSome? fun x =>
        let (sid, h, n, g) := x
        let run := g.threads.filter fun p => p.2.st == .running
        (run.find? fun p => s.preview sid h n g p.2.pc == .pad).map fun p =>
          { sheet := sid, agent := .gang n, pc := p.2.pc, lanes := maskOf (g.lanesAt p.2.pc), seen := some .pad }

/-! ### Sequencers -/

/-- A sequencer issues its next instruction (R322); it takes no issue cycle. -/
def State.seqIssue (s : State) (sid : Nat) (k : SeqKind) : State :=
  match tabGet sid s.sheets with
  | none => s
  | some h =>
    { s.modSheet sid (·.modSeq k fun q => { q with issuedAt := some s.now }) with
      issue := some { sheet := sid, agent := .seq k, lanes := 1, pc := (h.seq k).pc } }

end Sys2Proof.Machine
end

