-- ==== Sys2Proof/Machine/Steward.lean ====
section
/-! DEFINITION. The steward (R457 to R470): bring-up, the command port, the lease, and every command; RoCEv2 accesses,
links and re-admission. -/

namespace Sys2Proof.Machine

/-! ### Keys in the HBM controllers -/

/-- A list of bytes as `n` bytes. -/
def sized (n : Nat) (bs : List Byte) : List Byte := (bs ++ List.replicate n 0).take n
/-- The versions of an atom stored under a slot whose key pair changes read as decryption under the new one gives, unless a cache
still holds the plain bytes, which is free (R419). -/
def State.refill (s : State) (k : Nat) (old new : List Byte) (a : Nat) : State :=
  let x := s.atom (32 * a)
  let turn (bs : List Byte) : List Byte := (List.range 32).map (Config.recrypt old new (32 * a) bs)
  let here := x.key = k && s.free .random % 2 ≠ 0
  let s := s.drew
  let back := s.free .random % 2 ≠ 0
  let s := s.drew
  let prior := x.prior.map fun p => if p.key = k && back then { p with bytes := turn p.bytes } else p
  let s := if here then { s with mem := putBytes (32 * a) ((turn (s.bytes (32 * a) 32)).map some) s.mem } else s
  s.putAtom (32 * a) { x with prior := prior }
/-- What was stored under a slot's last key pair, when another takes its place (R419). -/
def State.rekey (s : State) (k : Nat) (key : List Byte) : State :=
  match (tabGet k s.keys).bind KeySlot.last with
  | none => s
  | some old =>
    if old = key then s
    else ((s.atoms.filter fun a => a.2.key == k || a.2.prior.any (·.key == k)).map (·.1)).foldl (fun s a => s.refill k old key a) s

/-! ### Bring-up -/

/-- Whether a tested cluster is live: it stands on the grid of a package (R1, R143), has lanes and granules within what a cluster has,
one of the three widths, and its seal holds (R458). -/
def testLive (c : ClusterTest) : Bool :=
  c.sealed && c.dx < 8 && c.dy < 6 && c.cx < 12 && c.cy < 8 && 0 < c.lln && c.lln ≤ 64 && 0 < c.lgr && c.lgr ≤ 128
    && (c.aw == 64 || c.aw == 32 || c.aw == 16)
/-- The first of the tests of each position. -/
def testsOnce (l : List ClusterTest) : List ClusterTest :=
  l.foldl (fun m c => if m.any fun d => (d.dx, d.dy, d.cx, d.cy) == (c.dx, c.dy, c.cx, c.cy) then m else m ++ [c]) []
/-- The live clusters in ductus order (R143). -/
def ductusOrder (r : PowerOnRecord) : List ClusterTest :=
  sortBy (fun a b => lexLe [dieRank a.dx a.dy, clusterRank a.cx a.cy] [dieRank b.dx b.dy, clusterRank b.cx b.cy])
    (testsOnce (r.clusters.filter testLive))
/-- A cluster as the ruling table gives it (R366). -/
def testCluster (c : ClusterTest) (now : Nat) : Cluster :=
  { die := dieRank c.dx c.dy, cx := c.cx, cy := c.cy, aw := c.aw, lgr := c.lgr, lln := c.lln, igang := c.igang % 65536
    ratio := if c.lln = 32 then 2 else c.ratio % 2, didt := c.didt % 65536, nextAt := now }
/-- The dies with a live cluster; the pointer is the lowest ductus number (R446). -/
def livingDies (cs : Tab ClusterTest) (now : Nat) : Tab Die :=
  cs.foldl (fun (m : Tab Die) (c : Nat × ClusterTest) =>
    let k := dieRank c.2.dx c.2.dy
    if (tabGet k m).isSome then m
    else tabPut k { rank := k, x := c.2.dx, y := c.2.dy, pointer := c.1, boostAt := (now + boostTicks - 1) / boostTicks * boostTicks } m) []

/-- An agent's 32-bit incarnation number rises by one (R440). -/
def State.readmit (s : State) (n : Nat) : State :=
  { s with incarnations := tabPut n ((((tabGet n s.incarnations).getD 0) + 1) % 4294967296) s.incarnations }
/-- POWER_ON (R457, R458, R440): after RESET the dies and the steward chiplets are re-admitted. -/
def execPowerOn (r : PowerOnRecord) (s : State) : Host.Outcome State Fault Refusal :=
  if s.steward.up then .fault .notEnabled
  else
    let cs : Tab ClusterTest := (ductusOrder r).zipIdx.map fun p => (p.2, p.1)
    let key0 := toBytesLE 64 (s.free .random)
    let s := (s.drew).rekey 0 key0
    let inc (s : State) (n : Nat) : Nat := (tabGet n s.incarnations).getD 0
    let back := if s.steward.restarted then (livingDies cs s.now).map (·.1) ++ [64, 65] else []
    let s := back.foldl (fun s n => s.readmit n) s
    .next ({ s with
      clusters := cs.map fun (c : Nat × ClusterTest) => (c.1, testCluster c.2 s.now)
      dies := livingDies cs s.now
      keys := tabPut 0 { key := some key0, last := some key0, grants := 65535 } s.keys
      incarnations := if r.steward0Ok then s.incarnations
        else tabPut 65 ((max (inc s 64) (inc s 65) + 1) % 4294967296) s.incarnations
      steward := { s.steward with
        up := true, badConfig := !r.recordValid, device := r.device % 4194304, gradeSeen := none
        active := if r.steward0Ok then 0 else 1, measured := (r.hbmStacks.foldl (fun n (x : Nat × Nat) => n + x.2) 0, r.step), restarted := false
        hbmStacks := r.hbmStacks, edges := r.edges, record := r.record
        keys := if r.recordValid then r.keys else []
        tier := if r.recordValid then r.tier else []
        shipped := if r.recordValid then some r.shipped else none } }).checkGrade

/-! ### The command port -/

/-- The last sequence number accepted from a key. -/
def Steward.lastSeq (w : Steward) (k : BitVec 256) : Option Nat := (w.seqs.find? fun p => p.1 == k).map (·.2)
/-- Whether a sequence number is one the port accepts (R462). -/
def Steward.fresh (w : Steward) (h : CmdHdr) : Bool := (w.lastSeq h.key).all (· < h.seq)
/-- Accept a command's sequence number (R462). -/
def Steward.accept (w : Steward) (h : CmdHdr) : Steward :=
  if w.fresh h then { w with seqs := (w.seqs.filter fun p => p.1 != h.key) ++ [(h.key, h.seq)] } else w

/-- Queue a reply (R465); its body is empty unless the status is OK (R467). A command answered OK is accepted; a refused one changes
nothing (R462, R464). -/
def State.reply (s : State) (code : Nat) (h : CmdHdr) (stat : Nat) (body : List Byte) : State :=
  let w := if stat = 0 then s.steward.accept h else s.steward
  { s with steward := { w with
      outbox := w.outbox ++ [{ code := code, seq := h.seq, key := h.key, stat := stat, body := if stat = 0 then body else [] }] } }

/-- A reply as a datagram, signed by the device identity key (R465). -/
def Reply.datagram (r : Reply) : List Byte :=
  let head := toBytesLE 4 1296254793 ++ toBytesLE 2 1 ++ toBytesLE 1 r.code ++ toBytesLE 1 1 ++ toBytesLE 8 r.seq
    ++ toBytesLE 32 Config.identityKey.toNat ++ toBytesLE 4 r.body.length ++ toBytesLE 4 r.stat ++ toBytesLE 8 0 ++ r.body
  head ++ sized 64 (Config.sign (Config.sha512 head))

/-- A field of a body. -/
def fieldAt (bs : List Byte) (o n : Nat) : Nat := ofBytesLE ((bs.drop o).take n)

/-- The code, header and body of a command datagram; none when it is dropped (R462, R465). -/
def commandOf (bs : List Byte) : Option (Nat × CmdHdr × List Byte) :=
  let n := fieldAt bs 48 4
  let key := BitVec.ofNat 256 (fieldAt bs 16 32)
  let sig := (bs.drop (64 + n)).take 64
  if fieldAt bs 0 4 = 1296254793 && fieldAt bs 4 2 = 1 && fieldAt bs 7 1 = 0 && fieldAt bs 52 4 = 0 && fieldAt bs 56 8 = 0
      && n ≤ 8192 && bs.length = 128 + n && Config.verify key (Config.sha512 (bs.take (64 + n))) sig then
    some (fieldAt bs 6 1, { key := key, seq := fieldAt bs 8 8 }, (bs.drop 64).take n)
  else none

/-- Whether the sender holds the lease (R463). -/
def State.isPen (s : State) (h : CmdHdr) : Bool := s.steward.pen == some h.key && s.now < s.steward.leaseEnd

/-- A command: with a bad configuration every one is answered BADCONFIG (R458); a penholder's command from another sender
is refused with NOTPEN (R461, R463). -/
def command (code : Nat) (pen : Bool) (h : CmdHdr) (s : State) (k : Host.Outcome State Fault Refusal) :
    Host.Outcome State Fault Refusal :=
  if !s.steward.up then .fault .notEnabled
  else if s.steward.badConfig then .next (s.reply code h 1 [])
  else if pen && !s.isPen h then .next (s.reply code h 3 [])
  else k

/-- Six seconds (R463). -/
def leaseTicks : Nat := 6000000 * tickUs
/-- The sender holds the lease for six seconds from now (R461, R463). -/
def State.renew (s : State) (h : CmdHdr) : State :=
  { s with steward := { s.steward with pen := some h.key, leaseEnd := s.now + leaseTicks } }
/-- The lease end in ETIME ns. -/
def State.leaseNs (s : State) : List Byte := toBytesLE 8 (s.steward.leaseEnd / tickNs)

/-- CLAIM (R461). -/
def execClaim (h : CmdHdr) (body : List Byte) (s : State) : Host.Outcome State Fault Refusal :=
  command 1 false h s <|
    if !s.steward.keys.contains h.key then .next (s.reply 1 h 3 [])
    else if body.length ≠ 32 then .next (s.reply 1 h 5 [])
    else if s.steward.pen.isSome && s.now < s.steward.leaseEnd && !s.isPen h then .next (s.reply 1 h 2 [])
    else
      let s := s.renew h
      .next (s.reply 1 h 0 s.leaseNs)

/-- HEARTBEAT (R463). -/
def execHeartbeat (h : CmdHdr) (body : List Byte) (s : State) : Host.Outcome State Fault Refusal :=
  command 2 true h s <|
    if !body.isEmpty then .next (s.reply 2 h 5 [])
    else
      let s := s.renew h
      .next (s.reply 2 h 0 s.leaseNs)

/-- HANDOVER (R463): the lease passes at once; it ends when it would have. -/
def execHandover (h : CmdHdr) (body : List Byte) (s : State) : Host.Outcome State Fault Refusal :=
  command 3 true h s <|
    let holder := BitVec.ofNat 256 (ofBytesLE body)
    if body.length ≠ 32 || !s.steward.keys.contains holder then .next (s.reply 3 h 5 [])
    else .next (({ s with steward := { s.steward with pen := some holder } }).reply 3 h 0 [])

/-- LEASE_LAPSE (R463). -/
def execLeaseLapse (s : State) : Host.Outcome State Fault Refusal :=
  if s.steward.pen.isSome && s.steward.leaseEnd ≤ s.now then .next { s with steward := { s.steward with pen := none } }
  else .fault .notEnabled

/-- The CLKST word STATUS gives for a die (R467). -/
def State.dieClkst (s : State) (die : Nat) (d : Die) : Nat :=
  let mine := s.clusters.filter fun c => c.2.die == die
  clkst (maxOf (mine.map fun c => c.2.fstep)) (maxOf (mine.map fun c => s.clusterClass c.1)) d.permits

/-- STATUS (R467). -/
def execStatus (h : CmdHdr) (body : List Byte) (s : State) : Host.Outcome State Fault Refusal :=
  command 16 false h s <|
    if !body.isEmpty then .next (s.reply 16 h 5 [])
    else
      let ctxs (p : Nat) : Nat := ((s.ctxs.filter fun c => c.2.part == p).map fun c => 2 ^ (c.1 % 64)).foldl (· + ·) 0
      .next (s.reply 16 h 0 (toBytesLE 32 Config.wrappingKey.toNat ++ toBytesLE 4 s.dies.length ++ toBytesLE 4 s.clusters.length
        ++ s.dies.flatMap (fun d => toBytesLE 4 (s.dieClkst d.1 d.2)) ++ toBytesLE 4 s.parts.length
        ++ s.parts.flatMap fun p => toBytesLE 1 p.1 ++ toBytesLE 1 p.2.x0 ++ toBytesLE 1 p.2.y0 ++ toBytesLE 1 p.2.x1
          ++ toBytesLE 1 p.2.y1 ++ toBytesLE 1 (s.partDies p.2).length ++ toBytesLE 2 0 ++ toBytesLE 8 (ctxs p.1)))

/-- A grade as the report lays it out (R460). -/
def gradeBytes (g : Grade) : List Byte :=
  toBytesLE 4 g.dies ++ toBytesLE 4 g.clusters ++ toBytesLE 4 g.granules ++ toBytesLE 2 g.hbm ++ toBytesLE 2 g.step
/-- The ruling table (R457, R459): ductus number, position, AW, LLN and LGR of every live cluster. -/
def State.ruling (s : State) : List (List Nat) := s.clusters.map fun c => [c.1, c.2.die, c.2.cx, c.2.cy, c.2.aw, c.2.lln, c.2.lgr]
/-- The attestation report (R460). -/
def State.report (s : State) (nonce : List Byte) : List Byte :=
  let b := toBytesLE 32 Config.identityKey.toNat ++ nonce ++ sized 64 (Config.sha512 Config.stewardRom)
    ++ sized 64 (Config.sha512 s.steward.record) ++ sized 64 (Config.sha512 (Config.rulingTable s.ruling))
    ++ sized 64 (Config.rootSeal (s.clusters.map fun c => (c.2.die, c.2.cx, c.2.cy)))
    ++ gradeBytes (s.steward.shipped.getD default) ++ gradeBytes s.currentGrade ++ toBytesLE 8 s.etime
    ++ toBytesLE 4 ((tabGet (64 + s.steward.active) s.incarnations).getD 0) ++ toBytesLE 4 0
  b ++ sized 64 (Config.sign (Config.sha512 b))

/-- ATTEST (R460). -/
def execAttest (h : CmdHdr) (body : List Byte) (s : State) : Host.Outcome State Fault Refusal :=
  command 17 false h s <|
    if body.length ≠ 32 then .next (s.reply 17 h 5 []) else .next (s.reply 17 h 0 (s.report body))

/-- A notice as NOTICES returns it (R467). -/
def Notice.bytes (n : Notice) : List Byte :=
  toBytesLE 4 n.kind ++ toBytesLE 4 n.ctx ++ toBytesLE 4 n.code ++ toBytesLE 4 n.origin ++ toBytesLE 8 n.etime ++ toBytesLE 8 n.addr
/-- NOTICES (R467): oldest first, as many as a reply holds (R465); what is returned leaves the queue. -/
def execNotices (h : CmdHdr) (body : List Byte) (s : State) : Host.Outcome State Fault Refusal :=
  command 18 false h s <|
    if body.length ≠ 4 then .next (s.reply 18 h 5 [])
    else
      let n := min (ofBytesLE body) 255
      let out := s.steward.notices.take n
      let s := { s with steward := { s.steward with notices := s.steward.notices.drop n } }
      .next (s.reply 18 h 0 (toBytesLE 4 out.length ++ out.flatMap Notice.bytes))

/-! ### Partitions and contexts -/

/-- The partition a PART.CREATE body describes, with its number; none when the body is malformed or names a device number of more than
22 bits (R1, R467). -/
def partitionOf (b : List Byte) : Option (Nat × Partition) :=
  let r := fieldAt b 24 4
  let n := fieldAt b 28 4
  let x0 := fieldAt b 1 1
  let y0 := fieldAt b 2 1
  let x1 := fieldAt b 3 1
  let y1 := fieldAt b 4 1
  let devices := (List.range n).map fun i => fieldAt b (32 + 16 * r + 4 * i) 4
  if b.length = 32 + 16 * r + 4 * n && fieldAt b 0 1 < 16 && fieldAt b 5 3 = 0 && x0 ≤ x1 && x1 < 8 && y0 ≤ y1 && y1 < 6
      && devices.all (· < 4194304) then
    some (fieldAt b 0 1,
      { x0 := x0, y0 := y0, x1 := x1, y1 := y1, winBase := fieldAt b 8 8, winSize := fieldAt b 16 8
        ranges := (List.range r).map fun i => (fieldAt b (32 + 16 * i) 8, fieldAt b (40 + 16 * i) 8)
        devices := devices })
  else none
/-- Whether two rectangles share a die position (R418). -/
def Partition.meets (p q : Partition) : Bool := p.x0 ≤ q.x1 && q.x0 ≤ p.x1 && p.y0 ≤ q.y1 && q.y0 ≤ p.y1

/-- PART.CREATE (R418). -/
def execPartCreate (h : CmdHdr) (body : List Byte) (s : State) : Host.Outcome State Fault Refusal :=
  command 32 true h s <|
    match partitionOf body with
    | none => .next (s.reply 32 h 5 [])
    | some (k, p) =>
      if 16 ≤ s.parts.length then .next (s.reply 32 h 8 [])
      else if (tabGet k s.parts).isSome || s.parts.any fun q => q.2.meets p then .next (s.reply 32 h 7 [])
      else .next (({ s with parts := tabPut k p s.parts }).reply 32 h 0 [])

/-- End every context that satisfies a condition, with a reason. -/
def State.endContexts (s : State) (f : Context → Bool) (code : Nat) : State :=
  ((s.ctxs.filter fun c => f c.2).map (·.1)).foldl (fun s cx => s.endContext cx 1 code) s

/-- PART.END (R464, R471). -/
def execPartEnd (h : CmdHdr) (body : List Byte) (s : State) : Host.Outcome State Fault Refusal :=
  command 33 true h s <|
    let p := ofBytesLE body
    if body.length ≠ 4 then .next (s.reply 33 h 5 [])
    else if (tabGet p s.parts).isNone then .next (s.reply 33 h 6 [])
    else
      let s := s.endContexts (fun c => c.part == p) 4294967294
      .next (({ s with parts := tabDel p s.parts }).reply 33 h 0 [])

/-- CTX.CREATE (R365, R404, R418). -/
def execCtxCreate (h : CmdHdr) (body : List Byte) (s : State) : Host.Outcome State Fault Refusal :=
  command 34 true h s <|
    let id := fieldAt body 0 4
    let rank := fieldAt body 4 4
    let cmax := fieldAt body 32 4
    if body.length ≠ 40 || 1024 ≤ id || 4 ≤ rank || 4 ≤ cmax || fieldAt body 36 4 ≠ 0 then .next (s.reply 34 h 5 [])
    else if (tabGet (id / 64) s.parts).isNone then .next (s.reply 34 h 6 [])
    else if 64 ≤ (s.ctxs.filter fun c => c.2.part == id / 64).length then .next (s.reply 34 h 8 [])
    else if (tabGet id s.ctxs).isSome then .next (s.reply 34 h 7 [])
    else
      let c : Context :=
        { part := id / 64, svec := fieldAt body 8 8 / 128 * 128, tfrm := bitsOf (fieldAt body 16 8) 12 36 * 4096
          ttb := fieldAt body 24 8 / 65536 * 65536, ceil := cmax, cmax := cmax, rank := rank }
      .next (({ s with ctxs := tabPut id c s.ctxs }).reply 34 h 0 [])

/-- A command that names a context: accepting it raises the steward's clock for the context (R43). -/
def onContext (code : Nat) (h : CmdHdr) (cx : Nat) (s : State) (k : State → Context → Host.Outcome State Fault Refusal) :
    Host.Outcome State Fault Refusal :=
  match tabGet cx s.ctxs with
  | none => .next (s.reply code h 6 [])
  | some c => k (s.modCtx cx fun c => { c with clock := c.clock + 1 }) { c with clock := c.clock + 1 }

/-- CTX.END (R464, R471). -/
def execCtxEnd (h : CmdHdr) (body : List Byte) (s : State) : Host.Outcome State Fault Refusal :=
  command 35 true h s <|
    if body.length ≠ 4 then .next (s.reply 35 h 5 [])
    else onContext 35 h (ofBytesLE body) s fun s _ => .next ((s.endContext (ofBytesLE body) 1 4294967295).reply 35 h 0 [])

/-! ### Launches and preemption -/

/-- LAUNCH of the steward (R37, R43, R467). -/
def execStewardLaunch (h : CmdHdr) (body : List Byte) (s : State) : Host.Outcome State Fault Refusal :=
  command 36 true h s <|
    let cx := fieldAt body 0 4
    if body.length ≠ 136 || fieldAt body 4 4 ≠ 0 then .next (s.reply 36 h 5 [])
    else onContext 36 h cx s fun s c =>
      let w : Issuer := { cx := cx, die := (s.ctxDies cx).headD 0, atS := false, clk := c.clock, steward := true }
      let (st, s) := match s.submit cx w (body.drop 8) with
        | .error (_, s) => (3, s)
        | .ok x => x
      .next (s.reply 36 h 0 (toBytesLE 4 st)).reap

/-- PREEMPT (R393, R467). -/
def execPreempt (h : CmdHdr) (body : List Byte) (s : State) : Host.Outcome State Fault Refusal :=
  command 37 true h s <|
    let cx := fieldAt body 0 4
    let launch := fieldAt body 8 8
    let n := fieldAt body 16 4
    if body.length ≠ 24 + 8 * n || fieldAt body 20 4 ≠ 0 then .next (s.reply 37 h 5 [])
    else onContext 37 h cx s fun s' _ =>
      let ks := (List.range n).map fun i => fieldAt body (24 + 8 * i) 8
      match tabGet launch s.launches with
      | none => .next (s.reply 37 h 6 [])
      | some l =>
        if l.ctx ≠ cx || ks.any (l.sheets ≤ ·) then .next (s.reply 37 h 6 [])
        else
          let named := s'.sheets.filter fun p => p.2.launch == launch && ks.contains p.2.index && p.2.cluster?.isSome && p.2.replay.isNone
          let s' := named.foldl (fun s p => s.requestPreempt p.1 (fieldAt body 4 4)) s'
          .next (s'.reply 37 h 0 (toBytesLE 4 named.length))

/-! ### Keys -/

/-- A slot that commands may touch. -/
def slotOk (k : Nat) : Bool := 1 ≤ k && k ≤ 255

/-- KEY.LOAD (R419, R467). -/
def execKeyLoad (h : CmdHdr) (body : List Byte) (s : State) : Host.Outcome State Fault Refusal :=
  command 48 true h s <|
    let k := fieldAt body 0 4
    if body.length ≠ 112 || !slotOk k || fieldAt body 4 4 ≠ 0 then .next (s.reply 48 h 5 [])
    else
      match Config.unwrapKey (body.drop 8) with
      | none => .next (s.reply 48 h 5 [])
      | some key =>
        let slot := (tabGet k s.keys).getD {}
        let s := s.rekey k key
        .next (({ s with keys := tabPut k { slot with key := some key, last := some key } s.keys }).reply 48 h 0 [])

/-- KEY.CLEAR (R419). -/
def execKeyClear (h : CmdHdr) (body : List Byte) (s : State) : Host.Outcome State Fault Refusal :=
  command 49 true h s <|
    let k := ofBytesLE body
    if body.length ≠ 4 || !slotOk k then .next (s.reply 49 h 5 [])
    else .next (({ s with keys := tabMod k (fun x => { x with key := none }) s.keys }).reply 49 h 0 [])

/-- KEY.GRANT (R419). -/
def execKeyGrant (h : CmdHdr) (body : List Byte) (s : State) : Host.Outcome State Fault Refusal :=
  command 50 true h s <|
    let k := fieldAt body 0 4
    if body.length ≠ 8 || !slotOk k || fieldAt body 6 2 ≠ 0 then .next (s.reply 50 h 5 [])
    else
      let slot := (tabGet k s.keys).getD {}
      .next (({ s with keys := tabPut k { slot with grants := fieldAt body 4 2 } s.keys }).reply 50 h 0 [])

/-! ### Pages -/

/-- The first of `n` candidates from the `i`-th on that satisfies a condition. -/
def firstOf (ok : Nat → Bool) (at_ : Nat → Nat) : Nat → Nat → Option Nat
  | 0, _ => none
  | n + 1, i => if ok (at_ i) then some (at_ i) else firstOf ok at_ n (i + 1)
/-- Where a replica goes in a die's HBM: in what firmware reserves there, outside every partition's ranges and every other replica, from
a free place on (R420). -/
def State.replicaPlace (s : State) (die : Nat) : Nat :=
  let base := 4398046511104 * s.steward.device + (((s.dies.findIdx? fun d => d.1 == die).getD 0) * dieMemory + 65535) / 65536 * 65536
  let n := dieMemory / 65536 - 1
  let taken (pa : Nat) : Bool :=
    s.replicas.any (fun r => r.copies.any (·.2 == pa))
      || s.parts.any fun p => (p.2.winBase < pa + 65536 && pa < p.2.winBase + p.2.winSize) || p.2.ranges.any fun r => r.1 < pa + 65536 && pa < r.1 + r.2
  (firstOf (fun pa => !taken pa) (fun i => base + 65536 * ((s.free .placement + i) % n)) n 0).getD base

/-- REPLICATE (R420, R467). -/
def execReplicate (h : CmdHdr) (body : List Byte) (s : State) : Host.Outcome State Fault Refusal :=
  command 51 true h s <|
    let cx := fieldAt body 0 4
    let va := fieldAt body 8 8
    if body.length ≠ 16 || fieldAt body 4 4 ≠ 0 then .next (s.reply 51 h 5 [])
    else onContext 51 h cx s fun s' _ =>
      match (if va < 281474976710656 then s.leafNow cx (va / 65536) else none) with
      | none => .next (s.reply 51 h 6 [])
      | some l =>
        let home := s.pageDie l.pa
        let held := (s.replicas.filter fun r => r.home == home).length
        if l.block || l.pl = 0 then .next (s.reply 51 h 5 [])
        else if l.pl = 2 then .next (s'.reply 51 h 0 [])
        else if 65536 ≤ held then .next (s.reply 51 h 8 [])
        else
          let r : Replica := { ctx := cx, page := va / 65536, pa := l.pa, home := home
                               copies := (s.ctxDies cx).map fun d => (d, s.replicaPlace d) }
          let s' := s'.drew.rewriteLeaf cx l.entryPa [some ((s'.byte l.entryPa &&& 231) ||| 16)]
          let s' := s'.discard cx (s'.atom l.entryPa).w (Pages.one (va / 65536))
          .next ({ s' with replicas := s'.replicas ++ [r] }.reply 51 h 0 [])

/-- A page of a die that a partition may name, that nothing is listed of, that no leaf maps and that no other migration
moves to, from a free place on (R423; log entry 57). -/
def State.freePage (s : State) (p : Partition) (die : Nat) : Option Nat :=
  let base := ((s.dies.findIdx? fun d => d.1 == die).getD 0) * dieMemory
  let lo := (base + 65535) / 65536
  let n := (base + dieMemory) / 65536 - lo
  let used := ((s.mem.map fun (b : Nat × Byte) => b.1 / 65536) ++ (s.atoms.map fun (a : Nat × Atom) => 32 * a.1 / 65536)).eraseDups
  let own := 4398046511104 * s.steward.device
  let start := s.free .placement
  let room := p.ranges.flatMap fun r =>
    let a := max lo ((r.1 - own + 65535) / 65536)
    let b := min (lo + n) ((r.1 + r.2 - own) / 65536)
    if own ≤ r.1 && a < b then [(a, b - a)] else []
  let vacant (pa : Nat) : Bool :=
    !used.contains (pa / 65536) && !(s.migrations.any fun m => m.2.dst == pa) && !(s.ctxs.any fun c => s.mapsAddress c.2 pa)
  room.findSome? fun r => firstOf vacant (fun i => own + 65536 * (r.1 + (start + i) % r.2)) r.2 0

/-- MIGRATE (R423, R467). A move of the page that is under way ends first; a die on which the partition was granted no free page takes
none (log entry 57). -/
def execMigrate (h : CmdHdr) (body : List Byte) (s : State) : Host.Outcome State Fault Refusal :=
  command 52 true h s <|
    let cx := fieldAt body 0 4
    let va := fieldAt body 8 8
    if body.length ≠ 16 || fieldAt body 6 2 ≠ 0 then .next (s.reply 52 h 5 [])
    else onContext 52 h cx s fun s' c =>
      match (if va < 281474976710656 then s.leafNow cx (va / 65536) else none) with
      | none => .next (s.reply 52 h 6 [])
      | some l =>
        let die := dieRank (fieldAt body 4 1) (fieldAt body 5 1)
        if l.block || l.pl = 0 || paDevice l.pa ≠ s.steward.device || 8 ≤ fieldAt body 4 1 || 6 ≤ fieldAt body 5 1
            || !(s.ctxDies cx).contains die then
          .next (s.reply 52 h 5 [])
        else
          let s' := (s'.migrations.filter fun m => m.2.ctx == cx && m.2.page == va / 65536).foldl (fun s m => s.cutover m.1 m.2) s'
          let src := ((s'.leafNow cx (va / 65536)).map (·.pa)).getD l.pa
          if s'.pageDie src = die then .next (s'.reply 52 h 0 [])
          else
          match (tabGet c.part s.parts).bind fun p => s'.freePage p die with
          | none => .next (s.reply 52 h 5 [])
          | some dst =>
            let s' := (s'.drew).convert cx (va / 65536)
            let m : Migration := { ctx := cx, page := va / 65536, src := src, dst := dst }
            .next ({ s' with migrations := tabPut s'.nextId m s'.migrations, nextId := s'.nextId + 1 }.reply 52 h 0 [])

/-- REGION (R466, R469, R467): which key is given is free, and so is the size of the region table (log entry 41). -/
def execRegion (h : CmdHdr) (body : List Byte) (s : State) : Host.Outcome State Fault Refusal :=
  command 53 true h s <|
    let cx := fieldAt body 0 4
    let op := fieldAt body 4 4
    let base := fieldAt body 8 8
    let len := fieldAt body 16 8
    let key := fieldAt body 24 4
    if body.length ≠ 28 || 2 ≤ op || (op = 0 && (key ≠ 0 || 281474976710656 < base + len)) then .next (s.reply 53 h 5 [])
    else onContext 53 h cx s fun s' _ =>
      if op = 0 && Config.regionSlots ≤ s.steward.regions.length then .next (s.reply 53 h 8 [])
      else if op = 0 then
        let k := freeNumber (s'.steward.regions.map (·.1)) (s'.free .random)
        let s' := s'.drew
        let s' := { s' with steward := { s'.steward with regions := tabPut k { ctx := cx, base := base, len := len } s'.steward.regions } }
        .next (s'.reply 53 h 0 (toBytesLE 4 k))
      else if ((tabGet key s.steward.regions).map (·.ctx)) != some cx then .next (s.reply 53 h 6 [])
      else .next (({ s' with steward := { s'.steward with regions := tabDel key s'.steward.regions } }).reply 53 h 0 [])

/-! ### Settings -/

/-- The clusters a CLSET target names: by die rank, by slice or by ductus number. -/
def State.targets (s : State) (kind target : Nat) : List (Nat × Cluster) :=
  if kind = 0 then s.clusters.filter fun c => c.2.die == target
  else if kind = 2 then s.clusters.filter fun c => c.1 == target
  else []
/-- Whether a CLSET target exists. -/
def State.targetExists (s : State) (kind target : Nat) : Bool :=
  match kind with
  | 0 => (tabGet target s.dies).isSome
  | 1 => (tabGet (target / 32) s.dies).isSome
  | 2 => (tabGet target s.clusters).isSome
  | _ => (tabGet target s.ctxs).isSome
/-- Whether a setting applies to a target kind (R467). -/
def settingApplies (kind setting : Nat) : Bool :=
  match setting with
  | 0 => kind ≤ 2
  | 1 | 2 => kind = 0 || kind = 2
  | 3 => kind = 3
  | _ => false
/-- Whether the register's own rules take a value (R168, R366, R435). -/
def settingTakes (setting value : Nat) (cs : List (Nat × Cluster)) : Bool :=
  match setting with
  | 0 => value ≤ 1
  | 1 => value % 4 ≠ 2 || cs.all fun c => c.2.lln == 32
  | 2 => value ≤ 65535
  | _ => true
/-- A change of ECC strength: its units carry their code until re-encoded (R435). -/
def setEcc (value : Nat) (slices : List Nat) (d : Die) : Die :=
  { d with ecc := slices.foldl (fun m k => tabPut k (((tabGet k m).getD (0, 0)).1, value) m) d.ecc }

/-- CLSET (R366, R435, R436, R467). -/
def execClset (h : CmdHdr) (body : List Byte) (s : State) : Host.Outcome State Fault Refusal :=
  command 54 true h s <|
    let kind := fieldAt body 0 4
    let target := fieldAt body 4 4
    let setting := fieldAt body 8 4
    let value := fieldAt body 12 4
    let cs := s.targets kind target
    if body.length ≠ 16 || !settingApplies kind setting then .next (s.reply 54 h 5 [])
    else if !s.targetExists kind target then .next (s.reply 54 h 6 [])
    else if !settingTakes setting value cs then .next (s.reply 54 h 5 [])
    else
      let each (f : Nat → Cluster → Cluster) : State := cs.foldl (fun s c => s.modCluster c.1 (f c.1)) s
      let s' : State := match setting with
        | 0 =>
          let s := each fun _ c => { c with ecc := (c.ecc.1, value) }
          if kind = 0 then s.modDie target (setEcc value (List.range 32))
          else if kind = 1 then s.modDie (target / 32) (setEcc value [target % 32])
          else s
        | 1 => each fun k c =>
          if value % 4 = 3 then c
          else if (s.residents k).isEmpty then { c with ratio := value % 4 } else { c with ratioNext := some (value % 4) }
        | 2 => each fun _ c => { c with didt := value }
        | _ => s.modCtx target fun c => { c with audk := value % 32 + value / 2147483648 % 2 * 2147483648, clock := c.clock + 1 }
      .next (s'.reply 54 h 0 [])

/-! ### Checkpoints and reset -/

/-- Whether a physical address lies in what a partition was granted. -/
def Partition.holds (p : Partition) (pa : Nat) : Bool :=
  (p.winBase ≤ pa && pa < p.winBase + p.winSize) || p.ranges.any fun r => r.1 ≤ pa && pa < r.1 + r.2

/-- The state a checkpoint of a partition keeps (R468). -/
def State.snapshot (s : State) (part : Nat) (p : Partition) : Checkpoint :=
  let mine (cx : Nat) : Bool := ((tabGet cx s.ctxs).map (·.part)) == some part
  let launches := s.launches.filter fun l => mine l.2.ctx
  { part := part, grant := p, tier := s.steward.tier, mem := s.mem.filter fun b => p.holds b.1, atoms := s.atoms.filter fun a => p.holds (32 * a.1)
    ctxs := s.ctxs.filter fun c => c.2.part == part, launches := launches, sheets := s.sheets.filter fun h => mine h.2.ctx
    shadows := s.shadows.filter fun h => mine h.2.sheet.ctx
    msgs := s.msgs.filter fun m => launches.any fun l => l.1 == m.launch
    packets := s.packets.filter fun x => mine x.2.ctx, markers := s.markers.filter fun x => mine x.2.ctx
    raster := s.dies.map fun d => (d.1, d.2.raster.filter fun r => mine (r.1 / 4))
    replicas := s.replicas.filter fun r => mine r.ctx, audits := s.audits.filter fun a => mine a.2.sheet.ctx
    images := s.images.filter fun i => (tabGet i.1 s.sheets).any fun h => mine h.ctx }

/-- The software-managed pages of a context write their dirty bytes back (R103, R422). -/
def State.sweepSoft (s : State) (cx : Nat) : State :=
  (((tabGet cx s.ctxs).map (·.soft)).getD []).foldl (fun s p => s.sweepPage cx 0 p.1 p.2) s
/-- CHECKPOINT (R468): the sheets are saved, writes and copies in flight end, dirty bytes of near caches reach their homes, and the
logical cut is taken; the reply comes with CHECKPOINT_COMPLETE. Which identity is given is free. -/
def execCheckpoint (h : CmdHdr) (body : List Byte) (s : State) : Host.Outcome State Fault Refusal :=
  command 64 true h s <|
    let part := ofBytesLE body
    if body.length ≠ 4 then .next (s.reply 64 h 5 [])
    else
      match tabGet part s.parts with
      | none => .next (s.reply 64 h 6 [])
      | some p =>
        let mine (cx : Nat) : Bool := ((tabGet cx s.ctxs).map (·.part)) == some part
        let s := ((s.sheets.filter fun q => mine q.2.ctx && q.2.cluster?.isSome).map (·.1)).foldl (fun s k => s.saveSheet k) s
        let s := ((s.copies.filter fun c => mine c.2.ctx).map (·.1)).foldl (fun s id =>
          let (s, due) := s.completeCopy id
          s.shadowPoints due) s
        let s := s.drain fun w => mine w.ctx
        let s := ((s.ctxs.filter fun c => mine c.1).map (·.1)).foldl (fun s cx => s.sweepSoft cx) s
        let id := freeNumber (s.steward.checkpoints.map (·.1)) (s.free .random)
        let s := s.drew
        .next ({ s with
          placeStop := some part
          steward := { s.steward.accept h with
            checkpoints := tabPut id (s.snapshot part p) s.steward.checkpoints, saving := some (id, part, h) } }).reap

/-- CHECKPOINT_COMPLETE (R468). -/
def execCheckpointComplete (id : Nat) (s : State) : Host.Outcome State Fault Refusal :=
  match s.steward.saving with
  | none => .fault .notEnabled
  | some (k, _, h) =>
    if k ≠ id then .fault .notEnabled
    else .next (({ s with placeStop := none, steward := { s.steward with saving := none } }).reply 64 h 0 (toBytesLE 8 id))

/-- Whether identities of a checkpoint are in use. -/
def State.clashes (s : State) (c : Checkpoint) : Bool :=
  c.sheets.any (fun h => (tabGet h.1 s.sheets).isSome) || c.launches.any fun l => (tabGet l.1 s.launches).isSome

/-- Load a checkpoint into a partition (R464, R468): memory is as it was at the cut, contexts take the partition's number, and saved
sheets await restore. Where the partition has another number of dies than the checkpoint's, that the ranges of unplaced sheets (R405)
stay under the die indices they had is the model's choice (log entry 54). -/
def State.load (s : State) (part : Nat) (c : Checkpoint) : State :=
  let f (cx : Nat) : Nat := 64 * part + cx % 64
  let dies := ((tabGet part s.parts).map s.partDies).getD []
  let putAll {α : Type} (xs : Tab α) (g : α → α) (m : Tab α) : Tab α := xs.foldl (fun m x => tabPut x.1 (g x.2) m) m
  let sheet (h : Sheet) : Sheet := { h with ctx := f h.ctx }
  let s := { s with
    mem := c.mem.foldl (fun m b => stPut restingByte b.1 b.2 m) (s.mem.filter fun b => !c.grant.holds b.1)
    atoms := c.atoms.foldl (fun m a => stPut {} a.1 a.2 m) (s.atoms.filter fun a => !c.grant.holds (32 * a.1))
    ctxs := c.ctxs.foldl (fun m x => tabPut (f x.1) { x.2 with part := part } m) s.ctxs
    launches := putAll c.launches (fun l => { l with ctx := f l.ctx }) s.launches
    sheets := putAll c.sheets sheet s.sheets
    shadows := putAll c.shadows (fun w => { w with sheet := sheet w.sheet }) s.shadows
    msgs := s.msgs ++ c.msgs
    packets := putAll c.packets (fun p => { p with ctx := f p.ctx }) s.packets
    markers := putAll c.markers (fun p => { p with ctx := f p.ctx }) s.markers
    audits := putAll c.audits (fun a => { a with sheet := sheet a.sheet }) s.audits
    replicas := s.replicas ++ c.replicas.map fun r => { r with ctx := f r.ctx }
    images := putAll c.images id s.images
    dies := tabMap (fun k d =>
      { d with raster := ((tabGet k c.raster).getD []).foldl (fun m r => tabPut (4 * f (r.1 / 4) + r.1 % 4) r.2 m) d.raster }) s.dies }
  (c.sheets.filter fun h => h.2.home == .saved).foldl (fun s h =>
    s.queueRestore h.1 (if dies.contains h.2.lastDie then h.2.lastDie else dies.headD 0)) s

/-- RESTORE (R464). -/
def execRestore (h : CmdHdr) (body : List Byte) (s : State) : Host.Outcome State Fault Refusal :=
  command 65 true h s <|
    let part := fieldAt body 0 4
    if body.length ≠ 16 || fieldAt body 4 4 ≠ 0 then .next (s.reply 65 h 5 [])
    else
      match tabGet part s.parts, tabGet (fieldAt body 8 8) s.steward.checkpoints with
      | some _, some c =>
        if s.ctxs.any (fun x => x.2.part == part) || s.clashes c then .next (s.reply 65 h 7 [])
        else .next ((s.load part c).reply 65 h 0 [])
      | _, _ => .next (s.reply 65 h 6 [])

/-- RESET (R464, R471): every context ends without a notice, and bring-up starts again. -/
def execReset (h : CmdHdr) (body : List Byte) (s : State) : Host.Outcome State Fault Refusal :=
  command 80 true h s <|
    if !body.isEmpty then .next (s.reply 80 h 5 [])
    else
      let s := s.endContexts (fun _ => true) 0
      let s := s.reply 80 h 0 []
      .next { s with
        issue := none, sheets := [], shadows := [], launches := [], parts := [], clusters := [], dies := []
        keys := tabMap (fun _ x => { x with key := none, grants := 0 }) s.keys, images := [], due := []
        writes := [], copies := [], msgs := [], packets := [], markers := [], replicas := [], migrations := [], audits := []
        placeStop := none
        steward := { s.steward with
          up := false, pen := none, leaseEnd := 0, notices := [], regions := [], saving := none, restarted := true } }

/-! ### RoCEv2, links and re-admission -/

/-- The open region of a key that holds an access. -/
def State.regionFor (s : State) (rkey va len : Nat) : Option Region :=
  (tabGet rkey s.steward.regions).bind fun r => if r.base ≤ va && va + len ≤ r.base + r.len then some r else none
/-- The pieces of a span that lie in one atom each: address and length. -/
def atomPieces (va len : Nat) : Nat → List (Nat × Nat)
  | 0 => []
  | n + 1 => if len = 0 then [] else let k := min len (32 - va % 32); (va, k) :: atomPieces (va + k) (len - k) n
/-- Who the steward is for an access to a context's memory (R469). -/
def State.firmware (s : State) (cx : Nat) : Issuer :=
  { cx := cx, die := (s.ctxDies cx).headD 0, atS := true, clk := ((tabGet cx s.ctxs).map (·.clock)).getD 0, steward := true }

/-- RDMA_WRITE (R469): within an open region, as writes of the steward's clock for the context. -/
def execRdmaWrite (rkey va : Nat) (data : List Byte) (s : State) : Host.Outcome State Fault Refusal :=
  match s.regionFor rkey va data.length with
  | none => .next s
  | some r =>
    let ps := atomPieces va data.length (data.length + 1)
    match s.checkAccess (s.firmware r.ctx) (ps.map fun p => { lane := 0, va := p.1, size := 1, kind := .write }) with
    | .error (_, s) => .next s
    | .ok (xs, s) =>
      .next ((xs.zip ps).foldl (fun s x =>
        let pa := x.1.2.phys x.1.1.va
        if s.unreach pa then s.asyncError r.ctx 7 x.1.1.va 0
        else
          let s := s.beforeWrite r.ctx x.1.1.va
          let clk := ((tabGet r.ctx s.ctxs).map (·.clock)).getD 0
          let bs := (data.drop (x.2.1 - va)).take x.2.2
          match s.placeWrite { sheet := none, ctx := r.ctx, key := x.1.2.key, home := some (s.homeOf r.ctx x.1.1.va x.1.2) } clk pa (bs.map some) with
          | none => s.exhaust r.ctx
          | some (s, t) => s.modCtx r.ctx fun c => { c with clock := max c.clock t }) s).reap

/-- RDMA_READ (R469): the bytes are returned at one view time. -/
def execRdmaRead (rkey va len : Nat) (s : State) : Host.Outcome State Fault Refusal :=
  match s.regionFor rkey va len with
  | none => .next s
  | some r =>
    let ps := atomPieces va len (len + 1)
    match s.checkAccess (s.firmware r.ctx) (ps.map fun p => { lane := 0, va := p.1, size := 1, kind := .read }) with
    | .error (_, s) => .next s
    | .ok (xs, s') =>
      let clk := ((tabGet r.ctx s.ctxs).map (·.clock)).getD 0
      let pas := xs.map fun x => x.2.phys x.1.va
      let v := s'.viewTime clk pas
      if (pas.zip ps).any fun x => s'.poisonedAt v x.1 x.2.2 || s'.unreach x.1 then .next s'
      else
        let out := (xs.zip ps).flatMap fun x => s'.versionAs x.1.2.key v (x.1.2.phys x.1.1.va) x.2.2
        let s' := ((s'.markReads none v pas (some r.ctx)).drew).modCtx r.ctx fun c => { c with clock := max c.clock v }
        .next { s' with steward := { s'.steward with rdmaOut := s'.steward.rdmaOut ++ [out] } }

/-- LINK_UNREACHABLE (R470). -/
def execLinkUnreachable (device : Nat) (s : State) : Host.Outcome State Fault Refusal :=
  if device = s.steward.device || s.unreachable.contains device then .fault .notEnabled
  else .next { s with unreachable := s.unreachable ++ [device] }

/-- RE_ADMISSION (R440): only after every context that uses the agent has ended. -/
def execReAdmission (who : Readmitted) (s : State) : Host.Outcome State Fault Refusal :=
  match who with
  | .die k =>
    if (tabGet k s.dies).isNone || s.ctxs.any (fun c => (s.ctxDies c.1).contains k) then .fault .notEnabled
    else .next (s.readmit k)
  | .steward n => if !s.ctxs.isEmpty then .fault .notEnabled else .next (s.readmit (64 + n % 2))
  | .peer d =>
    let uses (c : Context) : Bool := ((tabGet c.part s.parts).map fun p => p.devices.contains d).getD false
    if s.ctxs.any fun c => uses c.2 then .fault .notEnabled
    else .next ({ s with unreachable := s.unreachable.filter (· != d) }.readmit (256 + d))

/-! ### The port -/

/-- The instruction of a command code (R464). -/
def commandInstr (code : Nat) (h : CmdHdr) (b : List Byte) : Option Instr :=
  match code with
  | 0x01 => some (.claim h b)
  | 0x02 => some (.heartbeat h b)
  | 0x03 => some (.handover h b)
  | 0x10 => some (.status h b)
  | 0x11 => some (.attest h b)
  | 0x12 => some (.notices h b)
  | 0x20 => some (.partCreate h b)
  | 0x21 => some (.partEnd h b)
  | 0x22 => some (.ctxCreate h b)
  | 0x23 => some (.ctxEnd h b)
  | 0x24 => some (.stewardLaunch h b)
  | 0x25 => some (.preempt h b)
  | 0x30 => some (.keyLoad h b)
  | 0x31 => some (.keyClear h b)
  | 0x32 => some (.keyGrant h b)
  | 0x33 => some (.replicate h b)
  | 0x34 => some (.migrate h b)
  | 0x35 => some (.region h b)
  | 0x36 => some (.clset h b)
  | 0x40 => some (.checkpoint h b)
  | 0x41 => some (.restore h b)
  | 0x50 => some (.reset h b)
  | _ => none

/-- What the port makes of a datagram: nothing, an answer UNKNOWN, or a command to carry out (R462, R465, R466). -/
def State.port (s : State) (bs : List Byte) : State × Option Instr :=
  match commandOf bs with
  | none => (s, none)
  | some (code, h, b) =>
    if !s.steward.fresh h then (s, none)
    else
      match commandInstr code h b with
      | some i => (s, some i)
      | none => (s.reply code h (if s.steward.badConfig then 1 else 4) [], none)

end Sys2Proof.Machine
end

