-- ==== Sys2Proof/Machine/Sync.lean ====
section
/-! DEFINITION. Fences (R135, R297, R298) and sheet barriers (R299 to R304). -/

namespace Sys2Proof.Machine

/-- The clocks of the non-exited threads of a gang. -/
def Gang.liveClocks (q : Gang) : List Nat := (q.threads.filter fun p => p.2.st != .exited).map fun p => p.2.clock

/-- FENCE.G (R135). -/
def execFenceG (g : Guard) (s : State) : Host.Outcome State Fault Refusal :=
  let i := Instr.fenceG g
  enterMem i s fun s c =>
    let s := s.drainLanes c.sid c.gang (lanesBelow c.sh.W)
    let q := (tabGet c.sid s.sheets).bind fun h => tabGet c.gang h.gangs
    let m := maxOf ((q.map Gang.liveClocks).getD [])
    .next ((s.modGang c.sid c.gang (·.raiseClock (c.view.active g) m)).finish c i)

/-- FENCE.S (R135). -/
def execFenceS (g : Guard) (s : State) : Host.Outcome State Fault Refusal :=
  let i := Instr.fenceS g
  enterMem i s fun s c =>
    let s := s.drainSheet c.sid
    let h := (tabGet c.sid s.sheets).getD c.sh
    let m := max (maxOf (h.gangs.flatMap fun p => p.2.liveClocks)) (max h.mseq.clock h.cseq.clock)
    .next ((s.modGang c.sid c.gang (·.raiseClock (c.view.active g) m)).finish c i)

/-- FENCE.C (R298). -/
def execFenceC (g : Guard) (k : Fin 8) (d : Reg) (s : State) : Host.Outcome State Fault Refusal :=
  let i := Instr.fenceC g k d
  enterMem i s fun s c =>
    let x := (tabGet k.val c.sh.counters).getD {}
    let ls := c.accessLanes g (!d.isVec)
    let s := if ls.isEmpty then s else s.giveTimes c (!d.isVec) ls x.cmax
    .next ((s.putRegs c (c.view.put32 g d fun _ => x.count)).finish c i)

/-- One lane arrives at a barrier (R302), waiting when it names a predicate: whether it completed a phase. -/
def State.threadArrival (s : State) (c : Site) (i : Instr) (b : Nat) (pd : Option (Fin 8)) (l : Nat) : State × Bool :=
  let s := match pd with
    | none => s
    | some p => s.modGang c.sid c.gang fun q =>
      q.modThread l fun t => { t with pc := c.next i, st := .barrier b p, since := s.now }
  match tabGet c.sid s.sheets with
  | none => (s, false)
  | some h =>
    if (h.bar b).nt = 0 then (s, false)
    else
      let clk := ((tabGet c.gang h.gangs).map fun q => q.clockOf [l]).getD 0
      (s.modBar c.sid b fun x => { x with at_ := x.at_ + 1, clk := max x.clk clk }).tryPhase c.sid b

/-- BAR and BAR.arrive (R302). -/
def barrierArrive (i : Instr) (g : Guard) (b : Fin 16) (pd : Option (Fin 8)) (s : State) :
    Host.Outcome State Fault Refusal :=
  enterMem i s fun s c =>
    match c.view.active g with
    | [] => .next (s.finish c i)
    | l :: ls =>
      if !(c.sh.bar b.val).valid then .next (s.raise c i { cause := 10, check := 8, lane := some l })
      else
        let (s, due) := (l :: ls).foldl (fun (q : State × Bool) l =>
          let (s, d) := q.1.threadArrival c i b.val pd l
          (s, q.2 || d)) (s, false)
        let s := s.finish c i
        .next (if due then (s.shadowPoints [c.sid]).reap else s)

/-- BAR (R302). -/
def execBar (g : Guard) (b : Fin 16) (pd : Fin 8) (s : State) : Host.Outcome State Fault Refusal :=
  barrierArrive (.bar g b pd) g b (some pd) s
/-- BAR.arrive (R302). -/
def execBarArrive (g : Guard) (b : Fin 16) (s : State) : Host.Outcome State Fault Refusal :=
  barrierArrive (.barArrive g b) g b none s

/-- Whether a released thread's wave is due (R179). -/
def TState.waveDue (now : Nat) (t : TState) : Bool :=
  match t with
  | .wave a => a ≤ now
  | _ => false

/-- A wave of released threads leaves (R179). -/
def execBarrierWaveRelease (sheet gang : Nat) (s : State) : Host.Outcome State Fault Refusal :=
  match (tabGet sheet s.sheets).bind fun h => tabGet gang h.gangs with
  | none => .fault .notEnabled
  | some q =>
    let ls := q.lanesIn (TState.waveDue s.now)
    if ls.isEmpty then .fault .notEnabled else .next (s.modGang sheet gang (·.wake ls))

/-- The two targets of BARINIT (R300). -/
def barCounts (c : View) (n : BarCounts) : Nat × Nat :=
  match n with
  | .regs a b => ((c.regs.uni a.val).toNat, (c.regs.uni b.val).toNat)
  | .immT a b => (a.toNat, (c.regs.uni b.val).toNat)
  | .immC a b => ((c.regs.uni a.val).toNat, b.toNat)
  | .both a b => (a.toNat, b.toNat)

/-- BARINIT (R301). -/
def execBarinit (g : Guard) (b : Fin 16) (ext : Bool) (counts : BarCounts) (s : State) :
    Host.Outcome State Fault Refusal :=
  let i := Instr.barinit g b ext counts
  enterMemGang i g s fun s c =>
    let (nt, nc) := barCounts c.view counts
    if c.sh.T < nt || 65535 < nc || (nt = 0 && nc = 0) then .next (s.raise c i (Trap.illegal 2))
    else if !(c.sh.waitersOn b.val).isEmpty then .next (s.raise c i { cause := 9, check := 8 })
    else .next ((s.modBar c.sid b.val fun _ => { valid := true, ext := ext, nt := nt, nc := nc }).finish c i)

/-- BARINV (R303). That the barrier's targets, external bit and phase clock go too is the model's choice (log entry 97). -/
def execBarinv (g : Guard) (b : Fin 16) (s : State) : Host.Outcome State Fault Refusal :=
  let i := Instr.barinv g b
  enterMemGang i g s fun s c =>
    let x := c.sh.bar b.val
    if x.valid then
      let s := s.releaseBarrier c.sid b.val (max x.clk c.clk + 1) false
      .next ((s.modBar c.sid b.val fun _ => {}).finish c i)
    else .next (s.finish c i)

end Sys2Proof.Machine
end

