-- ==== Sys2Proof/Machine/Dispatch.lean ====
section
/-! DEFINITION. One arm per instruction: each calls its meaning. -/

namespace Sys2Proof.Machine

/-- Execute one instruction, or one step of a unit of the panel. -/
def exec (i : Instr) (s : State) : Host.Outcome State Fault Refusal :=
  match i with
  | .nop g => Sys2Proof.Machine.execNop g s
  | .bra g disp => Sys2Proof.Machine.execBra g disp s
  | .brx g a => Sys2Proof.Machine.execBrx g a s
  | .call g d disp => Sys2Proof.Machine.execCall g d disp s
  | .callx g d a => Sys2Proof.Machine.execCallx g d a s
  | .ret g a => Sys2Proof.Machine.execRet g a s
  | .exit g => Sys2Proof.Machine.execExit g s
  | .meet g k disp => Sys2Proof.Machine.execMeet g k disp s
  | .mleave g k => Sys2Proof.Machine.execMleave g k s
  | .yield g => Sys2Proof.Machine.execYield g s
  | .nap g a => Sys2Proof.Machine.execNap g a s
  | .napImm g n => Sys2Proof.Machine.execNapImm g n s
  | .napEnd sheet gang => Sys2Proof.Machine.execNapEnd sheet gang s
  | .trap g => Sys2Proof.Machine.execTrap g s
  | .trapImm g code => Sys2Proof.Machine.execTrapImm g code s
  | .bkpt g => Sys2Proof.Machine.execBkpt g s
  | .perf g a => Sys2Proof.Machine.execPerf g a s
  | .perfImm g n => Sys2Proof.Machine.execPerfImm g n s
  | .iadd g ty sat d a b => Sys2Proof.Machine.execIadd g ty sat d a b s
  | .isub g ty sat d a b => Sys2Proof.Machine.execIsub g ty sat d a b s
  | .iadd3 g ty d a b c => Sys2Proof.Machine.execIadd3 g ty d a b c s
  | .imul g ty d a b => Sys2Proof.Machine.execImul g ty d a b s
  | .imulh g ty d a b => Sys2Proof.Machine.execImulh g ty d a b s
  | .imad g ty d a b c => Sys2Proof.Machine.execImad g ty d a b c s
  | .imadw g ty d a b c => Sys2Proof.Machine.execImadw g ty d a b c s
  | .idiv g ty d a b => Sys2Proof.Machine.execIdiv g ty d a b s
  | .irem g ty d a b => Sys2Proof.Machine.execIrem g ty d a b s
  | .imin g ty d a b => Sys2Proof.Machine.execImin g ty d a b s
  | .imax g ty d a b => Sys2Proof.Machine.execImax g ty d a b s
  | .iabs g sat d a => Sys2Proof.Machine.execIabs g sat d a s
  | .ineg g sat d a => Sys2Proof.Machine.execIneg g sat d a s
  | .clamp g ty d a b c => Sys2Proof.Machine.execClamp g ty d a b c s
  | .and g ty d a b => Sys2Proof.Machine.execAnd g ty d a b s
  | .or g ty d a b => Sys2Proof.Machine.execOr g ty d a b s
  | .xor g ty d a b => Sys2Proof.Machine.execXor g ty d a b s
  | .andn g ty d a b => Sys2Proof.Machine.execAndn g ty d a b s
  | .orn g ty d a b => Sys2Proof.Machine.execOrn g ty d a b s
  | .shl g ty d a b => Sys2Proof.Machine.execShl g ty d a b s
  | .shr g ty d a b => Sys2Proof.Machine.execShr g ty d a b s
  | .sar g ty d a b => Sys2Proof.Machine.execSar g ty d a b s
  | .rot g ty d a b => Sys2Proof.Machine.execRot g ty d a b s
  | .fsh g left d a b c => Sys2Proof.Machine.execFsh g left d a b c s
  | .bfx g ty d a b => Sys2Proof.Machine.execBfx g ty d a b s
  | .bfi g d a b c => Sys2Proof.Machine.execBfi g d a b c s
  | .popc g d a => Sys2Proof.Machine.execPopc g d a s
  | .clz g d a => Sys2Proof.Machine.execClz g d a s
  | .ctz g d a => Sys2Proof.Machine.execCtz g d a s
  | .brev g d a => Sys2Proof.Machine.execBrev g d a s
  | .bytesel g d a b c => Sys2Proof.Machine.execBytesel g d a b c s
  | .lea g scale sx d a b => Sys2Proof.Machine.execLea g scale sx d a b s
  | .icmp g ty cmp comb pd a b => Sys2Proof.Machine.execIcmp g ty cmp comb pd a b s
  | .sel g ty p neg d a b => Sys2Proof.Machine.execSel g ty p neg d a b s
  | .pcomb g pd pa pb pc tt => Sys2Proof.Machine.execPcomb g pd pa pb pc tt s
  | .psetm g pd a => Sys2Proof.Machine.execPsetm g pd a s
  | .psetmMask g pd k => Sys2Proof.Machine.execPsetmMask g pd k s
  | .pmovToReg g p d => Sys2Proof.Machine.execPmovToReg g p d s
  | .pmovToPred g pd a => Sys2Proof.Machine.execPmovToPred g pd a s
  | .pmovFromMask g k d => Sys2Proof.Machine.execPmovFromMask g k d s
  | .mov g ty d a => Sys2Proof.Machine.execMov g ty d a s
  | .movi g ty d a => Sys2Proof.Machine.execMovi g ty d a s
  | .movs g num d => Sys2Proof.Machine.execMovs g num d s
  | .fadd g r d a b => Sys2Proof.Machine.execFadd g r d a b s
  | .fsub g r d a b => Sys2Proof.Machine.execFsub g r d a b s
  | .fmul g r d a b => Sys2Proof.Machine.execFmul g r d a b s
  | .ffma g r d a b c => Sys2Proof.Machine.execFfma g r d a b c s
  | .fmin g d a b => Sys2Proof.Machine.execFmin g d a b s
  | .fmax g d a b => Sys2Proof.Machine.execFmax g d a b s
  | .frnd g r d a => Sys2Proof.Machine.execFrnd g r d a s
  | .fscale g r d a b => Sys2Proof.Machine.execFscale g r d a b s
  | .ffract g d a => Sys2Proof.Machine.execFfract g d a s
  | .frcp g r d a => Sys2Proof.Machine.execFrcp g r d a s
  | .frsq g d a => Sys2Proof.Machine.execFrsq g d a s
  | .fsqrt g r d a => Sys2Proof.Machine.execFsqrt g r d a s
  | .fdiv g r d a b => Sys2Proof.Machine.execFdiv g r d a b s
  | .fexp2 g d a => Sys2Proof.Machine.execFexp2 g d a s
  | .flog2 g d a => Sys2Proof.Machine.execFlog2 g d a s
  | .fsin g d a => Sys2Proof.Machine.execFsin g d a s
  | .fcos g d a => Sys2Proof.Machine.execFcos g d a s
  | .fcmp g cmp comb pd a b => Sys2Proof.Machine.execFcmp g cmp comb pd a b s
  | .fclass g ty hi d a => Sys2Proof.Machine.execFclass g ty hi d a s
  | .hadd2 g ty r d a b => Sys2Proof.Machine.execHadd2 g ty r d a b s
  | .hmul2 g ty r d a b => Sys2Proof.Machine.execHmul2 g ty r d a b s
  | .hfma2 g ty r d a b c => Sys2Proof.Machine.execHfma2 g ty r d a b c s
  | .hmin2 g ty d a b => Sys2Proof.Machine.execHmin2 g ty d a b s
  | .hmax2 g ty d a b => Sys2Proof.Machine.execHmax2 g ty d a b s
  | .fdot2 g ty r d a b c => Sys2Proof.Machine.execFdot2 g ty r d a b c s
  | .cvtfi g ty wide src r d a => Sys2Proof.Machine.execCvtfi g ty wide src r d a s
  | .cvtif g ty src r d a => Sys2Proof.Machine.execCvtif g ty src r d a s
  | .cvtff g dst src r d a pk => Sys2Proof.Machine.execCvtff g dst src r d a pk s
  | .iwiden g ty d a => Sys2Proof.Machine.execIwiden g ty d a s
  | .inarrow g ty sat d a b => Sys2Proof.Machine.execInarrow g ty sat d a b s
  | .nfpack g k d a b c => Sys2Proof.Machine.execNfpack g k d a b c s
  | .nfunp g k d a b c => Sys2Proof.Machine.execNfunp g k d a b c s
  | .scaleblk g d a b c => Sys2Proof.Machine.execScaleblk g d a b c s
  | .rbox g pd d a b => Sys2Proof.Machine.execRbox g pd d a b s
  | .rtri g pd cull d a b => Sys2Proof.Machine.execRtri g pd cull d a b s
  | .shfl g ty mode d a => Sys2Proof.Machine.execShfl g ty mode d a s
  | .vote g mode pd pa neg => Sys2Proof.Machine.execVote g mode pd pa neg s
  | .ballot g d pa neg => Sys2Proof.Machine.execBallot g d pa neg s
  | .match_ g ty alleq d a => Sys2Proof.Machine.execMatch g ty alleq d a s
  | .gred g op d a => Sys2Proof.Machine.execGred g op d a s
  | .gscan g op excl d a => Sys2Proof.Machine.execGscan g op excl d a s
  | .ld g ty d a off => Sys2Proof.Machine.execLd g ty d a off s
  | .st g ty a off b => Sys2Proof.Machine.execSt g ty a off b s
  | .writeAtHome id => Sys2Proof.Machine.execWriteAtHome id s
  | .stF g ty a off b c => Sys2Proof.Machine.execStF g ty a off b c s
  | .lds g ty d a off => Sys2Proof.Machine.execLds g ty d a off s
  | .sts g ty a off b => Sys2Proof.Machine.execSts g ty a off b s
  | .ldc g ty d a off => Sys2Proof.Machine.execLdc g ty d a off s
  | .ldq g ty mode d a b c => Sys2Proof.Machine.execLdq g ty mode d a b c s
  | .pref g l2 a off => Sys2Proof.Machine.execPref g l2 a off s
  | .sptest g pd a off => Sys2Proof.Machine.execSptest g pd a off s
  | .atom g op d a off b => Sys2Proof.Machine.execAtom g op d a off b s
  | .atoms g op d a off b => Sys2Proof.Machine.execAtoms g op d a off b s
  | .cas g ty d a off b c => Sys2Proof.Machine.execCas g ty d a off b c s
  | .red g op a off b => Sys2Proof.Machine.execRed g op a off b s
  | .atagg g op d a off b => Sys2Proof.Machine.execAtagg g op d a off b s
  | .fenceG g => Sys2Proof.Machine.execFenceG g s
  | .fenceS g => Sys2Proof.Machine.execFenceS g s
  | .fenceC g k d => Sys2Proof.Machine.execFenceC g k d s
  | .bar g b pd => Sys2Proof.Machine.execBar g b pd s
  | .barArrive g b => Sys2Proof.Machine.execBarArrive g b s
  | .barrierWaveRelease sheet gang => Sys2Proof.Machine.execBarrierWaveRelease sheet gang s
  | .barinit g b ext counts => Sys2Proof.Machine.execBarinit g b ext counts s
  | .barinv g b => Sys2Proof.Machine.execBarinv g b s
  | .qinit g q a => Sys2Proof.Machine.execQinit g q a s
  | .qpush g q a => Sys2Proof.Machine.execQpush g q a s
  | .qpop g q pd d => Sys2Proof.Machine.execQpop g q pd d s
  | .qtry g q pd d => Sys2Proof.Machine.execQtry g q pd d s
  | .qclose g q => Sys2Proof.Machine.execQclose g q s
  | .fopen g d a => Sys2Proof.Machine.execFopen g d a s
  | .fclose g a => Sys2Proof.Machine.execFclose g a s
  | .folioClose ctx slot => Sys2Proof.Machine.execFolioClose ctx slot s
  | .launch g d a => Sys2Proof.Machine.execLaunch g d a s
  | .mma g ty acc z a b c => Sys2Proof.Machine.execMma g ty acc z a b c s
  | .accz g k => Sys2Proof.Machine.execAccz g k s
  | .accrdV g k d => Sys2Proof.Machine.execAccrdV g k d s
  | .accrdSp g k a off => Sys2Proof.Machine.execAccrdSp g k a off s
  | .accrdT g t d => Sys2Proof.Machine.execAccrdT g t d s
  | .accwrV g k a => Sys2Proof.Machine.execAccwrV g k a s
  | .accwrSp g k a off => Sys2Proof.Machine.execAccwrSp g k a off s
  | .accwrT g t a => Sys2Proof.Machine.execAccwrT g t a s
  | .forkM g disp => Sys2Proof.Machine.execForkM g disp s
  | .forkC g disp => Sys2Proof.Machine.execForkC g disp s
  | .rdvThread g which d => Sys2Proof.Machine.execRdvThread g which d s
  | .rdvSequencer g => Sys2Proof.Machine.execRdvSequencer g s
  | .mmat g ty acc z ta tb oa ob => Sys2Proof.Machine.execMmat g ty acc z ta tb oa ob s
  | .mvsScale g c p ta tb ofs => Sys2Proof.Machine.execMvsScale g c p ta tb ofs s
  | .mvsSt g c ta ofs => Sys2Proof.Machine.execMvsSt g c ta ofs s
  | .mvsStbf g c ta ofs => Sys2Proof.Machine.execMvsStbf g c ta ofs s
  | .mvsLd g c ta ofs => Sys2Proof.Machine.execMvsLd g c ta ofs s
  | .cpl g dir size dst src => Sys2Proof.Machine.execCpl g dir size dst src s
  | .cptIn g rec line org => Sys2Proof.Machine.execCptIn g rec line org s
  | .cptOut g rec line org cnt => Sys2Proof.Machine.execCptOut g rec line org cnt s
  | .copyCompletion id => Sys2Proof.Machine.execCopyCompletion id s
  | .ownEng g t ofs => Sys2Proof.Machine.execOwnEng g t ofs s
  | .ownThr g t ofs => Sys2Proof.Machine.execOwnThr g t ofs s
  | .residOpen g prio d a b => Sys2Proof.Machine.execResidOpen g prio d a b s
  | .residPrio g prio d a => Sys2Proof.Machine.execResidPrio g prio d a s
  | .residClose g d a => Sys2Proof.Machine.execResidClose g d a s
  | .nxch g dir imm => Sys2Proof.Machine.execNxch g dir imm s
  | .nred g op group imm => Sys2Proof.Machine.execNred g op group imm s
  | .nbc g group root imm => Sys2Proof.Machine.execNbc g group root imm s
  | .collectiveCompletion id => Sys2Proof.Machine.execCollectiveCompletion id s
  | .emit g slot a b c => Sys2Proof.Machine.execEmit g slot a b c s
  | .emitend g slot a => Sys2Proof.Machine.execEmitend g slot a s
  | .primitivePacket id => Sys2Proof.Machine.execPrimitivePacket id s
  | .closeMarker id => Sys2Proof.Machine.execCloseMarker id s
  | .rasteriseGroup die ctx slot => Sys2Proof.Machine.execRasteriseGroup die ctx slot s
  | .drawAdvance ctx slot => Sys2Proof.Machine.execDrawAdvance ctx slot s
  | .sysrd g num wide d => Sys2Proof.Machine.execSysrd g num wide d s
  | .syswr g num wide a => Sys2Proof.Machine.execSyswr g num wide a s
  | .syswrTtb g a => Sys2Proof.Machine.execSyswrTtb g a s
  | .syswrCeil g a => Sys2Proof.Machine.execSyswrCeil g a s
  | .eret g => Sys2Proof.Machine.execEret g s
  | .tlbinvPage g a => Sys2Proof.Machine.execTlbinvPage g a s
  | .tlbinvRange g a b => Sys2Proof.Machine.execTlbinvRange g a b s
  | .tlbinvCtx g => Sys2Proof.Machine.execTlbinvCtx g s
  | .invrep g a => Sys2Proof.Machine.execInvrep g a s
  | .invrepRange g a b => Sys2Proof.Machine.execInvrepRange g a b s
  | .replicaConversion ctx page => Sys2Proof.Machine.execReplicaConversion ctx page s
  | .ctxsaveCopy g d a => Sys2Proof.Machine.execCtxsaveCopy g d a s
  | .ctxsavePark g d a => Sys2Proof.Machine.execCtxsavePark g d a s
  | .ctxload g d a => Sys2Proof.Machine.execCtxload g d a s
  | .halt g a => Sys2Proof.Machine.execHalt g a s
  | .wdclr g => Sys2Proof.Machine.execWdclr g s
  | .stamp g a => Sys2Proof.Machine.execStamp g a s
  | .asyncErrorDelivery sheet => Sys2Proof.Machine.execAsyncErrorDelivery sheet s
  | .deadlockWatchdog ctx => Sys2Proof.Machine.execDeadlockWatchdog ctx s
  | .externalWaitTimeout sheet gang => Sys2Proof.Machine.execExternalWaitTimeout sheet gang s
  | .supervisorWatchdog sheet gang => Sys2Proof.Machine.execSupervisorWatchdog sheet gang s
  | .weightWindowOpen cluster => Sys2Proof.Machine.execWeightWindowOpen cluster s
  | .placeSheet die => Sys2Proof.Machine.execPlaceSheet die s
  | .stealRequest die => Sys2Proof.Machine.execStealRequest die s
  | .stealRetry die => Sys2Proof.Machine.execStealRetry die s
  | .restoreListPass die sheet => Sys2Proof.Machine.execRestoreListPass die sheet s
  | .preemptionRequest die => Sys2Proof.Machine.execPreemptionRequest die s
  | .drainTimeout sheet => Sys2Proof.Machine.execDrainTimeout sheet s
  | .save sheet => Sys2Proof.Machine.execSave sheet s
  | .flush sheet => Sys2Proof.Machine.execFlush sheet s
  | .sheetRetire sheet => Sys2Proof.Machine.execSheetRetire sheet s
  | .launchRetire launch => Sys2Proof.Machine.execLaunchRetire launch s
  | .rollback sheet gang consumed => Sys2Proof.Machine.execRollback sheet gang consumed s
  | .blotterSweep bad => Sys2Proof.Machine.execBlotterSweep bad s
  | .eccReencode region bad => Sys2Proof.Machine.execEccReencode region bad s
  | .countersignReplay audit => Sys2Proof.Machine.execCountersignReplay audit s
  | .pageWalk ctx cluster page => Sys2Proof.Machine.execPageWalk ctx cluster page s
  | .migrationCutover id => Sys2Proof.Machine.execMigrationCutover id s
  | .boostIntervalBoundary die => Sys2Proof.Machine.execBoostIntervalBoundary die s
  | .permitRefill die => Sys2Proof.Machine.execPermitRefill die s
  | .retentionEntry cluster => Sys2Proof.Machine.execRetentionEntry cluster s
  | .retentionWake cluster => Sys2Proof.Machine.execRetentionWake cluster s
  | .powerOn r => Sys2Proof.Machine.execPowerOn r s
  | .claim h body => Sys2Proof.Machine.execClaim h body s
  | .heartbeat h body => Sys2Proof.Machine.execHeartbeat h body s
  | .handover h body => Sys2Proof.Machine.execHandover h body s
  | .leaseLapse => Sys2Proof.Machine.execLeaseLapse s
  | .status h body => Sys2Proof.Machine.execStatus h body s
  | .attest h body => Sys2Proof.Machine.execAttest h body s
  | .notices h body => Sys2Proof.Machine.execNotices h body s
  | .partCreate h body => Sys2Proof.Machine.execPartCreate h body s
  | .partEnd h body => Sys2Proof.Machine.execPartEnd h body s
  | .ctxCreate h body => Sys2Proof.Machine.execCtxCreate h body s
  | .ctxEnd h body => Sys2Proof.Machine.execCtxEnd h body s
  | .stewardLaunch h body => Sys2Proof.Machine.execStewardLaunch h body s
  | .preempt h body => Sys2Proof.Machine.execPreempt h body s
  | .keyLoad h body => Sys2Proof.Machine.execKeyLoad h body s
  | .keyClear h body => Sys2Proof.Machine.execKeyClear h body s
  | .keyGrant h body => Sys2Proof.Machine.execKeyGrant h body s
  | .replicate h body => Sys2Proof.Machine.execReplicate h body s
  | .migrate h body => Sys2Proof.Machine.execMigrate h body s
  | .region h body => Sys2Proof.Machine.execRegion h body s
  | .clset h body => Sys2Proof.Machine.execClset h body s
  | .checkpoint h body => Sys2Proof.Machine.execCheckpoint h body s
  | .restore h body => Sys2Proof.Machine.execRestore h body s
  | .reset h body => Sys2Proof.Machine.execReset h body s
  | .rdmaWrite rkey va data => Sys2Proof.Machine.execRdmaWrite rkey va data s
  | .rdmaRead rkey va len => Sys2Proof.Machine.execRdmaRead rkey va len s
  | .linkUnreachable device => Sys2Proof.Machine.execLinkUnreachable device s
  | .reAdmission who => Sys2Proof.Machine.execReAdmission who s
  | .checkpointComplete id => Sys2Proof.Machine.execCheckpointComplete id s

end Sys2Proof.Machine
end

