-- ==== Sys2Proof/Machine/Place.lean ====
section
/-! DEFINITION. The step of an issue in progress, and a program placed in the package from outside (log entry 2). -/

namespace Sys2Proof.Machine

/-- The issue in progress: fetch, and pass a pad, take a trap, or execute the instruction (R181, R194, R380). -/
def issueStep (s : State) : Host.Outcome State Fault Refusal :=
  match s.site with
  | none => .next { s with issue := none }
  | some c =>
    match s.fetch c with
    | (.pad, s) => .next (s.skipPad c)
    | (.trap t x, s) => .next (s.fetchTrap c t x)
    | (.instr i, s) => exec i s

/-! ### A placed instruction: one die, one cluster, one context of three pages, one launch of one sheet of one gang -/

/-- Physical addresses of the placed package: root table, level-1 table, level-2 table, and pages 0 to 2. -/
def placedRoot : Nat := 131072
def placedL1 : Nat := 262144
def placedL2 : Nat := 393216
def placedPage (n : Nat) : Nat := 1048576 + 65536 * n

/-- The leaf of placed page `n`: page 0 is data, page 1 is code, page 2 is the supervisor's. -/
def placedLeaf (n : Nat) : Leaf :=
  { pa := placedPage n, pl := 1, cm := false, xs := false, ro := false, x := n == 1, u := n != 2, key := 0, block := false
    entryPa := placedL2 + 16 * n }
/-- Its entry's first word (R413). -/
def placedEntry (n : Nat) : Nat := 11 + (if n == 1 then 256 else 0) + (if n != 2 then 512 else 0)

/-- An entry's 16 bytes in memory. -/
def putEntry (m : Store Byte) (at_ lo pa : Nat) : Store Byte := putBytes at_ ((toBytesLE 8 lo ++ toBytesLE 8 pa).map some) m

/-- Memory with the tables and the code block. -/
def placedMem (m : Store Byte) (code : List Byte) : Store Byte :=
  let m := putEntry (putEntry m placedRoot 1 placedL1) placedL1 1 placedL2
  let m := (List.range 3).foldl (fun m n => putEntry m (placedL2 + 16 * n) (placedEntry n) (placedPage n)) m
  putBytes (placedPage 1 + 128) (code.map some) m

/-- The context. -/
def placedCtx : Context :=
  { part := 0, svec := 65536, tfrm := 131072, ttb := placedRoot, ceil := 3, cmax := 3, rank := 0
    tlb := (List.range 3).map fun n => (0, n, placedLeaf n), near := (List.range 3).map fun n => (0, n, placedLeaf n) }
/-- The launch: KADDR is the start of page 1. -/
def placedLaunch (code : List Byte) (seq : Bool) : Launch :=
  { ctx := 0, kaddr := 65536, entry := 128, mseq := (if seq then 128 else 0), mseqN := (if seq then 1 else 0), cseq := 0, cseqN := 0
    gwid := 16, T := 16, pool := 65796, dpc := 0, audit := false, fmt := [], const := [], patches := []
    gx := 0, gy := 0, gz := 0, prio := 0, cpv := false, caddr := 0, deps := [], submitClk := 0, eligible := some 0, left := 1
    queued := false, code := [(0, 65664, code)] }
/-- The gang: 16 threads at the code block, at S for a system instruction. -/
def placedGang (atS : Bool) : Gang :=
  { threads := (List.range 16).map fun l => (l, { pc := 128, clock := 0 }), atS := atS }
/-- The sheet. -/
def placedSheet (atS seq : Bool) (tag : Nat) : Sheet :=
  { ctx := 0, launch := 0, index := 0, W := 16, T := 16, nv := 192, na := 16, spg := 1, pool := 65796, duct := 0, diexy := 0
    gangs := [(0, placedGang atS)], mseq := (if seq then { st := .running, pc := 128, starter := some 0 } else {})
    ivl := { tag := tag }, home := .on 0, order := 0, placedAt := 0, firstAt := 0, errAt := 100 * tickUs }

/-- A package that runs `word` next: a powered package of one die and one cluster, with a context, a launch, a sheet and
an issue at the instruction; a matrix sequencer issues what only a sequencer may execute. -/
def State.placed (s : State) (word : List Byte) : State :=
  let code := word ++ List.replicate (32 - word.length) 0
  let f := Fields.unpack (ofBytesLE word)
  let seq := f.opc == 0xD1 || f.opc == 0xD2 || (f.opc == 0xE1 && f.sub == 2)
  let atS := systemOpcode f.opc
  { s with
    mem := placedMem s.mem code
    dies := tabPut 0 { rank := 0, x := 0, y := 0 } s.dies
    clusters := tabPut 0 { die := 0, cx := 0, cy := 0, aw := 16, lgr := 128, lln := 16, igang := 0, ratio := 0, didt := 0 } s.clusters
    parts := tabPut 0 { x0 := 0, y0 := 0, x1 := 7, y1 := 5, winBase := 0, winSize := 0
                        ranges := [(0, 64000000000)], devices := [] } s.parts
    keys := tabPut 0 { key := some [], grants := 1 } s.keys
    ctxs := tabPut 0 placedCtx s.ctxs
    launches := tabPut 0 (placedLaunch code seq) s.launches
    sheets := tabPut 0 (placedSheet atS seq s.nextId) s.sheets
    nextId := s.nextId + 1
    steward := { s.steward with up := true }
    issue := some { sheet := 0, agent := (if seq then .seq .m else .gang 0), lanes := lanesBelow 16, pc := 128 } }

end Sys2Proof.Machine
end

