-- ==== Sys2Proof/Machine/Schedule.lean ====
section
/-! DEFINITION. What the package does between instructions (log entry 7): the steps of its units that can happen, the issue
cycles of its clusters, inputs, and the passing of time. Which of several things happens next is free (R9). -/

namespace Sys2Proof.Machine

/-! ### What is measured as time passes -/

/-- A condition that holds keeps the tick it began; one that does not has none. -/
def sinceWhen (holds : Bool) (old : Option Nat) (now : Nat) : Option Nat := if holds then some (old.getD now) else none

/-- Idle and waking clusters (R451). -/
def State.trackCluster (s : State) (k : Nat) (c : Cluster) : Cluster :=
  { c with idleAt := sinceWhen (!c.retained && s.idleCluster k) c.idleAt s.now
           wakeBy := if c.retained && s.wakes k then some (c.wakeBy.getD (s.now + 2 * tickUs)) else none }
/-- The wave releases that are due (R179): they follow everything else of their tick, so that gangs which become ready in one tick
leave in one sequence (R452). -/
def State.wavesDue (s : State) : List Instr :=
  (s.sheets.filter fun p => p.2.cluster?.isSome).flatMap fun p =>
    (p.2.gangs.filter fun g => !(g.2.lanesIn (TState.waveDue s.now)).isEmpty).map fun g => .barrierWaveRelease p.1 g.1
/-- Whether an offered sheet fits on no cluster of the die. -/
def State.unfit (s : State) (die : Nat) (o : Offer) : Bool := (s.bestCluster die o).isNone
/-- Offers that wait until they are placed (R408, R410), saved sheets that fit nowhere (R409), and a distributor that is dry no
longer (R406). -/
def State.trackDie (s : State) (k : Nat) (d : Die) : Die :=
  let all := s.offers k
  let held := d.waiting.filter fun w => all.contains w.1
  { d with
    waiting := held ++ ((all.filter fun o => !(held.any (·.1 == o)) && s.unfit k o).map fun o => (o, s.now))
    asked := d.asked.filter fun a => all.contains a.offer
    restore := d.restore.map fun r => if s.unfit k (.saved r.1) then r else (r.1, s.now)
    steal := if s.dry k then d.steal else .none }
/-- Errors of a context that no sheet can take any more go to the penholder (R388). -/
def State.reportErrs (s : State) : State :=
  (s.ctxs.filter fun c => !c.2.errs.isEmpty && !s.canDeliver c.1).foldl (fun s c =>
    (c.2.errs.foldl (fun s e => s.notice 2 c.1 e.code 0 e.addr) s).modCtx c.1 fun x => { x with errs := [] }) s
/-- What the package measures and keeps, brought up to the present. -/
def State.track (s : State) : State :=
  let s := s.reportErrs.dropPriors
  { s with
    ctxs := tabMap (fun k c => { c with blockedAt := sinceWhen (s.ctxBlocked k) c.blockedAt s.now }) s.ctxs
    clusters := tabMap s.trackCluster s.clusters
    dies := tabMap s.trackDie s.dies }

/-! ### Steps of the units -/

/-- Whether a step of a unit can be taken. -/
def State.can (s : State) (i : Instr) : Bool :=
  match exec i s with
  | .next _ => true
  | _ => false

/-- Every resident sheet with its number. -/
def State.placed? (s : State) : List (Nat × Sheet) := s.sheets.filter fun p => p.2.cluster?.isSome
/-- Every gang of a resident sheet: sheet, gang number and gang. -/
def State.gangsHere (s : State) : List (Nat × Nat × Gang) := s.placed?.flatMap fun p => p.2.gangs.map fun g => (p.1, g.1, g.2)

/-- Whether a gang's nap has reached the last moment of its end (R223). -/
def Gang.napLate (g : Gang) (now : Nat) : Bool :=
  g.threads.any fun p => match p.2.st with | .nap u => u + 1000 * tickNs ≤ now | _ => false
/-- Whether a cluster must wake now (R451, R223). -/
def State.mustWake (s : State) (k : Nat) (c : Cluster) : Bool :=
  (c.wakeBy.any fun t => t ≤ s.now) || (s.napOn k).any fun u => u ≤ s.now

/-- The steps that happen at their time: time does not pass while one can be taken. -/
def State.timely (s : State) : List Instr :=
  let gangs : List Instr := s.gangsHere.flatMap fun p =>
    [.externalWaitTimeout p.1 p.2.1, .supervisorWatchdog p.1 p.2.1]
  let naps : List Instr := (s.gangsHere.filter fun p => p.2.2.napLate s.now).map fun p => .napEnd p.1 p.2.1
  let sheets : List Instr := s.placed?.flatMap fun p => [.asyncErrorDelivery p.1, .drainTimeout p.1]
  let ctxs : List Instr := s.ctxs.map fun c => .deadlockWatchdog c.1
  let dies : List Instr := s.dies.flatMap fun d => [.permitRefill d.1, .boostIntervalBoundary d.1, .stealRetry d.1]
  let passes : List Instr := s.dies.flatMap fun d => d.2.restore.map fun r => .restoreListPass d.1 r.1
  let lost : List Instr := s.sheets.filterMap fun p =>
    p.2.loss.map fun x => .rollback p.1 ((x.map (·.1.gang)).getD ((p.2.gangs.map (·.1)).headD 0)) x.isSome
  let windows : List Instr := s.clusters.map fun c => .weightWindowOpen c.1
  let wakes : List Instr := (s.clusters.filter fun c => s.mustWake c.1 c.2).map fun c => .retentionWake c.1
  let rests : List Instr := s.clusters.map fun c => .retentionEntry c.1
  [rests, lost, gangs, naps, sheets, ctxs, dies, passes, windows, wakes, [.leaseLapse]].flatten

/-- The steps whose moment is an implementation figure (R472): each may be taken now or later. -/
def State.pending? (s : State) : List Instr :=
  let writes : List Instr := s.writes.map fun w => .writeAtHome w.1
  let copies : List Instr := s.copies.map fun c => .copyCompletion c.1
  let colls : List Instr := s.placed?.flatMap fun p => p.2.pend.map fun x => .collectiveCompletion x.id
  let folios : List Instr := s.ctxs.flatMap fun c => c.2.folios.map fun f => .folioClose c.1 f.1
  let draws : List Instr := s.ctxs.flatMap fun c => (List.range 4).map fun k => .drawAdvance c.1 k
  let packets : List Instr := s.packets.map fun p => .primitivePacket p.1
  let markers : List Instr := s.markers.map fun m => .closeMarker m.1
  let raster : List Instr := s.dies.flatMap fun d => d.2.raster.map fun r => .rasteriseGroup d.1 (r.1 / 4) (r.1 % 4)
  let replicas : List Instr := s.replicas.map fun r => .replicaConversion r.ctx r.page
  let moves : List Instr := s.migrations.map fun m => .migrationCutover m.1
  let dies : List Instr := s.dies.flatMap fun d => [.placeSheet d.1, .stealRequest d.1, .preemptionRequest d.1]
  let sheets : List Instr := s.placed?.flatMap fun p => [.save p.1, .flush p.1, .sheetRetire p.1]
  let launches : List Instr := s.launches.map fun l => .launchRetire l.1
  let audits : List Instr := s.audits.map fun a => .countersignReplay a.1
  let naps : List Instr := s.gangsHere.map fun p => .napEnd p.1 p.2.1
  let power : List Instr := s.clusters.flatMap fun c => [.retentionWake c.1, .eccReencode (.pool c.1) {}]
  let slices : List Instr := s.dies.flatMap fun d => d.2.ecc.map fun e => .eccReencode (.slice d.1 e.1) {}
  let saving : List Instr := (s.steward.saving.map fun c => Instr.checkpointComplete c.1).toList
  [writes, copies, colls, folios, draws, packets, markers, raster, replicas, moves, dies, sheets, launches, audits, naps, power,
    slices, saving].flatten

/-! ### Everything that can happen next -/

/-- Whether a sequencer issues: running, not waiting, its cluster clocked, its sheet neither killed nor with state lost (R322,
R430, R432, R451). -/
def State.seqReady (s : State) (h : Sheet) (k : SeqKind) : Bool :=
  (h.seq k).st == .running && (h.seq k).wait == .none && h.killed.isNone && h.loss.isNone && (h.seq k).issuedAt != some s.now
    && (h.cluster?.bind fun n => tabGet n s.clusters).any fun c => !c.retained
/-- The sequencers that may issue. -/
def State.sequencers (s : State) : List Happening :=
  s.placed?.flatMap fun p => ([SeqKind.m, SeqKind.c].filter (s.seqReady p.2)).map fun k => .sequencer p.1 k

/-- Whether the next input can be taken: commands wait while a checkpoint is written (R468), and until lost state is dealt with
(R430). -/
def State.inputReady (s : State) : Bool :=
  match s.inputs with
  | [] => false
  | .datagram _ :: _ => s.steward.saving.isNone && s.sheets.all (·.2.loss.isNone)
  | .event _ :: _ => true
  | .shadowLost _ :: _ => true

/-- The panel raises a thread's clock at an instruction boundary (R128; log entry 8): which thread's, and how far, is free. -/
def State.raiseSome (s : State) : State :=
  let ts := s.gangsHere.flatMap fun p => (p.2.2.threads.filter fun t => t.2.st != .exited).map fun t =>
    (p.1, p.2.1, t.1, t.2.clock)
  let s := { s with raisedAt := some s.now }
  match ts[s.free .clockRaise % ts.length]? with
  | none => s
  | some (sid, n, l, c) =>
    let by_ := s.drew.free .clockRaise % (timeEnd - c)
    s.drew.drew.modGang sid n fun q => q.raiseClock [l] (if c < timeEnd then c + by_ else c)

/-- What must happen before time passes. -/
def State.now? (s : State) : List Happening :=
  ((s.timely.filter s.can).map Happening.unit)
    ++ ((s.clusters.filter fun c => s.cycleDue c.1 c.2 && (c.2.windowLeft ≠ 0 || c.2.half)).map fun c => .cycle c.1)
    ++ ((s.due.filter fun d => d.2 ≤ s.now).map (·.1))
/-- What may happen now or later. -/
def State.later? (s : State) : List Happening :=
  ((s.pending?.filter s.can).map Happening.unit) ++ s.sequencers ++ (if s.inputReady then [.input] else [])
/-- What may happen now or later has a tick by which it happens, free when it becomes possible (R48, R472; log entry 70). -/
def State.setDue (s : State) : State :=
  let q := s.later?.foldl (fun (q : List (Happening × Nat) × State) h =>
    match s.due.find? fun d => d.1 == h with
    | some d => (q.1 ++ [d], q.2)
    | none => (q.1 ++ [(h, s.now + 1 + q.2.free .duration)], q.2.drew)) ([], s)
  { q.2 with due := q.1 }
/-- Everything that can happen next: time passes when nothing is due, and the panel raises a clock at most once a tick. Waves leave
when nothing else is due, and once the waves of a tick have left, time passes (R452; log entry 102). -/
def State.happenings (s : State) : List Happening :=
  let now := s.now?
  let waves := s.wavesDue
  if now.isEmpty && !waves.isEmpty then waves.map .unit
  else if now.isEmpty && s.clusters.any (fun c => c.2.wavesAt.1 == s.now && !c.2.wavesAt.2.isEmpty) then [.time]
  else
    now ++ (s.due.filter fun d => s.now < d.2).map (·.1) ++ (if now.isEmpty then [.time] else [])
      ++ (if s.gangsHere.isEmpty || s.raisedAt == some s.now then [] else [.raise])

/-! ### Time -/

/-- The ticks at which something a thread does or waits for falls due. -/
def threadTimes (ewl : Nat) (h : Sheet) (t : Thread) : List Nat :=
  (match t.st with
    | .nap u => [u, u + 1000 * tickNs, u - 2 * tickUs]
    | .wave a => [a]
    | _ => [])
    ++ (if ewl ≠ 0 && h.counted t.st == some false then [t.since + ewl * tickUs + 1] else [])
/-- The tick at which a gang's supervisor watchdog ends. -/
def watchdogTime (swd now : Nat) (g : Gang) : List Nat :=
  if g.atS && swd ≠ 0 then [now + (swd * tickUs + 1 - g.wdMeasure now)] else []
/-- The ticks of a resident sheet. -/
def State.sheetTimes (s : State) (h : Sheet) : List Nat :=
  let c := tabGet h.ctx s.ctxs
  let errs := (c.map fun c => !c.errs.isEmpty).getD false
  h.gangs.flatMap (fun g => watchdogTime ((c.map (·.swd)).getD 0) s.now g.2
      ++ g.2.threads.flatMap fun t => threadTimes ((c.map (·.ewl)).getD 0) h t.2)
    ++ (if errs then [h.errAt] else []) ++ (match h.request with | .drain t => [t] | _ => [])
    ++ [h.placedAt + ((c.map (·.plq)).getD 0) * tickUs + 1]
/-- The ticks of a die: interval boundary, steal retry, restore list, placement quanta. -/
def State.dieTimes (s : State) (d : Die) : List Nat :=
  [d.boostAt] ++ (match d.steal with | .resting t => [t] | _ => []) ++ d.restore.map (fun r => r.2 + 5 * tickUs)
    ++ d.waiting.flatMap fun w => [w.2 + s.offerPlq w.1, w.2 + s.offerPlq w.1 + 1]
/-- The ticks of a cluster. -/
def State.clusterTimes (s : State) (k : Nat) (c : Cluster) : List Nat :=
  (if c.retained || (s.residents k).isEmpty then [] else [c.nextAt]) ++ (c.idleAt.map (c.retainsAt k)).toList ++ c.wakeBy.toList

/-- The next tick at which something falls due; a nanosecond ahead when nothing does. -/
def State.nextTick (s : State) : Nat :=
  let all := s.placed?.flatMap (fun p => s.sheetTimes p.2) ++ s.dies.flatMap (fun d => s.dieTimes d.2)
    ++ s.clusters.flatMap (fun c => s.clusterTimes c.1 c.2) ++ s.ctxs.filterMap (fun c => c.2.blockedAt.map (· + deadlockTicks))
    ++ (if s.steward.pen.isSome then [s.steward.leaseEnd] else []) ++ s.due.map (·.2)
  ((all.filter (s.now < ·)).min?).getD (s.now + tickNs)

/-! ### The step between instructions -/

/-- Whether an instruction is an event from outside the package's own units. -/
def external (i : Instr) : Bool :=
  match i with
  | .rollback .. | .blotterSweep .. | .eccReencode .. | .rdmaWrite .. | .rdmaRead .. | .linkUnreachable .. | .reAdmission .. => true
  | _ => false

/-- The state a step leaves; the state itself where the step cannot be taken. -/
def settled (s : State) (o : Host.Outcome State Fault Refusal) : State :=
  match o with
  | .next t => t
  | _ => s

/-- The next input: a datagram at the command port (R465), or an event; what cannot be carried out has no effect. -/
def State.takeInput (s : State) : State :=
  match s.inputs with
  | [] => s
  | .datagram b :: rest =>
    match { s with inputs := rest }.port b with
    | (s, none) => s
    | (s, some i) => settled s (exec i s)
  | .event i :: rest =>
    let s := { s with inputs := rest }
    if external i then settled s (exec i s) else s
  | .shadowLost sheet :: rest => { s with inputs := rest, shadows := tabMod sheet (fun x => { x with bad := true }) s.shadows }

/-- Take one happening. -/
def State.happen (s : State) (h : Happening) : State :=
  match h with
  | .unit i => settled s (exec i s)
  | .cycle k => if (tabGet k s.clusters).any (·.half) then s.halfPass k else s.issueCycle k
  | .sequencer sid k => s.seqIssue sid k
  | .input => s.takeInput
  | .raise => s.raiseSome
  | .time => { s with now := s.nextTick }

/-- The next happening, free among those there are. -/
def State.choose (s : State) : Happening × State :=
  match s.happenings with
  | [] => (.time, s)
  | [h] => (h, s)
  | h :: hs => (((h :: hs)[s.free .nextEvent % (hs.length + 1)]?).getD h, s.drew)

/-- A step with no instruction in progress: bring-up, a pad, or the next happening. -/
def panelStep (s : State) : Host.Outcome State Fault Refusal :=
  if !s.steward.up then exec (.powerOn (Config.selfTest s.choices)) s
  else
    let s := s.track
    match s.padIssue with
    | some i => .next { s with issue := some i }
    | none =>
      let (h, s) := s.setDue.choose
      .next (s.happen h)

end Sys2Proof.Machine
end

