-- ==== Sys2Proof/Machine/Step.lean ====
section
/-! DEFINITION. One step of the panel, and the placing of an instruction where the next step fetches it. -/

namespace Sys2Proof.Machine

/-- One step: the issue in progress fetches and executes its instruction; without one, the panel takes the next of the
things that can happen (log entry 7). -/
def step (s : State) : Host.Outcome State Fault Refusal :=
  match s.issue with
  | some _ => issueStep s
  | none => panelStep s

/-- `s` with the instruction of the bits `w` placed where the next step fetches it (log entry 2). -/
def State.withFetchWord (s : State) (_nbits w : Nat) : State := s.placed (toBytesLE 16 w)

end Sys2Proof.Machine
end

