-- ==== Sys2Proof/Safety.lean ====
section
/-! DEFINITION. What a safe run is, and the terms the statements use: the form of memory, what an instruction that only
writes its issuer's registers leaves, and what a write of registers leaves. -/

namespace Sys2Proof.Machine

/-- Memory keeps its canonical form. -/
def State.memWf (s : State) : Prop := Memory.wf s.mem = true

/-- No context's logical time is exhausted, nor exhausts itself with this step (R128). -/
def State.quiet (s : State) : Prop := ∀ p ∈ s.ctxs, p.2.expired = false ∧ s.clockEnds p.1 = false

/-- A gang after an instruction left it registers `r`: its lanes of the list that run are at their next offset, its
scoreboard has the destinations from the lane cycle `at_` and has dropped those that are available in the present one, its register
cache holds what it used, and its meetings are settled (R25, R29, R63). -/
def Gang.moved (q : Gang) (lanes : List Nat) (i : Instr) (W lane at_ : Nat) (r : Regs) (next : Nat → Word) : Gang :=
  (Gang.cached { q.modThreads lanes fun l (t : Thread) => if t.st == TState.running then { t with pc := next l, again := none } else t with
      regs := r
      yielded := i.yields && q.yielded
      board := (q.board.filter fun (p : RegName × Nat) => lane ≤ p.2) ++ boardOf (i.dests W) at_ } W i).settle

/-- The package after an instruction that writes only its issuer's registers and moves its lanes: the issue is over, the
issuing gang or sequencer has moved on, a latency drawn for its result counts as drawn (R472), words it wrote whole are lost no longer
(R434), and nothing else of the package differs. -/
def State.moved (s : State) (c : Site) (i : Instr) (r : Regs) (next : Nat → Word) : State :=
  { s with
    issue := none
    choices := match c.agent with
      | .gang _ => if i.reaches then s.choices + 1 else s.choices
      | .seq _ => s.choices
    sheets := tabMod c.sid (fun h => Sheet.mended (match c.agent with
      | .gang g => { h with gangs := tabMod g (fun q => q.moved c.view.enabled i c.sh.W (s.laneOf c.sh) (s.resultAt c.sh i) r next) h.gangs }
      | .seq k => h.modSeq k fun (q : Seq) =>
        { q with regs := r, pc := if q.st == SeqSt.running then next 0 else q.pc + BitVec.ofNat 32 i.bytes }) c i) s.sheets }

/-- The same, its lanes at the next offset (R212). -/
def State.after (s : State) (c : Site) (i : Instr) (r : Regs) : State := s.moved c i r fun _ => c.next i

/-- The issue in progress is `c`'s, and the instruction passes the checks that come before every other. -/
def Starts (i : Instr) (s : State) (c : Site) : Prop := s.site = some c ∧ precheck i c = none

/-- The instruction completes: it writes only its issuer's registers, which `P` describes, and its lanes move to the next
offset. A context whose time is exhausted already ends with the step (R128). -/
def Runs (i : Instr) (s : State) (c : Site) (P : Regs → Prop) : Prop :=
  ∃ r, exec i s = .next (s.after c i r).reap ∧ P r

/-- The instruction passes the first checks and its guard is true in the lead lane (R213). -/
def Acts (i : Instr) (g : Guard) (s : State) (c : Site) : Prop := Starts i s c ∧ c.view.acts g = true

/-- The state an access to memory, scratchpad or a sheet object is made in: earlier writes of the issuing lanes have
their times (R130), and folios the gang is closing have closed (R138). -/
def State.drained (s : State) (c : Site) : State :=
  match c.agent with
  | .gang g => (s.drainLanes c.sid g c.view.lanes).closeFor c g
  | .seq _ => s

/-- The instruction passes the first checks in `s` and makes its accesses in `t`, where the issuer stands as `c`. -/
def Reaches (i : Instr) (s t : State) (c : Site) : Prop := ∃ b, Starts i s b ∧ t = s.drained b ∧ t.site = some c

/-- The same for an instruction that acts once for the gang, its guard true in the lead lane (R213). -/
def ActsOn (i : Instr) (g : Guard) (s t : State) (c : Site) : Prop := Reaches i s t c ∧ c.view.acts g = true

/-- The instruction completes with the effect `t`: its lanes move to the next offset (R212). -/
def Does (i : Instr) (s t : State) (c : Site) : Prop := exec i s = .next (t.finish c i)

/-- The instruction raises a trap at the issuer (R386, R326). -/
def Raises (i : Instr) (s t : State) (c : Site) (e : Trap) : Prop := exec i s = .next (t.raise c i e)

/-- `r'` is `r` but for the places named: vector registers by number and lane, uniform registers, and predicates by
number and lane. Tile descriptors, rejoin masks and accumulators are as before. -/
def Regs.but (r r' : Regs) (v : Nat → Nat → Prop) (u : Nat → Prop) (p : Fin 8 → Nat → Prop) : Prop :=
  (∀ n l, l < 64 → ¬ v n l → r'.vec n l = r.vec n l) ∧ (∀ n, ¬ u n → r'.uni n = r.uni n)
    ∧ (∀ q l, ¬ p q l → r'.predAt q l = r.predAt q l) ∧ r'.t = r.t ∧ r'.m = r.m ∧ r'.a = r.a

/-- A 32-bit result is written: in every active lane of a vector destination, or once, with the lead lane's value, into a
uniform one when the lead lane's guard is true (R53, R213). Nothing else is written. -/
def Writes32 (c : View) (g : Guard) (d : Reg) (f : Nat → Word) (r : Regs) : Prop :=
  match d with
  | .v n => (∀ l ∈ c.active g, r.vec n.val l = f l) ∧ c.regs.but r (fun m l => m = n.val ∧ l ∈ c.active g) (fun _ => False) fun _ _ => False
  | .s n => (c.acts g = true → r.uni n.val = f c.lead)
      ∧ c.regs.but r (fun _ _ => False) (fun m => m = n.val ∧ c.acts g = true) fun _ _ => False

/-- A 64-bit result is written to a pair, low word in the first register (R7). -/
def Writes64 (c : View) (g : Guard) (d : Reg) (f : Nat → DWord) (r : Regs) : Prop :=
  match d with
  | .v n => (∀ l ∈ c.active g, r.vec n.val l = (f l).setWidth 32 ∧ r.vec (n.val + 1) l = (f l).extractLsb' 32 32)
      ∧ c.regs.but r (fun m l => (m = n.val ∨ m = n.val + 1) ∧ l ∈ c.active g) (fun _ => False) fun _ _ => False
  | .s n => (c.acts g = true → r.uni n.val = (f c.lead).setWidth 32 ∧ r.uni (n.val + 1) = (f c.lead).extractLsb' 32 32)
      ∧ c.regs.but r (fun _ _ => False) (fun m => (m = n.val ∨ m = n.val + 1) ∧ c.acts g = true) fun _ _ => False

/-- A predicate is written in every active lane (R13); a write to p7 is ignored (R51). Nothing else is written. -/
def WritesPred (c : View) (g : Guard) (pd : Fin 8) (f : Nat → Bool) (r : Regs) : Prop :=
  (pd.val ≠ 7 → ∀ l ∈ c.active g, r.predAt pd l = f l)
    ∧ c.regs.but r (fun _ _ => False) (fun _ => False) fun q l => q = pd ∧ pd.val ≠ 7 ∧ l ∈ c.active g

/-- Words are written to a group of registers: in each lane of a vector destination, or once into a uniform one, from the
first of the lanes when there is one (R53, R280). Nothing else is written. -/
def WritesWords (c : View) (ls : List Nat) (d : Reg) (n : Nat) (f : Nat → List Word) (r : Regs) : Prop :=
  match d with
  | .v q => (∀ l ∈ ls, ∀ k < n, r.vec (q.val + k) l = (f l).getD k 0)
      ∧ c.regs.but r (fun m l => q.val ≤ m ∧ m < q.val + n ∧ l ∈ ls) (fun _ => False) fun _ _ => False
  | .s q => (∀ l, ls.head? = some l → ∀ k < n, r.uni (q.val + k) = (f l).getD k 0)
      ∧ c.regs.but r (fun _ _ => False) (fun m => q.val ≤ m ∧ m < q.val + n ∧ ls ≠ []) fun _ _ => False

/-- A value of 32 or 64 bits as the words of a register or a pair (R7). -/
def valueWords (wide : Bool) (x : Nat) : List Word :=
  if wide then [BitVec.ofNat 32 x, BitVec.ofNat 32 (x / 2 ^ 32)] else [BitVec.ofNat 32 x]

/-- The 256 elements of a fragment are written (R315, R318); no other register of the gang is. -/
def WritesFrag (r : Regs) (k : Nat) (f : Nat → Word) (r' : Regs) : Prop :=
  (∀ e < 256, r'.acc k e = f e) ∧ (∀ j ≠ k, ∀ e < 256, r'.acc j e = r.acc j e)
    ∧ r'.v = r.v ∧ r'.s = r.s ∧ r'.p = r.p ∧ r'.t = r.t ∧ r'.m = r.m

/-! ### Values and rounding -/

/-- The magnitude a code without its sign bit stands for (R65); the infinity's counts as the power of two next above the
finite magnitudes. -/
def Fmt.mag (f : Fmt) (k : Nat) : Rat :=
  let low : Int := 2 - 2 ^ (f.e - 1) - f.p
  if k < 2 ^ f.p then (k : Rat) * 2 ^ low else ((2 ^ f.p + k % 2 ^ f.p : Nat) : Rat) * 2 ^ (low + (k / 2 ^ f.p : Nat) - 1)
/-- A code with its sign bit cleared. -/
def Fmt.abs (f : Fmt) (w : Nat) : Nat := w % f.signBit
/-- Whether the sign bit is set. -/
abbrev Fmt.neg (f : Fmt) (w : Nat) : Prop := f.signBit ≤ w
/-- NaN (R65). -/
abbrev Fmt.isNan (f : Fmt) (w : Nat) : Prop := f.infBits < f.abs w
/-- An infinity (R65). -/
abbrev Fmt.isInf (f : Fmt) (w : Nat) : Prop := f.abs w = f.infBits
/-- A finite number, subnormals and zeros included (R65). -/
abbrev Fmt.isFin (f : Fmt) (w : Nat) : Prop := f.abs w < f.infBits
/-- A zero. -/
abbrev Fmt.isZero (f : Fmt) (w : Nat) : Prop := f.abs w = 0
/-- The exact value of a finite code (R65, R69). -/
def Fmt.val (f : Fmt) (w : Nat) : Rat := if f.signBit ≤ w then -f.mag (f.abs w) else f.mag (f.abs w)
/-- The sign bit of a product or quotient of two codes (R70). -/
def Fmt.signOf (f : Fmt) (a b : Nat) : Nat := if (f.signBit ≤ a ↔ f.signBit ≤ b) then 0 else f.signBit

/-- `m` is the code, without its sign bit, that a positive exact value is rounded to (R69): `lt x` says that the rational
`x` lies below the value and `gt x` that it lies above. To nearest, neither neighbour's half-way point is passed, and on one
the code is even; toward zero and downward the code is the largest finite one not above; upward the smallest not below. -/
def Fmt.Nearest (f : Fmt) (r : Rnd) (lt gt : Rat → Prop) (m : Nat) : Prop :=
  let half (k : Nat) : Rat := (f.mag k + f.mag (k + 1)) / 2
  match r with
  | .rn => m ≤ f.infBits ∧ (0 < m → lt (half (m - 1)) ∨ (¬gt (half (m - 1)) ∧ m % 2 = 0))
      ∧ (m < f.infBits → gt (half m) ∨ (¬lt (half m) ∧ m % 2 = 0))
  | .rz | .rm => m < f.infBits ∧ ¬gt (f.mag m) ∧ (m + 1 < f.infBits → gt (f.mag (m + 1)))
  | .rp => m ≤ f.infBits ∧ 0 < m ∧ lt (f.mag (m - 1)) ∧ (m < f.infBits → ¬lt (f.mag m))
/-- `w` is the code a nonzero rational is rounded to by a mode; a negative one by the mirrored mode (R68, R69). -/
def Fmt.Rounds (f : Fmt) (r : Rnd) (x : Rat) (w : Nat) : Prop :=
  (0 < x → f.Nearest r (· < x) (x < ·) w)
  ∧ (x < 0 → ∃ m, w = f.signBit + m
      ∧ f.Nearest (match r with | .rp => .rm | .rm => .rp | o => o) (· < -x) (-x < ·) m)
/-- The zero that an exact zero sum gives when its terms are not zeros of one sign (R70). -/
def Fmt.zeroSum (f : Fmt) (r : Rnd) : Nat := if r = .rm then f.signBit else 0

/-- `w` is A + B (R69, R70, R251). -/
def Fmt.IsSum (f : Fmt) (r : Rnd) (a b w : Nat) : Prop :=
  (f.isNan a ∨ f.isNan b → w = f.nanBits)
  ∧ (f.isInf a → f.isInf b → w = if a = b then a else f.nanBits)
  ∧ (f.isInf a → f.isFin b → w = a) ∧ (f.isFin a → f.isInf b → w = b)
  ∧ (f.isFin a → f.isFin b →
      (f.val a + f.val b ≠ 0 → f.Rounds r (f.val a + f.val b) w)
      ∧ (f.val a + f.val b = 0 → w = if a = b then a else f.zeroSum r))
/-- `w` is A × B (R69, R70, R251). -/
def Fmt.IsProduct (f : Fmt) (r : Rnd) (a b w : Nat) : Prop :=
  (f.isNan a ∨ f.isNan b ∨ (f.isInf a ∧ f.isZero b) ∨ (f.isZero a ∧ f.isInf b) → w = f.nanBits)
  ∧ (f.isInf a → (f.isInf b ∨ f.isFin b) → ¬f.isZero b → w = f.signOf a b + f.infBits)
  ∧ (f.isInf b → (f.isInf a ∨ f.isFin a) → ¬f.isZero a → w = f.signOf a b + f.infBits)
  ∧ (f.isFin a → f.isFin b →
      (f.val a * f.val b ≠ 0 → f.Rounds r (f.val a * f.val b) w) ∧ (f.val a * f.val b = 0 → w = f.signOf a b))
/-- `w` is A / B (R69, R70, R251). -/
def Fmt.IsQuotient (f : Fmt) (r : Rnd) (a b w : Nat) : Prop :=
  (f.isNan a ∨ f.isNan b ∨ (f.isInf a ∧ f.isInf b) ∨ (f.isZero a ∧ f.isZero b) → w = f.nanBits)
  ∧ (f.isInf a → f.isFin b → w = f.signOf a b + f.infBits)
  ∧ (f.isFin a → ¬f.isZero a → f.isZero b → w = f.signOf a b + f.infBits)
  ∧ (f.isFin a → f.isInf b → w = f.signOf a b)
  ∧ (f.isZero a → f.isFin b → ¬f.isZero b → w = f.signOf a b)
  ∧ (f.isFin a → ¬f.isZero a → f.isFin b → ¬f.isZero b → f.Rounds r (f.val a / f.val b) w)
/-- `w` is A × B + C, rounded once (R69, R70, R251). -/
def Fmt.IsFused (f : Fmt) (r : Rnd) (a b c w : Nat) : Prop :=
  let undefined := f.isNan a ∨ f.isNan b ∨ f.isNan c ∨ (f.isInf a ∧ f.isZero b) ∨ (f.isZero a ∧ f.isInf b)
  let p := f.signOf a b + f.infBits
  (undefined → w = f.nanBits)
  ∧ (¬undefined → (f.isInf a ∨ f.isInf b) → w = if f.isInf c ∧ c ≠ p then f.nanBits else p)
  ∧ (f.isFin a → f.isFin b → f.isInf c → w = c)
  ∧ (f.isFin a → f.isFin b → f.isFin c →
      let x := f.val a * f.val b + f.val c
      (x ≠ 0 → f.Rounds r x w)
      ∧ (x = 0 → w = if (f.isZero a ∨ f.isZero b) ∧ c = f.signOf a b then c else f.zeroSum r))
/-- `w` is the root of A (R69, R70, R251). -/
def Fmt.IsRoot (f : Fmt) (r : Rnd) (a w : Nat) : Prop :=
  (f.isNan a ∨ (f.neg a ∧ ¬f.isZero a) → w = f.nanBits) ∧ (f.isZero a ∨ a = f.infBits → w = a)
  ∧ (0 < a → a < f.infBits → f.Nearest r (fun y => y < 0 ∨ y * y < f.val a) (fun y => 0 ≤ y ∧ f.val a < y * y) w)
/-- `w` is the operand of two that FMIN or FMAX chooses (R252): `low` says which. -/
def Fmt.IsChoice (f : Fmt) (low : Bool) (a b w : Nat) : Prop :=
  let rank (x : Nat) : Int := if f.signBit ≤ x then -1 - (f.abs x : Int) else x
  (f.isNan a → f.isNan b → w = f.nanBits) ∧ (f.isNan a → ¬f.isNan b → w = b) ∧ (¬f.isNan a → f.isNan b → w = a)
  ∧ (¬f.isNan a → ¬f.isNan b →
      (w = a ∨ w = b) ∧ (if low then rank w ≤ rank a ∧ rank w ≤ rank b else rank a ≤ rank w ∧ rank b ≤ rank w))
/-- `n` is the integer a rational is rounded to by a mode (R68, R72, R253). -/
def RoundsToInt (r : Rnd) (x : Rat) (n : Int) : Prop :=
  match r with
  | .rn => (2 * x - 1 < 2 * n ∧ (2 * n : Rat) < 2 * x + 1) ∨ ((2 * x - 1 = 2 * n ∨ (2 * n : Rat) = 2 * x + 1) ∧ n % 2 = 0)
  | .rz => if 0 ≤ x then (n : Rat) ≤ x ∧ x < n + 1 else x ≤ n ∧ (n : Rat) - 1 < x
  | .rp => x ≤ n ∧ (n : Rat) - 1 < x
  | .rm => (n : Rat) ≤ x ∧ x < n + 1
/-- `w` is the code of format `f` that a code `a` of format `h` converts to (R72). -/
def Fmt.Converts (h f : Fmt) (r : Rnd) (a w : Nat) : Prop :=
  (h.isNan a → w = f.nanBits) ∧ (h.isInf a → w = if h.signBit ≤ a then f.signBit + f.infBits else f.infBits)
  ∧ (h.isZero a → w = if h.signBit ≤ a then f.signBit else 0) ∧ (h.isFin a → ¬h.isZero a → f.Rounds r (h.val a) w)
/-- `n` is the integer of the range from `lo` to `hi` that a code converts to (R72). -/
def Fmt.ConvertsToInt (f : Fmt) (r : Rnd) (lo hi : Int) (a : Nat) (n : Int) : Prop :=
  (f.isNan a → n = 0) ∧ (f.isInf a → n = if f.signBit ≤ a then lo else hi)
  ∧ (f.isFin a → ∃ k, RoundsToInt r (f.val a) k ∧ n = max lo (min k hi))
/-- `w` is the code an integer converts to (R72). -/
def Fmt.OfInt (f : Fmt) (r : Rnd) (n : Int) (w : Nat) : Prop := (n = 0 → w = 0) ∧ (n ≠ 0 → f.Rounds r (n : Rat) w)

/-! ### NF codes -/

/-- The sign bit of a code, 0 in an unsigned format (R78). -/
def NFWord.S (f : NFWord) (c : Nat) : Nat := if f.sgn = 1 then c / 2 ^ (f.wid - 1) % 2 else 0
/-- The exponent field of a code (R78). -/
def NFWord.E (f : NFWord) (c : Nat) : Nat := c / 2 ^ (f.wid - f.sgn - f.exb) % 2 ^ f.exb
/-- The mantissa field of a code (R78). -/
def NFWord.M (f : NFWord) (c : Nat) : Nat := c % 2 ^ (f.wid - f.sgn - f.exb)
/-- A code that is NaN (R78). -/
abbrev NFWord.isNan (f : NFWord) (c : Nat) : Prop := f.exb ≠ 0 ∧ f.E c = 2 ^ f.exb - 1
  ∧ ((f.spec = 1 ∧ f.M c = 2 ^ (f.wid - f.sgn - f.exb) - 1) ∨ (f.spec = 2 ∧ f.M c ≠ 0))
/-- A code that is an infinity (R78). -/
abbrev NFWord.isInf (f : NFWord) (c : Nat) : Prop := f.exb ≠ 0 ∧ f.spec = 2 ∧ f.E c = 2 ^ f.exb - 1 ∧ f.M c = 0
/-- A finite code of the format. -/
abbrev NFWord.isFin (f : NFWord) (c : Nat) : Prop := c < 2 ^ f.wid ∧ ¬f.isNan c ∧ ¬f.isInf c
/-- The exact magnitude of a finite code (R78). -/
def NFWord.mag (f : NFWord) (c : Nat) : Rat :=
  let m : Int := f.wid - f.sgn - f.exb
  if f.exb = 0 then (f.M c : Rat) * 2 ^ (-f.bias)
  else if f.E c = 0 then (f.M c : Rat) * 2 ^ (1 - f.bias - m)
  else ((2 ^ (f.wid - f.sgn - f.exb) + f.M c : Nat) : Rat) * 2 ^ (f.E c - f.bias - m)
/-- The code of +max: the largest finite magnitude, positive (R78). -/
abbrev NFWord.isMax (f : NFWord) (c : Nat) : Prop := f.isFin c ∧ f.S c = 0 ∧ ∀ k < 2 ^ f.wid, f.isFin k → f.mag k ≤ f.mag c
/-- A well-formed format word (R77). -/
def NFWord.WellFormed (f : NFWord) : Prop :=
  2 ≤ f.wid ∧ f.wid ≤ 8 ∧ f.sgn + f.exb ≤ f.wid ∧ f.spec ≠ 3 ∧ f.blk ≠ 3 ∧ f.sck ≤ 1 ∧ f.prnd ≠ 3 ∧ f.top = 0
  ∧ (f.blk = 0 ↔ f.sck = 0) ∧ (f.exb = 0 → f.spec = 0) ∧ (f.spec = 1 → 1 ≤ f.exb ∧ 2 ≤ f.wid - f.sgn)
  ∧ (f.spec = 2 → 2 ≤ f.exb ∧ 1 ≤ f.wid - f.sgn - f.exb)
  ∧ ∀ k < 2 ^ f.wid, f.isFin k → f.mag k < 2 ^ 128 ∧ (f.mag k ≠ 0 → 2 ^ (-149 : Int) ≤ f.mag k)
/-- `code` is what the binary32 code `a` packs to under scale byte `s` (R80, R82). -/
def NFWord.Packs (f : NFWord) (s a code : Nat) : Prop :=
  let nan := fmt32.isNan a ∨ s = 255
  let minus := 2 ^ 31 ≤ a
  let nanCode := 2 ^ (f.wid - f.sgn) - 1
  let signed (c : Nat) : Nat := if minus then c + 2 ^ (f.wid - 1) else c
  let far : Prop := (f.prnd = 0 ∧ f.spec = 2 ∧ f.isInf code ∧ code < 2 ^ f.wid ∧ (f.S code = 1 ↔ minus))
    ∨ (f.prnd = 0 ∧ f.spec = 1 ∧ code = nanCode)
    ∨ ((f.prnd ≠ 0 ∨ f.spec = 0) ∧ ∃ c < 2 ^ f.wid, f.isMax c ∧ code = signed c)
  (nan → if f.spec = 0 then f.isMax code else code = nanCode)
  ∧ (¬nan → f.sgn = 0 → minus → code = 0)
  ∧ (¬nan → (f.sgn = 1 ∨ ¬minus) → fmt32.isInf a → far)
  ∧ (¬nan → (f.sgn = 1 ∨ ¬minus) → fmt32.isFin a →
      let x := fmt32.mag (fmt32.abs a) * 2 ^ (127 - (s : Int))
      let m : Int := f.wid - f.sgn - f.exb
      -- The grid step at x, and x rounded on the grid.
      ∀ (b q : Int) (k : Nat), (x ≠ 0 → 2 ^ b ≤ x ∧ x < 2 ^ (b + 1)) → (x = 0 → b = 1 - f.bias) →
        q = (if f.exb = 0 then -f.bias else max b (1 - f.bias) - m) →
        RoundsToInt (if f.prnd = 1 then .rz else .rn) (x * 2 ^ (-q)) k →
        let y : Rat := (k : Rat) * 2 ^ q
        ((∃ c < 2 ^ f.wid, f.isFin c ∧ y ≤ f.mag c) → f.isFin code ∧ f.mag code = y ∧ (f.sgn = 1 → (f.S code = 1 ↔ minus)))
        ∧ ((∀ c < 2 ^ f.wid, f.isFin c → f.mag c < y) → far))
/-- `w` is the binary32 value of a code under scale byte `s` (R78, R82). -/
def NFWord.Unpacks (f : NFWord) (s c w : Nat) : Prop :=
  (f.isNan c ∨ s = 255 → w = 0x7FC00000)
  ∧ (¬f.isNan c → s ≠ 255 → f.isInf c → w = 0x7F800000 + 2 ^ 31 * f.S c)
  ∧ (¬f.isNan c → s ≠ 255 → ¬f.isInf c →
      let x := f.mag c * 2 ^ ((s : Int) - 127)
      (x = 0 → w = 2 ^ 31 * f.S c) ∧ (x ≠ 0 → fmt32.Rounds .rn (if f.S c = 1 then -x else x) w))
/-- `x` is the scale of a block of binary32 values (R82, R267). -/
def NFWord.IsScale (f : NFWord) (vs : List Nat) (x : Nat) : Prop :=
  let size (a : Nat) : Rat := fmt32.mag (fmt32.abs a)
  ((∃ a ∈ vs, ¬fmt32.isFin a) → x = 255)
  ∧ ((∀ a ∈ vs, fmt32.isZero a) → x = 127)
  ∧ ((∀ a ∈ vs, fmt32.isFin a) → ∀ (b e : Int) (c : Nat), (∃ a ∈ vs, 2 ^ b ≤ size a) → (∀ a ∈ vs, size a < 2 ^ (b + 1)) →
      c < 2 ^ f.wid → f.isMax c → 2 ^ e ≤ f.mag c → f.mag c < 2 ^ (e + 1) → (x : Int) = max 0 (min (b - e + 127) 254))

/-! ### Matrix products -/

/-- One exact product within a group (R83): not a number, infinite, its sign, and its value where it is finite. -/
structure Term where
  nan : Prop
  inf : Prop
  minus : Prop
  val : Rat
/-- The product of two codes of a format (R83). -/
def Fmt.term (f : Fmt) (a b : Nat) : Term where
  nan := f.isNan a ∨ f.isNan b ∨ (f.isInf a ∧ f.isZero b) ∨ (f.isZero a ∧ f.isInf b)
  inf := f.isInf a ∨ f.isInf b
  minus := ¬(f.signBit ≤ a ↔ f.signBit ≤ b)
  val := f.val a * f.val b
/-- The product of a code of one format word and a code of another; bits of a container above WID are ignored (R79, R83). -/
def NFWord.term (f h : NFWord) (x y : Nat) : Term :=
  let a := x % 2 ^ f.wid
  let b := y % 2 ^ h.wid
  { nan := f.isNan a ∨ h.isNan b ∨ (f.isInf a ∧ ¬h.isInf b ∧ h.mag b = 0) ∨ (¬f.isInf a ∧ f.mag a = 0 ∧ h.isInf b)
    inf := f.isInf a ∨ h.isInf b
    minus := f.S a ≠ h.S b
    val := if f.S a = h.S b then f.mag a * h.mag b else -(f.mag a * h.mag b) }
/-- `w` is the binary32 code of the exact sum of a group of products, rounded once to nearest (R83). -/
def Term.Sum (ts : List Term) (w : Nat) : Prop :=
  let plus := ∃ t ∈ ts, t.inf ∧ ¬t.minus
  let less := ∃ t ∈ ts, t.inf ∧ t.minus
  let nan := (∃ t ∈ ts, t.nan) ∨ (plus ∧ less)
  let x : Rat := ts.foldr (fun t y => t.val + y) 0
  (nan → w = 0x7FC00000) ∧ (¬nan → plus → w = 0x7F800000) ∧ (¬nan → less → w = 0xFF800000)
  ∧ (¬nan → ¬plus → ¬less → (x ≠ 0 → fmt32.Rounds .rn x w)
      ∧ (x = 0 → (∀ t ∈ ts, t.minus ∧ t.val = 0) → w = 2 ^ 31) ∧ (x = 0 → ¬(∀ t ∈ ts, t.minus ∧ t.val = 0) → w = 0))
/-- `w` is the element a matrix product leaves, from row `A` and column `B` of raw elements, the element `c` before and the
k extent `K` (R84, R85, R87): for the 16-bit formats in groups of four, each rounded once and added once. -/
def MatElement (ty : MatTy) (b K : Nat) (fa fb : NFWord) (A B : Nat → Nat) (c w : Word) : Prop :=
  let ints (value : Nat → Int) : Prop := w = BitVec.ofInt 32 ((List.range K).foldr (fun k y => value (A k) * value (B k) + y) (c.toNat : Int))
  let halves (f : Fmt) : Prop := ∃ acc : Nat → Nat, acc 0 = c.toNat ∧ acc (K / 4) = w.toNat ∧ ∀ n < K / 4, ∃ t,
    Term.Sum ((List.range 4).map fun j => f.term (A (4 * n + j)) (B (4 * n + j))) t ∧ fmt32.IsSum .rn (acc n) t (acc (n + 1))
  match ty with
  | .f16 => halves fmt16
  | .bf16 => halves fmtB16
  | .i8 | .i4 => ints fun x => if 2 ^ (b - 1) ≤ x then (x : Int) - 2 ^ b else x
  | .n8 | .n4 => ints fun x => x
  | .nf => Term.Sum ((List.range K).map fun k => fa.term fb (A k) (B k)) w.toNat

end Sys2Proof.Machine
end

