-- ==== Sys2Proof/Certificates/Slice0/Obligations.lean ====
section
/-! DEFINITION. What the model claims of the Sahorn P48, rule by rule of the spec. -/

open Sys2Proof Sys2Proof.Machine Host

/-- For every issue that passes the first checks, IADD, ISUB and IADD3 complete; a .b64 result is A ± B modulo 2^64,
an IADD3 result A + B + C modulo 2^32, any other is the exact A ± B by type, clamped to the type's bounds with .sat
and modulo 2^32 without; IMUL completes with A × B modulo 2^32, IMULH with the high word of the exact product taken by
type, IMAD with A × B + C modulo 2^32, and IMADW with the product of A and B by type plus the pair C, modulo 2^64; the
destination is written in the active lanes, and no other register, predicate, byte of memory or part of the package
changes but the program counters, the scoreboard and the meetings. -/
def Obligations.IntegerSums : Prop :=
  (∀ (s : State) (c : Site) (g : Guard) (d : Reg) (x y z : Operand),
      (∀ sat, Starts (.iadd g .b64 sat d x y) s c → Runs (.iadd g .b64 sat d x y) s c
        (Writes64 c.view g d fun l => c.view.src64 l x + c.view.src64 l y))
      ∧ (∀ sat, Starts (.isub g .b64 sat d x y) s c → Runs (.isub g .b64 sat d x y) s c
        (Writes64 c.view g d fun l => c.view.src64 l x - c.view.src64 l y))
      ∧ (∀ t, Starts (.iadd3 g t d x y z) s c → Runs (.iadd3 g t d x y z) s c
        (Writes32 c.view g d fun l => c.view.src32 l x + c.view.src32 l y + c.view.src32 l z))
      ∧ (∀ sat, Starts (.iadd g .i32 sat d x y) s c → Runs (.iadd g .i32 sat d x y) s c
        (Writes32 c.view g d fun l =>
          let r := (c.view.src32 l x).toInt + (c.view.src32 l y).toInt
          BitVec.ofInt 32 (if sat then max (-2 ^ 31) (min r (2 ^ 31 - 1)) else r)))
      ∧ (∀ sat, Starts (.isub g .i32 sat d x y) s c → Runs (.isub g .i32 sat d x y) s c
        (Writes32 c.view g d fun l =>
          let r := (c.view.src32 l x).toInt - (c.view.src32 l y).toInt
          BitVec.ofInt 32 (if sat then max (-2 ^ 31) (min r (2 ^ 31 - 1)) else r)))
      ∧ (∀ sat, Starts (.iadd g .n32 sat d x y) s c → Runs (.iadd g .n32 sat d x y) s c
        (Writes32 c.view g d fun l =>
          let r : Int := (c.view.src32 l x).toNat + (c.view.src32 l y).toNat
          BitVec.ofInt 32 (if sat then max 0 (min r (2 ^ 32 - 1)) else r)))
      ∧ (∀ sat, Starts (.isub g .n32 sat d x y) s c → Runs (.isub g .n32 sat d x y) s c
        (Writes32 c.view g d fun l =>
          let r : Int := (c.view.src32 l x).toNat - (c.view.src32 l y).toNat
          BitVec.ofInt 32 (if sat then max 0 (min r (2 ^ 32 - 1)) else r)))
      ∧ (∀ t, t ≠ AddTy.b64 → Starts (.iadd g t false d x y) s c → Runs (.iadd g t false d x y) s c
        (Writes32 c.view g d fun l => c.view.src32 l x + c.view.src32 l y))
      ∧ ∀ t, t ≠ AddTy.b64 → Starts (.isub g t false d x y) s c → Runs (.isub g t false d x y) s c
        (Writes32 c.view g d fun l => c.view.src32 l x - c.view.src32 l y))
  ∧ (∀ (s : State) (c : Site) (g : Guard) (t : IntTy) (d : Reg) (x y z : Operand),
      (Starts (.imul g t d x y) s c → Runs (.imul g t d x y) s c
        (Writes32 c.view g d fun l => c.view.src32 l x * c.view.src32 l y))
      ∧ (Starts (.imulh g t d x y) s c → Runs (.imulh g t d x y) s c
        (Writes32 c.view g d fun l => match t with
          | .i32 => (((c.view.src32 l x).signExtend 64 * (c.view.src32 l y).signExtend 64 : DWord)).extractLsb' 32 32
          | .n32 => (((c.view.src32 l x).setWidth 64 * (c.view.src32 l y).setWidth 64 : DWord)).extractLsb' 32 32))
      ∧ (Starts (.imad g t d x y z) s c → Runs (.imad g t d x y z) s c
        (Writes32 c.view g d fun l => c.view.src32 l x * c.view.src32 l y + c.view.src32 l z))
      ∧ (Starts (.imadw g t d x y z) s c → Runs (.imadw g t d x y z) s c
        (Writes64 c.view g d fun l => (match t with
          | .i32 => (c.view.src32 l x).signExtend 64 * (c.view.src32 l y).signExtend 64
          | .n32 => (c.view.src32 l x).setWidth 64 * (c.view.src32 l y).setWidth 64) + c.view.src64 l z)))

/-- For every issue that passes the first checks, IDIV completes with the quotient truncated toward zero and IREM with
A minus B times that quotient, both modulo 2^32; a zero divisor gives all ones and A; −2^31 by −1 gives −2^31 and 0;
both are of heavy weight; the destination is written in the active lanes and nothing else changes. -/
def Obligations.IntegerQuotients : Prop :=
  (∀ (s : State) (c : Site) (g : Guard) (t : IntTy) (d : Reg) (x y : Operand),
    (Starts (.idiv g t d x y) s c → Runs (.idiv g t d x y) s c
      (Writes32 c.view g d fun l => divWord t (c.view.src32 l x) (c.view.src32 l y)))
    ∧ (Starts (.irem g t d x y) s c → Runs (.irem g t d x y) s c
      (Writes32 c.view g d fun l => remWord t (c.view.src32 l x) (c.view.src32 l y))))
  ∧ (∀ a b : Word, b ≠ 0 →
      divWord .n32 a b = a / b ∧ remWord .n32 a b = a % b
      ∧ divWord .i32 a b = BitVec.ofInt 32 (a.toInt.tdiv b.toInt)
      ∧ ∀ t, remWord t a b = a - b * divWord t a b)
  ∧ (∀ (g : Guard) (t : IntTy) (d : Reg) (x y : Operand),
      (Instr.idiv g t d x y).weight = 3 ∧ (Instr.irem g t d x y).weight = 3)
  ∧ (∀ (t : IntTy) (a : Word), divWord t a 0 = BitVec.allOnes 32 ∧ remWord t a 0 = a)
  ∧ divWord .i32 0x80000000 0xFFFFFFFF = 0x80000000 ∧ remWord .i32 0x80000000 0xFFFFFFFF = 0

/-- For every issue that passes the first checks, IMIN and IMAX complete with the smaller and larger of A and B by
type, CLAMP with min(max(A, B), C) by type, IABS with |A| and INEG with −A modulo 2^32, the two giving 0x7FFFFFFF for
0x80000000 with .sat; the destination is written in the active lanes and nothing else changes. -/
def Obligations.IntegerOrder : Prop :=
  ∀ (s : State) (c : Site) (g : Guard) (t : IntTy) (d : Reg) (x y z : Operand),
    let low (a b : Word) : Word := match t with
      | .i32 => if BitVec.slt b a then b else a
      | .n32 => if BitVec.ult b a then b else a
    let high (a b : Word) : Word := match t with
      | .i32 => if BitVec.slt a b then b else a
      | .n32 => if BitVec.ult a b then b else a
    (Starts (.imin g t d x y) s c → Runs (.imin g t d x y) s c
      (Writes32 c.view g d fun l => low (c.view.src32 l x) (c.view.src32 l y)))
    ∧ (Starts (.imax g t d x y) s c → Runs (.imax g t d x y) s c
      (Writes32 c.view g d fun l => high (c.view.src32 l x) (c.view.src32 l y)))
    ∧ (Starts (.clamp g t d x y z) s c → Runs (.clamp g t d x y z) s c
      (Writes32 c.view g d fun l => low (high (c.view.src32 l x) (c.view.src32 l y)) (c.view.src32 l z)))
    ∧ (∀ sat, Starts (.iabs g sat d x) s c → Runs (.iabs g sat d x) s c
      (Writes32 c.view g d fun l =>
        let a := c.view.src32 l x
        if sat = true ∧ a = 0x80000000 then 0x7FFFFFFF else if a.msb then -a else a))
    ∧ ∀ sat, Starts (.ineg g sat d x) s c → Runs (.ineg g sat d x) s c
      (Writes32 c.view g d fun l =>
        let a := c.view.src32 l x
        if sat = true ∧ a = 0x80000000 then 0x7FFFFFFF else -a)

/-- For every issue that passes the first checks, the five logic instructions complete with their bitwise function of
A and B, and SHL, SHR, SAR and ROT with A shifted or rotated by the unsigned amount B, a shift of the width or more
giving zeros or, for SAR, the sign; .b32 writes a word and .b64 a pair in the active lanes and nothing else changes.
-/
def Obligations.LogicAndShifts : Prop :=
  ∀ (s : State) (c : Site) (g : Guard) (d : Reg) (x y : Operand),
    let word (i : Instr) (f : Word → Word → Word) : Prop := Starts i s c → Runs i s c
      (Writes32 c.view g d fun l => f (c.view.src32 l x) (c.view.src32 l y))
    let pair (i : Instr) (f : DWord → DWord → DWord) : Prop := Starts i s c → Runs i s c
      (Writes64 c.view g d fun l => f (c.view.src64 l x) (c.view.src64 l y))
    let shift (i : Instr) (f : DWord → Nat → DWord) : Prop := Starts i s c → Runs i s c
      (Writes64 c.view g d fun l => f (c.view.src64 l x) (c.view.src32 l y).toNat)
    word (.and g .b32 d x y) (· &&& ·) ∧ pair (.and g .b64 d x y) (· &&& ·)
    ∧ word (.or g .b32 d x y) (· ||| ·) ∧ pair (.or g .b64 d x y) (· ||| ·)
    ∧ word (.xor g .b32 d x y) (· ^^^ ·) ∧ pair (.xor g .b64 d x y) (· ^^^ ·)
    ∧ word (.andn g .b32 d x y) (fun a b => a &&& ~~~b) ∧ pair (.andn g .b64 d x y) (fun a b => a &&& ~~~b)
    ∧ word (.orn g .b32 d x y) (fun a b => a ||| ~~~b) ∧ pair (.orn g .b64 d x y) (fun a b => a ||| ~~~b)
    ∧ word (.shl g .b32 d x y) (fun a n => if n.toNat ≥ 32 then 0 else a <<< n.toNat)
    ∧ shift (.shl g .b64 d x y) (fun a n => if n ≥ 64 then 0 else a <<< n)
    ∧ word (.shr g .b32 d x y) (fun a n => if n.toNat ≥ 32 then 0 else a >>> n.toNat)
    ∧ shift (.shr g .b64 d x y) (fun a n => if n ≥ 64 then 0 else a >>> n)
    ∧ word (.sar g .b32 d x y) (fun a n => a.sshiftRight (min n.toNat 31))
    ∧ shift (.sar g .b64 d x y) (fun a n => a.sshiftRight (min n 63))
    ∧ word (.rot g .b32 d x y) (fun a n => a.rotateLeft (n.toNat % 32))
    ∧ shift (.rot g .b64 d x y) (fun a n => a.rotateLeft (n % 64))

/-- For every issue that passes the first checks, FSH completes with the 64-bit value A, B shifted by min(C, 32); BFX
with the field of A that the control names; BFI with that field of A laid into C; POPC, CLZ and CTZ with the counts of
one bits and of zero bits above the highest and below the lowest one bit; BREV with the bits reversed; BYTESEL with
four selected bytes; LEA with A + e × 2^sc modulo 2^64; the destination is written in the active lanes and nothing
else changes. BFX and BFI take the position from control bits 7:0 and the length, at most 32, from bits 15:8 and
ignore the rest; bit k of an extracted field is bit pos + k of A extended by sign or zeros, and above the field the
sign or zeros; BFI keeps C outside the field and takes A's bit k − pos inside; each byte of a BYTESEL result follows
its selector byte's mode. -/
def Obligations.FunnelAndBitFields : Prop :=
  (∀ (s : State) (c : Site) (g : Guard) (d : Reg) (x y z : Operand),
      let one (i : Instr) (f : Word → Word) : Prop := Starts i s c → Runs i s c
        (Writes32 c.view g d fun l => f (c.view.src32 l x))
      let two (i : Instr) (f : Word → Word → Word) : Prop := Starts i s c → Runs i s c
        (Writes32 c.view g d fun l => f (c.view.src32 l x) (c.view.src32 l y))
      let three (i : Instr) (f : Word → Word → Word → Word) : Prop := Starts i s c → Runs i s c
        (Writes32 c.view g d fun l => f (c.view.src32 l x) (c.view.src32 l y) (c.view.src32 l z))
      three (.fsh g false d x y z) (fun a b n => ((a ++ b : DWord) >>> min n.toNat 32).setWidth 32)
      ∧ three (.fsh g true d x y z) (fun a b n => ((a ++ b : DWord) <<< min n.toNat 32).extractLsb' 32 32)
      ∧ (∀ t, two (.bfx g t d x y) (bitField t))
      ∧ three (.bfi g d x y z) bitInsert
      ∧ one (.popc g d x) (fun a => BitVec.ofNat 32 ((List.range 32).countP a.getLsbD))
      ∧ one (.clz g d x) (fun a => BitVec.ofNat 32 (((List.range 32).find? fun k => a.getLsbD (31 - k)).getD 32))
      ∧ one (.ctz g d x) (fun a => BitVec.ofNat 32 (((List.range 32).find? a.getLsbD).getD 32))
      ∧ one (.brev g d x) BitVec.reverse
      ∧ three (.bytesel g d x y z) byteSelect
      ∧ ∀ (sc : Fin 8) (sx : Bool), Starts (.lea g sc sx d x y) s c → Runs (.lea g sc sx d x y) s c
          (Writes64 c.view g d fun l => c.view.src64 l x
            + (if sx then (c.view.src32 l y).signExtend 64 else (c.view.src32 l y).setWidth 64) <<< sc.val))
  ∧ (∀ (a b : Word) (k : Nat), k < 32 →
    let pos := (b.setWidth 8).toNat
    let len := min (b.extractLsb' 8 8).toNat 32
    (bitField .n32 a b).getLsbD k = (decide (k < len) && a.getLsbD (pos + k))
    ∧ (bitField .i32 a b).getLsbD k =
        (decide (len ≠ 0) && (let j := pos + (if k < len then k else len - 1); if j < 32 then a.getLsbD j else a.msb)))
  ∧ (∀ (a b c : Word) (k : Nat), k < 32 →
    let pos := (b.setWidth 8).toNat
    let len := min (b.extractLsb' 8 8).toNat 32
    (bitInsert a b c).getLsbD k = (if pos ≤ k ∧ k < pos + len then a.getLsbD (k - pos) else c.getLsbD k))
  ∧ ∀ (a b c : Word) (i : Nat), i < 4 →
    let n := ((c >>> (8 * i)).setWidth 3).toNat
    let x : Byte := ((b ++ a : DWord) >>> (8 * n)).setWidth 8
    ((byteSelect a b c) >>> (8 * i)).setWidth 8 = (match (((c >>> (8 * i + 3)).setWidth 2 : BitVec 2)).toNat with
      | 0 => x
      | 1 => (0 : Byte)
      | 2 => if x.msb then 255 else 0
      | _ => 255)

/-- For every issue that passes the first checks, ICMP completes with the comparison of A and B by type, combined with
a predicate; PCOMB with the truth table's bit for three predicates; PSETM with the lane's bit of a pair or a rejoin
mask; PMOV with a predicate as 1 or 0, with whether a register is nonzero, or with a rejoin mask copied to a pair; SEL
with A or B as its predicate says; each writes its destination in the active lanes, ignoring a write to p7, and
nothing else changes. -/
def Obligations.Predicates : Prop :=
  ∀ (s : State) (c : Site) (g : Guard),
    (∀ t cmp comb pd x y, Starts (.icmp g t cmp comb pd x y) s c → Runs (.icmp g t cmp comb pd x y) s c
      (WritesPred c.view g pd fun l =>
        let a := c.view.src32 l x
        let b := c.view.src32 l y
        let lt := match t with | .i32 => BitVec.slt a b | .n32 => BitVec.ult a b
        let r := match cmp with
          | .eq => a == b
          | .ne => a != b
          | .lt => lt
          | .le => lt || a == b
          | .gt => !(lt || a == b)
          | .ge => !lt
        match comb with
          | .none => r
          | .and q => r && c.view.regs.predAt q l
          | .or q => r || c.view.regs.predAt q l
          | .xor q => r ^^ c.view.regs.predAt q l))
    ∧ (∀ p neg d x y, Starts (.sel g .b32 p neg d x y) s c → Runs (.sel g .b32 p neg d x y) s c
      (Writes32 c.view g (.v d) fun l => if (c.view.regs.predAt p l ^^ neg) then c.view.src32 l x else c.view.src32 l y))
    ∧ (∀ p neg d x y, Starts (.sel g .b64 p neg d x y) s c → Runs (.sel g .b64 p neg d x y) s c
      (Writes64 c.view g (.v d) fun l => if (c.view.regs.predAt p l ^^ neg) then c.view.src64 l x else c.view.src64 l y))
    ∧ (∀ pd pa pb pc tt, Starts (.pcomb g pd pa pb pc tt) s c → Runs (.pcomb g pd pa pb pc tt) s c
      (WritesPred c.view g pd fun l => tt.getLsbD ((c.view.regs.predAt pa l).toNat + 2 * (c.view.regs.predAt pb l).toNat
        + 4 * (c.view.regs.predAt pc l).toNat)))
    ∧ (∀ pd a, Starts (.psetm g pd a) s c → Runs (.psetm g pd a) s c
      (WritesPred c.view g pd fun l => (c.view.regs.uni (a.val + 1) ++ c.view.regs.uni a.val).getLsbD l))
    ∧ (∀ pd k, Starts (.psetmMask g pd k) s c → Runs (.psetmMask g pd k) s c
      (WritesPred c.view g pd fun l => (c.view.regs.rejoin k.val).getLsbD l))
    ∧ (∀ p d, Starts (.pmovToReg g p d) s c → Runs (.pmovToReg g p d) s c
      (Writes32 c.view g (.v d) fun l => if c.view.regs.predAt p l then 1 else 0))
    ∧ (∀ pd a, Starts (.pmovToPred g pd a) s c → Runs (.pmovToPred g pd a) s c
      (WritesPred c.view g pd fun l => c.view.reg32 l a != 0))
    ∧ ∀ k d, Starts (.pmovFromMask g k d) s c → Runs (.pmovFromMask g k d) s c
      (Writes64 c.view g (.s d) fun _ => c.view.regs.rejoin k.val)

/-- For every issue that passes the first checks, MOV completes with A, a word or a pair; MOVI with the immediate, a
32-bit one sign-extended into a .b64 pair; MOVS with the special of its number as the table of R60 lists it: lane,
width, gang, sheet index, sheet coordinates, ductus number, die, CYC, ETIME and WSTRETCH in nanoseconds, the lane's
clock, the counts of vector registers and accumulators, the class in effect, the scratchpad's size; the destination is
written in the active lanes, or once when uniform, and nothing else changes. -/
def Obligations.Moves : Prop :=
  ∀ (s : State) (c : Site) (g : Guard) (d : Reg),
    let word (i : Instr) (f : Nat → Word) : Prop := Starts i s c →
      ∃ r, exec i s = .next (s.after c i r).reap ∧ Writes32 c.view g d f r
    let pair (i : Instr) (f : Nat → DWord) : Prop := Starts i s c →
      ∃ r, exec i s = .next (s.after c i r).reap ∧ Writes64 c.view g d f r
    (∀ a, word (.mov g .b32 d a) fun l => c.view.src32 l a)
    ∧ (∀ a, pair (.mov g .b64 d a) fun l => c.view.src64 l a)
    ∧ (∀ w, word (.movi g .b32 d (.imm w)) fun _ => w)
    ∧ (∀ w, pair (.movi g .b64 d (.imm w)) fun _ => w.signExtend 64)
    ∧ (∀ w, pair (.movi g .b64 d (.imm64 w)) fun _ => w)
    ∧ word (.movs g 0 d) (fun l => BitVec.ofNat 32 l)
    ∧ word (.movs g 1 d) (fun _ => BitVec.ofNat 32 c.sh.W)
    ∧ word (.movs g 2 d) (fun _ => BitVec.ofNat 32 c.gang)
    ∧ pair (.movs g 3 d) (fun _ => BitVec.ofNat 64 c.sh.index)
    ∧ (∀ q : Launch, tabGet c.sh.launch s.launches = some q → pair (.movs g 4 d) fun _ =>
        let x := c.sh.index % (q.gx + 1)
        let y := c.sh.index / (q.gx + 1) % (q.gy + 1)
        let z := c.sh.index / ((q.gx + 1) * (q.gy + 1))
        BitVec.ofNat 64 (x + 2 ^ 32 * y + 2 ^ 48 * z))
    ∧ word (.movs g 5 d) (fun _ => BitVec.ofNat 32 c.sh.duct)
    ∧ word (.movs g 6 d) (fun _ => BitVec.ofNat 32 c.sh.diexy)
    ∧ pair (.movs g 7 d) (fun _ => BitVec.ofNat 64 c.sh.cyc)
    ∧ pair (.movs g 8 d) (fun _ => BitVec.ofNat 64 (s.now / tickNs))
    ∧ pair (.movs g 9 d) (fun _ => BitVec.ofNat 64 (c.sh.wstretch / tickNs))
    ∧ (∀ n q, c.agent = .gang n → tabGet n c.sh.gangs = some q →
        pair (.movs g 10 d) fun l => BitVec.ofNat 64 (((tabGet l q.threads).map Thread.clock).getD 0))
    ∧ word (.movs g 11 d) (fun _ => BitVec.ofNat 32 c.sh.nv)
    ∧ word (.movs g 12 d) (fun _ => BitVec.ofNat 32 c.sh.na)
    ∧ (∀ x : Context, tabGet c.sh.ctx s.ctxs = some x → word (.movs g 13 d) fun _ => BitVec.ofNat 32 (min c.sh.preq x.ceil))
    ∧ word (.movs g 14 d) (fun _ => BitVec.ofNat 32 c.sh.spadSize)
    ∧ ∀ num, Starts (.movs g num d) s c → ∃ r, exec (.movs g num d) s = .next (s.after c (.movs g num d) r).reap

/-- For every issue that passes the first checks, FADD, FSUB, FMUL, FDIV, FFMA, FSQRT, FRCP and FSCALE complete, and
the destination receives in the active lanes the exact sum, difference, product, quotient, fused product and sum,
root, reciprocal or scaled value of the sources, rounded once into binary32 by the mode, with NaN, the infinities and
the sign of a zero as R70 and R251 give; FRND completes with the value rounded to an integral one, its sign kept, and
FFRACT with A minus its floor rounded to nearest, 0x3F7F_FFFF where that would be 1.0. Nothing else changes. -/
def Obligations.FloatArithmetic : Prop :=
  ∀ (s : State) (c : Site) (g : Guard) (r : Rnd) (d : Reg) (x y z : Operand),
    let f := fmt32
    let A (l : Nat) : Nat := (c.view.src32 l x).toNat
    let B (l : Nat) : Nat := (c.view.src32 l y).toNat
    let C (l : Nat) : Nat := (c.view.src32 l z).toNat
    let gives (i : Instr) (ok : Nat → Nat → Prop) : Prop := Starts i s c →
      ∃ (out : Nat → Word) (r : Regs), exec i s = .next (s.after c i r).reap ∧ (∀ l, ok l (out l).toNat) ∧ Writes32 c.view g d out r
    gives (.fadd g r d x y) (fun l w => f.IsSum r (A l) (B l) w)
    ∧ gives (.fsub g r d x y) (fun l w => f.IsSum r (A l) (if B l < 2 ^ 31 then B l + 2 ^ 31 else B l - 2 ^ 31) w)
    ∧ gives (.fmul g r d x y) (fun l w => f.IsProduct r (A l) (B l) w)
    ∧ gives (.ffma g r d x y z) (fun l w => f.IsFused r (A l) (B l) (C l) w)
    ∧ gives (.fdiv g r d x y) (fun l w => f.IsQuotient r (A l) (B l) w)
    ∧ gives (.frcp g r d x) (fun l w => f.IsQuotient r 0x3F800000 (A l) w)
    ∧ gives (.fsqrt g r d x) (fun l w => f.IsRoot r (A l) w)
    ∧ gives (.fscale g r d x y) (fun l w => (f.isNan (A l) → w = 0x7FC00000) ∧ (f.isZero (A l) ∨ f.isInf (A l) → w = A l)
        ∧ (f.isFin (A l) → ¬f.isZero (A l) → f.Rounds r (f.val (A l) * 2 ^ (c.view.src32 l y).toInt) w))
    ∧ gives (.frnd g r d x) (fun l w => (f.isNan (A l) → w = 0x7FC00000) ∧ (f.isInf (A l) → w = A l)
        ∧ (f.isFin (A l) → f.isFin w ∧ (f.neg w ↔ f.neg (A l)) ∧ ∃ n : Int, f.val w = n ∧ RoundsToInt r (f.val (A l)) n))
    ∧ gives (.ffract g d x) (fun l w => (¬f.isFin (A l) → w = 0x7FC00000)
        ∧ (f.isFin (A l) → let y := f.val (A l) - (f.val (A l)).floor
            (y = 0 → w = 0) ∧ (y ≠ 0 → ∃ m, f.Rounds .rn y m ∧ w = if m = 0x3F800000 then 0x3F7FFFFF else m)))

/-- For every binary format of R65, mode and positive exact value x, given exactly or as a bound with a nonzero part
below it, the rounded code is at most the infinity's, counting the infinity as the power of two next above the finite
values; under RNE no code is nearer and a tie goes to the even code; under RZ and toward −∞ it is the largest finite
code not above x; toward +∞ the smallest code not below x, or the infinity. A negative value rounds to the same
magnitude with toward +∞ and toward −∞ exchanged, with the sign bit set. A zero keeps its sign. -/
def Obligations.FloatRounding : Prop :=
  ∀ f ∈ [fmt32, fmt16, fmtB16, fmt64], ∀ (r : Rnd) (m : Nat) (e : Int) (sticky : Bool) (x : Rat),
    let value (k : Nat) : Rat :=
      if k < 2 ^ f.p then (k : Rat) * 2 ^ f.low else ((2 ^ f.p + k % 2 ^ f.p : Nat) : Rat) * 2 ^ (f.low + (k / 2 ^ f.p : Nat) - 1)
    let away (k : Nat) : Rat := if value k ≤ x then x - value k else value k - x
    let flip : Rnd := match r with | .rp => .rm | .rm => .rp | o => o
    let w := f.round r false m e sticky
    (if sticky then 2 ^ (f.p + 2) ≤ m ∧ (m : Rat) * 2 ^ e < x ∧ x < ((m + 1 : Nat) : Rat) * 2 ^ e
      else 0 < m ∧ x = (m : Rat) * 2 ^ e) →
    w ≤ f.infBits
    ∧ (match r with
      | .rn => ∀ k ≤ f.infBits, k ≠ w → away w < away k ∨ (away w = away k ∧ w % 2 = 0)
      | .rz | .rm => w < f.infBits ∧ value w ≤ x ∧ (w + 1 < f.infBits → x < value (w + 1))
      | .rp => (w = f.infBits ∨ x ≤ value w) ∧ 0 < w ∧ value (w - 1) < x)
    ∧ f.round r true m e sticky = f.signBit + f.round flip false m e sticky
    ∧ (∀ neg, f.round r neg 0 e false = if neg then f.signBit else 0)

/-- For every issue that passes the first checks, FMIN and FMAX complete with the other operand when one is NaN, with
the canonical NaN when both are, and else with the smaller or larger operand, −0 below +0, in the active lanes, and
nothing else changes. -/
def Obligations.FloatChoice : Prop :=
  ∀ (s : State) (c : Site) (g : Guard) (d : Reg) (x y : Operand),
    let nan (a : Word) : Bool := BitVec.ult 0x7F800000 (a &&& 0x7FFFFFFF)
    let rank (a : Word) : Int := if a.msb then -1 - ((a &&& 0x7FFFFFFF).toNat : Int) else a.toNat
    let pick (low : Bool) (a b : Word) : Word :=
      if nan a ∧ nan b then 0x7FC00000 else if nan a then b else if nan b then a
      else if low then (if rank b < rank a then b else a) else (if rank a < rank b then b else a)
    (Starts (.fmin g d x y) s c → Runs (.fmin g d x y) s c
      (Writes32 c.view g d fun l => pick true (c.view.src32 l x) (c.view.src32 l y)))
    ∧ (Starts (.fmax g d x y) s c → Runs (.fmax g d x y) s c
      (Writes32 c.view g d fun l => pick false (c.view.src32 l x) (c.view.src32 l y)))

/-- For every issue that passes the first checks, FCMP completes with its comparison of A and B as binary32 values, −0
equal to +0, combined with a predicate, a write to p7 ignored; FCLASS completes with the one bit that names the class
of the binary32 value, or of the chosen half of a pair; only the active lanes are written and nothing else changes. -/
def Obligations.FloatTests : Prop :=
  ∀ (s : State) (c : Site) (g : Guard) (x y : Operand),
    let nan (a : Word) : Bool := BitVec.ult 0x7F800000 (a &&& 0x7FFFFFFF)
    let rank (a : Word) : Int := if a.msb then -((a &&& 0x7FFFFFFF).toNat : Int) else a.toNat
    (∀ cmp comb pd, Starts (.fcmp g cmp comb pd x y) s c → Runs (.fcmp g cmp comb pd x y) s c
      (WritesPred c.view g pd fun l =>
        let a := c.view.src32 l x
        let b := c.view.src32 l y
        let u := nan a || nan b
        let r : Bool := match cmp with
          | .eq => !u && rank a == rank b
          | .ne => !u && rank a != rank b
          | .lt => !u && rank a < rank b
          | .le => !u && rank a ≤ rank b
          | .gt => !u && rank b < rank a
          | .ge => !u && rank b ≤ rank a
          | .ueq => u || rank a == rank b
          | .une => u || rank a != rank b
          | .ult => u || rank a < rank b
          | .ule => u || rank a ≤ rank b
          | .ugt => u || rank b < rank a
          | .uge => u || rank b ≤ rank a
          | .num => !u
          | .nan => u
        match comb with
          | .none => r
          | .and q => r && c.view.regs.predAt q l
          | .or q => r || c.view.regs.predAt q l
          | .xor q => r ^^ c.view.regs.predAt q l))
    ∧ ∀ ty hi d, Starts (.fclass g ty hi d x) s c → Runs (.fclass g ty hi d x) s c
      (Writes32 c.view g d fun l =>
        let half := if hi then (c.view.src32 l x) >>> 16 else (c.view.src32 l x) &&& 0xFFFF
        let (a, p, e) : Word × Nat × Nat := match ty with
          | .f32 => (c.view.src32 l x, 23, 8)
          | .f16 => (half, 10, 5)
          | .bf16 => (half, 7, 8)
        let m := a.toNat % 2 ^ p
        let ex := a.toNat / 2 ^ p % 2 ^ e
        let neg := a.toNat / 2 ^ (p + e) % 2 = 1
        if ex = 2 ^ e - 1 then (if m ≠ 0 then 0x100 else if neg then 0x001 else 0x080)
        else if ex ≠ 0 then (if neg then 0x002 else 0x040)
        else if m ≠ 0 then (if neg then 0x004 else 0x020) else if neg then 0x008 else 0x010)

/-- For every issue that passes the first checks, FRSQ completes with 1 over the exact root rounded once to nearest,
+0 for +∞, an infinity for a zero, NaN for NaN and negative values; FEXP2, FLOG2, FSIN and FCOS complete with a value
of their one operand alone; NaN gives the canonical NaN and the infinities, zeros and negative values give what the
table lists; FEXP2 of an integral value is the power of two it names, +∞ or +0 beyond the range, FLOG2 of a power of
two its exponent, FSIN of an integral value a zero of the value's sign, FCOS of one ±1.0 by parity and of one plus a
half +0. Only the active lanes' destination changes. -/
def Obligations.FloatFunctions : Prop :=
  (∀ (s : State) (c : Site) (g : Guard) (d : Reg) (x : Operand),
    let f := fmt32
    let A (l : Nat) : Nat := (c.view.src32 l x).toNat
    let gives (i : Instr) (ok : Nat → Nat → Prop) : Prop := Starts i s c →
      ∃ (out : Nat → Word) (r : Regs), exec i s = .next (s.after c i r).reap ∧ (∀ l, ok l (out l).toNat) ∧ Writes32 c.view g d out r
    gives (.frsq g d x) (fun l w => (f.isNan (A l) ∨ (f.neg (A l) ∧ ¬f.isZero (A l)) → w = 0x7FC00000)
        ∧ (A l = 0x7F800000 → w = 0) ∧ (A l = 0 → w = 0x7F800000) ∧ (A l = 0x80000000 → w = 0xFF800000)
        ∧ (0 < A l → A l < 0x7F800000 → f.Nearest .rn (fun y => y < 0 ∨ y * y * f.val (A l) < 1) (fun y => 0 ≤ y ∧ 1 < y * y * f.val (A l)) w))
    ∧ gives (.fexp2 g d x) (fun l w => w = fexp2Bits (A l)) ∧ gives (.flog2 g d x) (fun l w => w = flog2Bits (A l))
    ∧ gives (.fsin g d x) (fun l w => w = fsinBits (A l)) ∧ gives (.fcos g d x) (fun l w => w = fcosBits (A l)))
  ∧ (∀ a < 2 ^ 32, fmt32.isNan a → fexp2Bits a = 0x7FC00000 ∧ flog2Bits a = 0x7FC00000 ∧ fsinBits a = 0x7FC00000 ∧ fcosBits a = 0x7FC00000)
  ∧ (fexp2Bits 0xFF800000 = 0 ∧ flog2Bits 0xFF800000 = 0x7FC00000 ∧ fsinBits 0xFF800000 = 0x7FC00000 ∧ fcosBits 0xFF800000 = 0x7FC00000)
  ∧ (fexp2Bits 0x7F800000 = 0x7F800000 ∧ flog2Bits 0x7F800000 = 0x7F800000 ∧ fsinBits 0x7F800000 = 0x7FC00000 ∧ fcosBits 0x7F800000 = 0x7FC00000)
  ∧ (∀ a ∈ [0, 0x80000000], fexp2Bits a = 0x3F800000 ∧ flog2Bits a = 0xFF800000 ∧ fsinBits a = a ∧ fcosBits a = 0x3F800000)
  ∧ (∀ a, 0x80000000 < a → a < 0xFF800000 → flog2Bits a = 0x7FC00000)
  ∧ (∀ (a : Nat) (n : Int), a < 2 ^ 32 → fmt32.isFin a → fmt32.val a = n →
      (-149 ≤ n → n ≤ 127 → fmt32.val (fexp2Bits a) = 2 ^ n) ∧ (127 < n → fexp2Bits a = 0x7F800000) ∧ (n < -149 → fexp2Bits a = 0)
      ∧ fsinBits a = (if fmt32.neg a then 0x80000000 else 0) ∧ fcosBits a = (if n % 2 = 0 then 0x3F800000 else 0xBF800000))
  ∧ (∀ (a : Nat) (n : Int), a < 2 ^ 32 → fmt32.isFin a → fmt32.val a = n + 1 / 2 → fcosBits a = 0)
  ∧ ∀ (a : Nat) (n : Int), fmt32.isFin a → a < 2 ^ 31 → fmt32.val a = 2 ^ n → fmt32.val (flog2Bits a) = n

/-- For every issue that passes the first checks, FEXP2, FLOG2 of a positive operand, FSIN and FCOS complete, and in
every active lane with a finite operand A whose function value 2^A, log2 A, sin(πA) or cos(πA) is not zero the result
is the binary32 code that a rational is rounded to, to nearest, even on a tie, which differs from the exact value by
no more than one part in 2^48. -/
def Obligations.FunctionValues : Prop :=
  ∀ (s : State) (c : Site) (g : Guard) (d : Reg) (x : Operand),
    let f := fmt32
    let A (l : Nat) : Nat := (c.view.src32 l x).toNat
    let gives (i : Instr) (ok : Nat → Nat → Prop) : Prop := Starts i s c →
      ∃ (out : Nat → Word) (r : Regs), exec i s = .next (s.after c i r).reap ∧ (∀ l, ok l (out l).toNat) ∧ Writes32 c.view g d out r
    let real (l : Nat) : ℝ := (f.val (A l) : ℝ)
    let near (e : ℝ) (w : Nat) : Prop := e ≠ 0 → ∃ y : ℚ, |(y : ℝ) - e| ≤ |e| / 2 ^ 48 ∧ f.Rounds .rn y w
    gives (.fexp2 g d x) (fun l w => f.isFin (A l) → near ((2 : ℝ) ^ real l) w)
    ∧ gives (.flog2 g d x) (fun l w => f.isFin (A l) → 0 < f.val (A l) → near (Real.logb 2 (real l)) w)
    ∧ gives (.fsin g d x) (fun l w => f.isFin (A l) → near (Real.sin (Real.pi * real l)) w)
    ∧ gives (.fcos g d x) (fun l w => f.isFin (A l) → near (Real.cos (Real.pi * real l)) w)

/-- For every issue that passes the first checks, HADD2, HMUL2, HFMA2, HMIN2 and HMAX2 complete, and each half of the
destination receives in the active lanes the exact sum, product or fused product and sum of the sources' same halves
rounded once into the element format by the mode, or the half R252 chooses; FDOT2 completes with the exact sum of the
two products and C rounded once into binary32, with NaN, an infinity or a signed zero where the rule gives one.
Nothing else changes. -/
def Obligations.HalfPairs : Prop :=
  ∀ (s : State) (c : Site) (g : Guard) (ty : HalfTy) (r : Rnd) (d : Reg) (x y z : Operand),
    let f : Fmt := match ty with | .f16 => { p := 10, e := 5 } | .bf16 => { p := 7, e := 8 }
    let part (o : Operand) (l k : Nat) : Nat := (c.view.src32 l o).toNat / 65536 ^ k % 65536
    let gives (i : Instr) (ok : Nat → Nat → Prop) : Prop := Starts i s c →
      ∃ (out : Nat → Word) (r : Regs), exec i s = .next (s.after c i r).reap ∧ (∀ l, ok l (out l).toNat) ∧ Writes32 c.view g d out r
    let pair (i : Instr) (ok : Nat → Nat → Nat → Nat → Prop) : Prop := gives i fun l w =>
      ∀ k < 2, ok (part x l k) (part y l k) (part z l k) (w / 65536 ^ k % 65536)
    pair (.hadd2 g ty r d x y) (fun a b _ w => f.IsSum r a b w)
    ∧ pair (.hmul2 g ty r d x y) (fun a b _ w => f.IsProduct r a b w)
    ∧ pair (.hfma2 g ty r d x y z) (fun a b k w => f.IsFused r a b k w)
    ∧ pair (.hmin2 g ty d x y) (fun a b _ w => f.IsChoice true a b w)
    ∧ pair (.hmax2 g ty d x y) (fun a b _ w => f.IsChoice false a b w)
    ∧ gives (.fdot2 g ty r d x y z) fun l w =>
      let a (k : Nat) : Nat := part x l k
      let b (k : Nat) : Nat := part y l k
      let v := (c.view.src32 l z).toNat
      -- Products: undefined, infinite with a sign bit, or finite.
      let undef (k : Nat) : Prop := f.isNan (a k) ∨ f.isNan (b k) ∨ (f.isInf (a k) ∧ f.isZero (b k)) ∨ (f.isZero (a k) ∧ f.isInf (b k))
      let inf (k : Nat) : Prop := ¬undef k ∧ (f.isInf (a k) ∨ f.isInf (b k))
      let minus (k : Nat) : Prop := f.signOf (a k) (b k) ≠ 0
      let up : Prop := (∃ k < 2, inf k ∧ ¬minus k) ∨ v = 0x7F800000
      let down : Prop := (∃ k < 2, inf k ∧ minus k) ∨ v = 0xFF800000
      let none : Prop := (∃ k < 2, undef k) ∨ fmt32.isNan v
      let sum : Rat := f.val (a 0) * f.val (b 0) + f.val (a 1) * f.val (b 1) + fmt32.val v
      let allZero (m : Prop) (k : Nat) : Prop := (f.isZero (a k) ∨ f.isZero (b k)) ∧ (minus k ↔ m)
      (none ∨ (up ∧ down) → w = 0x7FC00000) ∧ (¬none → up → ¬down → w = 0x7F800000) ∧ (¬none → down → ¬up → w = 0xFF800000)
      ∧ (¬none → ¬up → ¬down → (sum ≠ 0 → fmt32.Rounds r sum w)
        ∧ (sum = 0 → (w = 0x80000000 ∨ w = 0)
          ∧ (w = 0x80000000 ↔ (allZero True 0 ∧ allZero True 1 ∧ v = 0x80000000)
            ∨ (r = .rm ∧ ¬(allZero False 0 ∧ allZero False 1 ∧ v = 0)))))

/-- For every issue that passes the first checks, CVTFI completes with the value rounded by the mode to an integer and
clamped to the range, NaN giving 0; CVTIF with the integer rounded into the format; CVTFF with the value in the other
format, exact or rounded once, or with two of them as a pair; IWIDEN with an element extended by sign or zeros;
INARROW with B's element replaced by A narrowed, clamped first with .sat; the destination is written in the active
lanes and nothing else changes. -/
def Obligations.Conversions : Prop :=
  ∀ (s : State) (c : Site) (g : Guard) (d : Reg) (x y : Operand),
    let v := c.view
    let half (hi : Bool) (w : Word) : Nat := ((if hi then w >>> 16 else w).setWidth 16).toNat
    let code (src : CvtSrc) (o : Operand) (l : Nat) : Nat := match src with
      | .f32 => (v.src32 l o).toNat
      | .f16 hi => half hi (v.src32 l o)
      | .bf16 hi => half hi (v.src32 l o)
      | .f64 => (v.src64 l o).toNat
    let form (src : CvtSrc) : Fmt := match src with
      | .f32 => fmt32
      | .f16 _ => fmt16
      | .bf16 _ => fmtB16
      | .f64 => fmt64
    let dest (dst : CvtDst) : Fmt := match dst with
      | .f32 => fmt32
      | .f16 => fmt16
      | .bf16 => fmtB16
      | .f64 => fmt64
    let gives (i : Instr) (ok : Nat → Nat → Prop) : Prop := Starts i s c →
      ∃ (out : Nat → Word) (r : Regs), exec i s = .next (s.after c i r).reap ∧ (∀ l, ok l (out l).toNat) ∧ Writes32 c.view g d out r
    let gives64 (i : Instr) (ok : Nat → DWord → Prop) : Prop := Starts i s c →
      ∃ (out : Nat → DWord) (r : Regs), exec i s = .next (s.after c i r).reap ∧ (∀ l, ok l (out l)) ∧ Writes64 v g d out r
    (∀ ty src r, gives (.cvtfi g ty false src r d x) fun l w => ∃ n : Int, w = (BitVec.ofInt 32 n).toNat ∧ (match ty with
        | .i32 => (form src).ConvertsToInt r (-2 ^ 31) (2 ^ 31 - 1) (code src x l) n
        | .n32 => (form src).ConvertsToInt r 0 (2 ^ 32 - 1) (code src x l) n))
    ∧ (∀ ty src r, gives64 (.cvtfi g ty true src r d x) fun l w => ∃ n : Int, w = BitVec.ofInt 64 n ∧ (match ty with
        | .i32 => (form src).ConvertsToInt r (-2 ^ 63) (2 ^ 63 - 1) (code src x l) n
        | .n32 => (form src).ConvertsToInt r 0 (2 ^ 64 - 1) (code src x l) n))
    ∧ (∀ ty src r, gives (.cvtif g ty src r d x) fun l w =>
        let n : Int := match src with
          | .i32 => (v.src32 l x).toInt
          | .n32 => (v.src32 l x).toNat
          | .i64 => (v.src64 l x).toInt
          | .n64 => (v.src64 l x).toNat
        (match ty with | .f32 => fmt32 | .f16 => fmt16 | .bf16 => fmtB16 : Fmt).OfInt r n w)
    ∧ (∀ dst src r, dst ≠ CvtDst.f64 → gives (.cvtff g dst src r d x none) fun l w => (form src).Converts (dest dst) r (code src x l) w)
    ∧ (∀ src r, gives64 (.cvtff g .f64 src r d x none) fun l w => (form src).Converts fmt64 r (code src x l) w.toNat)
    ∧ (∀ dst r, dst = .f16 ∨ dst = .bf16 → gives (.cvtff g dst .f32 r d x (some y)) fun l w =>
        fmt32.Converts (dest dst) r (code .f32 x l) (w % 65536) ∧ fmt32.Converts (dest dst) r (code .f32 y l) (w / 65536))
    ∧ (∀ k, Starts (.iwiden g (.i8 k) d x) s c → Runs (.iwiden g (.i8 k) d x) s c
      (Writes32 v g d fun l => (((v.src32 l x) >>> (8 * k.val)).setWidth 8).signExtend 32))
    ∧ (∀ k, Starts (.iwiden g (.n8 k) d x) s c → Runs (.iwiden g (.n8 k) d x) s c
      (Writes32 v g d fun l => (((v.src32 l x) >>> (8 * k.val)).setWidth 8).setWidth 32))
    ∧ (∀ k, Starts (.iwiden g (.i4 k) d x) s c → Runs (.iwiden g (.i4 k) d x) s c
      (Writes32 v g d fun l => (((v.src32 l x) >>> (4 * k.val)).setWidth 4).signExtend 32))
    ∧ (∀ k, Starts (.iwiden g (.n4 k) d x) s c → Runs (.iwiden g (.n4 k) d x) s c
      (Writes32 v g d fun l => (((v.src32 l x) >>> (4 * k.val)).setWidth 4).setWidth 32))
    ∧ (∀ k sx, Starts (.iwiden g (.b16 k sx) d x) s c → Runs (.iwiden g (.b16 k sx) d x) s c
      (Writes32 v g d fun l =>
        let h := ((v.src32 l x) >>> (16 * k.val)).setWidth 16
        if sx then h.signExtend 32 else h.setWidth 32))
    ∧ (∀ sx, Starts (.iwiden g (.b32 sx) d x) s c → Runs (.iwiden g (.b32 sx) d x) s c
      (Writes64 v g d fun l => if sx then (v.src32 l x).signExtend 64 else (v.src32 l x).setWidth 64))
    ∧ (∀ sx sat, Starts (.inarrow g (.b32 sx) sat d x none) s c → Runs (.inarrow g (.b32 sx) sat d x none) s c
      (Writes32 v g d fun l => BitVec.ofInt 32
        (if !sat then (v.src64 l x).toInt
          else if sx then max (-2 ^ 31) (min (v.src64 l x).toInt (2 ^ 31 - 1)) else min (v.src64 l x).toNat (2 ^ 32 - 1))))
    ∧ ∀ ty sat, ty.isB32 = false → Starts (.inarrow g ty sat d x (some y)) s c → Runs (.inarrow g ty sat d x (some y)) s c
      (Writes32 v g d fun l =>
        let (w, k, signed) : Nat × Nat × Bool := match ty with
          | .i8 k => (8, k.val, true)
          | .n8 k => (8, k.val, false)
          | .i4 k => (4, k.val, true)
          | .n4 k => (4, k.val, false)
          | .b16 k sx => (16, k.val, sx)
          | .b32 sx => (32, 0, sx)
        let a : Int := if signed then (v.src32 l x).toInt else (v.src32 l x).toNat
        let n : Int := if !sat then a
          else if signed then max (-2 ^ (w - 1)) (min a (2 ^ (w - 1) - 1)) else max 0 (min a (2 ^ w - 1))
        let mask : Word := BitVec.ofNat 32 (2 ^ w - 1) <<< (w * k)
        (v.src32 l y &&& ~~~mask) ||| ((BitVec.ofInt 32 n <<< (w * k)) &&& mask))

/-- For every issue that passes the first checks, NFPACK and NFUNP complete, with the container replaced by the code
the scaled value packs to or with the code's scaled value, when the format word of every active lane is well formed
and has the container, and raise the illegal-instruction trap when one is not, unless a uniform form's guard is false;
SCALEBLK completes with the scale of the block that holds each lane's element when its format word is well formed and
scaled, a block with no values receiving 127, and traps when the word is not and a lane is active. -/
def Obligations.NarrowFormats : Prop :=
  ∀ (s : State) (c : Site) (g : Guard) (k : Fin 8) (d : Reg) (x y z : Operand),
    let v := c.view
    let act := v.active g
    let A (l : Nat) : Nat := (v.src32 l x).toNat
    let C (l : Nat) : Nat := (v.src32 l z).toNat
    let word (l : Nat) : NFWord := NFWord.ofNat (v.src32 l y).toNat
    let bits (l : Nat) : Nat := if (word l).wid ≤ 4 then 4 else 8
    let good (l : Nat) : Prop := (word l).WellFormed ∧ k.val < 32 / bits l
    let scale (l : Nat) : Nat := if (word l).sck = 1 then C l % 256 else 127
    let box (l w j : Nat) : Nat := w / 2 ^ (bits l * j) % 2 ^ bits l
    let gives (ls : List Nat) (i : Instr) (ok : Nat → Nat → Prop) : Prop := Starts i s c →
      ∃ (out : Nat → Word) (r : Regs), exec i s = .next (s.after c i r).reap ∧ (∀ l ∈ ls, ok l (out l).toNat) ∧ Writes32 v g d out r
    let one := word v.lead
    -- The values of the block that holds element L, among the 2W of the lanes that take part (R267).
    let elems (ls : List Nat) (l : Nat) : List Nat :=
      let n := 16 * one.blk
      (ls.filter fun j => j / n = l / n).map A ++ (ls.filter fun j => (v.W + j) / n = l / n).map C
    ((∀ l ∈ act, good l) → gives act (.nfpack g k d x y z) fun l w =>
        (word l).Packs (scale l) (A l) (box l w k.val) ∧ ∀ j < 32 / bits l, j ≠ k.val → box l w j = box l (v.reg32 l d).toNat j)
    ∧ ((∀ l ∈ act, good l) → gives act (.nfunp g k d x y z) fun l w => (word l).Unpacks (scale l) (box l (A l) k.val % 2 ^ (word l).wid) w)
    ∧ ((d.isVec = true ∨ v.acts g = true) → (∃ l ∈ act, ¬good l) → ∀ i ∈ [Instr.nfpack g k d x y z, .nfunp g k d x y z],
        Starts i s c → ∃ l ∈ act, ¬good l ∧ exec i s = .next (s.raise c i { cause := 1, check := 2, lane := some l }))
    ∧ (one.WellFormed → one.sck = 1 → gives act (.scaleblk g d x y z) fun l w =>
        one.IsScale (elems (if d.isVec then act else v.enabled) l) w)
    ∧ ((if d.isVec then act ≠ [] else v.acts g = true) → ¬(one.WellFormed ∧ one.sck = 1) →
        Starts (.scaleblk g d x y z) s c → exec (.scaleblk g d x y z) s = .next (s.raise c (.scaleblk g d x y z) (Trap.illegal 2)))

/-- For every issue that passes the first checks, RBOX completes with the entry and exit of the ray through the slabs
in the pair D and whether entry is not beyond exit in pd, and RTRI with t, u and v and whether the triangle is hit, or
three canonical NaNs and false where the determinant is zero, NaN or culled; every difference, product, fused step and
quotient is rounded once to nearest, in the order the rules fix, from the groups A and B; only the active lanes are
written, and a write to p7 is ignored. -/
def Obligations.RayTests : Prop :=
  ∀ (s : State) (c : Site) (g : Guard) (pd : Fin 8) (d : Fin 192) (a b : Reg),
    let v := c.view
    let f := fmt32
    let ray (l k : Nat) : Nat := (v.regPlus l a k).toNat
    let obj (l k : Nat) : Nat := (v.regPlus l b k).toNat
    let minus (x : Nat) : Nat := if f.isNan x then 0x7FC00000 else if x < 2 ^ 31 then x + 2 ^ 31 else x - 2 ^ 31
    let diff (x y w : Nat) : Prop := f.IsSum .rn x (minus y) w
    let prod (x y w : Nat) : Prop := f.IsProduct .rn x y w
    let fused (x y z w : Nat) : Prop := f.IsFused .rn x y z w
    let least (x y w : Nat) : Prop := f.IsChoice true x y w
    let most (x y w : Nat) : Prop := f.IsChoice false x y w
    let rank (x : Nat) : Int := if f.neg x then -(f.abs x : Int) else f.abs x
    let le (x y : Nat) : Prop := ¬f.isNan x ∧ ¬f.isNan y ∧ rank x ≤ rank y
    -- RBOX: the bounds of one axis, and the two ends.
    let slab (l ax n m : Nat) : Prop := ∃ p lo q hi x y, diff (obj l ax) (ray l ax) p ∧ prod p (ray l (3 + ax)) lo
      ∧ diff (obj l (3 + ax)) (ray l ax) q ∧ prod q (ray l (3 + ax)) hi ∧ least lo hi x ∧ most lo hi y
      ∧ n = (if f.isNan x then 0xFF800000 else x) ∧ m = if f.isNan y then 0x7F800000 else y
    let box (l near far : Nat) : Prop := ∃ (n m : Nat → Nat) (p q x y : Nat), (∀ ax < 3, slab l ax (n ax) (m ax))
      ∧ most (ray l 6) (n 0) p ∧ most p (n 1) q ∧ most q (n 2) near ∧ least (ray l 7) (m 0) x ∧ least x (m 1) y ∧ least y (m 2) far
    -- RTRI: a component of a cross product, the product, the dot product, and the test.
    let cr (x y z u w : Nat) : Prop := ∃ m, prod z u m ∧ fused x y (minus m) w
    let cross (p q w : Nat → Nat) : Prop := cr (p 1) (q 2) (p 2) (q 1) (w 0) ∧ cr (p 2) (q 0) (p 0) (q 2) (w 1) ∧ cr (p 0) (q 1) (p 1) (q 0) (w 2)
    let dot (p q : Nat → Nat) (w : Nat) : Prop := ∃ m n, prod (p 0) (q 0) m ∧ fused (p 1) (q 1) m n ∧ fused (p 2) (q 2) n w
    let tri (cull : Fin 3) (l t u w : Nat) (hit : Prop) : Prop := ∃ (e1 e2 pv : Nat → Nat) (det : Nat),
      (∀ k < 3, diff (obj l (3 + k)) (obj l k) (e1 k)) ∧ (∀ k < 3, diff (obj l (6 + k)) (obj l k) (e2 k))
      ∧ cross (fun k => ray l (3 + k)) e2 pv ∧ dot e1 pv det
      ∧ if f.isZero det ∨ f.isNan det ∨ (cull = 1 ∧ f.neg det) ∨ (cull = 2 ∧ ¬f.neg det) then
          t = 0x7FC00000 ∧ u = 0x7FC00000 ∧ w = 0x7FC00000 ∧ ¬hit
        else ∃ (inv x y z sum : Nat) (tv qv : Nat → Nat), f.IsQuotient .rn 0x3F800000 det inv
          ∧ (∀ k < 3, diff (ray l k) (obj l k) (tv k)) ∧ dot tv pv x ∧ prod x inv u ∧ cross tv e1 qv
          ∧ dot (fun k => ray l (3 + k)) qv y ∧ prod y inv w ∧ dot e2 qv z ∧ prod z inv t ∧ f.IsSum .rn u w sum
          ∧ (hit ↔ le 0 u ∧ le 0 w ∧ le sum 0x3F800000 ∧ le (ray l 6) t ∧ le t (ray l 7))
    let group (n : Nat) (r : Regs) : Prop := v.regs.but r (fun m l => d.val ≤ m ∧ m < d.val + n ∧ l ∈ v.active g) (fun _ => False)
      fun q l => q = pd ∧ pd.val ≠ 7 ∧ l ∈ v.active g
    (Starts (.rbox g pd d a b) s c → ∃ r, exec (.rbox g pd d a b) s = .next (s.after c (.rbox g pd d a b) r).reap ∧ group 2 r
      ∧ ∀ l ∈ v.active g, box l (r.vec d.val l).toNat (r.vec (d.val + 1) l).toNat
        ∧ (pd.val ≠ 7 → (r.predAt pd l = true ↔ le (r.vec d.val l).toNat (r.vec (d.val + 1) l).toNat)))
    ∧ ∀ cull, Starts (.rtri g pd cull d a b) s c →
      ∃ r, exec (.rtri g pd cull d a b) s = .next (s.after c (.rtri g pd cull d a b) r).reap ∧ group 3 r
        ∧ ∀ l ∈ v.active g, ∃ hit : Prop, tri cull l (r.vec d.val l).toNat (r.vec (d.val + 1) l).toNat (r.vec (d.val + 2) l).toNat hit
          ∧ (pd.val ≠ 7 → (r.predAt pd l = true ↔ hit))

/-- For every issue that passes the first checks, SHFL completes with A of the source lane its mode names modulo W;
VOTE with whether all, some, or equal lanes of the active ones hold the predicate; BALLOT with the mask of those that
do; MATCH with the mask of active lanes of equal A, or whether all are equal; GRED and GSCAN with the fold of A over
lanes 0 to W − 1 in increasing order, lanes that take no part contributing the identity; only the active lanes are
written. -/
def Obligations.CrossLane : Prop :=
  ∀ (s : State) (c : Site) (g : Guard),
    let v := c.view
    let act := v.active g
    let gives (i : Instr) (P : Regs → Prop) : Prop := Starts i s c → ∃ r, exec i s = .next (s.after c i r).reap ∧ P r
    let source (mode : ShflMode) (l b : Nat) : Nat := match mode with
      | .lane => b % v.W
      | .back => (((l : Int) - b) % v.W).toNat
      | .fwd => (l + b) % v.W
      | .flip => (l ^^^ b) % v.W
    let mask (m : Mask) (P : Nat → Prop) : Prop := ∀ j < 64, laneOn m j = true ↔ P j
    let pair (d : Fin 192) (f : Nat → Mask → Prop) (r : Regs) : Prop := ∃ m : Nat → Mask, (∀ l ∈ act, f l (m l)) ∧ Writes64 v g (.v d) m r
    let fact (f : Bool) (P : Prop) : Prop := f = true ↔ P
    let signed (t : IntTy) (w : Word) : Int := match t with
      | .i32 => w.toInt
      | .n32 => w.toNat
    let identity (op : FoldOp) (w : Word) : Prop := match op with
      | .addI _ | .or | .xor => w = 0
      | .addF r => w = if r = .rm then 0 else 0x80000000
      | .minI .i32 => w = 0x7FFFFFFF
      | .minI .n32 | .and => w = 0xFFFFFFFF
      | .maxI .i32 => w = 0x80000000
      | .maxI .n32 => w = 0
      | .minF => w = 0x7F800000
      | .maxF => w = 0xFF800000
    let step (op : FoldOp) (r x w : Word) : Prop := match op with
      | .addI _ => w = r + x
      | .addF m => fmt32.IsSum m r.toNat x.toNat w.toNat
      | .minI t => w = if signed t x < signed t r then x else r
      | .maxI t => w = if signed t r < signed t x then x else r
      | .minF => fmt32.IsChoice true r.toNat x.toNat w.toNat
      | .maxF => fmt32.IsChoice false r.toNat x.toNat w.toNat
      | .and => w = r &&& x
      | .or => w = r ||| x
      | .xor => w = r ^^^ x
    let folds (op : FoldOp) (part : List Nat) (a : Reg) (acc : Nat → Word) : Prop := identity op (acc 0)
      ∧ ∀ k < v.W, ∃ x, (if k ∈ part then x = v.reg32 k a else identity op x) ∧ step op (acc k) x (acc (k + 1))
    (∀ mode d a b, gives (.shfl g .b32 (some (mode, b)) d a)
      (Writes32 v g (.v d) fun l => v.reg32 (source mode l (v.src32 l b).toNat) a))
    ∧ (∀ mode d a b, gives (.shfl g .b64 (some (mode, b)) d a)
      (Writes64 v g (.v d) fun l => v.reg64 (source mode l (v.src32 l b).toNat) a))
    ∧ (∀ d a, gives (.shfl g .b32 none d a) (Writes32 v g (.v d) fun l => v.reg32 (v.W - 1 - l) a))
    ∧ (∀ d a, gives (.shfl g .b64 none d a) (Writes64 v g (.v d) fun l => v.reg64 (v.W - 1 - l) a))
    ∧ (∀ mode pd pa neg, gives (.vote g mode pd pa neg) fun r => ∃ x : Bool, WritesPred v g pd (fun _ => x) r
      ∧ let P (l : Nat) : Prop := v.regs.predAt pa l ≠ neg
        fact x (match mode with
          | .all => ∀ l ∈ act, P l
          | .any => ∃ l ∈ act, P l
          | .same => ∀ l ∈ act, ∀ j ∈ act, P l ↔ P j))
    ∧ (∀ d pa neg, gives (.ballot g d pa neg) (pair d fun _ m => mask m fun j => j ∈ act ∧ v.regs.predAt pa j ≠ neg))
    ∧ (∀ d a, gives (.match_ g .b32 none d a) (pair d fun l m => mask m fun j => j ∈ act ∧ v.reg32 j a = v.reg32 l a))
    ∧ (∀ d a, gives (.match_ g .b64 none d a) (pair d fun l m => mask m fun j => j ∈ act ∧ v.reg64 j a = v.reg64 l a))
    ∧ (∀ ty d pd a, gives (.match_ g ty (some pd) d a) fun r => ∃ x : Bool,
      fact x (∀ l ∈ act, ∀ j ∈ act, match ty with
        | .b32 => v.reg32 j a = v.reg32 l a
        | .b64 => v.reg64 j a = v.reg64 l a)
      ∧ (∃ m : Mask, (mask m fun j => j ∈ act ∧ x = true)
        ∧ ∀ l ∈ act, r.vec d.val l = m.setWidth 32 ∧ r.vec (d.val + 1) l = m.extractLsb' 32 32 ∧ (pd.val ≠ 7 → r.predAt pd l = x))
      ∧ v.regs.but r (fun n l => (n = d.val ∨ n = d.val + 1) ∧ l ∈ act) (fun _ => False) fun q l => q = pd ∧ pd.val ≠ 7 ∧ l ∈ act)
    ∧ (∀ op d a, gives (.gred g op d a) fun r => ∃ acc, folds op (if d.isVec then act else v.enabled) a acc ∧ Writes32 v g d (fun _ => acc v.W) r)
    ∧ (∀ op d a, gives (.gscan g op false d a) fun r => ∃ acc, folds op act a acc ∧ Writes32 v g (.v d) (fun l => acc (l + 1)) r)
    ∧ ∀ op d a, gives (.gscan g op true d a) fun r => ∃ acc, folds op act a acc ∧ Writes32 v g (.v d) acc r

/-- R217. That the misalignment trap of a target is check 3 is the model's choice (log entry 24), and so is that its
frame names the lowest such lane (log entry 59). -/
def Obligations.Branches : Prop :=
  ∀ (s : State) (c : Site) (g : Guard) (disp : Word) (d : Fin 192) (a : Reg),
    let v := c.view
    let goes (i : Instr) (r : Regs) (target : Nat → Word) : Prop :=
      exec i s = .next (s.moved c i r fun l => if v.regs.guardAt g l then target l else c.next i).reap
    let link (i : Instr) (r : Regs) : Prop := Writes32 v g (.v d) (fun _ => c.next i) r
    let aligned : Prop := ∀ l ∈ v.active g, (v.reg32 l a).toNat % 4 = 0
    let bad (i : Instr) : Prop := ∃ l ∈ v.active g, (v.reg32 l a).toNat % 4 ≠ 0
      ∧ (∀ j ∈ v.active g, j < l → (v.reg32 j a).toNat % 4 = 0)
      ∧ Raises i s s c { cause := 3, check := 3, lane := some l, addr := (v.reg32 l a).toNat }
    (Starts (.bra g disp) s c → goes (.bra g disp) v.regs fun _ => c.pc + disp)
    ∧ (Starts (.call g d disp) s c → ∃ r, link (.call g d disp) r ∧ goes (.call g d disp) r fun _ => c.pc + disp)
    ∧ (Starts (.brx g a) s c → aligned → goes (.brx g a) v.regs fun l => v.reg32 l a)
    ∧ (Starts (.ret g a) s c → aligned → goes (.ret g a) v.regs fun l => v.reg32 l a)
    ∧ (Starts (.callx g d a) s c → aligned → ∃ r, link (.callx g d a) r ∧ goes (.callx g d a) r fun l => v.reg32 l a)
    ∧ (Starts (.brx g a) s c → ¬aligned → bad (.brx g a))
    ∧ (Starts (.ret g a) s c → ¬aligned → bad (.ret g a))
    ∧ (Starts (.callx g d a) s c → ¬aligned → bad (.callx g d a))

/-- R24, R220, R221 and, for MEET and MLEAVE at S, R386. That the traps of a full stack and of MEET and MLEAVE at S
are check 2 is the model's choice (log entry 24). -/
def Obligations.Meetings : Prop :=
  ∀ (s : State) (c : Site) (g : Guard) (k : Fin 8) (disp : Word) (n : Nat) (q : Gang),
    c.agent = .gang n → tabGet n c.sh.gangs = some q →
    let act := c.view.active g
    let stack (l : Nat) : List (Word × Fin 8) := ((tabGet l q.threads).map Thread.stack).getD []
    (Starts (.meet g k disp) s c → c.atS = false → (∀ l ∈ act, (stack l).length < 8) →
      Does (.meet g k disp) s (s.modGang c.sid n fun q =>
        { q.modThreads act fun _ t => { t with stack := (c.pc + disp, k) :: t.stack } with
          regs := q.regs.setRejoin k.val (q.regs.rejoin k.val ||| maskOf act) }) c)
    ∧ (Starts (.meet g k disp) s c → c.atS = false → (∃ l ∈ act, 8 ≤ (stack l).length) →
      ∃ l ∈ act, 8 ≤ (stack l).length ∧ (∀ j ∈ act, j < l → (stack j).length < 8)
        ∧ Raises (.meet g k disp) s s c { cause := 8, check := 2, lane := some l })
    ∧ (Starts (.meet g k disp) s c → c.atS = true → Raises (.meet g k disp) s s c (Trap.illegal 2))
    ∧ (Starts (.mleave g k) s c → c.atS = false →
      Does (.mleave g k) s (s.modGang c.sid n fun q => act.foldl (fun q l => q.leave k l) q) c)
    ∧ (Starts (.mleave g k) s c → c.atS = true → Raises (.mleave g k) s s c (Trap.illegal 2))
    ∧ (∀ l, (q.leave k l).regs.rejoin k.val = setLane (q.regs.rejoin k.val) l false)
    ∧ (∀ l t, tabGet l q.threads = some t →
        (tabGet l (q.leave k l).threads).map Thread.stack
          = some (if t.stack.any (·.2 == k) then (t.stack.dropWhile (·.2 != k)).drop 1 else t.stack))
    ∧ (∀ ls, (∀ l ∈ ls, l < 64) → ∀ l ∈ ls, ∀ t, tabGet l q.threads = some t →
        (tabGet l (q.exitLanes ls).threads) = some { t with st := .exited, stack := [] }
        ∧ ∀ j < 8, laneOn ((q.exitLanes ls).regs.rejoin j) l = false)

/-- EXIT of a gang completes with its active lanes exited and the rest of the enabled lanes at the next offset, and
with every thread of the gang exited its producer slots exit too, a Parked sequencer of a sheet with no thread left
becomes Idle and a held trap is reported; EXIT of a sequencer completes with the sequencer Idle, its producer slots
exited and every gang waiting in RDV released with 0, when its guard is true, and only moves on when it is false. -/
def Obligations.SequencerExit : Prop :=
  ∀ (s : State) (c : Site) (g : Guard),
    (∀ n h q, c.agent = .gang n → Starts (.exit g) s c →
      let t := (s.modGang c.sid n (·.exitLanes (c.view.active g))).finish c (.exit g)
      tabGet c.sid t.sheets = some h → tabGet n h.gangs = some q →
      exec (.exit g) s = .next (if q.exited then
        (t.modSheet c.sid (·.producerExits n (q.clockOf (List.range h.W)))).afterExit c.sid else t))
    ∧ (∀ k, c.agent = .seq k → Starts (.exit g) s c → c.view.acts g = true →
      exec (.exit g) s = .next ((s.finish c (.exit g)).modSheet c.sid (·.seqIdle k)))
    ∧ (∀ k, c.agent = .seq k → Starts (.exit g) s c → c.view.acts g = false → Does (.exit g) s s c)
    ∧ ∀ (h : Sheet) (k : SeqKind), ((h.seqIdle k).seq k).st = .idle

/-- NOP and PREF complete and change no register; with the guard of the lead lane true YIELD completes with the gang
yielded, NAP with every enabled thread napping at the next offset until now plus min(value, 1,048,575) ns, and PERF
with the sheet's request min(value, 3); the end of a nap returns to running the threads whose interval has passed. -/
def Obligations.GangPauses : Prop :=
  (∀ (s : State) (c : Site) (g : Guard),
    (Starts (.nop g) s c → Runs (.nop g) s c fun r => r = c.view.regs)
    ∧ (∀ l2 a off, Starts (.pref g l2 a off) s c → Runs (.pref g l2 a off) s c fun r => r = c.view.regs)
    ∧ (Acts (.yield g) g s c → Does (.yield g) s (s.modGang c.sid c.gang fun q => { q with yielded := true }) c)
    ∧ (let nap (i : Instr) (x : Word) : State := s.modGang c.sid c.gang fun q =>
        q.modThreads c.view.enabled fun _ t =>
          { t with pc := c.next i, st := .nap (s.now + min x.toNat 1048575 * tickNs), since := s.now }
      (∀ a, Acts (.nap g a) g s c → Does (.nap g a) s (nap (.nap g a) (c.view.regs.uni a.val)) c)
      ∧ ∀ n, Acts (.napImm g n) g s c → Does (.napImm g n) s (nap (.napImm g n) n) c)
    ∧ (∀ a, Acts (.perf g a) g s c →
        Does (.perf g a) s (s.modSheet c.sid fun h => { h with preq := min (c.view.regs.uni a.val).toNat 3 }) c)
    ∧ ∀ n, Acts (.perfImm g n) g s c → Does (.perfImm g n) s (s.modSheet c.sid fun h => { h with preq := min n.toNat 3 }) c)
  ∧ ∀ (s : State) (sheet gang : Nat) (h : Sheet) (q : Gang), tabGet sheet s.sheets = some h → tabGet gang h.gangs = some q →
      let due := q.lanesIn fun t => match t with | .nap u => u ≤ s.now | _ => false
      due ≠ [] → exec (.napEnd sheet gang) s = .next (s.modGang sheet gang (·.wake due))

/-- With the guard of the lead lane true, TRAP raises trap class 19 with INFO its code, 0 in the 64-bit form, and BKPT
raises class 18. -/
def Obligations.UserTraps : Prop :=
  ∀ (s : State) (c : Site) (g : Guard),
    (Acts (.trap g) g s c → Raises (.trap g) s s c { cause := 19, info := 0 })
    ∧ (∀ code, Acts (.trapImm g code) g s c → Raises (.trapImm g code) s s c { cause := 19, info := code.toNat })
    ∧ (Acts (.bkpt g) g s c → Raises (.bkpt g) s s c { cause := 18 })
    ∧ (Starts (.trap g) s c → c.view.acts g = false → Does (.trap g) s s c)
    ∧ (∀ code, Starts (.trapImm g code) s c → c.view.acts g = false → Does (.trapImm g code) s s c)
    ∧ (Starts (.bkpt g) s c → c.view.acts g = false → Does (.bkpt g) s s c)
    -- The frame: INFO is the code, and the active lanes resume at the next offset.
    ∧ ∀ (ts : TrapSite) (h : Sheet) (q : Gang) (t : Trap) (lost : Nat), t.cause = 18 ∨ t.cause = 19 →
        fieldAt (s.frameBytes ts h q t .plain lost) 24 8 = t.info % 2 ^ 64
        ∧ ∀ l < 64, laneOn ts.act l = true → (tabGet l q.threads).isSome →
            fieldAt (s.frameBytes ts h q t .plain lost) (256 + 4 * l) 4 = ts.noff.toNat

/-- R382 to R386. The statement begins at the state in which the gang's earlier writes have their times. That a killed
sheet's other gangs take no trap is R432. -/
def Obligations.TrapEntry : Prop :=
  (∀ (s s2 : State) (ts : TrapSite) (t : Trap) (f : TrapFlag) (h h1 h2 : Sheet) (g g1 g2 : Gang) (ctx ctx2 : Context)
      (n clk : Nat),
    tabGet ts.sid s.sheets = some h → tabGet ts.gang h.gangs = some g → tabGet h.ctx s.ctxs = some ctx →
    h.replay = none → (∀ k, h.killed = some k → k = ts.gang) → g.atS = false → freeSlot ctx.frames = some n →
    let s1 := s.drainLanes ts.sid ts.gang (lanesBelow h.W)
    tabGet ts.sid s1.sheets = some h1 → tabGet ts.gang h1.gangs = some g1 →
    let frame := ctx.tfrm + 1024 * n
    s1.storeBlock { cx := h.ctx, die := s1.dieOf h, atS := true, clk := g1.clockOf (lanesOf ts.enb h.W), cl := h.cluster?, sid := some ts.sid } (some ts.sid) frame
      (s1.frameBytes ts h g1 t f ctx.lost) = .ok (s2, clk) →
    tabGet ts.sid s2.sheets = some h2 → tabGet ts.gang h2.gangs = some g2 → tabGet h.ctx s2.ctxs = some ctx2 →
    ∃ h' q, tabGet ts.sid (s.trapEntry ts t f).sheets = some h' ∧ tabGet ts.gang h'.gangs = some q
      ∧ q.atS = true ∧ q.frame = some n ∧ q.yielded = false
      ∧ (q.regs.uni 1 ++ q.regs.uni 0 : DWord) = BitVec.ofNat 64 frame
      ∧ q.regs.uni 2 = BitVec.ofNat 32 (causeWord t f) ∧ (∀ k, 3 ≤ k → k < 16 → q.regs.uni k = 0)
      ∧ (∀ k, 16 ≤ k → q.regs.uni k = g2.regs.uni k) ∧ (∀ p : Fin 8, p.val < 7 → q.regs.pred p = 0)
      ∧ q.regs.v = g2.regs.v ∧ q.regs.t = g2.regs.t ∧ q.regs.m = g2.regs.m ∧ q.regs.a = g2.regs.a
      ∧ (∀ l x, tabGet l g2.threads = some x → ∃ y, tabGet l q.threads = some y ∧ y.stack = x.stack ∧
          match x.st with
          | .barrier .. | .nap _ | .exited => y.st = x.st ∧ y.pc = x.pc
          | _ => y.st = .running ∧ y.pc = BitVec.ofNat 32 (32 * (ctx.svec / 2 ^ 48)))
      ∧ (tabGet h.ctx (s.trapEntry ts t f).ctxs).map Context.frames = some (ctx2.frames ++ [n]))
  ∧ (∀ (s : State) (ts : TrapSite) (h : Sheet) (g : Gang) (t : Trap) (f : TrapFlag) (lost : Nat), h.W ≤ 64 →
    let b := s.frameBytes ts h g t f lost
    let F (o n : Nat) : Nat := fieldAt b o n
    let flags : Nat := match f with
      | .plain => 0 | .seq .m => 2 ^ 16 | .seq .c => 2 ^ 16 + 2 ^ 17 | .noRes => 2 ^ 18 | .async => 2 ^ 19
    b.length = 1024 ∧ F 0 4 = (t.cause + 256 * t.check + flags) % 2 ^ 32 ∧ F 4 4 = (t.lane.getD 0xFFFFFFFF) % 2 ^ 32
    ∧ F 8 4 = ts.ioff.toNat ∧ F 12 4 = ts.noff.toNat ∧ F 16 8 = t.addr % 2 ^ 64 ∧ F 24 8 = t.info % 2 ^ 64 ∧ F 32 4 = ts.gang % 2 ^ 32
    ∧ (∀ k, h.home = .on k → F 36 4 = s.clid k % 2 ^ 32) ∧ F 40 8 = h.index % 2 ^ 64 ∧ F 48 8 = g.clockOf (List.range h.W) % 2 ^ 64
    ∧ F 56 8 = s.etime % 2 ^ 64 ∧ F 64 8 = ts.act.toNat ∧ F 72 8 = ts.enb.toNat ∧ F 80 8 = g.napEnd % 2 ^ 64 ∧ F 88 4 = lost % 2 ^ 32
    ∧ (∀ k < 36, F (92 + k) 1 = 0) ∧ (∀ k < 16, F (128 + 4 * k) 4 = (g.regs.uni k).toNat)
    ∧ (∀ p : Fin 8, p.val < 7 → F (192 + 8 * p.val) 8 = (g.regs.pred p).toNat) ∧ F 248 8 = 0 ∧ (∀ k < 448, F (576 + k) 1 = 0)
    ∧ (∀ l < 64, tabGet l g.threads = none → F (256 + 4 * l) 4 = 0 ∧ F (512 + l) 1 = 4)
    ∧ ∀ l < 64, ∀ x, tabGet l g.threads = some x →
      -- The active lanes of a breakpoint or user trap resume at NOFF, those of a held trap after the RDV.
      let past : Prop := laneOn ts.act l = true ∧ ((∃ k, f = .seq k) ∨ ((f = .plain ∨ f = .noRes) ∧ (t.cause = 18 ∨ t.cause = 19)))
      (past → F (256 + 4 * l) 4 = ts.noff.toNat) ∧ (¬past → F (256 + 4 * l) 4 = x.pc.toNat)
      ∧ F (512 + l) 1 = (if h.W ≤ l then 4 else match x.st with
        | .exited => 4 | .held => 1 | .barrier k _ => (2 + 16 * k) % 256 | .nap _ => 3 | _ => 0))

/-- R361, R382. That the notice is of kind 2, carries the trap's cause and comes before the end of the context is the
model's choice (log entry 27); how it names the gang is open (log entry 16). -/
def Obligations.TrapAtSupervisor : Prop :=
  ∀ (s : State) (ts : TrapSite) (t : Trap) (f : TrapFlag) (h : Sheet) (g : Gang) (ctx : Context),
    tabGet ts.sid s.sheets = some h → tabGet ts.gang h.gangs = some g → tabGet h.ctx s.ctxs = some ctx → h.replay = none → (∀ k, h.killed = some k → k = ts.gang) →
    (g.atS = true ∨ freeSlot ctx.frames = none) →
    let told := s.notice 2 h.ctx t.cause 0 (Config.gangName ts.sid ts.gang)
    s.trapEntry ts t f = told.endContext h.ctx 1 (0xFFFF0000 + t.cause)
    ∧ tabGet h.ctx (s.trapEntry ts t f).ctxs = none
    ∧ (∀ p ∈ (s.trapEntry ts t f).sheets, p.2.ctx ≠ h.ctx)

/-- For every sequencer and instruction outside its engine subset, execution makes no change but to leave the
sequencer Faulted at the instruction with a held trap of class 12; every system instruction lies outside the subset,
and so do MMAT and MVS in the copy sequencer. -/
def Obligations.EngineSubset : Prop :=
  (∀ (s : State) (c : Site) (k : SeqKind) (i : Instr), s.site = some c → c.agent = .seq k →
    (encodeFields i).isSome = true → i.engine k = false →
    Raises i s s c { cause := 12 }
    ∧ s.raise c i { cause := 12 } = ({ s with issue := none }.holdTrap c.sid k c.pc (c.next i) { cause := 12 }).reap)
  ∧ (∀ (k : SeqKind) (i : Instr), systemOpcode i.opcode = true → i.engine k = false)
  ∧ (∀ g ty acc z ta tb oa ob, (Instr.mmat g ty acc z ta tb oa ob).engine .c = false)
  ∧ (∀ (h : Sheet) (k : SeqKind) (pc noff : Word) (t : Trap) (s : State) (sid : Nat), tabGet sid s.sheets = some h →
      h.allExited = false → (∀ p ∈ h.gangs, p.2.lanesIn (TState.onSeq k) = []) → (∀ p ∈ h.queues, p.2.st ≠ .opened) →
      let h' := (tabGet sid (s.holdTrap sid k pc noff t).sheets).getD h
      (h'.seq k).st = .faulted ∧ (h'.seq k).pc = pc ∧ ((h'.seq k).held.map (·.cause)) = some (causeWord t (.seq k))
      ∧ ((h'.seq k).held.map (·.ioff)) = some pc)

/-- For every issue of a gang-level instruction, those of sequencers alone included, that passes the first checks and
finds the guard of the lowest-numbered enabled lane false: one that reaches nothing outside its registers completes
with no effect; one that reaches memory, scratchpad or a sheet object completes with no effect but the times of
earlier writes. It raises no trap and does not wait, whatever its operands hold. SYSRD and SYSWR name a register that
they may access at its width (R364: others fail before the guard is looked at). -/
def Obligations.GuardFalse : Prop :=
  ∀ (i : Instr) (s t : State) (c : Site), (i.gangLevel = true ∨ i.sequencerOnly = true) → c.view.acts i.guard = false →
    (∀ g num wide d, i = .sysrd g num wide d → sysRegWide num.toNat = some wide) →
    (∀ g num wide a, i = .syswr g num wide a → 3 ≤ num.toNat ∧ num.toNat ≤ 9 ∧ sysRegWide num.toNat = some wide) →
    let near : Prop := match i with
      | .yield .. | .nap .. | .napImm .. | .trap .. | .trapImm .. | .bkpt .. | .perf .. | .perfImm .. | .mma .. | .accz .. | .accrdV ..
      | .accwrV .. | .accrdT .. | .accwrT .. | .rdvSequencer .. | .residOpen .. | .residPrio .. | .residClose .. | .sysrd .. | .syswr ..
      | .syswrCeil .. | .halt .. | .wdclr .. => True
      | _ => False
    (near → Starts i s c → Does i s s c) ∧ (¬near → Reaches i s t c → Does i s t c)

/-- When an instruction completes in a state with no context's time exhausted, memory, the coherence state of atoms,
contexts, launches, clusters, dies, keys, the steward, copies and every other sheet are as before; in the issuing
sheet every other gang, the scratchpad, barriers, queues and counters are as before; in the issuing gang each running
enabled lane is at the given offset, no lane's clock, and no register but the rejoin masks of meetings that release,
has changed. -/
def Obligations.Completion : Prop :=
  ∀ (s : State) (c : Site) (i : Instr) (next : Nat → Word), s.quiet →
    let t := s.finishAt c i next
    t.mem = s.mem ∧ t.atoms = s.atoms ∧ t.ctxs = s.ctxs ∧ t.launches = s.launches ∧ t.clusters = s.clusters ∧ t.dies = s.dies
    ∧ t.keys = s.keys ∧ t.steward = s.steward ∧ t.copies = s.copies ∧ t.writes = s.writes ∧ t.now = s.now
    ∧ (i.reaches = false → t.choices = s.choices) ∧ t.issue = none
    ∧ (∀ k, k ≠ c.sid → tabGet k t.sheets = tabGet k s.sheets)
    ∧ ∀ h, tabGet c.sid s.sheets = some h → ∃ h', tabGet c.sid t.sheets = some h'
      ∧ h'.spad = h.spad ∧ h'.lines = h.lines ∧ h'.bars = h.bars ∧ h'.queues = h.queues ∧ h'.counters = h.counters
      ∧ ∀ n, c.agent = .gang n → h'.mseq = h.mseq ∧ h'.cseq = h.cseq
        ∧ (∀ j, j ≠ n → tabGet j h'.gangs = tabGet j h.gangs)
        ∧ ∀ q, tabGet n h.gangs = some q → ∃ q', tabGet n h'.gangs = some q'
          ∧ q'.atS = q.atS ∧ q'.frame = q.frame ∧ q'.yielded = (i.yields && q.yielded)
          ∧ q'.regs.v = q.regs.v ∧ q'.regs.s = q.regs.s ∧ q'.regs.p = q.regs.p ∧ q'.regs.t = q.regs.t ∧ q'.regs.a = q.regs.a
          ∧ ∀ l x, tabGet l q.threads = some x → ∃ x', tabGet l q'.threads = some x' ∧ x'.clock = x.clock
            ∧ x'.pc = (if l ∈ c.view.enabled ∧ x.st = .running then next l else x.pc)

/-- R52, R194, R359, R380. That check 1 names a missing register is the model's choice (log entry 24), as is that lost
registers are found after the other first checks (log entry 80). -/
def Obligations.FirstChecks : Prop :=
  (∀ (i : Instr) (c : Site) (n : Nat), c.agent = .gang n →
    (precheck i c = none ↔ (systemOpcode i.opcode = true → c.atS = true) ∧ i.existing c.sh.W c.sh.nv c.sh.na = true
      ∧ i.sequencerOnly = false ∧ c.lostSource i = none)
    ∧ (systemOpcode i.opcode = true → c.atS = false → precheck i c = some { cause := 2, check := 1 })
    ∧ ((systemOpcode i.opcode = true → c.atS = true) → i.existing c.sh.W c.sh.nv c.sh.na = false →
        precheck i c = some { cause := 1, check := 1 }))
  ∧ (∀ (i : Instr) (c : Site) (k : SeqKind), c.agent = .seq k →
    (precheck i c = none ↔ i.engine k = true ∧ i.existing c.sh.W c.sh.nv c.sh.na = true ∧ c.lostSource i = none))
  -- What is read last: registers of which a word is lost (R434), the loss of the sheet's own state (R430; log entry 80).
  ∧ (∀ (i : Instr) (c : Site), (c.sh.bad = [] → c.lostSource i = none) ∧ ∀ e, c.lostSource i = some e →
      e.cause = 16 ∧ e.check = 9 ∧ e.own = true ∧ ∃ w ∈ c.sh.bad, (∃ r, ∃ l ∈ c.readers i, w = .vec c.gang r l ∧ (boardOf (i.sources c.sh.W) 0).any (·.1 == .v r) = true)
        ∨ ∃ k x, w = .acc c.gang k x ∧ (boardOf (i.sources c.sh.W) 0).any (·.1 == .a k) = true)
  ∧ (∀ (W nv na : Nat) (g : Guard) (n : Fin 192) (x y : Operand), (Instr.iadd g .i32 false (.v n) x y).existing W nv na = true →
      n.val < nv)
  ∧ (∀ (W nv na : Nat) (g : Guard) (n : Fin 192) (x y : Operand), (Instr.iadd g .b64 false (.v n) x y).existing W nv na = true →
      n.val + 1 < nv)
  ∧ ∀ (W nv na : Nat) (g : Guard) (k : Fin 16), (Instr.accz g k).existing W nv na = true ↔ k.val < na
  ∧ (∀ (s : State) (c : Site) (n : Nat) (i : Instr), s.site = some c → c.agent = .gang n → c.atS = false →
    systemOpcode i.opcode = true → Raises i s s c { cause := 2, check := 1 })
  ∧ ∀ (g : Guard) (num : Byte) (wide : Bool) (u w d : Fin 64) (a : SysOperand) (o : UOperand),
    ∀ i ∈ ([.sysrd g num wide d, .syswr g num wide a, .syswrTtb g a, .syswrCeil g a, .eret g, .tlbinvPage g u, .tlbinvRange g u w,
      .tlbinvCtx g, .invrep g u, .invrepRange g u w, .ctxsaveCopy g d u, .ctxsavePark g d u, .ctxload g d u, .halt g o, .wdclr g,
      .stamp g o] : List Instr), systemOpcode i.opcode = true

/-- The view time of a load is not below its clock, and at it every atom read gives the version valid then: the
current one when it was written by then, else the retained prior one, whose life holds the time. A write's time is not
below its clock and lies above the lease end of its atom; performing it (outside a replay that writes nothing)
changes, as the page's key reads the atom, exactly the enabled bytes, sets the atom's write time and lease end to that
time, and leaves every byte and every other atom as it was. -/
def Obligations.PlacementTimes : Prop :=
  (∀ (s : State) (k c : Nat) (pas : List Nat),
    let v := s.viewFrom (s.loadFloor k) c pas
    c ≤ v ∧ ∀ pa ∈ pas, let a := s.atom pa
      (a.w ≤ v ∧ ∀ key n, s.versionAs key v pa n = s.bytesAs key pa n)
      ∨ ∃ p, a.prior = some p ∧ p.w ≤ v ∧ v < p.ends ∧ v < a.w
        ∧ ∀ key n, s.versionAs key v pa n = ((s.rekeyed p.w p.key key pa p.bytes).drop (pa % 32)).take n)
  ∧ (∀ (s : State) (c pa : Nat), c ≤ s.writeTime c pa ∧ (s.atom pa).e < s.writeTime c pa)
  ∧ (∀ (s : State) (key pa n : Nat), (s.atom pa).key = key → pa % 32 + n ≤ 32 → s.bytesAs key pa n = s.bytes pa n)
  ∧ ∀ (s : State) (w : Writer) (t pa : Nat) (bs : List (Option Byte)) (f : Option Nat), s.dryReplay w.sheet = false → pa % 32 + bs.length ≤ 32 →
    let u := s.perform w t pa bs f
    (∀ a, a / 32 = pa / 32 → u.bytesAs w.key a 1 = match (if pa ≤ a then bs[a - pa]? else none) with
      | some (some b) => [b]
      | _ => s.bytesAs w.key a 1)
    ∧ (u.atom pa).w = t ∧ (u.atom pa).e = t ∧ (u.atom pa).key = w.key
    ∧ ∀ a, a / 32 ≠ pa / 32 → u.byte a = s.byte a ∧ u.atom a = s.atom a

/-- When its addresses pass the access checks and hold no poison, LD completes: each active lane, or the lead lane
alone for a uniform destination, receives the loaded value, widened by its type, in the group of its destination; the
lanes take the view time; no byte of memory and no other register changes. On coherent pages the bytes are those of
the version valid at the one view time of the instruction. A failed check raises its trap. -/
def Obligations.GlobalLoads : Prop :=
  (∀ (s t t1 : State) (c : Site) (g : Guard) (ty : LoadTy) (d a : Reg) (off : Option Word) (xs : List (Req × Leaf)),
    let i := Instr.ld g ty d a off
    let ls := if d.isVec then c.view.active g else if c.view.acts g then [c.view.lead] else []
    let va (l : Nat) : Nat := (c.view.reg64 l a + (off.getD 0).signExtend 64).toNat
    let reqs := ls.map fun l => { lane := l, va := va l, size := ty.mem.size, kind := .read : Req }
    Reaches i s t c →
    (∀ e u, t.checkAccess c.issuer reqs = .error (e, u) → Raises i s u c e)
    ∧ (t.checkAccess c.issuer reqs = .ok (xs, t1) →
        t1.mem = t.mem
        ∧ (∀ e, t1.checkLoad c (c.clockOver (!d.isVec) ls) xs = some e → Raises i s t1 c e)
        ∧ (t1.checkLoad c (c.clockOver (!d.isVec) ls) xs = none →
          let q := t1.loadAll (some c.sid) (c.sh.cluster?.getD 0) (c.clockOver (!d.isVec) ls) xs
          let u := match q.2.1 with | none => q.2.2 | some v => q.2.2.giveTimes c (!d.isVec) ls v
          u.mem = t.mem
          ∧ ∃ r, Does i s (u.putRegs c r) c
            ∧ WritesWords c.view ls d ty.mem.span (fun l => loadWords ty ((tabGet l q.1).getD [])) r)))
  ∧ (∀ (s : State) (who : Option Nat) (k c : Nat) (xs : List (Req × Leaf)), xs ≠ [] → (∀ x ∈ xs, x.2.cm = false) →
      let pas := xs.map fun x => x.2.phys x.1.va
      let v := s.viewFrom (s.loadFloor k) c pas
      s.loadAll who k c xs = (xs.map fun x => (x.1.lane, s.versionAs x.2.key v (x.2.phys x.1.va) x.1.size), some v
        , ((s.fetchRemote k pas).markReads who v pas).drew))
  ∧ (∀ b : Byte, loadWords (.b8 true) [b] = [b.signExtend 32] ∧ loadWords (.b8 false) [b] = [b.setWidth 32])
  ∧ (∀ b0 b1 : Byte, loadWords (.b16 true) [b0, b1] = [(b1 ++ b0 : BitVec 16).signExtend 32]
      ∧ loadWords (.b16 false) [b0, b1] = [(b1 ++ b0 : BitVec 16).setWidth 32])
  ∧ ∀ b0 b1 b2 b3 b4 b5 b6 b7 : Byte, loadWords .b32 [b0, b1, b2, b3] = [b3 ++ b2 ++ b1 ++ b0]
      ∧ loadWords .b64 [b0, b1, b2, b3, b4, b5, b6, b7] = [b3 ++ b2 ++ b1 ++ b0, b7 ++ b6 ++ b5 ++ b4]
      ∧ ∀ bs, loadWords .b128 ([b0, b1, b2, b3, b4, b5, b6, b7] ++ bs) = [b3 ++ b2 ++ b1 ++ b0, b7 ++ b6 ++ b5 ++ b4] ++ loadWords .b64 bs

/-- R286, R287, R289, R291, R165. The rounding of an LDQ fraction that is no binary32 value is the model's choice (log
entry 79), as are a texel's NaN bits (log entry 77), that lost words of the scratchpad are found after the other
checks (log entry 80), and that a line that can no longer be written takes the deadlock trap at once (log entry 60).
-/
def Obligations.LocalLoads : Prop :=
  ∀ (s t : State) (c : Site) (g : Guard) (ty : LoadTy) (d : Reg) (a : Option Reg) (off : Option Word),
    let ls := if d.isVec then c.view.active g else if c.view.acts g then [c.view.lead] else []
    let at_ (l : Nat) : Nat := ((a.map (c.view.reg32 l)).getD 0 + off.getD 0).toNat
    (let i := Instr.lds g ty d a off;
      let fits : Prop := ∀ l ∈ ls, at_ l % ty.mem.size = 0 ∧ at_ l < c.sh.spadSize
      let free : Prop := ∀ l ∈ ls, (c.sh.line (at_ l / 128)).present = true ∧ (c.sh.line (at_ l / 128)).eng = false
      Reaches i s t c →
      let lost (l : Nat) : Prop := c.sh.lostSpan (at_ l) ty.mem.size = true
      (fits → (c.agent = .gang c.gang → free → (∃ l ∈ ls, lost l) →
          ∃ l ∈ ls, lost l ∧ Raises i s t c { cause := 16, check := 9, lane := some l, addr := at_ l, own := true })
        ∧ (c.agent = .gang c.gang → free → (∀ l ∈ ls, ¬lost l) →
          ∃ r, Does i s ((ls.foldl (fun s l => s.placeLines c (!d.isVec) l .read [at_ l / 128]) t).putRegs c r) c
            ∧ WritesWords c.view ls d ty.mem.span (fun l => loadWords ty (c.sh.spadBytes (at_ l) ty.mem.size)) r)
        ∧ (c.agent = .gang c.gang → ¬free → c.sh.dead = [] →
          exec i s = .next (t.waitIn c (.line ((ls.map fun l => at_ l / 128).eraseDups) .free))))
      ∧ (¬fits → ∃ l ∈ ls, Raises i s t c { cause := 3, check := 3, lane := some l, addr := at_ l }
          ∨ Raises i s t c { cause := 5, check := 4, lane := some l, addr := at_ l }))
    ∧ (let i := Instr.ldc g ty d a off
      Starts i s c →
      ((∀ l ∈ ls, at_ l % ty.mem.size = 0 ∧ at_ l < 65536) →
        let const := ((tabGet c.sh.launch s.launches).map (·.const)).getD []
        Runs i s c (WritesWords c.view ls d ty.mem.span fun l => loadWords ty (stGetList 0 (at_ l) ty.mem.size const))))
    ∧ (∀ pd, let i := Instr.sptest g pd a off
      Reaches i s t c → (∀ l ∈ c.view.active g, at_ l < c.sh.spadSize) →
        let here (l : Nat) : Bool := (c.sh.line (at_ l / 128)).present && !(c.sh.line (at_ l / 128)).eng
        ∃ r, Does i s ((((c.view.active g).filter here).foldl (fun s l => s.placeLines c false l .read [at_ l / 128]) t).putRegs c r) c
          ∧ WritesPred c.view g pd here r)
    ∧ (∀ (tx : TexTy) (m : TexMode) (n : Fin 192) (u v rec : Reg) (xs : List (Req × Leaf)) (t1 : State),
      let i := Instr.ldq g tx m n u v rec
      let ls := c.view.active g
      let recAt (l : Nat) : Nat := (c.view.reg32 l rec).toNat
      let lay (l : Nat) : Layout := Layout.of (c.sh.spadBytes (recAt l) 128)
      let co (l : Nat) (r : Reg) : Nat := fmt32.sub .rn (c.view.reg32 l r).toNat 0x3F000000
      let foot (l : Nat) := texels m (lay l) (texelIndex (co l u)) (texelIndex (co l v))
      let reqs := ls.flatMap fun l => (foot l).filterMap fun x => x.map fun p => { lane := l, va := p.1, size := (lay l).size, kind := .read : Req }
      let q := ls.foldl (fun s l => s.placeLines c false l .read [recAt l / 128]) t1
      let clk := maxOf (ls.map (q.clockNow false))
      let out := (q.loadAll (some c.sid) (c.sh.cluster?.getD 0) clk (xs.zipIdx.map fun p => ({ p.1.1 with lane := p.2 }, p.1.2))).1
      -- A fraction: the distance to the floor, rounded where it is no binary32 value.
      let fraction (a w : Nat) : Prop := if fmt32.isNan a ∨ 2 ^ 24 ≤ fmt32.mag (fmt32.abs a) then w = 0
        else let y := fmt32.val a - (fmt32.val a).floor
          (y = 0 → w = 0) ∧ (y ≠ 0 → fmt32.Rounds .rn y w)
      Reaches i s t c → (∀ l ∈ ls, recAt l % 128 = 0 ∧ recAt l < c.sh.spadSize ∧ c.sh.lostSpan (recAt l) 128 = false) → c.hasLines ((ls.map fun l => recAt l / 128).eraseDups) = true →
      (∀ l ∈ ls, texelRecordOk c.sh tx (lay l) = true) → t.checkAccess c.issuer reqs = .ok (xs, t1) → q.checkLoad c clk xs = none →
      ∃ (w : State) (r : Regs), exec i s = .next ((w.putRegs c r).finish c i) ∧ w.mem = t.mem
        ∧ (∃ h, tabGet c.sid w.sheets = some h ∧ ∀ x, h.spadByte x = c.sh.spadByte x)
        ∧ (∀ l ∈ ls, fraction (co l u) (r.vec (n.val + 4) l).toNat ∧ fraction (co l v) (r.vec (n.val + 5) l).toNat
          ∧ ∀ k < 4, ((foot l)[k]? = some none → r.vec (n.val + k) l = 0)
            ∧ ∀ va high, (foot l)[k]? = some (some (va, high)) → ∃ j y, xs[j]? = some y ∧ y.1.lane = l ∧ y.1.va = va
              ∧ r.vec (n.val + k) l = BitVec.ofNat 32 (texelValue c.sh tx (lay l) ((tabGet j out).getD []) high))
        ∧ c.view.regs.but r (fun q l => n.val ≤ q ∧ q < n.val + 6 ∧ l ∈ ls) (fun _ => False) fun _ _ => False)
    -- The placing of these reads changes stamps and clocks only.
    ∧ ∀ (u : State) (once : Bool) (l : Nat) (lines : List Nat), let w := u.placeLines c once l .read lines
      w.mem = u.mem ∧ ∀ k h, tabGet k u.sheets = some h → ∃ h', tabGet k w.sheets = some h' ∧ ∀ x, h'.spadByte x = h.spadByte x

/-- When its addresses pass the checks ST completes and every byte of memory reads as before: on coherent home-only
pages the write it issues holds, lane by lane in increasing order, the physical address and the low bytes of the data
register, and is performed later by WRITE_AT_HOME. STS on free lines writes each lane's low bytes at its address in
lane order; a byte of the scratchpad that it does not store to, and every byte of memory, is as before. -/
def Obligations.Stores : Prop :=
  (∀ (s t t1 : State) (c : Site) (g : Guard) (ty : MemTy) (a b : Reg) (off : Option Word) (xs : List (Req × Leaf)),
    let i := Instr.st g ty a off b
    let once := !a.isVec && !b.isVec
    let ls := if once then (if c.view.acts g then [c.view.lead] else []) else c.view.active g
    let reqs := ls.map fun l => { lane := l, va := (c.view.reg64 l a + (off.getD 0).signExtend 64).toNat, size := ty.size, kind := .write : Req }
    let part (x : Req × Leaf) : LaneWrite := { lane := x.1.lane, va := x.1.va, pa := x.2.pa + x.1.va % 65536, key := x.2.key
                                               op := .store (c.view.storeBytes x.1.lane ty b), home := some (t1.homeOf c.sh.ctx x.1.va x.2) }
    Reaches i s t c →
    (∀ e u, t.checkAccess c.issuer reqs = .error (e, u) → Raises i s u c e)
    ∧ (t.checkAccess c.issuer reqs = .ok (xs, t1) →
        let u := (t1.issueParts c once true (xs.map fun x => (part x, x.2))).sign c.sid
          (xs.map fun x => signatureOf x.1.va 0 ty.size (ofBytesLE (c.view.storeBytes x.1.lane ty b)))
        Does i s u c ∧ u.mem = t.mem
        ∧ (xs ≠ [] → (∀ x ∈ xs, x.2.cm = false ∧ x.2.pl ≠ 2) →
          u.writes = tabPut t1.nextId { sheet := c.sid, gang := c.gang, ctx := c.sh.ctx, once := once, dirtyOn := none, tag := c.sh.ivl.tag
                                        lanes := if once then c.view.lanes else maskOf (xs.map (·.1.lane)), parts := xs.map part } t1.writes)))
  ∧ (∀ (s t : State) (c : Site) (g : Guard) (ty : MemTy) (a : Option Reg) (b : Reg) (off : Option Word),
    let i := Instr.sts g ty a off b
    let once := !(a.any Reg.isVec) && !b.isVec
    let ls := if once then (if c.view.acts g then [c.view.lead] else []) else c.view.active g
    let at_ (l : Nat) : Nat := ((a.map (c.view.reg32 l)).getD 0 + off.getD 0).toNat
    Reaches i s t c → (∀ l ∈ ls, at_ l % ty.size = 0 ∧ at_ l < c.sh.spadSize) → c.hasLines ((ls.map fun l => at_ l / 128).eraseDups) = true →
      let u := ls.foldl (fun s l => (s.placeLines c once l .write [at_ l / 128]).writeSpad c.sid (at_ l) (c.view.storeBytes l ty b)) t
      Does i s u c ∧ u.mem = t.mem ∧ ∀ h, tabGet c.sid t.sheets = some h → ∃ h', tabGet c.sid u.sheets = some h'
        ∧ ∀ x, (∀ l ∈ ls, ¬(at_ l ≤ x ∧ x < at_ l + ty.size)) → h'.spadByte x = h.spadByte x)
  ∧ (∀ (s : State) (sid a : Nat) (bs : List Byte) (h : Sheet), tabGet sid s.sheets = some h →
      ∃ h', tabGet sid (s.writeSpad sid a bs).sheets = some h'
        ∧ ∀ x, h'.spadByte x = if a ≤ x ∧ x < a + bs.length then bs.getD (x - a) 0 else h.spadByte x)
  ∧ ∀ (v : View) (l : Nat) (b : Reg), v.storeBytes l .b8 b = [(v.reg32 l b).setWidth 8]
      ∧ v.storeBytes l .b16 b = [(v.reg32 l b).setWidth 8, (v.reg32 l b).extractLsb' 8 8]

/-- A pending write that no earlier write of its lanes precedes is performed by WRITE_AT_HOME: all its lanes' parts at
once, which takes it from the pending writes, or, when it has several parts and a free value chooses so (the model's
choice, log entry 66), one part, which leaves the others pending; every byte of memory outside the bytes of its lanes'
parts is as before when no page is replicated and the atoms are stored under their pages' keys. A one-lane store at a
reachable home, whose time exists, leaves its bytes at its physical address; a one-lane reduction or atomic the result
of its operation on what its page's key reads there; a comparison that fails leaves memory as it was; each at the
write time of the lane's clock. -/
def Obligations.WritesArrive : Prop :=
  (∀ (s : State) (id : Nat) (w : PendWrite), tabGet id s.writes = some w →
    (∀ p ∈ s.writes, p.1 < id → p.2.sheet = w.sheet → p.2.gang = w.gang → p.2.lanes &&& w.lanes = 0) →
    let u := if w.parts.length ≤ 1 then s else s.drew
    let n := s.free .duration / 2 % w.parts.length
    let whole := w.parts.length ≤ 1 ∨ s.free .duration % 2 = 0
    let apart (a : Nat) (p : LaneWrite) := ¬(p.pa ≤ a ∧ a < p.pa + (match p.op with
      | .store bs => bs.length
      | .red op _ | .atom op _ | .agg op _ _ => if op.wide then 8 else 4
      | .cas wide _ _ => if wide then 8 else 4))
    (whole → exec (.writeAtHome id) s = .next (u.performWrite id).reap)
    ∧ (¬whole → exec (.writeAtHome id) s = .next (u.writePart id n).reap)
    ∧ tabGet id (u.performWrite id).writes = none
    ∧ (1 < w.parts.length → tabGet id (u.writePart id n).writes = some { w with parts := w.parts.eraseIdx (w.pick n) })
    ∧ (s.replicas = [] → (∀ p ∈ w.parts, (s.atom p.pa).key = p.key) → ∀ a, (∀ p ∈ w.parts, apart a p) →
        (u.performWrite id).byte a = s.byte a ∧ (u.writePart id n).byte a = s.byte a))
  ∧ ∀ (s : State) (id : Nat) (w : PendWrite) (p : LaneWrite) (h : Sheet) (q : Gang), tabGet id s.writes = some w → w.parts = [p] → w.dirtyOn = none →
      w.once = false → tabGet w.sheet s.sheets = some h → tabGet w.gang h.gangs = some q → h.replay = none →
      s.replicas = [] → s.unreach p.pa = false → s.repeated p = false → s.writeTime (q.clockOf [p.lane]) p.pa < timeEnd →
      let u := s.performWrite id
      (∀ bs, p.op = .store bs → u.bytes p.pa bs.length = bs)
      ∧ (∀ op x, p.op = .red op x ∨ p.op = .atom op x → u.bytes p.pa (if op.wide then 8 else 4)
          = toBytesLE (if op.wide then 8 else 4) (atomNew op (ofBytesLE (s.bytesAs p.key p.pa (if op.wide then 8 else 4))) x))
      ∧ (∀ wide want new, p.op = .cas wide want new →
          (ofBytesLE (s.bytesAs p.key p.pa (if wide then 8 else 4)) = want → u.bytes p.pa (if wide then 8 else 4) = toBytesLE (if wide then 8 else 4) new)
          ∧ (ofBytesLE (s.bytesAs p.key p.pa (if wide then 8 else 4)) ≠ want → u.mem = s.mem))
      ∧ ((∀ wide want new, p.op ≠ .cas wide want new) → (u.atom p.pa).w = s.writeTime (q.clockOf [p.lane]) p.pa)

/-- When their addresses pass the checks ATOM, CAS, RED and ATAGG complete and change no byte of memory: on home-only
pages the write each issues holds its lanes' operations, operands and request numbers (for ATAGG one operation for the
gang with the combined contributions and each lane's own prefix), and a destination waits for its result. Performing
one lane's atomic gives the lane the value found at the home, an aggregate gives each lane the value with its prefix,
and a request the home has executed already changes nothing. ATOMS completes with each lane's operation made on the
scratchpad in lane order and the old value in its destination. -/
def Obligations.Atomics : Prop :=
  (∀ (s t t1 : State) (c : Site) (g : Guard) (op : AtomOp) (aop : AggOp) (d a b n : Reg) (ua : Fin 64) (off : Option Word) (ty : BitTy)
      (xs : List (Req × Leaf)) (l : Nat) (ls : List Nat),
    let lanes := if d.isVec then c.view.active g else if c.view.acts g then [c.view.lead] else []
    let reqs (ls : List Nat) (base : Reg) (z : Nat) := ls.map fun l =>
      { lane := l, va := (c.view.reg64 l base + (off.getD 0).signExtend 64).toNat, size := z, kind := .write : Req }
    let part (x : (Req × Leaf) × Nat) (op : LaneOp) : LaneWrite :=
      { lane := x.1.1.lane, va := x.1.1.va, pa := x.1.2.pa + x.1.1.va % 65536, key := x.1.2.key, op := op, home := some (t1.homeOf c.sh.ctx x.1.1.va x.1.2)
        req := some (t1.clid (c.sh.cluster?.getD 0), (t1.requestNo + x.2) % 2 ^ 32) }
    let issued (i : Instr) (once wide : Bool) (m : Mask) (dst : Option Reg) (ps : List LaneWrite) : Prop := ∃ u : State,
      exec i s = .next (u.finish c i) ∧ u.mem = t.mem
      ∧ (ps ≠ [] → (∀ x ∈ xs, x.2.pl ≠ 2) → u.requestNo = t1.requestNo + ps.length
        ∧ (t1.nextId, { sheet := c.sid, gang := c.gang, ctx := c.sh.ctx, lanes := m, once := once, dirtyOn := none, tag := c.sh.ivl.tag, parts := ps
                        dst := dst, wide := wide }) ∈ u.writes)
    let val (wide : Bool) (l : Nat) (r : Reg) : Nat := if wide then (c.view.reg64 l r).toNat else (c.view.reg32 l r).toNat
    let mask (once : Bool) (ls : List Nat) : Mask := if once then c.view.lanes else maskOf ls
    (Reaches (.atom g op d a off b) s t c → t.checkAccess c.issuer (reqs lanes a (if op.wide then 8 else 4)) = .ok (xs, t1) → t1.checkData c xs = none →
      issued (.atom g op d a off b) (!d.isVec) op.wide (mask (!d.isVec) lanes) (some d) (xs.zipIdx.map fun x => part x (.atom op (val op.wide x.1.1.lane b))))
    ∧ (Reaches (.cas g ty d a off b n) s t c → t.checkAccess c.issuer (reqs lanes a (if ty = .b64 then 8 else 4)) = .ok (xs, t1) →
      t1.checkData c xs = none → issued (.cas g ty d a off b n) (!d.isVec) (ty == .b64) (mask (!d.isVec) lanes) (some d)
        (xs.zipIdx.map fun x => part x (.cas (ty == .b64) (val (ty == .b64) x.1.1.lane b) (val (ty == .b64) x.1.1.lane n))))
    ∧ (let once := !a.isVec && !b.isVec
      let lanes := if once then (if c.view.acts g then [c.view.lead] else []) else c.view.active g
      Reaches (.red g op a off b) s t c → t.checkAccess c.issuer (reqs lanes a (if op.wide then 8 else 4)) = .ok (xs, t1) →
      issued (.red g op a off b) once false (mask once (xs.map (·.1.lane))) none (xs.zipIdx.map fun x => part x (.red op (val op.wide x.1.1.lane b))))
    ∧ (Reaches (.atagg g aop d ua off b) s t c → lanes = l :: ls →
      t.checkAccess c.issuer (reqs [l] (.s ua) (if aop.wide then 8 else 4)) = .ok (xs, t1) → t1.checkData c xs = none →
      let all (ks : List Nat) : Nat := (ks.map fun k => val aop.wide k b).foldl (atomNew (aggAtom aop)) (aggIdentity aop)
      ∃ pre, (∀ k ∈ l :: ls, tabGet k pre = some (all ((l :: ls).takeWhile (· != k))))
        ∧ issued (.atagg g aop d ua off b) true aop.wide (mask (!d.isVec) (l :: ls)) (some d)
          ((xs.zipIdx.take 1).map fun x => part x (.agg (aggAtom aop) (all (l :: ls)) pre))))
  -- What the performed atomic leaves in its gang's destination.
  ∧ (∀ (s : State) (id : Nat) (w : PendWrite) (p : LaneWrite) (h : Sheet) (q : Gang) (n : Fin 192), tabGet id s.writes = some w → w.parts = [p] →
      w.dirtyOn = none → tabGet w.sheet s.sheets = some h → tabGet w.gang h.gangs = some q → h.replay = none → s.replicas = [] →
      s.unreach p.pa = false → w.dst = some (.v n) →
      let ls := if w.once then lanesOf w.lanes 64 else [p.lane]
      (s.repeated p = true → (s.performWrite id).mem = s.mem)
      ∧ (s.repeated p = false → s.writeTime (q.clockOf ls) p.pa < timeEnd →
        ∃ h' q', tabGet w.sheet (s.performWrite id).sheets = some h' ∧ tabGet w.gang h'.gangs = some q'
          ∧ (∀ l k x, tabGet l q.threads = some x → l ∈ ls → (tabGet l q'.threads).map Thread.clock = some k →
              k = max x.clock (s.writeTime (q.clockOf ls) p.pa))
          ∧ ∀ l ∈ ls, l < 64 → ∀ old new : Nat, old = ofBytesLE (s.bytesAs p.key p.pa p.op.size) →
            ((∃ op x, p.op = .atom op x) ∨ (∃ wide want y, p.op = .cas wide want y) → new = old) →
            (∀ op tot pre, p.op = .agg op tot pre → new = atomNew op old ((tabGet l pre).getD 0)) →
            ((∃ op x, p.op = .atom op x) ∨ (∃ wide want y, p.op = .cas wide want y) ∨ ∃ op tot pre, p.op = .agg op tot pre) →
            q'.regs.vec n.val l = BitVec.ofNat 32 new ∧ (w.wide = true → q'.regs.vec (n.val + 1) l = BitVec.ofNat 32 (new / 2 ^ 32))))
  ∧ (∀ (s t : State) (c : Site) (g : Guard) (op : AtomOp) (d b : Reg) (a : Option Reg) (off : Option Word),
    let i := Instr.atoms g op d a off b
    let n := if op.wide then 8 else 4
    let ls := if d.isVec then c.view.active g else if c.view.acts g then [c.view.lead] else []
    let at_ (l : Nat) : Nat := ((a.map (c.view.reg32 l)).getD 0 + off.getD 0).toNat
    Reaches i s t c → (∀ l ∈ ls, at_ l % n = 0 ∧ at_ l < c.sh.spadSize ∧ c.sh.lostSpan (at_ l) n = false) → c.hasLines ((ls.map fun l => at_ l / 128).eraseDups) = true →
    let one (q : State × Tab Nat) (l : Nat) : State × Tab Nat :=
      let old := ofBytesLE (((tabGet c.sid q.1.sheets).map fun h => h.spadBytes (at_ l) n).getD [])
      ((q.1.placeLines c (!d.isVec) l .write [at_ l / 128]).writeSpad c.sid (at_ l) (toBytesLE n (atomNew op old (c.view.value op.wide l b))), tabPut l old q.2)
    let q := ls.foldl one (t, [])
    q.1.mem = t.mem ∧ ∃ r, exec i s = .next ((q.1.putRegs c r).finish c i)
      ∧ WritesWords c.view ls d (if op.wide then 2 else 1) (fun l => valueWords op.wide ((tabGet l q.2).getD 0)) r)
  ∧ (∀ a b : Word, atomNew (.addI .i32) a.toNat b.toNat = (a + b).toNat ∧ atomNew (.and .b32) a.toNat b.toNat = (a &&& b).toNat
      ∧ atomNew (.or .b32) a.toNat b.toNat = (a ||| b).toNat ∧ atomNew (.xor .b32) a.toNat b.toNat = (a ^^^ b).toNat
      ∧ atomNew (.exch .b32) a.toNat b.toNat = b.toNat ∧ atomNew (.minI .n32) a.toNat b.toNat = min a.toNat b.toNat
      ∧ atomNew (.maxI .n32) a.toNat b.toNat = max a.toNat b.toNat
      ∧ atomNew (.minI .i32) a.toNat b.toNat = (if a.toInt ≤ b.toInt then a else b).toNat
      ∧ atomNew (.maxI .i32) a.toNat b.toNat = (if a.toInt ≤ b.toInt then b else a).toNat)
  ∧ ∀ a b : DWord, atomNew .add64 a.toNat b.toNat = (a + b).toNat

/-- R92, R281, R413 to R418. That a lost or unreachable entry ends the walk with check 9 is R434 and R470; whose own
version it was decides the mark `own` (R430; log entry 80). -/
def Obligations.AccessChecks : Prop :=
  (∀ (s : State) (w : Issuer) (reqs : List Req),
    let q := s.translatePages w (reqs.map fun r => r.va / 65536) w.known
    let page (r : Req) : Option Translated := tabGet (r.va / 65536) q.1
    let leaf (r : Req) : Option Leaf := (page r).bind (·.leaf)
    let first (p : Req → Prop) (r : Req) : Prop := ∃ pre post, reqs = pre ++ r :: post ∧ p r ∧ ∀ x ∈ pre, ¬p x
    let unaligned (r : Req) : Prop := r.va % r.size ≠ 0
    let beyond (r : Req) : Prop := 2 ^ 48 ≤ r.va
    let denied (r : Req) : Prop := ∃ l, leaf r = some l ∧ ((r.kind = .write ∧ l.ro = true) ∨ (r.kind = .fetch ∧ l.x = false)
      ∨ (w.atS = false ∧ l.u = false) ∨ s.granted w.cx l = false)
    let locked (r : Req) : Prop := ∃ l, leaf r = some l ∧ ∀ k c, tabGet l.key s.keys = some k → tabGet w.cx s.ctxs = some c →
      k.key ≠ none → k.grants.testBit c.part = false
    let traps (r : Req) (cause check info : Nat) (t : State) : Prop :=
      s.checkAccess w reqs = .error ({ cause := cause, check := check, lane := some r.lane, addr := r.va, info := info }, t)
    (∀ r, first unaligned r → traps r 3 3 0 s)
    ∧ ((∀ r ∈ reqs, ¬unaligned r) → ∀ r, first beyond r → traps r 4 4 0 s)
    ∧ ((∀ r ∈ reqs, ¬unaligned r ∧ ¬beyond r) → ∀ r, first (fun r => leaf r = none) r →
      ((page r).bind (·.lost) = none → traps r 4 5 0 q.2)
      ∧ ((page r).bind (·.lost) ≠ none → ∃ own,
          s.checkAccess w reqs = .error ({ cause := 16, check := 9, lane := some r.lane, addr := r.va, own := own }, q.2)))
    ∧ ((∀ r ∈ reqs, ¬unaligned r ∧ ¬beyond r ∧ leaf r ≠ none) →
      (∀ r, first denied r → traps r 5 6 0 q.2)
      ∧ ((∀ r ∈ reqs, ¬denied r) →
        (∀ r l, first locked r → leaf r = some l → traps r 6 7 l.key q.2)
        ∧ ((∀ r ∈ reqs, ¬locked r) → ∃ xs, s.checkAccess w reqs = .ok (xs, q.2) ∧ xs.map (·.1) = reqs ∧ ∀ x ∈ xs, leaf x.1 = some x.2))))
  -- What a partition was granted.
  ∧ (∀ (s : State) (cx : Nat) (l : Leaf) (c : Context) (p : Partition), tabGet cx s.ctxs = some c → tabGet c.part s.parts = some p →
    let own : Prop := paDevice l.pa = s.steward.device
    let within (base size : Nat) : Prop := base ≤ l.pa ∧ l.pa + 65536 ≤ base + size
    (s.granted cx l = true ↔ if l.pl = 0 then own ∧ within p.winBase p.winSize
      else if own then ∃ r ∈ p.ranges, within r.1 r.2 else paDevice l.pa ∈ p.devices))
  -- A translation is the walk's or a cached one; of a page not translated yet the instruction keeps what it found.
  ∧ (∀ (s : State) (cx : Nat) (cl : Option Nat) (die clk page : Nat) (c : Context), tabGet cx s.ctxs = some c →
    let got := (s.leafOf cx cl die clk page).1
    let near := cl.bind fun k => leafGet k page c.near
    let mine := leafGet die page c.tlb
    (got = (s.walk cx die clk page).1.leaf ∨ (got = near ∧ near ≠ none) ∨ (got = mine ∧ mine ≠ none))
    ∧ (near = none → mine = none → got = (s.walk cx die clk page).1.leaf))
  ∧ (∀ (s : State) (w : Issuer) (p : Nat), tabGet p w.known = none →
    let q := s.translatePages w [p] w.known
    q.2 = (s.leafOf w.cx w.cl w.die w.clk p).2 ∧ (tabGet p q.1).bind (·.leaf) = (s.leafOf w.cx w.cl w.die w.clk p).1)
  -- The walk, with no level-1 entry held.
  ∧ (∀ (s : State) (cx die clk page : Nat) (c : Context), tabGet cx s.ctxs = some c → (∀ m ∈ c.mids, ¬(m.1 = die ∧ m.2.1 = page / 8192)) →
    let read (k pa : Nat) : Entry := (s.readEntry (max clk (c.floor page)) k pa).1
    let mem (e : Entry) : Nat := s.packageMemory (paDevice e.pa)
    let table (e : Entry) : Prop := e.lo = 1 ∧ e.pa % 2 ^ 17 = 0
    let at0 := c.ttb / 65536 * 65536 + 16 * (page / 2 ^ 26)
    let e0 := read 0 at0
    let at1 := e0.pa + 16 * (page / 2 ^ 13 % 2 ^ 13)
    let e1 := read 1 at1
    let at2 := e1.pa + 16 * (page % 2 ^ 13)
    let e2 := read 2 at2
    let got := (s.walk cx die clk page).1.leaf
    (¬table e0 → got = none) ∧ (table e0 → ¬table e1 → got = e1.leaf 1 page at1 (mem e1)) ∧ (table e0 → table e1 → got = e2.leaf 2 page at2 (mem e2)))
  ∧ (∀ (s : State) (c k pa : Nat), ∃ v, c ≤ v ∧ s.readEntry c k pa =
    (if s.poisonedAt v pa 16 = true ∨ paDevice pa ∈ s.unreachable then { lo := 0, pa := 0 }
      else { lo := fieldAt (s.versionBytes v pa 16) 0 8, pa := fieldAt (s.versionBytes v pa 16) 8 8 }, v))
  ∧ ∀ (e : Entry) (level page at_ memory : Nat) (l : Leaf),
    let b (i n : Nat) : Nat := e.lo / 2 ^ i % 2 ^ n
    (e.leaf level page at_ memory = some l ↔
      b 0 1 = 1 ∧ b 1 2 = (if level = 1 then 2 else 1) ∧ b 3 2 ≠ 3 ∧ ¬(level = 1 ∧ b 3 2 = 2) ∧ b 10 6 = 0 ∧ e.lo < 2 ^ 24
      ∧ e.pa % (if level = 1 then 2 ^ 29 else 2 ^ 16) = 0 ∧ paOffset e.pa < memory
      ∧ l = { pa := e.pa + (if level = 1 then page % 2 ^ 13 * 2 ^ 16 else 0), pl := b 3 2, cm := b 5 1 == 1, xs := b 6 1 == 1, ro := b 7 1 == 1
              x := b 8 1 == 1, u := b 9 1 == 1, key := b 16 8, block := level == 1, entryPa := at_ })

/-- R122 to R124, R138, R285, R309, R310. That of two stores at one clock to one byte the last to issue stands is the
model's choice (log entry 78); that a folio counts as open until its close is performed is the model's choice (log
entry 98). -/
def Obligations.Folios : Prop :=
  (∀ (s t : State) (c : Site) (g : Guard) (d : Fin 64) (a : UOperand) (ctx : Context),
    let i := Instr.fopen g d a
    let n := (c.view.uop a).toNat
    ActsOn i g s t c → tabGet c.sh.ctx t.ctxs = some ctx →
    ((n = 0 ∨ 65535 < n) → Raises i s t c { cause := 1, check := 2 })
    ∧ (1 ≤ n → n ≤ 65535 →
      (∀ slot, t.folioSlot c.sh.ctx ctx = .ok slot →
        let gen := (ctx.folio slot).gen + 1
        let u := t.modCtx c.sh.ctx fun x => { x with folios := tabPut slot { st := .opened, gen := gen, count := n } x.folios }
        Does i s (((u.putRegs c (c.view.regs.setUni d.val (BitVec.ofNat 32 (slot + 256 * gen)))).pinDown c.sid).noAudit c.sid) c)
      ∧ ∀ k, t.folioSlot c.sh.ctx ctx = .error k → Raises i s t c { cause := 13, check := 8, info := k }))
  ∧ (∀ (s t t1 : State) (c : Site) (g : Guard) (ty : MemTy) (a b h : Reg) (off : Option Word) (ctx : Context) (xs : List (Req × Leaf)),
    let i := Instr.stF g ty a off b h
    let once := !a.isVec && !b.isVec && !h.isVec
    let ls := if once then (if c.view.acts g then [c.view.lead] else []) else c.view.active g
    let handle (l : Nat) : Nat := (c.view.reg32 l h).toNat
    Reaches i s t c → tabGet c.sh.ctx t.ctxs = some ctx →
    ((∃ l ∈ ls, ctx.openFolio (handle l) = none) → ∃ l ∈ ls, Raises i s t c { cause := 1, check := 2, lane := some l })
    ∧ ((∀ l ∈ ls, ∃ f, ctx.openFolio (handle l) = some f) →
      t.checkAccess c.issuer (ls.map fun l => { lane := l, va := (c.view.reg64 l a + (off.getD 0).signExtend 64).toNat, size := ty.size, kind := .write })
        = .ok (xs, t1) → t.folioCheck c.sh.ctx ctx (xs.map fun x => (x.1.lane, x.2.phys x.1.va, handle x.1.lane)) = none →
      let join (u : State) (x : Req × Leaf) : State :=
        if u.unreach (x.2.phys x.1.va) then u.asyncError c.sh.ctx 7 x.1.va 0
        else
          let pa := x.2.phys x.1.va
          -- A byte that a higher lane of the instruction also stores is that lane's.
          let covered (k : Nat) : Bool := xs.any fun y => decide (x.1.lane < y.1.lane) && decide (y.2.phys y.1.va ≤ pa + k) && decide (pa + k < y.2.phys y.1.va + ty.size)
          let j : FolioStore := { va := x.1.va, pa := pa, key := x.2.key, home := u.homeOf c.sh.ctx x.1.va x.2, clk := c.clockAt once x.1.lane
                                  bytes := (c.view.storeBytes x.1.lane ty b).zipIdx.map fun p => if covered p.2 then none else some p.1, tag := c.sh.ivl.tag }
          (u.beforeWrite c.sh.ctx x.1.va).modCtx c.sh.ctx fun q =>
            { q with folios := tabMod (handle x.1.lane % 256) (fun f => { f with joins := f.joins ++ [j] }) q.folios }
      let u := xs.foldl join t1
      Does i s (u.noAudit c.sid) c ∧ (t1.replicas = [] → u.mem = t.mem)))
  ∧ (∀ (s t : State) (c : Site) (g : Guard) (a : Fin 64) (ctx : Context),
    let i := Instr.fclose g a
    let handle := (c.view.regs.uni a.val).toNat
    ActsOn i g s t c → tabGet c.sh.ctx t.ctxs = some ctx →
    (ctx.openFolio handle = none → Raises i s t c { cause := 1, check := 2 })
    ∧ ∀ f, ctx.openFolio handle = some f →
      let f1 : Folio := { f with count := f.count - 1, clk := max f.clk c.clk }
      let f2 : Folio := if f1.count = 0 then { f1 with st := .closing, closer := some (c.sid, c.gang, c.view.lanes) } else f1
      Does i s (((t.modCtx c.sh.ctx fun x => { x with folios := tabPut (handle % 256) f2 x.folios }).pinDown c.sid).noAudit c.sid) c)
  ∧ (∀ (s : State) (cx slot : Nat) (ctx : Context), tabGet cx s.ctxs = some ctx → (ctx.folio slot).st = .closing →
      exec (.folioClose cx slot) s = .next (s.closeFolio cx slot).reap)
  ∧ ∀ (s : State) (cx slot : Nat) (ctx : Context) (f : Folio), tabGet cx s.ctxs = some ctx → tabGet slot ctx.folios = some f →
      s.replicas = [] → (∀ j ∈ f.joins, (s.atom j.pa).key = j.key ∧ j.pa % 32 + j.bytes.length ≤ 32 ∧ s.unreach (j.pa / 32 * 32) = false) →
      let u := s.closeFolio cx slot
      let t := 1 + max f.clk (maxOf (f.joins.map fun j => (s.atom j.pa).e))
      let has (j : FolioStore) (x : Nat) (b : Byte) : Prop := j.pa ≤ x ∧ j.bytes[x - j.pa]? = some (some b)
      (timeEnd ≤ t → u = s.exhaust cx)
      ∧ (t < timeEnd →
        (∀ x, (∀ j ∈ f.joins, ∀ b, ¬has j x b) → u.byte x = s.byte x)
        ∧ (∀ x pre j post b, f.joins = pre ++ j :: post → has j x b → (∀ k ∈ pre, ∀ y, has k x y → k.clk ≤ j.clk) →
          (∀ k ∈ post, ∀ y, has k x y → k.clk < j.clk) → u.byte x = b)
        ∧ (∀ j ∈ f.joins, (u.atom j.pa).w = t ∧ (s.atom j.pa).e < t) ∧ f.clk < t
        ∧ ((tabGet cx u.ctxs).bind fun q => tabGet slot q.folios) = some { f with st := .closed, closeT := t, joins := [], closer := none })

/-- FENCE.G completes with every earlier write of the gang performed and each active lane's clock raised to the
greatest clock of the gang's lanes that have not exited; FENCE.S does the same over the sheet and its sequencers;
FENCE.C completes with the counter's count in its destination and the clocks of its lanes raised to the counter's
greatest time. Clocks never fall. -/
def Obligations.Fences : Prop :=
  ∀ (s t : State) (c : Site) (g : Guard),
    (Reaches (.fenceG g) s t c →
      let u := t.drainLanes c.sid c.gang (lanesBelow c.sh.W)
      let m := maxOf ((((tabGet c.sid u.sheets).bind fun h => tabGet c.gang h.gangs).map Gang.liveClocks).getD [])
      Does (.fenceG g) s (u.modGang c.sid c.gang fun q => q.raiseClock (c.view.active g) m) c)
    ∧ (Reaches (.fenceS g) s t c → ∀ h, tabGet c.sid (t.drainSheet c.sid).sheets = some h →
      let m := max (maxOf (h.gangs.flatMap fun p => p.2.liveClocks)) (max h.mseq.clock h.cseq.clock)
      Does (.fenceS g) s ((t.drainSheet c.sid).modGang c.sid c.gang fun q => q.raiseClock (c.view.active g) m) c)
    ∧ (∀ (k : Fin 8) (d : Reg), Reaches (.fenceC g k d) s t c →
      let ls := if d.isVec then c.view.active g else if c.view.acts g then [c.view.lead] else []
      let x := (tabGet k.val c.sh.counters).getD {}
      let u := if ls = [] then t else t.giveTimes c (!d.isVec) ls x.cmax
      ∃ r, Does (.fenceC g k d) s (u.putRegs c r) c ∧ Writes32 c.view g d (fun _ => x.count) r)
    ∧ ∀ (q : Gang) (ls : List Nat) (m l : Nat) (x : Thread), tabGet l q.threads = some x →
      (tabGet l (q.raiseClock ls m).threads).map Thread.clock = some (if l ∈ ls then max x.clock m else x.clock)

/-- R97, R179, R299 to R303. That BARINV clears the whole barrier, its targets too, is the model's choice (log entry
97). -/
def Obligations.Barriers : Prop :=
  (∀ (s t : State) (c : Site) (g : Guard) (b : Fin 16) (ext : Bool) (n : BarCounts),
    let i := Instr.barinit g b ext n
    let nt := (barCounts c.view n).1
    let nc := (barCounts c.view n).2
    ActsOn i g s t c →
    ((c.sh.T < nt ∨ 65535 < nc ∨ (nt = 0 ∧ nc = 0)) → Raises i s t c { cause := 1, check := 2 })
    ∧ (nt ≤ c.sh.T → nc ≤ 65535 → (nt ≠ 0 ∨ nc ≠ 0) →
      (c.sh.waitersOn b.val = [] → Does i s (t.modBar c.sid b.val fun _ => { valid := true, ext := ext, nt := nt, nc := nc }) c)
      ∧ (c.sh.waitersOn b.val ≠ [] → Raises i s t c { cause := 9, check := 8 })))
  ∧ (∀ (s t : State) (c : Site) (g : Guard) (b : Fin 16), ActsOn (.barinv g b) g s t c →
    ((c.sh.bar b.val).valid = true →
      Does (.barinv g b) s ((t.releaseBarrier c.sid b.val (max (c.sh.bar b.val).clk c.clk + 1) false).modBar c.sid b.val fun _ => {}) c)
    ∧ ((c.sh.bar b.val).valid = false → Does (.barinv g b) s t c))
  ∧ (∀ (s t : State) (c : Site) (g : Guard) (b : Fin 16) (pd : Fin 8) (l : Nat) (ls : List Nat), c.view.active g = l :: ls →
    let run (i : Instr) (wait : Option (Fin 8)) : Prop :=
      let q := (l :: ls).foldl (fun q k =>
        let r := q.1.threadArrival c i b.val wait k
        (r.1, q.2 || r.2)) (t, false)
      exec i s = .next (if q.2 then ((q.1.finish c i).shadowPoints [c.sid]).reap else q.1.finish c i)
    (Reaches (.bar g b pd) s t c → (c.sh.bar b.val).valid = true → run (.bar g b pd) (some pd))
    ∧ (Reaches (.barArrive g b) s t c → (c.sh.bar b.val).valid = true → run (.barArrive g b) none)
    ∧ (Reaches (.bar g b pd) s t c → (c.sh.bar b.val).valid = false → Raises (.bar g b pd) s t c { cause := 10, check := 8, lane := some l })
    ∧ (Reaches (.barArrive g b) s t c → (c.sh.bar b.val).valid = false → Raises (.barArrive g b) s t c { cause := 10, check := 8, lane := some l }))
  ∧ (∀ (s : State) (sid b : Nat) (h : Sheet), tabGet sid s.sheets = some h →
    let x := h.bar b
    ((s.tryPhase sid b).2 = true ↔ x.nt ≤ x.at_ ∧ x.nc ≤ x.ac)
    ∧ ((s.tryPhase sid b).2 = false → (s.tryPhase sid b).1 = s)
    ∧ ((s.tryPhase sid b).2 = true → (tabGet sid (s.tryPhase sid b).1.sheets).map (fun h => h.bar b)
        = some { x with at_ := x.at_ - x.nt, ac := x.ac - x.nc, clk := 0 }))
  -- Every waiter of the completed phase, by the greatest clock of the arrivals (R302).
  ∧ (∀ (s : State) (sid b n : Nat) (h : Sheet) (q : Gang) (l : Nat) (x : Thread) (pd : Fin 8), tabGet sid s.sheets = some h → (s.tryPhase sid b).2 = true →
    tabGet n h.gangs = some q → q.atS = false → tabGet l q.threads = some x → x.st = .barrier b pd → l < 64 →
    ∃ h' q' y, tabGet sid (s.tryPhase sid b).1.sheets = some h' ∧ tabGet n h'.gangs = some q' ∧ tabGet l q'.threads = some y
      ∧ y.clock = max x.clock ((h.bar b).clk + 1) ∧ (pd.val ≠ 7 → q'.regs.predAt pd l = true) ∧ ∀ k d, y.st ≠ .barrier k d)
  ∧ (∀ (q : Gang) (l clk b : Nat) (pd : Fin 8) (v : Bool) (x : Thread), tabGet l q.threads = some x → x.st = .barrier b pd → q.atS = false → l < 64 →
    let r := q.releaseLanes [l] clk v
    (tabGet l r.threads).map Thread.clock = some (max x.clock clk) ∧ (pd.val ≠ 7 → r.regs.predAt pd l = v))
  ∧ ∀ (s : State) (sheet gang : Nat) (h : Sheet) (q : Gang), tabGet sheet s.sheets = some h → tabGet gang h.gangs = some q →
      let due := q.lanesIn fun st => match st with | .wave a => decide (a ≤ s.now) | _ => false
      due ≠ [] → exec (.barrierWaveRelease sheet gang) s = .next (s.modGang sheet gang fun q => q.wake due)

/-- QINIT of a well-formed configuration on a queue at rest completes with it open and empty; QPUSH of a producer with
a slot and an allowance completes with the value appended and the allowance lowered, and waits with none; QPOP and
QTRY take the oldest entry, set their predicate true and return its producer's allowance; on an empty open queue QPOP
waits and QTRY clears its predicate; on an empty closed queue both clear it. QCLOSE closes an open queue. An
uninitialised queue and a broken one trap. -/
def Obligations.Queues : Prop :=
  ∀ (s t : State) (c : Site) (g : Guard) (q : Fin 16) (a : UOperand) (pd : Fin 8) (d : Fin 64),
    let x := c.sh.queue q.val
    let done (i : Instr) (u : State) : Prop := Does i s (u.pinDown c.sid) c
    (ActsOn (.qinit g q a) g s t c →
      (queueConfigOk (c.view.uop a).toNat = false → Raises (.qinit g q a) s t c { cause := 1, check := 2 })
      ∧ (queueConfigOk (c.view.uop a).toNat = true → (x.st = .uninit ∨ (x.st = .closed ∧ x.entries = [] ∧ c.sh.queueWaited q.val = false)) →
        Does (.qinit g q a) s (t.modSheet c.sid fun h => h.modQueue q.val fun _ => { st := .opened, cfg := c.view.uop a }) c)
      ∧ (queueConfigOk (c.view.uop a).toNat = true → (x.st = .opened ∨ x.st = .broken) → Raises (.qinit g q a) s t c { cause := 11, check := 8 }))
    ∧ (∀ n slot, x.st = .opened → x.slots[n]? = some slot → x.slots.findIdx? (fun y => y.who == c.agent.producer) = some n →
      x.slots.length ≤ bitsOf x.cfg.toNat 8 8 → ActsOn (.qpush g q a) g s t c →
      (slot.allow ≠ 0 →
        let clk := max c.clk slot.clk
        let slots := x.slots.zipIdx.map fun p => if p.2 = n then { p.1 with allow := p.1.allow - 1 } else p.1
        done (.qpush g q a) ((t.raiseTo c clk).modSheet c.sid fun h =>
          (h.modQueue q.val fun y => { y with slots := slots }).append q.val { val := c.view.uop a, slot := n, clk := clk }))
      ∧ (slot.allow = 0 → ∀ k, c.agent = .gang k → exec (.qpush g q a) s = .next (t.waitIn c (.push q.val)))
      ∧ (slot.allow = 0 → ∀ k, c.agent = .seq k → exec (.qpush g q a) s = .next (t.seqWait c (.push q.val))))
    ∧ (x.st = .opened → (∀ y ∈ x.slots, y.who ≠ c.agent.producer) → x.slots.length < bitsOf x.cfg.toNat 8 8 → 0 < bitsOf x.cfg.toNat 16 8 →
      ActsOn (.qpush g q a) g s t c →
      let slots := x.slots ++ [{ who := c.agent.producer, allow := bitsOf x.cfg.toNat 16 8 - 1 }]
      done (.qpush g q a) ((t.raiseTo c c.clk).modSheet c.sid fun h =>
        (h.modQueue q.val fun y => { y with slots := slots }).append q.val { val := c.view.uop a, slot := x.slots.length, clk := c.clk }))
    ∧ (x.st = .opened → (∀ y ∈ x.slots, y.who ≠ c.agent.producer) → bitsOf x.cfg.toNat 8 8 ≤ x.slots.length →
      ActsOn (.qpush g q a) g s t c → Raises (.qpush g q a) s t c { cause := 11, check := 8 })
    ∧ (∀ e es, (x.st = .opened ∨ x.st = .closed) → x.entries = e :: es →
      let u := ((t.modSheet c.sid fun h => h.modQueue q.val fun y => { y with entries := y.entries.drop 1 }).raiseTo c e.clk).modSheet c.sid
        fun h => h.returnAllowance q.val e.slot (max c.clk e.clk)
      let r := (c.view.regs.setUni d.val e.val).putPred pd c.view.enabled fun _ => true
      (ActsOn (.qpop g q pd d) g s t c → done (.qpop g q pd d) (u.putRegs c r))
      ∧ (ActsOn (.qtry g q pd d) g s t c → done (.qtry g q pd d) (u.putRegs c r)))
    ∧ (x.entries = [] →
      let r := c.view.regs.putPred pd c.view.enabled fun _ => false
      let w : QPopWait := { gang := c.gang, lanes := c.view.lanes, dst := d, pd := pd, next := c.next (.qpop g q pd d) }
      (x.st = .closed → ActsOn (.qpop g q pd d) g s t c → done (.qpop g q pd d) (t.putRegs c r))
      ∧ ((x.st = .opened ∨ x.st = .closed) → ActsOn (.qtry g q pd d) g s t c → done (.qtry g q pd d) (t.putRegs c r))
      ∧ (x.st = .opened → ActsOn (.qpop g q pd d) g s t c →
        exec (.qpop g q pd d) s = .next (((t.modSheet c.sid fun h => h.modQueue q.val fun y => { y with pops := y.pops ++ [w] }).pinDown c.sid).waitIn c (.pop q.val))))
    ∧ (ActsOn (.qclose g q) g s t c →
      (x.st = .opened → done (.qclose g q) (t.modSheet c.sid fun h => h.endQueue q.val .closed c.clk))
      ∧ (x.st = .closed → done (.qclose g q) t))
    ∧ ∀ i ∈ ([.qpush g q a, .qpop g q pd d, .qtry g q pd d, .qclose g q] : List Instr), ActsOn i g s t c →
      (x.st = .uninit → Raises i s t c { cause := 1, check := 2 }) ∧ (x.st = .broken → Raises i s t c { cause := 11, check := 8 })

/-- R37, R195 to R200, R311. That uncorrectable data that a LAUNCH reads is the trap of check 9 and no status is the
model's choice (log entry 38), as are that a patch offset that is no multiple of 4 makes the entry invalid (log entry
83) and that the lanes' clocks do not take the view time (log entry 99). -/
def Obligations.Launching : Prop :=
  (∀ (s t : State) (c : Site) (g : Guard) (d : Fin 64) (a : AddrOperand),
    let i := Instr.launch g d a
    let va := match a with | .s n => (c.view.upair n).toNat | .imm64 w => w.toNat
    ActsOn i g s t c →
    (va % 128 ≠ 0 → Raises i s t c { cause := 3, check := 3, addr := va })
    ∧ (va % 128 = 0 →
      let done (n : Nat) (u : State) : Prop := exec i s
        = .next ((((u.putRegs c (c.view.regs.setUni d.val (BitVec.ofNat 32 n))).pinDown c.sid).noAudit c.sid).finish c i)
      let lost (e : Trap) (u : State) : Prop := Raises i s u c { cause := 16, check := 9, lane := some c.view.lead, addr := e.addr, own := e.own }
      match t.readSpan c.issuer va 128 32 with
      | .error (.xlate, u) => done 3 u
      | .error (.lost e, u) => lost e u
      | .ok (bs, w, u) => match u.submit c.sh.ctx w bs with
        | .error (e, u) => lost e u
        | .ok (n, u) => done n u))
  ∧ (∀ (s : State) (cx : Nat) (w : Issuer) (bs : List Byte),
    let r := LaunchRec.of bs
    let low (a : Nat) : Prop := a < 2 ^ 48
    (r.recordOk = true ↔ r.spare = 0 ∧ r.ndep ≤ 4 ∧ low r.kaddr ∧ low r.paddr ∧ (r.cpv = true → low r.caddr) ∧ ∀ d ∈ r.deps.take r.ndep, low d.1)
    ∧ (r.alignOk = true ↔ r.kaddr % 128 = 0 ∧ r.paddr % 16 = 0 ∧ (r.cpv = true → r.caddr % 8 = 0) ∧ ∀ d ∈ r.deps.take r.ndep, d.1 % 8 = 0)
    ∧ (r.recordOk = false → s.submit cx w bs = .ok (1, s))
    ∧ (r.recordOk = true → r.alignOk = false → s.submit cx w bs = .ok (2, s))
    ∧ ∀ n u, s.submit cx w bs = .ok (n, u) → n ≤ 8
      ∧ (n = 0 → ∃ k l, tabGet k u.launches = some l ∧ l.ctx = cx ∧ u.nextId = k + 1)
      ∧ (n ≠ 0 → u.launches.map (·.1) = s.launches.map (·.1)))
  ∧ (∀ (s u : State) (cx : Nat) (w : Issuer) (bs : List Byte) (x : Submission), (LaunchRec.of bs).recordOk = true → (LaunchRec.of bs).alignOk = true →
    let answers (n : Nat) (v : State) : Prop := s.submit cx w bs = .ok (n, v)
    (∀ v, s.readSubmission w (LaunchRec.of bs) = .error (.xlate, v) → answers 3 v)
    ∧ (∀ e v, s.readSubmission w (LaunchRec.of bs) = .error (.lost e, v) → s.submit cx w bs = .error (e, v))
    ∧ (s.readSubmission w (LaunchRec.of bs) = .ok (x, u) →
      let h := x.h
      let mEnd := h.mseq + 32 * h.mseqN
      let cEnd := h.cseq + 32 * h.cseqN
      let header : Prop := h.magic = 0x4B52444E ∧ h.ver = 1 ∧ h.spare = 0 ∧ h.entry % 4 = 0 ∧ h.mseq % 32 = 0 ∧ h.cseq % 32 = 0 ∧ h.ptoff % 8 = 0
        ∧ h.coff % 4 = 0 ∧ (h.mseqN = 0 → h.mseq = 0) ∧ (h.cseqN = 0 → h.cseq = 0) ∧ ¬(h.mseqN ≠ 0 ∧ h.cseqN ≠ 0 ∧ h.mseq < cEnd ∧ h.cseq < mEnd)
        ∧ ¬(h.mseq ≤ h.entry ∧ h.entry < mEnd) ∧ ¬(h.cseq ≤ h.entry ∧ h.entry < cEnd) ∧ h.ptcnt ≤ 1024 ∧ h.csize ≤ 61440 ∧ h.csize % 4 = 0
      let patches : Prop := ∀ p ∈ x.patches, p.spare = 0 ∧ p.ioff % 4 = 0 ∧ p.poff % 4 = 0 ∧ p.poff + (if p.wide then 8 else 4) ≤ h.psize
        ∧ (x.patches.filter fun q => q.ioff = p.ioff).length = 1 ∧ (if p.wide then p.word % 4 = 2 ∧ p.word / 2 ^ 58 % 4 ≠ 0 else p.word % 4 = 1)
      let shape : Prop := h.gwid ∈ [8, 16, 32, 64] ∧ 1 ≤ h.nthr ∧ h.nthr ≤ 1024 ∧ h.nthr % h.gwid = 0 ∧ h.nthr ≤ 64 * min h.gwid 16 ∧ h.psize ≤ 4096
        ∧ h.psize % 4 = 0
      let pool := if x.r.pov then x.r.poolov else h.pool
      let fits : Prop := 4 ≤ pool % 256 ∧ pool / 2 ^ 16 % 256 ≤ 32 ∧ poolGranules pool ≤ 128 ∧ pool < 2 ^ 24
        ∧ ∃ k ∈ u.ctxClusters cx, ∃ q, tabGet k u.clusters = some q ∧ poolGranules pool ≤ q.lgr
      let full : Prop := 256 ≤ (u.launches.filter fun p => p.2.ctx = cx ∧ p.2.queued = true ∧ p.2.prio = x.r.prio).length
      (x.cm = true → answers 4 u)
      ∧ (x.cm = false → ¬(header ∧ patches) → answers 5 u)
      ∧ (x.cm = false → header → patches → ¬shape → answers 6 u)
      ∧ (x.cm = false → header → patches → shape → ¬fits → answers 7 u)
      ∧ (x.cm = false → header → patches → shape → fits → full → answers 8 u)
      ∧ (x.cm = false → header → patches → shape → fits → ¬full → ∃ v, answers 0 v)))
  -- What cannot be read, in its order: the header, the parameters, the counters and the entry page.
  ∧ ∀ (s s1 s2 s3 : State) (w w1 w2 w3 : Issuer) (r : LaunchRec) (hb ps : List Byte) (cs : List (Nat × Nat × Leaf)),
    let h := Header.of hb
    let names := (if r.cpv then [(r.caddr, 0)] else []) ++ r.deps.take r.ndep
    let entry : Req := { lane := 0, va := (r.kaddr + h.entry) / 4 * 4, size := 4, kind := .fetch }
    (∀ e, s.readSpan w r.kaddr 128 32 = .error e → s.readSubmission w r = .error e)
    ∧ (s.readSpan w r.kaddr 128 32 = .ok (hb, w1, s1) →
      (∀ e, s1.readSpan w1 r.paddr h.psize 4 = .error e → s.readSubmission w r = .error e)
      ∧ (s1.readSpan w1 r.paddr h.psize 4 = .ok (ps, w2, s2) →
        (∀ e, s2.readCounters w2 names = .error e → s.readSubmission w r = .error e)
        ∧ (s2.readCounters w2 names = .ok (cs, w3, s3) → ∀ e v, s3.checkAccess { w3 with atS := false } [entry] = .error (e, v) →
          s.readSubmission w r = .error (.xlate, v))))

/-- R313 to R320, R329. That lost words are found after the other checks is the model's choice (log entry 80). -/
def Obligations.MatrixProducts : Prop :=
  (∀ (s : State) (c : Site) (g : Guard) (ty : MatTy) (acc : Fin 16) (z : Bool) (a b : Fin 192) (f : Option Reg),
    let i := Instr.mma g ty acc z a b f
    let word (l n : Nat) : Word := (f.map fun r => c.view.regPlus l r n).getD 0
    let fa := NFWord.ofNat (word c.view.lead 0).toNat
    let fb := NFWord.ofNat (word c.view.lead 1).toNat
    let wide (h : NFWord) : Nat := if h.wid ≤ 4 then 4 else 8
    let bits : Nat := match ty with | .f16 | .bf16 => 16 | .i8 | .n8 => 8 | .i4 | .n4 => 4 | .nf => wide fa
    let K := if ty = .nf ∧ fa.sck = 1 then 16 * fa.blk else 256 / bits
    let regs := (K * bits / 2 + c.sh.W - 1) / c.sh.W
    -- Element k of row j of the group at `base`, from its word and its place there.
    let elem (base j k : Nat) : Nat :=
      let w := j * (K * bits / 32) + k * bits / 32
      (c.view.regs.vec (base + w / c.view.W) (w % c.view.W)).toNat / 2 ^ (k % (32 / bits) * bits) % 2 ^ bits
    -- The beats begin with the next lane cycle; the fragment is awaited on the scoreboard until the last.
    let q := s.startBeats c (max 1 ((4 * K * bits + 255) / 256))
    let fits := a.val + regs ≤ c.sh.nv ∧ b.val + regs ≤ c.sh.nv
    let agree := wide fa = wide fb ∧ fa.sck = fb.sck ∧ fa.blk = fb.blk
    let lost := c.lost c.view.enabled [(.v a.val, regs), (.v b.val, regs)] = true
    let gives : Prop := (lost → Raises i s s c { cause := 16, check := 9, lane := some c.view.lead, own := true }) ∧ (¬lost → ∃ (r : Regs) (el : Nat → Word), WritesFrag c.view.regs acc.val el r
      ∧ (∀ e < 256, MatElement ty bits K fa fb (elem a.val (e / 16)) (elem b.val (e % 16)) (if z then 0 else c.view.regs.acc acc.val e) (el e))
      ∧ Does i s ((q.1.putRegs c r).modGang c.sid c.gang fun h => { h with board := h.board ++ boardOf [(.a acc.val, 1)] q.2 }) c)
    Acts i g s c →
    (c.accBound = true → Raises i s s c { cause := 1, check := 2 })
    ∧ (c.accBound = false → ty ≠ .nf → f = none → gives)
    ∧ (c.accBound = false → ty = .nf → f ≠ none →
      ((∀ l ∈ c.view.active g, word l 0 = word c.view.lead 0 ∧ word l 1 = word c.view.lead 1) →
        (fa.WellFormed → fb.WellFormed → agree → fits → gives)
        ∧ (¬(fa.WellFormed ∧ fb.WellFormed ∧ agree ∧ fits) → Raises i s s c { cause := 1, check := 2 }))
      ∧ ((∃ l ∈ c.view.active g, word l 0 ≠ word c.view.lead 0 ∨ word l 1 ≠ word c.view.lead 1) →
        ∃ info, Raises i s s c { cause := 7, check := 2, info := info })))
  ∧ (∀ (s : State) (c : Site) (g : Guard) (k : Fin 16) (d : Fin 192) (m : Fin 8) (u : Fin 64), c.accBound = false →
    (Acts (.accz g k) g s c → Runs (.accz g k) s c (WritesFrag c.view.regs k.val fun _ => 0))
    ∧ (Acts (.accrdV g k d) g s c → Runs (.accrdV g k d) s c (WritesWords c.view c.view.enabled (.v d) (256 / c.view.W)
        fun l => (List.range (256 / c.view.W)).map fun n => c.view.regs.acc k.val (n * c.view.W + l)))
    ∧ (Acts (.accwrV g k d) g s c → Runs (.accwrV g k d) s c (WritesFrag c.view.regs k.val
        fun e => c.view.regs.vec (d.val + e / c.view.W) (e % c.view.W)))
    ∧ (Acts (.accrdT g m u) g s c → Runs (.accrdT g m u) s c (WritesWords c.view [c.view.lead] (.s u) 2
        fun _ => [(c.view.regs.tile m.val).setWidth 32, (c.view.regs.tile m.val).extractLsb' 32 32]))
    ∧ (Acts (.accwrT g m u) g s c → Runs (.accwrT g m u) s c fun r =>
        r.tile m.val = c.view.regs.uni (u.val + 1) ++ c.view.regs.uni u.val ∧ (∀ j ≠ m.val, r.tile j = c.view.regs.tile j)
          ∧ r.v = c.view.regs.v ∧ r.s = c.view.regs.s ∧ r.p = c.view.regs.p ∧ r.m = c.view.regs.m ∧ r.a = c.view.regs.a))
  ∧ (∀ (s : State) (c : Site) (g : Guard) (k : Fin 16) (d : Fin 192), c.accBound = true →
    ∀ i ∈ ([.accz g k, .accrdV g k d, .accwrV g k d] : List Instr), Acts i g s c → Raises i s s c { cause := 1, check := 2 })
  ∧ ∀ (s t : State) (c : Site) (g : Guard) (k : Fin 16) (a : Option Reg) (off : Option Word),
    let at_ := ((a.map (c.view.reg32 c.view.lead)).getD 0 + off.getD 0).toNat
    let lines := spanLines at_ 1024
    c.accBound = false → at_ % 128 = 0 → at_ + 1024 ≤ c.sh.spadSize → c.hasLines lines = true →
    (ActsOn (.accrdSp g k a off) g s t c → Does (.accrdSp g k a off) s ((t.placeLines c true c.view.lead .write lines).writeSpad c.sid at_
        ((List.range 256).flatMap fun e => toBytesLE 4 (c.view.regs.acc k.val e).toNat)) c)
    ∧ (ActsOn (.accwrSp g k a off) g s t c → c.sh.lostSpan at_ 1024 = true →
        Raises (.accwrSp g k a off) s t c { cause := 16, check := 9, lane := some c.view.lead, addr := at_, own := true })
    ∧ (ActsOn (.accwrSp g k a off) g s t c → c.sh.lostSpan at_ 1024 = false → ∃ r, Does (.accwrSp g k a off) s ((t.placeLines c true c.view.lead .read lines).putRegs c r) c
        ∧ WritesFrag c.view.regs k.val (fun e => BitVec.ofNat 32 (ofBytesLE (c.sh.spadBytes (at_ + 4 * e) 4))) r)

/-- R323 to R332. That lost words are found after the other checks is the model's choice (log entry 80). -/
def Obligations.Sequencers : Prop :=
  (∀ (s t : State) (c : Site) (g : Guard) (disp : Word) (l : Launch) (k : SeqKind),
    let i := match k with | .m => Instr.forkM g disp | .c => Instr.forkC g disp
    let r := l.region k
    ActsOn i g s t c → tabGet c.sh.launch t.launches = some l →
    (r.1 ≤ (c.pc + disp).toNat → (c.pc + disp).toNat < r.1 + r.2 → (c.sh.seq k).st = .idle →
      Does i s (t.modSheet c.sid fun h => h.modSeq k fun q => q.forked c.view.regs c.gang c.clk (c.pc + disp)) c)
    ∧ ((r.2 = 0 ∨ (c.pc + disp).toNat < r.1 ∨ r.1 + r.2 ≤ (c.pc + disp).toNat ∨ (c.sh.seq k).st ≠ .idle) → Raises i s t c { cause := 1, check := 2 }))
  ∧ (∀ (q : Seq) (r : Regs) (gang clk : Nat) (pc : Word),
      let f := q.forked r gang clk pc
      f.st = .running ∧ f.pc = pc ∧ f.starter = some gang ∧ f.clock = max q.clock clk ∧ f.regs.t = r.t
      ∧ ∀ n, f.regs.uni n = if n < 16 then r.uni n else 0)
  ∧ (∀ (s t : State) (c : Site) (g : Guard) (k : SeqKind) (d : Fin 64),
    let i := Instr.rdvThread g k d
    let give (v : Word) : State := (t.putRegs c (c.view.regs.setUni d.val v)).raiseTo c (c.sh.seq k).clock
    ActsOn i g s t c →
    ((c.sh.seq k).st = .idle → Does i s (give 0) c)
    ∧ ((c.sh.seq k).st = .running → exec i s = .next (t.waitIn c (.seq k d)))
    ∧ ((c.sh.seq k).st = .parked → Does i s ((give 1).modSheet c.sid fun h => (h.releaseRdv k 1).modSeq k fun q => { q with st := .running }) c)
    ∧ ((c.sh.seq k).st = .faulted → exec i s = .next { t.deliverHeld c.sid k (some c.gang) with issue := none }.reap))
  ∧ (∀ (s : State) (c : Site) (g : Guard) (k : SeqKind),
    let i := Instr.rdvSequencer g
    Acts i g s c → c.agent = .seq k →
    ((∃ p ∈ c.sh.gangs, p.2.lanesIn (TState.onSeq k) ≠ []) → Does i s (s.modSheet c.sid fun h => h.releaseRdv k 1) c)
    ∧ ((∀ p ∈ c.sh.gangs, p.2.lanesIn (TState.onSeq k) = []) → c.sh.allExited = false →
        Does i s (s.modSheet c.sid fun h => h.modSeq k fun q => { q with st := .parked }) c))
  ∧ (∀ (s t : State) (c : Site) (g : Guard) (ty : MatTy) (acc : Fin 16) (z : Bool) (ta tb : Fin 8) (oa ob : Option (Fin 64)),
    let i := Instr.mmat g ty acc z ta tb oa ob
    let A := c.view.tileOf ta oa
    let B := c.view.tileOf tb ob
    let fa := NFWord.ofNat (stGet 0 A.fmt c.sh.fmt).toNat
    let fb := NFWord.ofNat (stGet 0 B.fmt c.sh.fmt).toNat
    let wide (h : NFWord) : Nat := if h.wid ≤ 4 then 4 else 8
    let bits : Nat := match ty with | .f16 | .bf16 => 16 | .i8 | .n8 => 8 | .i4 | .n4 => 4 | .nf => wide fa
    let K := 8 * A.rlen / bits
    -- Element k of row j of a tile, from its byte of the row, the low nibble first.
    let elem (t : Tile) (j k : Nat) : Nat :=
      let at_ := (t.base + j * t.pitch) * 128 + k * bits / 8
      if bits = 16 then (c.sh.spadByte at_).toNat + 256 * (c.sh.spadByte (at_ + 1)).toNat
      else (c.sh.spadByte at_).toNat / 2 ^ (k * bits % 8) % 2 ^ bits
    let lines := (A.lines ++ B.lines).eraseDups
    let fit := A.ok c.sh = true ∧ B.ok c.sh = true ∧ A.rows = 15 ∧ B.rows = 15 ∧ A.rlen = B.rlen ∧ acc.val < c.sh.na ∧ (ty = .nf → z = false)
      ∧ (ty = .nf → wide fa = wide fb ∧ fa.sck = fb.sck ∧ fa.blk = fb.blk) ∧ (bits = 16 → K % 4 = 0)
      ∧ (ty = .nf → if fa.sck = 0 then K ≤ 128 else K = 16 * fa.blk)
    ActsOn i g s t c →
    (fit →
      (c.hasLines lines = true → c.sh.lostSpans (A.spans ++ B.spans) = true → Raises i s t c { cause := 16, check := 9, own := true })
      ∧ (c.hasLines lines = true → c.sh.lostSpans (A.spans ++ B.spans) = false → ∃ (r : Regs) (el : Nat → Word), WritesFrag c.boundRegs acc.val el r
        ∧ (∀ e < 256, MatElement ty bits K fa fb (elem A (e / 16)) (elem B (e % 16)) (if z then 0 else c.boundRegs.acc acc.val e) (el e))
        ∧ Does i s (((t.startBeats c (max 1 ((4 * K * bits + 255) / 256))).1.placeLines c true 0 .read lines).putBound c r) c)
      ∧ (c.hasLines lines = false → exec i s = .next (t.seqWait c (.lines lines .free))))
    ∧ (¬fit → Raises i s t c { cause := 1, check := 2 }))
  ∧ ∀ (s t : State) (c : Site) (g : Guard) (k p : Fin 16) (ta tb : Fin 8) (o : Option (Fin 64)),
    let A := c.view.tileOf ta o
    let B := c.view.tileOf tb none
    let both := (A.lines ++ B.lines).eraseDups
    let u := (t.startBeats c 2).1
    let store (n : Nat) (f : Nat → Nat) : State := (List.range 16).foldl (fun s r => s.writeSpad c.sid ((A.base + r * A.pitch) * 128)
      ((List.range 16).flatMap fun j => toBytesLE n (f (16 * r + j)))) (u.placeLines c true 0 .write A.lines)
    let elem (e : Nat) : Nat := (c.boundRegs.acc k.val e).toNat
    (ActsOn (.mvsScale g k p ta tb o) g s t c → A.ok c.sh = true → B.ok c.sh = true → 16 ≤ A.rlen → 16 ≤ B.rlen → c.hasLines both = true →
      c.sh.lostSpans (A.spans ++ B.spans) = false → ∃ (r : Regs) (el : Nat → Word), WritesFrag c.boundRegs k.val el r
        -- The partial P is scaled by the row's and the column's byte and rounded, then added to C.
        ∧ (∀ e < 256,
          let P := (c.boundRegs.acc p.val e).toNat
          let xa := (c.sh.spadByte (A.base * 128 + e / 16)).toNat
          let xb := (c.sh.spadByte (B.base * 128 + e % 16)).toNat
          let off := xa = 255 ∨ xb = 255 ∨ fmt32.isNan P
          ∃ q, (off → q = fmt32.nanBits) ∧ (¬off → fmt32.isInf P ∨ fmt32.isZero P → q = P)
            ∧ (¬off → fmt32.isFin P → ¬fmt32.isZero P → fmt32.Rounds .rn (fmt32.val P * 2 ^ ((xa : Int) + xb - 254)) q)
            ∧ fmt32.IsSum .rn (elem e) q (el e).toNat)
        ∧ Does (.mvsScale g k p ta tb o) s ((u.placeLines c true 0 .read both).putBound c r) c)
    ∧ (ActsOn (.mvsScale g k p ta tb o) g s t c → ¬(A.ok c.sh = true ∧ B.ok c.sh = true ∧ 16 ≤ A.rlen ∧ 16 ≤ B.rlen) →
      Raises (.mvsScale g k p ta tb o) s t c { cause := 1, check := 2 })
    ∧ (∀ x ∈ [(Instr.mvsSt g k ta o, 64), (.mvsStbf g k ta o, 32), (.mvsLd g k ta o, 64)], ActsOn x.1 g s t c →
      ¬(A.ok c.sh = true ∧ A.rows = 15 ∧ A.rlen = x.2) → Raises x.1 s t c { cause := 1, check := 2 })
    ∧ (A.ok c.sh = true → A.rows = 15 → c.hasLines A.lines = true →
      (ActsOn (.mvsSt g k ta o) g s t c → A.rlen = 64 → Does (.mvsSt g k ta o) s (store 4 elem) c)
      ∧ (ActsOn (.mvsStbf g k ta o) g s t c → A.rlen = 32 → ∃ f : Nat → Nat, (∀ e < 256, fmt32.Converts fmtB16 .rn (elem e) (f e))
        ∧ Does (.mvsStbf g k ta o) s (store 2 f) c)
      ∧ (ActsOn (.mvsLd g k ta o) g s t c → A.rlen = 64 → c.sh.lostSpans A.spans = false → ∃ r, Does (.mvsLd g k ta o) s ((u.placeLines c true 0 .read A.lines).putBound c r) c
        ∧ WritesFrag c.boundRegs k.val (fun e => BitVec.ofNat 32 (ofBytesLE (c.sh.spadBytes ((A.base + e / 16 * A.pitch) * 128 + 4 * (e % 16)) 4))) r))

/-- R96, R107 to R116, R137, R333 to R335. That a box past the scratchpad's end is check 4 is the model's choice (log
entry 24); so is that a copy out reads its scratchpad source element by element, each when it is performed (log entry
37). -/
def Obligations.Copies : Prop :=
  (∀ (s t t1 : State) (c : Site) (g : Guard) (dir : CplDir) (z : CplSize) (dst src : Reg) (xs : List (Req × Leaf)),
    let i := Instr.cpl g dir z dst src
    let n := match z with | .b4 => 4 | .b8 => 8 | .b16 => 16
    let once := !dst.isVec && !src.isVec
    let ls := (c.accessLanes g once).map (cplLane c.view dir dst src)
    let rd (l : CplLane) : Req := { lane := l.lane, va := l.src, size := n, kind := .read }
    let wr (l : CplLane) : Req := { lane := l.lane, va := l.dst, size := n, kind := .write }
    let globals := match dir with | .gs => ls.map rd | .sg _ => ls.map wr | .gg _ => ls.flatMap fun l => [rd l, wr l]
    let locals := match dir with | .gs => ls.map (fun l => (l.lane, l.dst)) | .sg _ => ls.map (fun l => (l.lane, l.src)) | .gg _ => []
    let need : LineNeed := match dir with | .gs => .owned | _ => .free
    Reaches i s t c →
    (∀ e u, t.checkCopy c n globals locals = .error (e, u) → Raises i s u c e)
    ∧ (t.checkCopy c n globals locals = .ok (xs, t1) → ∀ e, t1.checkData c (xs.filter fun x => x.1.kind == .read) = some e → Raises i s t1 c e)
    ∧ (t.checkCopy c n globals locals = .ok (xs, t1) → t1.checkData c (xs.filter fun x => x.1.kind == .read) = none →
      t1.linesMeet c.sid c.sh c.eng ((locals.map fun x => x.2 / 128).eraseDups) need = true →
      (ls = [] → Does i s t c)
      ∧ (ls ≠ [] → ∃ (u : State) (cp : Copy), Does i s u c ∧ u.mem = t.mem ∧ u.nextId = t1.nextId + 1 ∧ tabGet t1.nextId u.copies = some cp
        ∧ cp.sheet = c.sid ∧ cp.ctx = c.sh.ctx
        ∧ (dir = .gs → cp.reads.map (fun r => (r.va, r.dst)) = ls.map (fun l => (l.src, l.dst)) ∧ cp.cnt = none
          ∧ ∀ h, tabGet c.sid t1.sheets = some h → ∃ h', tabGet c.sid u.sheets = some h' ∧ ∀ l ∈ ls, (h'.line (l.dst / 128)).present = false
            ∧ (h'.line (l.dst / 128)).inbound = (h.line (l.dst / 128)).inbound + 1)
        ∧ (∀ k, dir = .sg k → cp.out.map (fun e => (e.va, e.src)) = ls.map (fun l => (l.dst, (List.range n).map fun i => (2 * (l.src + i), 2 * (l.src + i) + 1)))
          ∧ cp.cnt = some k.val)
        ∧ ∀ k, dir = .gg k → cp.reads.map (·.va) = ls.map (·.src) ∧ cp.out.map (·.va) = ls.map (·.dst) ∧ cp.cnt = some k.val)))
  ∧ (∀ (s t t1 : State) (c : Site) (g : Guard) (rec line org : Fin 64) (out : Option (Fin 8)) (xs : List (Req × Leaf)),
    let i := match out with | none => Instr.cptIn g rec line org | some k => Instr.cptOut g rec line org k
    let at_ := (c.view.regs.uni rec.val).toNat
    let l := (c.view.regs.uni line.val).toNat
    let r := Layout.of (c.sh.spadBytes at_ 128)
    let es := r.elems ((List.range r.ndim).map fun d => (c.view.regs.uni (org.val + d)).toInt)
    ActsOn i g s t c →
    let record := at_ % 128 = 0 ∧ at_ < c.sh.spadSize ∧ c.hasLines [at_ / 128] = true
    let shape := r.wf = true ∧ c.sh.fmtOk r.fmt = true ∧ (r.mc = true → out = none ∧ t.namesCluster c r = true) ∧ org.val + r.ndim ≤ 64
    let room := (r.rowLine l (r.rows - 1) + r.rowLines) * 128 ≤ c.sh.spadSize
    let reqs : List Req := es.map fun e => { lane := c.view.lead, va := e.va, size := r.size, kind := if out.isSome then .write else .read }
    (at_ % 128 ≠ 0 → Raises i s t c { cause := 3, check := 2, lane := some c.view.lead, addr := at_ })
    ∧ (record → ¬shape → Raises i s t c { cause := 1, check := 2 })
    ∧ (record → shape → c.sh.lostSpan at_ 128 = true → Raises i s t c { cause := 16, check := 9, lane := some c.view.lead, addr := at_, own := true })
    ∧ (record → shape → c.sh.lostSpan at_ 128 = false → ¬room → Raises i s t c { cause := 5, check := 4, addr := 128 * l })
    ∧ (record → shape → c.sh.lostSpan at_ 128 = false → room → ∀ e u, t.checkAccess c.issuer reqs = .error (e, u) → Raises i s u c e)
    ∧ (record → shape → c.sh.lostSpan at_ 128 = false → room → t.checkAccess c.issuer reqs = .ok (xs, t1) → (out = none → t1.checkData c xs = none) →
      (r.mc = false → t1.linesMeet c.sid c.sh c.eng (r.boxLines l) (if out.isSome then .free else .owned) = true) →
      ∃ (u : State) (cp : Copy), Does i s u c ∧ u.mem = t.mem ∧ tabGet t1.nextId u.copies = some cp ∧ cp.sheet = c.sid ∧ cp.cnt = out.map Fin.val
        -- A copy in takes its box to the issuer's own lines, or with multicast to those of every receiver (R113).
        ∧ (out = none → cp.reads.map (fun x => (x.va, x.n, x.high, x.dst)) = es.map (fun e => (e.va, r.size, if r.esz = 0 then some e.high else none,
              let base := (l + r.pitch * e.row) * 128
              if r.esz = 0 then 2 * base + e.b0 else base + e.b0 * r.size))
          -- Zeros lie where an element is out of bounds (R110).
          ∧ (∀ n < r.rows, ∀ k < r.rowBytes, tabGet ((l + r.pitch * n) * 128 + k) cp.spad = some 0)
          ∧ (r.mc = false → cp.dests.map (fun d => (d.sheet, d.lines, d.mbar)) = [(c.sid, r.boxLines l, none)])
          ∧ (r.mc = true → cp.dests.map (fun d => (d.sheet, d.lines, d.mbar)) = (t1.receivers c r).map fun p => (p.1, r.boxLines l, some r.mbar))
          -- Every destination line loses its presence and counts the copy (R96).
          ∧ ((t1.sheets.map (·.1)).Nodup → ∀ d ∈ cp.dests, ∀ h, tabGet d.sheet t1.sheets = some h → risingFrom 0 h.lines = true →
            ∃ h', tabGet d.sheet u.sheets = some h' ∧ ∀ n ∈ d.lines, (h'.line n).present = false ∧ (h'.line n).inbound = (h.line n).inbound + 1))
        ∧ (out ≠ none → cp.srcLines = r.boxLines l ∧ cp.dests = [])))
  ∧ (∀ (s : State) (id : Nat) (cp : Copy), tabGet id s.copies = some cp →
    (cp.reads ≠ [] → exec (.copyCompletion id) s = .next (s.copyRead id))
    ∧ (cp.reads = [] → 1 < cp.out.length → s.free .duration % 2 = 1 →
        exec (.copyCompletion id) s = .next (s.drew.copyElem id (s.free .duration / 2 % cp.out.length)).reap)
    ∧ (cp.reads = [] → (cp.out.length ≤ 1 ∨ s.free .duration % 2 ≠ 1) →
        let q := (if 1 < cp.out.length then s.drew else s).completeCopy id
        exec (.copyCompletion id) s = .next (q.1.shadowPoints q.2).reap))
  ∧ (∀ (s : State) (id : Nat), tabGet id (s.completeCopy id).1.copies = none)
  -- The elements of a box: in bounds in every dimension, at their addresses (R110).
  ∧ (∀ (bs : List Byte) (org : List Int) (e : BoxElem), let r := Layout.of bs
    let dim (d : Nat) : Dim := (r.dims[d]?).getD { ext := 0, box := 0, str := 0, spare := 0 }
    let B (d : Nat) : Nat := if d < r.ndim then (dim d).box + 1 else 1
    let b (d : Nat) : Nat := match d with
      | 0 => e.b0 | 1 => e.row % B 1 | 2 => e.row / B 1 % B 2 | 3 => e.row / (B 1 * B 2) % B 3 | _ => e.row / (B 1 * B 2 * B 3)
    let co (d : Nat) : Int := (org[d]?).getD 0 + (b d : Int)
    r.wf = true → org.length = r.ndim →
    (e ∈ r.elems org ↔ e.b0 < (dim 0).box + 1 ∧ e.row < B 1 * B 2 * B 3 * B 4 ∧ (∀ d < r.ndim, 0 ≤ co d ∧ co d < (dim d).ext)
      ∧ (e.va : Int) = ((r.gaddr : Int) + (if r.esz = 0 then co 0 / 2 else co 0 * r.size)
          + (((List.range 4).map fun d => if d + 1 < r.ndim then co (d + 1) * ((dim (d + 1)).str : Int) else 0).foldl (· + ·) 0)) % 2 ^ 64
      ∧ (e.high = true ↔ r.esz = 0 ∧ co 0 % 2 = 1)))
  -- The read: one view time, each version's bytes at their place.
  ∧ (∀ (s : State) (id : Nat) (cp : Copy), tabGet id s.copies = some cp → cp.reads ≠ [] → ∃ v, cp.view ≤ v ∧ (s.copyRead id).mem = s.mem
    ∧ tabGet id (s.copyRead id).copies
      = some { cp.reads.foldl (fun c r => c.took r (s.versionAs r.key v r.pa r.n)) cp with reads := [], view := v, top := max cp.top v })
  ∧ (∀ (cp : Copy) (r : CopyRead) (bs : List Byte),
    (cp.dests = [] → ∀ (j : Nat) (e : CopyElem), cp.out[j]? = some e → (cp.took r bs).out[j]? = some (if j = r.dst then { e with bytes := bs } else e))
    ∧ (cp.dests ≠ [] → r.high = none → ∀ a, tabGet a (cp.took r bs).spad = if r.dst ≤ a ∧ a < r.dst + bs.length then bs[a - r.dst]? else tabGet a cp.spad)
    ∧ (cp.dests ≠ [] → ∀ hi, r.high = some hi →
      let x := (bs.headD 0).toNat
      let nib := if hi then x / 16 else x % 16
      let old := ((tabGet (r.dst / 2) cp.spad).getD 0).toNat
      (((tabGet (r.dst / 2) (cp.took r bs).spad).getD 0).toNat = if r.dst % 2 = 1 then old % 16 + 16 * nib else old / 16 * 16 + nib)
        ∧ ∀ a, a ≠ r.dst / 2 → tabGet a (cp.took r bs).spad = tabGet a cp.spad))
  -- What a copy in leaves in a destination sheet, no other copy being in flight.
  ∧ (∀ (s : State) (id : Nat) (cp : Copy) (d : CopyDest) (h : Sheet), s.copies = [(id, cp)] → cp.reads = [] → cp.out = [] → cp.dests = [d] → d.lost = [] →
    d.lines.Nodup → risingFrom 0 cp.spad = true → tabGet d.sheet s.sheets = some h → risingFrom 0 h.lines = true →
    ∃ h', tabGet d.sheet (s.completeCopy id).1.sheets = some h'
      ∧ (∀ a, h'.spadByte a = (tabGet a cp.spad).getD (h.spadByte a))
      ∧ (∀ n ∈ d.lines, (h'.line n).inbound = (h.line n).inbound - 1 ∧ ((h'.line n).present = true ↔ (h.line n).inbound ≤ 1)))
  -- What an element leaves at its home: the nibbles it enables, over what is there under the page's key.
  ∧ (∀ (s : State) (id n : Nat) (cp : Copy) (e : CopyElem) (h : Sheet), s.copies = [(id, cp)] → cp.out[n]? = some e → tabGet cp.sheet s.sheets = some h →
    ∃ (s' : State) (cp' : Copy), s'.mem = s.mem ∧ s'.atoms = s.atoms ∧ cp.view ≤ cp'.view
      ∧ (s.copyElem id n).mem = (s'.performElem cp' { e with bytes := e.now h, src := [] }).1.mem
      ∧ (tabGet id (s.copyElem id n).copies).map Copy.out = some (cp.out.eraseIdx n))
  ∧ (∀ (e : CopyElem) (h : Sheet), (e.src = [] → e.now h = e.bytes) ∧ ∀ (k a b : Nat), e.src[k]? = some (a, b) →
    let nib (x : Nat) : Nat := (h.spadByte (x / 2)).toNat / 16 ^ (x % 2) % 16
    (e.now h)[k]? = some (BitVec.ofNat 8 (nib a + 16 * nib b)))
  ∧ (∀ (s : State) (cp : Copy) (e : CopyElem), s.dryReplay (some cp.sheet) = false → s.unreach e.pa = false → s.replicas = [] → e.ceded = [] →
    e.pa % 32 + e.bytes.length ≤ 32 → e.en.length = e.bytes.length → (∃ n ∈ e.en, n ≠ 0) → s.writeTime cp.view e.pa < timeEnd →
    let q := s.performElem cp e
    q.2 = s.writeTime cp.view e.pa ∧ ∀ k b n old, e.bytes[k]? = some b → e.en[k]? = some n → n < 4 → s.bytesAs e.key (e.pa + k) 1 = [old] →
      q.1.bytesAs e.key (e.pa + k) 1 = [BitVec.ofNat 8 ((if n % 2 = 1 then b.toNat else old.toNat) % 16
        + 16 * ((if 2 ≤ n then b.toNat else old.toNat) / 16))])
  -- The counter's rise, by the completion itself.
  ∧ (∀ (s : State) (id : Nat) (cp : Copy) (h : Sheet) (n : Nat), tabGet id s.copies = some cp → tabGet cp.sheet s.sheets = some h → h.home = .on n →
    ∃ h', tabGet cp.sheet (s.completeCopy id).1.sheets = some h'
      ∧ (cp.cnt = none → h'.counters = h.counters)
      ∧ ∀ k, cp.cnt = some k → let old := (tabGet k h.counters).getD {}
        ∃ m, cp.top < m ∧ tabGet k h'.counters = some { count := old.count + 1, cmax := max old.cmax m })
  ∧ ∀ (l : Line) (xs : Bool), (l.arrived xs).inbound = l.inbound - 1 ∧ ((l.arrived xs).present = true ↔ l.inbound ≤ 1)

/-- R336, R337, R97, R106. Which free handle RESID.open returns is open (R337). -/
def Obligations.OwnersAndHandles : Prop :=
  (∀ (s t : State) (c : Site) (g : Guard) (eng : Bool) (d : Fin 8) (o : Option (Fin 64)),
    let i := if eng then Instr.ownEng g d o else Instr.ownThr g d o
    let tile := c.view.tileOf d o
    let one (q : State × Nat) (n : Nat) : State × Nat :=
      let p := q.1.placeLine c.sid c.sh.ctx n c.clk .write
      (p.1.modSheet c.sid fun h => h.putLine n { h.line n with eng := eng }, max q.2 p.2)
    let q := tile.lines.foldl one (t, c.clk)
    ActsOn i g s t c →
    (tile.ok c.sh = false → Raises i s t c { cause := 1, check := 2 })
    ∧ (tile.ok c.sh = true → t.linesMeet c.sid c.sh c.eng tile.lines .idle = true → Does i s ((q.1.wakeLines c.sid).raiseTo c q.2) c)
    ∧ (tile.ok c.sh = true → t.linesMeet c.sid c.sh c.eng tile.lines .idle = false →
      (∀ k, c.agent = .seq k → exec i s = .next (t.seqWait c (.lines tile.lines .idle)))
      ∧ (∀ k, c.agent = .gang k → (∀ p ∈ c.sh.dead, p.1 ∉ tile.lines) → exec i s = .next (t.waitIn c (.line tile.lines .idle)))
      ∧ (∀ k, c.agent = .gang k → (∃ p ∈ c.sh.dead, p.1 ∈ tile.lines) → ∃ p ∈ c.sh.dead, Raises i s t c { cause := 15, info := 5 + 256 * p.2 }))
    -- What it waits for: every line present, and read by no copy in flight and no collective still to send.
    ∧ (t.linesMeet c.sid c.sh c.eng tile.lines .idle = true ↔ ∀ n ∈ tile.lines, (c.sh.line n).present = true
      ∧ (∀ p ∈ t.copies, p.2.sheet = c.sid → n ∉ p.2.srcLines)
      ∧ ∀ h, tabGet c.sid t.sheets = some h → ∀ p ∈ h.pend, p.sent = false → n ∉ (Tile.of p.ts 0).lines)
    ∧ (∀ h, tabGet c.sid t.sheets = some h → risingFrom 0 h.lines = true → ∃ h', tabGet c.sid q.1.sheets = some h' ∧ (∀ n ∈ tile.lines, (h'.line n).eng = eng)
        ∧ ∀ n, n ∉ tile.lines → (h'.line n).eng = (h.line n).eng ∧ (h'.line n).present = (h.line n).present))
  ∧ ∀ (s : State) (c : Site) (g : Guard) (p : Fin 4) (d a b : Fin 64) (ctx : Context), tabGet c.sh.ctx s.ctxs = some ctx →
    let ret (u : State) (v : Word) : State := u.putRegs c (c.view.regs.setUni d.val v)
    let base := (c.view.upair a).toNat
    let len := (c.view.upair b).toNat
    let n := (c.view.regs.uni a.val).toNat
    let free := (List.range 1024).filter fun n => (tabGet n ctx.handles).isNone
    let put (u : State) (hs : Tab Handle) : State := u.modCtx c.sh.ctx fun _ => { ctx with handles := hs }
    (Acts (.residOpen g p d a b) g s c →
      ((len = 0 ∨ 281474976710656 < base + len) → Does (.residOpen g p d a b) s (ret (put s.drew ctx.handles) 0xFFFFFFFE) c)
      ∧ (0 < len → base + len ≤ 281474976710656 → free = [] → Does (.residOpen g p d a b) s (ret (put s.drew ctx.handles) 0xFFFFFFFF) c)
      ∧ (0 < len → base + len ≤ 281474976710656 → free ≠ [] → ∃ k ∈ free,
          Does (.residOpen g p d a b) s (ret (put s.drew (tabPut k { base := base, len := len, prio := p.val } ctx.handles)) (BitVec.ofNat 32 k)) c))
    ∧ (Acts (.residPrio g p d a) g s c →
      (tabGet n ctx.handles = none → Does (.residPrio g p d a) s (ret (put s ctx.handles) 0xFFFFFFFD) c)
      ∧ ∀ h, tabGet n ctx.handles = some h → Does (.residPrio g p d a) s (ret (put s (tabPut n { h with prio := p.val } ctx.handles)) 0) c)
    ∧ (Acts (.residClose g d a) g s c →
      (tabGet n ctx.handles = none → Does (.residClose g d a) s (ret (put s ctx.handles) 0xFFFFFFFD) c)
      ∧ ∀ h, tabGet n ctx.handles = some h → Does (.residClose g d a) s (ret (put s (tabDel n ctx.handles)) 0) c)

/-- R145 to R147, R338 to R342. That those of one key send and complete in their order is the model's reading of R145
(log entry 91); that for NXCH only the sheet whose data is awaited holds the collective up or ends it is the model's
choice (log entry 94), and the clocks are those of log entry 60. -/
def Obligations.Collectives : Prop :=
  (∀ (s t : State) (c : Site) (g : Guard) (im : CollImm) (dir : Compass) (op : FoldOp) (grp : ShardGroup) (root : Fin 64) (l : Launch),
    let ts := c.view.tileOf im.ts none
    let td := c.view.tileOf im.td none
    let bad (rootOk : Prop) : Prop := ts.ok c.sh = false ∨ td.ok c.sh = false ∨ ts.rows ≠ td.rows ∨ ts.rlen ≠ td.rlen ∨ (∃ n ∈ ts.lines, n ∈ td.lines) ∨ ¬rootOk
    let goes (i : Instr) (key : Nat) (op : FoldOp) (root : Nat) : Prop :=
      let bits := (encode i).getD 0
      let num := (tabGet key c.sh.matches_).getD 0
      let p : PendColl := { id := t.nextId, bits := BitVec.ofNat 64 bits, imm := BitVec.ofNat 32 (bits / 2 ^ 64), key := key, num := num, clock := c.clk
                            td := c.view.regs.tile im.td.val, ts := c.view.regs.tile im.ts.val, op := op, root := root }
      Does i s ((({ t.modSheet c.sid (fun h =>
        let h := td.lines.foldl (fun (h : Sheet) n => h.putLine n { h.line n with present := false, inbound := (h.line n).inbound + 1, coll := (h.line n).coll + 1 }) h
        { h with matches_ := tabPut key (num + 1) h.matches_, pend := h.pend ++ [p] }) with nextId := t.nextId + 1 }).pinDown c.sid).noAudit c.sid) c
    let ready : Prop := c.hasLines ts.lines = true ∧ c.sh.linesOwned false td.lines = true
    let rootNo := (c.view.upair root).toNat
    tabGet c.sh.launch t.launches = some l →
    (ActsOn (.nxch g dir im) g s t c → (bad True → Raises (.nxch g dir im) s t c { cause := 1, check := 2 })
      ∧ (¬bad True → ready → goes (.nxch g dir im) (compassKey dir) .and 0))
    ∧ (ActsOn (.nred g (.fold op) grp im) g s t c → (bad True → Raises (.nred g (.fold op) grp im) s t c { cause := 1, check := 2 })
      ∧ (¬bad True → ready → goes (.nred g (.fold op) grp im) (4 + groupCode grp) op 0))
    -- A fold that R276 does not allow is found in check 2 (R338).
    ∧ (∀ sub ty, ActsOn (.nred g (.broken sub ty) grp im) g s t c → Raises (.nred g (.broken sub ty) grp im) s t c { cause := 1, check := 2 })
    ∧ (ActsOn (.nbc g grp root im) g s t c →
      (bad (rootNo < (l.group grp c.sh.index).length) → Raises (.nbc g grp root im) s t c { cause := 1, check := 2 })
      ∧ (¬bad (rootNo < (l.group grp c.sh.index).length) → ready → goes (.nbc g grp root im) (7 + groupCode grp) .and rootNo)))
  ∧ (∀ (s : State) (id sid cl : Nat) (h : Sheet) (l : Launch) (p : PendColl), s.pending id = some (sid, h, p) → h.home = .on cl →
    tabGet h.launch s.launches = some l →
    let srcs := collSources l h.index p.key
    let ms := srcs.map fun k => s.collMsg h.launch k p.key p.num
    -- Those of its key that were issued before it have sent before it sends, and are complete before it is.
    let before := (h.pend.takeWhile fun q => q.id ≠ id).filter fun q => q.key = p.key
    let goes (t : State) : Prop := exec (.collectiveCompletion id) s = .next (if timeEnd ≤ s.collTime id then t.exhaust h.ctx else t).reap
    (p.sent = false → (∀ q ∈ before, q.sent = true) → goes (s.sendColl sid p))
    ∧ (p.sent = true → before = [] → (∀ m ∈ ms, m ≠ none) → goes (s.finishColl sid p (ms.filterMap fun m => m)))
    ∧ (p.sent = true → before = [] → (∃ x ∈ srcs.zip ms, x.2 = none ∧ x.1 ∈ l.gone) → goes (s.killColl sid p))
    ∧ (((∃ q ∈ before, q.sent = false) ∨ (p.sent = true ∧ (before ≠ [] ∨ ((∃ m ∈ ms, m = none) ∧ ∀ x ∈ srcs.zip ms, x.2 = none → x.1 ∉ l.gone))))
      → exec (.collectiveCompletion id) s = .fault .notEnabled))
  -- What is sent (R341): the source's rows as they stand or were kept, and the counter of CEN.
  ∧ (∀ (s : State) (sid n : Nat) (h : Sheet) (p : PendColl), tabGet sid s.sheets = some h → h.home = .on n →
    let ts := Tile.of p.ts 0
    let t := max p.clock (maxOf (ts.lines.map h.lineTime))
    let k := p.imm.toNat / 2 ^ 6 % 2 ^ 3
    ∃ (m : CollMsg) (h' : Sheet), (s.sendColl sid p).msgs = s.msgs ++ [m] ∧ m.launch = h.launch ∧ m.index = h.index ∧ m.key = p.key ∧ m.num = p.num ∧ m.clk = t
      ∧ (∀ r ≤ ts.rows, ∀ j < ts.rlen, let a := (ts.base + r * ts.pitch) * 128 + j
        ((m.rows[r]?).bind fun row => row[j]?) = some ((tabGet a p.got).getD (h.spadByte a)))
      ∧ tabGet sid (s.sendColl sid p).sheets = some h' ∧ (∀ q ∈ h'.pend, q.id = p.id → q.sent = true)
      ∧ (p.imm.toNat.testBit 9 = false → h'.counters = h.counters)
      ∧ (p.imm.toNat.testBit 9 = true → let old := (tabGet k h.counters).getD {}
        tabGet k h'.counters = some { count := old.count + 1, cmax := max old.cmax (t + 1) }))
  -- What arrives (R340, R341).
  ∧ (∀ (s : State) (sid n : Nat) (h : Sheet) (p : PendColl) (ms : List CollMsg), tabGet sid s.sheets = some h → risingFrom 0 h.lines = true →
    let td := Tile.of p.td 0
    td.wf n = true →
    ∃ h', tabGet sid (s.finishColl sid p ms).sheets = some h'
      ∧ (∀ r ≤ td.rows, ∀ j < td.rlen, some (h'.spadByte ((td.base + r * td.pitch) * 128 + j)) = (collRow p (ms.map fun m => (m.rows[r]?).getD []) td.rlen)[j]?)
      ∧ (∀ a, (∀ r ≤ td.rows, ∀ j < td.rlen, a ≠ (td.base + r * td.pitch) * 128 + j) → h'.spadByte a = h.spadByte a)
      ∧ (∀ x ∈ td.lines, (h'.line x).inbound = (h.line x).inbound - 1 ∧ ((h'.line x).present = true ↔ (h.line x).inbound ≤ 1)
        ∧ p.clock < h'.lineTime x ∧ ∀ m ∈ ms, m.clk < h'.lineTime x))
  ∧ (∀ (p : PendColl) (rows : List (List Byte)) (n k : Nat), k < n →
    (p.key < 4 → (collRow p rows n)[k]? = some ((rows.headD []).getD k 0))
    ∧ (7 ≤ p.key → (collRow p rows n)[k]? = some (((rows[p.root]?).getD []).getD k 0)))
  ∧ ∀ (p : PendColl) (rows : List (List Byte)) (n k : Nat), 4 ≤ p.key → p.key < 7 → n % 4 = 0 → 4 * k + 4 ≤ n →
    (collRow p rows n).length = n
    ∧ fieldAt (collRow p rows n) (4 * k) 4 = (rows.foldl (fun x bs => foldStep p.op x
        (if 4 * k + 4 ≤ bs.length then BitVec.ofNat 32 (fieldAt bs (4 * k) 4) else foldIdentity p.op)) (foldIdentity p.op)).toNat

/-- R151 to R156, R161 to R163, R343 to R345. That an EMIT or EMITEND which waits on a full buffer does not bind its
draw is the model's choice (log entry 86), and so is that the oldest unfinished draw always finds room (log entry 17).
What rasterising a group writes is Obligations.Rasterisation. -/
def Obligations.Geometry : Prop :=
  (∀ (s t t1 : State) (c : Site) (g : Guard) (slot : Fin 4) (a : Reg) (b d : Fin 64) (k : Nat) (ks : List Nat) (l : Launch) (ctx : Context) (r : FrameRec) (v : Option Nat),
    let i := Instr.emit g slot a b d
    let draw := (c.view.regs.uni d.val).toNat % 65536
    let va := (c.view.upair b).toNat
    let word (j n : Nat) : Word := c.view.regPlus j a n
    let xy (j : Nat) : List Int := (List.range 6).map fun n => (word j n).toInt
    let inRange (j : Nat) : Prop := (∀ x ∈ xy j, -8388608 ≤ x ∧ x < 8388608) ∧ (word j 10).toNat < 67108864
    let packet (j : Nat) : Packet := { die := 0, ctx := c.sh.ctx, slot := slot.val, fr := va, draw := draw, group := c.sh.index, prim := (word j 10).toNat
                                       xy := xy j, z := [word j 6, word j 7, word j 8], vid := word j 9, gcm1 := l.sheets - 1, clk := max c.clk (v.getD 0), sheet := c.sid }
    Reaches i s t c → (if a.isVec then c.view.active g else if c.view.acts g then [c.view.lead] else []) = k :: ks →
    tabGet c.sh.launch t.launches = some l → tabGet c.sh.ctx t.ctxs = some ctx → t.frameRecord c k va (65536 * slot.val + draw) = .ok (r, v, t1) →
    let gangOk : Prop := emitIndexOk c l = true ∧ r.ok = true ∧ r.addr = va ∧ c.emitEnded slot.val draw = false ∧ boundElsewhere c ctx slot.val draw = false
    (¬(gangOk ∧ ∀ j ∈ k :: ks, inRange j) → ∃ j ∈ k :: ks, Raises i s t1 c { cause := 1, check := 2, lane := some j })
    ∧ (gangOk → (∀ j ∈ k :: ks, inRange j) →
      let dies := t.ctxDies c.sh.ctx
      let to_ := ((k :: ks).flatMap fun j => r.targets dies.length (xy j)).eraseDups.map fun j => dies[j]?.getD 0
      (t.drawWaits c.sh.ctx slot.val draw to_ ctx = true → exec i s = .next (t1.waitIn c (.draw slot.val draw)))
      ∧ (t.drawWaits c.sh.ctx slot.val draw to_ ctx = false →
        let u := (t1.bindDraw c slot.val draw ctx).modSheet c.sid fun h => { h with recs := tabPut (65536 * slot.val + draw) r h.recs }
        let u := match v with | none => u | some v => u.raiseTo c v
        Does i s ((((k :: ks).foldl (fun s j => s.sendPrimitive (s.ctxDies c.sh.ctx) r (packet j)) u).pinDown c.sid).noAudit c.sid) c)))
  ∧ (∀ (s t u : State) (c : Site) (g : Guard) (slot : Fin 4) (a : Reg) (b d : Fin 64) (k : Nat) (ks : List Nat) (e : Trap),
    let i := Instr.emit g slot a b d
    Reaches i s t c → (if a.isVec then c.view.active g else if c.view.acts g then [c.view.lead] else []) = k :: ks →
    (tabGet c.sh.launch t.launches).isSome → (tabGet c.sh.ctx t.ctxs).isSome →
    t.frameRecord c k (c.view.upair b).toNat (65536 * slot.val + (c.view.regs.uni d.val).toNat % 65536) = .error (e, u) → Raises i s u c e)
  -- A wait: the draw lies too far ahead, is not the next, or a receiving die is full and it is not the oldest (R151, R152, R163).
  ∧ (∀ (s : State) (cx slot draw : Nat) (to_ : List Nat) (ctx : Context),
    let f := ctx.frameSlot slot
    let ahead := (draw + 65536 - f.o) % 65536
    s.drawWaits cx slot draw to_ ctx = true ↔ 32768 ≤ ahead ∨ ((f.launchOf draw = none) ∧ draw ≠ f.nextDraw)
      ∨ (ahead ≠ 0 ∧ ∃ d ∈ to_, Config.rasterBuffer ≤ s.rasterHeld d cx slot))
  ∧ (∀ (s t : State) (c : Site) (g : Guard) (slot : Fin 4) (a : Fin 64) (l : Launch) (ctx : Context),
    let i := Instr.emitend g slot a
    let draw := (c.view.regs.uni a.val).toNat % 65536
    ActsOn i g s t c → tabGet c.sh.launch t.launches = some l → tabGet c.sh.ctx t.ctxs = some ctx →
    let ok : Prop := emitIndexOk c l = true ∧ c.emitEnded slot.val draw = false ∧ boundElsewhere c ctx slot.val draw = false
    let to_ := if ∀ p ∈ c.sh.gangs, p.1 = c.gang ∨ (slot.val, draw) ∈ p.2.emitEnd then t.ctxDies c.sh.ctx else []
    (¬ok → Raises i s t c { cause := 1, check := 2 })
    ∧ (ok → t.drawWaits c.sh.ctx slot.val draw to_ ctx = true → exec i s = .next (t.waitIn c (.draw slot.val draw)))
    ∧ (ok → t.drawWaits c.sh.ctx slot.val draw to_ ctx = false →
      let u := (t.bindDraw c slot.val draw ctx).modGang c.sid c.gang fun q => { q with emitEnd := q.emitEnd ++ [(slot.val, draw)] }
      ∀ h, tabGet c.sid u.sheets = some h →
      ((∀ p ∈ h.gangs, (slot.val, draw) ∈ p.2.emitEnd) → Does i s (((u.sendMarkers c slot.val draw l).pinDown c.sid).noAudit c.sid) c)
      ∧ ((∃ p ∈ h.gangs, (slot.val, draw) ∉ p.2.emitEnd) → Does i s ((u.pinDown c.sid).noAudit c.sid) c)))
  ∧ (∀ (s : State) (id : Nat) (p : Packet), tabGet id s.packets = some p → exec (.primitivePacket id) s =
      .next ({ s with packets := tabDel id s.packets }.modDraw p.die p.ctx p.slot p.draw p.gcm1 fun d => { d with packets := d.packets ++ [p] }))
  ∧ (∀ (s : State) (id : Nat) (m : Marker), tabGet id s.markers = some m → (∀ p ∈ s.packets,
      ¬(p.2.die = m.die ∧ p.2.ctx = m.ctx ∧ p.2.slot = m.slot ∧ p.2.draw = m.draw ∧ p.2.group = m.group)) →
      m.group ≤ m.gcm1 → (((tabGet m.die s.dies).bind fun d => tabGet (4 * m.ctx + m.slot) d.raster).bind fun r => tabGet m.draw r.draws) = none →
      (tabGet m.die s.dies).isSome →
      let u := { s with markers := tabDel id s.markers }.modDraw m.die m.ctx m.slot m.draw m.gcm1 fun d => d
      exec (.closeMarker id) s = .next (u.modDraw m.die m.ctx m.slot m.draw m.gcm1 fun d => { d with marks := tabPut m.group m.clk d.marks }))
  ∧ (∀ (s : State) (die cx slot draw : Nat) (d : DrawState) (m clk : Nat), s.nextGroup die cx slot = some (draw, d, m, clk) →
      ∃ u : State, exec (.rasteriseGroup die cx slot) s = .next u.reap
        ∧ ∃ d', ((tabGet die u.dies).bind fun x => (tabGet (4 * cx + slot) x.raster).bind fun r => tabGet draw r.draws) = some d'
          ∧ d'.next = d.next + 1 ∧ d'.marks = d.marks ∧ d'.packets = d.packets.filter fun p => p.group != d.next)
  ∧ (∀ (s : State) (cx slot : Nat) (ctx : Context), tabGet cx s.ctxs = some ctx → s.drawDone cx slot = true →
      let o := (ctx.frameSlot slot).o
      ∃ t, exec (.drawAdvance cx slot) s = .next t ∧ t.mem = s.mem
        ∧ (tabGet cx t.ctxs).map (fun c => c.frameSlot slot) = some { o := (o + 1) % 65536, bound := (ctx.frameSlot slot).bound.filter fun b => b.1 != o })
  ∧ ∀ (r : FrameRec) (d : Nat) (xy : List Int) (k : Nat), k ∈ r.targets d xy ↔ k < d ∧ ∃ x0 x1 y0 y1, boxAxis (xsOf xy) r.wm1 = some (x0, x1)
      ∧ boxAxis (ysOf xy) r.hm1 = some (y0, y1) ∧ ∃ rx ry, x0 / 64 ≤ rx ∧ rx ≤ x1 / 64 ∧ y0 / 64 ≤ ry ∧ ry ≤ y1 / 64 ∧ (rx + r.rw * ry) % d = k

/-- R148, R150, R156 to R162. That a failed test takes the time its write would have taken, raises the depth word's
lease and the clock and leaves the visibility word alone is the model's choice (log entry 95), and so is what becomes
of a record that cannot be read (log entry 90). -/
def Obligations.Rasterisation : Prop :=
  -- Which pixels, and their depths (R157 to R159).
  (∀ (s : State) (die clk : Nat) (r : FrameRec) (p : Packet) (x0 y0 x1 y1 x2 y2 : Int) (z0 z1 z2 : Word), p.xy = [x0, y0, x1, y1, x2, y2] → p.z = [z0, z1, z2] →
    -128 ≤ r.jx → r.jx ≤ 127 → -128 ≤ r.jy → r.jy ≤ 127 →
    let dies := s.ctxDies p.ctx
    let area : Int := (x1 - x0) * (y2 - y0) - (y1 - y0) * (x2 - x0)
    let sg : Int := if area < 0 then -1 else 1
    let e (xi yi xj yj : Int) (px py : Nat) : Int := sg * ((xj - xi) * (256 * py + 128 + r.jy - yi) - (yj - yi) * (256 * px + 128 + r.jx - xi))
    let inside (xi yi xj yj : Int) (px py : Nat) : Prop :=
      0 < e xi yi xj yj px py ∨ (e xi yi xj yj px py = 0 ∧ (sg * (yj - yi) < 0 ∨ (yj = yi ∧ 0 < sg * (xj - xi))))
    let covered (px py : Nat) : Prop := area ≠ 0 ∧ inside x0 y0 x1 y1 px py ∧ inside x1 y1 x2 y2 px py ∧ inside x2 y2 x0 y0 px py
    let f := fmt32
    let minus : Nat := if z0.toNat < 2 ^ 31 then z0.toNat + 2 ^ 31 else z0.toNat - 2 ^ 31
    let depth (px py z : Nat) : Prop := ∃ fa f1 f2 rcp l1 l2 d1 d2 t : Nat,
      f.OfInt .rn (sg * area) fa ∧ f.OfInt .rn (e x2 y2 x0 y0 px py) f1 ∧ f.OfInt .rn (e x0 y0 x1 y1 px py) f2 ∧ f.IsQuotient .rn 0x3F800000 fa rcp
      ∧ f.IsProduct .rn f1 rcp l1 ∧ f.IsProduct .rn f2 rcp l2 ∧ f.IsSum .rn z1.toNat minus d1 ∧ f.IsSum .rn z2.toNat minus d2
      ∧ f.IsFused .rn l1 d1 z0.toNat t ∧ f.IsFused .rn l2 d2 t z
    ∃ ks : List (Nat × Nat × Nat), s.rasterise die clk r p = ks.foldl (fun q k => q.1.pixel p.ctx die q.2 r k.1 k.2.1 k.2.2 p.vid) (s, clk)
      ∧ (ks.map fun k => (k.1, k.2.1)).Nodup ∧ (∀ k ∈ ks, k.2.2 < 2 ^ 32 ∧ depth k.1 k.2.1 k.2.2)
      ∧ ∀ px py, (∃ z, (px, py, z) ∈ ks) ↔
        px ≤ r.wm1 ∧ py ≤ r.hm1 ∧ covered px py ∧ (px / 64 + r.rw * (py / 64)) % dies.length = logicalIndex dies die)
  -- The update of one pixel (R160).
  ∧ (∀ (s s1 s2 : State) (cx die clk : Nat) (r : FrameRec) (px py z : Nat) (vid : Word) (ld lv : Leaf),
    let vd := r.dz + 4 * (py * r.pitch + px)
    let vv := r.vb + 4 * (py * r.pitch + px)
    let pd := ld.pa + vd % 65536
    let pv := lv.pa + vv % 65536
    let at_ := max (s2.writeTime clk pd) (s2.writeTime clk pv)
    let old := ofBytesLE (s2.bytesAs ld.key pd 4)
    let rank (w : Nat) : Int := if fmt32.neg w then -(fmt32.abs w : Int) else fmt32.abs w
    let less : Prop := ¬fmt32.isNan z ∧ ¬fmt32.isNan old ∧ rank z < rank old
    let q := s.pixel cx die clk r px py z vid
    s.planeLeaf cx die clk r.addr vd = (some ld, s1) → s1.planeLeaf cx die clk r.addr vv = (some lv, s2) →
    s2.mem = s.mem
    ∧ ((s2.unreach pd = true ∨ s2.unreach pv = true) → q = (s2.asyncError cx 7 vd 0, clk))
    ∧ (s2.unreach pd = false → s2.unreach pv = false → s2.replicas = [] → pd % 4 = 0 → pv % 4 = 0 → pd / 32 ≠ pv / 32 → z < 2 ^ 32 → at_ < timeEnd →
      (less → q.2 = at_ ∧ q.1.bytesAs ld.key pd 4 = toBytesLE 4 z ∧ q.1.bytesAs lv.key pv 4 = toBytesLE 4 vid.toNat
        ∧ (q.1.atom pd).w = at_ ∧ (q.1.atom pv).w = at_
        ∧ (∀ a, a / 32 ≠ pd / 32 → a / 32 ≠ pv / 32 → q.1.byte a = s2.byte a)
        ∧ (∀ a, a / 32 = pd / 32 → (a < pd ∨ pd + 4 ≤ a) → q.1.bytesAs ld.key a 1 = s2.bytesAs ld.key a 1)
        ∧ (∀ a, a / 32 = pv / 32 → (a < pv ∨ pv + 4 ≤ a) → q.1.bytesAs lv.key a 1 = s2.bytesAs lv.key a 1))
      ∧ (¬less → q.1.mem = s2.mem ∧ q.2 = s2.writeTime clk pd))
    ∧ (s2.unreach pd = false → s2.unreach pv = false → timeEnd ≤ at_ → q = (s2.exhaust cx, clk)))
  ∧ (∀ (s t : State) (cx die clk fr va : Nat) (l : Leaf), va < 2 ^ 48 → s.leafOf cx none die clk (va / 65536) = (some l, t) →
    let may : Prop := t.permits { cx := cx, die := die, atS := false, clk := clk } .write l = true ∧ t.keyOk cx l = true
    (may → s.planeLeaf cx die clk fr va = (some l, t)) ∧ (¬may → s.planeLeaf cx die clk fr va = (none, t.asyncError cx 3 fr 0)))
  -- The order of a group's primitives, and the record (R156, R161, R162).
  ∧ ∀ (s : State) (die cx slot draw : Nat) (d : DrawState) (m clk : Nat), s.nextGroup die cx slot = some (draw, d, m, clk) →
    let group := d.packets.filter fun p => p.group == d.next
    let clk1 := max clk (1 + max m (maxOf (group.map (·.clk))))
    let held := max clk1 (1 + max (maxOf (d.packets.map (·.clk))) (maxOf (d.marks.map (·.2))))
    ∃ (ps : List Packet) (n : Nat) (u : State), exec (.rasteriseGroup die cx slot) s = .next u.reap
      ∧ ps.Perm group ∧ ps.Pairwise (fun a b => a.prim ≤ b.prim)
      ∧ (let t : State := { s with choices := n }
        (∀ r, d.record = some r → u.mem = (ps.foldl (fun q p => q.1.rasterise die q.2 r p) (t, clk1)).1.mem)
        ∧ (d.record = none → d.failed = true → u.mem = s.mem)
        ∧ (d.record = none → d.failed = false → ∀ p rest, ps = p :: rest →
          (∀ r v t', t.beginDraw die cx held p.fr = (some (r, v), t') → u.mem = (ps.foldl (fun q p => q.1.rasterise die q.2 r p) (t', max clk1 v)).1.mem)
          ∧ ∀ t', t.beginDraw die cx held p.fr = (none, t') → u.mem = s.mem))

/-- R363 to R365, R367, R369, R370, R375, R376, R378, R387. That a register or a width the table lacks names check 1
is the model's choice (log entry 24), and so is check 2 for an ERET without a frame or with a refused one (log entry
29). -/
def Obligations.SystemRegisters : Prop :=
  (∀ (s : State) (c : Site) (g : Guard) (num : Byte) (wide : Bool) (d : Fin 64) (a : SysOperand) (n : Fin 64) (w : Word) (x : Context),
    tabGet c.sh.ctx s.ctxs = some x →
    let kept (u : State) : State := (u.pinDown c.sid).noAudit c.sid
    (Starts (.sysrd g num wide d) s c → sysRegWide num.toNat ≠ some wide → Raises (.sysrd g num wide d) s s c { cause := 1, check := 1 })
    ∧ (Acts (.sysrd g num wide d) g s c → sysRegWide num.toNat = some wide →
      ∃ r, Does (.sysrd g num wide d) s ((s.spendEnergy c num.toNat).putRegs c r) c
        ∧ WritesWords c.view [c.view.lead] (.s d) (if wide then 2 else 1) (fun _ => valueWords wide ((s.spendEnergy c num.toNat).sysReg c num.toNat)) r)
    ∧ (num.toNat ≠ 0x46 → s.spendEnergy c num.toNat = s)
    ∧ (s.sysReg c 0 = c.sh.ctx ∧ s.sysReg c 1 = x.svec ∧ s.sysReg c 2 = x.tfrm ∧ s.sysReg c 3 = x.ttb ∧ s.sysReg c 4 = x.ceil + 256 * x.cmax
      ∧ s.sysReg c 5 = x.ewl ∧ s.sysReg c 6 = x.plq ∧ s.sysReg c 7 = x.swd ∧ s.sysReg c 8 = x.tring ∧ s.sysReg c 9 = x.thead
      ∧ s.sysReg c 10 = x.audk ∧ s.sysReg c 11 = s.horizon c.sh.ctx ∧ s.sysReg c 0x40 = s.clid (c.sh.cluster?.getD 0))
    -- A register of the table that S may not write is the privilege trap, ahead of a TYPE that does not match (R364, R380).
    ∧ (Starts (.syswr g num wide a) s c → sysRegWide num.toNat ≠ none → (num.toNat < 3 ∨ 9 < num.toNat) →
      Raises (.syswr g num wide a) s s c { cause := 2, check := 1 })
    ∧ (Starts (.syswr g num wide a) s c → (sysRegWide num.toNat = none ∨ (3 ≤ num.toNat ∧ num.toNat ≤ 9 ∧ sysRegWide num.toNat ≠ some wide)) →
      Raises (.syswr g num wide a) s s c { cause := 1, check := 1 })
    ∧ (Acts (.syswr g num wide a) g s c → sysRegWide num.toNat = some wide → 3 ≤ num.toNat → num.toNat ≤ 9 →
      Does (.syswr g num wide a) s (kept (s.modCtx c.sh.ctx fun y => y.sysWrite num.toNat (c.view.sysValue wide a))) c)
    ∧ (Acts (.syswrCeil g a) g s c →
      Does (.syswrCeil g a) s (kept (s.modCtx c.sh.ctx fun y => { y with ceil := min (c.view.sysValue false a % 4) y.cmax })) c)
    ∧ (c.view.sysValue false (.s n) = (c.view.regs.uni n.val).toNat ∧ c.view.sysValue false (.imm w) = w.toNat)
    ∧ (∀ v, (x.sysWrite 5 v).ewl = v ∧ (x.sysWrite 6 v).plq = max 10 v ∧ (x.sysWrite 7 v).swd = v ∧ (x.sysWrite 9 v).thead = v
      ∧ (x.sysWrite 8 v).tring = bitsOf v 12 40 * 2 ^ 12 + v / 2 ^ 63 * 2 ^ 63)
    ∧ (∀ m, Acts (.halt g m) g s c →
      let t := { s with issue := none }.endContext c.sh.ctx 0 (c.view.uop m).toNat
      exec (.halt g m) s = .next t ∧ tabGet c.sh.ctx t.ctxs = none ∧ ∀ p ∈ t.sheets, p.2.ctx ≠ c.sh.ctx)
    ∧ (Acts (.wdclr g) g s c → Does (.wdclr g) s (s.modGang c.sid c.gang fun q => { q with wdSpent := 0, wdFrom := some s.now }) c))
  ∧ (∀ (s t : State) (c : Site) (g : Guard) (q : Gang), ActsOn (.eret g) g s t c → tabGet c.gang c.sh.gangs = some q →
    (q.frame = none → Raises (.eret g) s t c { cause := 1, check := 2 })
    ∧ (∀ n e, q.frame = some n → t.readFrame c n = .error e → Raises (.eret g) s e.2 c e.1)
    ∧ ∀ n bs v t1, q.frame = some n → t.readFrame c n = .ok (bs, v, t1) →
      let f := Frame.of bs
      (f.ok q = false → Raises (.eret g) s t c { cause := 1, check := 2 })
      ∧ (f.ok q = true → f.nores = true → exec (.eret g) s = .next ({ t1 with issue := none }.endContext c.sh.ctx 1 (0xFFFF0000 + f.cause)))
      ∧ (f.ok q = true → f.nores = false →
        let u := match v with | none => t1 | some v => t1.raiseTo c v
        let u := (u.modCtx c.sh.ctx fun x => { x with frames := x.frames.filter (· != n) }).modGang c.sid c.gang fun q => (q.returned f c.sh.W t.now).settle
        let u := u.modSheet c.sid fun h => match tabGet c.gang h.gangs with
          | none => h
          | some q => if q.exited then h.producerExits c.gang (q.clockOf (List.range h.W)) else h
        exec (.eret g) s = .next ({ u with issue := none }.afterExit c.sid).reap))
  ∧ (∀ (q : Gang) (bs : List Byte) (W now : Nat), q.relPd = [] →
      let f := Frame.of bs
      let r := q.returned f W now
      r.atS = false ∧ r.frame = none ∧ r.yielded = false ∧ r.entryWait = [] ∧ (∀ k < 16, r.regs.uni k = BitVec.ofNat 32 (fieldAt bs (128 + 4 * k) 4))
      ∧ (∀ k, 16 ≤ k → r.regs.uni k = q.regs.uni k) ∧ (∀ k : Fin 8, k.val < 7 → r.regs.pred k = BitVec.ofNat 64 (fieldAt bs (192 + 8 * k.val) 8) &&& lanesBelow W)
      ∧ r.regs.v = q.regs.v
      ∧ ∀ l < W, l < 64 → ∀ x, tabGet l q.threads = some x → fieldAt bs (512 + l) 1 ≠ 4 →
        (tabGet l r.threads).map Thread.pc = some (BitVec.ofNat 32 (fieldAt bs (256 + 4 * l) 4))
        ∧ (fieldAt bs (512 + l) 1 = 0 → (tabGet l r.threads).map Thread.st = some .running)
        ∧ (fieldAt bs (512 + l) 1 = 1 → (tabGet l r.threads).map Thread.st = some .held))
  ∧ ∀ (s t t1 : State) (c : Site) (g : Guard) (a : UOperand) (x : Context), ActsOn (.stamp g a) g s t c → tabGet c.sh.ctx t.ctxs = some x →
    (x.tring < 2 ^ 63 → Does (.stamp g a) s (t.pinDown c.sid) c)
    ∧ (2 ^ 63 ≤ x.tring → ∀ l, let addr := bitsOf x.tring 12 36 * 4096 + 32 * (x.thead % (128 * 2 ^ bitsOf x.tring 48 4))
      let req : Req := { lane := c.view.lead, va := addr, size := 32, kind := .write }
      t.checkAccess c.issuer [req] = .ok ([(req, l)], t1) →
      let pa := l.phys addr
      let u := (t1.beforeWrite c.sh.ctx addr).modCtx c.sh.ctx fun x => { x with thead := (x.thead + 1) % 2 ^ 64 }
      u.unreach pa = false → ∀ w tm, u.placeWrite { sheet := some c.sid, ctx := c.sh.ctx, key := l.key, home := some (u.homeOf c.sh.ctx addr l) } c.clk pa
        ((toBytesLE 8 u.etime ++ toBytesLE 8 (u.writeTime c.clk pa) ++ toBytesLE 8 c.sh.cyc ++ toBytesLE 4 (c.view.uop a).toNat
          ++ toBytesLE 4 (u.clid (c.sh.cluster?.getD 0))).map some) = some (w, tm) →
      Does (.stamp g a) s (((w.raiseTo c tm).pinDown c.sid).noAudit c.sid) c)
    ∧ (2 ^ 63 ≤ x.tring → ∀ e u,
      let addr := bitsOf x.tring 12 36 * 4096 + 32 * (x.thead % (128 * 2 ^ bitsOf x.tring 48 4))
      t.checkAccess c.issuer [{ lane := c.view.lead, va := addr, size := 32, kind := .write }] = .error (e, u) → Raises (.stamp g a) s u c e)

/-- TLBINV and a write of TTB complete with the translations of the pages named discarded, their clock raised above
the issuing clock, the root of TTB changed by the write; INVREP completes with every replica of its pages converted. A
range of no page, of more than 65,536 or past the address space traps. No cluster or die holds a translation, a
block's included, that serves a discarded page, and no later walk reads at a time below the discard's. PAGE_WALK
enters the leaf it finds into the caches of its cluster and die; REPLICA_CONVERSION ends the replica. CTXSAVE to a
writable aligned image writes it and completes, the copy going on with 0 and the parked sheet set aside; CTXLOAD
completes with its status, and queues the sheet when that is 0. -/
def Obligations.TranslationsAndImages : Prop :=
  (∀ (s t : State) (c : Site) (g : Guard) (a b : Fin 64) (w : SysOperand),
    let va := (c.view.upair a).toNat
    let n := (c.view.regs.uni b.val).toNat
    let goes (i : Instr) (u : State) (page : Pages) : Prop :=
      let q := u.invalidate c.sh.ctx c.clk page
      c.clk < q.2 ∧ (q.2 < timeEnd → Does i s (q.1.raiseTo c q.2) c) ∧ (timeEnd ≤ q.2 → Does i s (q.1.exhaust c.sh.ctx) c)
    let bad (m : Nat) : Prop := m = 0 ∨ 65536 < m ∨ 2 ^ 48 ≤ va ∨ 2 ^ 32 < va / 65536 + m
    let named (m : Nat) : Pages := { first := va / 65536, last := va / 65536 + m - 1 }
    let conv (page : Pages) : State :=
      ((t.replicas.filter fun r => r.ctx == c.sh.ctx && page.first ≤ r.page && r.page ≤ page.last).map (·.page)).foldl
        (fun s p => s.convert c.sh.ctx p) t
    let all : Pages := { first := 0, last := 2 ^ 32 - 1 }
    (ActsOn (.tlbinvPage g a) g s t c → (va < 2 ^ 48 → goes (.tlbinvPage g a) t (named 1)) ∧ (2 ^ 48 ≤ va → Raises (.tlbinvPage g a) s t c { cause := 1, check := 2 }))
    ∧ (ActsOn (.tlbinvRange g a b) g s t c → (¬bad n → goes (.tlbinvRange g a b) t (named n)) ∧ (bad n → Raises (.tlbinvRange g a b) s t c { cause := 1, check := 2 }))
    ∧ (ActsOn (.tlbinvCtx g) g s t c → goes (.tlbinvCtx g) t all)
    ∧ (ActsOn (.syswrTtb g w) g s t c → goes (.syswrTtb g w)
        (((t.modCtx c.sh.ctx fun x => { x with ttb := c.view.sysValue true w / 65536 * 65536 }).pinDown c.sid).noAudit c.sid) all)
    ∧ (ActsOn (.invrep g a) g s t c → (va < 2 ^ 48 → Does (.invrep g a) s (conv (named 1)) c) ∧ (2 ^ 48 ≤ va → Raises (.invrep g a) s t c { cause := 1, check := 2 }))
    ∧ (ActsOn (.invrepRange g a b) g s t c → (¬bad n → Does (.invrepRange g a b) s (conv (named n)) c)
        ∧ (bad n → Raises (.invrepRange g a b) s t c { cause := 1, check := 2 })))
  -- What a discard leaves: no translation of the pages in any cluster or die, and a floor below which no later walk of them reads.
  ∧ (∀ (s : State) (cx clk page : Nat) (pages : Pages) (x : Context), tabGet cx s.ctxs = some x → pages.has page = true →
      ∃ y, tabGet cx (s.discard cx clk pages).ctxs = some y ∧ (∀ p ∈ y.tlb ++ y.near, page < p.2.1 ∨ p.2.1 + (if p.2.2.block then 8191 else 0) < page)
        ∧ (∀ m ∈ y.mids, m.2.1 ≠ page / 8192) ∧ clk ≤ y.floor page
        -- A block's translation serves the 8,192 pages from its first on; one that serves none of the pages stays.
        ∧ (∀ p, pages.last < p.2.1 ∨ p.2.1 + (if p.2.2.block then 8191 else 0) < pages.first → (p ∈ x.tlb → p ∈ y.tlb) ∧ (p ∈ x.near → p ∈ y.near)))
  ∧ (∀ (s : State) (cx p : Nat), (∀ r ∈ (s.convert cx p).replicas, ¬(r.ctx = cx ∧ r.page = p))
      ∧ ((∃ r ∈ s.replicas, r.ctx = cx ∧ r.page = p ∧ r.converting = true) → exec (.replicaConversion cx p) s = .next (s.convert cx p).reap))
  ∧ (∀ (s : State) (cx cl page : Nat) (x : Context) (k : Cluster), tabGet cx s.ctxs = some x → tabGet cl s.clusters = some k →
      let q := s.walk cx k.die 0 page
      q.2.mem = s.mem ∧ exec (.pageWalk cx cl page) s = .next (q.2.modCtx cx fun x => x.cache (some cl) k.die page q.1)
      -- A block's leaf is held once, under the first of its pages, and serves each of them (R416).
      ∧ ∀ l, q.1.leaf = some l → let y := x.cache (some cl) k.die page q.1
          let e := if l.block then (page - page % 8192, { l with pa := l.pa - page % 8192 * 65536 }) else (page, l)
          (cl, e) ∈ y.near ∧ (k.die, e) ∈ y.tlb)
  ∧ (∀ (s t u u1 : State) (c : Site) (g : Guard) (d a : Fin 64) (park : Bool) (h : Sheet) (y : List (Req × Leaf) × State) (xs : List (Req × Leaf)),
    let i := if park then Instr.ctxsavePark g d a else Instr.ctxsaveCopy g d a
    let va := (c.view.upair a).toNat
    ActsOn i g s t c →
    (va % 4096 ≠ 0 → Raises i s t c { cause := 3, check := 3, addr := va })
    ∧ (va % 4096 = 0 → t.checkAccess c.issuer (spanReqs c.view.lead va c.sh.imageSize .write) = .ok y → u = t.stopSheet c.sid false →
      tabGet c.sid u.sheets = some h → h.bad ≠ [] → Raises i s u c (lostData (some c.view.lead) va))
    ∧ (va % 4096 = 0 → ∀ e w, t.checkAccess c.issuer (spanReqs c.view.lead va c.sh.imageSize .write) = .error (e, w) → Raises i s w c e)
    ∧ (va % 4096 = 0 → t.checkAccess c.issuer (spanReqs c.view.lead va c.sh.imageSize .write) = .ok y → u = t.stopSheet c.sid false →
      tabGet c.sid u.sheets = some h → h.bad = [] → u.checkAccess c.issuer (spanReqs c.view.lead va h.imageSize .write) = .ok (xs, u1) →
      let tag := if park then u1.imageTag + 1 else 0
      let q := u1.storeChunks c.sid c.sh.ctx xs ((h.asSaved c i d).image (if park then 2 else 1) tag) h.topClock
      let w := ((q.1.raiseTo c (q.2 + 1)).pinDown c.sid).noAudit c.sid
      (park = false → Does i s (w.modGang c.sid c.gang fun q => { q with regs := q.regs.setUni d.val 0 }) c)
      ∧ (park = true →
        let w := w.modSheet c.sid fun h => h.asSaved c i d
        let pk := ((tabGet c.sid w.sheets).map Sheet.topClock).getD 0
        exec i s = .next { ({ w with imageTag := tag }.setAside c.sid (.parked tag pk)) with issue := none }.reap)))
  ∧ ∀ (s t t1 : State) (c : Site) (g : Guard) (d a : Fin 64) (head bs : List Byte) (v0 v : Option Nat) (t0 : State),
    let i := Instr.ctxload g d a
    let va := (c.view.upair a).toNat
    ActsOn i g s t c →
    (va % 4096 ≠ 0 → Raises i s t c { cause := 3, check := 3, addr := va })
    ∧ (va % 4096 = 0 → t.readAtoms c va 16384 = .ok (head, v0, t0) → t.readAtoms c va (headerSize head) = .ok (bs, v, t1) →
      let u := match v with | none => t1 | some v => t1.raiseTo c v
      let q := u.loadStatus c.sh.ctx bs
      let w := match q.2 with
        | none => u
        | some (sid, h, pk) => ({ u with sheets := tabPut sid { ((h.ofImage bs).raiseClocks (pk + 1)) with home := .saved } u.sheets }).queueRestore sid h.lastDie
      (q.2.isSome ↔ q.1 = 0) ∧ Does i s (w.putRegs c (c.view.regs.setUni d.val (BitVec.ofNat 32 q.1))) c)
    ∧ (va % 4096 = 0 → ∀ e u, t.readAtoms c va 16384 = .error (e, u) → Raises i s u c e)
    ∧ (va % 4096 = 0 → t.readAtoms c va 16384 = .ok (head, v0, t0) → ∀ e u, t.readAtoms c va (headerSize head) = .error (e, u) → Raises i s u c e)

/-- At a boundary of a resident sheet with an error queued, the head of the queue is delivered as trap 20 to the
lowest-numbered gang at U with a running thread, and the count of lost errors restarts; with none the next boundary is
100 µs on. The deadlock watchdog of a context blocked for 50 µs gives every gang of its resident sheets that stood in
a counted wait the deadlock trap. A gang whose uncounted wait has outlasted EWL takes trap 14, and a gang at S longer
than SWD ends its context with reason 0xFFFF_0100. A gang that a kill stopped takes no trap 14. The limits do not act
while EWL or SWD is 0. -/
def Obligations.Watchdogs : Prop :=
  (∀ (s : State) (sid cl : Nat) (h : Sheet) (c : Context) (e : AsyncErr) (rest : List AsyncErr), tabGet sid s.sheets = some h →
    tabGet h.ctx s.ctxs = some c → h.home = .on cl → c.errs = e :: rest → h.errAt ≤ s.now → h.killed = none → h.replay = none →
    (h.errGang = none → exec (.asyncErrorDelivery sid) s = .next (s.modSheet sid fun h => { h with errAt := s.now + 100 * tickUs }))
    ∧ ∀ n g, h.errGang = some (n, g) →
      let p := s.pickPc g fun _ _ => true
      let q := (p.2.modCtx h.ctx fun c => { c with errs := rest }).siteAt sid n (p.1.getD (0, [])).1 (maskOf (p.1.getD (0, [])).2)
      let t := q.2.2.trapEntry q.1 { cause := 20, addr := e.addr, info := e.code + 2 ^ 32 * (e.detail % 2 ^ 32) } .async
      q.1.gang = n ∧ exec (.asyncErrorDelivery sid) s = .next (t.modCtx h.ctx fun c => { c with lost := 0 }).reap)
  ∧ (∀ (h : Sheet) (n : Nat) (g : Gang), h.errGang = some (n, g) → g.atS = false ∧ (∃ p ∈ g.threads, p.2.st = .running) ∧ (n, g) ∈ h.gangs)
  ∧ (∀ (s : State) (cx t0 : Nat) (c : Context), tabGet cx s.ctxs = some c → c.blockedAt = some t0 → t0 + 50 * tickUs ≤ s.now → s.ctxBlocked cx = true →
      let u := s.modCtx cx fun c => { c with blockedAt := none }
      let mine := u.sheets.filter fun p => p.2.ctx = cx
      -- The gangs of saved sheets take the trap when they are restored; those of resident ones now, by the waits that stood when it fired.
      let w := (mine.filter fun p => p.2.home = .saved).foldl (fun s p => s.modSheet p.1 fun h => { h with deadlockDue := h.gangs.any fun q => h.waitsCounted q.2 }) u
      let gangs := (mine.filter fun p => p.2.cluster? ≠ none).flatMap fun p => match tabGet p.1 w.sheets with
        | none => []
        | some h => (h.gangs.filter fun q => h.waitsCounted q.2).map fun q => (p.1, q.1)
      let found := w.waitSites gangs inCounted 15
      exec (.deadlockWatchdog cx) s = .next (found.1.foldl (fun s x => s.trapEntry x.1 x.2 .plain) found.2).reap)
  ∧ (∀ (s : State) (cx : Nat), s.ctxBlocked cx = true → ∀ p ∈ s.sheets, p.2.ctx = cx → (∀ a b, p.2.home ≠ .parked a b) → ∀ q ∈ p.2.gangs,
      q.2.atS = false ∧ ∀ x ∈ q.2.threads, x.2.st = .exited ∨ p.2.counted x.2.st = some true)
  ∧ (∀ (s : State) (sid gang cl : Nat) (h : Sheet) (g : Gang) (c : Context), tabGet sid s.sheets = some h → tabGet gang h.gangs = some g →
      tabGet h.ctx s.ctxs = some c → h.home = .on cl →
      ((∃ x ∈ g.threads, h.counted x.2.st = some false ∧ c.ewl * tickUs < s.now - x.2.since) → g.atS = false → c.ewl ≠ 0 → (h.killed = none ∨ h.killed = some gang) →
        exec (.externalWaitTimeout sid gang) s = .next (s.waitTrap sid gang (overdue c.ewl s.now) 14))
      ∧ ((∃ k, h.killed = some k ∧ k ≠ gang) → exec (.externalWaitTimeout sid gang) s = .fault .notEnabled)
      ∧ (c.ewl = 0 → exec (.externalWaitTimeout sid gang) s = .fault .notEnabled)
      ∧ (g.atS = true → c.swd ≠ 0 → c.swd * tickUs < g.wdMeasure s.now →
        ∃ u : State, exec (.supervisorWatchdog sid gang) s = .next (u.endContext h.ctx 1 0xFFFF0100) ∧ u.sheets = s.sheets ∧ u.mem = s.mem
          ∧ u.steward.notices.map Notice.kind = (s.steward.notices.map Notice.kind ++ [2]).drop (s.steward.notices.length + 1 - 1024))
      ∧ (c.swd = 0 → exec (.supervisorWatchdog sid gang) s = .fault .notEnabled))

/-- A window opens for 16 issue cycles on the next weight in cyclic order that a ready gang has. A die offers by
scheduling key, a launch's saved sheets before its unplaced ones and each by index, and places the first offered sheet
that fits, unless one before it has waited longer than PLQ: a new one leaves its run, a saved one its restore list. A
cluster fits a sheet when it is not quarantined, has the granules and no more than 64 gangs with it, and a saved
sheet's width; of those that fit, one with the fewest gangs and the lowest number takes it. A dry distributor asks its
siblings one after another, takes the upper half of the first launch with two or more unplaced sheets, or rests 5 µs;
a saved sheet that fitted nowhere for 5 µs passes to the next die. A preemption request marks its victims and names
the sheet that caused it, for which the space they free is kept; a drain that outlasts its bound becomes a save; SAVE
and FLUSH set the sheet aside. A sheet with nothing left retires and its launch counts it; a launch with none left
retires. -/
def Obligations.Scheduling : Prop :=
  (∀ (s : State) (k : Nat) (c : Cluster), tabGet k s.clusters = some c → s.cycleDue k c = true → c.windowLeft = 0 → c.half = false →
      let q := s.readyGangs k c
      exec (.weightWindowOpen k) s = .next (q.2.modCluster k fun c => { c with window := nextWindow c.window (q.1.map (·.slot.weight)), windowLeft := 16 }))
  ∧ (∀ (last : Nat) (ws : List Nat), last < 4 → (∀ w ∈ ws, w < 4) →
      (ws = [] → nextWindow last ws = (last + 1) % 4)
      ∧ (ws ≠ [] → nextWindow last ws ∈ ws ∧ ∀ w ∈ ws, (nextWindow last ws + 7 - last) % 4 ≤ (w + 7 - last) % 4))
  -- The order of the offers (R404, R405, R408).
  ∧ (∀ (s : State) (die : Nat), (∀ c ∈ s.ctxs, c.2.rank < 4) → (∀ l ∈ s.launches, l.2.prio < 8) →
      (s.dieLaunches die).Pairwise (fun a b => s.schedKey b.2 ≤ s.schedKey a.2)
      ∧ (∀ l p r, s.partOf die = some (p, r) → (tabGet die s.dies).isSome →
        (l ∈ s.dieLaunches die ↔ l ∈ s.launches ∧ l.2.eligible.isSome = true ∧ ∃ c, tabGet l.2.ctx s.ctxs = some c ∧ c.part = p))
      ∧ s.offers die = (s.dieLaunches die).flatMap (s.offersOf die)
      ∧ ∀ l d, tabGet die s.dies = some d → ∃ saved : List Nat,
        s.offersOf die l = saved.map Offer.saved ++ ((runsHead (s.ownRuns die l.2)).map (Offer.new l.1)).toList
        ∧ saved.Pairwise (fun a b => ((tabGet a s.sheets).map Sheet.index).getD 0 ≤ ((tabGet b s.sheets).map Sheet.index).getD 0)
        ∧ ∀ k, k ∈ saved ↔ (∃ t, (k, t) ∈ d.restore) ∧ (tabGet k s.sheets).map Sheet.launch = some l.1)
  -- What fits, and which cluster takes it (R407).
  ∧ (∀ (s : State) (die k : Nat) (o : Offer) (n : Need), s.need o = some n → s.bestCluster die o = some k →
      (∃ c, (k, c) ∈ s.clusters ∧ c.die = die)
      ∧ ∃ c, tabGet k s.clusters = some c ∧ c.quarantined = false ∧ n.width c = true ∧ n.granules + s.clusterTaken k ≤ c.lgr
        ∧ s.clusterGangs k + n.gangs c ≤ 64)
  ∧ (∀ (s : State) (sid launch index : Nat) (c : Cluster), (∀ h l, tabGet sid s.sheets = some h → tabGet h.launch s.launches = some l →
        ∃ n, s.need (.saved sid) = some n ∧ n.granules = poolGranules h.pool ∧ n.gangs c = h.gangs.length ∧ (n.width c = true ↔ min l.gwid c.aw = h.W))
      ∧ ∀ l, tabGet launch s.launches = some l →
        ∃ n, s.need (.new launch index) = some n ∧ n.granules = poolGranules l.pool ∧ n.gangs c = l.T / min l.gwid c.aw ∧ n.width c = true)
  ∧ (∀ (s : State) (die k : Nat) (o : Offer) (n : Need), s.need o = some n → s.askedOn die = none → s.bestCluster die o = some k →
      ∀ j c, (j, c) ∈ s.clusters → c.die = die → (∃ c, tabGet j s.clusters = some c ∧ c.quarantined = false ∧ n.width c = true
        ∧ n.granules + s.clusterTaken j ≤ c.lgr ∧ s.clusterGangs j + n.gangs c ≤ 64) →
      s.clusterGangs k < s.clusterGangs j ∨ (s.clusterGangs k = s.clusterGangs j ∧ k ≤ j))
  -- The first that fits is placed, unless one before it may no longer be passed (R408).
  ∧ (∀ (s : State) (die p k : Nat) (r : Partition) (o : Offer), s.partOf die = some (p, r) → s.placeStop ≠ some p → s.askedOn die = none →
      (s.placeable die = some (o, k) ↔ ∃ before after, s.offers die = before ++ o :: after ∧ s.bestCluster die o = some k
        ∧ ∀ x ∈ before, s.bestCluster die x = none ∧ ∀ t, s.waitsSince die x = some t → s.now - t ≤ s.offerPlq x))
  ∧ (∀ (s : State) (die sid k : Nat) (h : Sheet) (l : Launch), s.placeable die = some (.saved sid, k) → tabGet sid s.sheets = some h →
      tabGet h.launch s.launches = some l → exec (.placeSheet die) s = .next ((s.rotate die (s.schedKey l)).restoreSheet sid k).reap)
  ∧ (∀ (s : State) (die launch index k : Nat) (l : Launch), s.placeable die = some (.new launch index, k) → tabGet launch s.launches = some l →
      let out (l : Launch) : Launch := let l := { l with unplaced := tabMod (s.dieIndex die) runsTail l.unplaced }
        { l with queued := l.unplaced.any fun p => 0 < runsCount p.2 }
      exec (.placeSheet die) s = .next (((s.rotate die (s.schedKey l)).modLaunch launch out).placeNew launch index k).reap)
  ∧ (∀ (rs : List Run) (i : Nat), runsHead rs = some i → (∀ r ∈ rs, 0 < r.count → i ≤ r.lo) ∧ ∃ r ∈ rs, 0 < r.count ∧ r.lo = i)
  ∧ (∀ (s : State) (die k : Nat), s.asking die = some k →
      let ds := s.siblings die
      let victim := (ds[(s.dieIndex die + k) % ds.length]?).getD die
      ((∀ l ∈ s.dieLaunches victim, runsCount (s.ownRuns victim l.2) < 2) → exec (.stealRequest die) s = .next (s.modDie die fun d =>
        { d with steal := if k + 1 < ds.length then .asking (k + 1) else .resting (s.now + 5 * tickUs) }))
      ∧ ∀ id l, (s.dieLaunches victim).find? (fun l => decide (2 ≤ runsCount (s.ownRuns victim l.2))) = some (id, l) →
        let q := runsSplit (s.ownRuns victim l) (runsCount (s.ownRuns victim l) / 2)
        exec (.stealRequest die) s = .next ((s.modLaunch id fun x =>
          { x with unplaced := tabPut (s.dieIndex die) (s.ownRuns die x ++ q.2) (tabPut (s.dieIndex victim) q.1 x.unplaced) }).modDie die fun d => { d with steal := .none }))
  ∧ (∀ (s : State) (die sheet : Nat), (s.retries die = true → exec (.stealRetry die) s = .next (s.modDie die fun d => { d with steal := .asking 1 }))
      ∧ (s.passes die sheet = true →
        let ds := s.siblings die
        let next := (ds[(s.dieIndex die + 1) % ds.length]?).getD die
        let wait := (((tabGet die s.dies).map (·.waiting)).getD []).filter (·.1 == .saved sheet)
        exec (.restoreListPass die sheet) s = .next (((s.modDie die fun d =>
            { d with restore := d.restore.filter (·.1 != sheet), waiting := d.waiting.filter (·.1 != .saved sheet) }).queueRestore sheet next).modDie next
          fun d => { d with waiting := d.waiting ++ wait }))
      ∧ ∀ a L, s.preemption die = some (a, L) →
        exec (.preemptionRequest die) s = .next ((a.victims.foldl (fun s v => s.requestPreempt v.1 L) s).modDie die fun d => { d with asked := some a }))
  ∧ (∀ (s : State) (sid : Nat) (h : Sheet), tabGet sid s.sheets = some h →
      (∀ t, h.request = .drain t → t ≤ s.now → exec (.drainTimeout sid) s = .next (s.modSheet sid fun h => { h with request := .save }))
      ∧ (∀ k, h.home = .on k →
        (h.request = .save → h.loss = none → exec (.save sid) s = .next (s.saveSheet sid).reap)
        ∧ (h.request = .flush → h.ivl.recoverable = true → exec (.flush sid) s = .next (s.flushSheet sid).reap)
        ∧ (h.request = .flush → h.ivl.recoverable = false → exec (.flush sid) s = .next (s.modSheet sid fun h => { h with request := .save })))
      ∧ (s.sheetDone sid h = true → h.replay = none →
        let taken := s.sampled h
        ∃ u : State, exec (.sheetRetire sid) s = .next u ∧ tabGet sid u.sheets = none ∧ u.mem = s.mem
          ∧ ∀ l, tabGet h.launch s.launches = some l → tabGet h.launch u.launches = some { l with
              left := l.left - 1
              retired := l.retired + 1
              spent := l.spent + (s.now - h.firstAt)
              maxTime := max l.maxTime h.topClock
              gone := l.gone ++ [h.index]
              audits := l.audits + if taken then 1 else 0 }))
  ∧ ∀ (s : State) (k : Nat) (l : Launch), tabGet k s.launches = some l → l.eligible.isSome = true → l.left = 0 → l.audits = 0 → s.closing l.ctx = false →
      let u := if l.cpv then s.increment l else s
      exec (.launchRetire k) s = .next { u with launches := tabDel k u.launches, msgs := u.msgs.filter (·.launch != k) }.reap

/-- R419, R423 to R426, R430 to R432, R434, R435, R437, R438, R440, R443, R446, R449, R451, R457, R458, R469, R470.
What the record of bring-up holds is log entry 11, how a memory word stored under another key pair reads log entries
46 and 56, where a migrated page goes log entry 57, which registers share an ECC word log entry 80, how long a taper
lasts log entry 102; each is the model's choice. -/
def Obligations.UnitsAndFabric : Prop :=
  (∀ (s : State) (sid gang cl : Nat) (h : Sheet) (g : Gang) (w : Shadow) (b : Bool), tabGet sid s.sheets = some h → tabGet sid s.shadows = some w →
      h.home = .on cl → tabGet gang h.gangs = some g → h.killed = none →
      (h.ivl.recoverable = true → w.bad = false → exec (.rollback sid gang b) s = .next (s.rollBack sid).reap)
      ∧ ((h.ivl.recoverable = false ∨ w.bad = true) → exec (.rollback sid gang b) s = .next (s.kill sid gang b)))
  ∧ (∀ (s : State) (bad : LostWords), s.steward.up = true →
      exec (.blotterSweep bad) s = .next (bad.pool.foldl State.poisonPool (bad.atoms.foldl (fun s pa => s.sweepWord pa) s)))
  ∧ (∀ (s : State) (sid cl : Nat) (h : Sheet) (w : PoolWord), tabGet sid s.sheets = some h → h.home = .on cl →
      ∃ h', tabGet sid (s.poisonPool (sid, w)).sheets = some h' ∧ (∀ x ∈ h.bad, x ∈ h'.bad) ∧ ∀ x ∈ poolUnits (s.poolCode h) w, x ∈ h'.bad)
  ∧ (∀ (s : State) (pa : Nat), s.sliceCode pa ≠ 1 → (s.poisonWord pa).mem = s.mem ∧ (s.poisonWord pa).poisoned pa 1 = true)
  ∧ (∀ (s : State) (k : Nat) (c : Cluster) (bad : LostWords), tabGet k s.clusters = some c → c.ecc.1 ≠ c.ecc.2 →
      ∃ u : State, exec (.eccReencode (.pool k) bad) s = .next u ∧ u.mem = s.mem ∧ (tabGet k u.clusters).map Cluster.ecc = some (c.ecc.2, c.ecc.2)
        -- A word found uncorrectable is marked, and a mark covers the unit of the new code.
        ∧ ∀ sid h, tabGet sid s.sheets = some h → h.home = .on k → ∃ h', tabGet sid u.sheets = some h'
          ∧ (∀ x ∈ h.bad, ∀ y ∈ poolUnits c.ecc.2 x, y ∈ h'.bad)
          ∧ ∀ w, (sid, w) ∈ bad.pool → ∀ x ∈ poolUnits c.ecc.1 w, ∀ y ∈ poolUnits c.ecc.2 x, y ∈ h'.bad)
  ∧ (∀ (s : State) (die slice : Nat) (d : Die) (old new : Nat), tabGet die s.dies = some d → tabGet slice d.ecc = some (old, new) → old ≠ new →
      ∃ u : State, exec (.eccReencode (.slice die slice) {}) s = .next u ∧ u.mem = s.mem ∧ (tabGet die u.dies).map (fun d => tabGet slice d.ecc) = some (some (new, new)))
  ∧ (∀ (s : State) (a sid : Nat) (x : Audit) (h : Sheet), tabGet a s.audits = some x →
      (x.running = some sid → tabGet sid s.sheets = some h → s.replayOver sid h = true → x.rewrite ≠ none →
        let u := s.removeSheet sid
        let u := if x.writes then u.modLaunch h.launch fun l => { l with maxTime := max l.maxTime h.topClock } else u
        exec (.countersignReplay a) s = .next ((u.auditError x 64).endAudit a x))
      ∧ (x.running = some sid → tabGet sid s.sheets = some h → s.replayOver sid h = true → x.rewrite = none → h.noAudit = false →
        x.writes = false → exec (.countersignReplay a) s = .next ((s.removeSheet sid).judge a { x with running := none, sigs := x.sigs ++ [(h.cluster?.getD 0, h.sig)] }))
      -- None is placed while a checkpoint of its partition stops placement (R468).
      ∧ ∀ k c, x.running = none → tabGet x.sheet.ctx s.ctxs = some c → s.placeStop ≠ some c.part → s.replayCluster x = some k →
        let u := (s.placeNew x.sheet.launch x.sheet.index k).modSheet s.nextId fun h => { h with replay := some a }
        exec (.countersignReplay a) s = .next { u with audits := tabPut a { x with running := some s.nextId } u.audits }.reap)
  ∧ (∀ (s : State) (a : Audit) (n : Nat) (o r : Nat × Nat), a.sigs = [o, r] → o.2 = r.2 → s.judge n a = s.endAudit n a)
  ∧ (∀ (s : State) (a : Audit) (n : Nat) (o r t : Nat × Nat), a.sigs = [o, r, t] →
      (t.2 = o.2 → s.judge n a = (s.quarantine r.1 a.sheet.ctx).endAudit n a)
      ∧ (t.2 ≠ o.2 → t.2 = r.2 → s.judge n a =
        { s with audits := tabPut n { a with writes := true, rewrite := some r.1 } s.audits }.quarantine o.1 a.sheet.ctx)
      ∧ (t.2 ≠ o.2 → t.2 ≠ r.2 → s.judge n a = (s.auditError a 65).endAudit n a))
  ∧ (∀ (s : State) (k cx : Nat) (c : Cluster), tabGet k s.clusters = some c → (tabGet k (s.quarantine k cx).clusters).map (·.quarantined) = some true
      ∧ ∀ sid h, tabGet sid s.sheets = some h → h.home = .on k → ∃ h', tabGet sid (s.quarantine k cx).sheets = some h' ∧ h'.request = .save)
  -- A replay that is only to be compared writes nothing (R437).
  ∧ (∀ (s : State) (w : PendWrite) (p : LaneWrite) (cp : Copy) (e : CopyElem),
      (s.dryReplay (some w.sheet) = true → (s.performPart w p).mem = s.mem) ∧ (s.dryReplay (some cp.sheet) = true → s.performElem cp e = (s, 0)))
  ∧ (∀ (s : State) (id : Nat) (m : Migration), tabGet id s.migrations = some m →
      let u := { s with migrations := tabDel id s.migrations }
      ((u.leafNow m.ctx m.page = none ∨ ∃ l, u.leafNow m.ctx m.page = some l ∧ l.pa ≠ m.src) → exec (.migrationCutover id) s = .next u.reap)
      -- Accesses that used the page complete, it moves, its leaf names the new home; the translation is discarded, and no later walk reads below the leaf's write.
      ∧ ∀ l, u.leafNow m.ctx m.page = some l → l.pa = m.src →
        let page : Pages := { first := m.page, last := m.page }
        let w := ((u.settlePages m.ctx 0 page).movePage m.src m.dst l.key).rewriteLeaf m.ctx (l.entryPa + 8) ((toBytesLE 8 m.dst).map some)
        let at_ := (w.atom (l.entryPa + 8)).w
        exec (.migrationCutover id) s = .next ((w.discard m.ctx at_ page).recheckDeps m.ctx at_ page).reap)
  ∧ (∀ (s : State) (src dst key a : Nat), s.memWf → risingFrom 0 s.atoms = true → src % 65536 = 0 → dst % 65536 = 0 → src ≠ dst → a < 65536 →
      let q := s.movePage src dst key
      q.bytesAs key (dst + a) 1 = s.bytesAs key (src + a) 1 ∧ (q.atom (dst + a)).w = (s.atom (src + a)).w ∧ (q.atom (dst + a)).e = (s.atom (src + a)).e
      ∧ (q.atom (dst + a)).folio = (s.atom (src + a)).folio ∧ (q.atom (dst + a)).itag = (s.atom (src + a)).itag
      ∧ (q.atom (dst + a)).poison = (s.atom (src + a)).poison
      ∧ ((q.atom (dst + a)).prior.map fun p => (p.w, p.ends)) = ((s.atom (src + a)).prior.map fun p => (p.w, p.ends))
      ∧ ∀ x, x / 65536 ≠ src / 65536 → x / 65536 ≠ dst / 65536 → q.byte x = s.byte x ∧ q.atom x = s.atom x)
  ∧ (∀ (s : State) (k : Nat) (d : Die), tabGet k s.dies = some d → d.boostAt ≤ s.now →
      (d.idle ≠ 5 → ∃ u d', exec (.boostIntervalBoundary k) s = .next u ∧ tabGet k (State.dies u) = some d' ∧ d'.permits ≤ d.permits ∧ d'.boostAt = d.boostAt + 5000 * tickNs
        ∧ u.mem = s.mem ∧ u.sheets = s.sheets)
      -- The fifth idle interval in a row refills the pool by one, and the boundary there has the permit.
      ∧ (d.idle = 5 → ∃ u d', exec (.permitRefill k) s = .next u ∧ tabGet k (State.dies u) = some d' ∧ d'.permits ≤ min 64 (d.permits + 1)
        ∧ d'.boostAt = d.boostAt + 5000 * tickNs ∧ u.mem = s.mem ∧ u.sheets = s.sheets))
  ∧ (∀ (s : State) (k : Nat) (c : Cluster), tabGet k s.clusters = some c →
      (∀ t, c.retained = false → s.idleCluster k = true → c.idleAt = some t → c.retainsAt k t ≤ s.now →
        exec (.retentionEntry k) s = .next (s.modCluster k fun c => { c with retained := true, wakeBy := none }))
      ∧ (∀ t, t + 20 * tickUs ≤ c.retainsAt k t ∧ (c.didt = 0 → c.retainsAt k t = t + 20 * tickUs)
        ∧ (c.idleAt = some t → s.now < t + 20 * tickUs → exec (.retentionEntry k) s = .fault .notEnabled))
      ∧ (c.retained = true → s.wakes k = true → ∃ u : State, exec (.retentionWake k) s = .next u ∧ (tabGet k u.clusters).map (·.retained) = some false))
  ∧ (∀ (s : State) (r : PowerOnRecord), s.steward.up = false → ∃ u : State, exec (.powerOn r) s = .next u ∧ u.steward.up = true
      ∧ u.steward.device = r.device % 2 ^ 22 ∧ (u.steward.badConfig = !r.recordValid) ∧ u.sheets = s.sheets
      -- Key slot 0 has a new key pair, which every partition may use (R457).
      ∧ (let key := toBytesLE 64 (s.free .random); tabGet 0 u.keys = some { key := some key, last := some key, grants := 65535 })
      ∧ (∀ k, k ≠ 0 → tabGet k u.keys = tabGet k s.keys)
      -- The clusters installed are the live ones, each position once; the shape of each is one a package has (R1, R143).
      ∧ (∀ k c, tabGet k u.clusters = some c → (c.aw = 64 ∨ c.aw = 32 ∨ c.aw = 16) ∧ c.cx < 12 ∧ c.cy < 8 ∧ 0 < c.lln ∧ c.lln ≤ 64 ∧ 0 < c.lgr ∧ c.lgr ≤ 128
        ∧ (tabGet c.die u.dies).isSome)
      ∧ (∀ x ∈ r.clusters, testLive x = true → ∃ k c, tabGet k u.clusters = some c ∧ c.die = dieRank x.dx x.dy ∧ c.cx = x.cx ∧ c.cy = x.cy)
      -- Memory is as it was at the first bring-up, and at another where nothing is stored under key slot 0, whose key pair is new (R419).
      ∧ ((tabGet 0 s.keys).bind KeySlot.last = none → u.mem = s.mem)
      ∧ ((∀ a ∈ s.atoms, a.2.key ≠ 0 ∧ ∀ p, a.2.prior = some p → p.key ≠ 0) → u.mem = s.mem)
      ∧ (∀ pa, (s.atom pa).key ≠ 0 → u.byte pa = s.byte pa))
  ∧ (∀ (s : State) (key va len : Nat) (data : List Byte),
      (s.regionFor key va data.length = none → exec (.rdmaWrite key va data) s = .next s) ∧ (s.regionFor key va len = none → exec (.rdmaRead key va len) s = .next s)
      ∧ ∀ r, s.regionFor key va len = some r →
        let ps := atomPieces va len (len + 1)
        let reqs := ps.map fun p => { lane := 0, va := p.1, size := 1, kind := Access.read : Req }
        ∀ xs t, s.checkAccess (s.firmware r.ctx) reqs = .ok (xs, t) →
        let pas := xs.map fun x => x.2.phys x.1.va
        let v := t.viewTime (((tabGet r.ctx s.ctxs).map (·.clock)).getD 0) pas
        (∀ x ∈ pas.zip ps, t.poisonedAt v x.1 x.2.2 = false ∧ t.unreach x.1 = false) →
        ∃ u : State, exec (.rdmaRead key va len) s = .next u ∧ u.mem = s.mem
          ∧ u.steward.rdmaOut = s.steward.rdmaOut ++ [(xs.zip ps).flatMap fun x => t.versionAs x.1.2.key v (x.1.2.phys x.1.1.va) x.2.2])
  ∧ (∀ (s : State) (key va : Nat) (data : List Byte) (r : Region) (xs : List (Req × Leaf)) (t : State), s.regionFor key va data.length = some r →
      let ps := atomPieces va data.length (data.length + 1)
      s.checkAccess (s.firmware r.ctx) (ps.map fun p => { lane := 0, va := p.1, size := 1, kind := .write }) = .ok (xs, t) →
      let one (s : State) (x : (Req × Leaf) × Nat × Nat) : State :=
        let pa := x.1.2.phys x.1.1.va
        if s.unreach pa then s.asyncError r.ctx 7 x.1.1.va 0
        else
          let s := s.beforeWrite r.ctx x.1.1.va
          match s.placeWrite { sheet := none, ctx := r.ctx, key := x.1.2.key, home := some (s.homeOf r.ctx x.1.1.va x.1.2) } (((tabGet r.ctx s.ctxs).map (·.clock)).getD 0) pa
              (((data.drop (x.2.1 - va)).take x.2.2).map some) with
          | none => s.exhaust r.ctx
          | some (s, tm) => s.modCtx r.ctx fun c => { c with clock := max c.clock tm }
      exec (.rdmaWrite key va data) s = .next ((xs.zip ps).foldl one t).reap)
  ∧ (∀ (s : State) (d : Nat), d ≠ s.steward.device → s.unreachable.contains d = false →
      exec (.linkUnreachable d) s = .next { s with unreachable := s.unreachable ++ [d] })
  ∧ ∀ (s : State) (k : Nat),
      -- An agent's 32-bit incarnation number rises by one: dies by rank, the steward's two chiplets, and the other devices.
      let raise (n : Nat) (s : State) : State := { s with incarnations := tabPut n ((((tabGet n s.incarnations).getD 0) + 1) % 2 ^ 32) s.incarnations }
      ((tabGet k s.dies).isSome → (∀ c ∈ s.ctxs, k ∉ s.ctxDies c.1) → exec (.reAdmission (.die k)) s = .next (raise k s))
      ∧ (s.ctxs = [] → exec (.reAdmission (.steward k)) s = .next (raise (64 + k % 2) s))
      ∧ ((∀ c ∈ s.ctxs, ∀ p, tabGet c.2.part s.parts = some p → k ∉ p.devices) → exec (.reAdmission (.peer k)) s =
          .next (raise (256 + k) { s with unreachable := s.unreachable.filter (· != k) }))
      -- None while a context uses the agent.
      ∧ ((∃ c ∈ s.ctxs, k ∈ s.ctxDies c.1) → exec (.reAdmission (.die k)) s = .fault .notEnabled)
      ∧ (s.ctxs ≠ [] → exec (.reAdmission (.steward k)) s = .fault .notEnabled)
      ∧ ((∃ c ∈ s.ctxs, ∃ p, tabGet c.2.part s.parts = some p ∧ k ∈ p.devices) → exec (.reAdmission (.peer k)) s = .fault .notEnabled)

/-- R418 to R420, R458, R460 to R464, R466 to R469, R471. That HANDOVER leaves the lease its end is the model's choice
(log entry 50), and so are what RESET keeps (log entry 53), what RESTORE puts back (log entry 54), when CHECKPOINT
saves and answers (log entry 55), how a submission met by lost data is answered (log entries 38 and 90), how many
regions there may be (log entry 41), and where a page migrates to (log entry 57). -/
def Obligations.StewardCommands : Prop :=
  ∀ (s : State) (h : CmdHdr) (b : List Byte), s.steward.up = true →
    let mine : List (Nat × Instr) := [(2, .heartbeat h b), (3, .handover h b), (32, .partCreate h b), (33, .partEnd h b), (34, .ctxCreate h b), (35, .ctxEnd h b),
      (36, .stewardLaunch h b), (37, .preempt h b), (48, .keyLoad h b), (49, .keyClear h b), (50, .keyGrant h b), (51, .replicate h b), (52, .migrate h b),
      (53, .region h b), (54, .clset h b), (64, .checkpoint h b), (65, .restore h b), (80, .reset h b)]
    let anyone : List (Nat × Instr) := [(1, .claim h b), (16, .status h b), (17, .attest h b), (18, .notices h b)]
    let f4 (o : Nat) : Nat := fieldAt b o 4
    let f8 (o : Nat) : Nat := fieldAt b o 8
    let ok (i : Instr) (code : Nat) (u : State) (body : List Byte) : Prop := exec i s = .next (u.reply code h 0 body)
    let lease : List Byte := toBytesLE 8 ((s.now + 6000000 * tickUs) / tickNs)
    let pen (k : BitVec 256) (e : Nat) : State := { s with steward := { s.steward with pen := some k, leaseEnd := e } }
    (s.steward.badConfig = true → ∀ p ∈ mine ++ anyone, exec p.2 s = .next (s.reply p.1 h 1 []))
    ∧ (s.steward.badConfig = false → s.isPen h = false → ∀ p ∈ mine, exec p.2 s = .next (s.reply p.1 h 3 []))
    ∧ (s.steward.badConfig = false →
      (s.steward.keys.contains h.key = true → b.length = 32 → (s.steward.pen = none ∨ s.steward.leaseEnd ≤ s.now ∨ s.isPen h = true) →
        ok (.claim h b) 1 (pen h.key (s.now + 6000000 * tickUs)) lease)
      ∧ (s.steward.keys.contains h.key = false → exec (.claim h b) s = .next (s.reply 1 h 3 []))
      ∧ (b = [] → ∃ out, ok (.status h b) 16 s out ∧ fieldAt out 32 4 = s.dies.length % 2 ^ 32 ∧ fieldAt out 36 4 = s.clusters.length % 2 ^ 32
        ∧ ∀ n k d, s.dies[n]? = some (k, d) → fieldAt out (40 + 4 * n) 4 = s.dieClkst k d % 2 ^ 32)
      ∧ (b.length = 32 → ok (.attest h b) 17 s (s.report b))
      -- As many as the reply's 8,192 bytes hold (R465).
      ∧ (b.length = 4 → let out := s.steward.notices.take (min (ofBytesLE b) 255)
        ok (.notices h b) 18 { s with steward := { s.steward with notices := s.steward.notices.drop (min (ofBytesLE b) 255) } }
          (toBytesLE 4 out.length ++ out.flatMap Notice.bytes)))
    ∧ (s.steward.badConfig = false → s.isPen h = true →
      (b = [] → ok (.heartbeat h b) 2 (pen h.key (s.now + 6000000 * tickUs)) lease)
      ∧ (b.length = 32 → s.steward.keys.contains (BitVec.ofNat 256 (ofBytesLE b)) = true →
        ok (.handover h b) 3 (pen (BitVec.ofNat 256 (ofBytesLE b)) s.steward.leaseEnd) [])
      ∧ (∀ k p, partitionOf b = some (k, p) →
        (s.parts.length < 16 → tabGet k s.parts = none → (∀ q ∈ s.parts, q.2.meets p = false) → ok (.partCreate h b) 32 { s with parts := tabPut k p s.parts } [])
        ∧ (16 ≤ s.parts.length → exec (.partCreate h b) s = .next (s.reply 32 h 8 []))
        ∧ (s.parts.length < 16 → ((tabGet k s.parts).isSome ∨ ∃ q ∈ s.parts, q.2.meets p = true) → exec (.partCreate h b) s = .next (s.reply 32 h 7 [])))
      ∧ (b.length = 4 → (tabGet (ofBytesLE b) s.parts).isSome →
        let u := s.endContexts (fun c => c.part == ofBytesLE b) 0xFFFFFFFE
        ok (.partEnd h b) 33 { u with parts := tabDel (ofBytesLE b) u.parts } [])
      ∧ (b.length = 40 → f4 0 < 1024 → f4 4 < 4 → f4 32 < 4 → f4 36 = 0 → (tabGet (f4 0 / 64) s.parts).isSome →
        let held := (s.ctxs.filter fun c => c.2.part == f4 0 / 64).length
        let new : Context := { part := f4 0 / 64, svec := f8 8 / 128 * 128, tfrm := bitsOf (f8 16) 12 36 * 4096, ttb := f8 24 / 65536 * 65536
                               ceil := f4 32, cmax := f4 32, rank := f4 4 }
        (64 ≤ held → exec (.ctxCreate h b) s = .next (s.reply 34 h 8 []))
        ∧ (held < 64 → (tabGet (f4 0) s.ctxs).isSome → exec (.ctxCreate h b) s = .next (s.reply 34 h 7 []))
        ∧ (held < 64 → tabGet (f4 0) s.ctxs = none → ok (.ctxCreate h b) 34 { s with ctxs := tabPut (f4 0) new s.ctxs } []))
      ∧ (∀ cx (c : Context), tabGet cx s.ctxs = some c →
        let s1 := s.modCtx cx fun c => { c with clock := c.clock + 1 }
        (b.length = 4 → ofBytesLE b = cx → ok (.ctxEnd h b) 35 (s1.endContext cx 1 0xFFFFFFFF) [])
        ∧ (b.length = 136 → f4 0 = cx → f4 4 = 0 →
          let q := s1.submit cx { cx := cx, die := (s1.ctxDies cx).headD 0, atS := false, clk := c.clock + 1, steward := true } (b.drop 8)
          -- A submission that cannot be read is answered 3, also one that meets uncorrectable data.
          (∀ st u, q = .ok (st, u) → exec (.stewardLaunch h b) s = .next (u.reply 36 h 0 (toBytesLE 4 st)).reap)
          ∧ (∀ e u, q = .error (e, u) → exec (.stewardLaunch h b) s = .next (u.reply 36 h 0 (toBytesLE 4 3)).reap))
        ∧ (∀ l, b.length = 24 + 8 * f4 16 → f4 20 = 0 → f4 0 = cx → tabGet (f8 8) s.launches = some l → l.ctx = cx →
          let ks := (List.range (f4 16)).map fun i => f8 (24 + 8 * i)
          (∀ k ∈ ks, k < l.sheets) →
          let named := s1.sheets.filter fun p => p.2.launch == f8 8 && ks.contains p.2.index && p.2.cluster?.isSome && p.2.replay.isNone
          ok (.preempt h b) 37 (named.foldl (fun s p => s.requestPreempt p.1 (f4 4)) s1) (toBytesLE 4 named.length))
        ∧ (∀ l, b.length = 16 → f4 0 = cx → f4 4 = 0 → f8 8 < 2 ^ 48 → s.leafNow cx (f8 8 / 65536) = some l → l.block = false →
          (l.pl = 2 → ok (.replicate h b) 51 s1 [])
          ∧ (l.pl = 1 → (s.replicas.filter fun r => r.home = s.pageDie l.pa).length < 65536 →
            ∃ (u : State) (r : Replica), ok (.replicate h b) 51 u [] ∧ u.replicas = s.replicas ++ [r] ∧ r.ctx = cx ∧ r.page = f8 8 / 65536 ∧ r.pa = l.pa
              ∧ r.home = s.pageDie l.pa ∧ r.copies.map (·.1) = s.ctxDies cx ∧ r.converting = false)
          ∧ (l.pl = 1 → 65536 ≤ (s.replicas.filter fun r => r.home = s.pageDie l.pa).length → exec (.replicate h b) s = .next (s.reply 51 h 8 []))
          ∧ (l.pl = 0 → exec (.replicate h b) s = .next (s.reply 51 h 5 [])))
        ∧ (∀ l dst, b.length = 16 → f4 0 = cx → fieldAt b 6 2 = 0 → f8 8 < 2 ^ 48 → s.leafNow cx (f8 8 / 65536) = some l → l.block = false → l.pl ≠ 0 →
          paDevice l.pa = s.steward.device → fieldAt b 4 1 < 8 → fieldAt b 5 1 < 6 →
          let die := dieRank (fieldAt b 4 1) (fieldAt b 5 1)
          die ∈ s.ctxDies cx → (∀ m ∈ s.migrations, ¬(m.2.ctx = cx ∧ m.2.page = f8 8 / 65536)) →
          (s.pageDie l.pa = die → ok (.migrate h b) 52 s1 [])
          ∧ (s.pageDie l.pa ≠ die → ((tabGet c.part s.parts).bind fun p => s1.freePage p die) = none → exec (.migrate h b) s = .next (s.reply 52 h 5 []))
          ∧ (s.pageDie l.pa ≠ die → ((tabGet c.part s.parts).bind fun p => s1.freePage p die) = some dst →
            ∃ (u : State) (id : Nat), ok (.migrate h b) 52 u [] ∧ tabGet id u.migrations = some { ctx := cx, page := f8 8 / 65536, src := l.pa, dst := dst }))
        ∧ (b.length = 28 → f4 0 = cx → f4 4 = 0 → f4 24 = 0 → f8 8 + f8 16 ≤ 2 ^ 48 → s.steward.regions.length < Config.regionSlots →
          ∃ (u : State) (k : Nat), ok (.region h b) 53 u (toBytesLE 4 k) ∧ tabGet k u.steward.regions = some { ctx := cx, base := f8 8, len := f8 16 })
        ∧ (b.length = 28 → f4 0 = cx → f4 4 = 0 → f4 24 = 0 → f8 8 + f8 16 ≤ 2 ^ 48 → Config.regionSlots ≤ s.steward.regions.length →
          exec (.region h b) s = .next (s.reply 53 h 8 []))
        ∧ (b.length = 28 → f4 0 = cx → f4 4 = 1 → (tabGet (f4 24) s.steward.regions).map Region.ctx = some cx →
          ok (.region h b) 53 { s1 with steward := { s1.steward with regions := tabDel (f4 24) s1.steward.regions } } [])
        ∧ (b.length = 16 → f4 0 = 3 → f4 4 = cx → f4 8 = 3 →
          ok (.clset h b) 54 (s.modCtx cx fun c => { c with audk := f4 12 % 32 + f4 12 / 2 ^ 31 % 2 * 2 ^ 31, clock := c.clock + 1 }) []))
      ∧ (b.length = 112 → 1 ≤ f4 0 → f4 0 ≤ 255 → f4 4 = 0 →
        (∀ key, Config.unwrapKey (b.drop 8) = some key → ∃ u : State, ok (.keyLoad h b) 48 u []
          ∧ tabGet (f4 0) u.keys = some { (tabGet (f4 0) s.keys).getD {} with key := some key, last := some key }
          ∧ ∀ k, k ≠ f4 0 → tabGet k u.keys = tabGet k s.keys)
        ∧ (Config.unwrapKey (b.drop 8) = none → exec (.keyLoad h b) s = .next (s.reply 48 h 5 [])))
      ∧ (b.length = 4 → 1 ≤ ofBytesLE b → ofBytesLE b ≤ 255 →
        ok (.keyClear h b) 49 { s with keys := tabMod (ofBytesLE b) (fun x => { x with key := none }) s.keys } [])
      ∧ (b.length = 8 → 1 ≤ f4 0 → f4 0 ≤ 255 → fieldAt b 6 2 = 0 →
        ok (.keyGrant h b) 50 { s with keys := tabPut (f4 0) { (tabGet (f4 0) s.keys).getD {} with grants := fieldAt b 4 2 } s.keys } [])
      ∧ (∀ c, b.length = 16 → f4 0 = 2 → tabGet (f4 4) s.clusters = some c → f4 8 = 2 → f4 12 ≤ 65535 →
        ∃ u : State, ok (.clset h b) 54 u [] ∧ (tabGet (f4 4) u.clusters).map Cluster.didt = some (f4 12) ∧ u.mem = s.mem ∧ u.sheets = s.sheets)
      ∧ (b.length = 4 → (tabGet (ofBytesLE b) s.parts).isSome → ∃ u : State, exec (.checkpoint h b) s = .next u.reap ∧ u.placeStop = some (ofBytesLE b)
        ∧ ∃ id, u.steward.saving = some (id, ofBytesLE b, h) ∧ (tabGet id u.steward.checkpoints).map Checkpoint.part = some (ofBytesLE b))
      ∧ (∀ ck, b.length = 16 → f4 4 = 0 → (tabGet (f4 0) s.parts).isSome → tabGet (f8 8) s.steward.checkpoints = some ck →
        ((∀ x ∈ s.ctxs, x.2.part ≠ f4 0) → s.clashes ck = false → ok (.restore h b) 65 (s.load (f4 0) ck) [])
        ∧ ((∃ x ∈ s.ctxs, x.2.part = f4 0) → exec (.restore h b) s = .next (s.reply 65 h 7 [])))
      ∧ (b = [] → ∃ u : State, exec (.reset h b) s = .next u ∧ u.steward.up = false ∧ u.steward.pen = none ∧ u.sheets = [] ∧ u.launches = [] ∧ u.parts = []
        ∧ u.clusters = [] ∧ u.dies = [] ∧ (∀ k ∈ u.keys, k.2.key = none ∧ k.2.grants = 0) ∧ u.incarnations = s.incarnations ∧ u.copies = [] ∧ u.writes = []
        ∧ u.steward.restarted = true))
    ∧ (s.steward.pen ≠ none → s.steward.leaseEnd ≤ s.now → exec .leaseLapse s = .next { s with steward := { s.steward with pen := none } })
    ∧ ∀ id part h', s.steward.saving = some (id, part, h') → exec (.checkpointComplete id) s =
        .next (({ s with placeStop := none, steward := { s.steward with saving := none } }).reply 64 h' 0 (toBytesLE 8 id))
    -- What the port takes (R462, R465, R466), and whose number is accepted.
    ∧ (∀ bs, s.port bs = match commandOf bs with
      | none => (s, none)
      | some (code, h, b) =>
        if s.steward.fresh h = false then (s, none)
        else match commandInstr code h b with
          | some i => (s, some i)
          | none => (s.reply code h (if s.steward.badConfig = true then 1 else 4) [], none))
    ∧ ∀ code stat body, (stat ≠ 0 → (s.reply code h stat body).steward.seqs = s.steward.seqs)
      ∧ (s.steward.fresh h = true → ((s.reply code h 0 body).steward.seqs.find? fun p => p.1 = h.key).map (·.2) = some h.seq)

/-- R181, R182, R194, R380. What decides of a word of which fewer than 8 bytes were fetched is the model's choice (log
entry 81). -/
def Obligations.StepRunsTheDecoded : Prop :=
  (∀ (s t : State) (c : Site) (n : Issue), s.issue = some n → s.site = some c →
    (∀ i, s.fetch c = (.instr i, t) → step s = exec i t)
    ∧ (s.fetch c = (.pad, t) → step s = .next (t.skipPad c))
    ∧ ∀ e w, s.fetch c = (.trap e w, t) → step s = .next (t.fetchTrap c e w))
  ∧ (∀ s : State, s.issue = none → step s = panelStep s)
  ∧ ∀ (a : Agent) (atS : Bool) (pc : Word) (bs : List Byte),
    let f := Fields.unpack (ofBytesLE (bs.take 16))
    let site := if f.len = 3 then none else some (pc + BitVec.ofNat 32 (lengthBytes f.len), f.guard)
    -- What is decided before every other check: a system opcode at U, and a word outside a sequencer's subset (R194, R326, R380).
    let first : Option Trap := match a with
      | .gang _ => if systemOpcode f.opc = true ∧ atS = false then some { cause := 2, check := 1 } else none
      | .seq k => if (if bs.length < 8 then f.headSubset k else f.engineSubset k) = true then none else some { cause := 12 }
    (ofBytesLE (bs.take 4) = 0xFFFFFFFF → fetched a atS pc bs = .pad)
    ∧ (ofBytesLE (bs.take 4) ≠ 0xFFFFFFFF →
      (∀ e, first = some e → fetched a atS pc bs = .trap e site)
      ∧ (first = none → ∀ i, decodeBytes bs = .ok i → fetched a atS pc bs = .instr i)
      ∧ (first = none → ∀ e, decodeBytes bs = .error e → fetched a atS pc bs =
        .trap (if writesReadOnly f bs.length then { cause := 2, check := 1 } else { cause := 1, check := 1 }) site))

/-- For every instruction and every state execution answers a next state or a fault, never a refusal; a step with no
issue in progress always answers a next state. -/
def Obligations.NothingRefused : Prop :=
  (∀ (i : Instr) (s : State) (r : Refusal), exec i s ≠ .refused r) ∧ ∀ s : State, s.issue = none → ∃ t, step s = .next t

/-- Eighteen words of the spec's own examples, of every family with one, decode to their instructions with every
operand as written. -/
def Obligations.DecodedWords : Prop :=
  let g (p : Fin 8) : Guard := { neg := false, p := p }
  decodeTableWord 64 0x01400030C0416880 = some (.iadd { neg := true, p := 2 } .i32 false (.v 5) (.reg (.v 1)) (.reg (.s 3)))
  ∧ decodeTableWord 96 (0x00809C81 + 2 ^ 32 * 0x09400000 + 2 ^ 64 * 0x000003E8) = some (.iadd (g 7) .i32 false (.v 2) (.reg (.v 2)) (.imm 1000))
  ∧ decodeTableWord 64 0x01C070008040DD0C = some (.ffma (g 7) .rz (.v 3) (.reg (.v 1)) (.reg (.v 2)) (.reg (.s 0)))
  ∧ decodeTableWord 96 (0x010000D5 + 2 ^ 32 * 0x29410000 + 2 ^ 64 * 0x00000064) = some (.icmp (g 0) .i32 .lt .none 1 (.reg (.v 4)) (.imm 100))
  ∧ decodeTableWord 64 0x018000314081DC90 = some (.imulh (g 7) .n32 (.v 7) (.reg (.v 2)) (.reg (.s 5)))
  ∧ decodeTableWord 96 (0x00001C05 + 2 ^ 64 * 0xFFFFFFC0) = some (.bra (g 7) (-64))
  ∧ decodeTableWord 96 (0x01005E01 + 2 ^ 32 * 0x00C00000 + 2 ^ 64 * 0x00000010) = some (.ld (g 7) .b32 (.v 1) (.v 4) (some 16))
  ∧ decodeTableWord 96 (0x00409F01 + 2 ^ 32 * 0x38C00000 + 2 ^ 64 * 0x00000014) = some (.shfl (g 7) .b32 (some (.flip, .imm 20)) 2 (.v 1))
  ∧ decodeTableWord 64 0x01800001F1009E90 = some (.atagg (g 7) (.addI .n32) (.v 2) 4 none (.v 7))
  ∧ decodeTableWord 128 (0x02001F42 + 2 ^ 32 * 0x02400004 + 2 ^ 64 * 0x00000002) = some (.mma (g 7) .bf16 2 false 8 16 none)
  ∧ decodeTableWord 64 0x00C1400031001FC4 = some (.syswr (g 7) 5 false (.s 4))
  ∧ decodeTableWord 64 0x1FC8 = some (.eret (g 7)) ∧ decodeTableWord 64 0x1C00 = some (.nop (g 7)) ∧ decodeTableWord 64 0x1C18 = some (.exit (g 7))
  ∧ decodeTableWord 96 (0x00001FA5 + 2 ^ 32 * 0x01C10000 + 2 ^ 64 * 0x0000001A) = some (.nred (g 7) (.fold (.addF .rn)) .col { ts := 2, td := 3, cnt := 0, cen := false })
  ∧ decodeTableWord 96 (0x4CCC4685 + 2 ^ 32 * 0x40C0000D + 2 ^ 64 * 0x00000080) = some (.atoms (g 1) (.or .b32) (.v 49) (some (.v 51)) (some 128) (.v 53))
  ∧ decodeTableWord 64 0x31400428 = some (.nap (g 1) 5) ∧ decodeTableWord 96 (0x00002435 + 2 ^ 32 * 0x04000000 + 2 ^ 64 * 3) = some (.perfImm { neg := true, p := 1 } 3)

/-- For every well-formed instruction of a program, with every operand at every value its encoding admits, decoding
its encoding gives the instruction back, as a number and as bytes in memory; the fields of a word and the word
determine each other. Every well-formed instruction of a program has an encoding. -/
def Obligations.RoundTrip : Prop :=
  (∀ f : Fields, f.inRange = true → Fields.unpack f.pack = f)
  ∧ (∀ w : Nat, w < 2 ^ (32 + 32 * (w % 4 + 1)) → w % 4 < 3 → (Fields.unpack w).pack = w ∧ (Fields.unpack w).inRange = true)
  ∧ ∀ (i : Instr), i.wellFormed = true →
    (∃ w, encode i = some w ∧ w < 2 ^ (8 * i.bytes))
    ∧ (∀ n w, encode i = some w → decodeTableWord n w = some i)
    ∧ ∀ bs, encodeBytes i = some bs → decodeBytes bs = .ok i ∧ bs.length = i.bytes

/-- In every state whose memory lists places strictly rising and none that reads as an unlisted one, a step that
answers a next state leaves memory in that form. -/
def Obligations.MemoryForm : Prop :=
  ∀ s t : State, s.memWf → step s = .next t → t.memWf

/-- R31, R43, R457. That memory reads zero where nothing is listed is log entry 1, that no table lists anything at
reset log entry 12, and that time begins at 0 log entry 9, each the model's choice. -/
def Obligations.StartStates : Prop :=
  (let s := State.reset;
    s.memWf ∧ s.mem = [] ∧ s.ctxs = [] ∧ s.sheets = [] ∧ s.launches = [] ∧ s.clusters = [] ∧ s.dies = [] ∧ s.parts = [] ∧ s.keys = []
      ∧ s.steward.up = false ∧ s.steward.pen = none ∧ s.issue = none ∧ s.now = 0
      ∧ s.copies = [] ∧ s.writes = [] ∧ s.due = [] ∧ s.images = [] ∧ s.incarnations = [] ∧ s.raisedAt = none)
  ∧ ∀ (l : Launch) (launch index k : Nat) (c : Cluster) (d : Die) (ceil tag now : Nat),
    let h := freshSheet l launch index k c d ceil tag now
    (∀ n q, tabGet n h.gangs = some q → q.atS = false ∧ (∀ r x, q.regs.vec r x = 0) ∧ (∀ r, q.regs.uni r = 0) ∧ (∀ r, q.regs.tile r = 0)
      ∧ (∀ p : Fin 8, p.val < 7 → q.regs.pred p = 0) ∧ (∀ x, q.regs.predAt 7 x = decide (x < 64)) ∧ (∀ r, q.regs.rejoin r = 0) ∧ (∀ a e, q.regs.acc a e = 0)
      ∧ ∀ x t, tabGet x q.threads = some t → t.st = .running ∧ t.stack = [] ∧ t.pc = BitVec.ofNat 32 l.entry ∧ t.clock = l.startClock)
    ∧ (∀ n, (h.line n).present = true ∧ (h.line n).eng = false ∧ h.lineTime n = 0) ∧ (∀ a, h.spadByte a = 0)
    ∧ (h.bar 0).valid = true ∧ (h.bar 0).nt = h.T ∧ (∀ b, b ≠ 0 → (h.bar b).valid = false) ∧ (∀ q, (h.queue q).st = .uninit)
    ∧ (∀ n, ((tabGet n h.counters).getD {}).count = 0) ∧ h.mseq.st = .idle ∧ h.cseq.st = .idle ∧ h.preq = min l.dpc ceil
end

