-- ==== Sys2Proof/Laws/Dispatch.lean ====
section
/-! SUPPORT. Which meaning each instruction has: one law for each arm. -/

namespace Sys2Proof.Machine

-- One declaration after another: a thread for each would take more memory than the package may.
set_option Elab.async false

@[simp] theorem exec_nop (g : Guard) (s : State) : exec (.nop g) s = execNop g s := rfl
@[simp] theorem exec_bra (g : Guard) (disp : Word) (s : State) : exec (.bra g disp) s = execBra g disp s := rfl
@[simp] theorem exec_brx (g : Guard) (a : Reg) (s : State) : exec (.brx g a) s = execBrx g a s := rfl
@[simp] theorem exec_call (g : Guard) (d : Fin 192) (disp : Word) (s : State) :
    exec (.call g d disp) s = execCall g d disp s := rfl
@[simp] theorem exec_callx (g : Guard) (d : Fin 192) (a : Reg) (s : State) :
    exec (.callx g d a) s = execCallx g d a s := rfl
@[simp] theorem exec_ret (g : Guard) (a : Reg) (s : State) : exec (.ret g a) s = execRet g a s := rfl
@[simp] theorem exec_exit (g : Guard) (s : State) : exec (.exit g) s = execExit g s := rfl
@[simp] theorem exec_meet (g : Guard) (k : Fin 8) (disp : Word) (s : State) :
    exec (.meet g k disp) s = execMeet g k disp s := rfl
@[simp] theorem exec_mleave (g : Guard) (k : Fin 8) (s : State) : exec (.mleave g k) s = execMleave g k s := rfl
@[simp] theorem exec_yield (g : Guard) (s : State) : exec (.yield g) s = execYield g s := rfl
@[simp] theorem exec_nap (g : Guard) (a : Fin 64) (s : State) : exec (.nap g a) s = execNap g a s := rfl
@[simp] theorem exec_napImm (g : Guard) (n : Word) (s : State) : exec (.napImm g n) s = execNapImm g n s := rfl
@[simp] theorem exec_napEnd (sheet : Nat) (gang : Nat) (s : State) :
    exec (.napEnd sheet gang) s = execNapEnd sheet gang s := rfl
@[simp] theorem exec_trap (g : Guard) (s : State) : exec (.trap g) s = execTrap g s := rfl
@[simp] theorem exec_trapImm (g : Guard) (code : Word) (s : State) : exec (.trapImm g code) s = execTrapImm g code s := rfl
@[simp] theorem exec_bkpt (g : Guard) (s : State) : exec (.bkpt g) s = execBkpt g s := rfl
@[simp] theorem exec_perf (g : Guard) (a : Fin 64) (s : State) : exec (.perf g a) s = execPerf g a s := rfl
@[simp] theorem exec_perfImm (g : Guard) (n : Word) (s : State) : exec (.perfImm g n) s = execPerfImm g n s := rfl
@[simp] theorem exec_iadd (g : Guard) (ty : AddTy) (sat : Bool) (d : Reg) (a : Operand) (b : Operand) (s : State) :
    exec (.iadd g ty sat d a b) s = execIadd g ty sat d a b s := rfl
@[simp] theorem exec_isub (g : Guard) (ty : AddTy) (sat : Bool) (d : Reg) (a : Operand) (b : Operand) (s : State) :
    exec (.isub g ty sat d a b) s = execIsub g ty sat d a b s := rfl
@[simp] theorem exec_iadd3 (g : Guard) (ty : IntTy) (d : Reg) (a : Operand) (b : Operand) (c : Operand) (s : State) :
    exec (.iadd3 g ty d a b c) s = execIadd3 g ty d a b c s := rfl
@[simp] theorem exec_imul (g : Guard) (ty : IntTy) (d : Reg) (a : Operand) (b : Operand) (s : State) :
    exec (.imul g ty d a b) s = execImul g ty d a b s := rfl
@[simp] theorem exec_imulh (g : Guard) (ty : IntTy) (d : Reg) (a : Operand) (b : Operand) (s : State) :
    exec (.imulh g ty d a b) s = execImulh g ty d a b s := rfl
@[simp] theorem exec_imad (g : Guard) (ty : IntTy) (d : Reg) (a : Operand) (b : Operand) (c : Operand) (s : State) :
    exec (.imad g ty d a b c) s = execImad g ty d a b c s := rfl
@[simp] theorem exec_imadw (g : Guard) (ty : IntTy) (d : Reg) (a : Operand) (b : Operand) (c : Operand) (s : State) :
    exec (.imadw g ty d a b c) s = execImadw g ty d a b c s := rfl
@[simp] theorem exec_idiv (g : Guard) (ty : IntTy) (d : Reg) (a : Operand) (b : Operand) (s : State) :
    exec (.idiv g ty d a b) s = execIdiv g ty d a b s := rfl
@[simp] theorem exec_irem (g : Guard) (ty : IntTy) (d : Reg) (a : Operand) (b : Operand) (s : State) :
    exec (.irem g ty d a b) s = execIrem g ty d a b s := rfl
@[simp] theorem exec_imin (g : Guard) (ty : IntTy) (d : Reg) (a : Operand) (b : Operand) (s : State) :
    exec (.imin g ty d a b) s = execImin g ty d a b s := rfl
@[simp] theorem exec_imax (g : Guard) (ty : IntTy) (d : Reg) (a : Operand) (b : Operand) (s : State) :
    exec (.imax g ty d a b) s = execImax g ty d a b s := rfl
@[simp] theorem exec_iabs (g : Guard) (sat : Bool) (d : Reg) (a : Operand) (s : State) :
    exec (.iabs g sat d a) s = execIabs g sat d a s := rfl
@[simp] theorem exec_ineg (g : Guard) (sat : Bool) (d : Reg) (a : Operand) (s : State) :
    exec (.ineg g sat d a) s = execIneg g sat d a s := rfl
@[simp] theorem exec_clamp (g : Guard) (ty : IntTy) (d : Reg) (a : Operand) (b : Operand) (c : Operand) (s : State) :
    exec (.clamp g ty d a b c) s = execClamp g ty d a b c s := rfl
@[simp] theorem exec_and (g : Guard) (ty : BitTy) (d : Reg) (a : Operand) (b : Operand) (s : State) :
    exec (.and g ty d a b) s = execAnd g ty d a b s := rfl
@[simp] theorem exec_or (g : Guard) (ty : BitTy) (d : Reg) (a : Operand) (b : Operand) (s : State) :
    exec (.or g ty d a b) s = execOr g ty d a b s := rfl
@[simp] theorem exec_xor (g : Guard) (ty : BitTy) (d : Reg) (a : Operand) (b : Operand) (s : State) :
    exec (.xor g ty d a b) s = execXor g ty d a b s := rfl
@[simp] theorem exec_andn (g : Guard) (ty : BitTy) (d : Reg) (a : Operand) (b : Operand) (s : State) :
    exec (.andn g ty d a b) s = execAndn g ty d a b s := rfl
@[simp] theorem exec_orn (g : Guard) (ty : BitTy) (d : Reg) (a : Operand) (b : Operand) (s : State) :
    exec (.orn g ty d a b) s = execOrn g ty d a b s := rfl
@[simp] theorem exec_shl (g : Guard) (ty : BitTy) (d : Reg) (a : Operand) (b : Operand) (s : State) :
    exec (.shl g ty d a b) s = execShl g ty d a b s := rfl
@[simp] theorem exec_shr (g : Guard) (ty : BitTy) (d : Reg) (a : Operand) (b : Operand) (s : State) :
    exec (.shr g ty d a b) s = execShr g ty d a b s := rfl
@[simp] theorem exec_sar (g : Guard) (ty : BitTy) (d : Reg) (a : Operand) (b : Operand) (s : State) :
    exec (.sar g ty d a b) s = execSar g ty d a b s := rfl
@[simp] theorem exec_rot (g : Guard) (ty : BitTy) (d : Reg) (a : Operand) (b : Operand) (s : State) :
    exec (.rot g ty d a b) s = execRot g ty d a b s := rfl
@[simp] theorem exec_fsh (g : Guard) (left : Bool) (d : Reg) (a : Operand) (b : Operand) (c : Operand) (s : State) :
    exec (.fsh g left d a b c) s = execFsh g left d a b c s := rfl
@[simp] theorem exec_bfx (g : Guard) (ty : IntTy) (d : Reg) (a : Operand) (b : Operand) (s : State) :
    exec (.bfx g ty d a b) s = execBfx g ty d a b s := rfl
@[simp] theorem exec_bfi (g : Guard) (d : Reg) (a : Operand) (b : Operand) (c : Operand) (s : State) :
    exec (.bfi g d a b c) s = execBfi g d a b c s := rfl
@[simp] theorem exec_popc (g : Guard) (d : Reg) (a : Operand) (s : State) : exec (.popc g d a) s = execPopc g d a s := rfl
@[simp] theorem exec_clz (g : Guard) (d : Reg) (a : Operand) (s : State) : exec (.clz g d a) s = execClz g d a s := rfl
@[simp] theorem exec_ctz (g : Guard) (d : Reg) (a : Operand) (s : State) : exec (.ctz g d a) s = execCtz g d a s := rfl
@[simp] theorem exec_brev (g : Guard) (d : Reg) (a : Operand) (s : State) : exec (.brev g d a) s = execBrev g d a s := rfl
@[simp] theorem exec_bytesel (g : Guard) (d : Reg) (a : Operand) (b : Operand) (c : Operand) (s : State) :
    exec (.bytesel g d a b c) s = execBytesel g d a b c s := rfl
@[simp] theorem exec_lea (g : Guard) (scale : Fin 8) (sx : Bool) (d : Reg) (a : Operand) (b : Operand) (s : State) :
    exec (.lea g scale sx d a b) s = execLea g scale sx d a b s := rfl
@[simp] theorem exec_icmp (g : Guard) (ty : IntTy) (cmp : ICmp) (comb : Combine) (pd : Fin 8) (a : Operand) (b : Operand) (s : State) :
    exec (.icmp g ty cmp comb pd a b) s = execIcmp g ty cmp comb pd a b s := rfl
@[simp] theorem exec_sel (g : Guard) (ty : BitTy) (p : Fin 8) (neg : Bool) (d : Fin 192) (a : Operand) (b : Operand) (s : State) :
    exec (.sel g ty p neg d a b) s = execSel g ty p neg d a b s := rfl
@[simp] theorem exec_pcomb (g : Guard) (pd : Fin 8) (pa : Fin 8) (pb : Fin 8) (pc : Fin 8) (tt : Byte) (s : State) :
    exec (.pcomb g pd pa pb pc tt) s = execPcomb g pd pa pb pc tt s := rfl
@[simp] theorem exec_psetm (g : Guard) (pd : Fin 8) (a : Fin 64) (s : State) :
    exec (.psetm g pd a) s = execPsetm g pd a s := rfl
@[simp] theorem exec_psetmMask (g : Guard) (pd : Fin 8) (k : Fin 8) (s : State) :
    exec (.psetmMask g pd k) s = execPsetmMask g pd k s := rfl
@[simp] theorem exec_pmovToReg (g : Guard) (p : Fin 8) (d : Fin 192) (s : State) :
    exec (.pmovToReg g p d) s = execPmovToReg g p d s := rfl
@[simp] theorem exec_pmovToPred (g : Guard) (pd : Fin 8) (a : Reg) (s : State) :
    exec (.pmovToPred g pd a) s = execPmovToPred g pd a s := rfl
@[simp] theorem exec_pmovFromMask (g : Guard) (k : Fin 8) (d : Fin 64) (s : State) :
    exec (.pmovFromMask g k d) s = execPmovFromMask g k d s := rfl
@[simp] theorem exec_mov (g : Guard) (ty : BitTy) (d : Reg) (a : Operand) (s : State) :
    exec (.mov g ty d a) s = execMov g ty d a s := rfl
@[simp] theorem exec_movi (g : Guard) (ty : BitTy) (d : Reg) (a : Operand) (s : State) :
    exec (.movi g ty d a) s = execMovi g ty d a s := rfl
@[simp] theorem exec_movs (g : Guard) (num : Fin 15) (d : Reg) (s : State) :
    exec (.movs g num d) s = execMovs g num d s := rfl
@[simp] theorem exec_fadd (g : Guard) (r : Rnd) (d : Reg) (a : Operand) (b : Operand) (s : State) :
    exec (.fadd g r d a b) s = execFadd g r d a b s := rfl
@[simp] theorem exec_fsub (g : Guard) (r : Rnd) (d : Reg) (a : Operand) (b : Operand) (s : State) :
    exec (.fsub g r d a b) s = execFsub g r d a b s := rfl
@[simp] theorem exec_fmul (g : Guard) (r : Rnd) (d : Reg) (a : Operand) (b : Operand) (s : State) :
    exec (.fmul g r d a b) s = execFmul g r d a b s := rfl
@[simp] theorem exec_ffma (g : Guard) (r : Rnd) (d : Reg) (a : Operand) (b : Operand) (c : Operand) (s : State) :
    exec (.ffma g r d a b c) s = execFfma g r d a b c s := rfl
@[simp] theorem exec_fmin (g : Guard) (d : Reg) (a : Operand) (b : Operand) (s : State) :
    exec (.fmin g d a b) s = execFmin g d a b s := rfl
@[simp] theorem exec_fmax (g : Guard) (d : Reg) (a : Operand) (b : Operand) (s : State) :
    exec (.fmax g d a b) s = execFmax g d a b s := rfl
@[simp] theorem exec_frnd (g : Guard) (r : Rnd) (d : Reg) (a : Operand) (s : State) :
    exec (.frnd g r d a) s = execFrnd g r d a s := rfl
@[simp] theorem exec_fscale (g : Guard) (r : Rnd) (d : Reg) (a : Operand) (b : Operand) (s : State) :
    exec (.fscale g r d a b) s = execFscale g r d a b s := rfl
@[simp] theorem exec_ffract (g : Guard) (d : Reg) (a : Operand) (s : State) :
    exec (.ffract g d a) s = execFfract g d a s := rfl
@[simp] theorem exec_frcp (g : Guard) (r : Rnd) (d : Reg) (a : Operand) (s : State) :
    exec (.frcp g r d a) s = execFrcp g r d a s := rfl
@[simp] theorem exec_frsq (g : Guard) (d : Reg) (a : Operand) (s : State) : exec (.frsq g d a) s = execFrsq g d a s := rfl
@[simp] theorem exec_fsqrt (g : Guard) (r : Rnd) (d : Reg) (a : Operand) (s : State) :
    exec (.fsqrt g r d a) s = execFsqrt g r d a s := rfl
@[simp] theorem exec_fdiv (g : Guard) (r : Rnd) (d : Reg) (a : Operand) (b : Operand) (s : State) :
    exec (.fdiv g r d a b) s = execFdiv g r d a b s := rfl
@[simp] theorem exec_fexp2 (g : Guard) (d : Reg) (a : Operand) (s : State) :
    exec (.fexp2 g d a) s = execFexp2 g d a s := rfl
@[simp] theorem exec_flog2 (g : Guard) (d : Reg) (a : Operand) (s : State) :
    exec (.flog2 g d a) s = execFlog2 g d a s := rfl
@[simp] theorem exec_fsin (g : Guard) (d : Reg) (a : Operand) (s : State) : exec (.fsin g d a) s = execFsin g d a s := rfl
@[simp] theorem exec_fcos (g : Guard) (d : Reg) (a : Operand) (s : State) : exec (.fcos g d a) s = execFcos g d a s := rfl
@[simp] theorem exec_fcmp (g : Guard) (cmp : FCmp) (comb : Combine) (pd : Fin 8) (a : Operand) (b : Operand) (s : State) :
    exec (.fcmp g cmp comb pd a b) s = execFcmp g cmp comb pd a b s := rfl
@[simp] theorem exec_fclass (g : Guard) (ty : FloatTy) (hi : Bool) (d : Reg) (a : Operand) (s : State) :
    exec (.fclass g ty hi d a) s = execFclass g ty hi d a s := rfl
@[simp] theorem exec_hadd2 (g : Guard) (ty : HalfTy) (r : Rnd) (d : Reg) (a : Operand) (b : Operand) (s : State) :
    exec (.hadd2 g ty r d a b) s = execHadd2 g ty r d a b s := rfl
@[simp] theorem exec_hmul2 (g : Guard) (ty : HalfTy) (r : Rnd) (d : Reg) (a : Operand) (b : Operand) (s : State) :
    exec (.hmul2 g ty r d a b) s = execHmul2 g ty r d a b s := rfl
@[simp] theorem exec_hfma2 (g : Guard) (ty : HalfTy) (r : Rnd) (d : Reg) (a : Operand) (b : Operand) (c : Operand) (s : State) :
    exec (.hfma2 g ty r d a b c) s = execHfma2 g ty r d a b c s := rfl
@[simp] theorem exec_hmin2 (g : Guard) (ty : HalfTy) (d : Reg) (a : Operand) (b : Operand) (s : State) :
    exec (.hmin2 g ty d a b) s = execHmin2 g ty d a b s := rfl
@[simp] theorem exec_hmax2 (g : Guard) (ty : HalfTy) (d : Reg) (a : Operand) (b : Operand) (s : State) :
    exec (.hmax2 g ty d a b) s = execHmax2 g ty d a b s := rfl
@[simp] theorem exec_fdot2 (g : Guard) (ty : HalfTy) (r : Rnd) (d : Reg) (a : Operand) (b : Operand) (c : Operand) (s : State) :
    exec (.fdot2 g ty r d a b c) s = execFdot2 g ty r d a b c s := rfl
@[simp] theorem exec_cvtfi (g : Guard) (ty : IntTy) (wide : Bool) (src : CvtSrc) (r : Rnd) (d : Reg) (a : Operand) (s : State) :
    exec (.cvtfi g ty wide src r d a) s = execCvtfi g ty wide src r d a s := rfl
@[simp] theorem exec_cvtif (g : Guard) (ty : FloatTy) (src : CvtInt) (r : Rnd) (d : Reg) (a : Operand) (s : State) :
    exec (.cvtif g ty src r d a) s = execCvtif g ty src r d a s := rfl
@[simp] theorem exec_cvtff (g : Guard) (dst : CvtDst) (src : CvtSrc) (r : Rnd) (d : Reg) (a : Operand) (pk : Option Operand) (s : State) :
    exec (.cvtff g dst src r d a pk) s = execCvtff g dst src r d a pk s := rfl
@[simp] theorem exec_iwiden (g : Guard) (ty : NarrowTy) (d : Reg) (a : Operand) (s : State) :
    exec (.iwiden g ty d a) s = execIwiden g ty d a s := rfl
@[simp] theorem exec_inarrow (g : Guard) (ty : NarrowTy) (sat : Bool) (d : Reg) (a : Operand) (b : Option Operand) (s : State) :
    exec (.inarrow g ty sat d a b) s = execInarrow g ty sat d a b s := rfl
@[simp] theorem exec_nfpack (g : Guard) (k : Fin 8) (d : Reg) (a : Operand) (b : Operand) (c : Operand) (s : State) :
    exec (.nfpack g k d a b c) s = execNfpack g k d a b c s := rfl
@[simp] theorem exec_nfunp (g : Guard) (k : Fin 8) (d : Reg) (a : Operand) (b : Operand) (c : Operand) (s : State) :
    exec (.nfunp g k d a b c) s = execNfunp g k d a b c s := rfl
@[simp] theorem exec_scaleblk (g : Guard) (d : Reg) (a : Operand) (b : Operand) (c : Operand) (s : State) :
    exec (.scaleblk g d a b c) s = execScaleblk g d a b c s := rfl
@[simp] theorem exec_rbox (g : Guard) (pd : Fin 8) (d : Fin 192) (a : Reg) (b : Reg) (s : State) :
    exec (.rbox g pd d a b) s = execRbox g pd d a b s := rfl
@[simp] theorem exec_rtri (g : Guard) (pd : Fin 8) (cull : Fin 3) (d : Fin 192) (a : Reg) (b : Reg) (s : State) :
    exec (.rtri g pd cull d a b) s = execRtri g pd cull d a b s := rfl
@[simp] theorem exec_shfl (g : Guard) (ty : BitTy) (mode : Option (ShflMode × Operand)) (d : Fin 192) (a : Reg) (s : State) :
    exec (.shfl g ty mode d a) s = execShfl g ty mode d a s := rfl
@[simp] theorem exec_vote (g : Guard) (mode : VoteMode) (pd : Fin 8) (pa : Fin 8) (neg : Bool) (s : State) :
    exec (.vote g mode pd pa neg) s = execVote g mode pd pa neg s := rfl
@[simp] theorem exec_ballot (g : Guard) (d : Fin 192) (pa : Fin 8) (neg : Bool) (s : State) :
    exec (.ballot g d pa neg) s = execBallot g d pa neg s := rfl
@[simp] theorem exec_match_ (g : Guard) (ty : BitTy) (alleq : Option (Fin 8)) (d : Fin 192) (a : Reg) (s : State) :
    exec (.match_ g ty alleq d a) s = execMatch g ty alleq d a s := rfl
@[simp] theorem exec_gred (g : Guard) (op : FoldOp) (d : Reg) (a : Reg) (s : State) :
    exec (.gred g op d a) s = execGred g op d a s := rfl
@[simp] theorem exec_gscan (g : Guard) (op : FoldOp) (excl : Bool) (d : Fin 192) (a : Reg) (s : State) :
    exec (.gscan g op excl d a) s = execGscan g op excl d a s := rfl
@[simp] theorem exec_ld (g : Guard) (ty : LoadTy) (d : Reg) (a : Reg) (off : Option Word) (s : State) :
    exec (.ld g ty d a off) s = execLd g ty d a off s := rfl
@[simp] theorem exec_st (g : Guard) (ty : MemTy) (a : Reg) (off : Option Word) (b : Reg) (s : State) :
    exec (.st g ty a off b) s = execSt g ty a off b s := rfl
@[simp] theorem exec_writeAtHome (id : Nat) (s : State) : exec (.writeAtHome id) s = execWriteAtHome id s := rfl
@[simp] theorem exec_stF (g : Guard) (ty : MemTy) (a : Reg) (off : Option Word) (b : Reg) (c : Reg) (s : State) :
    exec (.stF g ty a off b c) s = execStF g ty a off b c s := rfl
@[simp] theorem exec_lds (g : Guard) (ty : LoadTy) (d : Reg) (a : Option Reg) (off : Option Word) (s : State) :
    exec (.lds g ty d a off) s = execLds g ty d a off s := rfl
@[simp] theorem exec_sts (g : Guard) (ty : MemTy) (a : Option Reg) (off : Option Word) (b : Reg) (s : State) :
    exec (.sts g ty a off b) s = execSts g ty a off b s := rfl
@[simp] theorem exec_ldc (g : Guard) (ty : LoadTy) (d : Reg) (a : Option Reg) (off : Option Word) (s : State) :
    exec (.ldc g ty d a off) s = execLdc g ty d a off s := rfl
@[simp] theorem exec_ldq (g : Guard) (ty : TexTy) (mode : TexMode) (d : Fin 192) (a : Reg) (b : Reg) (c : Reg) (s : State) :
    exec (.ldq g ty mode d a b c) s = execLdq g ty mode d a b c s := rfl
@[simp] theorem exec_pref (g : Guard) (l2 : Bool) (a : Reg) (off : Option Word) (s : State) :
    exec (.pref g l2 a off) s = execPref g l2 a off s := rfl
@[simp] theorem exec_sptest (g : Guard) (pd : Fin 8) (a : Option Reg) (off : Option Word) (s : State) :
    exec (.sptest g pd a off) s = execSptest g pd a off s := rfl
@[simp] theorem exec_atom (g : Guard) (op : AtomOp) (d : Reg) (a : Reg) (off : Option Word) (b : Reg) (s : State) :
    exec (.atom g op d a off b) s = execAtom g op d a off b s := rfl
@[simp] theorem exec_atoms (g : Guard) (op : AtomOp) (d : Reg) (a : Option Reg) (off : Option Word) (b : Reg) (s : State) :
    exec (.atoms g op d a off b) s = execAtoms g op d a off b s := rfl
@[simp] theorem exec_cas (g : Guard) (ty : BitTy) (d : Reg) (a : Reg) (off : Option Word) (b : Reg) (c : Reg) (s : State) :
    exec (.cas g ty d a off b c) s = execCas g ty d a off b c s := rfl
@[simp] theorem exec_red (g : Guard) (op : AtomOp) (a : Reg) (off : Option Word) (b : Reg) (s : State) :
    exec (.red g op a off b) s = execRed g op a off b s := rfl
@[simp] theorem exec_atagg (g : Guard) (op : AggOp) (d : Reg) (a : Fin 64) (off : Option Word) (b : Reg) (s : State) :
    exec (.atagg g op d a off b) s = execAtagg g op d a off b s := rfl
@[simp] theorem exec_fenceG (g : Guard) (s : State) : exec (.fenceG g) s = execFenceG g s := rfl
@[simp] theorem exec_fenceS (g : Guard) (s : State) : exec (.fenceS g) s = execFenceS g s := rfl
@[simp] theorem exec_fenceC (g : Guard) (k : Fin 8) (d : Reg) (s : State) :
    exec (.fenceC g k d) s = execFenceC g k d s := rfl
@[simp] theorem exec_bar (g : Guard) (b : Fin 16) (pd : Fin 8) (s : State) : exec (.bar g b pd) s = execBar g b pd s := rfl
@[simp] theorem exec_barArrive (g : Guard) (b : Fin 16) (s : State) : exec (.barArrive g b) s = execBarArrive g b s := rfl
@[simp] theorem exec_barrierWaveRelease (sheet : Nat) (gang : Nat) (s : State) :
    exec (.barrierWaveRelease sheet gang) s = execBarrierWaveRelease sheet gang s := rfl
@[simp] theorem exec_barinit (g : Guard) (b : Fin 16) (ext : Bool) (counts : BarCounts) (s : State) :
    exec (.barinit g b ext counts) s = execBarinit g b ext counts s := rfl
@[simp] theorem exec_barinv (g : Guard) (b : Fin 16) (s : State) : exec (.barinv g b) s = execBarinv g b s := rfl
@[simp] theorem exec_qinit (g : Guard) (q : Fin 16) (a : UOperand) (s : State) :
    exec (.qinit g q a) s = execQinit g q a s := rfl
@[simp] theorem exec_qpush (g : Guard) (q : Fin 16) (a : UOperand) (s : State) :
    exec (.qpush g q a) s = execQpush g q a s := rfl
@[simp] theorem exec_qpop (g : Guard) (q : Fin 16) (pd : Fin 8) (d : Fin 64) (s : State) :
    exec (.qpop g q pd d) s = execQpop g q pd d s := rfl
@[simp] theorem exec_qtry (g : Guard) (q : Fin 16) (pd : Fin 8) (d : Fin 64) (s : State) :
    exec (.qtry g q pd d) s = execQtry g q pd d s := rfl
@[simp] theorem exec_qclose (g : Guard) (q : Fin 16) (s : State) : exec (.qclose g q) s = execQclose g q s := rfl
@[simp] theorem exec_fopen (g : Guard) (d : Fin 64) (a : UOperand) (s : State) :
    exec (.fopen g d a) s = execFopen g d a s := rfl
@[simp] theorem exec_fclose (g : Guard) (a : Fin 64) (s : State) : exec (.fclose g a) s = execFclose g a s := rfl
@[simp] theorem exec_folioClose (ctx : Nat) (slot : Nat) (s : State) :
    exec (.folioClose ctx slot) s = execFolioClose ctx slot s := rfl
@[simp] theorem exec_launch (g : Guard) (d : Fin 64) (a : AddrOperand) (s : State) :
    exec (.launch g d a) s = execLaunch g d a s := rfl
@[simp] theorem exec_mma (g : Guard) (ty : MatTy) (acc : Fin 16) (z : Bool) (a : Fin 192) (b : Fin 192) (c : Option Reg) (s : State) :
    exec (.mma g ty acc z a b c) s = execMma g ty acc z a b c s := rfl
@[simp] theorem exec_accz (g : Guard) (k : Fin 16) (s : State) : exec (.accz g k) s = execAccz g k s := rfl
@[simp] theorem exec_accrdV (g : Guard) (k : Fin 16) (d : Fin 192) (s : State) :
    exec (.accrdV g k d) s = execAccrdV g k d s := rfl
@[simp] theorem exec_accrdSp (g : Guard) (k : Fin 16) (a : Option Reg) (off : Option Word) (s : State) :
    exec (.accrdSp g k a off) s = execAccrdSp g k a off s := rfl
@[simp] theorem exec_accrdT (g : Guard) (t : Fin 8) (d : Fin 64) (s : State) :
    exec (.accrdT g t d) s = execAccrdT g t d s := rfl
@[simp] theorem exec_accwrV (g : Guard) (k : Fin 16) (a : Fin 192) (s : State) :
    exec (.accwrV g k a) s = execAccwrV g k a s := rfl
@[simp] theorem exec_accwrSp (g : Guard) (k : Fin 16) (a : Option Reg) (off : Option Word) (s : State) :
    exec (.accwrSp g k a off) s = execAccwrSp g k a off s := rfl
@[simp] theorem exec_accwrT (g : Guard) (t : Fin 8) (a : Fin 64) (s : State) :
    exec (.accwrT g t a) s = execAccwrT g t a s := rfl
@[simp] theorem exec_forkM (g : Guard) (disp : Word) (s : State) : exec (.forkM g disp) s = execForkM g disp s := rfl
@[simp] theorem exec_forkC (g : Guard) (disp : Word) (s : State) : exec (.forkC g disp) s = execForkC g disp s := rfl
@[simp] theorem exec_rdvThread (g : Guard) (which : SeqKind) (d : Fin 64) (s : State) :
    exec (.rdvThread g which d) s = execRdvThread g which d s := rfl
@[simp] theorem exec_rdvSequencer (g : Guard) (s : State) : exec (.rdvSequencer g) s = execRdvSequencer g s := rfl
@[simp] theorem exec_mmat (g : Guard) (ty : MatTy) (acc : Fin 16) (z : Bool) (ta : Fin 8) (tb : Fin 8) (oa : Option (Fin 64)) (ob : Option (Fin 64)) (s : State) :
    exec (.mmat g ty acc z ta tb oa ob) s = execMmat g ty acc z ta tb oa ob s := rfl
@[simp] theorem exec_mvsScale (g : Guard) (c : Fin 16) (p : Fin 16) (ta : Fin 8) (tb : Fin 8) (ofs : Option (Fin 64)) (s : State) :
    exec (.mvsScale g c p ta tb ofs) s = execMvsScale g c p ta tb ofs s := rfl
@[simp] theorem exec_mvsSt (g : Guard) (c : Fin 16) (ta : Fin 8) (ofs : Option (Fin 64)) (s : State) :
    exec (.mvsSt g c ta ofs) s = execMvsSt g c ta ofs s := rfl
@[simp] theorem exec_mvsStbf (g : Guard) (c : Fin 16) (ta : Fin 8) (ofs : Option (Fin 64)) (s : State) :
    exec (.mvsStbf g c ta ofs) s = execMvsStbf g c ta ofs s := rfl
@[simp] theorem exec_mvsLd (g : Guard) (c : Fin 16) (ta : Fin 8) (ofs : Option (Fin 64)) (s : State) :
    exec (.mvsLd g c ta ofs) s = execMvsLd g c ta ofs s := rfl
@[simp] theorem exec_cpl (g : Guard) (dir : CplDir) (size : CplSize) (dst : Reg) (src : Reg) (s : State) :
    exec (.cpl g dir size dst src) s = execCpl g dir size dst src s := rfl
@[simp] theorem exec_cptIn (g : Guard) (rec : Fin 64) (line : Fin 64) (org : Fin 64) (s : State) :
    exec (.cptIn g rec line org) s = execCptIn g rec line org s := rfl
@[simp] theorem exec_cptOut (g : Guard) (rec : Fin 64) (line : Fin 64) (org : Fin 64) (cnt : Fin 8) (s : State) :
    exec (.cptOut g rec line org cnt) s = execCptOut g rec line org cnt s := rfl
@[simp] theorem exec_copyCompletion (id : Nat) (s : State) : exec (.copyCompletion id) s = execCopyCompletion id s := rfl
@[simp] theorem exec_ownEng (g : Guard) (t : Fin 8) (ofs : Option (Fin 64)) (s : State) :
    exec (.ownEng g t ofs) s = execOwnEng g t ofs s := rfl
@[simp] theorem exec_ownThr (g : Guard) (t : Fin 8) (ofs : Option (Fin 64)) (s : State) :
    exec (.ownThr g t ofs) s = execOwnThr g t ofs s := rfl
@[simp] theorem exec_residOpen (g : Guard) (prio : Fin 4) (d : Fin 64) (a : Fin 64) (b : Fin 64) (s : State) :
    exec (.residOpen g prio d a b) s = execResidOpen g prio d a b s := rfl
@[simp] theorem exec_residPrio (g : Guard) (prio : Fin 4) (d : Fin 64) (a : Fin 64) (s : State) :
    exec (.residPrio g prio d a) s = execResidPrio g prio d a s := rfl
@[simp] theorem exec_residClose (g : Guard) (d : Fin 64) (a : Fin 64) (s : State) :
    exec (.residClose g d a) s = execResidClose g d a s := rfl
@[simp] theorem exec_nxch (g : Guard) (dir : Compass) (imm : CollImm) (s : State) :
    exec (.nxch g dir imm) s = execNxch g dir imm s := rfl
@[simp] theorem exec_nred (g : Guard) (op : NredOp) (group : ShardGroup) (imm : CollImm) (s : State) :
    exec (.nred g op group imm) s = execNred g op group imm s := rfl
@[simp] theorem exec_nbc (g : Guard) (group : ShardGroup) (root : Fin 64) (imm : CollImm) (s : State) :
    exec (.nbc g group root imm) s = execNbc g group root imm s := rfl
@[simp] theorem exec_collectiveCompletion (id : Nat) (s : State) :
    exec (.collectiveCompletion id) s = execCollectiveCompletion id s := rfl
@[simp] theorem exec_emit (g : Guard) (slot : Fin 4) (a : Reg) (b : Fin 64) (c : Fin 64) (s : State) :
    exec (.emit g slot a b c) s = execEmit g slot a b c s := rfl
@[simp] theorem exec_emitend (g : Guard) (slot : Fin 4) (a : Fin 64) (s : State) :
    exec (.emitend g slot a) s = execEmitend g slot a s := rfl
@[simp] theorem exec_primitivePacket (id : Nat) (s : State) : exec (.primitivePacket id) s = execPrimitivePacket id s := rfl
@[simp] theorem exec_closeMarker (id : Nat) (s : State) : exec (.closeMarker id) s = execCloseMarker id s := rfl
@[simp] theorem exec_rasteriseGroup (die : Nat) (ctx : Nat) (slot : Nat) (s : State) :
    exec (.rasteriseGroup die ctx slot) s = execRasteriseGroup die ctx slot s := rfl
@[simp] theorem exec_drawAdvance (ctx : Nat) (slot : Nat) (s : State) :
    exec (.drawAdvance ctx slot) s = execDrawAdvance ctx slot s := rfl
@[simp] theorem exec_sysrd (g : Guard) (num : Byte) (wide : Bool) (d : Fin 64) (s : State) :
    exec (.sysrd g num wide d) s = execSysrd g num wide d s := rfl
@[simp] theorem exec_syswr (g : Guard) (num : Byte) (wide : Bool) (a : SysOperand) (s : State) :
    exec (.syswr g num wide a) s = execSyswr g num wide a s := rfl
@[simp] theorem exec_syswrTtb (g : Guard) (a : SysOperand) (s : State) : exec (.syswrTtb g a) s = execSyswrTtb g a s := rfl
@[simp] theorem exec_syswrCeil (g : Guard) (a : SysOperand) (s : State) :
    exec (.syswrCeil g a) s = execSyswrCeil g a s := rfl
@[simp] theorem exec_eret (g : Guard) (s : State) : exec (.eret g) s = execEret g s := rfl
@[simp] theorem exec_tlbinvPage (g : Guard) (a : Fin 64) (s : State) :
    exec (.tlbinvPage g a) s = execTlbinvPage g a s := rfl
@[simp] theorem exec_tlbinvRange (g : Guard) (a : Fin 64) (b : Fin 64) (s : State) :
    exec (.tlbinvRange g a b) s = execTlbinvRange g a b s := rfl
@[simp] theorem exec_tlbinvCtx (g : Guard) (s : State) : exec (.tlbinvCtx g) s = execTlbinvCtx g s := rfl
@[simp] theorem exec_invrep (g : Guard) (a : Fin 64) (s : State) : exec (.invrep g a) s = execInvrep g a s := rfl
@[simp] theorem exec_invrepRange (g : Guard) (a : Fin 64) (b : Fin 64) (s : State) :
    exec (.invrepRange g a b) s = execInvrepRange g a b s := rfl
@[simp] theorem exec_replicaConversion (ctx : Nat) (page : Nat) (s : State) :
    exec (.replicaConversion ctx page) s = execReplicaConversion ctx page s := rfl
@[simp] theorem exec_ctxsaveCopy (g : Guard) (d : Fin 64) (a : Fin 64) (s : State) :
    exec (.ctxsaveCopy g d a) s = execCtxsaveCopy g d a s := rfl
@[simp] theorem exec_ctxsavePark (g : Guard) (d : Fin 64) (a : Fin 64) (s : State) :
    exec (.ctxsavePark g d a) s = execCtxsavePark g d a s := rfl
@[simp] theorem exec_ctxload (g : Guard) (d : Fin 64) (a : Fin 64) (s : State) :
    exec (.ctxload g d a) s = execCtxload g d a s := rfl
@[simp] theorem exec_halt (g : Guard) (a : UOperand) (s : State) : exec (.halt g a) s = execHalt g a s := rfl
@[simp] theorem exec_wdclr (g : Guard) (s : State) : exec (.wdclr g) s = execWdclr g s := rfl
@[simp] theorem exec_stamp (g : Guard) (a : UOperand) (s : State) : exec (.stamp g a) s = execStamp g a s := rfl
@[simp] theorem exec_asyncErrorDelivery (sheet : Nat) (s : State) :
    exec (.asyncErrorDelivery sheet) s = execAsyncErrorDelivery sheet s := rfl
@[simp] theorem exec_deadlockWatchdog (ctx : Nat) (s : State) :
    exec (.deadlockWatchdog ctx) s = execDeadlockWatchdog ctx s := rfl
@[simp] theorem exec_externalWaitTimeout (sheet : Nat) (gang : Nat) (s : State) :
    exec (.externalWaitTimeout sheet gang) s = execExternalWaitTimeout sheet gang s := rfl
@[simp] theorem exec_supervisorWatchdog (sheet : Nat) (gang : Nat) (s : State) :
    exec (.supervisorWatchdog sheet gang) s = execSupervisorWatchdog sheet gang s := rfl
@[simp] theorem exec_weightWindowOpen (cluster : Nat) (s : State) :
    exec (.weightWindowOpen cluster) s = execWeightWindowOpen cluster s := rfl
@[simp] theorem exec_placeSheet (die : Nat) (s : State) : exec (.placeSheet die) s = execPlaceSheet die s := rfl
@[simp] theorem exec_stealRequest (die : Nat) (s : State) : exec (.stealRequest die) s = execStealRequest die s := rfl
@[simp] theorem exec_stealRetry (die : Nat) (s : State) : exec (.stealRetry die) s = execStealRetry die s := rfl
@[simp] theorem exec_restoreListPass (die : Nat) (sheet : Nat) (s : State) :
    exec (.restoreListPass die sheet) s = execRestoreListPass die sheet s := rfl
@[simp] theorem exec_preemptionRequest (die : Nat) (s : State) :
    exec (.preemptionRequest die) s = execPreemptionRequest die s := rfl
@[simp] theorem exec_drainTimeout (sheet : Nat) (s : State) : exec (.drainTimeout sheet) s = execDrainTimeout sheet s := rfl
@[simp] theorem exec_save (sheet : Nat) (s : State) : exec (.save sheet) s = execSave sheet s := rfl
@[simp] theorem exec_flush (sheet : Nat) (s : State) : exec (.flush sheet) s = execFlush sheet s := rfl
@[simp] theorem exec_sheetRetire (sheet : Nat) (s : State) : exec (.sheetRetire sheet) s = execSheetRetire sheet s := rfl
@[simp] theorem exec_launchRetire (launch : Nat) (s : State) :
    exec (.launchRetire launch) s = execLaunchRetire launch s := rfl
@[simp] theorem exec_rollback (sheet : Nat) (gang : Nat) (consumed : Bool) (s : State) :
    exec (.rollback sheet gang consumed) s = execRollback sheet gang consumed s := rfl
@[simp] theorem exec_blotterSweep (bad : LostWords) (s : State) :
    exec (.blotterSweep bad) s = execBlotterSweep bad s := rfl
@[simp] theorem exec_eccReencode (region : EccRegion) (bad : LostWords) (s : State) :
    exec (.eccReencode region bad) s = execEccReencode region bad s := rfl
@[simp] theorem exec_countersignReplay (audit : Nat) (s : State) :
    exec (.countersignReplay audit) s = execCountersignReplay audit s := rfl
@[simp] theorem exec_pageWalk (ctx : Nat) (cluster : Nat) (page : Nat) (s : State) :
    exec (.pageWalk ctx cluster page) s = execPageWalk ctx cluster page s := rfl
@[simp] theorem exec_migrationCutover (id : Nat) (s : State) :
    exec (.migrationCutover id) s = execMigrationCutover id s := rfl
@[simp] theorem exec_boostIntervalBoundary (die : Nat) (s : State) :
    exec (.boostIntervalBoundary die) s = execBoostIntervalBoundary die s := rfl
@[simp] theorem exec_permitRefill (die : Nat) (s : State) : exec (.permitRefill die) s = execPermitRefill die s := rfl
@[simp] theorem exec_retentionEntry (cluster : Nat) (s : State) :
    exec (.retentionEntry cluster) s = execRetentionEntry cluster s := rfl
@[simp] theorem exec_retentionWake (cluster : Nat) (s : State) :
    exec (.retentionWake cluster) s = execRetentionWake cluster s := rfl
@[simp] theorem exec_powerOn (r : PowerOnRecord) (s : State) : exec (.powerOn r) s = execPowerOn r s := rfl
@[simp] theorem exec_claim (h : CmdHdr) (body : List Byte) (s : State) : exec (.claim h body) s = execClaim h body s := rfl
@[simp] theorem exec_heartbeat (h : CmdHdr) (body : List Byte) (s : State) :
    exec (.heartbeat h body) s = execHeartbeat h body s := rfl
@[simp] theorem exec_handover (h : CmdHdr) (body : List Byte) (s : State) :
    exec (.handover h body) s = execHandover h body s := rfl
@[simp] theorem exec_leaseLapse (s : State) : exec (.leaseLapse) s = execLeaseLapse s := rfl
@[simp] theorem exec_status (h : CmdHdr) (body : List Byte) (s : State) :
    exec (.status h body) s = execStatus h body s := rfl
@[simp] theorem exec_attest (h : CmdHdr) (body : List Byte) (s : State) :
    exec (.attest h body) s = execAttest h body s := rfl
@[simp] theorem exec_notices (h : CmdHdr) (body : List Byte) (s : State) :
    exec (.notices h body) s = execNotices h body s := rfl
@[simp] theorem exec_partCreate (h : CmdHdr) (body : List Byte) (s : State) :
    exec (.partCreate h body) s = execPartCreate h body s := rfl
@[simp] theorem exec_partEnd (h : CmdHdr) (body : List Byte) (s : State) :
    exec (.partEnd h body) s = execPartEnd h body s := rfl
@[simp] theorem exec_ctxCreate (h : CmdHdr) (body : List Byte) (s : State) :
    exec (.ctxCreate h body) s = execCtxCreate h body s := rfl
@[simp] theorem exec_ctxEnd (h : CmdHdr) (body : List Byte) (s : State) :
    exec (.ctxEnd h body) s = execCtxEnd h body s := rfl
@[simp] theorem exec_stewardLaunch (h : CmdHdr) (body : List Byte) (s : State) :
    exec (.stewardLaunch h body) s = execStewardLaunch h body s := rfl
@[simp] theorem exec_preempt (h : CmdHdr) (body : List Byte) (s : State) :
    exec (.preempt h body) s = execPreempt h body s := rfl
@[simp] theorem exec_keyLoad (h : CmdHdr) (body : List Byte) (s : State) :
    exec (.keyLoad h body) s = execKeyLoad h body s := rfl
@[simp] theorem exec_keyClear (h : CmdHdr) (body : List Byte) (s : State) :
    exec (.keyClear h body) s = execKeyClear h body s := rfl
@[simp] theorem exec_keyGrant (h : CmdHdr) (body : List Byte) (s : State) :
    exec (.keyGrant h body) s = execKeyGrant h body s := rfl
@[simp] theorem exec_replicate (h : CmdHdr) (body : List Byte) (s : State) :
    exec (.replicate h body) s = execReplicate h body s := rfl
@[simp] theorem exec_migrate (h : CmdHdr) (body : List Byte) (s : State) :
    exec (.migrate h body) s = execMigrate h body s := rfl
@[simp] theorem exec_region (h : CmdHdr) (body : List Byte) (s : State) :
    exec (.region h body) s = execRegion h body s := rfl
@[simp] theorem exec_clset (h : CmdHdr) (body : List Byte) (s : State) : exec (.clset h body) s = execClset h body s := rfl
@[simp] theorem exec_checkpoint (h : CmdHdr) (body : List Byte) (s : State) :
    exec (.checkpoint h body) s = execCheckpoint h body s := rfl
@[simp] theorem exec_restore (h : CmdHdr) (body : List Byte) (s : State) :
    exec (.restore h body) s = execRestore h body s := rfl
@[simp] theorem exec_reset (h : CmdHdr) (body : List Byte) (s : State) : exec (.reset h body) s = execReset h body s := rfl
@[simp] theorem exec_rdmaWrite (rkey : Nat) (va : Nat) (data : List Byte) (s : State) :
    exec (.rdmaWrite rkey va data) s = execRdmaWrite rkey va data s := rfl
@[simp] theorem exec_rdmaRead (rkey : Nat) (va : Nat) (len : Nat) (s : State) :
    exec (.rdmaRead rkey va len) s = execRdmaRead rkey va len s := rfl
@[simp] theorem exec_linkUnreachable (device : Nat) (s : State) :
    exec (.linkUnreachable device) s = execLinkUnreachable device s := rfl
@[simp] theorem exec_reAdmission (who : Readmitted) (s : State) : exec (.reAdmission who) s = execReAdmission who s := rfl
@[simp] theorem exec_checkpointComplete (id : Nat) (s : State) :
    exec (.checkpointComplete id) s = execCheckpointComplete id s := rfl

end Sys2Proof.Machine
end

