-- ==== Sys2Proof/Laws/Table.lean ====
section
/-! SUPPORT. Laws of the tables and stores: what a place reads as after a write, and the canonical form. -/

namespace Sys2Proof.Machine

-- One declaration after another: a thread for each would take more memory than the package may.
set_option Elab.async false

/-! ### Tables -/

@[simp] theorem tabGet_tabPut_same {α : Type} (k : Nat) (v : α) (l : List (Nat × α)) : tabGet k (tabPut k v l) = some v := by
  induction l with
  | nil => simp [tabPut, tabGet]
  | cons p r ih =>
    obtain ⟨j, w⟩ := p
    simp only [tabPut]
    split
    · simp [tabGet]
    · split
      · simp [tabGet]
      · simp [tabGet, ih, *]

theorem tabGet_tabPut_ne {α : Type} {k q : Nat} (h : q ≠ k) (v : α) (l : List (Nat × α)) :
    tabGet q (tabPut k v l) = tabGet q l := by
  induction l with
  | nil => simp [tabPut, tabGet, Ne.symm h]
  | cons p r ih =>
    obtain ⟨j, w⟩ := p
    simp only [tabPut]
    split
    · next e => subst e; simp [tabGet, Ne.symm h]
    · split
      · simp [tabGet, Ne.symm h]
      · simp [tabGet, ih]

theorem tabGet_tabPut {α : Type} (k q : Nat) (v : α) (l : List (Nat × α)) :
    tabGet q (tabPut k v l) = if q = k then some v else tabGet q l := by
  split
  · next e => subst e; simp
  · next e => exact tabGet_tabPut_ne e v l

@[simp] theorem tabPut_tabPut {α : Type} (k : Nat) (v w : α) (l : List (Nat × α)) : tabPut k v (tabPut k w l) = tabPut k v l := by
  induction l with
  | nil => simp [tabPut]
  | cons p r ih =>
    obtain ⟨j, x⟩ := p
    simp only [tabPut]
    split
    · simp [tabPut]
    · split
      · simp [tabPut]
      · simp [tabPut, ih, *]

@[simp] theorem tabGet_tabDel_same {α : Type} (k : Nat) (l : List (Nat × α)) : tabGet k (tabDel k l) = none := by
  induction l with
  | nil => rfl
  | cons p r ih =>
    obtain ⟨j, w⟩ := p
    simp only [tabDel]
    split
    · exact ih
    · simp [tabGet, ih, *]

theorem tabGet_tabDel_ne {α : Type} {k q : Nat} (h : q ≠ k) (l : List (Nat × α)) : tabGet q (tabDel k l) = tabGet q l := by
  induction l with
  | nil => rfl
  | cons p r ih =>
    obtain ⟨j, w⟩ := p
    simp only [tabDel]
    split
    · next e => subst e; simp [tabGet, Ne.symm h, ih]
    · simp [tabGet, ih]

theorem tabMod_some {α : Type} {k : Nat} {v : α} {l : List (Nat × α)} (f : α → α) (h : tabGet k l = some v) :
    tabMod k f l = tabPut k (f v) l := by simp [tabMod, h]
theorem tabMod_none {α : Type} {k : Nat} {l : List (Nat × α)} (f : α → α) (h : tabGet k l = none) : tabMod k f l = l := by
  simp [tabMod, h]
@[simp] theorem tabGet_tabMod_same {α : Type} (k : Nat) (f : α → α) (l : List (Nat × α)) :
    tabGet k (tabMod k f l) = (tabGet k l).map f := by
  cases h : tabGet k l with
  | none => simp [tabMod, h]
  | some v => simp [tabMod, h]
theorem tabGet_tabMod_ne {α : Type} {k q : Nat} (h : q ≠ k) (f : α → α) (l : List (Nat × α)) :
    tabGet q (tabMod k f l) = tabGet q l := by
  cases e : tabGet k l with
  | none => simp [tabMod, e]
  | some v => simp [tabMod, e, tabGet_tabPut_ne h]

theorem tabGet_tabMap {α : Type} (k : Nat) (f : Nat → α → α) (l : List (Nat × α)) :
    tabGet k (tabMap f l) = (tabGet k l).map (f k) := by
  induction l with
  | nil => rfl
  | cons p r ih =>
    obtain ⟨j, w⟩ := p
    simp only [tabMap, List.map_cons, tabGet]
    split
    · next e => subst e; rfl
    · exact ih

/-- A value found in a table stands in its list. -/
theorem tabGet_mem {α : Type} {k : Nat} {v : α} {l : List (Nat × α)} (h : tabGet k l = some v) : (k, v) ∈ l := by
  induction l with
  | nil => simp [tabGet] at h
  | cons p r ih =>
    obtain ⟨j, w⟩ := p
    simp only [tabGet] at h
    split at h
    · next e => subst e; cases h; simp
    · exact List.mem_cons_of_mem _ (ih h)

/-! ### Stores -/

@[simp] theorem stGet_stPut_same {β : Type} [DecidableEq β] (d v : β) (k : Nat) (l : Store β) : stGet d k (stPut d k v l) = v := by
  unfold stPut stGet
  split
  · next e => simp [e]
  · simp

theorem stGet_stPut_ne {β : Type} [DecidableEq β] {k q : Nat} (h : q ≠ k) (d v : β) (l : Store β) :
    stGet d q (stPut d k v l) = stGet d q l := by
  unfold stPut stGet
  split
  · rw [tabGet_tabDel_ne h]
  · rw [tabGet_tabPut_ne h]

theorem stGet_stPut {β : Type} [DecidableEq β] (d v : β) (k q : Nat) (l : Store β) :
    stGet d q (stPut d k v l) = if q = k then v else stGet d q l := by
  split
  · next e => subst e; simp
  · next e => exact stGet_stPut_ne e d v l

/-! ### The canonical form -/

theorem risingFrom_mono {α : Type} {a b : Nat} (h : a ≤ b) {l : List (Nat × α)} (r : risingFrom b l = true) : risingFrom a l = true := by
  cases l with
  | nil => rfl
  | cons p r' =>
    simp only [risingFrom, Bool.and_eq_true, decide_eq_true_eq] at r ⊢
    exact ⟨Nat.le_trans h r.1, r.2⟩

theorem risingFrom_tabPut {α : Type} {lo k : Nat} (hk : lo ≤ k) (v : α) {l : List (Nat × α)} (h : risingFrom lo l = true) :
    risingFrom lo (tabPut k v l) = true := by
  induction l generalizing lo with
  | nil => simpa [tabPut, risingFrom] using hk
  | cons p r ih =>
    obtain ⟨j, w⟩ := p
    simp only [risingFrom, Bool.and_eq_true, decide_eq_true_eq] at h
    simp only [tabPut]
    split
    · next e => subst e; simp [risingFrom, h]
    · split
      · next e => simp only [risingFrom, Bool.and_eq_true, decide_eq_true_eq]; exact ⟨hk, by omega, h.2⟩
      · next e => simp only [risingFrom, Bool.and_eq_true, decide_eq_true_eq]; exact ⟨h.1, ih (by omega) h.2⟩

theorem risingFrom_tabDel {α : Type} {lo : Nat} (k : Nat) {l : List (Nat × α)} (h : risingFrom lo l = true) :
    risingFrom lo (tabDel k l) = true := by
  induction l generalizing lo with
  | nil => rfl
  | cons p r ih =>
    obtain ⟨j, w⟩ := p
    simp only [risingFrom, Bool.and_eq_true, decide_eq_true_eq] at h
    simp only [tabDel]
    split
    · exact ih (risingFrom_mono (by omega) h.2)
    · simp only [risingFrom, Bool.and_eq_true, decide_eq_true_eq]; exact ⟨h.1, ih h.2⟩

theorem risingFrom_filter {α : Type} {lo : Nat} (f : Nat × α → Bool) {l : List (Nat × α)} (h : risingFrom lo l = true) :
    risingFrom lo (l.filter f) = true := by
  induction l generalizing lo with
  | nil => rfl
  | cons p r ih =>
    obtain ⟨j, w⟩ := p
    simp only [risingFrom, Bool.and_eq_true, decide_eq_true_eq] at h
    simp only [List.filter_cons]
    split
    · simp only [risingFrom, Bool.and_eq_true, decide_eq_true_eq]; exact ⟨h.1, ih h.2⟩
    · exact ih (risingFrom_mono (by omega) h.2)

theorem all_tabPut {α : Type} (f : Nat × α → Bool) {k : Nat} {v : α} (hv : f (k, v) = true) {l : List (Nat × α)} (h : l.all f = true) :
    (tabPut k v l).all f = true := by
  induction l with
  | nil => simpa [tabPut] using hv
  | cons p r ih =>
    obtain ⟨j, w⟩ := p
    simp only [List.all_cons, Bool.and_eq_true] at h
    simp only [tabPut]
    split
    · simp only [List.all_cons, Bool.and_eq_true]; exact ⟨hv, h.2⟩
    · split
      · simp only [List.all_cons, Bool.and_eq_true]; exact ⟨hv, h⟩
      · simp only [List.all_cons, Bool.and_eq_true]; exact ⟨h.1, ih h.2⟩

theorem all_tabDel {α : Type} (f : Nat × α → Bool) (k : Nat) {l : List (Nat × α)} (h : l.all f = true) : (tabDel k l).all f = true := by
  induction l with
  | nil => rfl
  | cons p r ih =>
    obtain ⟨j, w⟩ := p
    simp only [List.all_cons, Bool.and_eq_true] at h
    simp only [tabDel]
    split
    · exact ih h.2
    · simp only [List.all_cons, Bool.and_eq_true]; exact ⟨h.1, ih h.2⟩

theorem storeWf_stPut {β : Type} [DecidableEq β] (d : β) (k : Nat) (v : β) {l : Store β} (h : storeWf d l = true) :
    storeWf d (stPut d k v l) = true := by
  simp only [storeWf, Bool.and_eq_true] at h ⊢
  unfold stPut
  split
  · exact ⟨risingFrom_tabDel k h.1, all_tabDel _ k h.2⟩
  · next e => exact ⟨risingFrom_tabPut (Nat.zero_le k) v h.1, all_tabPut _ (by simpa using e) h.2⟩

theorem storeWf_stPutList {β : Type} [DecidableEq β] (d : β) (k : Nat) (vs : List β) {l : Store β} (h : storeWf d l = true) :
    storeWf d (stPutList d k vs l) = true := by
  induction vs generalizing k l with
  | nil => exact h
  | cons v vs ih => exact ih (k + 1) (storeWf_stPut d k v h)

theorem storeWf_filter {β : Type} [DecidableEq β] (d : β) (f : Nat × β → Bool) {l : Store β} (h : storeWf d l = true) :
    storeWf d (l.filter f) = true := by
  simp only [storeWf, Bool.and_eq_true] at h ⊢
  refine ⟨risingFrom_filter f h.1, ?_⟩
  have := h.2
  simp only [List.all_eq_true] at this ⊢
  exact fun x hx => this x (List.mem_filter.mp hx).1

theorem storeWf_foldl {β γ : Type} [DecidableEq β] (d : β) (f : Store β → γ → Store β)
    (hf : ∀ m x, storeWf d m = true → storeWf d (f m x) = true) (xs : List γ) {l : Store β} (h : storeWf d l = true) :
    storeWf d (xs.foldl f l) = true := by
  induction xs generalizing l with
  | nil => exact h
  | cons x xs ih => exact ih (hf l x h)

/-! ### Memory: bytes written and read -/

theorem Memory.wf_stPut {m : Store Byte} (h : Memory.wf m = true) (pa : Nat) (b : Byte) :
    Memory.wf (stPut restingByte pa b m) = true := storeWf_stPut _ pa b h
theorem Memory.wf_putBytes {m : Store Byte} (h : Memory.wf m = true) (pa : Nat) (bs : List (Option Byte)) :
    Memory.wf (putBytes pa bs m) = true := by
  induction bs generalizing pa m with
  | nil => exact h
  | cons b bs ih =>
    cases b with
    | none => exact ih h (pa + 1)
    | some b => exact ih (Memory.wf_stPut h pa b) (pa + 1)
theorem Memory.wf_filter {m : Store Byte} (h : Memory.wf m = true) (f : Nat × Byte → Bool) :
    Memory.wf (m.filter f) = true := storeWf_filter _ f h

/-- What a byte reads as after bytes are written: the byte written there, or what it read before. -/
theorem stGet_putBytes (pa : Nat) (bs : List (Option Byte)) (m : Store Byte) (a : Nat) :
    stGet restingByte a (putBytes pa bs m) =
      if pa ≤ a then ((bs[a - pa]?).join).getD (stGet restingByte a m) else stGet restingByte a m := by
  induction bs generalizing pa m with
  | nil => simp [putBytes]
  | cons b bs ih =>
    cases b with
    | none =>
      simp only [putBytes, ih]
      by_cases h : pa = a
      · subst h; first | (simp; done) | (simp; intro h; omega)
      · by_cases h2 : pa + 1 ≤ a
        · have e : a - pa = (a - (pa + 1)) + 1 := by omega
          have h3 : pa ≤ a := by omega
          simp only [h2, h3, if_true, e, List.getElem?_cons_succ]
        · have h3 : ¬ pa ≤ a := by omega
          simp [h2, h3]
    | some b =>
      simp only [putBytes, ih, stGet_stPut]
      by_cases h : pa = a
      · subst h; first | (simp; done) | (simp; intro h; omega)
      · have hn : a ≠ pa := fun e => h e.symm
        simp only [hn, if_false]
        by_cases h2 : pa + 1 ≤ a
        · have e : a - pa = (a - (pa + 1)) + 1 := by omega
          have h3 : pa ≤ a := by omega
          simp only [h2, h3, if_true, e, List.getElem?_cons_succ]
        · have h3 : ¬ pa ≤ a := by omega
          simp [h2, h3]

end Sys2Proof.Machine
end

