-- ==== Sys2Proof/Laws/State.lean ====
section
/-! SUPPORT. What each named update leaves of the package, of a sheet, of a gang and of registers: one law for each field. -/

namespace Sys2Proof.Machine

-- One declaration after another: a thread for each would take more memory than the package may.
set_option Elab.async false


/-! ### Updates of the package -/

@[simp] theorem State.modSheet_mem (s : State) (k : Nat) (f : Sheet → Sheet) : (s.modSheet k f).mem = s.mem := rfl
@[simp] theorem State.modSheet_atoms (s : State) (k : Nat) (f : Sheet → Sheet) : (s.modSheet k f).atoms = s.atoms := rfl
@[simp] theorem State.modSheet_now (s : State) (k : Nat) (f : Sheet → Sheet) : (s.modSheet k f).now = s.now := rfl
@[simp] theorem State.modSheet_choices (s : State) (k : Nat) (f : Sheet → Sheet) :
    (s.modSheet k f).choices = s.choices := rfl
@[simp] theorem State.modSheet_issue (s : State) (k : Nat) (f : Sheet → Sheet) : (s.modSheet k f).issue = s.issue := rfl
@[simp] theorem State.modSheet_nextId (s : State) (k : Nat) (f : Sheet → Sheet) : (s.modSheet k f).nextId = s.nextId := rfl
@[simp] theorem State.modSheet_shadows (s : State) (k : Nat) (f : Sheet → Sheet) :
    (s.modSheet k f).shadows = s.shadows := rfl
@[simp] theorem State.modSheet_launches (s : State) (k : Nat) (f : Sheet → Sheet) :
    (s.modSheet k f).launches = s.launches := rfl
@[simp] theorem State.modSheet_ctxs (s : State) (k : Nat) (f : Sheet → Sheet) : (s.modSheet k f).ctxs = s.ctxs := rfl
@[simp] theorem State.modSheet_parts (s : State) (k : Nat) (f : Sheet → Sheet) : (s.modSheet k f).parts = s.parts := rfl
@[simp] theorem State.modSheet_clusters (s : State) (k : Nat) (f : Sheet → Sheet) :
    (s.modSheet k f).clusters = s.clusters := rfl
@[simp] theorem State.modSheet_dies (s : State) (k : Nat) (f : Sheet → Sheet) : (s.modSheet k f).dies = s.dies := rfl
@[simp] theorem State.modSheet_keys (s : State) (k : Nat) (f : Sheet → Sheet) : (s.modSheet k f).keys = s.keys := rfl
@[simp] theorem State.modSheet_steward (s : State) (k : Nat) (f : Sheet → Sheet) :
    (s.modSheet k f).steward = s.steward := rfl
@[simp] theorem State.modSheet_writes (s : State) (k : Nat) (f : Sheet → Sheet) : (s.modSheet k f).writes = s.writes := rfl
@[simp] theorem State.modSheet_copies (s : State) (k : Nat) (f : Sheet → Sheet) : (s.modSheet k f).copies = s.copies := rfl
@[simp] theorem State.modSheet_msgs (s : State) (k : Nat) (f : Sheet → Sheet) : (s.modSheet k f).msgs = s.msgs := rfl
@[simp] theorem State.modSheet_packets (s : State) (k : Nat) (f : Sheet → Sheet) :
    (s.modSheet k f).packets = s.packets := rfl
@[simp] theorem State.modSheet_markers (s : State) (k : Nat) (f : Sheet → Sheet) :
    (s.modSheet k f).markers = s.markers := rfl
@[simp] theorem State.modSheet_replicas (s : State) (k : Nat) (f : Sheet → Sheet) :
    (s.modSheet k f).replicas = s.replicas := rfl
@[simp] theorem State.modSheet_migrations (s : State) (k : Nat) (f : Sheet → Sheet) :
    (s.modSheet k f).migrations = s.migrations := rfl
@[simp] theorem State.modSheet_audits (s : State) (k : Nat) (f : Sheet → Sheet) : (s.modSheet k f).audits = s.audits := rfl
@[simp] theorem State.modSheet_requests (s : State) (k : Nat) (f : Sheet → Sheet) :
    (s.modSheet k f).requests = s.requests := rfl
@[simp] theorem State.modSheet_requestNo (s : State) (k : Nat) (f : Sheet → Sheet) :
    (s.modSheet k f).requestNo = s.requestNo := rfl
@[simp] theorem State.modSheet_imageTag (s : State) (k : Nat) (f : Sheet → Sheet) :
    (s.modSheet k f).imageTag = s.imageTag := rfl
@[simp] theorem State.modSheet_placeStop (s : State) (k : Nat) (f : Sheet → Sheet) :
    (s.modSheet k f).placeStop = s.placeStop := rfl
@[simp] theorem State.modSheet_unreachable (s : State) (k : Nat) (f : Sheet → Sheet) :
    (s.modSheet k f).unreachable = s.unreachable := rfl
@[simp] theorem State.modSheet_incarnations (s : State) (k : Nat) (f : Sheet → Sheet) :
    (s.modSheet k f).incarnations = s.incarnations := rfl
@[simp] theorem State.modSheet_images (s : State) (k : Nat) (f : Sheet → Sheet) : (s.modSheet k f).images = s.images := rfl
@[simp] theorem State.modSheet_due (s : State) (k : Nat) (f : Sheet → Sheet) : (s.modSheet k f).due = s.due := rfl
@[simp] theorem State.modSheet_raisedAt (s : State) (k : Nat) (f : Sheet → Sheet) :
    (s.modSheet k f).raisedAt = s.raisedAt := rfl
@[simp] theorem State.modSheet_inputs (s : State) (k : Nat) (f : Sheet → Sheet) : (s.modSheet k f).inputs = s.inputs := rfl
@[simp] theorem State.modGang_mem (s : State) (k g : Nat) (f : Gang → Gang) : (s.modGang k g f).mem = s.mem := rfl
@[simp] theorem State.modGang_atoms (s : State) (k g : Nat) (f : Gang → Gang) : (s.modGang k g f).atoms = s.atoms := rfl
@[simp] theorem State.modGang_now (s : State) (k g : Nat) (f : Gang → Gang) : (s.modGang k g f).now = s.now := rfl
@[simp] theorem State.modGang_choices (s : State) (k g : Nat) (f : Gang → Gang) :
    (s.modGang k g f).choices = s.choices := rfl
@[simp] theorem State.modGang_issue (s : State) (k g : Nat) (f : Gang → Gang) : (s.modGang k g f).issue = s.issue := rfl
@[simp] theorem State.modGang_nextId (s : State) (k g : Nat) (f : Gang → Gang) : (s.modGang k g f).nextId = s.nextId := rfl
@[simp] theorem State.modGang_shadows (s : State) (k g : Nat) (f : Gang → Gang) :
    (s.modGang k g f).shadows = s.shadows := rfl
@[simp] theorem State.modGang_launches (s : State) (k g : Nat) (f : Gang → Gang) :
    (s.modGang k g f).launches = s.launches := rfl
@[simp] theorem State.modGang_ctxs (s : State) (k g : Nat) (f : Gang → Gang) : (s.modGang k g f).ctxs = s.ctxs := rfl
@[simp] theorem State.modGang_parts (s : State) (k g : Nat) (f : Gang → Gang) : (s.modGang k g f).parts = s.parts := rfl
@[simp] theorem State.modGang_clusters (s : State) (k g : Nat) (f : Gang → Gang) :
    (s.modGang k g f).clusters = s.clusters := rfl
@[simp] theorem State.modGang_dies (s : State) (k g : Nat) (f : Gang → Gang) : (s.modGang k g f).dies = s.dies := rfl
@[simp] theorem State.modGang_keys (s : State) (k g : Nat) (f : Gang → Gang) : (s.modGang k g f).keys = s.keys := rfl
@[simp] theorem State.modGang_steward (s : State) (k g : Nat) (f : Gang → Gang) :
    (s.modGang k g f).steward = s.steward := rfl
@[simp] theorem State.modGang_writes (s : State) (k g : Nat) (f : Gang → Gang) : (s.modGang k g f).writes = s.writes := rfl
@[simp] theorem State.modGang_copies (s : State) (k g : Nat) (f : Gang → Gang) : (s.modGang k g f).copies = s.copies := rfl
@[simp] theorem State.modGang_msgs (s : State) (k g : Nat) (f : Gang → Gang) : (s.modGang k g f).msgs = s.msgs := rfl
@[simp] theorem State.modGang_packets (s : State) (k g : Nat) (f : Gang → Gang) :
    (s.modGang k g f).packets = s.packets := rfl
@[simp] theorem State.modGang_markers (s : State) (k g : Nat) (f : Gang → Gang) :
    (s.modGang k g f).markers = s.markers := rfl
@[simp] theorem State.modGang_replicas (s : State) (k g : Nat) (f : Gang → Gang) :
    (s.modGang k g f).replicas = s.replicas := rfl
@[simp] theorem State.modGang_migrations (s : State) (k g : Nat) (f : Gang → Gang) :
    (s.modGang k g f).migrations = s.migrations := rfl
@[simp] theorem State.modGang_audits (s : State) (k g : Nat) (f : Gang → Gang) : (s.modGang k g f).audits = s.audits := rfl
@[simp] theorem State.modGang_requests (s : State) (k g : Nat) (f : Gang → Gang) :
    (s.modGang k g f).requests = s.requests := rfl
@[simp] theorem State.modGang_requestNo (s : State) (k g : Nat) (f : Gang → Gang) :
    (s.modGang k g f).requestNo = s.requestNo := rfl
@[simp] theorem State.modGang_imageTag (s : State) (k g : Nat) (f : Gang → Gang) :
    (s.modGang k g f).imageTag = s.imageTag := rfl
@[simp] theorem State.modGang_placeStop (s : State) (k g : Nat) (f : Gang → Gang) :
    (s.modGang k g f).placeStop = s.placeStop := rfl
@[simp] theorem State.modGang_unreachable (s : State) (k g : Nat) (f : Gang → Gang) :
    (s.modGang k g f).unreachable = s.unreachable := rfl
@[simp] theorem State.modGang_incarnations (s : State) (k g : Nat) (f : Gang → Gang) :
    (s.modGang k g f).incarnations = s.incarnations := rfl
@[simp] theorem State.modGang_images (s : State) (k g : Nat) (f : Gang → Gang) : (s.modGang k g f).images = s.images := rfl
@[simp] theorem State.modGang_due (s : State) (k g : Nat) (f : Gang → Gang) : (s.modGang k g f).due = s.due := rfl
@[simp] theorem State.modGang_raisedAt (s : State) (k g : Nat) (f : Gang → Gang) :
    (s.modGang k g f).raisedAt = s.raisedAt := rfl
@[simp] theorem State.modGang_inputs (s : State) (k g : Nat) (f : Gang → Gang) : (s.modGang k g f).inputs = s.inputs := rfl
@[simp] theorem State.modCtx_mem (s : State) (k : Nat) (f : Context → Context) : (s.modCtx k f).mem = s.mem := rfl
@[simp] theorem State.modCtx_atoms (s : State) (k : Nat) (f : Context → Context) : (s.modCtx k f).atoms = s.atoms := rfl
@[simp] theorem State.modCtx_now (s : State) (k : Nat) (f : Context → Context) : (s.modCtx k f).now = s.now := rfl
@[simp] theorem State.modCtx_choices (s : State) (k : Nat) (f : Context → Context) :
    (s.modCtx k f).choices = s.choices := rfl
@[simp] theorem State.modCtx_issue (s : State) (k : Nat) (f : Context → Context) : (s.modCtx k f).issue = s.issue := rfl
@[simp] theorem State.modCtx_nextId (s : State) (k : Nat) (f : Context → Context) : (s.modCtx k f).nextId = s.nextId := rfl
@[simp] theorem State.modCtx_sheets (s : State) (k : Nat) (f : Context → Context) : (s.modCtx k f).sheets = s.sheets := rfl
@[simp] theorem State.modCtx_shadows (s : State) (k : Nat) (f : Context → Context) :
    (s.modCtx k f).shadows = s.shadows := rfl
@[simp] theorem State.modCtx_launches (s : State) (k : Nat) (f : Context → Context) :
    (s.modCtx k f).launches = s.launches := rfl
@[simp] theorem State.modCtx_parts (s : State) (k : Nat) (f : Context → Context) : (s.modCtx k f).parts = s.parts := rfl
@[simp] theorem State.modCtx_clusters (s : State) (k : Nat) (f : Context → Context) :
    (s.modCtx k f).clusters = s.clusters := rfl
@[simp] theorem State.modCtx_dies (s : State) (k : Nat) (f : Context → Context) : (s.modCtx k f).dies = s.dies := rfl
@[simp] theorem State.modCtx_keys (s : State) (k : Nat) (f : Context → Context) : (s.modCtx k f).keys = s.keys := rfl
@[simp] theorem State.modCtx_steward (s : State) (k : Nat) (f : Context → Context) :
    (s.modCtx k f).steward = s.steward := rfl
@[simp] theorem State.modCtx_writes (s : State) (k : Nat) (f : Context → Context) : (s.modCtx k f).writes = s.writes := rfl
@[simp] theorem State.modCtx_copies (s : State) (k : Nat) (f : Context → Context) : (s.modCtx k f).copies = s.copies := rfl
@[simp] theorem State.modCtx_msgs (s : State) (k : Nat) (f : Context → Context) : (s.modCtx k f).msgs = s.msgs := rfl
@[simp] theorem State.modCtx_packets (s : State) (k : Nat) (f : Context → Context) :
    (s.modCtx k f).packets = s.packets := rfl
@[simp] theorem State.modCtx_markers (s : State) (k : Nat) (f : Context → Context) :
    (s.modCtx k f).markers = s.markers := rfl
@[simp] theorem State.modCtx_replicas (s : State) (k : Nat) (f : Context → Context) :
    (s.modCtx k f).replicas = s.replicas := rfl
@[simp] theorem State.modCtx_migrations (s : State) (k : Nat) (f : Context → Context) :
    (s.modCtx k f).migrations = s.migrations := rfl
@[simp] theorem State.modCtx_audits (s : State) (k : Nat) (f : Context → Context) : (s.modCtx k f).audits = s.audits := rfl
@[simp] theorem State.modCtx_requests (s : State) (k : Nat) (f : Context → Context) :
    (s.modCtx k f).requests = s.requests := rfl
@[simp] theorem State.modCtx_requestNo (s : State) (k : Nat) (f : Context → Context) :
    (s.modCtx k f).requestNo = s.requestNo := rfl
@[simp] theorem State.modCtx_imageTag (s : State) (k : Nat) (f : Context → Context) :
    (s.modCtx k f).imageTag = s.imageTag := rfl
@[simp] theorem State.modCtx_placeStop (s : State) (k : Nat) (f : Context → Context) :
    (s.modCtx k f).placeStop = s.placeStop := rfl
@[simp] theorem State.modCtx_unreachable (s : State) (k : Nat) (f : Context → Context) :
    (s.modCtx k f).unreachable = s.unreachable := rfl
@[simp] theorem State.modCtx_incarnations (s : State) (k : Nat) (f : Context → Context) :
    (s.modCtx k f).incarnations = s.incarnations := rfl
@[simp] theorem State.modCtx_images (s : State) (k : Nat) (f : Context → Context) : (s.modCtx k f).images = s.images := rfl
@[simp] theorem State.modCtx_due (s : State) (k : Nat) (f : Context → Context) : (s.modCtx k f).due = s.due := rfl
@[simp] theorem State.modCtx_raisedAt (s : State) (k : Nat) (f : Context → Context) :
    (s.modCtx k f).raisedAt = s.raisedAt := rfl
@[simp] theorem State.modCtx_inputs (s : State) (k : Nat) (f : Context → Context) : (s.modCtx k f).inputs = s.inputs := rfl
@[simp] theorem State.modLaunch_mem (s : State) (k : Nat) (f : Launch → Launch) : (s.modLaunch k f).mem = s.mem := rfl
@[simp] theorem State.modLaunch_atoms (s : State) (k : Nat) (f : Launch → Launch) : (s.modLaunch k f).atoms = s.atoms := rfl
@[simp] theorem State.modLaunch_now (s : State) (k : Nat) (f : Launch → Launch) : (s.modLaunch k f).now = s.now := rfl
@[simp] theorem State.modLaunch_choices (s : State) (k : Nat) (f : Launch → Launch) :
    (s.modLaunch k f).choices = s.choices := rfl
@[simp] theorem State.modLaunch_issue (s : State) (k : Nat) (f : Launch → Launch) : (s.modLaunch k f).issue = s.issue := rfl
@[simp] theorem State.modLaunch_nextId (s : State) (k : Nat) (f : Launch → Launch) :
    (s.modLaunch k f).nextId = s.nextId := rfl
@[simp] theorem State.modLaunch_sheets (s : State) (k : Nat) (f : Launch → Launch) :
    (s.modLaunch k f).sheets = s.sheets := rfl
@[simp] theorem State.modLaunch_shadows (s : State) (k : Nat) (f : Launch → Launch) :
    (s.modLaunch k f).shadows = s.shadows := rfl
@[simp] theorem State.modLaunch_ctxs (s : State) (k : Nat) (f : Launch → Launch) : (s.modLaunch k f).ctxs = s.ctxs := rfl
@[simp] theorem State.modLaunch_parts (s : State) (k : Nat) (f : Launch → Launch) : (s.modLaunch k f).parts = s.parts := rfl
@[simp] theorem State.modLaunch_clusters (s : State) (k : Nat) (f : Launch → Launch) :
    (s.modLaunch k f).clusters = s.clusters := rfl
@[simp] theorem State.modLaunch_dies (s : State) (k : Nat) (f : Launch → Launch) : (s.modLaunch k f).dies = s.dies := rfl
@[simp] theorem State.modLaunch_keys (s : State) (k : Nat) (f : Launch → Launch) : (s.modLaunch k f).keys = s.keys := rfl
@[simp] theorem State.modLaunch_steward (s : State) (k : Nat) (f : Launch → Launch) :
    (s.modLaunch k f).steward = s.steward := rfl
@[simp] theorem State.modLaunch_writes (s : State) (k : Nat) (f : Launch → Launch) :
    (s.modLaunch k f).writes = s.writes := rfl
@[simp] theorem State.modLaunch_copies (s : State) (k : Nat) (f : Launch → Launch) :
    (s.modLaunch k f).copies = s.copies := rfl
@[simp] theorem State.modLaunch_msgs (s : State) (k : Nat) (f : Launch → Launch) : (s.modLaunch k f).msgs = s.msgs := rfl
@[simp] theorem State.modLaunch_packets (s : State) (k : Nat) (f : Launch → Launch) :
    (s.modLaunch k f).packets = s.packets := rfl
@[simp] theorem State.modLaunch_markers (s : State) (k : Nat) (f : Launch → Launch) :
    (s.modLaunch k f).markers = s.markers := rfl
@[simp] theorem State.modLaunch_replicas (s : State) (k : Nat) (f : Launch → Launch) :
    (s.modLaunch k f).replicas = s.replicas := rfl
@[simp] theorem State.modLaunch_migrations (s : State) (k : Nat) (f : Launch → Launch) :
    (s.modLaunch k f).migrations = s.migrations := rfl
@[simp] theorem State.modLaunch_audits (s : State) (k : Nat) (f : Launch → Launch) :
    (s.modLaunch k f).audits = s.audits := rfl
@[simp] theorem State.modLaunch_requests (s : State) (k : Nat) (f : Launch → Launch) :
    (s.modLaunch k f).requests = s.requests := rfl
@[simp] theorem State.modLaunch_requestNo (s : State) (k : Nat) (f : Launch → Launch) :
    (s.modLaunch k f).requestNo = s.requestNo := rfl
@[simp] theorem State.modLaunch_imageTag (s : State) (k : Nat) (f : Launch → Launch) :
    (s.modLaunch k f).imageTag = s.imageTag := rfl
@[simp] theorem State.modLaunch_placeStop (s : State) (k : Nat) (f : Launch → Launch) :
    (s.modLaunch k f).placeStop = s.placeStop := rfl
@[simp] theorem State.modLaunch_unreachable (s : State) (k : Nat) (f : Launch → Launch) :
    (s.modLaunch k f).unreachable = s.unreachable := rfl
@[simp] theorem State.modLaunch_incarnations (s : State) (k : Nat) (f : Launch → Launch) :
    (s.modLaunch k f).incarnations = s.incarnations := rfl
@[simp] theorem State.modLaunch_images (s : State) (k : Nat) (f : Launch → Launch) : (s.modLaunch k f).images = s.images := rfl
@[simp] theorem State.modLaunch_due (s : State) (k : Nat) (f : Launch → Launch) : (s.modLaunch k f).due = s.due := rfl
@[simp] theorem State.modLaunch_raisedAt (s : State) (k : Nat) (f : Launch → Launch) :
    (s.modLaunch k f).raisedAt = s.raisedAt := rfl
@[simp] theorem State.modLaunch_inputs (s : State) (k : Nat) (f : Launch → Launch) :
    (s.modLaunch k f).inputs = s.inputs := rfl
@[simp] theorem State.modCluster_mem (s : State) (k : Nat) (f : Cluster → Cluster) : (s.modCluster k f).mem = s.mem := rfl
@[simp] theorem State.modCluster_atoms (s : State) (k : Nat) (f : Cluster → Cluster) :
    (s.modCluster k f).atoms = s.atoms := rfl
@[simp] theorem State.modCluster_now (s : State) (k : Nat) (f : Cluster → Cluster) : (s.modCluster k f).now = s.now := rfl
@[simp] theorem State.modCluster_choices (s : State) (k : Nat) (f : Cluster → Cluster) :
    (s.modCluster k f).choices = s.choices := rfl
@[simp] theorem State.modCluster_issue (s : State) (k : Nat) (f : Cluster → Cluster) :
    (s.modCluster k f).issue = s.issue := rfl
@[simp] theorem State.modCluster_nextId (s : State) (k : Nat) (f : Cluster → Cluster) :
    (s.modCluster k f).nextId = s.nextId := rfl
@[simp] theorem State.modCluster_sheets (s : State) (k : Nat) (f : Cluster → Cluster) :
    (s.modCluster k f).sheets = s.sheets := rfl
@[simp] theorem State.modCluster_shadows (s : State) (k : Nat) (f : Cluster → Cluster) :
    (s.modCluster k f).shadows = s.shadows := rfl
@[simp] theorem State.modCluster_launches (s : State) (k : Nat) (f : Cluster → Cluster) :
    (s.modCluster k f).launches = s.launches := rfl
@[simp] theorem State.modCluster_ctxs (s : State) (k : Nat) (f : Cluster → Cluster) : (s.modCluster k f).ctxs = s.ctxs := rfl
@[simp] theorem State.modCluster_parts (s : State) (k : Nat) (f : Cluster → Cluster) :
    (s.modCluster k f).parts = s.parts := rfl
@[simp] theorem State.modCluster_dies (s : State) (k : Nat) (f : Cluster → Cluster) : (s.modCluster k f).dies = s.dies := rfl
@[simp] theorem State.modCluster_keys (s : State) (k : Nat) (f : Cluster → Cluster) : (s.modCluster k f).keys = s.keys := rfl
@[simp] theorem State.modCluster_steward (s : State) (k : Nat) (f : Cluster → Cluster) :
    (s.modCluster k f).steward = s.steward := rfl
@[simp] theorem State.modCluster_writes (s : State) (k : Nat) (f : Cluster → Cluster) :
    (s.modCluster k f).writes = s.writes := rfl
@[simp] theorem State.modCluster_copies (s : State) (k : Nat) (f : Cluster → Cluster) :
    (s.modCluster k f).copies = s.copies := rfl
@[simp] theorem State.modCluster_msgs (s : State) (k : Nat) (f : Cluster → Cluster) : (s.modCluster k f).msgs = s.msgs := rfl
@[simp] theorem State.modCluster_packets (s : State) (k : Nat) (f : Cluster → Cluster) :
    (s.modCluster k f).packets = s.packets := rfl
@[simp] theorem State.modCluster_markers (s : State) (k : Nat) (f : Cluster → Cluster) :
    (s.modCluster k f).markers = s.markers := rfl
@[simp] theorem State.modCluster_replicas (s : State) (k : Nat) (f : Cluster → Cluster) :
    (s.modCluster k f).replicas = s.replicas := rfl
@[simp] theorem State.modCluster_migrations (s : State) (k : Nat) (f : Cluster → Cluster) :
    (s.modCluster k f).migrations = s.migrations := rfl
@[simp] theorem State.modCluster_audits (s : State) (k : Nat) (f : Cluster → Cluster) :
    (s.modCluster k f).audits = s.audits := rfl
@[simp] theorem State.modCluster_requests (s : State) (k : Nat) (f : Cluster → Cluster) :
    (s.modCluster k f).requests = s.requests := rfl
@[simp] theorem State.modCluster_requestNo (s : State) (k : Nat) (f : Cluster → Cluster) :
    (s.modCluster k f).requestNo = s.requestNo := rfl
@[simp] theorem State.modCluster_imageTag (s : State) (k : Nat) (f : Cluster → Cluster) :
    (s.modCluster k f).imageTag = s.imageTag := rfl
@[simp] theorem State.modCluster_placeStop (s : State) (k : Nat) (f : Cluster → Cluster) :
    (s.modCluster k f).placeStop = s.placeStop := rfl
@[simp] theorem State.modCluster_unreachable (s : State) (k : Nat) (f : Cluster → Cluster) :
    (s.modCluster k f).unreachable = s.unreachable := rfl
@[simp] theorem State.modCluster_incarnations (s : State) (k : Nat) (f : Cluster → Cluster) :
    (s.modCluster k f).incarnations = s.incarnations := rfl
@[simp] theorem State.modCluster_images (s : State) (k : Nat) (f : Cluster → Cluster) :
    (s.modCluster k f).images = s.images := rfl
@[simp] theorem State.modCluster_due (s : State) (k : Nat) (f : Cluster → Cluster) :
    (s.modCluster k f).due = s.due := rfl
@[simp] theorem State.modCluster_raisedAt (s : State) (k : Nat) (f : Cluster → Cluster) :
    (s.modCluster k f).raisedAt = s.raisedAt := rfl
@[simp] theorem State.modCluster_inputs (s : State) (k : Nat) (f : Cluster → Cluster) :
    (s.modCluster k f).inputs = s.inputs := rfl
@[simp] theorem State.modDie_mem (s : State) (k : Nat) (f : Die → Die) : (s.modDie k f).mem = s.mem := rfl
@[simp] theorem State.modDie_atoms (s : State) (k : Nat) (f : Die → Die) : (s.modDie k f).atoms = s.atoms := rfl
@[simp] theorem State.modDie_now (s : State) (k : Nat) (f : Die → Die) : (s.modDie k f).now = s.now := rfl
@[simp] theorem State.modDie_choices (s : State) (k : Nat) (f : Die → Die) : (s.modDie k f).choices = s.choices := rfl
@[simp] theorem State.modDie_issue (s : State) (k : Nat) (f : Die → Die) : (s.modDie k f).issue = s.issue := rfl
@[simp] theorem State.modDie_nextId (s : State) (k : Nat) (f : Die → Die) : (s.modDie k f).nextId = s.nextId := rfl
@[simp] theorem State.modDie_sheets (s : State) (k : Nat) (f : Die → Die) : (s.modDie k f).sheets = s.sheets := rfl
@[simp] theorem State.modDie_shadows (s : State) (k : Nat) (f : Die → Die) : (s.modDie k f).shadows = s.shadows := rfl
@[simp] theorem State.modDie_launches (s : State) (k : Nat) (f : Die → Die) : (s.modDie k f).launches = s.launches := rfl
@[simp] theorem State.modDie_ctxs (s : State) (k : Nat) (f : Die → Die) : (s.modDie k f).ctxs = s.ctxs := rfl
@[simp] theorem State.modDie_parts (s : State) (k : Nat) (f : Die → Die) : (s.modDie k f).parts = s.parts := rfl
@[simp] theorem State.modDie_clusters (s : State) (k : Nat) (f : Die → Die) : (s.modDie k f).clusters = s.clusters := rfl
@[simp] theorem State.modDie_keys (s : State) (k : Nat) (f : Die → Die) : (s.modDie k f).keys = s.keys := rfl
@[simp] theorem State.modDie_steward (s : State) (k : Nat) (f : Die → Die) : (s.modDie k f).steward = s.steward := rfl
@[simp] theorem State.modDie_writes (s : State) (k : Nat) (f : Die → Die) : (s.modDie k f).writes = s.writes := rfl
@[simp] theorem State.modDie_copies (s : State) (k : Nat) (f : Die → Die) : (s.modDie k f).copies = s.copies := rfl
@[simp] theorem State.modDie_msgs (s : State) (k : Nat) (f : Die → Die) : (s.modDie k f).msgs = s.msgs := rfl
@[simp] theorem State.modDie_packets (s : State) (k : Nat) (f : Die → Die) : (s.modDie k f).packets = s.packets := rfl
@[simp] theorem State.modDie_markers (s : State) (k : Nat) (f : Die → Die) : (s.modDie k f).markers = s.markers := rfl
@[simp] theorem State.modDie_replicas (s : State) (k : Nat) (f : Die → Die) : (s.modDie k f).replicas = s.replicas := rfl
@[simp] theorem State.modDie_migrations (s : State) (k : Nat) (f : Die → Die) :
    (s.modDie k f).migrations = s.migrations := rfl
@[simp] theorem State.modDie_audits (s : State) (k : Nat) (f : Die → Die) : (s.modDie k f).audits = s.audits := rfl
@[simp] theorem State.modDie_requests (s : State) (k : Nat) (f : Die → Die) : (s.modDie k f).requests = s.requests := rfl
@[simp] theorem State.modDie_requestNo (s : State) (k : Nat) (f : Die → Die) : (s.modDie k f).requestNo = s.requestNo := rfl
@[simp] theorem State.modDie_imageTag (s : State) (k : Nat) (f : Die → Die) : (s.modDie k f).imageTag = s.imageTag := rfl
@[simp] theorem State.modDie_placeStop (s : State) (k : Nat) (f : Die → Die) : (s.modDie k f).placeStop = s.placeStop := rfl
@[simp] theorem State.modDie_unreachable (s : State) (k : Nat) (f : Die → Die) :
    (s.modDie k f).unreachable = s.unreachable := rfl
@[simp] theorem State.modDie_incarnations (s : State) (k : Nat) (f : Die → Die) :
    (s.modDie k f).incarnations = s.incarnations := rfl
@[simp] theorem State.modDie_images (s : State) (k : Nat) (f : Die → Die) : (s.modDie k f).images = s.images := rfl
@[simp] theorem State.modDie_due (s : State) (k : Nat) (f : Die → Die) : (s.modDie k f).due = s.due := rfl
@[simp] theorem State.modDie_raisedAt (s : State) (k : Nat) (f : Die → Die) : (s.modDie k f).raisedAt = s.raisedAt := rfl
@[simp] theorem State.modDie_inputs (s : State) (k : Nat) (f : Die → Die) : (s.modDie k f).inputs = s.inputs := rfl
@[simp] theorem State.modBar_mem (s : State) (sid b : Nat) (f : Barrier → Barrier) : (s.modBar sid b f).mem = s.mem := rfl
@[simp] theorem State.modBar_atoms (s : State) (sid b : Nat) (f : Barrier → Barrier) :
    (s.modBar sid b f).atoms = s.atoms := rfl
@[simp] theorem State.modBar_now (s : State) (sid b : Nat) (f : Barrier → Barrier) : (s.modBar sid b f).now = s.now := rfl
@[simp] theorem State.modBar_choices (s : State) (sid b : Nat) (f : Barrier → Barrier) :
    (s.modBar sid b f).choices = s.choices := rfl
@[simp] theorem State.modBar_issue (s : State) (sid b : Nat) (f : Barrier → Barrier) :
    (s.modBar sid b f).issue = s.issue := rfl
@[simp] theorem State.modBar_nextId (s : State) (sid b : Nat) (f : Barrier → Barrier) :
    (s.modBar sid b f).nextId = s.nextId := rfl
@[simp] theorem State.modBar_shadows (s : State) (sid b : Nat) (f : Barrier → Barrier) :
    (s.modBar sid b f).shadows = s.shadows := rfl
@[simp] theorem State.modBar_launches (s : State) (sid b : Nat) (f : Barrier → Barrier) :
    (s.modBar sid b f).launches = s.launches := rfl
@[simp] theorem State.modBar_ctxs (s : State) (sid b : Nat) (f : Barrier → Barrier) : (s.modBar sid b f).ctxs = s.ctxs := rfl
@[simp] theorem State.modBar_parts (s : State) (sid b : Nat) (f : Barrier → Barrier) :
    (s.modBar sid b f).parts = s.parts := rfl
@[simp] theorem State.modBar_clusters (s : State) (sid b : Nat) (f : Barrier → Barrier) :
    (s.modBar sid b f).clusters = s.clusters := rfl
@[simp] theorem State.modBar_dies (s : State) (sid b : Nat) (f : Barrier → Barrier) : (s.modBar sid b f).dies = s.dies := rfl
@[simp] theorem State.modBar_keys (s : State) (sid b : Nat) (f : Barrier → Barrier) : (s.modBar sid b f).keys = s.keys := rfl
@[simp] theorem State.modBar_steward (s : State) (sid b : Nat) (f : Barrier → Barrier) :
    (s.modBar sid b f).steward = s.steward := rfl
@[simp] theorem State.modBar_writes (s : State) (sid b : Nat) (f : Barrier → Barrier) :
    (s.modBar sid b f).writes = s.writes := rfl
@[simp] theorem State.modBar_copies (s : State) (sid b : Nat) (f : Barrier → Barrier) :
    (s.modBar sid b f).copies = s.copies := rfl
@[simp] theorem State.modBar_msgs (s : State) (sid b : Nat) (f : Barrier → Barrier) : (s.modBar sid b f).msgs = s.msgs := rfl
@[simp] theorem State.modBar_packets (s : State) (sid b : Nat) (f : Barrier → Barrier) :
    (s.modBar sid b f).packets = s.packets := rfl
@[simp] theorem State.modBar_markers (s : State) (sid b : Nat) (f : Barrier → Barrier) :
    (s.modBar sid b f).markers = s.markers := rfl
@[simp] theorem State.modBar_replicas (s : State) (sid b : Nat) (f : Barrier → Barrier) :
    (s.modBar sid b f).replicas = s.replicas := rfl
@[simp] theorem State.modBar_migrations (s : State) (sid b : Nat) (f : Barrier → Barrier) :
    (s.modBar sid b f).migrations = s.migrations := rfl
@[simp] theorem State.modBar_audits (s : State) (sid b : Nat) (f : Barrier → Barrier) :
    (s.modBar sid b f).audits = s.audits := rfl
@[simp] theorem State.modBar_requests (s : State) (sid b : Nat) (f : Barrier → Barrier) :
    (s.modBar sid b f).requests = s.requests := rfl
@[simp] theorem State.modBar_requestNo (s : State) (sid b : Nat) (f : Barrier → Barrier) :
    (s.modBar sid b f).requestNo = s.requestNo := rfl
@[simp] theorem State.modBar_imageTag (s : State) (sid b : Nat) (f : Barrier → Barrier) :
    (s.modBar sid b f).imageTag = s.imageTag := rfl
@[simp] theorem State.modBar_placeStop (s : State) (sid b : Nat) (f : Barrier → Barrier) :
    (s.modBar sid b f).placeStop = s.placeStop := rfl
@[simp] theorem State.modBar_unreachable (s : State) (sid b : Nat) (f : Barrier → Barrier) :
    (s.modBar sid b f).unreachable = s.unreachable := rfl
@[simp] theorem State.modBar_incarnations (s : State) (sid b : Nat) (f : Barrier → Barrier) :
    (s.modBar sid b f).incarnations = s.incarnations := rfl
@[simp] theorem State.modBar_images (s : State) (sid b : Nat) (f : Barrier → Barrier) :
    (s.modBar sid b f).images = s.images := rfl
@[simp] theorem State.modBar_due (s : State) (sid b : Nat) (f : Barrier → Barrier) :
    (s.modBar sid b f).due = s.due := rfl
@[simp] theorem State.modBar_raisedAt (s : State) (sid b : Nat) (f : Barrier → Barrier) :
    (s.modBar sid b f).raisedAt = s.raisedAt := rfl
@[simp] theorem State.modBar_inputs (s : State) (sid b : Nat) (f : Barrier → Barrier) :
    (s.modBar sid b f).inputs = s.inputs := rfl
@[simp] theorem State.modCopy_mem (s : State) (id : Nat) (f : Copy → Copy) : (s.modCopy id f).mem = s.mem := rfl
@[simp] theorem State.modCopy_atoms (s : State) (id : Nat) (f : Copy → Copy) : (s.modCopy id f).atoms = s.atoms := rfl
@[simp] theorem State.modCopy_now (s : State) (id : Nat) (f : Copy → Copy) : (s.modCopy id f).now = s.now := rfl
@[simp] theorem State.modCopy_choices (s : State) (id : Nat) (f : Copy → Copy) : (s.modCopy id f).choices = s.choices := rfl
@[simp] theorem State.modCopy_issue (s : State) (id : Nat) (f : Copy → Copy) : (s.modCopy id f).issue = s.issue := rfl
@[simp] theorem State.modCopy_nextId (s : State) (id : Nat) (f : Copy → Copy) : (s.modCopy id f).nextId = s.nextId := rfl
@[simp] theorem State.modCopy_sheets (s : State) (id : Nat) (f : Copy → Copy) : (s.modCopy id f).sheets = s.sheets := rfl
@[simp] theorem State.modCopy_shadows (s : State) (id : Nat) (f : Copy → Copy) : (s.modCopy id f).shadows = s.shadows := rfl
@[simp] theorem State.modCopy_launches (s : State) (id : Nat) (f : Copy → Copy) :
    (s.modCopy id f).launches = s.launches := rfl
@[simp] theorem State.modCopy_ctxs (s : State) (id : Nat) (f : Copy → Copy) : (s.modCopy id f).ctxs = s.ctxs := rfl
@[simp] theorem State.modCopy_parts (s : State) (id : Nat) (f : Copy → Copy) : (s.modCopy id f).parts = s.parts := rfl
@[simp] theorem State.modCopy_clusters (s : State) (id : Nat) (f : Copy → Copy) :
    (s.modCopy id f).clusters = s.clusters := rfl
@[simp] theorem State.modCopy_dies (s : State) (id : Nat) (f : Copy → Copy) : (s.modCopy id f).dies = s.dies := rfl
@[simp] theorem State.modCopy_keys (s : State) (id : Nat) (f : Copy → Copy) : (s.modCopy id f).keys = s.keys := rfl
@[simp] theorem State.modCopy_steward (s : State) (id : Nat) (f : Copy → Copy) : (s.modCopy id f).steward = s.steward := rfl
@[simp] theorem State.modCopy_writes (s : State) (id : Nat) (f : Copy → Copy) : (s.modCopy id f).writes = s.writes := rfl
@[simp] theorem State.modCopy_msgs (s : State) (id : Nat) (f : Copy → Copy) : (s.modCopy id f).msgs = s.msgs := rfl
@[simp] theorem State.modCopy_packets (s : State) (id : Nat) (f : Copy → Copy) : (s.modCopy id f).packets = s.packets := rfl
@[simp] theorem State.modCopy_markers (s : State) (id : Nat) (f : Copy → Copy) : (s.modCopy id f).markers = s.markers := rfl
@[simp] theorem State.modCopy_replicas (s : State) (id : Nat) (f : Copy → Copy) :
    (s.modCopy id f).replicas = s.replicas := rfl
@[simp] theorem State.modCopy_migrations (s : State) (id : Nat) (f : Copy → Copy) :
    (s.modCopy id f).migrations = s.migrations := rfl
@[simp] theorem State.modCopy_audits (s : State) (id : Nat) (f : Copy → Copy) : (s.modCopy id f).audits = s.audits := rfl
@[simp] theorem State.modCopy_requests (s : State) (id : Nat) (f : Copy → Copy) :
    (s.modCopy id f).requests = s.requests := rfl
@[simp] theorem State.modCopy_requestNo (s : State) (id : Nat) (f : Copy → Copy) :
    (s.modCopy id f).requestNo = s.requestNo := rfl
@[simp] theorem State.modCopy_imageTag (s : State) (id : Nat) (f : Copy → Copy) :
    (s.modCopy id f).imageTag = s.imageTag := rfl
@[simp] theorem State.modCopy_placeStop (s : State) (id : Nat) (f : Copy → Copy) :
    (s.modCopy id f).placeStop = s.placeStop := rfl
@[simp] theorem State.modCopy_unreachable (s : State) (id : Nat) (f : Copy → Copy) :
    (s.modCopy id f).unreachable = s.unreachable := rfl
@[simp] theorem State.modCopy_incarnations (s : State) (id : Nat) (f : Copy → Copy) :
    (s.modCopy id f).incarnations = s.incarnations := rfl
@[simp] theorem State.modCopy_images (s : State) (id : Nat) (f : Copy → Copy) : (s.modCopy id f).images = s.images := rfl
@[simp] theorem State.modCopy_due (s : State) (id : Nat) (f : Copy → Copy) : (s.modCopy id f).due = s.due := rfl
@[simp] theorem State.modCopy_raisedAt (s : State) (id : Nat) (f : Copy → Copy) : (s.modCopy id f).raisedAt = s.raisedAt := rfl
@[simp] theorem State.modCopy_inputs (s : State) (id : Nat) (f : Copy → Copy) : (s.modCopy id f).inputs = s.inputs := rfl
@[simp] theorem State.drew_mem (s : State) : (s.drew).mem = s.mem := rfl
@[simp] theorem State.drew_atoms (s : State) : (s.drew).atoms = s.atoms := rfl
@[simp] theorem State.drew_now (s : State) : (s.drew).now = s.now := rfl
@[simp] theorem State.drew_issue (s : State) : (s.drew).issue = s.issue := rfl
@[simp] theorem State.drew_nextId (s : State) : (s.drew).nextId = s.nextId := rfl
@[simp] theorem State.drew_sheets (s : State) : (s.drew).sheets = s.sheets := rfl
@[simp] theorem State.drew_shadows (s : State) : (s.drew).shadows = s.shadows := rfl
@[simp] theorem State.drew_launches (s : State) : (s.drew).launches = s.launches := rfl
@[simp] theorem State.drew_ctxs (s : State) : (s.drew).ctxs = s.ctxs := rfl
@[simp] theorem State.drew_parts (s : State) : (s.drew).parts = s.parts := rfl
@[simp] theorem State.drew_clusters (s : State) : (s.drew).clusters = s.clusters := rfl
@[simp] theorem State.drew_dies (s : State) : (s.drew).dies = s.dies := rfl
@[simp] theorem State.drew_keys (s : State) : (s.drew).keys = s.keys := rfl
@[simp] theorem State.drew_steward (s : State) : (s.drew).steward = s.steward := rfl
@[simp] theorem State.drew_writes (s : State) : (s.drew).writes = s.writes := rfl
@[simp] theorem State.drew_copies (s : State) : (s.drew).copies = s.copies := rfl
@[simp] theorem State.drew_msgs (s : State) : (s.drew).msgs = s.msgs := rfl
@[simp] theorem State.drew_packets (s : State) : (s.drew).packets = s.packets := rfl
@[simp] theorem State.drew_markers (s : State) : (s.drew).markers = s.markers := rfl
@[simp] theorem State.drew_replicas (s : State) : (s.drew).replicas = s.replicas := rfl
@[simp] theorem State.drew_migrations (s : State) : (s.drew).migrations = s.migrations := rfl
@[simp] theorem State.drew_audits (s : State) : (s.drew).audits = s.audits := rfl
@[simp] theorem State.drew_requests (s : State) : (s.drew).requests = s.requests := rfl
@[simp] theorem State.drew_requestNo (s : State) : (s.drew).requestNo = s.requestNo := rfl
@[simp] theorem State.drew_imageTag (s : State) : (s.drew).imageTag = s.imageTag := rfl
@[simp] theorem State.drew_placeStop (s : State) : (s.drew).placeStop = s.placeStop := rfl
@[simp] theorem State.drew_unreachable (s : State) : (s.drew).unreachable = s.unreachable := rfl
@[simp] theorem State.drew_incarnations (s : State) : (s.drew).incarnations = s.incarnations := rfl
@[simp] theorem State.drew_images (s : State) : (s.drew).images = s.images := rfl
@[simp] theorem State.drew_due (s : State) : (s.drew).due = s.due := rfl
@[simp] theorem State.drew_raisedAt (s : State) : (s.drew).raisedAt = s.raisedAt := rfl
@[simp] theorem State.drew_inputs (s : State) : (s.drew).inputs = s.inputs := rfl
@[simp] theorem State.fresh_mem (s : State) : (s.fresh).mem = s.mem := rfl
@[simp] theorem State.fresh_atoms (s : State) : (s.fresh).atoms = s.atoms := rfl
@[simp] theorem State.fresh_now (s : State) : (s.fresh).now = s.now := rfl
@[simp] theorem State.fresh_choices (s : State) : (s.fresh).choices = s.choices := rfl
@[simp] theorem State.fresh_issue (s : State) : (s.fresh).issue = s.issue := rfl
@[simp] theorem State.fresh_sheets (s : State) : (s.fresh).sheets = s.sheets := rfl
@[simp] theorem State.fresh_shadows (s : State) : (s.fresh).shadows = s.shadows := rfl
@[simp] theorem State.fresh_launches (s : State) : (s.fresh).launches = s.launches := rfl
@[simp] theorem State.fresh_ctxs (s : State) : (s.fresh).ctxs = s.ctxs := rfl
@[simp] theorem State.fresh_parts (s : State) : (s.fresh).parts = s.parts := rfl
@[simp] theorem State.fresh_clusters (s : State) : (s.fresh).clusters = s.clusters := rfl
@[simp] theorem State.fresh_dies (s : State) : (s.fresh).dies = s.dies := rfl
@[simp] theorem State.fresh_keys (s : State) : (s.fresh).keys = s.keys := rfl
@[simp] theorem State.fresh_steward (s : State) : (s.fresh).steward = s.steward := rfl
@[simp] theorem State.fresh_writes (s : State) : (s.fresh).writes = s.writes := rfl
@[simp] theorem State.fresh_copies (s : State) : (s.fresh).copies = s.copies := rfl
@[simp] theorem State.fresh_msgs (s : State) : (s.fresh).msgs = s.msgs := rfl
@[simp] theorem State.fresh_packets (s : State) : (s.fresh).packets = s.packets := rfl
@[simp] theorem State.fresh_markers (s : State) : (s.fresh).markers = s.markers := rfl
@[simp] theorem State.fresh_replicas (s : State) : (s.fresh).replicas = s.replicas := rfl
@[simp] theorem State.fresh_migrations (s : State) : (s.fresh).migrations = s.migrations := rfl
@[simp] theorem State.fresh_audits (s : State) : (s.fresh).audits = s.audits := rfl
@[simp] theorem State.fresh_requests (s : State) : (s.fresh).requests = s.requests := rfl
@[simp] theorem State.fresh_requestNo (s : State) : (s.fresh).requestNo = s.requestNo := rfl
@[simp] theorem State.fresh_imageTag (s : State) : (s.fresh).imageTag = s.imageTag := rfl
@[simp] theorem State.fresh_placeStop (s : State) : (s.fresh).placeStop = s.placeStop := rfl
@[simp] theorem State.fresh_unreachable (s : State) : (s.fresh).unreachable = s.unreachable := rfl
@[simp] theorem State.fresh_incarnations (s : State) : (s.fresh).incarnations = s.incarnations := rfl
@[simp] theorem State.fresh_images (s : State) : (s.fresh).images = s.images := rfl
@[simp] theorem State.fresh_due (s : State) : (s.fresh).due = s.due := rfl
@[simp] theorem State.fresh_raisedAt (s : State) : (s.fresh).raisedAt = s.raisedAt := rfl
@[simp] theorem State.fresh_inputs (s : State) : (s.fresh).inputs = s.inputs := rfl
@[simp] theorem State.putAtom_mem (s : State) (pa : Nat) (a : Atom) : (s.putAtom pa a).mem = s.mem := rfl
@[simp] theorem State.putAtom_now (s : State) (pa : Nat) (a : Atom) : (s.putAtom pa a).now = s.now := rfl
@[simp] theorem State.putAtom_choices (s : State) (pa : Nat) (a : Atom) : (s.putAtom pa a).choices = s.choices := rfl
@[simp] theorem State.putAtom_issue (s : State) (pa : Nat) (a : Atom) : (s.putAtom pa a).issue = s.issue := rfl
@[simp] theorem State.putAtom_nextId (s : State) (pa : Nat) (a : Atom) : (s.putAtom pa a).nextId = s.nextId := rfl
@[simp] theorem State.putAtom_sheets (s : State) (pa : Nat) (a : Atom) : (s.putAtom pa a).sheets = s.sheets := rfl
@[simp] theorem State.putAtom_shadows (s : State) (pa : Nat) (a : Atom) : (s.putAtom pa a).shadows = s.shadows := rfl
@[simp] theorem State.putAtom_launches (s : State) (pa : Nat) (a : Atom) : (s.putAtom pa a).launches = s.launches := rfl
@[simp] theorem State.putAtom_ctxs (s : State) (pa : Nat) (a : Atom) : (s.putAtom pa a).ctxs = s.ctxs := rfl
@[simp] theorem State.putAtom_parts (s : State) (pa : Nat) (a : Atom) : (s.putAtom pa a).parts = s.parts := rfl
@[simp] theorem State.putAtom_clusters (s : State) (pa : Nat) (a : Atom) : (s.putAtom pa a).clusters = s.clusters := rfl
@[simp] theorem State.putAtom_dies (s : State) (pa : Nat) (a : Atom) : (s.putAtom pa a).dies = s.dies := rfl
@[simp] theorem State.putAtom_keys (s : State) (pa : Nat) (a : Atom) : (s.putAtom pa a).keys = s.keys := rfl
@[simp] theorem State.putAtom_steward (s : State) (pa : Nat) (a : Atom) : (s.putAtom pa a).steward = s.steward := rfl
@[simp] theorem State.putAtom_writes (s : State) (pa : Nat) (a : Atom) : (s.putAtom pa a).writes = s.writes := rfl
@[simp] theorem State.putAtom_copies (s : State) (pa : Nat) (a : Atom) : (s.putAtom pa a).copies = s.copies := rfl
@[simp] theorem State.putAtom_msgs (s : State) (pa : Nat) (a : Atom) : (s.putAtom pa a).msgs = s.msgs := rfl
@[simp] theorem State.putAtom_packets (s : State) (pa : Nat) (a : Atom) : (s.putAtom pa a).packets = s.packets := rfl
@[simp] theorem State.putAtom_markers (s : State) (pa : Nat) (a : Atom) : (s.putAtom pa a).markers = s.markers := rfl
@[simp] theorem State.putAtom_replicas (s : State) (pa : Nat) (a : Atom) : (s.putAtom pa a).replicas = s.replicas := rfl
@[simp] theorem State.putAtom_migrations (s : State) (pa : Nat) (a : Atom) :
    (s.putAtom pa a).migrations = s.migrations := rfl
@[simp] theorem State.putAtom_audits (s : State) (pa : Nat) (a : Atom) : (s.putAtom pa a).audits = s.audits := rfl
@[simp] theorem State.putAtom_requests (s : State) (pa : Nat) (a : Atom) : (s.putAtom pa a).requests = s.requests := rfl
@[simp] theorem State.putAtom_requestNo (s : State) (pa : Nat) (a : Atom) : (s.putAtom pa a).requestNo = s.requestNo := rfl
@[simp] theorem State.putAtom_imageTag (s : State) (pa : Nat) (a : Atom) : (s.putAtom pa a).imageTag = s.imageTag := rfl
@[simp] theorem State.putAtom_placeStop (s : State) (pa : Nat) (a : Atom) : (s.putAtom pa a).placeStop = s.placeStop := rfl
@[simp] theorem State.putAtom_unreachable (s : State) (pa : Nat) (a : Atom) :
    (s.putAtom pa a).unreachable = s.unreachable := rfl
@[simp] theorem State.putAtom_incarnations (s : State) (pa : Nat) (a : Atom) :
    (s.putAtom pa a).incarnations = s.incarnations := rfl
@[simp] theorem State.putAtom_images (s : State) (pa : Nat) (a : Atom) : (s.putAtom pa a).images = s.images := rfl
@[simp] theorem State.putAtom_due (s : State) (pa : Nat) (a : Atom) : (s.putAtom pa a).due = s.due := rfl
@[simp] theorem State.putAtom_raisedAt (s : State) (pa : Nat) (a : Atom) : (s.putAtom pa a).raisedAt = s.raisedAt := rfl
@[simp] theorem State.putAtom_inputs (s : State) (pa : Nat) (a : Atom) : (s.putAtom pa a).inputs = s.inputs := rfl
@[simp] theorem State.pinDown_mem (s : State) (k : Nat) : (s.pinDown k).mem = s.mem := rfl
@[simp] theorem State.pinDown_atoms (s : State) (k : Nat) : (s.pinDown k).atoms = s.atoms := rfl
@[simp] theorem State.pinDown_now (s : State) (k : Nat) : (s.pinDown k).now = s.now := rfl
@[simp] theorem State.pinDown_choices (s : State) (k : Nat) : (s.pinDown k).choices = s.choices := rfl
@[simp] theorem State.pinDown_issue (s : State) (k : Nat) : (s.pinDown k).issue = s.issue := rfl
@[simp] theorem State.pinDown_nextId (s : State) (k : Nat) : (s.pinDown k).nextId = s.nextId := rfl
@[simp] theorem State.pinDown_shadows (s : State) (k : Nat) : (s.pinDown k).shadows = s.shadows := rfl
@[simp] theorem State.pinDown_launches (s : State) (k : Nat) : (s.pinDown k).launches = s.launches := rfl
@[simp] theorem State.pinDown_ctxs (s : State) (k : Nat) : (s.pinDown k).ctxs = s.ctxs := rfl
@[simp] theorem State.pinDown_parts (s : State) (k : Nat) : (s.pinDown k).parts = s.parts := rfl
@[simp] theorem State.pinDown_clusters (s : State) (k : Nat) : (s.pinDown k).clusters = s.clusters := rfl
@[simp] theorem State.pinDown_dies (s : State) (k : Nat) : (s.pinDown k).dies = s.dies := rfl
@[simp] theorem State.pinDown_keys (s : State) (k : Nat) : (s.pinDown k).keys = s.keys := rfl
@[simp] theorem State.pinDown_steward (s : State) (k : Nat) : (s.pinDown k).steward = s.steward := rfl
@[simp] theorem State.pinDown_writes (s : State) (k : Nat) : (s.pinDown k).writes = s.writes := rfl
@[simp] theorem State.pinDown_copies (s : State) (k : Nat) : (s.pinDown k).copies = s.copies := rfl
@[simp] theorem State.pinDown_msgs (s : State) (k : Nat) : (s.pinDown k).msgs = s.msgs := rfl
@[simp] theorem State.pinDown_packets (s : State) (k : Nat) : (s.pinDown k).packets = s.packets := rfl
@[simp] theorem State.pinDown_markers (s : State) (k : Nat) : (s.pinDown k).markers = s.markers := rfl
@[simp] theorem State.pinDown_replicas (s : State) (k : Nat) : (s.pinDown k).replicas = s.replicas := rfl
@[simp] theorem State.pinDown_migrations (s : State) (k : Nat) : (s.pinDown k).migrations = s.migrations := rfl
@[simp] theorem State.pinDown_audits (s : State) (k : Nat) : (s.pinDown k).audits = s.audits := rfl
@[simp] theorem State.pinDown_requests (s : State) (k : Nat) : (s.pinDown k).requests = s.requests := rfl
@[simp] theorem State.pinDown_requestNo (s : State) (k : Nat) : (s.pinDown k).requestNo = s.requestNo := rfl
@[simp] theorem State.pinDown_imageTag (s : State) (k : Nat) : (s.pinDown k).imageTag = s.imageTag := rfl
@[simp] theorem State.pinDown_placeStop (s : State) (k : Nat) : (s.pinDown k).placeStop = s.placeStop := rfl
@[simp] theorem State.pinDown_unreachable (s : State) (k : Nat) : (s.pinDown k).unreachable = s.unreachable := rfl
@[simp] theorem State.pinDown_incarnations (s : State) (k : Nat) : (s.pinDown k).incarnations = s.incarnations := rfl
@[simp] theorem State.pinDown_images (s : State) (k : Nat) : (s.pinDown k).images = s.images := rfl
@[simp] theorem State.pinDown_due (s : State) (k : Nat) : (s.pinDown k).due = s.due := rfl
@[simp] theorem State.pinDown_raisedAt (s : State) (k : Nat) : (s.pinDown k).raisedAt = s.raisedAt := rfl
@[simp] theorem State.pinDown_inputs (s : State) (k : Nat) : (s.pinDown k).inputs = s.inputs := rfl
@[simp] theorem State.noAudit_mem (s : State) (k : Nat) : (s.noAudit k).mem = s.mem := rfl
@[simp] theorem State.noAudit_atoms (s : State) (k : Nat) : (s.noAudit k).atoms = s.atoms := rfl
@[simp] theorem State.noAudit_now (s : State) (k : Nat) : (s.noAudit k).now = s.now := rfl
@[simp] theorem State.noAudit_choices (s : State) (k : Nat) : (s.noAudit k).choices = s.choices := rfl
@[simp] theorem State.noAudit_issue (s : State) (k : Nat) : (s.noAudit k).issue = s.issue := rfl
@[simp] theorem State.noAudit_nextId (s : State) (k : Nat) : (s.noAudit k).nextId = s.nextId := rfl
@[simp] theorem State.noAudit_shadows (s : State) (k : Nat) : (s.noAudit k).shadows = s.shadows := rfl
@[simp] theorem State.noAudit_launches (s : State) (k : Nat) : (s.noAudit k).launches = s.launches := rfl
@[simp] theorem State.noAudit_ctxs (s : State) (k : Nat) : (s.noAudit k).ctxs = s.ctxs := rfl
@[simp] theorem State.noAudit_parts (s : State) (k : Nat) : (s.noAudit k).parts = s.parts := rfl
@[simp] theorem State.noAudit_clusters (s : State) (k : Nat) : (s.noAudit k).clusters = s.clusters := rfl
@[simp] theorem State.noAudit_dies (s : State) (k : Nat) : (s.noAudit k).dies = s.dies := rfl
@[simp] theorem State.noAudit_keys (s : State) (k : Nat) : (s.noAudit k).keys = s.keys := rfl
@[simp] theorem State.noAudit_steward (s : State) (k : Nat) : (s.noAudit k).steward = s.steward := rfl
@[simp] theorem State.noAudit_writes (s : State) (k : Nat) : (s.noAudit k).writes = s.writes := rfl
@[simp] theorem State.noAudit_copies (s : State) (k : Nat) : (s.noAudit k).copies = s.copies := rfl
@[simp] theorem State.noAudit_msgs (s : State) (k : Nat) : (s.noAudit k).msgs = s.msgs := rfl
@[simp] theorem State.noAudit_packets (s : State) (k : Nat) : (s.noAudit k).packets = s.packets := rfl
@[simp] theorem State.noAudit_markers (s : State) (k : Nat) : (s.noAudit k).markers = s.markers := rfl
@[simp] theorem State.noAudit_replicas (s : State) (k : Nat) : (s.noAudit k).replicas = s.replicas := rfl
@[simp] theorem State.noAudit_migrations (s : State) (k : Nat) : (s.noAudit k).migrations = s.migrations := rfl
@[simp] theorem State.noAudit_audits (s : State) (k : Nat) : (s.noAudit k).audits = s.audits := rfl
@[simp] theorem State.noAudit_requests (s : State) (k : Nat) : (s.noAudit k).requests = s.requests := rfl
@[simp] theorem State.noAudit_requestNo (s : State) (k : Nat) : (s.noAudit k).requestNo = s.requestNo := rfl
@[simp] theorem State.noAudit_imageTag (s : State) (k : Nat) : (s.noAudit k).imageTag = s.imageTag := rfl
@[simp] theorem State.noAudit_placeStop (s : State) (k : Nat) : (s.noAudit k).placeStop = s.placeStop := rfl
@[simp] theorem State.noAudit_unreachable (s : State) (k : Nat) : (s.noAudit k).unreachable = s.unreachable := rfl
@[simp] theorem State.noAudit_incarnations (s : State) (k : Nat) : (s.noAudit k).incarnations = s.incarnations := rfl
@[simp] theorem State.noAudit_images (s : State) (k : Nat) : (s.noAudit k).images = s.images := rfl
@[simp] theorem State.noAudit_due (s : State) (k : Nat) : (s.noAudit k).due = s.due := rfl
@[simp] theorem State.noAudit_raisedAt (s : State) (k : Nat) : (s.noAudit k).raisedAt = s.raisedAt := rfl
@[simp] theorem State.noAudit_inputs (s : State) (k : Nat) : (s.noAudit k).inputs = s.inputs := rfl

/-! ### Updates of a sheet -/

@[simp] theorem Sheet.modGang_ctx (h : Sheet) (g : Nat) (f : Gang → Gang) : (h.modGang g f).ctx = h.ctx := rfl
@[simp] theorem Sheet.modGang_launch (h : Sheet) (g : Nat) (f : Gang → Gang) : (h.modGang g f).launch = h.launch := rfl
@[simp] theorem Sheet.modGang_index (h : Sheet) (g : Nat) (f : Gang → Gang) : (h.modGang g f).index = h.index := rfl
@[simp] theorem Sheet.modGang_W (h : Sheet) (g : Nat) (f : Gang → Gang) : (h.modGang g f).W = h.W := rfl
@[simp] theorem Sheet.modGang_T (h : Sheet) (g : Nat) (f : Gang → Gang) : (h.modGang g f).T = h.T := rfl
@[simp] theorem Sheet.modGang_nv (h : Sheet) (g : Nat) (f : Gang → Gang) : (h.modGang g f).nv = h.nv := rfl
@[simp] theorem Sheet.modGang_na (h : Sheet) (g : Nat) (f : Gang → Gang) : (h.modGang g f).na = h.na := rfl
@[simp] theorem Sheet.modGang_spg (h : Sheet) (g : Nat) (f : Gang → Gang) : (h.modGang g f).spg = h.spg := rfl
@[simp] theorem Sheet.modGang_pool (h : Sheet) (g : Nat) (f : Gang → Gang) : (h.modGang g f).pool = h.pool := rfl
@[simp] theorem Sheet.modGang_duct (h : Sheet) (g : Nat) (f : Gang → Gang) : (h.modGang g f).duct = h.duct := rfl
@[simp] theorem Sheet.modGang_diexy (h : Sheet) (g : Nat) (f : Gang → Gang) : (h.modGang g f).diexy = h.diexy := rfl
@[simp] theorem Sheet.modGang_spad (h : Sheet) (g : Nat) (f : Gang → Gang) : (h.modGang g f).spad = h.spad := rfl
@[simp] theorem Sheet.modGang_bad (h : Sheet) (g : Nat) (f : Gang → Gang) : (h.modGang g f).bad = h.bad := rfl
@[simp] theorem Sheet.modGang_lines (h : Sheet) (g : Nat) (f : Gang → Gang) : (h.modGang g f).lines = h.lines := rfl
@[simp] theorem Sheet.modGang_epoch (h : Sheet) (g : Nat) (f : Gang → Gang) : (h.modGang g f).epoch = h.epoch := rfl
@[simp] theorem Sheet.modGang_bars (h : Sheet) (g : Nat) (f : Gang → Gang) : (h.modGang g f).bars = h.bars := rfl
@[simp] theorem Sheet.modGang_queues (h : Sheet) (g : Nat) (f : Gang → Gang) : (h.modGang g f).queues = h.queues := rfl
@[simp] theorem Sheet.modGang_counters (h : Sheet) (g : Nat) (f : Gang → Gang) : (h.modGang g f).counters = h.counters := rfl
@[simp] theorem Sheet.modGang_fmt (h : Sheet) (g : Nat) (f : Gang → Gang) : (h.modGang g f).fmt = h.fmt := rfl
@[simp] theorem Sheet.modGang_preq (h : Sheet) (g : Nat) (f : Gang → Gang) : (h.modGang g f).preq = h.preq := rfl
@[simp] theorem Sheet.modGang_cyc (h : Sheet) (g : Nat) (f : Gang → Gang) : (h.modGang g f).cyc = h.cyc := rfl
@[simp] theorem Sheet.modGang_wstretch (h : Sheet) (g : Nat) (f : Gang → Gang) : (h.modGang g f).wstretch = h.wstretch := rfl
@[simp] theorem Sheet.modGang_mseq (h : Sheet) (g : Nat) (f : Gang → Gang) : (h.modGang g f).mseq = h.mseq := rfl
@[simp] theorem Sheet.modGang_cseq (h : Sheet) (g : Nat) (f : Gang → Gang) : (h.modGang g f).cseq = h.cseq := rfl
@[simp] theorem Sheet.modGang_matches_ (h : Sheet) (g : Nat) (f : Gang → Gang) : (h.modGang g f).matches_ = h.matches_ := rfl
@[simp] theorem Sheet.modGang_pend (h : Sheet) (g : Nat) (f : Gang → Gang) : (h.modGang g f).pend = h.pend := rfl
@[simp] theorem Sheet.modGang_dead (h : Sheet) (g : Nat) (f : Gang → Gang) : (h.modGang g f).dead = h.dead := rfl
@[simp] theorem Sheet.modGang_recs (h : Sheet) (g : Nat) (f : Gang → Gang) : (h.modGang g f).recs = h.recs := rfl
@[simp] theorem Sheet.modGang_ivl (h : Sheet) (g : Nat) (f : Gang → Gang) : (h.modGang g f).ivl = h.ivl := rfl
@[simp] theorem Sheet.modGang_home (h : Sheet) (g : Nat) (f : Gang → Gang) : (h.modGang g f).home = h.home := rfl
@[simp] theorem Sheet.modGang_order (h : Sheet) (g : Nat) (f : Gang → Gang) : (h.modGang g f).order = h.order := rfl
@[simp] theorem Sheet.modGang_placedAt (h : Sheet) (g : Nat) (f : Gang → Gang) : (h.modGang g f).placedAt = h.placedAt := rfl
@[simp] theorem Sheet.modGang_firstAt (h : Sheet) (g : Nat) (f : Gang → Gang) : (h.modGang g f).firstAt = h.firstAt := rfl
@[simp] theorem Sheet.modGang_errAt (h : Sheet) (g : Nat) (f : Gang → Gang) : (h.modGang g f).errAt = h.errAt := rfl
@[simp] theorem Sheet.modGang_arrivals (h : Sheet) (g : Nat) (f : Gang → Gang) : (h.modGang g f).arrivals = h.arrivals := rfl
@[simp] theorem Sheet.modGang_sig (h : Sheet) (g : Nat) (f : Gang → Gang) : (h.modGang g f).sig = h.sig := rfl
@[simp] theorem Sheet.modGang_noAudit (h : Sheet) (g : Nat) (f : Gang → Gang) : (h.modGang g f).noAudit = h.noAudit := rfl
@[simp] theorem Sheet.modGang_replay (h : Sheet) (g : Nat) (f : Gang → Gang) : (h.modGang g f).replay = h.replay := rfl
@[simp] theorem Sheet.modGang_deadlockDue (h : Sheet) (g : Nat) (f : Gang → Gang) :
    (h.modGang g f).deadlockDue = h.deadlockDue := rfl
@[simp] theorem Sheet.modGang_killed (h : Sheet) (g : Nat) (f : Gang → Gang) : (h.modGang g f).killed = h.killed := rfl
@[simp] theorem Sheet.modGang_loss (h : Sheet) (g : Nat) (f : Gang → Gang) : (h.modGang g f).loss = h.loss := rfl
@[simp] theorem Sheet.modGang_request (h : Sheet) (g : Nat) (f : Gang → Gang) : (h.modGang g f).request = h.request := rfl
@[simp] theorem Sheet.modGang_resided (h : Sheet) (g : Nat) (f : Gang → Gang) : (h.modGang g f).resided = h.resided := rfl
@[simp] theorem Sheet.modGang_asideAt (h : Sheet) (g : Nat) (f : Gang → Gang) : (h.modGang g f).asideAt = h.asideAt := rfl
@[simp] theorem Sheet.modGang_lastDie (h : Sheet) (g : Nat) (f : Gang → Gang) : (h.modGang g f).lastDie = h.lastDie := rfl
@[simp] theorem Sheet.putLine_ctx (h : Sheet) (n : Nat) (x : Line) : (h.putLine n x).ctx = h.ctx := rfl
@[simp] theorem Sheet.putLine_launch (h : Sheet) (n : Nat) (x : Line) : (h.putLine n x).launch = h.launch := rfl
@[simp] theorem Sheet.putLine_index (h : Sheet) (n : Nat) (x : Line) : (h.putLine n x).index = h.index := rfl
@[simp] theorem Sheet.putLine_W (h : Sheet) (n : Nat) (x : Line) : (h.putLine n x).W = h.W := rfl
@[simp] theorem Sheet.putLine_T (h : Sheet) (n : Nat) (x : Line) : (h.putLine n x).T = h.T := rfl
@[simp] theorem Sheet.putLine_nv (h : Sheet) (n : Nat) (x : Line) : (h.putLine n x).nv = h.nv := rfl
@[simp] theorem Sheet.putLine_na (h : Sheet) (n : Nat) (x : Line) : (h.putLine n x).na = h.na := rfl
@[simp] theorem Sheet.putLine_spg (h : Sheet) (n : Nat) (x : Line) : (h.putLine n x).spg = h.spg := rfl
@[simp] theorem Sheet.putLine_pool (h : Sheet) (n : Nat) (x : Line) : (h.putLine n x).pool = h.pool := rfl
@[simp] theorem Sheet.putLine_duct (h : Sheet) (n : Nat) (x : Line) : (h.putLine n x).duct = h.duct := rfl
@[simp] theorem Sheet.putLine_diexy (h : Sheet) (n : Nat) (x : Line) : (h.putLine n x).diexy = h.diexy := rfl
@[simp] theorem Sheet.putLine_gangs (h : Sheet) (n : Nat) (x : Line) : (h.putLine n x).gangs = h.gangs := rfl
@[simp] theorem Sheet.putLine_spad (h : Sheet) (n : Nat) (x : Line) : (h.putLine n x).spad = h.spad := rfl
@[simp] theorem Sheet.putLine_bad (h : Sheet) (n : Nat) (x : Line) : (h.putLine n x).bad = h.bad := rfl
@[simp] theorem Sheet.putLine_epoch (h : Sheet) (n : Nat) (x : Line) : (h.putLine n x).epoch = h.epoch := rfl
@[simp] theorem Sheet.putLine_bars (h : Sheet) (n : Nat) (x : Line) : (h.putLine n x).bars = h.bars := rfl
@[simp] theorem Sheet.putLine_queues (h : Sheet) (n : Nat) (x : Line) : (h.putLine n x).queues = h.queues := rfl
@[simp] theorem Sheet.putLine_counters (h : Sheet) (n : Nat) (x : Line) : (h.putLine n x).counters = h.counters := rfl
@[simp] theorem Sheet.putLine_fmt (h : Sheet) (n : Nat) (x : Line) : (h.putLine n x).fmt = h.fmt := rfl
@[simp] theorem Sheet.putLine_preq (h : Sheet) (n : Nat) (x : Line) : (h.putLine n x).preq = h.preq := rfl
@[simp] theorem Sheet.putLine_cyc (h : Sheet) (n : Nat) (x : Line) : (h.putLine n x).cyc = h.cyc := rfl
@[simp] theorem Sheet.putLine_wstretch (h : Sheet) (n : Nat) (x : Line) : (h.putLine n x).wstretch = h.wstretch := rfl
@[simp] theorem Sheet.putLine_mseq (h : Sheet) (n : Nat) (x : Line) : (h.putLine n x).mseq = h.mseq := rfl
@[simp] theorem Sheet.putLine_cseq (h : Sheet) (n : Nat) (x : Line) : (h.putLine n x).cseq = h.cseq := rfl
@[simp] theorem Sheet.putLine_matches_ (h : Sheet) (n : Nat) (x : Line) : (h.putLine n x).matches_ = h.matches_ := rfl
@[simp] theorem Sheet.putLine_pend (h : Sheet) (n : Nat) (x : Line) : (h.putLine n x).pend = h.pend := rfl
@[simp] theorem Sheet.putLine_dead (h : Sheet) (n : Nat) (x : Line) : (h.putLine n x).dead = h.dead := rfl
@[simp] theorem Sheet.putLine_recs (h : Sheet) (n : Nat) (x : Line) : (h.putLine n x).recs = h.recs := rfl
@[simp] theorem Sheet.putLine_ivl (h : Sheet) (n : Nat) (x : Line) : (h.putLine n x).ivl = h.ivl := rfl
@[simp] theorem Sheet.putLine_home (h : Sheet) (n : Nat) (x : Line) : (h.putLine n x).home = h.home := rfl
@[simp] theorem Sheet.putLine_order (h : Sheet) (n : Nat) (x : Line) : (h.putLine n x).order = h.order := rfl
@[simp] theorem Sheet.putLine_placedAt (h : Sheet) (n : Nat) (x : Line) : (h.putLine n x).placedAt = h.placedAt := rfl
@[simp] theorem Sheet.putLine_firstAt (h : Sheet) (n : Nat) (x : Line) : (h.putLine n x).firstAt = h.firstAt := rfl
@[simp] theorem Sheet.putLine_errAt (h : Sheet) (n : Nat) (x : Line) : (h.putLine n x).errAt = h.errAt := rfl
@[simp] theorem Sheet.putLine_arrivals (h : Sheet) (n : Nat) (x : Line) : (h.putLine n x).arrivals = h.arrivals := rfl
@[simp] theorem Sheet.putLine_sig (h : Sheet) (n : Nat) (x : Line) : (h.putLine n x).sig = h.sig := rfl
@[simp] theorem Sheet.putLine_noAudit (h : Sheet) (n : Nat) (x : Line) : (h.putLine n x).noAudit = h.noAudit := rfl
@[simp] theorem Sheet.putLine_replay (h : Sheet) (n : Nat) (x : Line) : (h.putLine n x).replay = h.replay := rfl
@[simp] theorem Sheet.putLine_deadlockDue (h : Sheet) (n : Nat) (x : Line) :
    (h.putLine n x).deadlockDue = h.deadlockDue := rfl
@[simp] theorem Sheet.putLine_killed (h : Sheet) (n : Nat) (x : Line) : (h.putLine n x).killed = h.killed := rfl
@[simp] theorem Sheet.putLine_loss (h : Sheet) (n : Nat) (x : Line) : (h.putLine n x).loss = h.loss := rfl
@[simp] theorem Sheet.putLine_request (h : Sheet) (n : Nat) (x : Line) : (h.putLine n x).request = h.request := rfl
@[simp] theorem Sheet.putLine_resided (h : Sheet) (n : Nat) (x : Line) : (h.putLine n x).resided = h.resided := rfl
@[simp] theorem Sheet.putLine_asideAt (h : Sheet) (n : Nat) (x : Line) : (h.putLine n x).asideAt = h.asideAt := rfl
@[simp] theorem Sheet.putLine_lastDie (h : Sheet) (n : Nat) (x : Line) : (h.putLine n x).lastDie = h.lastDie := rfl
@[simp] theorem Sheet.modSeq_ctx (h : Sheet) (k : SeqKind) (f : Seq → Seq) : (h.modSeq k f).ctx = h.ctx := by cases k <;> rfl
@[simp] theorem Sheet.modSeq_launch (h : Sheet) (k : SeqKind) (f : Seq → Seq) :
    (h.modSeq k f).launch = h.launch := by cases k <;> rfl
@[simp] theorem Sheet.modSeq_index (h : Sheet) (k : SeqKind) (f : Seq → Seq) :
    (h.modSeq k f).index = h.index := by cases k <;> rfl
@[simp] theorem Sheet.modSeq_W (h : Sheet) (k : SeqKind) (f : Seq → Seq) : (h.modSeq k f).W = h.W := by cases k <;> rfl
@[simp] theorem Sheet.modSeq_T (h : Sheet) (k : SeqKind) (f : Seq → Seq) : (h.modSeq k f).T = h.T := by cases k <;> rfl
@[simp] theorem Sheet.modSeq_nv (h : Sheet) (k : SeqKind) (f : Seq → Seq) : (h.modSeq k f).nv = h.nv := by cases k <;> rfl
@[simp] theorem Sheet.modSeq_na (h : Sheet) (k : SeqKind) (f : Seq → Seq) : (h.modSeq k f).na = h.na := by cases k <;> rfl
@[simp] theorem Sheet.modSeq_spg (h : Sheet) (k : SeqKind) (f : Seq → Seq) : (h.modSeq k f).spg = h.spg := by cases k <;> rfl
@[simp] theorem Sheet.modSeq_pool (h : Sheet) (k : SeqKind) (f : Seq → Seq) :
    (h.modSeq k f).pool = h.pool := by cases k <;> rfl
@[simp] theorem Sheet.modSeq_duct (h : Sheet) (k : SeqKind) (f : Seq → Seq) :
    (h.modSeq k f).duct = h.duct := by cases k <;> rfl
@[simp] theorem Sheet.modSeq_diexy (h : Sheet) (k : SeqKind) (f : Seq → Seq) :
    (h.modSeq k f).diexy = h.diexy := by cases k <;> rfl
@[simp] theorem Sheet.modSeq_gangs (h : Sheet) (k : SeqKind) (f : Seq → Seq) :
    (h.modSeq k f).gangs = h.gangs := by cases k <;> rfl
@[simp] theorem Sheet.modSeq_spad (h : Sheet) (k : SeqKind) (f : Seq → Seq) :
    (h.modSeq k f).spad = h.spad := by cases k <;> rfl
@[simp] theorem Sheet.modSeq_bad (h : Sheet) (k : SeqKind) (f : Seq → Seq) :
    (h.modSeq k f).bad = h.bad := by cases k <;> rfl
@[simp] theorem Sheet.modSeq_lines (h : Sheet) (k : SeqKind) (f : Seq → Seq) :
    (h.modSeq k f).lines = h.lines := by cases k <;> rfl
@[simp] theorem Sheet.modSeq_epoch (h : Sheet) (k : SeqKind) (f : Seq → Seq) :
    (h.modSeq k f).epoch = h.epoch := by cases k <;> rfl
@[simp] theorem Sheet.modSeq_bars (h : Sheet) (k : SeqKind) (f : Seq → Seq) :
    (h.modSeq k f).bars = h.bars := by cases k <;> rfl
@[simp] theorem Sheet.modSeq_queues (h : Sheet) (k : SeqKind) (f : Seq → Seq) :
    (h.modSeq k f).queues = h.queues := by cases k <;> rfl
@[simp] theorem Sheet.modSeq_counters (h : Sheet) (k : SeqKind) (f : Seq → Seq) :
    (h.modSeq k f).counters = h.counters := by cases k <;> rfl
@[simp] theorem Sheet.modSeq_fmt (h : Sheet) (k : SeqKind) (f : Seq → Seq) : (h.modSeq k f).fmt = h.fmt := by cases k <;> rfl
@[simp] theorem Sheet.modSeq_preq (h : Sheet) (k : SeqKind) (f : Seq → Seq) :
    (h.modSeq k f).preq = h.preq := by cases k <;> rfl
@[simp] theorem Sheet.modSeq_cyc (h : Sheet) (k : SeqKind) (f : Seq → Seq) : (h.modSeq k f).cyc = h.cyc := by cases k <;> rfl
@[simp] theorem Sheet.modSeq_wstretch (h : Sheet) (k : SeqKind) (f : Seq → Seq) :
    (h.modSeq k f).wstretch = h.wstretch := by cases k <;> rfl
@[simp] theorem Sheet.modSeq_matches_ (h : Sheet) (k : SeqKind) (f : Seq → Seq) :
    (h.modSeq k f).matches_ = h.matches_ := by cases k <;> rfl
@[simp] theorem Sheet.modSeq_pend (h : Sheet) (k : SeqKind) (f : Seq → Seq) :
    (h.modSeq k f).pend = h.pend := by cases k <;> rfl
@[simp] theorem Sheet.modSeq_dead (h : Sheet) (k : SeqKind) (f : Seq → Seq) :
    (h.modSeq k f).dead = h.dead := by cases k <;> rfl
@[simp] theorem Sheet.modSeq_recs (h : Sheet) (k : SeqKind) (f : Seq → Seq) :
    (h.modSeq k f).recs = h.recs := by cases k <;> rfl
@[simp] theorem Sheet.modSeq_ivl (h : Sheet) (k : SeqKind) (f : Seq → Seq) : (h.modSeq k f).ivl = h.ivl := by cases k <;> rfl
@[simp] theorem Sheet.modSeq_home (h : Sheet) (k : SeqKind) (f : Seq → Seq) :
    (h.modSeq k f).home = h.home := by cases k <;> rfl
@[simp] theorem Sheet.modSeq_order (h : Sheet) (k : SeqKind) (f : Seq → Seq) :
    (h.modSeq k f).order = h.order := by cases k <;> rfl
@[simp] theorem Sheet.modSeq_placedAt (h : Sheet) (k : SeqKind) (f : Seq → Seq) :
    (h.modSeq k f).placedAt = h.placedAt := by cases k <;> rfl
@[simp] theorem Sheet.modSeq_firstAt (h : Sheet) (k : SeqKind) (f : Seq → Seq) :
    (h.modSeq k f).firstAt = h.firstAt := by cases k <;> rfl
@[simp] theorem Sheet.modSeq_errAt (h : Sheet) (k : SeqKind) (f : Seq → Seq) :
    (h.modSeq k f).errAt = h.errAt := by cases k <;> rfl
@[simp] theorem Sheet.modSeq_arrivals (h : Sheet) (k : SeqKind) (f : Seq → Seq) :
    (h.modSeq k f).arrivals = h.arrivals := by cases k <;> rfl
@[simp] theorem Sheet.modSeq_sig (h : Sheet) (k : SeqKind) (f : Seq → Seq) : (h.modSeq k f).sig = h.sig := by cases k <;> rfl
@[simp] theorem Sheet.modSeq_noAudit (h : Sheet) (k : SeqKind) (f : Seq → Seq) :
    (h.modSeq k f).noAudit = h.noAudit := by cases k <;> rfl
@[simp] theorem Sheet.modSeq_replay (h : Sheet) (k : SeqKind) (f : Seq → Seq) :
    (h.modSeq k f).replay = h.replay := by cases k <;> rfl
@[simp] theorem Sheet.modSeq_deadlockDue (h : Sheet) (k : SeqKind) (f : Seq → Seq) :
    (h.modSeq k f).deadlockDue = h.deadlockDue := by cases k <;> rfl
@[simp] theorem Sheet.modSeq_killed (h : Sheet) (k : SeqKind) (f : Seq → Seq) :
    (h.modSeq k f).killed = h.killed := by cases k <;> rfl
@[simp] theorem Sheet.modSeq_loss (h : Sheet) (k : SeqKind) (f : Seq → Seq) :
    (h.modSeq k f).loss = h.loss := by cases k <;> rfl
@[simp] theorem Sheet.modSeq_request (h : Sheet) (k : SeqKind) (f : Seq → Seq) :
    (h.modSeq k f).request = h.request := by cases k <;> rfl
@[simp] theorem Sheet.modSeq_resided (h : Sheet) (k : SeqKind) (f : Seq → Seq) :
    (h.modSeq k f).resided = h.resided := by cases k <;> rfl
@[simp] theorem Sheet.modSeq_asideAt (h : Sheet) (k : SeqKind) (f : Seq → Seq) :
    (h.modSeq k f).asideAt = h.asideAt := by cases k <;> rfl
@[simp] theorem Sheet.modSeq_lastDie (h : Sheet) (k : SeqKind) (f : Seq → Seq) :
    (h.modSeq k f).lastDie = h.lastDie := by cases k <;> rfl

/-! ### Updates of a gang -/

@[simp] theorem Gang.modThread_regs (q : Gang) (l : Nat) (f : Thread → Thread) : (q.modThread l f).regs = q.regs := rfl
@[simp] theorem Gang.modThread_atS (q : Gang) (l : Nat) (f : Thread → Thread) : (q.modThread l f).atS = q.atS := rfl
@[simp] theorem Gang.modThread_frame (q : Gang) (l : Nat) (f : Thread → Thread) : (q.modThread l f).frame = q.frame := rfl
@[simp] theorem Gang.modThread_yielded (q : Gang) (l : Nat) (f : Thread → Thread) :
    (q.modThread l f).yielded = q.yielded := rfl
@[simp] theorem Gang.modThread_readyAt (q : Gang) (l : Nat) (f : Thread → Thread) :
    (q.modThread l f).readyAt = q.readyAt := rfl
@[simp] theorem Gang.modThread_cache (q : Gang) (l : Nat) (f : Thread → Thread) :
    (q.modThread l f).cache = q.cache := rfl
@[simp] theorem Gang.modThread_tags (q : Gang) (l : Nat) (f : Thread → Thread) : (q.modThread l f).tags = q.tags := rfl
@[simp] theorem Gang.modThread_board (q : Gang) (l : Nat) (f : Thread → Thread) : (q.modThread l f).board = q.board := rfl
@[simp] theorem Gang.modThread_awaiting (q : Gang) (l : Nat) (f : Thread → Thread) :
    (q.modThread l f).awaiting = q.awaiting := rfl
@[simp] theorem Gang.modThread_emitEnd (q : Gang) (l : Nat) (f : Thread → Thread) :
    (q.modThread l f).emitEnd = q.emitEnd := rfl
@[simp] theorem Gang.modThread_entryWait (q : Gang) (l : Nat) (f : Thread → Thread) :
    (q.modThread l f).entryWait = q.entryWait := rfl
@[simp] theorem Gang.modThread_relPd (q : Gang) (l : Nat) (f : Thread → Thread) : (q.modThread l f).relPd = q.relPd := rfl
@[simp] theorem Gang.modThread_wdSpent (q : Gang) (l : Nat) (f : Thread → Thread) :
    (q.modThread l f).wdSpent = q.wdSpent := rfl
@[simp] theorem Gang.modThread_wdFrom (q : Gang) (l : Nat) (f : Thread → Thread) : (q.modThread l f).wdFrom = q.wdFrom := rfl
/-- Changing lanes changes nothing but the threads. -/
theorem Gang.modThreads_eq (q : Gang) (ls : List Nat) (f : Nat → Thread → Thread) :
    q.modThreads ls f = { q with threads := (q.modThreads ls f).threads } := by
  unfold Gang.modThreads
  induction ls generalizing q with
  | nil => rfl
  | cons l ls ih => simp only [List.foldl_cons]; exact ih (q.modThread l (f l))
@[simp] theorem Gang.modThreads_regs (q : Gang) (ls : List Nat) (f : Nat → Thread → Thread) :
    (q.modThreads ls f).regs = q.regs := by
  rw [Gang.modThreads_eq]
@[simp] theorem Gang.raiseClock_regs (q : Gang) (ls : List Nat) (t : Nat) :
    (q.raiseClock ls t).regs = q.regs := Gang.modThreads_regs ..
@[simp] theorem Gang.modThreads_atS (q : Gang) (ls : List Nat) (f : Nat → Thread → Thread) :
    (q.modThreads ls f).atS = q.atS := by
  rw [Gang.modThreads_eq]
@[simp] theorem Gang.raiseClock_atS (q : Gang) (ls : List Nat) (t : Nat) :
    (q.raiseClock ls t).atS = q.atS := Gang.modThreads_atS ..
@[simp] theorem Gang.modThreads_frame (q : Gang) (ls : List Nat) (f : Nat → Thread → Thread) :
    (q.modThreads ls f).frame = q.frame := by
  rw [Gang.modThreads_eq]
@[simp] theorem Gang.raiseClock_frame (q : Gang) (ls : List Nat) (t : Nat) :
    (q.raiseClock ls t).frame = q.frame := Gang.modThreads_frame ..
@[simp] theorem Gang.modThreads_yielded (q : Gang) (ls : List Nat) (f : Nat → Thread → Thread) :
    (q.modThreads ls f).yielded = q.yielded := by
  rw [Gang.modThreads_eq]
@[simp] theorem Gang.raiseClock_yielded (q : Gang) (ls : List Nat) (t : Nat) :
    (q.raiseClock ls t).yielded = q.yielded := Gang.modThreads_yielded ..
@[simp] theorem Gang.modThreads_readyAt (q : Gang) (ls : List Nat) (f : Nat → Thread → Thread) :
    (q.modThreads ls f).readyAt = q.readyAt := by
  rw [Gang.modThreads_eq]
@[simp] theorem Gang.modThreads_cache (q : Gang) (ls : List Nat) (f : Nat → Thread → Thread) :
    (q.modThreads ls f).cache = q.cache := by
  rw [Gang.modThreads_eq]
@[simp] theorem Gang.raiseClock_readyAt (q : Gang) (ls : List Nat) (t : Nat) :
    (q.raiseClock ls t).readyAt = q.readyAt := Gang.modThreads_readyAt ..
@[simp] theorem Gang.raiseClock_cache (q : Gang) (ls : List Nat) (t : Nat) :
    (q.raiseClock ls t).cache = q.cache := Gang.modThreads_cache ..
@[simp] theorem Gang.modThreads_tags (q : Gang) (ls : List Nat) (f : Nat → Thread → Thread) :
    (q.modThreads ls f).tags = q.tags := by
  rw [Gang.modThreads_eq]
@[simp] theorem Gang.raiseClock_tags (q : Gang) (ls : List Nat) (t : Nat) :
    (q.raiseClock ls t).tags = q.tags := Gang.modThreads_tags ..
@[simp] theorem Gang.modThreads_board (q : Gang) (ls : List Nat) (f : Nat → Thread → Thread) :
    (q.modThreads ls f).board = q.board := by
  rw [Gang.modThreads_eq]
@[simp] theorem Gang.modThreads_awaiting (q : Gang) (ls : List Nat) (f : Nat → Thread → Thread) :
    (q.modThreads ls f).awaiting = q.awaiting := by
  rw [Gang.modThreads_eq]
@[simp] theorem Gang.raiseClock_board (q : Gang) (ls : List Nat) (t : Nat) :
    (q.raiseClock ls t).board = q.board := Gang.modThreads_board ..
@[simp] theorem Gang.raiseClock_awaiting (q : Gang) (ls : List Nat) (t : Nat) :
    (q.raiseClock ls t).awaiting = q.awaiting := Gang.modThreads_awaiting ..
@[simp] theorem Gang.modThreads_emitEnd (q : Gang) (ls : List Nat) (f : Nat → Thread → Thread) :
    (q.modThreads ls f).emitEnd = q.emitEnd := by
  rw [Gang.modThreads_eq]
@[simp] theorem Gang.raiseClock_emitEnd (q : Gang) (ls : List Nat) (t : Nat) :
    (q.raiseClock ls t).emitEnd = q.emitEnd := Gang.modThreads_emitEnd ..
@[simp] theorem Gang.modThreads_entryWait (q : Gang) (ls : List Nat) (f : Nat → Thread → Thread) :
    (q.modThreads ls f).entryWait = q.entryWait := by
  rw [Gang.modThreads_eq]
@[simp] theorem Gang.raiseClock_entryWait (q : Gang) (ls : List Nat) (t : Nat) :
    (q.raiseClock ls t).entryWait = q.entryWait := Gang.modThreads_entryWait ..
@[simp] theorem Gang.modThreads_relPd (q : Gang) (ls : List Nat) (f : Nat → Thread → Thread) :
    (q.modThreads ls f).relPd = q.relPd := by
  rw [Gang.modThreads_eq]
@[simp] theorem Gang.raiseClock_relPd (q : Gang) (ls : List Nat) (t : Nat) :
    (q.raiseClock ls t).relPd = q.relPd := Gang.modThreads_relPd ..
@[simp] theorem Gang.modThreads_wdSpent (q : Gang) (ls : List Nat) (f : Nat → Thread → Thread) :
    (q.modThreads ls f).wdSpent = q.wdSpent := by
  rw [Gang.modThreads_eq]
@[simp] theorem Gang.raiseClock_wdSpent (q : Gang) (ls : List Nat) (t : Nat) :
    (q.raiseClock ls t).wdSpent = q.wdSpent := Gang.modThreads_wdSpent ..
@[simp] theorem Gang.modThreads_wdFrom (q : Gang) (ls : List Nat) (f : Nat → Thread → Thread) :
    (q.modThreads ls f).wdFrom = q.wdFrom := by
  rw [Gang.modThreads_eq]
@[simp] theorem Gang.raiseClock_wdFrom (q : Gang) (ls : List Nat) (t : Nat) :
    (q.raiseClock ls t).wdFrom = q.wdFrom := Gang.modThreads_wdFrom ..

/-! ### Writes of registers -/

@[simp] theorem Regs.setVec_s (r : Regs) (n l : Nat) (x : Word) : (r.setVec n l x).s = r.s := rfl
@[simp] theorem Regs.setVec_p (r : Regs) (n l : Nat) (x : Word) : (r.setVec n l x).p = r.p := rfl
@[simp] theorem Regs.setVec_t (r : Regs) (n l : Nat) (x : Word) : (r.setVec n l x).t = r.t := rfl
@[simp] theorem Regs.setVec_m (r : Regs) (n l : Nat) (x : Word) : (r.setVec n l x).m = r.m := rfl
@[simp] theorem Regs.setVec_a (r : Regs) (n l : Nat) (x : Word) : (r.setVec n l x).a = r.a := rfl
@[simp] theorem Regs.setUni_v (r : Regs) (n : Nat) (x : Word) : (r.setUni n x).v = r.v := rfl
@[simp] theorem Regs.setUni_p (r : Regs) (n : Nat) (x : Word) : (r.setUni n x).p = r.p := rfl
@[simp] theorem Regs.setUni_t (r : Regs) (n : Nat) (x : Word) : (r.setUni n x).t = r.t := rfl
@[simp] theorem Regs.setUni_m (r : Regs) (n : Nat) (x : Word) : (r.setUni n x).m = r.m := rfl
@[simp] theorem Regs.setUni_a (r : Regs) (n : Nat) (x : Word) : (r.setUni n x).a = r.a := rfl
@[simp] theorem Regs.setTile_v (r : Regs) (n : Nat) (x : DWord) : (r.setTile n x).v = r.v := rfl
@[simp] theorem Regs.setTile_s (r : Regs) (n : Nat) (x : DWord) : (r.setTile n x).s = r.s := rfl
@[simp] theorem Regs.setTile_p (r : Regs) (n : Nat) (x : DWord) : (r.setTile n x).p = r.p := rfl
@[simp] theorem Regs.setTile_m (r : Regs) (n : Nat) (x : DWord) : (r.setTile n x).m = r.m := rfl
@[simp] theorem Regs.setTile_a (r : Regs) (n : Nat) (x : DWord) : (r.setTile n x).a = r.a := rfl
@[simp] theorem Regs.setRejoin_v (r : Regs) (k : Nat) (x : Mask) : (r.setRejoin k x).v = r.v := rfl
@[simp] theorem Regs.setRejoin_s (r : Regs) (k : Nat) (x : Mask) : (r.setRejoin k x).s = r.s := rfl
@[simp] theorem Regs.setRejoin_p (r : Regs) (k : Nat) (x : Mask) : (r.setRejoin k x).p = r.p := rfl
@[simp] theorem Regs.setRejoin_t (r : Regs) (k : Nat) (x : Mask) : (r.setRejoin k x).t = r.t := rfl
@[simp] theorem Regs.setRejoin_a (r : Regs) (k : Nat) (x : Mask) : (r.setRejoin k x).a = r.a := rfl
@[simp] theorem Regs.setAcc_v (r : Regs) (k e : Nat) (x : Word) : (r.setAcc k e x).v = r.v := rfl
@[simp] theorem Regs.setAcc_s (r : Regs) (k e : Nat) (x : Word) : (r.setAcc k e x).s = r.s := rfl
@[simp] theorem Regs.setAcc_p (r : Regs) (k e : Nat) (x : Word) : (r.setAcc k e x).p = r.p := rfl
@[simp] theorem Regs.setAcc_t (r : Regs) (k e : Nat) (x : Word) : (r.setAcc k e x).t = r.t := rfl
@[simp] theorem Regs.setAcc_m (r : Regs) (k e : Nat) (x : Word) : (r.setAcc k e x).m = r.m := rfl
@[simp] theorem Regs.setPred_v (r : Regs) (p : Fin 8) (x : Mask) : (r.setPred p x).v = r.v := by
  unfold Regs.setPred; split <;> rfl
@[simp] theorem Regs.setPred_s (r : Regs) (p : Fin 8) (x : Mask) : (r.setPred p x).s = r.s := by
  unfold Regs.setPred; split <;> rfl
@[simp] theorem Regs.setPred_t (r : Regs) (p : Fin 8) (x : Mask) : (r.setPred p x).t = r.t := by
  unfold Regs.setPred; split <;> rfl
@[simp] theorem Regs.setPred_m (r : Regs) (p : Fin 8) (x : Mask) : (r.setPred p x).m = r.m := by
  unfold Regs.setPred; split <;> rfl
@[simp] theorem Regs.setPred_a (r : Regs) (p : Fin 8) (x : Mask) : (r.setPred p x).a = r.a := by
  unfold Regs.setPred; split <;> rfl

end Sys2Proof.Machine
end

