-- ==== Sys2Proof/Laws/Operands.lean ====
section
/-! SUPPORT. Laws of register reads and writes: what a register reads as after a write, and what each destination form
writes. -/

namespace Sys2Proof.Machine

-- One declaration after another: a thread for each would take more memory than the package may.
set_option Elab.async false

/-! ### One register -/

theorem vecKey_inj {n m l k : Nat} (hl : l < 64) (hk : k < 64) : 64 * n + l = 64 * m + k ↔ n = m ∧ l = k := by omega

theorem Regs.vec_setVec (r : Regs) (n m l k : Nat) (x : Word) (hl : l < 64) (hk : k < 64) :
    (r.setVec n l x).vec m k = if m = n ∧ k = l then x else r.vec m k := by
  simp only [Regs.setVec, Regs.vec, stGet_stPut, vecKey_inj hk hl]
@[simp] theorem Regs.uni_setVec (r : Regs) (n l m : Nat) (x : Word) : (r.setVec n l x).uni m = r.uni m := rfl
@[simp] theorem Regs.pred_setVec (r : Regs) (n l : Nat) (x : Word) (p : Fin 8) : (r.setVec n l x).pred p = r.pred p := rfl
theorem Regs.uni_setUni (r : Regs) (n m : Nat) (x : Word) : (r.setUni n x).uni m = if m = n then x else r.uni m := by
  simp only [Regs.setUni, Regs.uni, stGet_stPut]
@[simp] theorem Regs.vec_setUni (r : Regs) (n m l : Nat) (x : Word) : (r.setUni n x).vec m l = r.vec m l := rfl
@[simp] theorem Regs.pred_setUni (r : Regs) (n : Nat) (x : Word) (p : Fin 8) : (r.setUni n x).pred p = r.pred p := rfl
@[simp] theorem Regs.vec_setPred (r : Regs) (p : Fin 8) (x : Mask) (n l : Nat) : (r.setPred p x).vec n l = r.vec n l := by
  unfold Regs.setPred; split <;> rfl
@[simp] theorem Regs.uni_setPred (r : Regs) (p : Fin 8) (x : Mask) (n : Nat) : (r.setPred p x).uni n = r.uni n := by
  unfold Regs.setPred; split <;> rfl
theorem Regs.pred_setPred (r : Regs) (p q : Fin 8) (x : Mask) :
    (r.setPred p x).pred q = if q = p ∧ p.val ≠ 7 then x else r.pred q := by
  unfold Regs.setPred Regs.pred
  by_cases hp : p.val = 7
  · by_cases h : q = p <;> simp [hp, h]
  · by_cases h : q = p
    · subst h; simp [hp]
    · have h' : q.val ≠ p.val := fun e => h (Fin.ext e)
      simp [h, hp, stGet_stPut, h']
/-- p7 reads true in every lane (R51). -/
@[simp] theorem Regs.predAt_seven (r : Regs) (l : Nat) (h : l < 64) : r.predAt 7 l = true := by
  have e : (18446744073709551615 : Mask) = BitVec.allOnes 64 := by decide
  have p : r.pred 7 = BitVec.allOnes 64 := e
  rw [Regs.predAt, p, laneOn, BitVec.getLsbD_allOnes]
  simp [h]

/-! ### Lanes -/

theorem laneOn_lt {m : Mask} {l : Nat} (h : laneOn m l = true) : l < 64 := by
  unfold laneOn at h
  exact Nat.lt_of_not_le fun hge => by simp [BitVec.getLsbD_of_ge m l hge] at h
theorem mem_lanesOf {m : Mask} {W l : Nat} : l ∈ lanesOf m W ↔ l < W ∧ laneOn m l = true := by
  simp [lanesOf, List.mem_filter]
theorem View.active_lt {c : View} {g : Guard} {l : Nat} (h : l ∈ c.active g) : l < 64 := by
  simp only [View.active, View.enabled, List.mem_filter, mem_lanesOf] at h
  exact laneOn_lt h.1.2
theorem laneOn_setLane (m : Mask) (l k : Nat) (b : Bool) (hl : l < 64) :
    laneOn (setLane m l b) k = if k = l then b else laneOn m k := by
  have hp : ∀ j, (BitVec.ofNat 64 (2 ^ l)).getLsbD j = decide (j = l ∧ j < 64) := by
    intro j
    rw [BitVec.getLsbD_ofNat, Nat.testBit_two_pow]
    by_cases h : j = l <;> by_cases hj : j < 64 <;> simp_all [eq_comm]
  cases b <;> simp only [setLane, laneOn, Bool.false_eq_true, if_true, if_false, BitVec.getLsbD_or, BitVec.getLsbD_and,
    BitVec.getLsbD_not, hp]
  · by_cases h : k = l
    · subst h; simp [hl]
    · simp [h]; intro hk; exact BitVec.lt_of_getLsbD hk
  · by_cases h : k = l
    · subst h; simp [hl]
    · simp [h]

/-! ### Groups of lanes -/

theorem Regs.putLanes_eq (r : Regs) (n : Nat) (f : Nat → Word) (ls : List Nat) :
    r.putLanes n f ls = { r with v := (r.putLanes n f ls).v } := by
  unfold Regs.putLanes
  induction ls generalizing r with
  | nil => rfl
  | cons l ls ih => simp only [List.foldl_cons]; exact ih (r.setVec n l (f l))
@[simp] theorem Regs.putLanes_s (r : Regs) (n : Nat) (f : Nat → Word) (ls : List Nat) : (r.putLanes n f ls).s = r.s := by
  rw [Regs.putLanes_eq]
@[simp] theorem Regs.putLanes_p (r : Regs) (n : Nat) (f : Nat → Word) (ls : List Nat) : (r.putLanes n f ls).p = r.p := by
  rw [Regs.putLanes_eq]
@[simp] theorem Regs.putLanes_t (r : Regs) (n : Nat) (f : Nat → Word) (ls : List Nat) : (r.putLanes n f ls).t = r.t := by
  rw [Regs.putLanes_eq]
@[simp] theorem Regs.putLanes_m (r : Regs) (n : Nat) (f : Nat → Word) (ls : List Nat) : (r.putLanes n f ls).m = r.m := by
  rw [Regs.putLanes_eq]
@[simp] theorem Regs.putLanes_a (r : Regs) (n : Nat) (f : Nat → Word) (ls : List Nat) : (r.putLanes n f ls).a = r.a := by
  rw [Regs.putLanes_eq]
@[simp] theorem Regs.uni_putLanes (r : Regs) (n : Nat) (f : Nat → Word) (ls : List Nat) (m : Nat) :
    (r.putLanes n f ls).uni m = r.uni m := by simp [Regs.uni]
@[simp] theorem Regs.predAt_putLanes (r : Regs) (n : Nat) (f : Nat → Word) (ls : List Nat) (q : Fin 8) (l : Nat) :
    (r.putLanes n f ls).predAt q l = r.predAt q l := by simp [Regs.predAt, Regs.pred]
theorem Regs.vec_putLanes (r : Regs) (n m k : Nat) (f : Nat → Word) (ls : List Nat) (hls : ∀ l ∈ ls, l < 64) (hk : k < 64) :
    (r.putLanes n f ls).vec m k = if m = n ∧ k ∈ ls then f k else r.vec m k := by
  unfold Regs.putLanes
  induction ls generalizing r with
  | nil => simp
  | cons l ls ih =>
    simp only [List.foldl_cons]
    rw [ih _ fun x hx => hls x (List.mem_cons_of_mem _ hx), Regs.vec_setVec _ _ _ _ _ _ (hls l (List.mem_cons_self ..)) hk]
    by_cases h1 : m = n <;> by_cases h2 : k ∈ ls <;> by_cases h3 : k = l <;> simp_all
theorem Regs.predAt_putPred (r : Regs) (pd q : Fin 8) (ls : List Nat) (f : Nat → Bool) (k : Nat) (hls : ∀ l ∈ ls, l < 64) :
    (r.putPred pd ls f).predAt q k = if q = pd ∧ pd.val ≠ 7 ∧ k ∈ ls then f k else r.predAt q k := by
  have h : ∀ (m : Mask), laneOn (ls.foldl (fun m l => setLane m l (f l)) m) k = if k ∈ ls then f k else laneOn m k := by
    induction ls with
    | nil => simp
    | cons l ls ih =>
      intro m
      simp only [List.foldl_cons]
      rw [ih (fun x hx => hls x (List.mem_cons_of_mem _ hx)), laneOn_setLane _ _ _ _ (hls l (List.mem_cons_self ..))]
      by_cases h2 : k ∈ ls <;> by_cases h3 : k = l <;> simp_all
  simp only [Regs.putPred, Regs.predAt, Regs.pred_setPred]
  by_cases h1 : q = pd <;> by_cases h2 : pd.val = 7 <;> by_cases h3 : k ∈ ls <;> simp_all

/-! ### Destinations -/

/-- `put32` writes a 32-bit result and nothing else. -/
theorem View.put32_writes (c : View) (g : Guard) (d : Reg) (f : Nat → Word) : Writes32 c g d f (c.put32 g d f) := by
  cases d with
  | v n =>
    have h := fun m k hk => Regs.vec_putLanes c.regs n.val m k f (c.active g) (fun l => View.active_lt) hk
    refine ⟨fun l hl => ?_, ?_, ?_, ?_, ?_⟩
    · simp [View.put32, h _ _ (View.active_lt hl), hl]
    · intro m l hl hn; simp only [View.put32, h _ _ hl]; simp_all
    all_goals simp [View.put32]
  | s n =>
    simp only [Writes32, View.put32]
    by_cases h : c.acts g = true <;> simp [h, Regs.but, Regs.uni_setUni, Regs.predAt] 
    intros; simp_all

/-- `put64` writes a 64-bit result and nothing else. -/
theorem View.put64_writes (c : View) (g : Guard) (d : Reg) (f : Nat → DWord) : Writes64 c g d f (c.put64 g d f) := by
  cases d with
  | v n =>
    have ha : ∀ l ∈ c.active g, l < 64 := fun l => View.active_lt
    have h := fun m k hk => Regs.vec_putLanes (c.regs.putLanes n.val (fun l => (f l).setWidth 32) (c.active g)) (n.val + 1) m k
      (fun l => (f l).extractLsb' 32 32) (c.active g) ha hk
    have h2 := fun m k hk => Regs.vec_putLanes c.regs n.val m k (fun l => (f l).setWidth 32) (c.active g) ha hk
    refine ⟨fun l hl => ?_, ?_, ?_, ?_, ?_⟩
    · simp [View.put64, h _ _ (ha l hl), h2 _ _ (ha l hl), hl]
    · intro m l hl hn
      simp only [View.put64, h _ _ hl, h2 _ _ hl]
      by_cases h1 : l ∈ c.active g
      · have h3 : m ≠ n.val ∧ m ≠ n.val + 1 := ⟨fun e => hn ⟨.inl e, h1⟩, fun e => hn ⟨.inr e, h1⟩⟩
        simp [h3]
      · simp [h1]
    all_goals simp [View.put64]
  | s n =>
    simp only [Writes64, View.put64]
    by_cases h : c.acts g = true <;> simp [h, Regs.but, Regs.uni_setUni, Regs.predAt]
    intros; simp_all

/-- `putPred` writes a predicate and nothing else. -/
theorem View.putPred_writes (c : View) (g : Guard) (pd : Fin 8) (f : Nat → Bool) : WritesPred c g pd f (c.putPred g pd f) := by
  have h := fun q k => Regs.predAt_putPred c.regs pd q (c.active g) f k fun l => View.active_lt
  refine ⟨fun hp l hl => ?_, ?_, ?_, ?_, ?_⟩
  · simp [View.putPred, h, hl, hp]
  · intros; simp [View.putPred, Regs.putPred]
  · intros; simp [View.putPred, Regs.putPred]
  · intro q l hn; simp only [View.putPred, h]; simp_all
  · simp [View.putPred, Regs.putPred]

end Sys2Proof.Machine
end

