-- ==== Sys2Proof/Laws/Issue.lean ====
section
/-! SUPPORT. Laws of entering and completing an instruction: which checks come first, what completion leaves, and what
settling the meetings of a gang leaves. -/

namespace Sys2Proof.Machine

-- One declaration after another: a thread for each would take more memory than the package may.
set_option Elab.async false

theorem tabMod_tabMod {α : Type} (k : Nat) (f g : α → α) (l : List (Nat × α)) :
    tabMod k f (tabMod k g l) = tabMod k (fun x => f (g x)) l := by
  cases h : tabGet k l with
  | none => simp [tabMod_none _ h]
  | some v => simp [tabMod, h]
theorem Sheet.modSeq_modSeq (h : Sheet) (k : SeqKind) (f g : Seq → Seq) :
    (h.modSeq k g).modSeq k f = h.modSeq k fun x => f (g x) := by
  cases k <;> rfl

/-! ### Entry -/

theorem enter_of {i : Instr} {s : State} {c : Site} (hs : s.site = some c) (hp : precheck i c = none)
    (k : Site → Host.Outcome State Fault Refusal) : enter i s k = k c := by
  simp [enter, hs, hp]
theorem enter_trap {i : Instr} {s : State} {c : Site} {t : Trap} (hs : s.site = some c) (hp : precheck i c = some t)
    (k : Site → Host.Outcome State Fault Refusal) : enter i s k = .next (s.raise c i t) := by
  simp [enter, hs, hp]
theorem enterGang_of {i : Instr} {s : State} {c : Site} {g : Guard} (hs : s.site = some c) (hp : precheck i c = none)
    (hg : c.view.acts g = true) (k : Site → Host.Outcome State Fault Refusal) : enterGang i g s k = k c := by
  simp [enterGang, enter_of hs hp, hg]
theorem enterGang_off {i : Instr} {s : State} {c : Site} {g : Guard} (hs : s.site = some c) (hp : precheck i c = none)
    (hg : c.view.acts g = false) (k : Site → Host.Outcome State Fault Refusal) :
    enterGang i g s k = .next (s.finish c i) := by
  simp [enterGang, enter_of hs hp, hg]
@[simp] theorem orTrap_ok {α : Type} (c : Site) (i : Instr) (a : α) (k : α → Host.Outcome State Fault Refusal) :
    orTrap c i (.ok a) k = k a := rfl
@[simp] theorem orTrap_error {α : Type} (s : State) (c : Site) (i : Instr) (t : Trap)
    (k : α → Host.Outcome State Fault Refusal) : orTrap c i (.error (t, s)) k = .next (s.raise c i t) := rfl

/-! ### Completion -/

/-- With no context's time exhausted, nothing ends (R128). -/
theorem State.reap_quiet {s : State} (h : s.quiet) : s.reap = s := by
  have e : s.ctxs.filter (fun p => p.2.expired) = [] := List.filter_eq_nil_iff.2 fun p hp => by simp [(h p hp).1]
  have e' : s.ctxs.filter (fun p => !p.2.expired && s.clockEnds p.1) = [] :=
    List.filter_eq_nil_iff.2 fun p hp => by simp [(h p hp).2]
  simp [State.reap, e, e']

theorem Gang.modThreads_regs_eq (q : Gang) (ls : List Nat) (f : Nat → Thread → Thread) (r : Regs) :
    ({ q with regs := r }).modThreads ls f = { q.modThreads ls f with regs := r } := by
  unfold Gang.modThreads
  induction ls generalizing q with
  | nil => rfl
  | cons l ls ih => simp only [List.foldl_cons]; exact ih (q.modThread l (f l))

/-- Completion after a write of registers is `moved`. -/
theorem putRegs_finishAt (s : State) (c : Site) (i : Instr) (r : Regs) (next : Nat → Word) :
    (s.putRegs c r).finishAt c i next = (s.moved c i r next).reap := by
  unfold State.finishAt State.moved
  congr 1
  cases h : c.agent with
  | gang g =>
    have hr : (s.putRegs c r).resultAt c.sh i = s.resultAt c.sh i := by simp only [State.putRegs, h]; rfl
    have hl : (s.putRegs c r).laneOf c.sh = s.laneOf c.sh := by simp only [State.putRegs, h]; rfl
    rw [hr, hl]
    cases i.reaches <;>
      simp only [State.putRegs, h, State.modGang, State.modSheet, Sheet.modGang, tabMod_tabMod, Gang.modThreads_regs_eq,
        State.drew, if_true, Bool.false_eq_true, if_false] <;>
      (congr 3; funext x; congr 3; funext q; simp only [Gang.moved]; rw [Gang.modThreads_eq])
  | seq k => simp only [State.putRegs, h, State.modSheet, tabMod_tabMod, Sheet.modSeq_modSeq]
theorem putRegs_finish (s : State) (c : Site) (i : Instr) (r : Regs) :
    (s.putRegs c r).finish c i = (s.after c i r).reap := putRegs_finishAt ..

/-- An instruction that only computes registers completes with them. -/
theorem alu_of {i : Instr} {s : State} {c : Site} (hs : s.site = some c) (hp : precheck i c = none) (f : View → Regs) :
    alu i s f = .next (s.after c i (f c.view)).reap := by
  rw [alu, enter_of hs hp, putRegs_finish]

theorem tabMod_congr {α : Type} {k : Nat} {f g : α → α} {l : List (Nat × α)} (h : ∀ v, tabGet k l = some v → f v = g v) :
    tabMod k f l = tabMod k g l := by
  cases e : tabGet k l with
  | none => simp [tabMod_none _ e]
  | some v => simp [tabMod, e, h v e]
/-- Completion alone is `moved` with the registers as they were. -/
theorem finishAt_moved {s : State} {c : Site} (hs : s.site = some c) (i : Instr) (next : Nat → Word) :
    s.finishAt c i next = (s.moved c i c.view.regs next).reap := by
  unfold State.site at hs
  cases hi : s.issue with
  | none => simp [hi] at hs
  | some x =>
    simp only [hi] at hs
    cases hh : tabGet x.sheet s.sheets with
    | none => simp [hh] at hs
    | some h =>
      simp only [hh] at hs
      unfold State.finishAt State.moved
      refine congrArg State.reap ?_
      cases ha : x.agent with
      | gang g =>
        simp only [ha] at hs
        cases hg : tabGet g h.gangs with
        | none => simp [hg] at hs
        | some q =>
          simp only [hg, Option.some.injEq] at hs
          subst hs
          cases i.reaches
          all_goals
            simp only [State.modGang, State.modSheet, Sheet.modGang, State.drew, if_true, Bool.false_eq_true, if_false, tabMod_tabMod]
            refine congrArg (fun t => ({ s with choices := _, issue := none, sheets := t } : State)) (tabMod_congr fun v hv => ?_)
            have : v = h := by simpa [hh] using hv.symm
            subst this
            refine congrArg (fun t => ({ v with gangs := t } : Sheet).mended _ i) (tabMod_congr fun v' hv => ?_)
            have : v' = q := by simpa [hg] using hv.symm
            subst this
            simp only [Gang.moved]
            rw [Gang.modThreads_eq]
      | seq k =>
        simp only [ha, Option.some.injEq] at hs
        subst hs
        simp only [State.modSheet, tabMod_tabMod]
        refine congrArg (fun t => ({ s with issue := none, sheets := t } : State)) (tabMod_congr fun v hv => ?_)
        have : v = h := by simpa [hh] using hv.symm
        subst this
        cases k <;> rfl
theorem finish_after {s : State} {c : Site} (hs : s.site = some c) (i : Instr) :
    s.finish c i = (s.after c i c.view.regs).reap := finishAt_moved hs ..

/-! ### Entry to memory -/

theorem enterMem_of {i : Instr} {s t : State} {c : Site} (h : Reaches i s t c)
    (k : State → Site → Host.Outcome State Fault Refusal) : enterMem i s k = k t c := by
  obtain ⟨b, hb, rfl, hs⟩ := h
  rw [enterMem, enter_of hb.1 hb.2]
  simp only [State.drained] at hs ⊢
  cases ha : b.agent <;> simp only [ha] at hs ⊢ <;> rw [hs]
theorem enterMemGang_of {i : Instr} {s t : State} {c : Site} {g : Guard} (h : ActsOn i g s t c)
    (k : State → Site → Host.Outcome State Fault Refusal) : enterMemGang i g s k = k t c := by
  simp [enterMemGang, enterMem_of h.1, h.2]
theorem enterMemGang_off {i : Instr} {s t : State} {c : Site} {g : Guard} (h : Reaches i s t c)
    (hg : c.view.acts g = false) (k : State → Site → Host.Outcome State Fault Refusal) :
    enterMemGang i g s k = .next (t.finish c i) := by
  simp [enterMemGang, enterMem_of h, hg]

end Sys2Proof.Machine
end

