-- ==== Sys2Proof/Laws/Entry.lean ====
section
/-! SUPPORT. Every instruction of a program makes the first checks before anything else. -/

namespace Sys2Proof.Machine

-- One declaration after another: a thread for each would take more memory than the package may.
set_option Elab.async false

set_option maxRecDepth 4000 in
/-- An instruction of a program that fails one of the first checks raises its trap. -/
theorem exec_enters {i : Instr} (h : (encodeFields i).isSome = true) {s : State} {c : Site} {t : Trap} (hs : s.site = some c)
    (ht : precheck i c = some t) : exec i s = .next (s.raise c i t) := by
  cases i
  case nop =>
    simp only [exec_nop, execNop]
    first | exact enter_trap hs ht _ | ((repeat' split) <;> exact enter_trap hs ht _)
  case bra =>
    simp only [exec_bra, execBra]
    first | exact enter_trap hs ht _ | ((repeat' split) <;> exact enter_trap hs ht _)
  case brx =>
    simp only [exec_brx, execBrx, jump]
    first | exact enter_trap hs ht _ | ((repeat' split) <;> exact enter_trap hs ht _)
  case call =>
    simp only [exec_call, execCall]
    first | exact enter_trap hs ht _ | ((repeat' split) <;> exact enter_trap hs ht _)
  case callx =>
    simp only [exec_callx, execCallx, jump]
    first | exact enter_trap hs ht _ | ((repeat' split) <;> exact enter_trap hs ht _)
  case ret =>
    simp only [exec_ret, execRet, jump]
    first | exact enter_trap hs ht _ | ((repeat' split) <;> exact enter_trap hs ht _)
  case exit =>
    simp only [exec_exit, execExit]
    first | exact enter_trap hs ht _ | ((repeat' split) <;> exact enter_trap hs ht _)
  case meet =>
    simp only [exec_meet, execMeet]
    first | exact enter_trap hs ht _ | ((repeat' split) <;> exact enter_trap hs ht _)
  case mleave =>
    simp only [exec_mleave, execMleave]
    first | exact enter_trap hs ht _ | ((repeat' split) <;> exact enter_trap hs ht _)
  case yield =>
    simp only [exec_yield, execYield, enterGang]
    first | exact enter_trap hs ht _ | ((repeat' split) <;> exact enter_trap hs ht _)
  case nap =>
    simp only [exec_nap, execNap, napFor, enterGang]
    first | exact enter_trap hs ht _ | ((repeat' split) <;> exact enter_trap hs ht _)
  case napImm =>
    simp only [exec_napImm, execNapImm, napFor, enterGang]
    first | exact enter_trap hs ht _ | ((repeat' split) <;> exact enter_trap hs ht _)
  case trap =>
    simp only [exec_trap, execTrap, enterGang]
    first | exact enter_trap hs ht _ | ((repeat' split) <;> exact enter_trap hs ht _)
  case trapImm =>
    simp only [exec_trapImm, execTrapImm, enterGang]
    first | exact enter_trap hs ht _ | ((repeat' split) <;> exact enter_trap hs ht _)
  case bkpt =>
    simp only [exec_bkpt, execBkpt, enterGang]
    first | exact enter_trap hs ht _ | ((repeat' split) <;> exact enter_trap hs ht _)
  case perf =>
    simp only [exec_perf, execPerf, perfRequest, enterGang]
    first | exact enter_trap hs ht _ | ((repeat' split) <;> exact enter_trap hs ht _)
  case perfImm =>
    simp only [exec_perfImm, execPerfImm, perfRequest, enterGang]
    first | exact enter_trap hs ht _ | ((repeat' split) <;> exact enter_trap hs ht _)
  case iadd =>
    simp only [exec_iadd, execIadd, alu2w, alu, alu2]
    first | exact enter_trap hs ht _ | ((repeat' split) <;> exact enter_trap hs ht _)
  case isub =>
    simp only [exec_isub, execIsub, alu2w, alu, alu2]
    first | exact enter_trap hs ht _ | ((repeat' split) <;> exact enter_trap hs ht _)
  case iadd3 =>
    simp only [exec_iadd3, execIadd3, alu3, alu]
    first | exact enter_trap hs ht _ | ((repeat' split) <;> exact enter_trap hs ht _)
  case imul =>
    simp only [exec_imul, execImul, alu2, alu]
    first | exact enter_trap hs ht _ | ((repeat' split) <;> exact enter_trap hs ht _)
  case imulh =>
    simp only [exec_imulh, execImulh, alu2, alu]
    first | exact enter_trap hs ht _ | ((repeat' split) <;> exact enter_trap hs ht _)
  case imad =>
    simp only [exec_imad, execImad, alu3, alu]
    first | exact enter_trap hs ht _ | ((repeat' split) <;> exact enter_trap hs ht _)
  case imadw =>
    simp only [exec_imadw, execImadw, alu]
    first | exact enter_trap hs ht _ | ((repeat' split) <;> exact enter_trap hs ht _)
  case idiv =>
    simp only [exec_idiv, execIdiv, alu2, alu]
    first | exact enter_trap hs ht _ | ((repeat' split) <;> exact enter_trap hs ht _)
  case irem =>
    simp only [exec_irem, execIrem, alu2, alu]
    first | exact enter_trap hs ht _ | ((repeat' split) <;> exact enter_trap hs ht _)
  case imin =>
    simp only [exec_imin, execImin, alu2, alu]
    first | exact enter_trap hs ht _ | ((repeat' split) <;> exact enter_trap hs ht _)
  case imax =>
    simp only [exec_imax, execImax, alu2, alu]
    first | exact enter_trap hs ht _ | ((repeat' split) <;> exact enter_trap hs ht _)
  case iabs =>
    simp only [exec_iabs, execIabs, alu1, alu]
    first | exact enter_trap hs ht _ | ((repeat' split) <;> exact enter_trap hs ht _)
  case ineg =>
    simp only [exec_ineg, execIneg, alu1, alu]
    first | exact enter_trap hs ht _ | ((repeat' split) <;> exact enter_trap hs ht _)
  case clamp =>
    simp only [exec_clamp, execClamp, alu3, alu]
    first | exact enter_trap hs ht _ | ((repeat' split) <;> exact enter_trap hs ht _)
  case and =>
    simp only [exec_and, execAnd, alu2w, alu, alu2]
    first | exact enter_trap hs ht _ | ((repeat' split) <;> exact enter_trap hs ht _)
  case or =>
    simp only [exec_or, execOr, alu2w, alu, alu2]
    first | exact enter_trap hs ht _ | ((repeat' split) <;> exact enter_trap hs ht _)
  case xor =>
    simp only [exec_xor, execXor, alu2w, alu, alu2]
    first | exact enter_trap hs ht _ | ((repeat' split) <;> exact enter_trap hs ht _)
  case andn =>
    simp only [exec_andn, execAndn, alu2w, alu, alu2]
    first | exact enter_trap hs ht _ | ((repeat' split) <;> exact enter_trap hs ht _)
  case orn =>
    simp only [exec_orn, execOrn, alu2w, alu, alu2]
    first | exact enter_trap hs ht _ | ((repeat' split) <;> exact enter_trap hs ht _)
  case shl =>
    simp only [exec_shl, execShl, alu2m, alu, alu2]
    first | exact enter_trap hs ht _ | ((repeat' split) <;> exact enter_trap hs ht _)
  case shr =>
    simp only [exec_shr, execShr, alu2m, alu, alu2]
    first | exact enter_trap hs ht _ | ((repeat' split) <;> exact enter_trap hs ht _)
  case sar =>
    simp only [exec_sar, execSar, alu2m, alu, alu2]
    first | exact enter_trap hs ht _ | ((repeat' split) <;> exact enter_trap hs ht _)
  case rot =>
    simp only [exec_rot, execRot, alu2m, alu, alu2]
    first | exact enter_trap hs ht _ | ((repeat' split) <;> exact enter_trap hs ht _)
  case fsh =>
    simp only [exec_fsh, execFsh, alu3, alu]
    first | exact enter_trap hs ht _ | ((repeat' split) <;> exact enter_trap hs ht _)
  case bfx =>
    simp only [exec_bfx, execBfx, alu2, alu]
    first | exact enter_trap hs ht _ | ((repeat' split) <;> exact enter_trap hs ht _)
  case bfi =>
    simp only [exec_bfi, execBfi, alu3, alu]
    first | exact enter_trap hs ht _ | ((repeat' split) <;> exact enter_trap hs ht _)
  case popc =>
    simp only [exec_popc, execPopc, alu1, alu]
    first | exact enter_trap hs ht _ | ((repeat' split) <;> exact enter_trap hs ht _)
  case clz =>
    simp only [exec_clz, execClz, alu1, alu]
    first | exact enter_trap hs ht _ | ((repeat' split) <;> exact enter_trap hs ht _)
  case ctz =>
    simp only [exec_ctz, execCtz, alu1, alu]
    first | exact enter_trap hs ht _ | ((repeat' split) <;> exact enter_trap hs ht _)
  case brev =>
    simp only [exec_brev, execBrev, alu1, alu]
    first | exact enter_trap hs ht _ | ((repeat' split) <;> exact enter_trap hs ht _)
  case bytesel =>
    simp only [exec_bytesel, execBytesel, alu3, alu]
    first | exact enter_trap hs ht _ | ((repeat' split) <;> exact enter_trap hs ht _)
  case lea =>
    simp only [exec_lea, execLea, alu2m, alu]
    first | exact enter_trap hs ht _ | ((repeat' split) <;> exact enter_trap hs ht _)
  case icmp =>
    simp only [exec_icmp, execIcmp, alu]
    first | exact enter_trap hs ht _ | ((repeat' split) <;> exact enter_trap hs ht _)
  case sel =>
    simp only [exec_sel, execSel, alu]
    first | exact enter_trap hs ht _ | ((repeat' split) <;> exact enter_trap hs ht _)
  case pcomb =>
    simp only [exec_pcomb, execPcomb, alu]
    first | exact enter_trap hs ht _ | ((repeat' split) <;> exact enter_trap hs ht _)
  case psetm =>
    simp only [exec_psetm, execPsetm, alu]
    first | exact enter_trap hs ht _ | ((repeat' split) <;> exact enter_trap hs ht _)
  case psetmMask =>
    simp only [exec_psetmMask, execPsetmMask, alu]
    first | exact enter_trap hs ht _ | ((repeat' split) <;> exact enter_trap hs ht _)
  case pmovToReg =>
    simp only [exec_pmovToReg, execPmovToReg, alu]
    first | exact enter_trap hs ht _ | ((repeat' split) <;> exact enter_trap hs ht _)
  case pmovToPred =>
    simp only [exec_pmovToPred, execPmovToPred, alu]
    first | exact enter_trap hs ht _ | ((repeat' split) <;> exact enter_trap hs ht _)
  case pmovFromMask =>
    simp only [exec_pmovFromMask, execPmovFromMask, alu]
    first | exact enter_trap hs ht _ | ((repeat' split) <;> exact enter_trap hs ht _)
  case mov =>
    simp only [exec_mov, execMov, alu]
    first | exact enter_trap hs ht _ | ((repeat' split) <;> exact enter_trap hs ht _)
  case movi =>
    simp only [exec_movi, execMovi, alu]
    first | exact enter_trap hs ht _ | ((repeat' split) <;> exact enter_trap hs ht _)
  case movs =>
    simp only [exec_movs, execMovs]
    first | exact enter_trap hs ht _ | ((repeat' split) <;> exact enter_trap hs ht _)
  case fadd =>
    simp only [exec_fadd, execFadd, alu2, alu]
    first | exact enter_trap hs ht _ | ((repeat' split) <;> exact enter_trap hs ht _)
  case fsub =>
    simp only [exec_fsub, execFsub, alu2, alu]
    first | exact enter_trap hs ht _ | ((repeat' split) <;> exact enter_trap hs ht _)
  case fmul =>
    simp only [exec_fmul, execFmul, alu2, alu]
    first | exact enter_trap hs ht _ | ((repeat' split) <;> exact enter_trap hs ht _)
  case ffma =>
    simp only [exec_ffma, execFfma, alu3, alu]
    first | exact enter_trap hs ht _ | ((repeat' split) <;> exact enter_trap hs ht _)
  case fmin =>
    simp only [exec_fmin, execFmin, alu2, alu]
    first | exact enter_trap hs ht _ | ((repeat' split) <;> exact enter_trap hs ht _)
  case fmax =>
    simp only [exec_fmax, execFmax, alu2, alu]
    first | exact enter_trap hs ht _ | ((repeat' split) <;> exact enter_trap hs ht _)
  case frnd =>
    simp only [exec_frnd, execFrnd, alu1, alu]
    first | exact enter_trap hs ht _ | ((repeat' split) <;> exact enter_trap hs ht _)
  case fscale =>
    simp only [exec_fscale, execFscale, alu2, alu]
    first | exact enter_trap hs ht _ | ((repeat' split) <;> exact enter_trap hs ht _)
  case ffract =>
    simp only [exec_ffract, execFfract, alu1, alu]
    first | exact enter_trap hs ht _ | ((repeat' split) <;> exact enter_trap hs ht _)
  case frcp =>
    simp only [exec_frcp, execFrcp, alu1, alu]
    first | exact enter_trap hs ht _ | ((repeat' split) <;> exact enter_trap hs ht _)
  case frsq =>
    simp only [exec_frsq, execFrsq, alu1, alu]
    first | exact enter_trap hs ht _ | ((repeat' split) <;> exact enter_trap hs ht _)
  case fsqrt =>
    simp only [exec_fsqrt, execFsqrt, alu1, alu]
    first | exact enter_trap hs ht _ | ((repeat' split) <;> exact enter_trap hs ht _)
  case fdiv =>
    simp only [exec_fdiv, execFdiv, alu2, alu]
    first | exact enter_trap hs ht _ | ((repeat' split) <;> exact enter_trap hs ht _)
  case fexp2 =>
    simp only [exec_fexp2, execFexp2, alu1, alu]
    first | exact enter_trap hs ht _ | ((repeat' split) <;> exact enter_trap hs ht _)
  case flog2 =>
    simp only [exec_flog2, execFlog2, alu1, alu]
    first | exact enter_trap hs ht _ | ((repeat' split) <;> exact enter_trap hs ht _)
  case fsin =>
    simp only [exec_fsin, execFsin, alu1, alu]
    first | exact enter_trap hs ht _ | ((repeat' split) <;> exact enter_trap hs ht _)
  case fcos =>
    simp only [exec_fcos, execFcos, alu1, alu]
    first | exact enter_trap hs ht _ | ((repeat' split) <;> exact enter_trap hs ht _)
  case fcmp =>
    simp only [exec_fcmp, execFcmp, alu]
    first | exact enter_trap hs ht _ | ((repeat' split) <;> exact enter_trap hs ht _)
  case fclass =>
    simp only [exec_fclass, execFclass, alu1, alu]
    first | exact enter_trap hs ht _ | ((repeat' split) <;> exact enter_trap hs ht _)
  case hadd2 =>
    simp only [exec_hadd2, execHadd2, alu2, alu]
    first | exact enter_trap hs ht _ | ((repeat' split) <;> exact enter_trap hs ht _)
  case hmul2 =>
    simp only [exec_hmul2, execHmul2, alu2, alu]
    first | exact enter_trap hs ht _ | ((repeat' split) <;> exact enter_trap hs ht _)
  case hfma2 =>
    simp only [exec_hfma2, execHfma2, alu3, alu]
    first | exact enter_trap hs ht _ | ((repeat' split) <;> exact enter_trap hs ht _)
  case hmin2 =>
    simp only [exec_hmin2, execHmin2, alu2, alu]
    first | exact enter_trap hs ht _ | ((repeat' split) <;> exact enter_trap hs ht _)
  case hmax2 =>
    simp only [exec_hmax2, execHmax2, alu2, alu]
    first | exact enter_trap hs ht _ | ((repeat' split) <;> exact enter_trap hs ht _)
  case fdot2 =>
    simp only [exec_fdot2, execFdot2, alu3, alu]
    first | exact enter_trap hs ht _ | ((repeat' split) <;> exact enter_trap hs ht _)
  case cvtfi =>
    simp only [exec_cvtfi, execCvtfi, alu]
    first | exact enter_trap hs ht _ | ((repeat' split) <;> exact enter_trap hs ht _)
  case cvtif =>
    simp only [exec_cvtif, execCvtif, alu]
    first | exact enter_trap hs ht _ | ((repeat' split) <;> exact enter_trap hs ht _)
  case cvtff =>
    simp only [exec_cvtff, execCvtff, alu]
    first | exact enter_trap hs ht _ | ((repeat' split) <;> exact enter_trap hs ht _)
  case iwiden =>
    simp only [exec_iwiden, execIwiden, alu]
    first | exact enter_trap hs ht _ | ((repeat' split) <;> exact enter_trap hs ht _)
  case inarrow =>
    simp only [exec_inarrow, execInarrow, alu]
    first | exact enter_trap hs ht _ | ((repeat' split) <;> exact enter_trap hs ht _)
  case nfpack =>
    simp only [exec_nfpack, execNfpack, nfOp]
    first | exact enter_trap hs ht _ | ((repeat' split) <;> exact enter_trap hs ht _)
  case nfunp =>
    simp only [exec_nfunp, execNfunp, nfOp]
    first | exact enter_trap hs ht _ | ((repeat' split) <;> exact enter_trap hs ht _)
  case scaleblk =>
    simp only [exec_scaleblk, execScaleblk]
    first | exact enter_trap hs ht _ | ((repeat' split) <;> exact enter_trap hs ht _)
  case rbox =>
    simp only [exec_rbox, execRbox, alu]
    first | exact enter_trap hs ht _ | ((repeat' split) <;> exact enter_trap hs ht _)
  case rtri =>
    simp only [exec_rtri, execRtri, alu]
    first | exact enter_trap hs ht _ | ((repeat' split) <;> exact enter_trap hs ht _)
  case shfl =>
    simp only [exec_shfl, execShfl, alu]
    first | exact enter_trap hs ht _ | ((repeat' split) <;> exact enter_trap hs ht _)
  case vote =>
    simp only [exec_vote, execVote, alu]
    first | exact enter_trap hs ht _ | ((repeat' split) <;> exact enter_trap hs ht _)
  case ballot =>
    simp only [exec_ballot, execBallot, alu]
    first | exact enter_trap hs ht _ | ((repeat' split) <;> exact enter_trap hs ht _)
  case match_ =>
    simp only [exec_match_, execMatch, alu]
    first | exact enter_trap hs ht _ | ((repeat' split) <;> exact enter_trap hs ht _)
  case gred =>
    simp only [exec_gred, execGred, alu]
    first | exact enter_trap hs ht _ | ((repeat' split) <;> exact enter_trap hs ht _)
  case gscan =>
    simp only [exec_gscan, execGscan, alu]
    first | exact enter_trap hs ht _ | ((repeat' split) <;> exact enter_trap hs ht _)
  case ld =>
    simp only [exec_ld, execLd, enterMem]
    first | exact enter_trap hs ht _ | ((repeat' split) <;> exact enter_trap hs ht _)
  case st =>
    simp only [exec_st, execSt, enterMem]
    first | exact enter_trap hs ht _ | ((repeat' split) <;> exact enter_trap hs ht _)
  case stF =>
    simp only [exec_stF, execStF, enterMem]
    first | exact enter_trap hs ht _ | ((repeat' split) <;> exact enter_trap hs ht _)
  case lds =>
    simp only [exec_lds, execLds, enterMem]
    first | exact enter_trap hs ht _ | ((repeat' split) <;> exact enter_trap hs ht _)
  case sts =>
    simp only [exec_sts, execSts, enterMem]
    first | exact enter_trap hs ht _ | ((repeat' split) <;> exact enter_trap hs ht _)
  case ldc =>
    simp only [exec_ldc, execLdc]
    first | exact enter_trap hs ht _ | ((repeat' split) <;> exact enter_trap hs ht _)
  case ldq =>
    simp only [exec_ldq, execLdq, enterMem]
    first | exact enter_trap hs ht _ | ((repeat' split) <;> exact enter_trap hs ht _)
  case pref =>
    simp only [exec_pref, execPref]
    first | exact enter_trap hs ht _ | ((repeat' split) <;> exact enter_trap hs ht _)
  case sptest =>
    simp only [exec_sptest, execSptest, enterMem]
    first | exact enter_trap hs ht _ | ((repeat' split) <;> exact enter_trap hs ht _)
  case atom =>
    simp only [exec_atom, execAtom, enterMem]
    first | exact enter_trap hs ht _ | ((repeat' split) <;> exact enter_trap hs ht _)
  case atoms =>
    simp only [exec_atoms, execAtoms, enterMem]
    first | exact enter_trap hs ht _ | ((repeat' split) <;> exact enter_trap hs ht _)
  case cas =>
    simp only [exec_cas, execCas, enterMem]
    first | exact enter_trap hs ht _ | ((repeat' split) <;> exact enter_trap hs ht _)
  case red =>
    simp only [exec_red, execRed, enterMem]
    first | exact enter_trap hs ht _ | ((repeat' split) <;> exact enter_trap hs ht _)
  case atagg =>
    simp only [exec_atagg, execAtagg, enterMem]
    first | exact enter_trap hs ht _ | ((repeat' split) <;> exact enter_trap hs ht _)
  case fenceG =>
    simp only [exec_fenceG, execFenceG, enterMem]
    first | exact enter_trap hs ht _ | ((repeat' split) <;> exact enter_trap hs ht _)
  case fenceS =>
    simp only [exec_fenceS, execFenceS, enterMem]
    first | exact enter_trap hs ht _ | ((repeat' split) <;> exact enter_trap hs ht _)
  case fenceC =>
    simp only [exec_fenceC, execFenceC, enterMem]
    first | exact enter_trap hs ht _ | ((repeat' split) <;> exact enter_trap hs ht _)
  case bar =>
    simp only [exec_bar, execBar, barrierArrive, enterMem]
    first | exact enter_trap hs ht _ | ((repeat' split) <;> exact enter_trap hs ht _)
  case barArrive =>
    simp only [exec_barArrive, execBarArrive, barrierArrive, enterMem]
    first | exact enter_trap hs ht _ | ((repeat' split) <;> exact enter_trap hs ht _)
  case barinit =>
    simp only [exec_barinit, execBarinit, enterMemGang, enterMem]
    first | exact enter_trap hs ht _ | ((repeat' split) <;> exact enter_trap hs ht _)
  case barinv =>
    simp only [exec_barinv, execBarinv, enterMemGang, enterMem]
    first | exact enter_trap hs ht _ | ((repeat' split) <;> exact enter_trap hs ht _)
  case qinit =>
    simp only [exec_qinit, execQinit, enterMemGang, enterMem]
    first | exact enter_trap hs ht _ | ((repeat' split) <;> exact enter_trap hs ht _)
  case qpush =>
    simp only [exec_qpush, execQpush, enterMemGang, enterMem]
    first | exact enter_trap hs ht _ | ((repeat' split) <;> exact enter_trap hs ht _)
  case qpop =>
    simp only [exec_qpop, execQpop, popOrElse, enterMemGang, enterMem]
    first | exact enter_trap hs ht _ | ((repeat' split) <;> exact enter_trap hs ht _)
  case qtry =>
    simp only [exec_qtry, execQtry, popOrElse, enterMemGang, enterMem]
    first | exact enter_trap hs ht _ | ((repeat' split) <;> exact enter_trap hs ht _)
  case qclose =>
    simp only [exec_qclose, execQclose, enterMemGang, enterMem]
    first | exact enter_trap hs ht _ | ((repeat' split) <;> exact enter_trap hs ht _)
  case fopen =>
    simp only [exec_fopen, execFopen, enterMemGang, enterMem]
    first | exact enter_trap hs ht _ | ((repeat' split) <;> exact enter_trap hs ht _)
  case fclose =>
    simp only [exec_fclose, execFclose, enterMemGang, enterMem]
    first | exact enter_trap hs ht _ | ((repeat' split) <;> exact enter_trap hs ht _)
  case launch =>
    simp only [exec_launch, execLaunch, enterMemGang, enterMem]
    first | exact enter_trap hs ht _ | ((repeat' split) <;> exact enter_trap hs ht _)
  case mma =>
    simp only [exec_mma, execMma, enterGang]
    first | exact enter_trap hs ht _ | ((repeat' split) <;> exact enter_trap hs ht _)
  case accz =>
    simp only [exec_accz, execAccz, accMove, enterGang]
    first | exact enter_trap hs ht _ | ((repeat' split) <;> exact enter_trap hs ht _)
  case accrdV =>
    simp only [exec_accrdV, execAccrdV, accMove, enterGang]
    first | exact enter_trap hs ht _ | ((repeat' split) <;> exact enter_trap hs ht _)
  case accrdSp =>
    simp only [exec_accrdSp, execAccrdSp, accSpad, enterMemGang, enterMem]
    first | exact enter_trap hs ht _ | ((repeat' split) <;> exact enter_trap hs ht _)
  case accrdT =>
    simp only [exec_accrdT, execAccrdT, enterGang]
    first | exact enter_trap hs ht _ | ((repeat' split) <;> exact enter_trap hs ht _)
  case accwrV =>
    simp only [exec_accwrV, execAccwrV, accMove, enterGang]
    first | exact enter_trap hs ht _ | ((repeat' split) <;> exact enter_trap hs ht _)
  case accwrSp =>
    simp only [exec_accwrSp, execAccwrSp, accSpad, enterMemGang, enterMem]
    first | exact enter_trap hs ht _ | ((repeat' split) <;> exact enter_trap hs ht _)
  case accwrT =>
    simp only [exec_accwrT, execAccwrT, enterGang]
    first | exact enter_trap hs ht _ | ((repeat' split) <;> exact enter_trap hs ht _)
  case forkM =>
    simp only [exec_forkM, execForkM, forkSeq, enterMemGang, enterMem]
    first | exact enter_trap hs ht _ | ((repeat' split) <;> exact enter_trap hs ht _)
  case forkC =>
    simp only [exec_forkC, execForkC, forkSeq, enterMemGang, enterMem]
    first | exact enter_trap hs ht _ | ((repeat' split) <;> exact enter_trap hs ht _)
  case rdvThread =>
    simp only [exec_rdvThread, execRdvThread, enterMemGang, enterMem]
    first | exact enter_trap hs ht _ | ((repeat' split) <;> exact enter_trap hs ht _)
  case rdvSequencer =>
    simp only [exec_rdvSequencer, execRdvSequencer, enterGang]
    first | exact enter_trap hs ht _ | ((repeat' split) <;> exact enter_trap hs ht _)
  case mmat =>
    simp only [exec_mmat, execMmat, onTiles, enterMemGang, enterMem]
    first | exact enter_trap hs ht _ | ((repeat' split) <;> exact enter_trap hs ht _)
  case mvsScale =>
    simp only [exec_mvsScale, execMvsScale, onTiles, enterMemGang, enterMem]
    first | exact enter_trap hs ht _ | ((repeat' split) <;> exact enter_trap hs ht _)
  case mvsSt =>
    simp only [exec_mvsSt, execMvsSt, mvsStore, onTiles, enterMemGang, enterMem]
    first | exact enter_trap hs ht _ | ((repeat' split) <;> exact enter_trap hs ht _)
  case mvsStbf =>
    simp only [exec_mvsStbf, execMvsStbf, mvsStore, onTiles, enterMemGang, enterMem]
    first | exact enter_trap hs ht _ | ((repeat' split) <;> exact enter_trap hs ht _)
  case mvsLd =>
    simp only [exec_mvsLd, execMvsLd, onTiles, enterMemGang, enterMem]
    first | exact enter_trap hs ht _ | ((repeat' split) <;> exact enter_trap hs ht _)
  case cpl =>
    simp only [exec_cpl, execCpl, enterMem]
    first | exact enter_trap hs ht _ | ((repeat' split) <;> exact enter_trap hs ht _)
  case cptIn =>
    simp only [exec_cptIn, execCptIn, tensorCopy, enterMemGang, enterMem]
    first | exact enter_trap hs ht _ | ((repeat' split) <;> exact enter_trap hs ht _)
  case cptOut =>
    simp only [exec_cptOut, execCptOut, tensorCopy, enterMemGang, enterMem]
    first | exact enter_trap hs ht _ | ((repeat' split) <;> exact enter_trap hs ht _)
  case ownEng =>
    simp only [exec_ownEng, execOwnEng, flipOwner, enterMemGang, enterMem]
    first | exact enter_trap hs ht _ | ((repeat' split) <;> exact enter_trap hs ht _)
  case ownThr =>
    simp only [exec_ownThr, execOwnThr, flipOwner, enterMemGang, enterMem]
    first | exact enter_trap hs ht _ | ((repeat' split) <;> exact enter_trap hs ht _)
  case residOpen =>
    simp only [exec_residOpen, execResidOpen, residency, enterGang]
    first | exact enter_trap hs ht _ | ((repeat' split) <;> exact enter_trap hs ht _)
  case residPrio =>
    simp only [exec_residPrio, execResidPrio, residency, enterGang]
    first | exact enter_trap hs ht _ | ((repeat' split) <;> exact enter_trap hs ht _)
  case residClose =>
    simp only [exec_residClose, execResidClose, residency, enterGang]
    first | exact enter_trap hs ht _ | ((repeat' split) <;> exact enter_trap hs ht _)
  case nxch =>
    simp only [exec_nxch, execNxch, collective, enterMemGang, enterMem]
    first | exact enter_trap hs ht _ | ((repeat' split) <;> exact enter_trap hs ht _)
  case nred =>
    simp only [exec_nred, execNred, collective, enterMemGang, enterMem]
    first | exact enter_trap hs ht _ | ((repeat' split) <;> exact enter_trap hs ht _)
  case nbc =>
    simp only [exec_nbc, execNbc, collective, enterMemGang, enterMem]
    first | exact enter_trap hs ht _ | ((repeat' split) <;> exact enter_trap hs ht _)
  case emit =>
    simp only [exec_emit, execEmit, enterMem]
    first | exact enter_trap hs ht _ | ((repeat' split) <;> exact enter_trap hs ht _)
  case emitend =>
    simp only [exec_emitend, execEmitend, enterMemGang, enterMem]
    first | exact enter_trap hs ht _ | ((repeat' split) <;> exact enter_trap hs ht _)
  case sysrd =>
    simp only [exec_sysrd, execSysrd, sysAccess]
    first | exact enter_trap hs ht _ | ((repeat' split) <;> exact enter_trap hs ht _)
  case syswr =>
    simp only [exec_syswr, execSyswr, sysAccess]
    first | exact enter_trap hs ht _ | ((repeat' split) <;> exact enter_trap hs ht _)
  case syswrTtb =>
    simp only [exec_syswrTtb, execSyswrTtb, tlbinv, enterMemGang, enterMem]
    first | exact enter_trap hs ht _ | ((repeat' split) <;> exact enter_trap hs ht _)
  case syswrCeil =>
    simp only [exec_syswrCeil, execSyswrCeil, enterGang]
    first | exact enter_trap hs ht _ | ((repeat' split) <;> exact enter_trap hs ht _)
  case eret =>
    simp only [exec_eret, execEret, enterMemGang, enterMem]
    first | exact enter_trap hs ht _ | ((repeat' split) <;> exact enter_trap hs ht _)
  case tlbinvPage =>
    simp only [exec_tlbinvPage, execTlbinvPage, tlbinv, enterMemGang, enterMem]
    first | exact enter_trap hs ht _ | ((repeat' split) <;> exact enter_trap hs ht _)
  case tlbinvRange =>
    simp only [exec_tlbinvRange, execTlbinvRange, tlbinv, enterMemGang, enterMem]
    first | exact enter_trap hs ht _ | ((repeat' split) <;> exact enter_trap hs ht _)
  case tlbinvCtx =>
    simp only [exec_tlbinvCtx, execTlbinvCtx, tlbinv, enterMemGang, enterMem]
    first | exact enter_trap hs ht _ | ((repeat' split) <;> exact enter_trap hs ht _)
  case invrep =>
    simp only [exec_invrep, execInvrep, invrep, enterMemGang, enterMem]
    first | exact enter_trap hs ht _ | ((repeat' split) <;> exact enter_trap hs ht _)
  case invrepRange =>
    simp only [exec_invrepRange, execInvrepRange, invrep, enterMemGang, enterMem]
    first | exact enter_trap hs ht _ | ((repeat' split) <;> exact enter_trap hs ht _)
  case ctxsaveCopy =>
    simp only [exec_ctxsaveCopy, execCtxsaveCopy, ctxsave, enterMemGang, enterMem]
    first | exact enter_trap hs ht _ | ((repeat' split) <;> exact enter_trap hs ht _)
  case ctxsavePark =>
    simp only [exec_ctxsavePark, execCtxsavePark, ctxsave, enterMemGang, enterMem]
    first | exact enter_trap hs ht _ | ((repeat' split) <;> exact enter_trap hs ht _)
  case ctxload =>
    simp only [exec_ctxload, execCtxload, enterMemGang, enterMem]
    first | exact enter_trap hs ht _ | ((repeat' split) <;> exact enter_trap hs ht _)
  case halt =>
    simp only [exec_halt, execHalt, enterGang]
    first | exact enter_trap hs ht _ | ((repeat' split) <;> exact enter_trap hs ht _)
  case wdclr =>
    simp only [exec_wdclr, execWdclr, enterGang]
    first | exact enter_trap hs ht _ | ((repeat' split) <;> exact enter_trap hs ht _)
  case stamp =>
    simp only [exec_stamp, execStamp, enterMemGang, enterMem]
    first | exact enter_trap hs ht _ | ((repeat' split) <;> exact enter_trap hs ht _)
  all_goals (exfalso; revert h; simp [encodeFields])

end Sys2Proof.Machine
end

