-- ==== Sys2Proof/Laws/MemKept.lean ====
section
/-! SUPPORT. Which operations leave every byte of memory as it is: one law for each. -/

namespace Sys2Proof.Machine

-- One declaration after another: a thread for each would take more memory than the package may.
set_option Elab.async false

/-! ### Folds -/

theorem foldl_mem {α : Type} (f : State → α → State) (h : ∀ s a, (f s a).mem = s.mem) (l : List α) (s : State) :
    (l.foldl f s).mem = s.mem := by
  induction l generalizing s with
  | nil => rfl
  | cons a l ih => rw [List.foldl_cons, ih, h]
theorem foldl_mem_fst {α β : Type} (f : State × β → α → State × β) (h : ∀ q a, (f q a).1.mem = q.1.mem) (l : List α)
    (q : State × β) :
    (l.foldl f q).1.mem = q.1.mem := by
  induction l generalizing q with
  | nil => rfl
  | cons a l ih => rw [List.foldl_cons, ih, h]
theorem foldl_mem_snd {α β : Type} (f : β × State → α → β × State) (h : ∀ q a, (f q a).2.mem = q.2.mem) (l : List α)
    (q : β × State) :
    (l.foldl f q).2.mem = q.2.mem := by
  induction l generalizing q with
  | nil => rfl
  | cons a l ih => rw [List.foldl_cons, ih, h]

theorem ite_mem_snd {β : Type} {m : Store Byte} (c : Prop) [Decidable c] {x y : β × State} (hx : x.2.mem = m)
    (hy : y.2.mem = m) :
    (if c then x else y).2.mem = m := by split <;> assumption

/-! ### Operations -/

theorem State.notice_mem (s : State) (kind ctx code origin addr : Nat) :
    (s.notice kind ctx code origin addr).mem = s.mem := by
  unfold State.notice; rfl

theorem State.asyncError_mem (s : State) (cx code addr detail : Nat) : (s.asyncError cx code addr detail).mem = s.mem := by
  grind -ring -linarith -order -ac [State.asyncError, State.modCtx_mem, State.notice_mem]

theorem State.observe_mem (s : State) (tag : Option Nat) (who cx : Option Nat) : (s.observe tag who cx).mem = s.mem := by
  unfold State.observe
  split <;> rfl

theorem State.tryEligible_mem (s : State) (k : Nat) : (s.tryEligible k).mem = s.mem := by
  grind -ring -linarith -order -ac [State.tryEligible, State.modLaunch_mem]

theorem State.markRead_mem (s : State) (who : Option Nat) (v : Nat) (pa : Nat) (cx : Option Nat) :
    (s.markRead who v pa cx).mem = s.mem := by
  grind -ring -linarith -order -ac [State.markRead, State.observe_mem, State.putAtom_mem]

theorem State.markReads_mem (s : State) (who : Option Nat) (v : Nat) (pas : List Nat) (cx : Option Nat) :
    (s.markReads who v pas cx).mem = s.mem := foldl_mem _ (fun s pa => State.markRead_mem s who v pa cx) _ _

theorem State.testWatches_mem (s : State) (pa t : Nat) : (s.testWatches pa t).mem = s.mem := by
  refine foldl_mem _ (fun s p => ?_) _ _
  rw [State.tryEligible_mem, State.modLaunch_mem, State.observe_mem]

theorem State.walk_mem (s : State) (cx die c page : Nat) : (s.walk cx die c page).2.mem = s.mem := by
  unfold State.walk
  split
  · rfl
  · dsimp only
    rw [foldl_mem _ (fun s r => by rw [State.drew_mem, State.markRead_mem])]
    split <;> rfl

theorem State.leafOf_mem (s : State) (cx : Nat) (cl : Option Nat) (die c page : Nat) :
    (s.leafOf cx cl die c page).2.mem = s.mem := by
  grind -ring -linarith -order -ac [State.leafOf, State.drew_mem, State.modCtx_mem, State.walk_mem]

theorem State.translatePages_mem (s : State) (w : Issuer) (ps : List Nat) (m : Tab Translated) :
    (s.translatePages w ps m).2.mem = s.mem := by
  induction ps generalizing s m with
  | nil => rfl
  | cons p ps ih =>
    simp only [State.translatePages]
    split
    · exact ih s m
    · rw [ih]; exact State.leafOf_mem s w.cx w.cl w.die w.clk p

theorem State.checkAccess_mem (s : State) (w : Issuer) (reqs : List Req)
    (t : List (Req × Leaf) × State) (e : s.checkAccess w reqs = .ok t) : t.2.mem = s.mem := by
  unfold State.checkAccess at e
  simp only at e
  repeat' (split at e)
  all_goals first | (cases e; done) | skip
  all_goals (injection e with e; subst e; exact State.translatePages_mem ..)
theorem State.checkAccess_error_mem (s : State) (w : Issuer) (reqs : List Req)
    (t : Trap × State) (e : s.checkAccess w reqs = .error t) : t.2.mem = s.mem := by
  unfold State.checkAccess at e
  simp only at e
  repeat' (split at e)
  all_goals first | (cases e; done) | skip
  all_goals (injection e with e; subst e; first | rfl | exact State.translatePages_mem ..)

theorem State.discard_mem (s : State) (cx c : Nat) (r : Pages) : (s.discard cx c r).mem = s.mem := by
  rfl

theorem State.startConvert_mem (s : State) (cx page : Nat) : (s.startConvert cx page).mem = s.mem := by
  rfl

theorem State.exhaust_mem (s : State) (cx : Nat) : (s.exhaust cx).mem = s.mem := by
  grind -ring -linarith -order -ac [State.exhaust, State.asyncError_mem, State.drew_mem, State.modCtx_mem]

theorem State.sign_mem (s : State) (k : Nat) (cs : List Nat) : (s.sign k cs).mem = s.mem := by
  grind -ring -linarith -order -ac [State.sign, State.modSheet_mem]

theorem State.putNear_mem (s : State) (k pa : Nat) (dirty : Option Nat) (bs : List Byte) :
    (s.putNear k pa dirty bs).mem = s.mem := by
  rfl

theorem State.issueWrite_mem (s : State) (w : PendWrite) : (s.issueWrite w).mem = s.mem := by
  unfold State.issueWrite
  split <;> rfl

theorem State.releaseWaves_mem (s : State) (k : Nat) (waves : List (Nat × Nat × List Nat)) :
    (s.releaseWaves k waves).mem = s.mem := by
  unfold State.releaseWaves
  dsimp only
  split
  · exact foldl_mem _ (fun s p => State.modGang_mem ..) _ _
  · rw [foldl_mem _ (fun s p => State.modGang_mem ..), State.modCluster_mem]
    exact foldl_mem _ (fun s p => State.modGang_mem ..) _ _

theorem State.rouse_mem (s : State) (sid : Nat) : (s.rouse sid).mem = s.mem := by
  unfold State.rouse
  split <;> rfl

theorem State.putRegs_mem (s : State) (c : Site) (r : Regs) : (s.putRegs c r).mem = s.mem := by
  unfold State.putRegs
  split <;> rfl

theorem State.raiseTo_mem (s : State) (c : Site) (t : Nat) : (s.raiseTo c t).mem = s.mem := by
  unfold State.raiseTo
  split <;> rfl

theorem State.stampLine_mem (s : State) (sid n t : Nat) : (s.stampLine sid n t).mem = s.mem := by
  grind -ring -linarith -order -ac [State.stampLine, State.drew_mem, State.modSheet_mem]

theorem State.placeLine_mem (s : State) (sid cx n c : Nat) (u : LineUse) : (s.placeLine sid cx n c u).1.mem = s.mem := by
  unfold State.placeLine
  cases u <;> simp only <;> split <;> first | exact State.stampLine_mem .. | exact State.exhaust_mem ..

theorem State.giveTime_mem (s : State) (c : Site) (once : Bool) (l t : Nat) : (s.giveTime c once l t).mem = s.mem := by
  unfold State.giveTime
  split <;> rfl

theorem State.placeLines_mem (s : State) (c : Site) (once : Bool) (l : Nat) (u : LineUse) (lines : List Nat) :
    (s.placeLines c once l u lines).mem = s.mem := by
  grind -ring -linarith -order -ac [State.placeLines, State.giveTime_mem, State.placeLine_mem, foldl_mem]

theorem State.settleCopies_mem (s : State) (sid a n : Nat) : (s.settleCopies sid a n).mem = s.mem := by
  unfold State.settleCopies
  split
  · rfl
  · refine foldl_mem _ (fun s p => ?_) _ _
    split
    · exact foldl_mem_fst (β := List CopyElem) _ (fun q a => by split <;> rfl) _ _
    · rfl

theorem State.settleColls_mem (s : State) (sid a n : Nat) : (s.settleColls sid a n).mem = s.mem := by
  grind -ring -linarith -order -ac [State.settleColls, State.drew_mem, State.modSheet_mem, foldl_mem_fst]

theorem State.writeSpad_mem (s : State) (sid a : Nat) (bs : List Byte) : (s.writeSpad sid a bs).mem = s.mem := by
  grind -ring -linarith -order -ac [State.writeSpad, State.modSheet_mem, State.settleColls_mem, State.settleCopies_mem]

theorem State.wakeLines_mem (s : State) (sid : Nat) : (s.wakeLines sid).mem = s.mem := by
  rfl

theorem State.softByte_mem (s : State) (who : Option Nat) (k key pa : Nat) : (s.softByte who k key pa).2.mem = s.mem := by
  unfold State.softByte
  (repeat' split) <;> (try dsimp only) <;> (repeat' split) <;>
    simp only [State.drew_mem, State.putNear_mem, State.observe_mem]

theorem State.softBytes_mem (s : State) (who : Option Nat) (k key pa n : Nat) :
    (s.softBytes who k key pa n).2.mem = s.mem := by
  induction n generalizing s pa with
  | zero => rfl
  | succ n ih => simp only [State.softBytes]; rw [ih]; exact State.softByte_mem ..

theorem State.fetchRemote_mem (s : State) (k : Nat) (pas : List Nat) : (s.fetchRemote k pas).mem = s.mem := by
  unfold State.fetchRemote
  simp only
  split <;> rfl

theorem State.loadAll_mem (s : State) (who : Option Nat) (k c : Nat) (xs : List (Req × Leaf)) :
    (s.loadAll who k c xs).2.2.mem = s.mem := by
  unfold State.loadAll
  dsimp only
  rw [foldl_mem_snd]
  · split <;> first | rfl | (rw [State.drew_mem, State.markReads_mem]; exact State.fetchRemote_mem ..)
  · intro q a; split
    · exact State.softBytes_mem ..
    · rfl

theorem State.giveTimes_mem (s : State) (c : Site) (once : Bool) (ls : List Nat) (t : Nat) :
    (s.giveTimes c once ls t).mem = s.mem := by
  grind -ring -linarith -order -ac [State.giveTimes, State.giveTime_mem, State.raiseTo_mem, foldl_mem]

theorem State.issueParts_mem (s : State) (c : Site) (once soft : Bool) (ps : List (LaneWrite × Leaf)) :
    (s.issueParts c once soft ps).mem = s.mem := by
  grind -ring -linarith -order -ac [State.issueParts, State.issueWrite_mem, State.putNear_mem, State.startConvert_mem, foldl_mem]

theorem State.executed_mem (s : State) (p : LaneWrite) : (s.executed p).mem = s.mem := by
  unfold State.executed
  split <;> rfl

theorem State.arrived_mem (s : State) (w : PendWrite) (id : Nat) : (s.arrived w id).mem = s.mem := by
  unfold State.arrived
  split <;> rfl

theorem State.releaseBarrier_mem (s : State) (sid b clk : Nat) (v : Bool) : (s.releaseBarrier sid b clk v).mem = s.mem := by
  grind -ring -linarith -order -ac [State.releaseBarrier, State.modGang_mem, State.releaseWaves_mem, foldl_mem]

theorem State.errBoundary_mem (s : State) (sid : Nat) : (s.errBoundary sid).mem = s.mem := by
  unfold State.errBoundary
  split <;> rfl

theorem State.tryPhase_mem (s : State) (sid b : Nat) : (s.tryPhase sid b).1.mem = s.mem := by
  grind -ring -linarith -order -ac [State.tryPhase, State.errBoundary_mem, State.modBar_mem, State.releaseBarrier_mem]

theorem State.copyArrival_mem (s : State) (sid b t : Nat) : (s.copyArrival sid b t).1.mem = s.mem := by
  grind -ring -linarith -order -ac [State.copyArrival, State.modBar_mem, State.tryPhase_mem]

theorem State.countUp_mem (s : State) (sid c t : Nat) : (s.countUp sid c t).mem = s.mem := by
  rfl

theorem State.copyRead_mem (s : State) (id : Nat) : (s.copyRead id).mem = s.mem := by
  unfold State.copyRead
  dsimp only
  repeat' split
  all_goals simp only [State.asyncError_mem, State.modCopy_mem, State.drew_mem, State.markReads_mem]

theorem State.contestOut_mem (s : State) (id : Nat) (e : CopyElem) : (s.contestOut id e).2.mem = s.mem := by
  refine foldl_mem_snd (β := CopyElem) _ (fun q p => foldl_mem_snd (β := CopyElem) _ (fun q w => ?_) _ _) _ _
  split <;> simp only [State.modCopy_mem, State.drew_mem]
theorem State.signCopy_mem (s : State) (cp : Copy) (cs : List Nat) : (s.signCopy cp cs).mem = s.mem := by
  unfold State.signCopy
  simp only
  split <;> simp only [State.sign_mem]
theorem State.copyLoses_mem (s : State) (cp : Copy) (e : CopyElem) : (s.copyLoses cp e).mem = s.mem := rfl

theorem State.mergeSource_mem (s : State) (id : Nat) : (s.mergeSource id).mem = s.mem := by
  grind -ring -linarith -order -ac [State.mergeSource, State.modCopy_mem, State.stampLine_mem, foldl_mem]

theorem State.contestIn_mem (s : State) (id : Nat) (cp : Copy) (d : CopyDest) : (s.contestIn id cp d).2.mem = s.mem := by
  refine foldl_mem_snd (β := List Nat) _ (fun q p => ?_) _ _
  split
  · rfl
  · refine foldl_mem_snd (β := List Nat) _ (fun q w => ?_) _ _
    split <;> simp only [State.modCopy_mem, State.drew_mem]

theorem State.copyInto_mem (s : State) (id : Nat) (cp : Copy) (d : CopyDest) (t : Nat) :
    (s.copyInto id cp d t).1.mem = s.mem := by
  have h : ∀ s' : State, (cp.spad.foldl (fun s p => if (s'.contestIn id cp d).1.contains (p.1 / 4) then s else s.writeSpad d.sheet p.1 [p.2])
      (s'.contestIn id cp d).2).mem = s'.mem := fun s' => by
    rw [foldl_mem _ (fun s p => by split <;> simp only [State.writeSpad_mem]), State.contestIn_mem]
  unfold State.copyInto
  simp only
  split
  all_goals simp only [State.copyArrival_mem, State.rouse_mem, State.wakeLines_mem]
  all_goals
    rw [foldl_mem _ (fun s n => by rw [State.stampLine_mem, State.modSheet_mem]), State.modSheet_mem]
    exact h s

theorem State.keepCount_mem (s : State) (cp : Copy) (c t : Nat) : (s.keepCount cp c t).mem = s.mem := by
  unfold State.keepCount
  split <;> rfl

theorem State.launchTime_mem (s : State) (sid t : Nat) : (s.launchTime sid t).mem = s.mem := by
  unfold State.launchTime
  split <;> rfl

theorem State.unpin_mem (s : State) (i : Interval) : (s.unpin i).mem = s.mem := by
  grind -ring -linarith -order -ac [State.unpin, State.putAtom_mem, foldl_mem]

theorem State.putBound_mem (s : State) (c : Site) (r : Regs) : (s.putBound c r).mem = s.mem := by
  unfold State.putBound
  split <;> rfl

theorem State.startCopy_mem (s : State) (c : Site) (cp : Copy) : (s.startCopy c cp).mem = s.mem := by
  exact foldl_mem _ (fun s d => State.modSheet_mem ..) _ _

theorem State.checkCopy_mem (s : State) (c : Site) (n : Nat) (globals : List Req) (locals : List (Nat × Nat))
    (t : List (Req × Leaf) × State) (e : s.checkCopy c n globals locals = .ok t) : t.2.mem = s.mem := by
  unfold State.checkCopy at e
  simp only at e
  repeat' (split at e)
  all_goals first | (cases e; done) | exact State.checkAccess_mem _ _ _ _ e
theorem State.checkCopy_error_mem (s : State) (c : Site) (n : Nat) (globals : List Req) (locals : List (Nat × Nat))
    (t : Trap × State) (e : s.checkCopy c n globals locals = .error t) : t.2.mem = s.mem := by
  unfold State.checkCopy at e
  simp only at e
  repeat' (split at e)
  all_goals first | (cases e; rfl) | exact State.checkAccess_error_mem _ _ _ _ e

theorem State.modPend_mem (s : State) (sid id : Nat) (f : PendColl → PendColl) : (s.modPend sid id f).mem = s.mem := by
  rfl

theorem State.sendColl_mem (s : State) (sid : Nat) (p : PendColl) : (s.sendColl sid p).mem = s.mem := by
  unfold State.sendColl
  dsimp only
  split
  · rfl
  · simp only [State.wakeLines_mem]
    split
    all_goals
      simp only [State.countUp_mem, State.modPend_mem]
      rw [foldl_mem _ (fun s n => State.stampLine_mem ..)]
      split <;> rfl

theorem State.dropColl_mem (s : State) (sid id : Nat) : (s.dropColl sid id).mem = s.mem := by
  rfl

theorem State.finishColl_mem (s : State) (sid : Nat) (p : PendColl) (ms : List CollMsg) :
    (s.finishColl sid p ms).mem = s.mem := by
  unfold State.finishColl
  dsimp only
  rw [State.rouse_mem, State.wakeLines_mem, State.dropColl_mem, foldl_mem _ (fun s n => by rw [State.stampLine_mem, State.modSheet_mem])]
  exact foldl_mem _ (fun s r => State.writeSpad_mem ..) _ _

theorem State.killColl_mem (s : State) (sid : Nat) (p : PendColl) : (s.killColl sid p).mem = s.mem := by
  rfl

theorem State.collStep_mem (s : State) (id : Nat)
    (t : State) (e : s.collStep id = some t) : t.mem = s.mem := by
  grind -ring -linarith -order -ac [State.collStep, State.finishColl_mem, State.killColl_mem, State.sendColl_mem]

theorem State.wakeDraws_mem (s : State) (ctx slot : Nat) : (s.wakeDraws ctx slot).mem = s.mem := by
  rfl

theorem State.bindDraw_mem (s : State) (c : Site) (slot draw : Nat) (ctx : Context) :
    (s.bindDraw c slot draw ctx).mem = s.mem := by
  unfold State.bindDraw
  split <;> rfl

theorem State.frameRecord_error_mem (s : State) (c : Site) (lead va key : Nat)
    (t : Trap × State) (e : s.frameRecord c lead va key = .error t) : t.2.mem = s.mem := by
  unfold State.frameRecord at e
  simp only at e
  repeat' (split at e)
  all_goals first | (cases e; done) | skip
  · cases e; rfl
  · next h => cases e; exact (State.checkAccess_error_mem _ _ _ _ h :)
  · next h _ _ _ => cases e; exact State.checkAccess_mem _ _ _ _ h
theorem State.frameRecord_mem (s : State) (c : Site) (lead va key : Nat)
    (t : FrameRec × Option Nat × State) (e : s.frameRecord c lead va key = .ok t) : t.2.2.mem = s.mem := by
  unfold State.frameRecord at e
  simp only at e
  repeat' (split at e)
  all_goals first | (cases e; done) | skip
  all_goals (injection e with e; subst e)
  · rfl
  · exact (State.loadAll_mem ..).trans (State.checkAccess_mem _ _ _ _ ‹_›)

theorem State.sendPrimitive_mem (s : State) (dies : List Nat) (r : FrameRec) (p : Packet) :
    (s.sendPrimitive dies r p).mem = s.mem := by
  grind -ring -linarith -order -ac [State.sendPrimitive, foldl_mem]

theorem State.sendMarkers_mem (s : State) (c : Site) (slot draw : Nat) (l : Launch) :
    (s.sendMarkers c slot draw l).mem = s.mem := by
  grind -ring -linarith -order -ac [State.sendMarkers, foldl_mem]

theorem State.modDraw_mem (s : State) (die ctx slot draw gcm1 : Nat) (f : DrawState → DrawState) :
    (s.modDraw die ctx slot draw gcm1 f).mem = s.mem := by
  rfl

theorem State.planesOk_mem (s : State) (w : Issuer) (pages : List Nat) : (s.planesOk w pages).2.mem = s.mem := by
  exact State.translatePages_mem ..

theorem State.beginDraw_mem (s : State) (die cx clk fr : Nat) : (s.beginDraw die cx clk fr).2.mem = s.mem := by
  unfold State.beginDraw
  dsimp only
  split
  · next h => exact State.checkAccess_error_mem _ _ _ _ h
  · next h =>
    have h1 := State.checkAccess_mem _ _ _ _ h
    repeat' split
    all_goals (simp only [State.planesOk_mem, State.drew_mem, State.markReads_mem]; exact h1)

theorem State.planeLeaf_mem (s : State) (cx die clk fr va : Nat) : (s.planeLeaf cx die clk fr va).2.mem = s.mem := by
  grind -ring -linarith -order -ac [State.planeLeaf, State.asyncError_mem, State.leafOf_mem]

theorem State.spendEnergy_mem (s : State) (c : Site) (n : Nat) : (s.spendEnergy c n).mem = s.mem := by
  unfold State.spendEnergy
  split <;> rfl

theorem State.readFrame_error_mem (s : State) (c : Site) (n : Nat)
    (t : Trap × State) (e : s.readFrame c n = .error t) : t.2.mem = s.mem := by
  unfold State.readFrame at e
  simp only at e
  repeat' (split at e)
  all_goals first | (cases e; done) | skip
  · cases e; exact State.checkAccess_error_mem _ _ _ _ ‹_›
  · cases e; exact State.checkAccess_mem _ _ _ _ ‹_›
theorem State.readFrame_mem (s : State) (c : Site) (n : Nat)
    (t : List Byte × Option Nat × State) (e : s.readFrame c n = .ok t) : t.2.2.mem = s.mem := by
  unfold State.readFrame at e
  simp only at e
  repeat' (split at e)
  all_goals first | (cases e; done) | skip
  all_goals (injection e with e; subst e)
  exact (State.loadAll_mem ..).trans (State.checkAccess_mem _ _ _ _ ‹_›)

theorem State.recheckDeps_mem (s : State) (cx clk : Nat) (page : Pages) : (s.recheckDeps cx clk page).mem = s.mem := by
  unfold State.recheckDeps
  refine foldl_mem _ (fun s p => foldl_mem _ (fun s d => ?_) _ _) _ _
  dsimp only
  split
  · split
    · next h => simp only [State.testWatches_mem, State.modLaunch_mem]; exact (congrArg (·.2.mem) h).symm.trans (State.leafOf_mem ..)
    · next h => rw [State.asyncError_mem]; exact (congrArg (·.2.mem) h).symm.trans (State.leafOf_mem ..)
  · rfl

theorem State.codeBlock_mem (s : State) (h : Sheet) (key va pa : Nat) :
    (s.codeBlock h key va pa).2.mem = s.mem := by
  grind -ring -linarith -order -ac [State.codeBlock, State.drew_mem, State.modLaunch_mem]

theorem State.fetchAt_mem (s : State) (sid : Nat) (h : Sheet) (agent : Agent) (atS : Bool) (die : Nat) (clk : Nat) (pc : Word) :
    (s.fetchAt sid h agent atS die clk pc).2.mem = s.mem := by
  refine ite_mem_snd _ rfl ?_
  simp only
  split
  · next h => exact State.checkAccess_error_mem _ _ _ _ h
  · next h => exact State.checkAccess_mem _ _ _ _ h
  · next h =>
    have h1 := State.checkAccess_mem _ _ _ _ h
    split
    · exact h1
    · rw [State.observe_mem, State.codeBlock_mem]; exact h1

theorem State.fetch_mem (s : State) (c : Site) : (s.fetch c).2.mem = s.mem := by
  grind -ring -linarith -order -ac [State.fetch, State.fetchAt_mem]

theorem State.skipPad_mem (s : State) (c : Site) : (s.skipPad c).mem = s.mem := by
  unfold State.skipPad
  split <;> rfl

theorem State.siteAt_mem (s : State) (sid gang : Nat) (pc : Word) (enb : Mask) :
    (s.siteAt sid gang pc enb).2.2.mem = s.mem := by
  grind -ring -linarith -order -ac [State.siteAt, State.drew_mem, State.fetchAt_mem]

theorem State.waitSite_mem (s : State) (sid gang : Nat) (pick : Sheet → Thread → Bool) (cause : Nat) :
    (s.waitSite sid gang pick cause).2.mem = s.mem := by
  unfold State.waitSite
  split
  · rfl
  · dsimp only
    have h0 : ∀ p : Prop, [Decidable p] → ∀ k : Nat, (if p then (0, s) else (k, s.drew)).2.mem = s.mem := fun p _ k => by split <;> rfl
    split
    · exact h0 _ _
    · split
      · exact h0 _ _
      · rw [State.siteAt_mem]; exact h0 _ _

theorem State.waitSites_mem (s : State) (gs : List (Nat × Nat)) (pick : Sheet → Thread → Bool) (cause : Nat) :
    (s.waitSites gs pick cause).2.mem = s.mem :=
  foldl_mem_snd (β := List (TrapSite × Trap)) _ (fun _ _ => State.waitSite_mem ..) _ _

theorem State.forget_mem (s : State) (i : Interval) : (s.forget i).mem = s.mem := rfl

theorem State.pickPc_mem (s : State) (g : Gang) (ok : Nat → Thread → Bool) : (s.pickPc g ok).2.mem = s.mem := by
  grind -ring -linarith -order -ac [State.pickPc, State.drew_mem]

theorem State.enterCluster_mem (s : State) (k : Nat) : (s.enterCluster k).mem = s.mem := by
  rfl

theorem State.leaveCluster_mem (s : State) (k : Nat) : (s.leaveCluster k).mem = s.mem := by
  unfold State.leaveCluster
  simp only
  split <;> rfl

theorem State.startWaves_mem (s : State) (sid : Nat) : (s.startWaves sid).mem = s.mem := by
  grind -ring -linarith -order -ac [State.startWaves, State.releaseWaves_mem]

theorem State.placeNew_mem (s : State) (launch index k : Nat) : (s.placeNew launch index k).mem = s.mem := by
  grind -ring -linarith -order -ac [State.placeNew, State.enterCluster_mem, State.errBoundary_mem, State.startWaves_mem]

theorem State.readSources_mem (s : State) (sid : Nat) : (s.readSources sid).mem = s.mem := by
  grind -ring -linarith -order -ac [State.readSources, State.mergeSource_mem, State.sendColl_mem, foldl_mem]

theorem State.setAside_mem (s : State) (sid : Nat) (home : Residence) : (s.setAside sid home).mem = s.mem := by
  grind -ring -linarith -order -ac [State.setAside, State.leaveCluster_mem, State.unpin_mem]

theorem State.queueRestore_mem (s : State) (sid die : Nat) : (s.queueRestore sid die).mem = s.mem := by
  rfl

theorem State.deliverHeldArrivals_mem (s : State) (sid : Nat) (l : List HeldArrival) :
    (s.deliverHeldArrivals sid l).mem = s.mem := by
  grind -ring -linarith -order -ac [State.deliverHeldArrivals, State.countUp_mem, foldl_mem]

theorem State.readAtoms_error_mem (s : State) (c : Site) (va n : Nat)
    (t : Trap × State) (e : s.readAtoms c va n = .error t) : t.2.mem = s.mem := by
  unfold State.readAtoms at e
  split at e
  · next h => cases e; exact State.checkAccess_error_mem _ _ _ _ h
  · next h =>
    split at e
    · cases e; exact State.checkAccess_mem _ _ _ _ h
    · cases e
theorem State.readAtoms_mem (s : State) (c : Site) (va n : Nat)
    (t : List Byte × Option Nat × State) (e : s.readAtoms c va n = .ok t) : t.2.2.mem = s.mem := by
  unfold State.readAtoms at e
  split at e
  · cases e
  · next h =>
    split at e
    · cases e
    · injection e with e; subst e
      exact (State.loadAll_mem ..).trans (State.checkAccess_mem _ _ _ _ h)

theorem State.stewardTime_mem (s : State) (w : Issuer) (t : Nat) : (s.stewardTime w t).mem = s.mem := by
  unfold State.stewardTime
  split <;> rfl

/-- What a step of reading a submission leaves of memory, whether it goes on or not. -/
def keptBy {ε β : Type} (m : Store Byte) : Except (ε × State) (β × Issuer × State) → Prop
  | .error e => e.2.mem = m
  | .ok t => t.2.2.mem = m

theorem State.readSpan_kept (s : State) (w : Issuer) (va n z : Nat) : keptBy s.mem (s.readSpan w va n z) := by
  unfold State.readSpan
  simp only
  split
  · next h => exact State.checkAccess_error_mem _ _ _ _ h
  · next h =>
    have h1 := State.checkAccess_mem _ _ _ _ h
    split
    · exact h1
    · simp only [keptBy, State.stewardTime_mem, State.drew_mem, State.markReads_mem]; exact h1
theorem State.readSpan_mem (s : State) (w : Issuer) (va n z : Nat)
    (t : List Byte × Issuer × State) (e : s.readSpan w va n z = .ok t) : t.2.2.mem = s.mem := by
  have := State.readSpan_kept s w va n z; rw [e] at this; exact this
theorem State.readSpan_error_mem (s : State) (w : Issuer) (va n z : Nat)
    (t : Unread × State) (e : s.readSpan w va n z = .error t) : t.2.mem = s.mem := by
  have := State.readSpan_kept s w va n z; rw [e] at this; exact this

theorem State.counterLeaf_mem (s : State) (w : Issuer) (va : Nat) : (s.counterLeaf w va).2.mem = s.mem := by
  unfold State.counterLeaf
  dsimp only
  split
  · rfl
  · exact State.leafOf_mem ..

theorem foldl_kept {α β ε : Type} {m : Store Byte}
    (f : Except (ε × State) (β × Issuer × State) → α → Except (ε × State) (β × Issuer × State))
    (h : ∀ q a, keptBy m q → keptBy m (f q a)) (l : List α) (q : Except (ε × State) (β × Issuer × State))
    (hq : keptBy m q) : keptBy m (l.foldl f q) := by
  induction l generalizing q with
  | nil => exact hq
  | cons a l ih => exact ih _ (h q a hq)

theorem State.readPatches_kept (s : State) (w : Issuer) (k : Nat) (h : Header) : keptBy s.mem (s.readPatches w k h) := by
  unfold State.readPatches
  split
  · rfl
  · split
    · next h => exact State.readSpan_error_mem _ _ _ _ _ _ h
    · next bs w1 s1 h =>
      refine foldl_kept _ (fun q a hq => ?_) _ _ (State.readSpan_mem _ _ _ _ _ _ h)
      match q, hq with
      | .error e, hq => exact hq
      | .ok (ps, w2, s2), hq =>
        have hq : s2.mem = s.mem := hq
        simp only
        split
        · next h3 =>
          split at h3
          · next h4 => cases h3; exact (State.readSpan_error_mem _ _ _ _ _ _ h4).trans hq
          · next y w4 s4 h4 =>
            have h5 := (State.readSpan_mem _ _ _ _ _ _ h4).trans hq
            split at h3
            · cases h6 : s4.readSpan w4 (k + bitsOf (ofBytesLE (List.take 8 (List.drop (8 * a) bs))) 0 24 / 4 * 4 + 4) 4 4 with
              | error e => rw [h6] at h3; cases h3; exact (State.readSpan_error_mem _ _ _ _ _ _ h6).trans h5
              | ok z => rw [h6] at h3; cases h3
            · cases h3
        · next h3 =>
          split at h3
          · cases h3
          · next y w4 s4 h4 =>
            have h5 := (State.readSpan_mem _ _ _ _ _ _ h4).trans hq
            split at h3
            · cases h6 : s4.readSpan w4 (k + bitsOf (ofBytesLE (List.take 8 (List.drop (8 * a) bs))) 0 24 / 4 * 4 + 4) 4 4 with
              | error e => rw [h6] at h3; cases h3
              | ok z => obtain ⟨zb, zw, zs⟩ := z; rw [h6] at h3; cases h3; exact (State.readSpan_mem _ _ _ _ _ _ h6).trans h5
            · cases h3; exact h5

theorem State.readCounters_kept (s : State) (w : Issuer) (l : List (Nat × Nat)) : keptBy s.mem (s.readCounters w l) := by
  induction l generalizing s w with
  | nil => rfl
  | cons a l ih =>
    obtain ⟨a, y⟩ := a
    have h1 := State.counterLeaf_mem s w a
    simp only [State.readCounters]
    cases h : s.counterLeaf w a with
    | mk o s1 =>
      rw [h] at h1
      cases o with
      | none => exact h1
      | some l1 =>
        have h2 := ih s1 (w.learn [({ lane := 0, va := a, size := 8, kind := .read }, l1)])
        simp only
        cases h3 : s1.readCounters (w.learn [({ lane := 0, va := a, size := 8, kind := .read }, l1)]) l with
        | error e => rw [h3] at h2; exact Eq.trans h2 h1
        | ok t => rw [h3] at h2; exact Eq.trans h2 h1

theorem State.readSubmission_mem (s : State) (w : Issuer) (r : LaunchRec) :
    (match s.readSubmission w r with | .error e => e.2 | .ok t => t.2).mem = s.mem := by
  unfold State.readSubmission
  have h1 := State.readSpan_kept s w r.kaddr 128 32
  cases e1 : s.readSpan w r.kaddr 128 32 with
  | error e => rw [e1] at h1; exact h1
  | ok t1 =>
  rw [e1] at h1
  obtain ⟨hb, w1, s1⟩ := t1
  have h1 : s1.mem = s.mem := h1
  simp only
  have h2 := State.readSpan_kept s1 w1 r.paddr (Header.of hb).psize 4
  cases e2 : s1.readSpan w1 r.paddr (Header.of hb).psize 4 with
  | error e => rw [e2] at h2; exact Eq.trans h2 h1
  | ok t2 =>
  rw [e2] at h2
  obtain ⟨params, w2, s2⟩ := t2
  have h2 : s2.mem = s.mem := Eq.trans h2 h1
  simp only
  have h3 := State.readCounters_kept s2 w2 ((if r.cpv then [(r.caddr, 0)] else []) ++ r.used)
  cases e3 : s2.readCounters w2 ((if r.cpv then [(r.caddr, 0)] else []) ++ r.used) with
  | error e => rw [e3] at h3; exact Eq.trans h3 h2
  | ok t3 =>
  rw [e3] at h3
  obtain ⟨cs, w3, s3⟩ := t3
  have h3 : s3.mem = s.mem := Eq.trans h3 h2
  simp only
  cases e4 : s3.checkAccess { w3 with atS := false } [{ lane := 0, va := (r.kaddr + (Header.of hb).entry) / 4 * 4, size := 4, kind := .fetch }] with
  | error e => exact (State.checkAccess_error_mem _ _ _ _ e4).trans h3
  | ok t4 =>
  obtain ⟨xs, s4⟩ := t4
  have h4 : s4.mem = s.mem := (State.checkAccess_mem _ _ _ _ e4).trans h3
  simp only
  have h5 := State.readSpan_kept s4 (w3.learn xs) (r.kaddr + (Header.of hb).coff) (Header.of hb).csize (if (Header.of hb).coff % 4 = 0 then 4 else 1)
  cases e5 : s4.readSpan (w3.learn xs) (r.kaddr + (Header.of hb).coff) (Header.of hb).csize (if (Header.of hb).coff % 4 = 0 then 4 else 1) with
  | error e => rw [e5] at h5; exact Eq.trans h5 h4
  | ok t5 =>
  rw [e5] at h5
  obtain ⟨image, w5, s5⟩ := t5
  have h5 : s5.mem = s.mem := Eq.trans h5 h4
  simp only
  have h6 := State.readPatches_kept s5 w5 r.kaddr (Header.of hb)
  cases e6 : s5.readPatches w5 r.kaddr (Header.of hb) with
  | error e => rw [e6] at h6; exact Eq.trans h6 h5
  | ok t6 => rw [e6] at h6; exact Eq.trans h6 h5

theorem State.acceptDep_mem (s : State) (cx clk : Nat) (d : Nat × Nat × Leaf) : (s.acceptDep cx clk d).2.mem = s.mem :=
  State.markRead_mem ..

theorem State.submit_kept (s : State) (cx : Nat) (w : Issuer) (rec : List Byte) :
    (match s.submit cx w rec with | .error e => e.2 | .ok t => t.2).mem = s.mem := by
  by_cases h1 : (!(LaunchRec.of rec).recordOk) = true
  · simp only [State.submit, if_pos h1]
  by_cases h2 : (!(LaunchRec.of rec).alignOk) = true
  · simp only [State.submit, if_neg h1, if_pos h2]
  have h := State.readSubmission_mem s w (LaunchRec.of rec)
  simp only [State.submit, if_neg h1, if_neg h2]
  generalize s.readSubmission w (LaunchRec.of rec) = x at h ⊢
  match x, h with
  | .error (.xlate, s1), h => exact h
  | .error (.lost t, s1), h => exact h
  | .ok (x, s1), h =>
  by_cases h3 : s1.submissionStatus cx x ≠ 0
  · simp only [if_pos h3]; exact h
  · simp only [if_neg h3]
    simp only [State.tryEligible_mem, State.stewardTime_mem]
    exact (foldl_mem_snd (β := List Dep) _ (fun q d => State.acceptDep_mem ..) _ _).trans h
theorem State.submit_mem (s : State) (cx : Nat) (w : Issuer) (rec : List Byte) (t : Nat × State)
    (e : s.submit cx w rec = .ok t) : t.2.mem = s.mem := by
  have h := State.submit_kept s cx w rec; rw [e] at h; exact h
theorem State.submit_error_mem (s : State) (cx : Nat) (w : Issuer) (rec : List Byte) (t : Trap × State)
    (e : s.submit cx w rec = .error t) : t.2.mem = s.mem := by
  have h := State.submit_kept s cx w rec; rw [e] at h; exact h

theorem State.rotate_mem (s : State) (die key : Nat) : (s.rotate die key).mem = s.mem := by
  unfold State.rotate
  split <;> rfl

theorem State.removeSheet_mem (s : State) (sid : Nat) : (s.removeSheet sid).mem = s.mem := by
  unfold State.removeSheet
  split
  · rfl
  · next h _ =>
    cases hc : h.cluster? <;> simp [State.leaveCluster_mem, State.unpin_mem]

theorem State.poisonWord_mem (s : State) (pa : Nat) : (s.poisonWord pa).mem = s.mem := by
  rfl

theorem State.poisonPool_mem (s : State) (p : Nat × PoolWord) : (s.poisonPool p).mem = s.mem := by
  unfold State.poisonPool
  split
  · rfl
  · split <;> rfl
theorem State.readmit_mem (s : State) (n : Nat) : (s.readmit n).mem = s.mem := rfl

theorem State.sweepWord_mem (s : State) (pa : Nat) : (s.sweepWord pa).mem = s.mem := by
  grind -ring -linarith -order -ac [State.sweepWord, State.asyncError_mem, State.poisonWord_mem, foldl_mem]

theorem State.checkGrade_mem (s : State) : (s.checkGrade).mem = s.mem := by
  grind -ring -linarith -order -ac [State.checkGrade, State.drew_mem, State.notice_mem]

theorem State.quarantine_mem (s : State) (k cx : Nat) : (s.quarantine k cx).mem = s.mem := by
  grind -ring -linarith -order -ac [State.quarantine, State.checkGrade_mem, State.drew_mem, State.modCluster_mem, State.modSheet_mem,
    State.notice_mem, foldl_mem]

theorem State.endAudit_mem (s : State) (a : Nat) (x : Audit) : (s.endAudit a x).mem = s.mem := by
  rfl

theorem State.auditError_mem (s : State) (x : Audit) (code : Nat) : (s.auditError x code).mem = s.mem := by
  grind -ring -linarith -order -ac [State.auditError, State.asyncError_mem]

theorem State.judge_mem (s : State) (a : Nat) (x : Audit) : (s.judge a x).mem = s.mem := by
  grind -ring -linarith -order -ac [State.judge, State.auditError_mem, State.endAudit_mem, State.quarantine_mem]

theorem State.readyGangs_mem (s : State) (k : Nat) (c : Cluster) : (s.readyGangs k c).2.mem = s.mem := by
  grind -ring -linarith -order -ac [State.readyGangs, State.pickPc_mem, foldl_mem_snd]

theorem State.laneCycle_mem (s : State) (k : Nat) : (s.laneCycle k).mem = s.mem := by
  unfold State.laneCycle
  split
  · rfl
  · exact foldl_mem _ (fun s p => State.modSheet_mem ..) _ _

theorem State.clockCycle_mem (s : State) (k : Nat) (slot : Option (Nat × Nat)) : (s.clockCycle k slot).mem = s.mem := by
  unfold State.clockCycle
  rw [State.laneCycle_mem, State.modCluster_mem]

theorem State.halfPass_mem (s : State) (k : Nat) : (s.halfPass k).mem = s.mem := by
  unfold State.halfPass
  rw [State.modCluster_mem, State.laneCycle_mem]

theorem State.activate_mem (s : State) (k now window : Nat) (rs : List Ready) : (s.activate k now window rs).mem = s.mem :=
  foldl_mem _ (fun s m => State.modSheet_mem ..) _ _

theorem State.previewed_mem (s : State) (sid : Nat) (h : Sheet) (n : Nat) (g : Gang) (pc : Word) :
    (s.previewed sid h n g pc).2.mem = s.mem := State.fetchAt_mem ..

theorem State.startIssue_mem (s : State) (r : Ready) : (s.startIssue r).mem = s.mem := by
  unfold State.startIssue
  split
  · rfl
  · exact State.previewed_mem ..

theorem State.issueCycle_mem (s : State) (k : Nat) : (s.issueCycle k).mem = s.mem := by
  unfold State.issueCycle
  split
  · rfl
  · simp only [State.clockCycle_mem]
    split
    all_goals
      simp only [State.startIssue_mem, State.activate_mem]
      rw [foldl_mem _ (fun s x => State.modGang_mem ..), State.readyGangs_mem]

theorem State.seqIssue_mem (s : State) (sid : Nat) (k : SeqKind) : (s.seqIssue sid k).mem = s.mem := by
  unfold State.seqIssue
  split <;> rfl

theorem State.reply_mem (s : State) (code : Nat) (h : CmdHdr) (stat : Nat) (body : List Byte) :
    (s.reply code h stat body).mem = s.mem := by
  rfl

theorem State.renew_mem (s : State) (h : CmdHdr) : (s.renew h).mem = s.mem := by
  rfl

theorem State.port_mem (s : State) (bs : List Byte) : (s.port bs).1.mem = s.mem := by
  grind -ring -linarith -order -ac [State.port, State.reply_mem]

theorem State.threadArrival_mem (s : State) (c : Site) (i : Instr) (b : Nat) (pd : Option (Fin 8)) (l : Nat) :
    (s.threadArrival c i b pd l).1.mem = s.mem := by
  unfold State.threadArrival
  simp only
  have h1 : (match pd with
      | none => s
      | some p => s.modGang c.sid c.gang fun q =>
        q.modThread l fun t => { t with pc := c.next i, st := .barrier b p, since := s.now }).mem = s.mem := by cases pd <;> rfl
  split
  · exact h1
  · split
    · exact h1
    · rw [State.tryPhase_mem, State.modBar_mem]; exact h1

theorem State.reportErrs_mem (s : State) : s.reportErrs.mem = s.mem := by
  refine foldl_mem _ (fun s c => ?_) _ _
  rw [State.modCtx_mem]
  exact foldl_mem _ (fun s e => State.notice_mem ..) _ _

theorem State.dropPriors_mem (s : State) : s.dropPriors.mem = s.mem := by
  exact foldl_mem _ (fun s a => State.putAtom_mem ..) _ _

theorem State.track_mem (s : State) : (s.track).mem = s.mem := by
  exact (State.dropPriors_mem _).trans (State.reportErrs_mem s)

theorem State.setDue_mem (s : State) : s.setDue.mem = s.mem := by
  refine foldl_mem_snd (β := List (Happening × Nat)) _ (fun q h => ?_) _ _
  split <;> rfl

theorem State.choose_mem (s : State) : (s.choose).2.mem = s.mem := by
  unfold State.choose
  split <;> rfl

end Sys2Proof.Machine
end

