-- ==== Sys2Proof/Laws/MemForm.lean ====
section
/-! SUPPORT. Every operation that writes memory keeps its canonical form: one law for each. -/

namespace Sys2Proof.Machine

-- One declaration after another: a thread for each would take more memory than the package may.
set_option Elab.async false

/-! ### Folds -/

theorem foldl_wf {α : Type} (f : State → α → State) (h : ∀ s a, Memory.wf s.mem = true → Memory.wf (f s a).mem = true)
    (l : List α) (s : State)
    (hs : Memory.wf s.mem = true) : Memory.wf (l.foldl f s).mem = true := by
  induction l generalizing s with
  | nil => exact hs
  | cons a l ih => exact ih _ (h s a hs)
theorem foldl_wf_fst {α β : Type} (f : State × β → α → State × β)
    (h : ∀ q a, Memory.wf q.1.mem = true → Memory.wf (f q a).1.mem = true) (l : List α) (q : State × β)
    (hs : Memory.wf q.1.mem = true) : Memory.wf (l.foldl f q).1.mem = true := by
  induction l generalizing q with
  | nil => exact hs
  | cons a l ih => exact ih _ (h q a hs)
theorem foldl_wf_snd {α β : Type} (f : β × State → α → β × State)
    (h : ∀ q a, Memory.wf q.2.mem = true → Memory.wf (f q a).2.mem = true) (l : List α) (q : β × State)
    (hs : Memory.wf q.2.mem = true) : Memory.wf (l.foldl f q).2.mem = true := by
  induction l generalizing q with
  | nil => exact hs
  | cons a l ih => exact ih _ (h q a hs)

theorem State.perform_wf (s : State) (w : Writer) (t pa : Nat) (bs : List (Option Byte)) (folio : Option Nat)
    (hs : Memory.wf s.mem = true) :
    Memory.wf (s.perform w t pa bs folio).mem = true := by
  rw [State.perform]
  split
  · exact hs
  have h0 : ∀ (q : State) (x : Atom), (q.putAtom pa x).mem = q.mem := fun q x => State.putAtom_mem ..
  have hp := fun b => Memory.wf_putBytes (Memory.wf_putBytes hs (pa / 32 * 32) b) pa bs
  cases w.sheet <;> simp only <;> (repeat' split) <;>
    simp only [State.testWatches_mem, State.asyncError_mem, State.modSheet_mem, h0, State.observe_mem] <;> exact hp _

theorem State.rewriteLeaf_wf (s : State) (cx at_ : Nat) (bs : List (Option Byte)) (hs : Memory.wf s.mem = true) :
    Memory.wf (s.rewriteLeaf cx at_ bs).mem = true := by
  grind -ring -linarith -order -ac [State.rewriteLeaf, State.perform_wf]

theorem State.placeWrite_wf (s : State) (w : Writer) (c pa : Nat) (bs : List (Option Byte))
    (t : State × Nat) (e : s.placeWrite w c pa bs = some t) (hs : Memory.wf s.mem = true) : Memory.wf t.1.mem = true := by
  grind -ring -linarith -order -ac [State.placeWrite, State.perform_wf]

theorem State.writeBack_wf (s : State) (k cx c key : Nat) (home : Option Nat) (pa n : Nat) (hs : Memory.wf s.mem = true) :
    Memory.wf (s.writeBack k cx c key home pa n).mem = true := by
  refine foldl_wf _ (fun s tag hs => ?_) _ _ hs
  rw [State.modCluster_mem]
  cases h : s.placeWrite _ _ _ _ with
  | none => simpa [State.exhaust_mem] using hs
  | some t => simpa using State.placeWrite_wf _ _ _ _ _ _ h hs

theorem State.sweepPage_wf (s : State) (cx c page : Nat) (l : Leaf) (hs : Memory.wf s.mem = true) :
    Memory.wf (s.sweepPage cx c page l).mem = true := by
  refine foldl_wf _ (fun s k hs => ?_) _ _ hs
  simp only [State.modCluster_mem]
  refine foldl_wf _ (fun s a hs => ?_) _ _ hs
  split
  · rw [State.asyncError_mem]; exact hs
  · exact State.writeBack_wf _ _ _ _ _ _ _ _ hs

theorem State.convert_wf (s : State) (cx page : Nat) (hs : Memory.wf s.mem = true) :
    Memory.wf (s.convert cx page).mem = true := by
  unfold State.convert
  split
  · simp only [State.discard_mem]
    split
    · exact hs
    · next l _ =>
      have h1 : ∀ (b : Bool) (t : State), Memory.wf t.mem = true →
          Memory.wf (if b then t.sweepPage cx 0 page l else t).mem = true := fun b t h => by
        cases b
        · exact h
        · exact State.sweepPage_wf _ _ _ _ _ h
      apply h1
      split
      · exact State.rewriteLeaf_wf _ _ _ _ hs
      · exact hs
  · exact hs

theorem State.beforeWrite_wf (s : State) (cx va : Nat) (hs : Memory.wf s.mem = true) :
    Memory.wf (s.beforeWrite cx va).mem = true := State.convert_wf _ _ _ hs

theorem State.closeFolio_wf (s : State) (cx slot : Nat) (hs : Memory.wf s.mem = true) :
    Memory.wf (s.closeFolio cx slot).mem = true := by
  unfold State.closeFolio
  split
  · exact hs
  · next f _ =>
    have h0 := foldl_wf _ (fun s j hs => State.beforeWrite_wf _ cx (FolioStore.va j) hs) f.joins s hs
    have h1 : ∀ (g : Nat → Option FolioStore) (v : Option FolioStore → Nat) (w : Option FolioStore → Writer) (t k : Nat) (l : List Nat) (u : State), Memory.wf u.mem = true →
        Memory.wf (l.foldl (fun s a => if s.unreach (32 * a) then s.asyncError cx 7 (v (g a)) 0
          else s.perform (w (g a)) t (32 * a) (f.pending a) (some k)) u).mem = true := fun g v w t k l u hu =>
      foldl_wf _ (fun s a hs => by
        split
        · rw [State.asyncError_mem]; exact hs
        · exact State.perform_wf _ _ _ _ _ _ hs) _ _ hu
    simp only
    split
    · split <;> simp only [State.modGang_mem, State.modCtx_mem] <;>
        exact h1 (fun a => f.joins.find? fun j => j.pa / 32 == a) (fun j => (j.map (·.va)).getD 0 / 32 * 32)
          (fun j => { sheet := none, ctx := cx, key := (j.map (·.key)).getD 0, home := j.map (·.home) }) _ _ _ _ h0
    · rw [State.exhaust_mem]; exact h0

theorem State.closeAll_wf (s : State) (cx : Nat) (hs : Memory.wf s.mem = true) : Memory.wf (s.closeAll cx).mem = true := by
  exact foldl_wf _ (fun s n hs => State.closeFolio_wf _ _ _ hs) _ _ hs

theorem State.placeOp_wf (s : State) (w : Writer) (c : Nat) (p : LaneWrite) (t : State × Nat) (e : s.placeOp w c p = some t)
    (hs : Memory.wf s.mem = true) : Memory.wf t.1.mem = true := by
  unfold State.placeOp at e
  split at e
  · exact State.placeWrite_wf _ _ _ _ _ _ e hs
  · simp only at e
    split at e
    · cases e; rw [State.markRead_mem]; exact hs
    · cases e

theorem State.performPart_wf (s : State) (w : PendWrite) (p : LaneWrite) (hs : Memory.wf s.mem = true) :
    Memory.wf (s.performPart w p).mem = true := by
  unfold State.performPart
  simp only
  split
  · rw [State.asyncError_mem]; exact hs
  · split
    · split
      · exact hs
      · exact State.writeBack_wf _ _ _ _ _ _ _ _ (State.beforeWrite_wf _ _ _ hs)
    · have h1 := State.beforeWrite_wf s w.ctx p.va hs
      have h2 : ∀ u : State, Memory.wf u.mem = true → Memory.wf (u.executed p).mem = true := fun u h => by
        rw [State.executed_mem]; exact h
      (repeat' split) <;> first
        | exact hs
        | exact h1
        | (rw [State.exhaust_mem]; first | exact hs | exact h1)
        | (rw [State.modGang_mem]; exact State.placeOp_wf _ _ _ _ _ ‹_› (h2 _ (by first | exact hs | exact h1)))

theorem State.performWrite_wf (s : State) (id : Nat) (hs : Memory.wf s.mem = true) :
    Memory.wf (s.performWrite id).mem = true := by
  grind -ring -linarith -order -ac [State.performWrite, State.performPart_wf, State.arrived_mem, foldl_wf]

theorem State.writePart_wf (s : State) (id n : Nat) (hs : Memory.wf s.mem = true) :
    Memory.wf (s.writePart id n).mem = true := by
  grind -ring -linarith -order -ac [State.writePart, State.performPart_wf, State.arrived_mem]

theorem State.drain_wf (s : State) (f : PendWrite → Bool) (hs : Memory.wf s.mem = true) :
    Memory.wf (s.drain f).mem = true := by
  grind -ring -linarith -order -ac [State.drain, State.performWrite_wf, foldl_wf]

theorem State.drainLanes_wf (s : State) (k g : Nat) (m : Mask) (hs : Memory.wf s.mem = true) :
    Memory.wf (s.drainLanes k g m).mem = true := by
  grind -ring -linarith -order -ac [State.drainLanes, State.drain_wf]

theorem State.drainSheet_wf (s : State) (k : Nat) (hs : Memory.wf s.mem = true) :
    Memory.wf (s.drainSheet k).mem = true := by
  grind -ring -linarith -order -ac [State.drainSheet, State.drain_wf]

theorem State.performElem_wf (s : State) (cp : Copy) (e : CopyElem) (hs : Memory.wf s.mem = true) :
    Memory.wf (s.performElem cp e).1.mem = true := by
  grind -ring -linarith -order -ac [State.performElem, State.asyncError_mem, State.beforeWrite_wf, State.exhaust_mem, State.placeWrite_wf]

theorem State.dropCopy_wf (s : State) (cp : Copy) (hs : Memory.wf s.mem = true) :
    Memory.wf (s.dropCopy cp).mem = true := by
  grind -ring -linarith -order -ac [State.dropCopy, State.drew_mem, State.performElem_wf, foldl_wf]

theorem State.endContext_wf (s : State) (cx origin code : Nat) (hs : Memory.wf s.mem = true) :
    Memory.wf (s.endContext cx origin code).mem = true := by
  grind -ring -linarith -order -ac [State.endContext, State.drain_wf, State.closeAll_wf, State.dropCopy_wf, State.leaveCluster_mem, State.modCluster_mem, State.notice_mem, foldl_wf]

theorem State.reap_wf (s : State) (hs : Memory.wf s.mem = true) :
    Memory.wf (s.reap).mem = true := by
  grind -ring -linarith -order -ac [State.reap, State.endContext_wf, State.exhaust_mem, foldl_wf]

theorem State.storeBlock_wf (s : State) (w : Issuer) (sheet : Option Nat) (va : Nat) (bs : List Byte)
    (t : State × Nat) (e : s.storeBlock w sheet va bs = .ok t) (hs : Memory.wf s.mem = true) : Memory.wf t.1.mem = true := by
  unfold State.storeBlock at e
  simp only at e
  split at e
  · cases e
  · next h =>
    injection e with e; subst e
    refine foldl_wf_fst _ (fun q p hq => ?_) _ _ ?_
    · split
      · rw [State.asyncError_mem]; exact hq
      · have h1 := State.beforeWrite_wf q.1 w.cx p.1.1.va hq
        split
        · rw [State.exhaust_mem]; exact h1
        · next h => exact State.placeWrite_wf _ _ _ _ _ _ h h1
    · rw [State.checkAccess_mem _ _ _ _ h]; exact hs

theorem State.storeBlock_error_mem (s : State) (w : Issuer) (sheet : Option Nat) (va : Nat) (bs : List Byte)
    (t : Trap × State) (e : s.storeBlock w sheet va bs = .error t) : t.2.mem = s.mem := by
  unfold State.storeBlock at e
  simp only at e
  split at e
  · next h => cases e; exact State.checkAccess_error_mem _ _ _ _ h
  · cases e

theorem State.trapEnds_wf (s : State) (cx sid gang : Nat) (t : Trap) (hs : Memory.wf s.mem = true) :
    Memory.wf (s.trapEnds cx sid gang t).mem = true := by
  grind -ring -linarith -order -ac [State.trapEnds, State.drew_mem, State.endContext_wf, State.notice_mem]

theorem State.trapEntry_wf (s : State) (ts : TrapSite) (t : Trap) (f : TrapFlag) (hs : Memory.wf s.mem = true) :
    Memory.wf (s.trapEntry ts t f).mem = true := by
  unfold State.trapEntry
  split
  · exact hs
  split
  · split
    · exact hs
    split
    · exact hs
    split
    · exact State.trapEnds_wf _ _ _ _ _ hs
    split
    · exact State.trapEnds_wf _ _ _ _ _ hs
    have h1 := fun n => State.drainLanes_wf s ts.sid ts.gang (lanesBelow n) hs
    simp only
    split
    · next h => exact State.trapEnds_wf _ _ _ _ _ (by rw [State.storeBlock_error_mem _ _ _ _ _ _ h]; exact h1 _)
    · next h => exact State.storeBlock_wf _ _ _ _ _ _ h (h1 _)
  · exact hs

theorem State.deliverHeld_wf (s : State) (sid : Nat) (k : SeqKind) (taker : Option Nat) (hs : Memory.wf s.mem = true) :
    Memory.wf (s.deliverHeld sid k taker).mem = true := by
  unfold State.deliverHeld
  split
  · exact hs
  simp only
  split
  · exact hs
  split
  · rw [State.modSheet_mem, State.asyncError_mem]; exact hs
  split
  · exact hs
  have h1 : ∀ (xs : List Nat) (s : State) (g : Nat) (f : Nat → Gang → Gang), Memory.wf s.mem = true →
      Memory.wf (xs.foldl (fun s q => if q == g then s else s.modGang sid q (f q)) s).mem = true :=
    fun xs s g f hs => foldl_wf _ (fun s a hs => by split <;> exact hs) _ _ hs
  split
  · exact h1 _ _ _ (fun q x => _) hs
  · exact State.trapEntry_wf _ _ _ _ (h1 _ _ _ (fun q x => _) hs)

theorem State.holdTrap_wf (s : State) (sid : Nat) (k : SeqKind) (pc noff : Word) (t : Trap) (hs : Memory.wf s.mem = true) :
    Memory.wf (s.holdTrap sid k pc noff t).mem = true := by
  grind -ring -linarith -order -ac [State.holdTrap, State.deliverHeld_wf, State.modSheet_mem]

theorem State.afterExit_wf (s : State) (sid : Nat) (hs : Memory.wf s.mem = true) :
    Memory.wf (s.afterExit sid).mem = true := by
  grind -ring -linarith -order -ac [State.afterExit, State.deliverHeld_wf, State.modSheet_mem, foldl_wf]

theorem State.finishAt_wf (s : State) (c : Site) (i : Instr) (next : Nat → Word) (hs : Memory.wf s.mem = true) :
    Memory.wf (s.finishAt c i next).mem = true := by
  unfold State.finishAt
  apply State.reap_wf
  cases c.agent
  · cases h : i.reaches <;> simpa [h] using hs
  · exact hs

theorem State.finish_wf (s : State) (c : Site) (i : Instr) (hs : Memory.wf s.mem = true) :
    Memory.wf (s.finish c i).mem = true := by
  grind -ring -linarith -order -ac [State.finish, State.finishAt_wf]

theorem State.waitIn_wf (s : State) (c : Site) (st : TState) (hs : Memory.wf s.mem = true) :
    Memory.wf (s.waitIn c st).mem = true := by
  grind -ring -linarith -order -ac [State.waitIn, State.modGang_mem, State.reap_wf]

theorem State.seqWait_wf (s : State) (c : Site) (w : SeqWait) (hs : Memory.wf s.mem = true) :
    Memory.wf (s.seqWait c w).mem = true := by
  grind -ring -linarith -order -ac [State.seqWait, State.modSheet_mem, State.reap_wf]

theorem State.takeTrap_wf (s : State) (c : Site) (site : TrapSite) (t : Trap) (hs : Memory.wf s.mem = true) :
    Memory.wf (s.takeTrap c site t).mem = true := by
  unfold State.takeTrap
  cases c.agent <;> simp only <;> split
  · exact hs
  · exact State.reap_wf _ (State.trapEntry_wf _ _ _ _ hs)
  · exact hs
  · exact State.reap_wf _ (State.holdTrap_wf _ _ _ _ _ _ hs)

theorem State.raise_wf (s : State) (c : Site) (i : Instr) (t : Trap) (hs : Memory.wf s.mem = true) :
    Memory.wf (s.raise c i t).mem = true := by
  exact State.takeTrap_wf _ _ _ _ hs

theorem State.waitLines_wf (s : State) (c : Site) (i : Instr) (lines : List Nat) (need : LineNeed)
    (hs : Memory.wf s.mem = true) :
    Memory.wf (s.waitLines c i lines need).mem = true := by
  grind -ring -linarith -order -ac [State.waitLines, State.raise_wf, State.seqWait_wf, State.waitIn_wf]

theorem State.closeFor_wf (s : State) (c : Site) (g : Nat) (hs : Memory.wf s.mem = true) :
    Memory.wf (s.closeFor c g).mem = true := by
  grind -ring -linarith -order -ac [State.closeFor, State.closeFolio_wf, foldl_wf]

theorem State.copyElem_wf (s : State) (id n : Nat) (hs : Memory.wf s.mem = true) :
    Memory.wf (s.copyElem id n).mem = true := by
  unfold State.copyElem
  simp only
  (repeat' split) <;> first
    | (rw [State.mergeSource_mem]; exact hs)
    | (rw [State.modCopy_mem]
       refine State.performElem_wf _ _ _ ?_
       rw [State.contestOut_mem, State.signCopy_mem, State.copyLoses_mem, State.mergeSource_mem]
       exact hs)

theorem State.copyOut_wf (s : State) (id n : Nat) (hs : Memory.wf s.mem = true) : Memory.wf (s.copyOut id n).mem = true := by
  induction n generalizing s with
  | zero => exact hs
  | succ n ih => exact ih _ (State.copyElem_wf _ _ _ hs)

theorem State.completeCopy_wf (s : State) (id : Nat) (hs : Memory.wf s.mem = true) :
    Memory.wf (s.completeCopy id).1.mem = true := by
  unfold State.completeCopy
  simp only
  have h1 := State.copyOut_wf (s.copyRead id) id (((tabGet id (s.copyRead id).copies).map (·.out.length)).getD 0)
    (by rw [State.copyRead_mem]; exact hs)
  split
  · exact h1
  · next cp _ =>
    have h2 : ∀ s : State, Memory.wf s.mem = true → ∀ b : Bool, Memory.wf (if b then s else s.exhaust cp.ctx).mem = true :=
      fun s hs b => by cases b <;> simpa [State.exhaust_mem] using hs
    have h3 : ∀ (s : State) (t : Nat), Memory.wf s.mem = true → Memory.wf (cp.dests.foldl (fun (q : State × List Nat) d =>
        ((q.1.copyInto id cp d t).1, if (q.1.copyInto id cp d t).2 then q.2 ++ [d.sheet] else q.2)) (s, [])).1.mem = true :=
      fun s t hs => foldl_wf_fst (β := List Nat) _ (fun q d hq => by rw [State.copyInto_mem]; exact hq) _ _ hs
    have h4 := h3 _ (cp.top + 1) (h2 _ h1 (decide (cp.top + 1 < timeEnd)))
    simp only [decide_eq_true_eq] at h4
    split
    · rw [State.launchTime_mem, State.wakeLines_mem]; exact h4
    · rw [State.keepCount_mem, State.countUp_mem, State.launchTime_mem, State.wakeLines_mem]; exact h4

theorem State.takeShadow_wf (s : State) (sid : Nat) (hs : Memory.wf s.mem = true) :
    Memory.wf (s.takeShadow sid).mem = true := by
  grind -ring -linarith -order -ac [State.takeShadow, State.drainSheet_wf, State.unpin_mem]

theorem State.shadowGo_wf (n : Nat) (ks : List Nat) (s : State) (hs : Memory.wf s.mem = true) : Memory.wf
    (State.shadowGo n ks s).mem = true := by
  induction n generalizing ks s with
  | zero => simpa [State.shadowGo] using hs
  | succ n ih =>
    cases ks with
    | nil => simpa [State.shadowGo] using hs
    | cons k ks =>
      simp only [State.shadowGo]
      split
      · exact ih _ _ (State.completeCopy_wf _ _ hs)
      · exact ih _ _ (State.takeShadow_wf _ _ hs)

theorem State.shadowPoints_wf (s : State) (ks : List Nat) (hs : Memory.wf s.mem = true) :
    Memory.wf (s.shadowPoints ks).mem = true := by
  exact State.shadowGo_wf _ _ _ hs

theorem State.pixel_wf (s : State) (cx die clk : Nat) (r : FrameRec) (px py z : Nat) (vid : Word)
    (hs : Memory.wf s.mem = true) :
    Memory.wf (s.pixel cx die clk r px py z vid).1.mem = true := by
  grind -ring -linarith -order -ac [State.pixel, State.asyncError_mem, State.beforeWrite_wf, State.exhaust_mem, State.markRead_mem,
    State.perform_wf, State.planeLeaf_mem]

theorem State.rasterise_wf (s : State) (die clk : Nat) (r : FrameRec) (p : Packet) (hs : Memory.wf s.mem = true) :
    Memory.wf (s.rasterise die clk r p).1.mem = true := by
  grind -ring -linarith -order -ac [State.rasterise, State.pixel_wf, foldl_wf_fst]

theorem State.drainCtx_wf (s : State) (cx : Nat) (hs : Memory.wf s.mem = true) :
    Memory.wf (s.drainCtx cx).mem = true := by
  grind -ring -linarith -order -ac [State.drainCtx, State.drain_wf]

theorem State.drainCopies_wf (s : State) (cx : Nat) (page : Pages) (hs : Memory.wf s.mem = true) :
    Memory.wf (s.drainCopies cx page).mem = true := by
  grind -ring -linarith -order -ac [State.drainCopies, State.completeCopy_wf, State.shadowPoints_wf, foldl_wf]

theorem State.settlePages_wf (s : State) (cx c : Nat) (page : Pages) (hs : Memory.wf s.mem = true) :
    Memory.wf (s.settlePages cx c page).mem = true :=
  foldl_wf _ (fun _ _ hs => State.sweepPage_wf _ _ _ _ _ hs) _ _ (State.drainCopies_wf _ _ _ (State.drainCtx_wf _ _ hs))

theorem State.invalidate_wf (s : State) (cx c : Nat) (page : Pages) (hs : Memory.wf s.mem = true) :
    Memory.wf (s.invalidate cx c page).1.mem = true := by
  unfold State.invalidate
  simp only
  rw [State.recheckDeps_mem, State.discard_mem]
  exact State.settlePages_wf _ _ _ _ hs

theorem State.sweepSoft_wf (s : State) (cx : Nat) (hs : Memory.wf s.mem = true) : Memory.wf (s.sweepSoft cx).mem = true :=
  foldl_wf _ (fun _ _ hs => State.sweepPage_wf _ _ _ _ _ hs) _ _ hs

theorem State.fetchTrap_wf (s : State) (c : Site) (t : Trap) (site : Option (Word × Guard)) (hs : Memory.wf s.mem = true) :
    Memory.wf (s.fetchTrap c t site).mem = true :=
  State.takeTrap_wf _ _ _ _ hs

theorem State.takeTraps_wf (s : State) (l : List (TrapSite × Trap)) (hs : Memory.wf s.mem = true) :
    Memory.wf (s.takeTraps l).mem = true := by
  exact State.reap_wf _ (foldl_wf _ (fun s p hs => State.trapEntry_wf _ _ _ _ hs) _ _ hs)

theorem State.waitTrap_wf (s : State) (sid gang : Nat) (pick : Sheet → Thread → Bool) (cause : Nat)
    (hs : Memory.wf s.mem = true) :
    Memory.wf (s.waitTrap sid gang pick cause).mem = true := by
  unfold State.waitTrap
  dsimp only
  exact State.takeTraps_wf _ _ (by rw [State.waitSites_mem]; exact hs)

theorem State.deadlockSheets_wf (s : State) (sids : List Nat) (hs : Memory.wf s.mem = true) :
    Memory.wf (s.deadlockSheets sids).mem = true := by
  unfold State.deadlockSheets
  dsimp only
  exact State.takeTraps_wf _ _ (by rw [State.waitSites_mem]; exact hs)

theorem State.finishInbound_wf (s : State) (sid : Nat) (lost : Bool) (n : Nat) (hs : Memory.wf s.mem = true) : Memory.wf
    (s.finishInbound sid lost n).mem = true := by
  induction n generalizing s with
  | zero => exact hs
  | succ n ih =>
    simp only [State.finishInbound]
    split
    · exact hs
    · exact ih _ (State.shadowPoints_wf _ _ (State.completeCopy_wf _ _ hs))

theorem State.stopSheet_wf (s : State) (sid : Nat) (lost : Bool) (hs : Memory.wf s.mem = true) :
    Memory.wf (s.stopSheet sid lost).mem = true := by
  unfold State.stopSheet
  rw [State.modSheet_mem, State.readSources_mem]
  exact State.finishInbound_wf _ _ _ _ (State.drainSheet_wf _ _ hs)

theorem State.writeImage_mem (s : State) (sid : Nat) : (s.writeImage sid).mem = s.mem := by
  unfold State.writeImage
  split <;> rfl

theorem State.errDelivered_wf (s : State) (sid : Nat) (t : State) (e : s.errDelivered sid = some t) (hs : Memory.wf s.mem = true) :
    Memory.wf t.mem = true := by
  unfold State.errDelivered at e
  split at e
  · cases e
  split at e
  · split at e
    · cases e
    split at e
    · cases e; exact hs
    · next n g _ =>
      simp only [Option.some.injEq] at e
      subst e
      refine State.reap_wf _ ?_
      rw [State.modCtx_mem]
      refine State.trapEntry_wf _ _ _ _ ?_
      rw [State.siteAt_mem, State.modCtx_mem, State.pickPc_mem]
      exact hs
  · cases e

theorem State.enterDue_wf (s : State) (sid : Nat) (hs : Memory.wf s.mem = true) : Memory.wf (s.enterDue sid).mem = true := by
  unfold State.enterDue
  have h1 : Memory.wf ((s.errDelivered sid).getD s).mem = true := by
    cases h : s.errDelivered sid with
    | none => exact hs
    | some t => exact State.errDelivered_wf _ _ _ h hs
  simp only
  split
  · exact h1
  · exact foldl_wf _ (fun s g hs => State.waitTrap_wf _ _ _ _ _ hs) _ _ h1

theorem State.saveSheet_wf (s : State) (sid : Nat) (hs : Memory.wf s.mem = true) :
    Memory.wf (s.saveSheet sid).mem = true := by
  unfold State.saveSheet
  have h1 := State.enterDue_wf s sid hs
  simp only
  split
  · exact h1
  · rw [State.queueRestore_mem, State.setAside_mem, State.writeImage_mem]
    exact State.stopSheet_wf _ _ _ h1

theorem State.restoreSheet_wf (s : State) (sid k : Nat) (hs : Memory.wf s.mem = true) :
    Memory.wf (s.restoreSheet sid k).mem = true := by
  grind -ring -linarith -order -ac [State.restoreSheet, State.deadlockSheets_wf, State.deliverHeldArrivals_mem, State.enterCluster_mem,
    State.errBoundary_mem, State.modSheet_mem, State.startWaves_mem, State.takeShadow_wf]

theorem State.unwrite_wf (s : State) (i : Interval) (hs : Memory.wf s.mem = true) :
    Memory.wf (s.unwrite i).mem = true := by
  unfold State.unwrite
  refine foldl_wf _ (fun s a hs => ?_) _ _ hs
  simp only
  repeat' split
  all_goals first
    | exact hs
    | (rw [State.putAtom_mem]; exact hs)
    | (rw [State.putAtom_mem]; exact Memory.wf_putBytes hs _ _)

theorem State.finishInterval_wf (s : State) (sid : Nat) (hs : Memory.wf s.mem = true) :
    Memory.wf (s.finishInterval sid).mem = true := by
  grind -ring -linarith -order -ac [State.finishInterval, State.completeCopy_wf, State.shadowPoints_wf, foldl_wf]

theorem State.discardInterval_wf (s : State) (sid : Nat) (hs : Memory.wf s.mem = true) :
    Memory.wf (s.discardInterval sid).mem = true := by
  grind -ring -linarith -order -ac [State.discardInterval, State.drain_wf, State.finishInterval_wf, State.forget_mem, State.unwrite_wf]

theorem State.flushSheet_wf (s : State) (sid : Nat) (hs : Memory.wf s.mem = true) :
    Memory.wf (s.flushSheet sid).mem = true := by
  unfold State.flushSheet
  split
  · exact hs
  · refine State.reap_wf _ ?_
    rw [State.queueRestore_mem, State.setAside_mem, State.modSheet_mem]
    exact State.discardInterval_wf _ _ (State.stopSheet_wf _ _ _ hs)

theorem State.storeChunks_wf (s : State) (sid cx : Nat) (xs : List (Req × Leaf)) (bs : List Byte) (t : Nat)
    (hs : Memory.wf s.mem = true) :
    Memory.wf (s.storeChunks sid cx xs bs t).1.mem = true := by
  induction xs generalizing s bs t with
  | nil => exact hs
  | cons x xs ih =>
    simp only [State.storeChunks]
    split
    · exact ih _ _ _ (by rw [State.asyncError_mem]; exact hs)
    · have h1 := State.beforeWrite_wf s cx x.1.va hs
      split
      · exact ih _ _ _ (by rw [State.exhaust_mem]; exact h1)
      · next h => exact ih _ _ _ (State.placeWrite_wf _ _ _ _ _ _ h h1)

theorem State.requestPreempt_wf (s : State) (sid L : Nat) (hs : Memory.wf s.mem = true) :
    Memory.wf (s.requestPreempt sid L).mem = true := by
  grind -ring -linarith -order -ac [State.requestPreempt, State.modSheet_mem]

theorem State.increment_wf (s : State) (l : Launch) (hs : Memory.wf s.mem = true) :
    Memory.wf (s.increment l).mem = true := by
  unfold State.increment
  have h0 := State.counterLeaf_mem s { cx := l.ctx, die := (s.ctxDies l.ctx).headD 0, atS := false, clk := l.maxTime + 1 } l.caddr
  simp only
  split
  · next leaf s1 h =>
    rw [h] at h0
    have h0 : s1.mem = s.mem := h0
    split
    · rw [State.asyncError_mem, h0]; exact hs
    · have h1 := State.beforeWrite_wf s1 l.ctx l.caddr (by rw [h0]; exact hs)
      split
      · rw [State.exhaust_mem]; exact h1
      · next h => exact State.placeWrite_wf _ _ _ _ _ _ h h1
  · next s1 h =>
    rw [h] at h0
    rw [State.asyncError_mem]
    exact (congrArg (fun m => Memory.wf m = true) h0).mpr hs

theorem State.rollBack_wf (s : State) (sid : Nat) (hs : Memory.wf s.mem = true) :
    Memory.wf (s.rollBack sid).mem = true := by
  grind -ring -linarith -order -ac [State.rollBack, State.discardInterval_wf, State.drain_wf, State.finishInterval_wf, State.modSheet_mem, State.startWaves_mem,
    State.stopSheet_wf, State.wakeLines_mem]

theorem State.killSite_mem (s : State) (sid n : Nat) (h : Sheet) (g : Gang) (consumed : Bool) :
    (s.killSite sid n h g consumed).2.mem = s.mem := by
  unfold State.killSite
  split
  · rfl
  · dsimp only
    rw [State.drew_mem, State.siteAt_mem, State.pickPc_mem]

theorem State.kill_wf (s : State) (sid gang : Nat) (consumed : Bool) (hs : Memory.wf s.mem = true) :
    Memory.wf (s.kill sid gang consumed).mem = true := by
  unfold State.kill
  split
  · exact hs
  · dsimp only
    split
    · exact hs
    · refine State.reap_wf _ ?_
      rw [State.modSheet_mem]
      refine State.trapEntry_wf _ _ _ _ ?_
      rw [foldl_mem _ (fun s cx => State.asyncError_mem ..), State.killSite_mem]
      exact hs

theorem State.rekeyAtom_wf (s : State) (key a : Nat) (hs : Memory.wf s.mem = true) : Memory.wf (s.rekeyAtom key a).mem = true := by
  unfold State.rekeyAtom
  rw [State.putAtom_mem]
  exact Memory.wf_putBytes hs _ _

theorem State.movePage_wf (s : State) (src dst key : Nat) (hs : Memory.wf s.mem = true) :
    Memory.wf (s.movePage src dst key).mem = true := by
  unfold State.movePage
  exact storeWf_foldl _ _ (fun m b h => Memory.wf_stPut h _ _) _
    (Memory.wf_filter (foldl_wf _ (fun s a hs => State.rekeyAtom_wf s key a hs) _ _ hs) _)

theorem State.cutover_wf (s : State) (id : Nat) (m : Migration) (hs : Memory.wf s.mem = true) : Memory.wf (s.cutover id m).mem = true := by
  unfold State.cutover
  simp only
  split
  · exact hs
  · rw [State.recheckDeps_mem, State.discard_mem]
    exact State.rewriteLeaf_wf _ _ _ _ (State.movePage_wf _ _ _ _ (State.settlePages_wf _ _ _ _ hs))

theorem State.popEntry_wf (s : State) (c : Site) (i : Instr) (q : Nat) (pd : Fin 8) (d : Fin 64) (e : QEntry)
    (hs : Memory.wf s.mem = true) :
    Memory.wf (s.popEntry c i q pd d e).mem = true := by
  grind -ring -linarith -order -ac [State.popEntry, State.finish_wf, State.modSheet_mem, State.pinDown_mem, State.putRegs_mem, State.raiseTo_mem]

theorem State.endContexts_wf (s : State) (f : Context → Bool) (code : Nat) (hs : Memory.wf s.mem = true) :
    Memory.wf (s.endContexts f code).mem = true := by
  grind -ring -linarith -order -ac [State.endContexts, State.endContext_wf, foldl_wf]

theorem State.refill_wf (s : State) (k : Nat) (old new : List Byte) (a : Nat) (hs : Memory.wf s.mem = true) :
    Memory.wf (s.refill k old new a).mem = true := by
  unfold State.refill
  dsimp only
  rw [State.putAtom_mem]
  split
  · exact Memory.wf_putBytes hs _ _
  · exact hs

theorem State.rekey_wf (s : State) (k : Nat) (key : List Byte) (hs : Memory.wf s.mem = true) :
    Memory.wf (s.rekey k key).mem = true := by
  grind -ring -linarith -order -ac [State.rekey, State.refill_wf, foldl_wf]

theorem State.load_wf (s : State) (part : Nat) (c : Checkpoint) (hs : Memory.wf s.mem = true) :
    Memory.wf (s.load part c).mem = true := by
  unfold State.load
  refine foldl_wf _ (fun s h hs => ?_) _ _ ?_
  · rw [State.queueRestore_mem]; exact hs
  · exact storeWf_foldl _ _ (fun m b h => Memory.wf_stPut h _ _) _ (Memory.wf_filter hs _)

theorem putEntry_wf (m : Store Byte) (at_ lo pa : Nat) (hs : Memory.wf m = true) : Memory.wf (putEntry m at_ lo pa) = true :=
  Memory.wf_putBytes hs _ _
theorem placedMem_wf (m : Store Byte) (code : List Byte) (hs : Memory.wf m = true) : Memory.wf (placedMem m code) = true :=
  Memory.wf_putBytes (storeWf_foldl _ _ (fun _ _ h => putEntry_wf _ _ _ _ h) _ (putEntry_wf _ _ _ _ (putEntry_wf _ _ _ _ hs))) _ _

theorem State.placed_wf (s : State) (word : List Byte) (hs : Memory.wf s.mem = true) :
    Memory.wf (s.placed word).mem = true := by
  exact placedMem_wf _ _ hs

theorem State.withFetchWord_wf (s : State) (_nbits w : Nat) (hs : Memory.wf s.mem = true) :
    Memory.wf (s.withFetchWord _nbits w).mem = true := by
  grind -ring -linarith -order -ac [State.withFetchWord, State.placed_wf]

end Sys2Proof.Machine
end

