-- ==== Sys2Proof/Laws/Meanings.lean ====
section
/-! SUPPORT. Every meaning keeps the canonical form of memory: one law for each. -/

namespace Sys2Proof.Machine

-- One declaration after another: a thread for each would take more memory than the package may.
set_option Elab.async false

/-- A next state's memory is in canonical form. -/
def OkMem (o : Host.Outcome State Fault Refusal) : Prop := ∀ t, o = .next t → Memory.wf t.mem = true
theorem okMem_next {s : State} (h : Memory.wf s.mem = true) : OkMem (.next s) := fun _ e => by cases e; exact h
theorem okMem_fault (r : Fault) : OkMem (.fault r) := fun _ e => by cases e
theorem okMem_refused (r : Refusal) : OkMem (.refused r) := fun _ e => by cases e

theorem okMem_ite {p : Prop} [Decidable p] {x y : Host.Outcome State Fault Refusal} (hx : OkMem x) (hy : OkMem y) :
    OkMem (if p then x else y) := by
  split <;> assumption

theorem enter_okMem (i : Instr) (s : State) (k : Site → Host.Outcome State Fault Refusal)
    (hs : Memory.wf s.mem = true) (hk : ∀ x0, OkMem (k x0)) :
    OkMem (enter i s k) := by
  unfold enter
  grind -ring -linarith -order -ac [okMem_next, okMem_fault, State.raise_wf]

theorem enterGang_okMem (i : Instr) (g : Guard) (s : State) (k : Site → Host.Outcome State Fault Refusal)
    (hs : Memory.wf s.mem = true) (hk : ∀ x0, OkMem (k x0)) :
    OkMem (enterGang i g s k) := by
  unfold enterGang
  refine enter_okMem _ _ _ hs fun c => ?_
  grind -ring -linarith -order -ac [okMem_next, State.finish_wf]

theorem alu_okMem (i : Instr) (s : State) (f : View → Regs) (hs : Memory.wf s.mem = true) :
    OkMem (alu i s f) := by
  unfold alu
  refine enter_okMem _ _ _ hs fun c => ?_
  grind -ring -linarith -order -ac [okMem_next, State.finish_wf, State.putRegs_mem]

theorem orTrap_okMem {α : Type} (s : State) (c : Site) (i : Instr) (r : Except (Trap × State) α)
    (k : α → Host.Outcome State Fault Refusal) (hs : Memory.wf s.mem = true)
    (he : ∀ e, r = .error e → e.2.mem = s.mem) (hk : ∀ x, r = .ok x → OkMem (k x)) : OkMem (orTrap c i r k) := by
  unfold orTrap
  split
  · next t s' => exact okMem_next (State.raise_wf _ _ _ _ (by rw [he (t, s') rfl]; exact hs))
  · exact hk _ rfl
theorem wf_of {s t : State} (h : t.mem = s.mem) (hs : Memory.wf s.mem = true) : Memory.wf t.mem = true := by rw [h]; exact hs
theorem okMem_of {s t : State} (h : t.mem = s.mem) (hs : Memory.wf s.mem = true) : OkMem (.next t) := okMem_next (h ▸ hs)

theorem alu1_okMem (i : Instr) (g : Guard) (d : Reg) (a : Operand) (f : Word → Word) (s : State)
    (hs : Memory.wf s.mem = true) :
    OkMem (alu1 i g d a f s) := by
  unfold alu1
  grind -ring -linarith -order -ac [alu_okMem]

theorem alu2_okMem (i : Instr) (g : Guard) (d : Reg) (a b : Operand) (f : Word → Word → Word) (s : State)
    (hs : Memory.wf s.mem = true) :
    OkMem (alu2 i g d a b f s) := by
  unfold alu2
  grind -ring -linarith -order -ac [alu_okMem]

theorem alu3_okMem (i : Instr) (g : Guard) (d : Reg) (a b c : Operand) (f : Word → Word → Word → Word) (s : State)
    (hs : Memory.wf s.mem = true) :
    OkMem (alu3 i g d a b c f s) := by
  unfold alu3
  grind -ring -linarith -order -ac [alu_okMem]

theorem alu2w_okMem (i : Instr) (g : Guard) (d : Reg) (a b : Operand) (f : DWord → DWord → DWord) (s : State)
    (hs : Memory.wf s.mem = true) :
    OkMem (alu2w i g d a b f s) := by
  unfold alu2w
  grind -ring -linarith -order -ac [alu_okMem]

theorem alu2m_okMem (i : Instr) (g : Guard) (d : Reg) (a b : Operand) (f : DWord → Word → DWord) (s : State)
    (hs : Memory.wf s.mem = true) :
    OkMem (alu2m i g d a b f s) := by
  unfold alu2m
  grind -ring -linarith -order -ac [alu_okMem]

theorem execIadd_okMem (g : Guard) (ty : AddTy) (sat : Bool) (d : Reg) (a b : Operand) (s : State)
    (hs : Memory.wf s.mem = true) :
    OkMem (execIadd g ty sat d a b s) := by
  unfold execIadd
  grind -ring -linarith -order -ac [alu2_okMem, alu2w_okMem]

theorem execIsub_okMem (g : Guard) (ty : AddTy) (sat : Bool) (d : Reg) (a b : Operand) (s : State)
    (hs : Memory.wf s.mem = true) :
    OkMem (execIsub g ty sat d a b s) := by
  unfold execIsub
  grind -ring -linarith -order -ac [alu2_okMem, alu2w_okMem]

theorem execIadd3_okMem (g : Guard) (ty : IntTy) (d : Reg) (a b c : Operand) (s : State) (hs : Memory.wf s.mem = true) :
    OkMem (execIadd3 g ty d a b c s) := by
  unfold execIadd3
  grind -ring -linarith -order -ac [alu3_okMem]

theorem execImul_okMem (g : Guard) (ty : IntTy) (d : Reg) (a b : Operand) (s : State) (hs : Memory.wf s.mem = true) :
    OkMem (execImul g ty d a b s) := by
  unfold execImul
  grind -ring -linarith -order -ac [alu2_okMem]

theorem execImulh_okMem (g : Guard) (ty : IntTy) (d : Reg) (a b : Operand) (s : State) (hs : Memory.wf s.mem = true) :
    OkMem (execImulh g ty d a b s) := by
  unfold execImulh
  grind -ring -linarith -order -ac [alu2_okMem]

theorem execImad_okMem (g : Guard) (ty : IntTy) (d : Reg) (a b c : Operand) (s : State) (hs : Memory.wf s.mem = true) :
    OkMem (execImad g ty d a b c s) := by
  unfold execImad
  grind -ring -linarith -order -ac [alu3_okMem]

theorem execImadw_okMem (g : Guard) (ty : IntTy) (d : Reg) (a b c : Operand) (s : State) (hs : Memory.wf s.mem = true) :
    OkMem (execImadw g ty d a b c s) := by
  unfold execImadw
  grind -ring -linarith -order -ac [alu_okMem]

theorem execIdiv_okMem (g : Guard) (ty : IntTy) (d : Reg) (a b : Operand) (s : State) (hs : Memory.wf s.mem = true) :
    OkMem (execIdiv g ty d a b s) := by
  unfold execIdiv
  grind -ring -linarith -order -ac [alu2_okMem]

theorem execIrem_okMem (g : Guard) (ty : IntTy) (d : Reg) (a b : Operand) (s : State) (hs : Memory.wf s.mem = true) :
    OkMem (execIrem g ty d a b s) := by
  unfold execIrem
  grind -ring -linarith -order -ac [alu2_okMem]

theorem execImin_okMem (g : Guard) (ty : IntTy) (d : Reg) (a b : Operand) (s : State) (hs : Memory.wf s.mem = true) :
    OkMem (execImin g ty d a b s) := by
  unfold execImin
  grind -ring -linarith -order -ac [alu2_okMem]

theorem execImax_okMem (g : Guard) (ty : IntTy) (d : Reg) (a b : Operand) (s : State) (hs : Memory.wf s.mem = true) :
    OkMem (execImax g ty d a b s) := by
  unfold execImax
  grind -ring -linarith -order -ac [alu2_okMem]

theorem execIabs_okMem (g : Guard) (sat : Bool) (d : Reg) (a : Operand) (s : State) (hs : Memory.wf s.mem = true) :
    OkMem (execIabs g sat d a s) := by
  unfold execIabs
  grind -ring -linarith -order -ac [alu1_okMem]

theorem execIneg_okMem (g : Guard) (sat : Bool) (d : Reg) (a : Operand) (s : State) (hs : Memory.wf s.mem = true) :
    OkMem (execIneg g sat d a s) := by
  unfold execIneg
  grind -ring -linarith -order -ac [alu1_okMem]

theorem execClamp_okMem (g : Guard) (ty : IntTy) (d : Reg) (a b c : Operand) (s : State) (hs : Memory.wf s.mem = true) :
    OkMem (execClamp g ty d a b c s) := by
  unfold execClamp
  grind -ring -linarith -order -ac [alu3_okMem]

theorem execFadd_okMem (g : Guard) (r : Rnd) (d : Reg) (a b : Operand) (s : State) (hs : Memory.wf s.mem = true) :
    OkMem (execFadd g r d a b s) := by
  unfold execFadd
  grind -ring -linarith -order -ac [alu2_okMem]

theorem execFsub_okMem (g : Guard) (r : Rnd) (d : Reg) (a b : Operand) (s : State) (hs : Memory.wf s.mem = true) :
    OkMem (execFsub g r d a b s) := by
  unfold execFsub
  grind -ring -linarith -order -ac [alu2_okMem]

theorem execFmul_okMem (g : Guard) (r : Rnd) (d : Reg) (a b : Operand) (s : State) (hs : Memory.wf s.mem = true) :
    OkMem (execFmul g r d a b s) := by
  unfold execFmul
  grind -ring -linarith -order -ac [alu2_okMem]

theorem execFdiv_okMem (g : Guard) (r : Rnd) (d : Reg) (a b : Operand) (s : State) (hs : Memory.wf s.mem = true) :
    OkMem (execFdiv g r d a b s) := by
  unfold execFdiv
  grind -ring -linarith -order -ac [alu2_okMem]

theorem execFfma_okMem (g : Guard) (r : Rnd) (d : Reg) (a b c : Operand) (s : State) (hs : Memory.wf s.mem = true) :
    OkMem (execFfma g r d a b c s) := by
  unfold execFfma
  grind -ring -linarith -order -ac [alu3_okMem]

theorem execFmin_okMem (g : Guard) (d : Reg) (a b : Operand) (s : State) (hs : Memory.wf s.mem = true) :
    OkMem (execFmin g d a b s) := by
  unfold execFmin
  grind -ring -linarith -order -ac [alu2_okMem]

theorem execFmax_okMem (g : Guard) (d : Reg) (a b : Operand) (s : State) (hs : Memory.wf s.mem = true) :
    OkMem (execFmax g d a b s) := by
  unfold execFmax
  grind -ring -linarith -order -ac [alu2_okMem]

theorem execFrnd_okMem (g : Guard) (r : Rnd) (d : Reg) (a : Operand) (s : State) (hs : Memory.wf s.mem = true) :
    OkMem (execFrnd g r d a s) := by
  unfold execFrnd
  grind -ring -linarith -order -ac [alu1_okMem]

theorem execFscale_okMem (g : Guard) (r : Rnd) (d : Reg) (a b : Operand) (s : State) (hs : Memory.wf s.mem = true) :
    OkMem (execFscale g r d a b s) := by
  unfold execFscale
  grind -ring -linarith -order -ac [alu2_okMem]

theorem execFfract_okMem (g : Guard) (d : Reg) (a : Operand) (s : State) (hs : Memory.wf s.mem = true) :
    OkMem (execFfract g d a s) := by
  unfold execFfract
  grind -ring -linarith -order -ac [alu1_okMem]

theorem execFrcp_okMem (g : Guard) (r : Rnd) (d : Reg) (a : Operand) (s : State) (hs : Memory.wf s.mem = true) :
    OkMem (execFrcp g r d a s) := by
  unfold execFrcp
  grind -ring -linarith -order -ac [alu1_okMem]

theorem execFrsq_okMem (g : Guard) (d : Reg) (a : Operand) (s : State) (hs : Memory.wf s.mem = true) :
    OkMem (execFrsq g d a s) := by
  unfold execFrsq
  grind -ring -linarith -order -ac [alu1_okMem]

theorem execFsqrt_okMem (g : Guard) (r : Rnd) (d : Reg) (a : Operand) (s : State) (hs : Memory.wf s.mem = true) :
    OkMem (execFsqrt g r d a s) := by
  unfold execFsqrt
  grind -ring -linarith -order -ac [alu1_okMem]

theorem execFexp2_okMem (g : Guard) (d : Reg) (a : Operand) (s : State) (hs : Memory.wf s.mem = true) :
    OkMem (execFexp2 g d a s) := by
  unfold execFexp2
  grind -ring -linarith -order -ac [alu1_okMem]

theorem execFlog2_okMem (g : Guard) (d : Reg) (a : Operand) (s : State) (hs : Memory.wf s.mem = true) :
    OkMem (execFlog2 g d a s) := by
  unfold execFlog2
  grind -ring -linarith -order -ac [alu1_okMem]

theorem execFsin_okMem (g : Guard) (d : Reg) (a : Operand) (s : State) (hs : Memory.wf s.mem = true) :
    OkMem (execFsin g d a s) := by
  unfold execFsin
  grind -ring -linarith -order -ac [alu1_okMem]

theorem execFcos_okMem (g : Guard) (d : Reg) (a : Operand) (s : State) (hs : Memory.wf s.mem = true) :
    OkMem (execFcos g d a s) := by
  unfold execFcos
  grind -ring -linarith -order -ac [alu1_okMem]

theorem execFcmp_okMem (g : Guard) (cmp : FCmp) (comb : Combine) (pd : Fin 8) (a b : Operand) (s : State)
    (hs : Memory.wf s.mem = true) :
    OkMem (execFcmp g cmp comb pd a b s) := by
  unfold execFcmp
  grind -ring -linarith -order -ac [alu_okMem]

theorem execFclass_okMem (g : Guard) (ty : FloatTy) (hi : Bool) (d : Reg) (a : Operand) (s : State)
    (hs : Memory.wf s.mem = true) :
    OkMem (execFclass g ty hi d a s) := by
  unfold execFclass
  grind -ring -linarith -order -ac [alu1_okMem]

theorem enterMem_okMem (i : Instr) (s : State) (k : State → Site → Host.Outcome State Fault Refusal)
    (hs : Memory.wf s.mem = true) (hk : ∀ x0 x1, Memory.wf x0.mem = true → OkMem (k x0 x1)) :
    OkMem (enterMem i s k) := by
  unfold enterMem
  refine enter_okMem _ _ _ hs fun c => ?_
  grind -ring -linarith -order -ac [okMem_fault, State.closeFor_wf, State.drainLanes_wf]

theorem enterMemGang_okMem (i : Instr) (g : Guard) (s : State) (k : State → Site → Host.Outcome State Fault Refusal)
    (hs : Memory.wf s.mem = true) (hk : ∀ x0 x1, Memory.wf x0.mem = true → OkMem (k x0 x1)) :
    OkMem (enterMemGang i g s k) := by
  unfold enterMemGang
  refine enterMem_okMem _ _ _ hs fun s c hs => ?_
  grind -ring -linarith -order -ac [okMem_next, State.finish_wf]

theorem execLd_okMem (g : Guard) (ty : LoadTy) (d a : Reg) (off : Option Word) (s : State) (hs : Memory.wf s.mem = true) :
    OkMem (execLd g ty d a off s) := by
  unfold execLd
  refine enterMem_okMem _ _ _ hs fun s c hs => ?_
  simp only
  refine orTrap_okMem s _ _ _ _ hs (fun e he => State.checkAccess_error_mem _ _ _ _ he) fun x hx => ?_
  obtain ⟨xs, s'⟩ := x
  have h0 : s'.mem = s.mem := State.checkAccess_mem _ _ _ _ hx
  simp only

  split
  · exact okMem_next (State.raise_wf _ _ _ _ (wf_of h0 hs))
  · refine okMem_next (State.finish_wf _ _ _ ?_)
    rw [State.putRegs_mem]
    have h1 := State.loadAll_mem s' (some c.sid) (c.sh.cluster?.getD 0) (c.clockOver (!d.isVec) (c.accessLanes g !d.isVec)) xs
    split
    · rw [h1, h0]; exact hs
    · rw [State.giveTimes_mem, h1, h0]; exact hs

theorem execSt_okMem (g : Guard) (ty : MemTy) (a : Reg) (off : Option Word) (b : Reg) (s : State)
    (hs : Memory.wf s.mem = true) :
    OkMem (execSt g ty a off b s) := by
  unfold execSt
  refine enterMem_okMem _ _ _ hs fun s c hs => ?_
  simp only
  refine orTrap_okMem s _ _ _ _ hs (fun e he => State.checkAccess_error_mem _ _ _ _ he) fun x hx => ?_
  obtain ⟨xs, s'⟩ := x
  have h0 : s'.mem = s.mem := State.checkAccess_mem _ _ _ _ hx
  simp only
  refine okMem_next (State.finish_wf _ _ _ ?_)
  rw [State.sign_mem, State.issueParts_mem, h0]; exact hs

theorem execWriteAtHome_okMem (id : Nat) (s : State) (hs : Memory.wf s.mem = true) :
    OkMem (execWriteAtHome id s) := by
  unfold execWriteAtHome
  grind -ring -linarith -order -ac [okMem_next, okMem_fault, State.performWrite_wf, State.writePart_wf, State.drew_mem, State.reap_wf]

theorem execStF_okMem (g : Guard) (ty : MemTy) (a : Reg) (off : Option Word) (b h : Reg) (s : State)
    (hs : Memory.wf s.mem = true) :
    OkMem (execStF g ty a off b h s) := by
  unfold execStF
  refine enterMem_okMem _ _ _ hs fun s c hs => ?_
  simp only
  split
  · exact okMem_next (State.finish_wf _ _ _ hs)
  split
  · exact okMem_next (State.raise_wf _ _ _ _ hs)
  refine orTrap_okMem s _ _ _ _ hs (fun e he => State.checkAccess_error_mem _ _ _ _ he) fun x hx => ?_
  obtain ⟨xs, s'⟩ := x
  have h0 : s'.mem = s.mem := State.checkAccess_mem _ _ _ _ hx
  simp only
  split
  · exact okMem_next (State.raise_wf _ _ _ _ (wf_of h0 hs))
  refine okMem_next (State.finish_wf _ _ _ ?_)
  rw [State.noAudit_mem]
  refine foldl_wf _ (fun s x hs => ?_) _ _ (by rw [h0]; exact hs)
  split
  · rw [State.asyncError_mem]; exact hs
  · rw [State.modCtx_mem]; exact State.beforeWrite_wf _ _ _ hs

theorem spadAccess_okMem (i : Instr) (s : State) (c : Site) (n : Nat) (reads : Bool) (xs : List (Nat × Nat))
    (k : Host.Outcome State Fault Refusal) (hs : Memory.wf s.mem = true) (hk : OkMem k) :
    OkMem (spadAccess i s c n reads xs k) := by
  unfold spadAccess
  grind -ring -linarith -order -ac [okMem_next, State.raise_wf, State.waitLines_wf]

theorem execLds_okMem (g : Guard) (ty : LoadTy) (d : Reg) (a : Option Reg) (off : Option Word) (s : State)
    (hs : Memory.wf s.mem = true) :
    OkMem (execLds g ty d a off s) := by
  unfold execLds
  refine enterMem_okMem _ _ _ hs fun s c hs => ?_
  grind -ring -linarith -order -ac [okMem_next, okMem_fault, okMem_refused, spadAccess_okMem, State.finish_wf, State.placeLines_mem,
    State.putRegs_mem, foldl_wf, foldl_wf_fst, foldl_wf_snd, foldl_mem, foldl_mem_fst, foldl_mem_snd]

theorem execSts_okMem (g : Guard) (ty : MemTy) (a : Option Reg) (off : Option Word) (b : Reg) (s : State)
    (hs : Memory.wf s.mem = true) :
    OkMem (execSts g ty a off b s) := by
  unfold execSts
  refine enterMem_okMem _ _ _ hs fun s c hs => ?_
  grind -ring -linarith -order -ac [okMem_next, okMem_fault, okMem_refused, spadAccess_okMem, State.finish_wf, State.placeLines_mem,
    State.writeSpad_mem, foldl_wf, foldl_wf_fst, foldl_wf_snd, foldl_mem, foldl_mem_fst, foldl_mem_snd]

theorem execLdc_okMem (g : Guard) (ty : LoadTy) (d : Reg) (a : Option Reg) (off : Option Word) (s : State)
    (hs : Memory.wf s.mem = true) :
    OkMem (execLdc g ty d a off s) := by
  unfold execLdc
  refine enter_okMem _ _ _ hs fun c => ?_
  grind -ring -linarith -order -ac [okMem_next, State.finish_wf, State.putRegs_mem, State.raise_wf]

theorem execLdq_okMem (g : Guard) (ty : TexTy) (mode : TexMode) (d : Fin 192) (a b rec : Reg) (s : State)
    (hs : Memory.wf s.mem = true) :
    OkMem (execLdq g ty mode d a b rec s) := by
  unfold execLdq
  refine enterMem_okMem _ _ _ hs fun s c hs => ?_
  simp only
  split
  · exact okMem_next (State.raise_wf _ _ _ _ hs)
  split
  · exact okMem_next (State.waitLines_wf _ _ _ _ _ hs)
  split
  · exact okMem_next (State.raise_wf _ _ _ _ hs)
  split
  · exact okMem_next (State.raise_wf _ _ _ _ hs)
  refine orTrap_okMem s _ _ _ _ hs (fun e he => State.checkAccess_error_mem _ _ _ _ he) fun x hx => ?_
  obtain ⟨xs, s'⟩ := x
  have h0 : s'.mem = s.mem := State.checkAccess_mem _ _ _ _ hx
  simp only
  split
  · exact okMem_next (State.raise_wf _ _ _ _ (wf_of h0 hs))
  · refine okMem_next (State.finish_wf _ _ _ ?_)
    rw [State.putRegs_mem]
    have h1 : ∀ (q : State) (ls : List Nat), q.mem = s.mem → ∀ f : Nat → List Nat,
        (ls.foldl (fun s l => s.placeLines c false l .read (f l)) q).mem = s.mem :=
      fun q ls h f => (foldl_mem _ (fun s l => State.placeLines_mem ..) _ _).trans h
    split
    · rw [State.loadAll_mem, h1 _ _ h0 (fun l => [(c.view.reg32 l rec).toNat / 128])]; exact hs
    · rw [State.giveTimes_mem, State.loadAll_mem, h1 _ _ h0 (fun l => [(c.view.reg32 l rec).toNat / 128])]; exact hs

theorem execPref_okMem (g : Guard) (l2 : Bool) (a : Reg) (off : Option Word) (s : State) (hs : Memory.wf s.mem = true) :
    OkMem (execPref g l2 a off s) := by
  unfold execPref
  refine enter_okMem _ _ _ hs fun c => ?_
  grind -ring -linarith -order -ac [okMem_next, State.finish_wf]

theorem execSptest_okMem (g : Guard) (pd : Fin 8) (a : Option Reg) (off : Option Word) (s : State)
    (hs : Memory.wf s.mem = true) :
    OkMem (execSptest g pd a off s) := by
  unfold execSptest
  refine enterMem_okMem _ _ _ hs fun s c hs => ?_
  grind -ring -linarith -order -ac [okMem_next, okMem_fault, okMem_refused, State.finish_wf, State.placeLines_mem, State.putRegs_mem,
    State.raise_wf, foldl_wf, foldl_wf_fst, foldl_wf_snd, foldl_mem, foldl_mem_fst, foldl_mem_snd]

theorem State.issueAtomic_mem (s : State) (c : Site) (once : Bool) (lanes : Mask) (wide : Bool) (d : Reg)
    (ps : List (LaneWrite × Leaf)) : (s.issueAtomic c once lanes wide d ps).mem = s.mem := by
  have h (ps : List (LaneWrite × Leaf)) (q : State) :
      (ps.foldl (fun (s : State) (p : LaneWrite × Leaf) => if p.2.pl = 2 && !p.1.op.compares then s.startConvert c.sh.ctx (p.1.va / 65536) else s) q).mem
        = q.mem := foldl_mem _ (fun s a => by split <;> rfl) _ _
  unfold State.issueAtomic
  split
  · rfl
  · simp only [State.noAudit_mem, State.modGang_mem, State.issueWrite_mem, h]

theorem execAtom_okMem (g : Guard) (op : AtomOp) (d a : Reg) (off : Option Word) (b : Reg) (s : State)
    (hs : Memory.wf s.mem = true) :
    OkMem (execAtom g op d a off b s) := by
  unfold execAtom
  refine enterMem_okMem _ _ _ hs fun s c hs => ?_
  simp only
  refine orTrap_okMem s _ _ _ _ hs (fun e he => State.checkAccess_error_mem _ _ _ _ he) fun x hx => ?_
  obtain ⟨xs, s'⟩ := x
  have h0 : s'.mem = s.mem := State.checkAccess_mem _ _ _ _ hx
  simp only
  split
  · exact okMem_next (State.raise_wf _ _ _ _ (wf_of h0 hs))
  · exact okMem_next (State.finish_wf _ _ _ (by rw [State.issueAtomic_mem, h0]; exact hs))

theorem execAtoms_okMem (g : Guard) (op : AtomOp) (d : Reg) (a : Option Reg) (off : Option Word) (b : Reg) (s : State)
    (hs : Memory.wf s.mem = true) :
    OkMem (execAtoms g op d a off b s) := by
  unfold execAtoms
  refine enterMem_okMem _ _ _ hs fun s c hs => ?_
  grind -ring -linarith -order -ac [okMem_next, okMem_fault, okMem_refused, spadAccess_okMem, State.finish_wf, State.placeLines_mem,
    State.putRegs_mem, State.writeSpad_mem, foldl_wf, foldl_wf_fst, foldl_wf_snd, foldl_mem, foldl_mem_fst, foldl_mem_snd]

theorem execCas_okMem (g : Guard) (ty : BitTy) (d a : Reg) (off : Option Word) (b n : Reg) (s : State)
    (hs : Memory.wf s.mem = true) :
    OkMem (execCas g ty d a off b n s) := by
  unfold execCas
  refine enterMem_okMem _ _ _ hs fun s c hs => ?_
  simp only
  refine orTrap_okMem s _ _ _ _ hs (fun e he => State.checkAccess_error_mem _ _ _ _ he) fun x hx => ?_
  obtain ⟨xs, s'⟩ := x
  have h0 : s'.mem = s.mem := State.checkAccess_mem _ _ _ _ hx
  simp only
  split
  · exact okMem_next (State.raise_wf _ _ _ _ (wf_of h0 hs))
  · exact okMem_next (State.finish_wf _ _ _ (by rw [State.issueAtomic_mem, h0]; exact hs))

theorem execRed_okMem (g : Guard) (op : AtomOp) (a : Reg) (off : Option Word) (b : Reg) (s : State)
    (hs : Memory.wf s.mem = true) :
    OkMem (execRed g op a off b s) := by
  unfold execRed
  refine enterMem_okMem _ _ _ hs fun s c hs => ?_
  simp only
  refine orTrap_okMem s _ _ _ _ hs (fun e he => State.checkAccess_error_mem _ _ _ _ he) fun x hx => ?_
  obtain ⟨xs, s'⟩ := x
  have h0 : s'.mem = s.mem := State.checkAccess_mem _ _ _ _ hx
  refine okMem_next (State.finish_wf _ _ _ ?_)
  simp only [State.sign_mem, State.issueParts_mem, h0]; exact hs

theorem execAtagg_okMem (g : Guard) (op : AggOp) (d : Reg) (a : Fin 64) (off : Option Word) (b : Reg) (s : State)
    (hs : Memory.wf s.mem = true) :
    OkMem (execAtagg g op d a off b s) := by
  unfold execAtagg
  refine enterMem_okMem _ _ _ hs fun s c hs => ?_
  simp only
  split
  · exact okMem_next (State.finish_wf _ _ _ hs)
  refine orTrap_okMem s _ _ _ _ hs (fun e he => State.checkAccess_error_mem _ _ _ _ he) fun x hx => ?_
  obtain ⟨xs, s'⟩ := x
  have h0 : s'.mem = s.mem := State.checkAccess_mem _ _ _ _ hx
  simp only
  split
  · exact okMem_next (State.raise_wf _ _ _ _ (wf_of h0 hs))
  · exact okMem_next (State.finish_wf _ _ _ hs)
  · exact okMem_next (State.finish_wf _ _ _ (by rw [State.issueAtomic_mem, h0]; exact hs))

theorem execAnd_okMem (g : Guard) (ty : BitTy) (d : Reg) (a b : Operand) (s : State) (hs : Memory.wf s.mem = true) :
    OkMem (execAnd g ty d a b s) := by
  unfold execAnd
  grind -ring -linarith -order -ac [alu2_okMem, alu2w_okMem]

theorem execOr_okMem (g : Guard) (ty : BitTy) (d : Reg) (a b : Operand) (s : State) (hs : Memory.wf s.mem = true) :
    OkMem (execOr g ty d a b s) := by
  unfold execOr
  grind -ring -linarith -order -ac [alu2_okMem, alu2w_okMem]

theorem execXor_okMem (g : Guard) (ty : BitTy) (d : Reg) (a b : Operand) (s : State) (hs : Memory.wf s.mem = true) :
    OkMem (execXor g ty d a b s) := by
  unfold execXor
  grind -ring -linarith -order -ac [alu2_okMem, alu2w_okMem]

theorem execAndn_okMem (g : Guard) (ty : BitTy) (d : Reg) (a b : Operand) (s : State) (hs : Memory.wf s.mem = true) :
    OkMem (execAndn g ty d a b s) := by
  unfold execAndn
  grind -ring -linarith -order -ac [alu2_okMem, alu2w_okMem]

theorem execOrn_okMem (g : Guard) (ty : BitTy) (d : Reg) (a b : Operand) (s : State) (hs : Memory.wf s.mem = true) :
    OkMem (execOrn g ty d a b s) := by
  unfold execOrn
  grind -ring -linarith -order -ac [alu2_okMem, alu2w_okMem]

theorem execShl_okMem (g : Guard) (ty : BitTy) (d : Reg) (a b : Operand) (s : State) (hs : Memory.wf s.mem = true) :
    OkMem (execShl g ty d a b s) := by
  unfold execShl
  grind -ring -linarith -order -ac [alu2_okMem, alu2m_okMem]

theorem execShr_okMem (g : Guard) (ty : BitTy) (d : Reg) (a b : Operand) (s : State) (hs : Memory.wf s.mem = true) :
    OkMem (execShr g ty d a b s) := by
  unfold execShr
  grind -ring -linarith -order -ac [alu2_okMem, alu2m_okMem]

theorem execSar_okMem (g : Guard) (ty : BitTy) (d : Reg) (a b : Operand) (s : State) (hs : Memory.wf s.mem = true) :
    OkMem (execSar g ty d a b s) := by
  unfold execSar
  grind -ring -linarith -order -ac [alu2_okMem, alu2m_okMem]

theorem execRot_okMem (g : Guard) (ty : BitTy) (d : Reg) (a b : Operand) (s : State) (hs : Memory.wf s.mem = true) :
    OkMem (execRot g ty d a b s) := by
  unfold execRot
  grind -ring -linarith -order -ac [alu2_okMem, alu2m_okMem]

theorem execFsh_okMem (g : Guard) (left : Bool) (d : Reg) (a b c : Operand) (s : State) (hs : Memory.wf s.mem = true) :
    OkMem (execFsh g left d a b c s) := by
  unfold execFsh
  grind -ring -linarith -order -ac [alu3_okMem]

theorem execBfx_okMem (g : Guard) (ty : IntTy) (d : Reg) (a b : Operand) (s : State) (hs : Memory.wf s.mem = true) :
    OkMem (execBfx g ty d a b s) := by
  unfold execBfx
  grind -ring -linarith -order -ac [alu2_okMem]

theorem execBfi_okMem (g : Guard) (d : Reg) (a b c : Operand) (s : State) (hs : Memory.wf s.mem = true) :
    OkMem (execBfi g d a b c s) := by
  unfold execBfi
  grind -ring -linarith -order -ac [alu3_okMem]

theorem execPopc_okMem (g : Guard) (d : Reg) (a : Operand) (s : State) (hs : Memory.wf s.mem = true) :
    OkMem (execPopc g d a s) := by
  unfold execPopc
  grind -ring -linarith -order -ac [alu1_okMem]

theorem execClz_okMem (g : Guard) (d : Reg) (a : Operand) (s : State) (hs : Memory.wf s.mem = true) :
    OkMem (execClz g d a s) := by
  unfold execClz
  grind -ring -linarith -order -ac [alu1_okMem]

theorem execCtz_okMem (g : Guard) (d : Reg) (a : Operand) (s : State) (hs : Memory.wf s.mem = true) :
    OkMem (execCtz g d a s) := by
  unfold execCtz
  grind -ring -linarith -order -ac [alu1_okMem]

theorem execBrev_okMem (g : Guard) (d : Reg) (a : Operand) (s : State) (hs : Memory.wf s.mem = true) :
    OkMem (execBrev g d a s) := by
  unfold execBrev
  grind -ring -linarith -order -ac [alu1_okMem]

theorem execBytesel_okMem (g : Guard) (d : Reg) (a b c : Operand) (s : State) (hs : Memory.wf s.mem = true) :
    OkMem (execBytesel g d a b c s) := by
  unfold execBytesel
  grind -ring -linarith -order -ac [alu3_okMem]

theorem execLea_okMem (g : Guard) (scale : Fin 8) (sx : Bool) (d : Reg) (a b : Operand) (s : State)
    (hs : Memory.wf s.mem = true) :
    OkMem (execLea g scale sx d a b s) := by
  unfold execLea
  grind -ring -linarith -order -ac [alu2m_okMem]

theorem execCopyCompletion_okMem (id : Nat) (s : State) (hs : Memory.wf s.mem = true) :
    OkMem (execCopyCompletion id s) := by
  unfold execCopyCompletion
  grind -ring -linarith -order -ac [okMem_next, okMem_fault, okMem_refused, State.completeCopy_wf, State.copyElem_wf, State.copyRead_mem,
    State.drew_mem, State.reap_wf, State.shadowPoints_wf]

theorem State.startBeats_mem (s : State) (c : Site) (beats : Nat) : (s.startBeats c beats).1.mem = s.mem := rfl

theorem execMma_okMem (g : Guard) (ty : MatTy) (acc : Fin 16) (z : Bool) (a b : Fin 192) (f : Option Reg) (s : State)
    (hs : Memory.wf s.mem = true) :
    OkMem (execMma g ty acc z a b f s) := by
  unfold execMma
  refine enterGang_okMem _ _ _ _ hs fun c => ?_
  grind -ring -linarith -order -ac [okMem_next, State.finish_wf, State.putRegs_mem, State.raise_wf, State.startBeats_mem,
    State.modGang_mem]

theorem accMove_okMem (i : Instr) (g : Guard) (s : State) (f : View → Regs) (hs : Memory.wf s.mem = true) :
    OkMem (accMove i g s f) := by
  unfold accMove
  refine enterGang_okMem _ _ _ _ hs fun c => ?_
  grind -ring -linarith -order -ac [okMem_next, State.finish_wf, State.putRegs_mem, State.raise_wf]

theorem execAccz_okMem (g : Guard) (k : Fin 16) (s : State) (hs : Memory.wf s.mem = true) :
    OkMem (execAccz g k s) := by
  unfold execAccz
  grind -ring -linarith -order -ac [accMove_okMem]

theorem execAccrdV_okMem (g : Guard) (k : Fin 16) (d : Fin 192) (s : State) (hs : Memory.wf s.mem = true) :
    OkMem (execAccrdV g k d s) := by
  unfold execAccrdV
  grind -ring -linarith -order -ac [accMove_okMem]

theorem execAccwrV_okMem (g : Guard) (k : Fin 16) (a : Fin 192) (s : State) (hs : Memory.wf s.mem = true) :
    OkMem (execAccwrV g k a s) := by
  unfold execAccwrV
  grind -ring -linarith -order -ac [accMove_okMem]

theorem accSpad_okMem (i : Instr) (g : Guard) (a : Option Reg) (off : Option Word) (reads : Bool) (s : State)
    (act : State → Site → Nat → List Nat → State)
    (hs : Memory.wf s.mem = true) (ha : ∀ s c n l, (act s c n l).mem = s.mem) : OkMem (accSpad i g a off reads s act) := by
  unfold accSpad
  refine enterMemGang_okMem _ _ _ _ hs fun s c hs => ?_
  grind -ring -linarith -order -ac [okMem_next, State.raise_wf, State.finish_wf, State.waitLines_wf]

theorem execAccrdSp_okMem (g : Guard) (k : Fin 16) (a : Option Reg) (off : Option Word) (s : State)
    (hs : Memory.wf s.mem = true) :
    OkMem (execAccrdSp g k a off s) := by
  unfold execAccrdSp
  grind -ring -linarith -order -ac [accSpad_okMem, State.placeLines_mem, State.writeSpad_mem]

theorem execAccwrSp_okMem (g : Guard) (k : Fin 16) (a : Option Reg) (off : Option Word) (s : State)
    (hs : Memory.wf s.mem = true) :
    OkMem (execAccwrSp g k a off s) := by
  unfold execAccwrSp
  grind -ring -linarith -order -ac [accSpad_okMem, State.placeLines_mem, State.putRegs_mem]

theorem execAccrdT_okMem (g : Guard) (t : Fin 8) (d : Fin 64) (s : State) (hs : Memory.wf s.mem = true) :
    OkMem (execAccrdT g t d s) := by
  unfold execAccrdT
  refine enterGang_okMem _ _ _ _ hs fun c => ?_
  grind -ring -linarith -order -ac [okMem_next, State.finish_wf, State.putRegs_mem]

theorem execAccwrT_okMem (g : Guard) (t : Fin 8) (a : Fin 64) (s : State) (hs : Memory.wf s.mem = true) :
    OkMem (execAccwrT g t a s) := by
  unfold execAccwrT
  refine enterGang_okMem _ _ _ _ hs fun c => ?_
  grind -ring -linarith -order -ac [okMem_next, State.finish_wf, State.putRegs_mem]

theorem onTiles_okMem (i : Instr) (g : Guard) (s : State) (ok : Site → Bool) (lines : Site → List Nat) (reads : Site → List Tile)
    (beats : Site → Nat) (act : State → Site → State)
    (hs : Memory.wf s.mem = true) (ha : ∀ s c, (act s c).mem = s.mem) : OkMem (onTiles i g s ok lines reads beats act) := by
  unfold onTiles
  refine enterMemGang_okMem _ _ _ _ hs fun s c hs => ?_
  grind -ring -linarith -order -ac [okMem_next, State.raise_wf, State.finish_wf, State.waitLines_wf, State.startBeats_mem]

theorem execMmat_okMem (g : Guard) (ty : MatTy) (acc : Fin 16) (z : Bool) (ta tb : Fin 8) (oa ob : Option (Fin 64))
    (s : State) (hs : Memory.wf s.mem = true) :
    OkMem (execMmat g ty acc z ta tb oa ob s) := by
  unfold execMmat
  grind -ring -linarith -order -ac [onTiles_okMem, State.placeLines_mem, State.putBound_mem]

theorem execMvsScale_okMem (g : Guard) (k p : Fin 16) (ta tb : Fin 8) (ofs : Option (Fin 64)) (s : State)
    (hs : Memory.wf s.mem = true) :
    OkMem (execMvsScale g k p ta tb ofs s) := by
  unfold execMvsScale
  grind -ring -linarith -order -ac [onTiles_okMem, State.placeLines_mem, State.putBound_mem]

theorem mvsStore_okMem (i : Instr) (g : Guard) (k : Fin 16) (ta : Fin 8) (ofs : Option (Fin 64)) (n : Nat)
    (f : Word → Nat) (s : State) (hs : Memory.wf s.mem = true) :
    OkMem (mvsStore i g k ta ofs n f s) := by
  unfold mvsStore
  grind -ring -linarith -order -ac [onTiles_okMem, State.placeLines_mem, State.writeSpad_mem, foldl_mem]

theorem execMvsSt_okMem (g : Guard) (k : Fin 16) (ta : Fin 8) (ofs : Option (Fin 64)) (s : State)
    (hs : Memory.wf s.mem = true) :
    OkMem (execMvsSt g k ta ofs s) := by
  unfold execMvsSt
  grind -ring -linarith -order -ac [mvsStore_okMem]

theorem execMvsStbf_okMem (g : Guard) (k : Fin 16) (ta : Fin 8) (ofs : Option (Fin 64)) (s : State)
    (hs : Memory.wf s.mem = true) :
    OkMem (execMvsStbf g k ta ofs s) := by
  unfold execMvsStbf
  grind -ring -linarith -order -ac [mvsStore_okMem]

theorem execMvsLd_okMem (g : Guard) (k : Fin 16) (ta : Fin 8) (ofs : Option (Fin 64)) (s : State)
    (hs : Memory.wf s.mem = true) :
    OkMem (execMvsLd g k ta ofs s) := by
  unfold execMvsLd
  grind -ring -linarith -order -ac [onTiles_okMem, State.placeLines_mem, State.putBound_mem]

theorem forkSeq_okMem (i : Instr) (g : Guard) (k : SeqKind) (disp : Word) (s : State) (hs : Memory.wf s.mem = true) :
    OkMem (forkSeq i g k disp s) := by
  unfold forkSeq
  refine enterMemGang_okMem _ _ _ _ hs fun s c hs => ?_
  grind -ring -linarith -order -ac [okMem_next, State.finish_wf, State.modSheet_mem, State.raise_wf]

theorem execForkM_okMem (g : Guard) (disp : Word) (s : State) (hs : Memory.wf s.mem = true) :
    OkMem (execForkM g disp s) := by
  unfold execForkM
  grind -ring -linarith -order -ac [forkSeq_okMem]

theorem execForkC_okMem (g : Guard) (disp : Word) (s : State) (hs : Memory.wf s.mem = true) :
    OkMem (execForkC g disp s) := by
  unfold execForkC
  grind -ring -linarith -order -ac [forkSeq_okMem]

theorem execRdvThread_okMem (g : Guard) (which : SeqKind) (d : Fin 64) (s : State) (hs : Memory.wf s.mem = true) :
    OkMem (execRdvThread g which d s) := by
  unfold execRdvThread
  refine enterMemGang_okMem _ _ _ _ hs fun s c hs => ?_
  grind -ring -linarith -order -ac [okMem_next, okMem_fault, okMem_refused, State.deliverHeld_wf, State.finish_wf, State.modSheet_mem,
    State.putRegs_mem, State.raiseTo_mem, State.reap_wf, State.waitIn_wf]

theorem execRdvSequencer_okMem (g : Guard) (s : State) (hs : Memory.wf s.mem = true) :
    OkMem (execRdvSequencer g s) := by
  unfold execRdvSequencer
  refine enterGang_okMem _ _ _ _ hs fun c => ?_
  grind -ring -linarith -order -ac [okMem_next, State.finish_wf, State.modSheet_mem, State.raise_wf]

theorem flipOwner_okMem (i : Instr) (g : Guard) (eng : Bool) (t : Fin 8) (ofs : Option (Fin 64)) (s : State)
    (hs : Memory.wf s.mem = true) :
    OkMem (flipOwner i g eng t ofs s) := by
  unfold flipOwner
  refine enterMemGang_okMem _ _ _ _ hs fun s c hs => ?_
  grind -ring -linarith -order -ac [okMem_next, okMem_fault, okMem_refused, State.finish_wf, State.modSheet_mem, State.placeLine_mem,
    State.raiseTo_mem, State.raise_wf, State.waitLines_wf, State.wakeLines_mem, foldl_wf, foldl_wf_fst, foldl_wf_snd,
      foldl_mem, foldl_mem_fst, foldl_mem_snd]

theorem execOwnEng_okMem (g : Guard) (t : Fin 8) (ofs : Option (Fin 64)) (s : State) (hs : Memory.wf s.mem = true) :
    OkMem (execOwnEng g t ofs s) := by
  unfold execOwnEng
  grind -ring -linarith -order -ac [flipOwner_okMem]

theorem execOwnThr_okMem (g : Guard) (t : Fin 8) (ofs : Option (Fin 64)) (s : State) (hs : Memory.wf s.mem = true) :
    OkMem (execOwnThr g t ofs s) := by
  unfold execOwnThr
  grind -ring -linarith -order -ac [flipOwner_okMem]

theorem residency_okMem (i : Instr) (g : Guard) (d : Fin 64) (s : State) (drew : Bool) (f : View → Context → Context × Nat)
    (hs : Memory.wf s.mem = true) :
    OkMem (residency i g d s drew f) := by
  unfold residency
  refine enterGang_okMem _ _ _ _ hs fun c => ?_
  grind -ring -linarith -order -ac [okMem_next, State.finish_wf, State.modCtx_mem, State.putRegs_mem, State.drew_mem]

theorem execResidOpen_okMem (g : Guard) (prio : Fin 4) (d a b : Fin 64) (s : State) (hs : Memory.wf s.mem = true) :
    OkMem (execResidOpen g prio d a b s) := by
  unfold execResidOpen
  grind -ring -linarith -order -ac [residency_okMem, State.drew_mem]

theorem execResidPrio_okMem (g : Guard) (prio : Fin 4) (d a : Fin 64) (s : State) (hs : Memory.wf s.mem = true) :
    OkMem (execResidPrio g prio d a s) := by
  unfold execResidPrio
  grind -ring -linarith -order -ac [residency_okMem]

theorem execResidClose_okMem (g : Guard) (d a : Fin 64) (s : State) (hs : Memory.wf s.mem = true) :
    OkMem (execResidClose g d a s) := by
  unfold execResidClose
  grind -ring -linarith -order -ac [residency_okMem]

theorem execCpl_okMem (g : Guard) (dir : CplDir) (size : CplSize) (dst src : Reg) (s : State) (hs : Memory.wf s.mem = true) :
    OkMem (execCpl g dir size dst src s) := by
  unfold execCpl
  refine enterMem_okMem _ _ _ hs fun s c hs => ?_
  simp only
  refine orTrap_okMem s _ _ _ _ hs (fun e he => State.checkCopy_error_mem _ _ _ _ _ _ he) fun x hx => ?_
  obtain ⟨xs, s'⟩ := x
  have h0 : s'.mem = s.mem := State.checkCopy_mem _ _ _ _ _ _ hx
  cases dir
  all_goals
    simp only
    split
    · exact okMem_next (State.raise_wf _ _ _ _ (wf_of h0 hs))
    split
    · exact okMem_next (State.waitLines_wf _ _ _ _ _ (wf_of h0 hs))
    split
    · exact okMem_next (State.finish_wf _ _ _ (wf_of h0 hs))
    refine okMem_next (State.finish_wf _ _ _ ?_)
    simp only [State.pinDown_mem, State.mergeSource_mem, State.startCopy_mem, h0]
    exact hs

theorem tensorCopy_okMem (i : Instr) (g : Guard) (rec line org : Fin 64) (out : Option (Fin 8)) (s : State)
    (hs : Memory.wf s.mem = true) :
    OkMem (tensorCopy i g rec line org out s) := by
  unfold tensorCopy
  refine enterMemGang_okMem _ _ _ _ hs fun s c hs => ?_
  simp only
  split
  · exact okMem_next (State.raise_wf _ _ _ _ hs)
  split
  · exact okMem_next (State.waitLines_wf _ _ _ _ _ hs)
  split
  · exact okMem_next (State.raise_wf _ _ _ _ hs)
  split
  · exact okMem_next (State.raise_wf _ _ _ _ hs)
  split
  · exact okMem_next (State.raise_wf _ _ _ _ hs)
  refine orTrap_okMem s _ _ _ _ hs (fun e he => State.checkAccess_error_mem _ _ _ _ he) fun x hx => ?_
  obtain ⟨xs, s'⟩ := x
  have h0 : s'.mem = s.mem := State.checkAccess_mem _ _ _ _ hx
  cases out
  all_goals
    simp only [Option.isSome_none, Option.isSome_some, Bool.false_eq_true, if_true, if_false]
    try
      split
      · exact okMem_next (State.raise_wf _ _ _ _ (wf_of h0 hs))
    refine okMem_ite (okMem_next (State.waitLines_wf _ _ _ _ _ (wf_of h0 hs))) (okMem_next (State.finish_wf _ _ _ ?_))
    simp only [State.pinDown_mem, State.mergeSource_mem, State.startCopy_mem, State.placeLines_mem, h0]
    exact hs

theorem execCptIn_okMem (g : Guard) (rec line org : Fin 64) (s : State) (hs : Memory.wf s.mem = true) :
    OkMem (execCptIn g rec line org s) := by
  unfold execCptIn
  grind -ring -linarith -order -ac [tensorCopy_okMem]

theorem execCptOut_okMem (g : Guard) (rec line org : Fin 64) (cnt : Fin 8) (s : State) (hs : Memory.wf s.mem = true) :
    OkMem (execCptOut g rec line org cnt s) := by
  unfold execCptOut
  grind -ring -linarith -order -ac [tensorCopy_okMem]

theorem execShfl_okMem (g : Guard) (ty : BitTy) (mode : Option (ShflMode × Operand)) (d : Fin 192) (a : Reg)
    (s : State) (hs : Memory.wf s.mem = true) :
    OkMem (execShfl g ty mode d a s) := by
  unfold execShfl
  grind -ring -linarith -order -ac [alu_okMem]

theorem execVote_okMem (g : Guard) (mode : VoteMode) (pd pa : Fin 8) (neg : Bool) (s : State) (hs : Memory.wf s.mem = true) :
    OkMem (execVote g mode pd pa neg s) := by
  unfold execVote
  grind -ring -linarith -order -ac [alu_okMem]

theorem execBallot_okMem (g : Guard) (d : Fin 192) (pa : Fin 8) (neg : Bool) (s : State) (hs : Memory.wf s.mem = true) :
    OkMem (execBallot g d pa neg s) := by
  unfold execBallot
  grind -ring -linarith -order -ac [alu_okMem]

theorem execMatch_okMem (g : Guard) (ty : BitTy) (alleq : Option (Fin 8)) (d : Fin 192) (a : Reg) (s : State)
    (hs : Memory.wf s.mem = true) :
    OkMem (execMatch g ty alleq d a s) := by
  unfold execMatch
  grind -ring -linarith -order -ac [alu_okMem]

theorem execGred_okMem (g : Guard) (op : FoldOp) (d a : Reg) (s : State) (hs : Memory.wf s.mem = true) :
    OkMem (execGred g op d a s) := by
  unfold execGred
  grind -ring -linarith -order -ac [alu_okMem]

theorem execGscan_okMem (g : Guard) (op : FoldOp) (excl : Bool) (d : Fin 192) (a : Reg) (s : State)
    (hs : Memory.wf s.mem = true) :
    OkMem (execGscan g op excl d a s) := by
  unfold execGscan
  grind -ring -linarith -order -ac [alu_okMem]

theorem collective_okMem (i : Instr) (g : Guard) (im : CollImm) (key : Nat) (op : FoldOp) (root : Site → Nat)
    (members : Launch → Nat → Nat) (s : State) (hs : Memory.wf s.mem = true) :
    OkMem (collective i g im key op root members s) := by
  unfold collective
  refine enterMemGang_okMem _ _ _ _ hs fun s c hs => ?_
  grind -ring -linarith -order -ac [okMem_next, okMem_fault, okMem_refused, State.finish_wf, State.modSheet_mem, State.noAudit_mem,
    State.pinDown_mem, State.raise_wf, State.waitLines_wf, foldl_wf, foldl_wf_fst, foldl_wf_snd, foldl_mem,
      foldl_mem_fst, foldl_mem_snd]

theorem execNxch_okMem (g : Guard) (dir : Compass) (imm : CollImm) (s : State) (hs : Memory.wf s.mem = true) :
    OkMem (execNxch g dir imm s) := by
  unfold execNxch
  grind -ring -linarith -order -ac [collective_okMem]

theorem execNred_okMem (g : Guard) (op : NredOp) (group : ShardGroup) (imm : CollImm) (s : State)
    (hs : Memory.wf s.mem = true) :
    OkMem (execNred g op group imm s) := by
  unfold execNred
  grind -ring -linarith -order -ac [collective_okMem]

theorem execNbc_okMem (g : Guard) (group : ShardGroup) (root : Fin 64) (imm : CollImm) (s : State)
    (hs : Memory.wf s.mem = true) :
    OkMem (execNbc g group root imm s) := by
  unfold execNbc
  grind -ring -linarith -order -ac [collective_okMem]

theorem execCollectiveCompletion_okMem (id : Nat) (s : State) (hs : Memory.wf s.mem = true) :
    OkMem (execCollectiveCompletion id s) := by
  unfold execCollectiveCompletion
  grind -ring -linarith -order -ac [okMem_next, okMem_fault, State.collStep_mem, State.reap_wf, State.exhaust_mem]

theorem execNop_okMem (g : Guard) (s : State) (hs : Memory.wf s.mem = true) :
    OkMem (execNop g s) := by
  unfold execNop
  refine enter_okMem _ _ _ hs fun c => ?_
  grind -ring -linarith -order -ac [okMem_next, State.finish_wf]

theorem execBra_okMem (g : Guard) (disp : Word) (s : State) (hs : Memory.wf s.mem = true) :
    OkMem (execBra g disp s) := by
  unfold execBra
  refine enter_okMem _ _ _ hs fun c => ?_
  grind -ring -linarith -order -ac [okMem_next, State.finishAt_wf]

theorem jump_okMem (i : Instr) (g : Guard) (d : Option (Fin 192)) (a : Reg) (s : State) (hs : Memory.wf s.mem = true) :
    OkMem (jump i g d a s) := by
  unfold jump
  refine enter_okMem _ _ _ hs fun c => ?_
  grind -ring -linarith -order -ac [okMem_next, State.finishAt_wf, State.putRegs_mem, State.raise_wf]

theorem execBrx_okMem (g : Guard) (a : Reg) (s : State) (hs : Memory.wf s.mem = true) :
    OkMem (execBrx g a s) := by
  unfold execBrx
  grind -ring -linarith -order -ac [jump_okMem]

theorem execCall_okMem (g : Guard) (d : Fin 192) (disp : Word) (s : State) (hs : Memory.wf s.mem = true) :
    OkMem (execCall g d disp s) := by
  unfold execCall
  refine enter_okMem _ _ _ hs fun c => ?_
  grind -ring -linarith -order -ac [okMem_next, State.finishAt_wf, State.putRegs_mem]

theorem execCallx_okMem (g : Guard) (d : Fin 192) (a : Reg) (s : State) (hs : Memory.wf s.mem = true) :
    OkMem (execCallx g d a s) := by
  unfold execCallx
  grind -ring -linarith -order -ac [jump_okMem]

theorem execRet_okMem (g : Guard) (a : Reg) (s : State) (hs : Memory.wf s.mem = true) :
    OkMem (execRet g a s) := by
  unfold execRet
  grind -ring -linarith -order -ac [jump_okMem]

theorem execExit_okMem (g : Guard) (s : State) (hs : Memory.wf s.mem = true) :
    OkMem (execExit g s) := by
  unfold execExit
  refine enter_okMem _ _ _ hs fun c => ?_
  grind -ring -linarith -order -ac [okMem_next, State.afterExit_wf, State.finish_wf, State.modGang_mem, State.modSheet_mem]

theorem execMeet_okMem (g : Guard) (k : Fin 8) (disp : Word) (s : State) (hs : Memory.wf s.mem = true) :
    OkMem (execMeet g k disp s) := by
  unfold execMeet
  refine enter_okMem _ _ _ hs fun c => ?_
  grind -ring -linarith -order -ac [okMem_next, State.finish_wf, State.modGang_mem, State.raise_wf]

theorem execMleave_okMem (g : Guard) (k : Fin 8) (s : State) (hs : Memory.wf s.mem = true) :
    OkMem (execMleave g k s) := by
  unfold execMleave
  refine enter_okMem _ _ _ hs fun c => ?_
  grind -ring -linarith -order -ac [okMem_next, State.finish_wf, State.modGang_mem, State.raise_wf]

theorem execYield_okMem (g : Guard) (s : State) (hs : Memory.wf s.mem = true) :
    OkMem (execYield g s) := by
  unfold execYield
  refine enterGang_okMem _ _ _ _ hs fun c => ?_
  grind -ring -linarith -order -ac [okMem_next, State.finish_wf, State.modGang_mem]

theorem napFor_okMem (i : Instr) (g : Guard) (value : Site → Word) (s : State) (hs : Memory.wf s.mem = true) :
    OkMem (napFor i g value s) := by
  unfold napFor
  refine enterGang_okMem _ _ _ _ hs fun c => ?_
  grind -ring -linarith -order -ac [okMem_next, State.finish_wf, State.modGang_mem]

theorem execNap_okMem (g : Guard) (a : Fin 64) (s : State) (hs : Memory.wf s.mem = true) :
    OkMem (execNap g a s) := by
  unfold execNap
  grind -ring -linarith -order -ac [napFor_okMem]

theorem execNapImm_okMem (g : Guard) (n : Word) (s : State) (hs : Memory.wf s.mem = true) :
    OkMem (execNapImm g n s) := by
  unfold execNapImm
  grind -ring -linarith -order -ac [napFor_okMem]

theorem execNapEnd_okMem (sheet gang : Nat) (s : State) (hs : Memory.wf s.mem = true) :
    OkMem (execNapEnd sheet gang s) := by
  unfold execNapEnd
  grind -ring -linarith -order -ac [okMem_next, okMem_fault, State.modGang_mem]

theorem execTrap_okMem (g : Guard) (s : State) (hs : Memory.wf s.mem = true) :
    OkMem (execTrap g s) := by
  unfold execTrap
  refine enterGang_okMem _ _ _ _ hs fun c => ?_
  grind -ring -linarith -order -ac [okMem_next, State.raise_wf]

theorem execTrapImm_okMem (g : Guard) (code : Word) (s : State) (hs : Memory.wf s.mem = true) :
    OkMem (execTrapImm g code s) := by
  unfold execTrapImm
  refine enterGang_okMem _ _ _ _ hs fun c => ?_
  grind -ring -linarith -order -ac [okMem_next, State.raise_wf]

theorem execBkpt_okMem (g : Guard) (s : State) (hs : Memory.wf s.mem = true) :
    OkMem (execBkpt g s) := by
  unfold execBkpt
  refine enterGang_okMem _ _ _ _ hs fun c => ?_
  grind -ring -linarith -order -ac [okMem_next, State.raise_wf]

theorem perfRequest_okMem (i : Instr) (g : Guard) (value : Site → Word) (s : State) (hs : Memory.wf s.mem = true) :
    OkMem (perfRequest i g value s) := by
  unfold perfRequest
  refine enterGang_okMem _ _ _ _ hs fun c => ?_
  grind -ring -linarith -order -ac [okMem_next, State.finish_wf, State.modSheet_mem]

theorem execPerf_okMem (g : Guard) (a : Fin 64) (s : State) (hs : Memory.wf s.mem = true) :
    OkMem (execPerf g a s) := by
  unfold execPerf
  grind -ring -linarith -order -ac [perfRequest_okMem]

theorem execPerfImm_okMem (g : Guard) (n : Word) (s : State) (hs : Memory.wf s.mem = true) :
    OkMem (execPerfImm g n s) := by
  unfold execPerfImm
  grind -ring -linarith -order -ac [perfRequest_okMem]

theorem execCvtfi_okMem (g : Guard) (ty : IntTy) (wide : Bool) (src : CvtSrc) (r : Rnd) (d : Reg) (a : Operand)
    (s : State) (hs : Memory.wf s.mem = true) :
    OkMem (execCvtfi g ty wide src r d a s) := by
  unfold execCvtfi
  grind -ring -linarith -order -ac [alu_okMem]

theorem execCvtif_okMem (g : Guard) (ty : FloatTy) (src : CvtInt) (r : Rnd) (d : Reg) (a : Operand) (s : State)
    (hs : Memory.wf s.mem = true) :
    OkMem (execCvtif g ty src r d a s) := by
  unfold execCvtif
  grind -ring -linarith -order -ac [alu_okMem]

theorem execCvtff_okMem (g : Guard) (dst : CvtDst) (src : CvtSrc) (r : Rnd) (d : Reg) (a : Operand)
    (pk : Option Operand) (s : State) (hs : Memory.wf s.mem = true) :
    OkMem (execCvtff g dst src r d a pk s) := by
  unfold execCvtff
  grind -ring -linarith -order -ac [alu_okMem]

theorem execIwiden_okMem (g : Guard) (ty : NarrowTy) (d : Reg) (a : Operand) (s : State) (hs : Memory.wf s.mem = true) :
    OkMem (execIwiden g ty d a s) := by
  unfold execIwiden
  grind -ring -linarith -order -ac [alu_okMem]

theorem execInarrow_okMem (g : Guard) (ty : NarrowTy) (sat : Bool) (d : Reg) (a : Operand) (b : Option Operand)
    (s : State) (hs : Memory.wf s.mem = true) :
    OkMem (execInarrow g ty sat d a b s) := by
  unfold execInarrow
  grind -ring -linarith -order -ac [alu_okMem]

theorem execFopen_okMem (g : Guard) (d : Fin 64) (a : UOperand) (s : State) (hs : Memory.wf s.mem = true) :
    OkMem (execFopen g d a s) := by
  unfold execFopen
  refine enterMemGang_okMem _ _ _ _ hs fun s c hs => ?_
  grind -ring -linarith -order -ac [okMem_next, okMem_fault, okMem_refused, State.finish_wf, State.modCtx_mem, State.noAudit_mem, State.pinDown_mem,
    State.putRegs_mem, State.raise_wf]

theorem execFclose_okMem (g : Guard) (a : Fin 64) (s : State) (hs : Memory.wf s.mem = true) :
    OkMem (execFclose g a s) := by
  unfold execFclose
  refine enterMemGang_okMem _ _ _ _ hs fun s c hs => ?_
  grind -ring -linarith -order -ac [okMem_next, okMem_fault, okMem_refused, State.finish_wf, State.modCtx_mem, State.noAudit_mem, State.pinDown_mem,
    State.raise_wf]

theorem execFolioClose_okMem (ctx slot : Nat) (s : State) (hs : Memory.wf s.mem = true) :
    OkMem (execFolioClose ctx slot s) := by
  unfold execFolioClose
  grind -ring -linarith -order -ac [okMem_next, okMem_fault, State.closeFolio_wf, State.reap_wf]

theorem execEmit_okMem (g : Guard) (slot : Fin 4) (a : Reg) (b d : Fin 64) (s : State) (hs : Memory.wf s.mem = true) :
    OkMem (execEmit g slot a b d s) := by
  unfold execEmit
  refine enterMem_okMem _ _ _ hs fun s c hs => ?_
  simp only
  split
  · refine orTrap_okMem s _ _ _ _ hs (fun e he => State.frameRecord_error_mem _ _ _ _ _ _ he) fun x hx => ?_
    obtain ⟨r, v, s'⟩ := x
    have h0 : s'.mem = s.mem := State.frameRecord_mem _ _ _ _ _ _ hx
    simp only
    split
    · exact okMem_next (State.raise_wf _ _ _ _ (wf_of h0 hs))
    split
    · exact okMem_next (State.waitIn_wf _ _ _ (wf_of h0 hs))
    · refine okMem_next (State.finish_wf _ _ _ ?_)
      rw [State.noAudit_mem, State.pinDown_mem]
      refine foldl_wf _ (fun s k hs => by rw [State.sendPrimitive_mem]; exact hs) _ _ ?_
      cases v <;> simp only [State.raiseTo_mem, State.modSheet_mem, State.bindDraw_mem, h0] <;> exact hs
  · exact okMem_next (State.finish_wf _ _ _ hs)

theorem execEmitend_okMem (g : Guard) (slot : Fin 4) (a : Fin 64) (s : State) (hs : Memory.wf s.mem = true) :
    OkMem (execEmitend g slot a s) := by
  unfold execEmitend
  refine enterMemGang_okMem _ _ _ _ hs fun s c hs => ?_
  grind -ring -linarith -order -ac [okMem_next, okMem_fault, okMem_refused, State.bindDraw_mem, State.finish_wf, State.modGang_mem,
    State.noAudit_mem, State.pinDown_mem, State.raise_wf, State.sendMarkers_mem, State.waitIn_wf]

theorem execPrimitivePacket_okMem (id : Nat) (s : State) (hs : Memory.wf s.mem = true) :
    OkMem (execPrimitivePacket id s) := by
  unfold execPrimitivePacket
  grind -ring -linarith -order -ac [okMem_next, okMem_fault, State.modDraw_mem]

theorem execCloseMarker_okMem (id : Nat) (s : State) (hs : Memory.wf s.mem = true) :
    OkMem (execCloseMarker id s) := by
  unfold execCloseMarker
  grind -ring -linarith -order -ac [okMem_next, okMem_fault, State.asyncError_mem, State.modDraw_mem]

theorem execHadd2_okMem (g : Guard) (ty : HalfTy) (r : Rnd) (d : Reg) (a b : Operand) (s : State)
    (hs : Memory.wf s.mem = true) :
    OkMem (execHadd2 g ty r d a b s) := by
  unfold execHadd2
  grind -ring -linarith -order -ac [alu2_okMem]

theorem execHmul2_okMem (g : Guard) (ty : HalfTy) (r : Rnd) (d : Reg) (a b : Operand) (s : State)
    (hs : Memory.wf s.mem = true) :
    OkMem (execHmul2 g ty r d a b s) := by
  unfold execHmul2
  grind -ring -linarith -order -ac [alu2_okMem]

theorem execHfma2_okMem (g : Guard) (ty : HalfTy) (r : Rnd) (d : Reg) (a b c : Operand) (s : State)
    (hs : Memory.wf s.mem = true) :
    OkMem (execHfma2 g ty r d a b c s) := by
  unfold execHfma2
  grind -ring -linarith -order -ac [alu3_okMem]

theorem execHmin2_okMem (g : Guard) (ty : HalfTy) (d : Reg) (a b : Operand) (s : State) (hs : Memory.wf s.mem = true) :
    OkMem (execHmin2 g ty d a b s) := by
  unfold execHmin2
  grind -ring -linarith -order -ac [alu2_okMem]

theorem execHmax2_okMem (g : Guard) (ty : HalfTy) (d : Reg) (a b : Operand) (s : State) (hs : Memory.wf s.mem = true) :
    OkMem (execHmax2 g ty d a b s) := by
  unfold execHmax2
  grind -ring -linarith -order -ac [alu2_okMem]

theorem execFdot2_okMem (g : Guard) (ty : HalfTy) (r : Rnd) (d : Reg) (a b c : Operand) (s : State)
    (hs : Memory.wf s.mem = true) :
    OkMem (execFdot2 g ty r d a b c s) := by
  unfold execFdot2
  grind -ring -linarith -order -ac [alu3_okMem]

theorem State.tokenOrder_mem (s : State) (n : Nat) (l : List Packet) : (s.tokenOrder n l).2.mem = s.mem := by
  induction n generalizing s l with
  | zero => rfl
  | succ n ih =>
    cases l with
    | nil => rfl
    | cons p l =>
      simp only [State.tokenOrder]
      split <;> split <;> simp only [ih] <;> rfl
theorem rasterise_foldl_wf (die : Nat) (xs : List Packet) (r : FrameRec) (q : State × Nat) (hq : Memory.wf q.1.mem = true) :
    Memory.wf (xs.foldl (fun (q : State × Nat) p => q.1.rasterise die q.2 r p) q).1.mem = true :=
  foldl_wf_fst _ (fun q p hq => State.rasterise_wf _ _ _ _ _ hq) _ _ hq

theorem execRasteriseGroup_okMem (die ctx slot : Nat) (s : State) (hs : Memory.wf s.mem = true) :
    OkMem (execRasteriseGroup die ctx slot s) := by
  unfold execRasteriseGroup
  split
  · exact okMem_fault _
  next draw d m clk _ =>
  have ht : ∀ n l, Memory.wf (s.tokenOrder n l).2.mem = true := fun n l => by rw [State.tokenOrder_mem]; exact hs
  simp only
  refine okMem_next (State.reap_wf _ ?_)
  have hx : ∀ (p : Prop) [Decidable p] (q : State), Memory.wf q.mem = true →
      Memory.wf (if p then (q.wakeDraws ctx slot).exhaust ctx else q.wakeDraws ctx slot).mem = true := by
    intro p _ q h
    split
    · rw [State.exhaust_mem, State.wakeDraws_mem]; exact h
    · rw [State.wakeDraws_mem]; exact h
  refine hx _ _ ?_
  have hm : ∀ (o : Option Nat) (q : State) (f : Nat → Launch → Launch), Memory.wf q.mem = true →
      Memory.wf ((o.map fun l => q.modLaunch l (f l)).getD q).mem = true := fun o q f h => by cases o <;> exact h
  refine hm _ _ _ ?_
  rw [State.modDie_mem]
  generalize hps : s.tokenOrder _ _ = pq at ht ⊢
  have hq : Memory.wf pq.2.mem = true := by rw [← hps]; exact ht _ _
  have ha : ∀ (r : DrawState × Nat × State), Memory.wf r.2.2.mem = true →
      Memory.wf (match r.1.record with
        | none => (r.2.2, r.2.1)
        | some f => pq.1.foldl (fun (q : State × Nat) p => q.1.rasterise die q.2 f p) (r.2.2, r.2.1)).1.mem = true := by
    intro r hr
    split
    · exact hr
    · exact rasterise_foldl_wf _ _ _ _ hr
  refine ha _ ?_
  have hb := State.beginDraw_mem pq.2
  split
  · split <;> grind -ring -linarith -order -ac [State.asyncError_mem]
  · exact hq

theorem execDrawAdvance_okMem (ctx slot : Nat) (s : State) (hs : Memory.wf s.mem = true) :
    OkMem (execDrawAdvance ctx slot s) := by
  unfold execDrawAdvance
  grind -ring -linarith -order -ac [okMem_next, okMem_fault, State.modCtx_mem, State.wakeDraws_mem]

theorem sysAccess_okMem (i : Instr) (g : Guard) (n : Nat) (wide : Bool) (s : State)
    (k : Site → Host.Outcome State Fault Refusal) (hs : Memory.wf s.mem = true) (hk : ∀ x0, OkMem (k x0)) :
    OkMem (sysAccess i g n wide s k) := by
  unfold sysAccess
  refine enter_okMem _ _ _ hs fun c => ?_
  grind -ring -linarith -order -ac [okMem_next, State.finish_wf, State.raise_wf]

theorem execSysrd_okMem (g : Guard) (num : Byte) (wide : Bool) (d : Fin 64) (s : State) (hs : Memory.wf s.mem = true) :
    OkMem (execSysrd g num wide d s) := by
  unfold execSysrd
  grind -ring -linarith -order -ac [okMem_next, sysAccess_okMem, State.finish_wf, State.putRegs_mem, State.spendEnergy_mem]

theorem execSyswr_okMem (g : Guard) (num : Byte) (wide : Bool) (a : SysOperand) (s : State) (hs : Memory.wf s.mem = true) :
    OkMem (execSyswr g num wide a s) := by
  unfold execSyswr
  grind -ring -linarith -order -ac [okMem_next, okMem_fault, okMem_refused, sysAccess_okMem, State.finish_wf, State.modCtx_mem, State.noAudit_mem,
    State.pinDown_mem, State.raise_wf, enter_okMem]

theorem execSyswrCeil_okMem (g : Guard) (a : SysOperand) (s : State) (hs : Memory.wf s.mem = true) :
    OkMem (execSyswrCeil g a s) := by
  unfold execSyswrCeil
  refine enterGang_okMem _ _ _ _ hs fun c => ?_
  grind -ring -linarith -order -ac [okMem_next, State.finish_wf, State.modCtx_mem, State.noAudit_mem, State.pinDown_mem]

theorem execEret_okMem (g : Guard) (s : State) (hs : Memory.wf s.mem = true) :
    OkMem (execEret g s) := by
  unfold execEret
  refine enterMemGang_okMem _ _ _ _ hs fun s c hs => ?_
  simp only
  split
  · exact okMem_next (State.raise_wf _ _ _ _ hs)
  refine orTrap_okMem s _ _ _ _ hs (fun e he => State.readFrame_error_mem _ _ _ _ he) fun x hx => ?_
  obtain ⟨bs, v, s'⟩ := x
  have h0 : s'.mem = s.mem := State.readFrame_mem _ _ _ _ hx
  simp only
  split
  · exact okMem_next (State.raise_wf _ _ _ _ (wf_of h0 hs))
  split
  · exact okMem_next (State.endContext_wf _ _ _ _ (by rw [h0]; exact hs))
  · refine okMem_next (State.reap_wf _ (State.afterExit_wf _ _ ?_))
    cases v <;> simp only [State.raiseTo_mem, State.modSheet_mem, State.modGang_mem, State.modCtx_mem, h0] <;> exact hs

theorem tlbinv_okMem (i : Instr) (g : Guard) (s : State) (pages : View → Option Pages) (f : State → Site → State)
    (hs : Memory.wf s.mem = true) (hf : ∀ s c, Memory.wf s.mem = true → Memory.wf (f s c).mem = true) : OkMem
    (tlbinv i g s pages f) := by
  unfold tlbinv
  refine enterMemGang_okMem _ _ _ _ hs fun s c hs => ?_
  grind -ring -linarith -order -ac [okMem_next, State.raise_wf, State.finish_wf, State.invalidate_wf, State.raiseTo_mem, State.exhaust_mem]

theorem execTlbinvPage_okMem (g : Guard) (a : Fin 64) (s : State) (hs : Memory.wf s.mem = true) :
    OkMem (execTlbinvPage g a s) := by
  unfold execTlbinvPage
  grind -ring -linarith -order -ac [tlbinv_okMem]

theorem execTlbinvRange_okMem (g : Guard) (a b : Fin 64) (s : State) (hs : Memory.wf s.mem = true) :
    OkMem (execTlbinvRange g a b s) := by
  unfold execTlbinvRange
  grind -ring -linarith -order -ac [tlbinv_okMem]

theorem execTlbinvCtx_okMem (g : Guard) (s : State) (hs : Memory.wf s.mem = true) :
    OkMem (execTlbinvCtx g s) := by
  unfold execTlbinvCtx
  grind -ring -linarith -order -ac [tlbinv_okMem]

theorem execSyswrTtb_okMem (g : Guard) (a : SysOperand) (s : State) (hs : Memory.wf s.mem = true) :
    OkMem (execSyswrTtb g a s) := by
  unfold execSyswrTtb
  grind -ring -linarith -order -ac [tlbinv_okMem, State.modCtx_mem, State.noAudit_mem, State.pinDown_mem]

theorem invrep_okMem (i : Instr) (g : Guard) (s : State) (pages : View → Option Pages) (hs : Memory.wf s.mem = true) :
    OkMem (invrep i g s pages) := by
  unfold invrep
  refine enterMemGang_okMem _ _ _ _ hs fun s c hs => ?_
  grind -ring -linarith -order -ac [okMem_next, State.convert_wf, State.finish_wf, State.raise_wf, foldl_wf]

theorem execInvrep_okMem (g : Guard) (a : Fin 64) (s : State) (hs : Memory.wf s.mem = true) :
    OkMem (execInvrep g a s) := by
  unfold execInvrep
  grind -ring -linarith -order -ac [invrep_okMem]

theorem execInvrepRange_okMem (g : Guard) (a b : Fin 64) (s : State) (hs : Memory.wf s.mem = true) :
    OkMem (execInvrepRange g a b s) := by
  unfold execInvrepRange
  grind -ring -linarith -order -ac [invrep_okMem]

theorem execReplicaConversion_okMem (ctx page : Nat) (s : State) (hs : Memory.wf s.mem = true) :
    OkMem (execReplicaConversion ctx page s) := by
  unfold execReplicaConversion
  grind -ring -linarith -order -ac [okMem_next, okMem_fault, State.convert_wf, State.reap_wf]

theorem execPageWalk_okMem (ctx cluster page : Nat) (s : State) (hs : Memory.wf s.mem = true) :
    OkMem (execPageWalk ctx cluster page s) := by
  unfold execPageWalk
  grind -ring -linarith -order -ac [okMem_next, okMem_fault, State.modCtx_mem, State.walk_mem]

theorem execHalt_okMem (g : Guard) (a : UOperand) (s : State) (hs : Memory.wf s.mem = true) :
    OkMem (execHalt g a s) := by
  unfold execHalt
  refine enterGang_okMem _ _ _ _ hs fun c => ?_
  grind -ring -linarith -order -ac [okMem_next, State.endContext_wf]

theorem execWdclr_okMem (g : Guard) (s : State) (hs : Memory.wf s.mem = true) :
    OkMem (execWdclr g s) := by
  unfold execWdclr
  refine enterGang_okMem _ _ _ _ hs fun c => ?_
  grind -ring -linarith -order -ac [okMem_next, State.finish_wf, State.modGang_mem]

theorem execStamp_okMem (g : Guard) (a : UOperand) (s : State) (hs : Memory.wf s.mem = true) :
    OkMem (execStamp g a s) := by
  unfold execStamp
  refine enterMemGang_okMem _ _ _ _ hs fun s c hs => ?_
  simp only
  split
  · exact okMem_next (State.finish_wf _ _ _ hs)
  split
  · exact okMem_next (State.finish_wf _ _ _ hs)
  refine orTrap_okMem s _ _ _ _ hs (fun e he => State.checkAccess_error_mem _ _ _ _ he) fun x hx => ?_
  obtain ⟨xs, s'⟩ := x
  have h0 : s'.mem = s.mem := State.checkAccess_mem _ _ _ _ hx
  simp only
  split
  · exact okMem_next (State.finish_wf _ _ _ (by rw [h0]; exact hs))
  refine okMem_next (State.finish_wf _ _ _ ?_)
  rw [State.noAudit_mem, State.pinDown_mem]
  have h1 := fun va => State.beforeWrite_wf s' c.sh.ctx va (by rw [h0]; exact hs)
  split
  · rw [State.asyncError_mem]; exact h1 _
  split
  · rw [State.exhaust_mem]; exact h1 _
  · next h => rw [State.raiseTo_mem]; exact State.placeWrite_wf _ _ _ _ _ _ h (h1 _)

theorem execDeadlockWatchdog_okMem (ctx : Nat) (s : State) (hs : Memory.wf s.mem = true) :
    OkMem (execDeadlockWatchdog ctx s) := by
  unfold execDeadlockWatchdog
  grind -ring -linarith -order -ac [okMem_next, okMem_fault, okMem_refused, State.deadlockSheets_wf, State.modCtx_mem, State.modSheet_mem, foldl_wf,
    foldl_wf_fst, foldl_wf_snd, foldl_mem, foldl_mem_fst, foldl_mem_snd]

theorem execExternalWaitTimeout_okMem (sheet gang : Nat) (s : State) (hs : Memory.wf s.mem = true) :
    OkMem (execExternalWaitTimeout sheet gang s) := by
  unfold execExternalWaitTimeout
  grind -ring -linarith -order -ac [okMem_next, okMem_fault, State.waitTrap_wf, State.timeOut]

theorem execSupervisorWatchdog_okMem (sheet gang : Nat) (s : State) (hs : Memory.wf s.mem = true) :
    OkMem (execSupervisorWatchdog sheet gang s) := by
  unfold execSupervisorWatchdog
  grind -ring -linarith -order -ac [okMem_next, okMem_fault, State.drew_mem, State.endContext_wf, State.notice_mem]

theorem execAsyncErrorDelivery_okMem (sheet : Nat) (s : State) (hs : Memory.wf s.mem = true) :
    OkMem (execAsyncErrorDelivery sheet s) := by
  unfold execAsyncErrorDelivery
  grind -ring -linarith -order -ac [okMem_next, okMem_fault, State.errDelivered_wf]

theorem ctxsave_okMem (i : Instr) (g : Guard) (park : Bool) (d a : Fin 64) (s : State) (hs : Memory.wf s.mem = true) :
    OkMem (ctxsave i g park d a s) := by
  unfold ctxsave
  refine enterMemGang_okMem _ _ _ _ hs fun s c hs => ?_
  simp only
  split
  · exact okMem_next (State.raise_wf _ _ _ _ hs)
  refine orTrap_okMem s _ _ _ _ hs (fun e he => State.checkAccess_error_mem _ _ _ _ he) fun x hx => ?_
  have h1 := State.stopSheet_wf s c.sid false hs
  split
  · exact okMem_next (State.finish_wf _ _ _ h1)
  split
  · exact okMem_next (State.raise_wf _ _ _ _ h1)
  split
  · next h => exact okMem_next (State.raise_wf _ _ _ _ (wf_of (State.checkAccess_error_mem _ _ _ _ h) h1))
  next h =>
  have h2 := State.checkAccess_mem _ _ _ _ h
  split
  · exact okMem_next (State.reap_wf _ (by
      simp only [State.setAside_mem, State.modSheet_mem, State.noAudit_mem, State.pinDown_mem, State.raiseTo_mem]
      exact State.storeChunks_wf _ _ _ _ _ _ (by rw [h2]; exact h1)))
  · refine okMem_next (State.finish_wf _ _ _ ?_)
    simp only [State.modGang_mem, State.noAudit_mem, State.pinDown_mem, State.raiseTo_mem]
    exact State.storeChunks_wf _ _ _ _ _ _ (by rw [h2]; exact h1)

theorem execCtxsaveCopy_okMem (g : Guard) (d a : Fin 64) (s : State) (hs : Memory.wf s.mem = true) :
    OkMem (execCtxsaveCopy g d a s) := by
  unfold execCtxsaveCopy
  grind -ring -linarith -order -ac [ctxsave_okMem]

theorem execCtxsavePark_okMem (g : Guard) (d a : Fin 64) (s : State) (hs : Memory.wf s.mem = true) :
    OkMem (execCtxsavePark g d a s) := by
  unfold execCtxsavePark
  grind -ring -linarith -order -ac [ctxsave_okMem]

theorem execCtxload_okMem (g : Guard) (d a : Fin 64) (s : State) (hs : Memory.wf s.mem = true) :
    OkMem (execCtxload g d a s) := by
  unfold execCtxload
  refine enterMemGang_okMem _ _ _ _ hs fun s c hs => ?_
  simp only
  split
  · exact okMem_next (State.raise_wf _ _ _ _ hs)
  refine orTrap_okMem s _ _ _ _ hs (fun e he => State.readAtoms_error_mem _ _ _ _ _ he) fun y _ => ?_
  obtain ⟨head, v1, s1⟩ := y
  simp only
  refine orTrap_okMem s _ _ _ _ hs (fun e he => State.readAtoms_error_mem _ _ _ _ _ he) fun x hx => ?_
  obtain ⟨bs, v, s'⟩ := x
  have h0 : s'.mem = s.mem := State.readAtoms_mem _ _ _ _ _ hx
  simp only
  refine okMem_next (State.finish_wf _ _ _ ?_)
  rw [State.putRegs_mem]
  have h1 : ∀ n, (s'.raiseTo c n).mem = s.mem := fun n => (State.raiseTo_mem ..).trans h0
  cases v <;> simp only <;> split <;> grind -ring -linarith -order -ac [State.queueRestore_mem, State.raiseTo_mem]

theorem execLaunch_okMem (g : Guard) (d : Fin 64) (a : AddrOperand) (s : State) (hs : Memory.wf s.mem = true) :
    OkMem (execLaunch g d a s) := by
  unfold execLaunch
  refine enterMemGang_okMem _ _ _ _ hs fun s c hs => ?_
  have hd : ∀ (q : State) (r : Regs), q.mem = s.mem →
      OkMem (.next ((((q.putRegs c r).pinDown c.sid).noAudit c.sid).finish c (Instr.launch g d a))) := fun q r h =>
    okMem_next (State.finish_wf _ _ _ (by rw [State.noAudit_mem, State.pinDown_mem, State.putRegs_mem, h]; exact hs))
  have hl : ∀ (q : State) (t : Trap), q.mem = s.mem → OkMem (.next (q.raise c (Instr.launch g d a) t)) := fun q t h =>
    okMem_next (State.raise_wf _ _ _ _ (wf_of h hs))
  cases a
  all_goals
    simp only
    split
    · exact okMem_next (State.raise_wf _ _ _ _ hs)
    split
    · next e => exact hd _ _ (State.readSpan_error_mem _ _ _ _ _ _ e)
    · next e => exact hl _ _ (State.readSpan_error_mem _ _ _ _ _ _ e)
    · next e =>
      have h1 := State.readSpan_mem _ _ _ _ _ _ e
      split
      · next e' => exact hl _ _ ((State.submit_error_mem _ _ _ _ _ e').trans h1)
      · next e' => exact hd _ _ ((State.submit_mem _ _ _ _ _ e').trans h1)

theorem execIcmp_okMem (g : Guard) (ty : IntTy) (cmp : ICmp) (comb : Combine) (pd : Fin 8) (a b : Operand) (s : State)
    (hs : Memory.wf s.mem = true) :
    OkMem (execIcmp g ty cmp comb pd a b s) := by
  unfold execIcmp
  grind -ring -linarith -order -ac [alu_okMem]

theorem execSel_okMem (g : Guard) (ty : BitTy) (p : Fin 8) (neg : Bool) (d : Fin 192) (a b : Operand) (s : State)
    (hs : Memory.wf s.mem = true) :
    OkMem (execSel g ty p neg d a b s) := by
  unfold execSel
  grind -ring -linarith -order -ac [alu_okMem]

theorem execPcomb_okMem (g : Guard) (pd pa pb pc : Fin 8) (tt : Byte) (s : State) (hs : Memory.wf s.mem = true) :
    OkMem (execPcomb g pd pa pb pc tt s) := by
  unfold execPcomb
  grind -ring -linarith -order -ac [alu_okMem]

theorem execPsetm_okMem (g : Guard) (pd : Fin 8) (a : Fin 64) (s : State) (hs : Memory.wf s.mem = true) :
    OkMem (execPsetm g pd a s) := by
  unfold execPsetm
  grind -ring -linarith -order -ac [alu_okMem]

theorem execPsetmMask_okMem (g : Guard) (pd : Fin 8) (k : Fin 8) (s : State) (hs : Memory.wf s.mem = true) :
    OkMem (execPsetmMask g pd k s) := by
  unfold execPsetmMask
  grind -ring -linarith -order -ac [alu_okMem]

theorem execPmovToReg_okMem (g : Guard) (p : Fin 8) (d : Fin 192) (s : State) (hs : Memory.wf s.mem = true) :
    OkMem (execPmovToReg g p d s) := by
  unfold execPmovToReg
  grind -ring -linarith -order -ac [alu_okMem]

theorem execPmovToPred_okMem (g : Guard) (pd : Fin 8) (a : Reg) (s : State) (hs : Memory.wf s.mem = true) :
    OkMem (execPmovToPred g pd a s) := by
  unfold execPmovToPred
  grind -ring -linarith -order -ac [alu_okMem]

theorem execPmovFromMask_okMem (g : Guard) (k : Fin 8) (d : Fin 64) (s : State) (hs : Memory.wf s.mem = true) :
    OkMem (execPmovFromMask g k d s) := by
  unfold execPmovFromMask
  grind -ring -linarith -order -ac [alu_okMem]

theorem execMov_okMem (g : Guard) (ty : BitTy) (d : Reg) (a : Operand) (s : State) (hs : Memory.wf s.mem = true) :
    OkMem (execMov g ty d a s) := by
  unfold execMov
  grind -ring -linarith -order -ac [alu_okMem]

theorem execMovi_okMem (g : Guard) (ty : BitTy) (d : Reg) (a : Operand) (s : State) (hs : Memory.wf s.mem = true) :
    OkMem (execMovi g ty d a s) := by
  unfold execMovi
  grind -ring -linarith -order -ac [alu_okMem]

theorem execMovs_okMem (g : Guard) (num : Fin 15) (d : Reg) (s : State) (hs : Memory.wf s.mem = true) :
    OkMem (execMovs g num d s) := by
  unfold execMovs
  refine enter_okMem _ _ _ hs fun c => ?_
  grind -ring -linarith -order -ac [okMem_next, State.finish_wf, State.putRegs_mem]

theorem nfOp_okMem (i : Instr) (g : Guard) (k : Nat) (d : Reg) (b : Operand) (s : State) (f : View → Nat → Word)
    (hs : Memory.wf s.mem = true) :
    OkMem (nfOp i g k d b s f) := by
  unfold nfOp
  refine enter_okMem _ _ _ hs fun c => ?_
  grind -ring -linarith -order -ac [okMem_next, State.finish_wf, State.putRegs_mem, State.raise_wf]

theorem execNfpack_okMem (g : Guard) (k : Fin 8) (d : Reg) (a b c : Operand) (s : State) (hs : Memory.wf s.mem = true) :
    OkMem (execNfpack g k d a b c s) := by
  unfold execNfpack
  grind -ring -linarith -order -ac [nfOp_okMem]

theorem execNfunp_okMem (g : Guard) (k : Fin 8) (d : Reg) (a b c : Operand) (s : State) (hs : Memory.wf s.mem = true) :
    OkMem (execNfunp g k d a b c s) := by
  unfold execNfunp
  grind -ring -linarith -order -ac [nfOp_okMem]

theorem execScaleblk_okMem (g : Guard) (d : Reg) (a b c : Operand) (s : State) (hs : Memory.wf s.mem = true) :
    OkMem (execScaleblk g d a b c s) := by
  unfold execScaleblk
  refine enter_okMem _ _ _ hs fun c => ?_
  grind -ring -linarith -order -ac [okMem_next, State.finish_wf, State.putRegs_mem, State.raise_wf]

theorem execPlaceSheet_okMem (die : Nat) (s : State) (hs : Memory.wf s.mem = true) :
    OkMem (execPlaceSheet die s) := by
  unfold execPlaceSheet
  split
  · exact okMem_fault _
  · exact okMem_next (State.reap_wf _ (State.restoreSheet_wf _ _ _ (by rw [State.rotate_mem]; exact hs)))
  · exact okMem_next (State.reap_wf _ (by rw [State.placeNew_mem, State.modLaunch_mem, State.rotate_mem]; exact hs))

theorem execStealRequest_okMem (die : Nat) (s : State) (hs : Memory.wf s.mem = true) :
    OkMem (execStealRequest die s) := by
  unfold execStealRequest
  grind -ring -linarith -order -ac [okMem_next, okMem_fault, State.modDie_mem, State.modLaunch_mem]

theorem execStealRetry_okMem (die : Nat) (s : State) (hs : Memory.wf s.mem = true) :
    OkMem (execStealRetry die s) := by
  unfold execStealRetry
  grind -ring -linarith -order -ac [okMem_next, okMem_fault, State.modDie_mem]

theorem execRestoreListPass_okMem (die sheet : Nat) (s : State) (hs : Memory.wf s.mem = true) :
    OkMem (execRestoreListPass die sheet s) := by
  unfold execRestoreListPass
  grind -ring -linarith -order -ac [okMem_next, okMem_fault, State.modDie_mem, State.queueRestore_mem]

theorem execPreemptionRequest_okMem (die : Nat) (s : State) (hs : Memory.wf s.mem = true) :
    OkMem (execPreemptionRequest die s) := by
  unfold execPreemptionRequest
  split
  · exact okMem_fault _
  · exact okMem_next (by rw [State.modDie_mem]; exact foldl_wf _ (fun s k h => State.requestPreempt_wf _ _ _ h) _ _ hs)

theorem execDrainTimeout_okMem (sheet : Nat) (s : State) (hs : Memory.wf s.mem = true) :
    OkMem (execDrainTimeout sheet s) := by
  unfold execDrainTimeout
  grind -ring -linarith -order -ac [okMem_next, okMem_fault, State.modSheet_mem]

theorem execSave_okMem (sheet : Nat) (s : State) (hs : Memory.wf s.mem = true) :
    OkMem (execSave sheet s) := by
  unfold execSave
  grind -ring -linarith -order -ac [okMem_next, okMem_fault, State.reap_wf, State.saveSheet_wf]

theorem execFlush_okMem (sheet : Nat) (s : State) (hs : Memory.wf s.mem = true) :
    OkMem (execFlush sheet s) := by
  unfold execFlush
  grind -ring -linarith -order -ac [okMem_next, okMem_fault, State.flushSheet_wf, State.modSheet_mem, State.reap_wf]

theorem execSheetRetire_okMem (sheet : Nat) (s : State) (hs : Memory.wf s.mem = true) :
    OkMem (execSheetRetire sheet s) := by
  unfold execSheetRetire
  grind -ring -linarith -order -ac [okMem_next, okMem_fault, State.drew_mem, State.modLaunch_mem, State.removeSheet_mem]

theorem execLaunchRetire_okMem (launch : Nat) (s : State) (hs : Memory.wf s.mem = true) :
    OkMem (execLaunchRetire launch s) := by
  unfold execLaunchRetire
  grind -ring -linarith -order -ac [okMem_next, okMem_fault, State.increment_wf, State.reap_wf]

theorem execRollback_okMem (sheet gang : Nat) (consumed : Bool) (s : State) (hs : Memory.wf s.mem = true) :
    OkMem (execRollback sheet gang consumed s) := by
  unfold execRollback
  grind -ring -linarith -order -ac [okMem_next, okMem_fault, State.kill_wf, State.reap_wf, State.rollBack_wf]

theorem execBlotterSweep_okMem (bad : LostWords) (s : State) (hs : Memory.wf s.mem = true) :
    OkMem (execBlotterSweep bad s) := by
  unfold execBlotterSweep
  grind -ring -linarith -order -ac [okMem_next, okMem_fault, State.sweepWord_mem, State.poisonPool_mem, foldl_wf]

theorem execEccReencode_okMem (region : EccRegion) (bad : LostWords) (s : State) (hs : Memory.wf s.mem = true) :
    OkMem (execEccReencode region bad s) := by
  unfold execEccReencode
  grind -ring -linarith -order -ac [okMem_next, okMem_fault, okMem_refused, State.modCluster_mem, State.modDie_mem, State.poisonWord_mem, State.poisonPool_mem, State.modSheet_mem,
    State.putAtom_mem, foldl_wf, foldl_wf_fst, foldl_wf_snd, foldl_mem, foldl_mem_fst, foldl_mem_snd]

theorem execCountersignReplay_okMem (audit : Nat) (s : State) (hs : Memory.wf s.mem = true) :
    OkMem (execCountersignReplay audit s) := by
  unfold execCountersignReplay
  grind -ring -linarith -order -ac [State.reap_wf, State.modLaunch_mem, okMem_next, okMem_fault, okMem_refused, State.auditError_mem, State.endAudit_mem, State.judge_mem,
    State.modSheet_mem, State.noAudit_mem, State.placeNew_mem, State.removeSheet_mem]

theorem execMigrationCutover_okMem (id : Nat) (s : State) (hs : Memory.wf s.mem = true) :
    OkMem (execMigrationCutover id s) := by
  unfold execMigrationCutover
  grind -ring -linarith -order -ac [okMem_next, okMem_fault, State.cutover_wf, State.reap_wf]

theorem State.boost_mem (s : State) (die : Nat) : (s.boost die).mem = s.mem := by
  unfold State.boost
  split
  · rfl
  · dsimp only
    rw [State.modDie_mem]
    exact foldl_mem _ (fun s c => State.modCluster_mem ..) _ _

theorem execBoostIntervalBoundary_okMem (die : Nat) (s : State) (hs : Memory.wf s.mem = true) :
    OkMem (execBoostIntervalBoundary die s) := by
  unfold execBoostIntervalBoundary
  grind -ring -linarith -order -ac [okMem_next, okMem_fault, State.boost_mem]

theorem execPermitRefill_okMem (die : Nat) (s : State) (hs : Memory.wf s.mem = true) :
    OkMem (execPermitRefill die s) := by
  unfold execPermitRefill
  grind -ring -linarith -order -ac [okMem_next, okMem_fault, State.boost_mem, State.modDie_mem]

theorem execRetentionEntry_okMem (cluster : Nat) (s : State) (hs : Memory.wf s.mem = true) :
    OkMem (execRetentionEntry cluster s) := by
  unfold execRetentionEntry
  grind -ring -linarith -order -ac [okMem_next, okMem_fault, State.modCluster_mem]

theorem execRetentionWake_okMem (cluster : Nat) (s : State) (hs : Memory.wf s.mem = true) :
    OkMem (execRetentionWake cluster s) := by
  unfold execRetentionWake
  grind -ring -linarith -order -ac [okMem_next, okMem_fault, State.modCluster_mem, State.releaseWaves_mem]

theorem execQinit_okMem (g : Guard) (q : Fin 16) (a : UOperand) (s : State) (hs : Memory.wf s.mem = true) :
    OkMem (execQinit g q a s) := by
  unfold execQinit
  refine enterMemGang_okMem _ _ _ _ hs fun s c hs => ?_
  grind -ring -linarith -order -ac [okMem_next, State.finish_wf, State.modSheet_mem, State.raise_wf]

theorem execQpush_okMem (g : Guard) (q : Fin 16) (a : UOperand) (s : State) (hs : Memory.wf s.mem = true) :
    OkMem (execQpush g q a s) := by
  unfold execQpush
  refine enterMemGang_okMem _ _ _ _ hs fun s c hs => ?_
  grind -ring -linarith -order -ac [okMem_next, okMem_fault, okMem_refused, State.finish_wf, State.modSheet_mem, State.pinDown_mem,
    State.raiseTo_mem, State.raise_wf, State.seqWait_wf, State.waitIn_wf]

theorem popOrElse_okMem (i : Instr) (g : Guard) (q : Fin 16) (pd : Fin 8) (d : Fin 64) (wait : Bool) (s : State)
    (hs : Memory.wf s.mem = true) :
    OkMem (popOrElse i g q pd d wait s) := by
  unfold popOrElse
  refine enterMemGang_okMem _ _ _ _ hs fun s c hs => ?_
  grind -ring -linarith -order -ac [okMem_next, okMem_fault, okMem_refused, State.finish_wf, State.modSheet_mem, State.pinDown_mem,
    State.popEntry_wf, State.putRegs_mem, State.raise_wf, State.waitIn_wf]

theorem execQpop_okMem (g : Guard) (q : Fin 16) (pd : Fin 8) (d : Fin 64) (s : State) (hs : Memory.wf s.mem = true) :
    OkMem (execQpop g q pd d s) := by
  unfold execQpop
  grind -ring -linarith -order -ac [popOrElse_okMem]

theorem execQtry_okMem (g : Guard) (q : Fin 16) (pd : Fin 8) (d : Fin 64) (s : State) (hs : Memory.wf s.mem = true) :
    OkMem (execQtry g q pd d s) := by
  unfold execQtry
  grind -ring -linarith -order -ac [popOrElse_okMem]

theorem execQclose_okMem (g : Guard) (q : Fin 16) (s : State) (hs : Memory.wf s.mem = true) :
    OkMem (execQclose g q s) := by
  unfold execQclose
  refine enterMemGang_okMem _ _ _ _ hs fun s c hs => ?_
  grind -ring -linarith -order -ac [okMem_next, State.finish_wf, State.modSheet_mem, State.pinDown_mem, State.raise_wf]

theorem execRbox_okMem (g : Guard) (pd : Fin 8) (d : Fin 192) (a b : Reg) (s : State) (hs : Memory.wf s.mem = true) :
    OkMem (execRbox g pd d a b s) := by
  unfold execRbox
  grind -ring -linarith -order -ac [alu_okMem]

theorem execRtri_okMem (g : Guard) (pd : Fin 8) (cull : Fin 3) (d : Fin 192) (a b : Reg) (s : State)
    (hs : Memory.wf s.mem = true) :
    OkMem (execRtri g pd cull d a b s) := by
  unfold execRtri
  grind -ring -linarith -order -ac [alu_okMem]

theorem execWeightWindowOpen_okMem (cluster : Nat) (s : State) (hs : Memory.wf s.mem = true) :
    OkMem (execWeightWindowOpen cluster s) := by
  unfold execWeightWindowOpen
  grind -ring -linarith -order -ac [okMem_next, okMem_fault, State.modCluster_mem, State.readyGangs_mem]

theorem execPowerOn_okMem (r : PowerOnRecord) (s : State) (hs : Memory.wf s.mem = true) :
    OkMem (execPowerOn r s) := by
  unfold execPowerOn
  grind -ring -linarith -order -ac [okMem_next, okMem_fault, State.checkGrade_mem, State.drew_mem, State.rekey_wf, State.readmit_mem, foldl_wf]

theorem command_okMem (code : Nat) (pen : Bool) (h : CmdHdr) (s : State) (k : Host.Outcome State Fault Refusal)
    (hs : Memory.wf s.mem = true) (hk : OkMem k) :
    OkMem (command code pen h s k) := by
  unfold command
  grind -ring -linarith -order -ac [okMem_next, okMem_fault, State.reply_mem]

theorem execClaim_okMem (h : CmdHdr) (body : List Byte) (s : State) (hs : Memory.wf s.mem = true) :
    OkMem (execClaim h body s) := by
  unfold execClaim
  grind -ring -linarith -order -ac [okMem_next, okMem_fault, okMem_refused, command_okMem, State.renew_mem, State.reply_mem]

theorem execHeartbeat_okMem (h : CmdHdr) (body : List Byte) (s : State) (hs : Memory.wf s.mem = true) :
    OkMem (execHeartbeat h body s) := by
  unfold execHeartbeat
  grind -ring -linarith -order -ac [okMem_next, command_okMem, State.renew_mem, State.reply_mem]

theorem execHandover_okMem (h : CmdHdr) (body : List Byte) (s : State) (hs : Memory.wf s.mem = true) :
    OkMem (execHandover h body s) := by
  unfold execHandover
  grind -ring -linarith -order -ac [okMem_next, command_okMem, State.reply_mem]

theorem execLeaseLapse_okMem (s : State) (hs : Memory.wf s.mem = true) :
    OkMem (execLeaseLapse s) := by
  unfold execLeaseLapse
  grind -ring -linarith -order -ac [okMem_next, okMem_fault]

theorem execStatus_okMem (h : CmdHdr) (body : List Byte) (s : State) (hs : Memory.wf s.mem = true) :
    OkMem (execStatus h body s) := by
  unfold execStatus
  grind -ring -linarith -order -ac [okMem_next, command_okMem, State.reply_mem]

theorem execAttest_okMem (h : CmdHdr) (body : List Byte) (s : State) (hs : Memory.wf s.mem = true) :
    OkMem (execAttest h body s) := by
  unfold execAttest
  grind -ring -linarith -order -ac [okMem_next, command_okMem, State.reply_mem]

theorem execNotices_okMem (h : CmdHdr) (body : List Byte) (s : State) (hs : Memory.wf s.mem = true) :
    OkMem (execNotices h body s) := by
  unfold execNotices
  grind -ring -linarith -order -ac [okMem_next, command_okMem, State.reply_mem]

theorem execPartCreate_okMem (h : CmdHdr) (body : List Byte) (s : State) (hs : Memory.wf s.mem = true) :
    OkMem (execPartCreate h body s) := by
  unfold execPartCreate
  grind -ring -linarith -order -ac [okMem_next, command_okMem, State.reply_mem]

theorem execPartEnd_okMem (h : CmdHdr) (body : List Byte) (s : State) (hs : Memory.wf s.mem = true) :
    OkMem (execPartEnd h body s) := by
  unfold execPartEnd
  grind -ring -linarith -order -ac [okMem_next, command_okMem, State.endContexts_wf, State.reply_mem]

theorem execCtxCreate_okMem (h : CmdHdr) (body : List Byte) (s : State) (hs : Memory.wf s.mem = true) :
    OkMem (execCtxCreate h body s) := by
  unfold execCtxCreate
  grind -ring -linarith -order -ac [okMem_next, command_okMem, State.reply_mem]

theorem onContext_okMem (code : Nat) (h : CmdHdr) (cx : Nat) (s : State)
    (k : State → Context → Host.Outcome State Fault Refusal) (hs : Memory.wf s.mem = true)
    (hk : ∀ x0 x1, Memory.wf x0.mem = true → OkMem (k x0 x1)) :
    OkMem (onContext code h cx s k) := by
  unfold onContext
  grind -ring -linarith -order -ac [okMem_next, State.modCtx_mem, State.reply_mem]

theorem execCtxEnd_okMem (h : CmdHdr) (body : List Byte) (s : State) (hs : Memory.wf s.mem = true) :
    OkMem (execCtxEnd h body s) := by
  unfold execCtxEnd
  grind -ring -linarith -order -ac [okMem_next, command_okMem, onContext_okMem, State.endContext_wf, State.reply_mem]

theorem execStewardLaunch_okMem (h : CmdHdr) (body : List Byte) (s : State) (hs : Memory.wf s.mem = true) :
    OkMem (execStewardLaunch h body s) := by
  unfold execStewardLaunch
  refine command_okMem _ _ _ _ _ hs ?_
  dsimp only
  split
  · exact okMem_next (by rw [State.reply_mem]; exact hs)
  refine onContext_okMem _ _ _ _ _ hs fun s c hs => okMem_next (State.reap_wf _ ?_)
  rw [State.reply_mem]
  cases h' : s.submit _ _ _ with
  | error e => exact wf_of (State.submit_error_mem _ _ _ _ _ h') hs
  | ok t => exact wf_of (State.submit_mem _ _ _ _ _ h') hs

theorem execPreempt_okMem (h : CmdHdr) (body : List Byte) (s : State) (hs : Memory.wf s.mem = true) :
    OkMem (execPreempt h body s) := by
  unfold execPreempt
  grind -ring -linarith -order -ac [okMem_next, command_okMem, onContext_okMem, State.reply_mem, State.requestPreempt_wf, foldl_wf]

theorem execKeyLoad_okMem (h : CmdHdr) (body : List Byte) (s : State) (hs : Memory.wf s.mem = true) :
    OkMem (execKeyLoad h body s) := by
  unfold execKeyLoad
  refine command_okMem _ _ _ _ _ hs ?_
  dsimp only
  split
  · exact okMem_next (by rw [State.reply_mem]; exact hs)
  split
  · exact okMem_next (by rw [State.reply_mem]; exact hs)
  · exact okMem_next (by rw [State.reply_mem]; exact State.rekey_wf _ _ _ hs)

theorem execKeyClear_okMem (h : CmdHdr) (body : List Byte) (s : State) (hs : Memory.wf s.mem = true) :
    OkMem (execKeyClear h body s) := by
  unfold execKeyClear
  grind -ring -linarith -order -ac [okMem_next, command_okMem, State.reply_mem]

theorem execKeyGrant_okMem (h : CmdHdr) (body : List Byte) (s : State) (hs : Memory.wf s.mem = true) :
    OkMem (execKeyGrant h body s) := by
  unfold execKeyGrant
  grind -ring -linarith -order -ac [okMem_next, command_okMem, State.reply_mem]

theorem execReplicate_okMem (h : CmdHdr) (body : List Byte) (s : State) (hs : Memory.wf s.mem = true) :
    OkMem (execReplicate h body s) := by
  unfold execReplicate
  grind -ring -linarith -order -ac [okMem_next, okMem_fault, okMem_refused, command_okMem, onContext_okMem, State.discard_mem, State.reply_mem,
    State.rewriteLeaf_wf, State.drew_mem]

theorem execMigrate_okMem (h : CmdHdr) (body : List Byte) (s : State) (hs : Memory.wf s.mem = true) :
    OkMem (execMigrate h body s) := by
  unfold execMigrate
  grind -ring -linarith -order -ac [okMem_next, okMem_fault, okMem_refused, command_okMem, onContext_okMem, State.convert_wf, State.drew_mem, State.cutover_wf, foldl_wf,
    State.reply_mem]

theorem execRegion_okMem (h : CmdHdr) (body : List Byte) (s : State) (hs : Memory.wf s.mem = true) :
    OkMem (execRegion h body s) := by
  unfold execRegion
  grind -ring -linarith -order -ac [okMem_next, command_okMem, onContext_okMem, State.drew_mem, State.reply_mem]

theorem execClset_okMem (h : CmdHdr) (body : List Byte) (s : State) (hs : Memory.wf s.mem = true) :
    OkMem (execClset h body s) := by
  unfold execClset
  grind -ring -linarith -order -ac [okMem_next, okMem_fault, okMem_refused, command_okMem, State.modCluster_mem, State.modCtx_mem, State.modDie_mem,
    State.reply_mem, foldl_wf, foldl_wf_fst, foldl_wf_snd, foldl_mem, foldl_mem_fst, foldl_mem_snd]

theorem execCheckpoint_okMem (h : CmdHdr) (body : List Byte) (s : State) (hs : Memory.wf s.mem = true) :
    OkMem (execCheckpoint h body s) := by
  unfold execCheckpoint
  grind -ring -linarith -order -ac [okMem_next, okMem_fault, okMem_refused, command_okMem, State.completeCopy_wf, State.drew_mem, State.reap_wf,
    State.reply_mem, State.saveSheet_wf, State.shadowPoints_wf, State.sweepSoft_wf, State.drain_wf, foldl_wf, foldl_wf_fst, foldl_wf_snd, foldl_mem,
      foldl_mem_fst, foldl_mem_snd]

theorem execCheckpointComplete_okMem (id : Nat) (s : State) (hs : Memory.wf s.mem = true) :
    OkMem (execCheckpointComplete id s) := by
  unfold execCheckpointComplete
  grind -ring -linarith -order -ac [okMem_next, okMem_fault, State.reply_mem]

theorem execRestore_okMem (h : CmdHdr) (body : List Byte) (s : State) (hs : Memory.wf s.mem = true) :
    OkMem (execRestore h body s) := by
  unfold execRestore
  grind -ring -linarith -order -ac [okMem_next, command_okMem, State.load_wf, State.reply_mem]

theorem execReset_okMem (h : CmdHdr) (body : List Byte) (s : State) (hs : Memory.wf s.mem = true) :
    OkMem (execReset h body s) := by
  unfold execReset
  grind -ring -linarith -order -ac [okMem_next, command_okMem, State.endContexts_wf, State.reply_mem]

theorem execRdmaWrite_okMem (rkey va : Nat) (data : List Byte) (s : State) (hs : Memory.wf s.mem = true) :
    OkMem (execRdmaWrite rkey va data s) := by
  unfold execRdmaWrite
  split
  · exact okMem_next hs
  simp only
  split
  · next h => exact okMem_next (wf_of (State.checkAccess_error_mem _ _ _ _ h) hs)
  next h =>
  have h0 := State.checkAccess_mem _ _ _ _ h
  refine okMem_next (State.reap_wf _ (foldl_wf _ (fun s x hs => ?_) _ _ (by rw [h0]; exact hs)))
  have h1 := fun cx va => State.beforeWrite_wf s cx va hs
  split
  · rw [State.asyncError_mem]; exact hs
  split
  · rw [State.exhaust_mem]; exact h1 _ _
  · next h => rw [State.modCtx_mem]; exact State.placeWrite_wf _ _ _ _ _ _ h (h1 _ _)

theorem execRdmaRead_okMem (rkey va len : Nat) (s : State) (hs : Memory.wf s.mem = true) :
    OkMem (execRdmaRead rkey va len s) := by
  unfold execRdmaRead
  split
  · exact okMem_next hs
  simp only
  split
  · next h => exact okMem_next (wf_of (State.checkAccess_error_mem _ _ _ _ h) hs)
  next h =>
  have h0 := State.checkAccess_mem _ _ _ _ h
  split
  · exact okMem_next (wf_of h0 hs)
  · refine okMem_next ?_
    simp only [State.modCtx_mem, State.drew_mem, State.markReads_mem]; rw [h0]; exact hs

theorem execLinkUnreachable_okMem (device : Nat) (s : State) (hs : Memory.wf s.mem = true) :
    OkMem (execLinkUnreachable device s) := by
  unfold execLinkUnreachable
  grind -ring -linarith -order -ac [okMem_next, okMem_fault]

theorem execReAdmission_okMem (who : Readmitted) (s : State) (hs : Memory.wf s.mem = true) :
    OkMem (execReAdmission who s) := by
  unfold execReAdmission
  split <;> exact okMem_ite (okMem_fault _) (okMem_next hs)

theorem execFenceG_okMem (g : Guard) (s : State) (hs : Memory.wf s.mem = true) :
    OkMem (execFenceG g s) := by
  unfold execFenceG
  refine enterMem_okMem _ _ _ hs fun s c hs => ?_
  grind -ring -linarith -order -ac [okMem_next, State.drainLanes_wf, State.finish_wf, State.modGang_mem]

theorem execFenceS_okMem (g : Guard) (s : State) (hs : Memory.wf s.mem = true) :
    OkMem (execFenceS g s) := by
  unfold execFenceS
  refine enterMem_okMem _ _ _ hs fun s c hs => ?_
  grind -ring -linarith -order -ac [okMem_next, State.drainSheet_wf, State.finish_wf, State.modGang_mem]

theorem execFenceC_okMem (g : Guard) (k : Fin 8) (d : Reg) (s : State) (hs : Memory.wf s.mem = true) :
    OkMem (execFenceC g k d s) := by
  unfold execFenceC
  refine enterMem_okMem _ _ _ hs fun s c hs => ?_
  grind -ring -linarith -order -ac [okMem_next, State.finish_wf, State.giveTimes_mem, State.putRegs_mem]

theorem barrierArrive_okMem (i : Instr) (g : Guard) (b : Fin 16) (pd : Option (Fin 8)) (s : State)
    (hs : Memory.wf s.mem = true) :
    OkMem (barrierArrive i g b pd s) := by
  unfold barrierArrive
  refine enterMem_okMem _ _ _ hs fun s c hs => ?_
  grind -ring -linarith -order -ac [okMem_next, okMem_fault, okMem_refused, State.finish_wf, State.raise_wf, State.reap_wf, State.shadowPoints_wf,
    State.threadArrival_mem, foldl_wf, foldl_wf_fst, foldl_wf_snd, foldl_mem, foldl_mem_fst, foldl_mem_snd]

theorem execBar_okMem (g : Guard) (b : Fin 16) (pd : Fin 8) (s : State) (hs : Memory.wf s.mem = true) :
    OkMem (execBar g b pd s) := by
  unfold execBar
  grind -ring -linarith -order -ac [barrierArrive_okMem]

theorem execBarArrive_okMem (g : Guard) (b : Fin 16) (s : State) (hs : Memory.wf s.mem = true) :
    OkMem (execBarArrive g b s) := by
  unfold execBarArrive
  grind -ring -linarith -order -ac [barrierArrive_okMem]

theorem execBarrierWaveRelease_okMem (sheet gang : Nat) (s : State) (hs : Memory.wf s.mem = true) :
    OkMem (execBarrierWaveRelease sheet gang s) := by
  unfold execBarrierWaveRelease
  grind -ring -linarith -order -ac [okMem_next, okMem_fault, State.modGang_mem]

theorem execBarinit_okMem (g : Guard) (b : Fin 16) (ext : Bool) (counts : BarCounts) (s : State)
    (hs : Memory.wf s.mem = true) :
    OkMem (execBarinit g b ext counts s) := by
  unfold execBarinit
  refine enterMemGang_okMem _ _ _ _ hs fun s c hs => ?_
  grind -ring -linarith -order -ac [okMem_next, State.finish_wf, State.modBar_mem, State.raise_wf]

theorem execBarinv_okMem (g : Guard) (b : Fin 16) (s : State) (hs : Memory.wf s.mem = true) :
    OkMem (execBarinv g b s) := by
  unfold execBarinv
  refine enterMemGang_okMem _ _ _ _ hs fun s c hs => ?_
  grind -ring -linarith -order -ac [okMem_next, State.finish_wf, State.modBar_mem, State.releaseBarrier_mem]

/-- Every meaning keeps the canonical form of memory. -/
theorem exec_okMem (i : Instr) (s : State) (hs : Memory.wf s.mem = true) : OkMem (exec i s) :=
  match i with
  | .nop g => execNop_okMem g s hs
  | .bra g disp => execBra_okMem g disp s hs
  | .brx g a => execBrx_okMem g a s hs
  | .call g d disp => execCall_okMem g d disp s hs
  | .callx g d a => execCallx_okMem g d a s hs
  | .ret g a => execRet_okMem g a s hs
  | .exit g => execExit_okMem g s hs
  | .meet g k disp => execMeet_okMem g k disp s hs
  | .mleave g k => execMleave_okMem g k s hs
  | .yield g => execYield_okMem g s hs
  | .nap g a => execNap_okMem g a s hs
  | .napImm g n => execNapImm_okMem g n s hs
  | .napEnd sheet gang => execNapEnd_okMem sheet gang s hs
  | .trap g => execTrap_okMem g s hs
  | .trapImm g code => execTrapImm_okMem g code s hs
  | .bkpt g => execBkpt_okMem g s hs
  | .perf g a => execPerf_okMem g a s hs
  | .perfImm g n => execPerfImm_okMem g n s hs
  | .iadd g ty sat d a b => execIadd_okMem g ty sat d a b s hs
  | .isub g ty sat d a b => execIsub_okMem g ty sat d a b s hs
  | .iadd3 g ty d a b c => execIadd3_okMem g ty d a b c s hs
  | .imul g ty d a b => execImul_okMem g ty d a b s hs
  | .imulh g ty d a b => execImulh_okMem g ty d a b s hs
  | .imad g ty d a b c => execImad_okMem g ty d a b c s hs
  | .imadw g ty d a b c => execImadw_okMem g ty d a b c s hs
  | .idiv g ty d a b => execIdiv_okMem g ty d a b s hs
  | .irem g ty d a b => execIrem_okMem g ty d a b s hs
  | .imin g ty d a b => execImin_okMem g ty d a b s hs
  | .imax g ty d a b => execImax_okMem g ty d a b s hs
  | .iabs g sat d a => execIabs_okMem g sat d a s hs
  | .ineg g sat d a => execIneg_okMem g sat d a s hs
  | .clamp g ty d a b c => execClamp_okMem g ty d a b c s hs
  | .and g ty d a b => execAnd_okMem g ty d a b s hs
  | .or g ty d a b => execOr_okMem g ty d a b s hs
  | .xor g ty d a b => execXor_okMem g ty d a b s hs
  | .andn g ty d a b => execAndn_okMem g ty d a b s hs
  | .orn g ty d a b => execOrn_okMem g ty d a b s hs
  | .shl g ty d a b => execShl_okMem g ty d a b s hs
  | .shr g ty d a b => execShr_okMem g ty d a b s hs
  | .sar g ty d a b => execSar_okMem g ty d a b s hs
  | .rot g ty d a b => execRot_okMem g ty d a b s hs
  | .fsh g left d a b c => execFsh_okMem g left d a b c s hs
  | .bfx g ty d a b => execBfx_okMem g ty d a b s hs
  | .bfi g d a b c => execBfi_okMem g d a b c s hs
  | .popc g d a => execPopc_okMem g d a s hs
  | .clz g d a => execClz_okMem g d a s hs
  | .ctz g d a => execCtz_okMem g d a s hs
  | .brev g d a => execBrev_okMem g d a s hs
  | .bytesel g d a b c => execBytesel_okMem g d a b c s hs
  | .lea g scale sx d a b => execLea_okMem g scale sx d a b s hs
  | .icmp g ty cmp comb pd a b => execIcmp_okMem g ty cmp comb pd a b s hs
  | .sel g ty p neg d a b => execSel_okMem g ty p neg d a b s hs
  | .pcomb g pd pa pb pc tt => execPcomb_okMem g pd pa pb pc tt s hs
  | .psetm g pd a => execPsetm_okMem g pd a s hs
  | .psetmMask g pd k => execPsetmMask_okMem g pd k s hs
  | .pmovToReg g p d => execPmovToReg_okMem g p d s hs
  | .pmovToPred g pd a => execPmovToPred_okMem g pd a s hs
  | .pmovFromMask g k d => execPmovFromMask_okMem g k d s hs
  | .mov g ty d a => execMov_okMem g ty d a s hs
  | .movi g ty d a => execMovi_okMem g ty d a s hs
  | .movs g num d => execMovs_okMem g num d s hs
  | .fadd g r d a b => execFadd_okMem g r d a b s hs
  | .fsub g r d a b => execFsub_okMem g r d a b s hs
  | .fmul g r d a b => execFmul_okMem g r d a b s hs
  | .ffma g r d a b c => execFfma_okMem g r d a b c s hs
  | .fmin g d a b => execFmin_okMem g d a b s hs
  | .fmax g d a b => execFmax_okMem g d a b s hs
  | .frnd g r d a => execFrnd_okMem g r d a s hs
  | .fscale g r d a b => execFscale_okMem g r d a b s hs
  | .ffract g d a => execFfract_okMem g d a s hs
  | .frcp g r d a => execFrcp_okMem g r d a s hs
  | .frsq g d a => execFrsq_okMem g d a s hs
  | .fsqrt g r d a => execFsqrt_okMem g r d a s hs
  | .fdiv g r d a b => execFdiv_okMem g r d a b s hs
  | .fexp2 g d a => execFexp2_okMem g d a s hs
  | .flog2 g d a => execFlog2_okMem g d a s hs
  | .fsin g d a => execFsin_okMem g d a s hs
  | .fcos g d a => execFcos_okMem g d a s hs
  | .fcmp g cmp comb pd a b => execFcmp_okMem g cmp comb pd a b s hs
  | .fclass g ty hi d a => execFclass_okMem g ty hi d a s hs
  | .hadd2 g ty r d a b => execHadd2_okMem g ty r d a b s hs
  | .hmul2 g ty r d a b => execHmul2_okMem g ty r d a b s hs
  | .hfma2 g ty r d a b c => execHfma2_okMem g ty r d a b c s hs
  | .hmin2 g ty d a b => execHmin2_okMem g ty d a b s hs
  | .hmax2 g ty d a b => execHmax2_okMem g ty d a b s hs
  | .fdot2 g ty r d a b c => execFdot2_okMem g ty r d a b c s hs
  | .cvtfi g ty wide src r d a => execCvtfi_okMem g ty wide src r d a s hs
  | .cvtif g ty src r d a => execCvtif_okMem g ty src r d a s hs
  | .cvtff g dst src r d a pk => execCvtff_okMem g dst src r d a pk s hs
  | .iwiden g ty d a => execIwiden_okMem g ty d a s hs
  | .inarrow g ty sat d a b => execInarrow_okMem g ty sat d a b s hs
  | .nfpack g k d a b c => execNfpack_okMem g k d a b c s hs
  | .nfunp g k d a b c => execNfunp_okMem g k d a b c s hs
  | .scaleblk g d a b c => execScaleblk_okMem g d a b c s hs
  | .rbox g pd d a b => execRbox_okMem g pd d a b s hs
  | .rtri g pd cull d a b => execRtri_okMem g pd cull d a b s hs
  | .shfl g ty mode d a => execShfl_okMem g ty mode d a s hs
  | .vote g mode pd pa neg => execVote_okMem g mode pd pa neg s hs
  | .ballot g d pa neg => execBallot_okMem g d pa neg s hs
  | .match_ g ty alleq d a => execMatch_okMem g ty alleq d a s hs
  | .gred g op d a => execGred_okMem g op d a s hs
  | .gscan g op excl d a => execGscan_okMem g op excl d a s hs
  | .ld g ty d a off => execLd_okMem g ty d a off s hs
  | .st g ty a off b => execSt_okMem g ty a off b s hs
  | .writeAtHome id => execWriteAtHome_okMem id s hs
  | .stF g ty a off b c => execStF_okMem g ty a off b c s hs
  | .lds g ty d a off => execLds_okMem g ty d a off s hs
  | .sts g ty a off b => execSts_okMem g ty a off b s hs
  | .ldc g ty d a off => execLdc_okMem g ty d a off s hs
  | .ldq g ty mode d a b c => execLdq_okMem g ty mode d a b c s hs
  | .pref g l2 a off => execPref_okMem g l2 a off s hs
  | .sptest g pd a off => execSptest_okMem g pd a off s hs
  | .atom g op d a off b => execAtom_okMem g op d a off b s hs
  | .atoms g op d a off b => execAtoms_okMem g op d a off b s hs
  | .cas g ty d a off b c => execCas_okMem g ty d a off b c s hs
  | .red g op a off b => execRed_okMem g op a off b s hs
  | .atagg g op d a off b => execAtagg_okMem g op d a off b s hs
  | .fenceG g => execFenceG_okMem g s hs
  | .fenceS g => execFenceS_okMem g s hs
  | .fenceC g k d => execFenceC_okMem g k d s hs
  | .bar g b pd => execBar_okMem g b pd s hs
  | .barArrive g b => execBarArrive_okMem g b s hs
  | .barrierWaveRelease sheet gang => execBarrierWaveRelease_okMem sheet gang s hs
  | .barinit g b ext counts => execBarinit_okMem g b ext counts s hs
  | .barinv g b => execBarinv_okMem g b s hs
  | .qinit g q a => execQinit_okMem g q a s hs
  | .qpush g q a => execQpush_okMem g q a s hs
  | .qpop g q pd d => execQpop_okMem g q pd d s hs
  | .qtry g q pd d => execQtry_okMem g q pd d s hs
  | .qclose g q => execQclose_okMem g q s hs
  | .fopen g d a => execFopen_okMem g d a s hs
  | .fclose g a => execFclose_okMem g a s hs
  | .folioClose ctx slot => execFolioClose_okMem ctx slot s hs
  | .launch g d a => execLaunch_okMem g d a s hs
  | .mma g ty acc z a b c => execMma_okMem g ty acc z a b c s hs
  | .accz g k => execAccz_okMem g k s hs
  | .accrdV g k d => execAccrdV_okMem g k d s hs
  | .accrdSp g k a off => execAccrdSp_okMem g k a off s hs
  | .accrdT g t d => execAccrdT_okMem g t d s hs
  | .accwrV g k a => execAccwrV_okMem g k a s hs
  | .accwrSp g k a off => execAccwrSp_okMem g k a off s hs
  | .accwrT g t a => execAccwrT_okMem g t a s hs
  | .forkM g disp => execForkM_okMem g disp s hs
  | .forkC g disp => execForkC_okMem g disp s hs
  | .rdvThread g which d => execRdvThread_okMem g which d s hs
  | .rdvSequencer g => execRdvSequencer_okMem g s hs
  | .mmat g ty acc z ta tb oa ob => execMmat_okMem g ty acc z ta tb oa ob s hs
  | .mvsScale g c p ta tb ofs => execMvsScale_okMem g c p ta tb ofs s hs
  | .mvsSt g c ta ofs => execMvsSt_okMem g c ta ofs s hs
  | .mvsStbf g c ta ofs => execMvsStbf_okMem g c ta ofs s hs
  | .mvsLd g c ta ofs => execMvsLd_okMem g c ta ofs s hs
  | .cpl g dir size dst src => execCpl_okMem g dir size dst src s hs
  | .cptIn g rec line org => execCptIn_okMem g rec line org s hs
  | .cptOut g rec line org cnt => execCptOut_okMem g rec line org cnt s hs
  | .copyCompletion id => execCopyCompletion_okMem id s hs
  | .ownEng g t ofs => execOwnEng_okMem g t ofs s hs
  | .ownThr g t ofs => execOwnThr_okMem g t ofs s hs
  | .residOpen g prio d a b => execResidOpen_okMem g prio d a b s hs
  | .residPrio g prio d a => execResidPrio_okMem g prio d a s hs
  | .residClose g d a => execResidClose_okMem g d a s hs
  | .nxch g dir imm => execNxch_okMem g dir imm s hs
  | .nred g op group imm => execNred_okMem g op group imm s hs
  | .nbc g group root imm => execNbc_okMem g group root imm s hs
  | .collectiveCompletion id => execCollectiveCompletion_okMem id s hs
  | .emit g slot a b c => execEmit_okMem g slot a b c s hs
  | .emitend g slot a => execEmitend_okMem g slot a s hs
  | .primitivePacket id => execPrimitivePacket_okMem id s hs
  | .closeMarker id => execCloseMarker_okMem id s hs
  | .rasteriseGroup die ctx slot => execRasteriseGroup_okMem die ctx slot s hs
  | .drawAdvance ctx slot => execDrawAdvance_okMem ctx slot s hs
  | .sysrd g num wide d => execSysrd_okMem g num wide d s hs
  | .syswr g num wide a => execSyswr_okMem g num wide a s hs
  | .syswrTtb g a => execSyswrTtb_okMem g a s hs
  | .syswrCeil g a => execSyswrCeil_okMem g a s hs
  | .eret g => execEret_okMem g s hs
  | .tlbinvPage g a => execTlbinvPage_okMem g a s hs
  | .tlbinvRange g a b => execTlbinvRange_okMem g a b s hs
  | .tlbinvCtx g => execTlbinvCtx_okMem g s hs
  | .invrep g a => execInvrep_okMem g a s hs
  | .invrepRange g a b => execInvrepRange_okMem g a b s hs
  | .replicaConversion ctx page => execReplicaConversion_okMem ctx page s hs
  | .ctxsaveCopy g d a => execCtxsaveCopy_okMem g d a s hs
  | .ctxsavePark g d a => execCtxsavePark_okMem g d a s hs
  | .ctxload g d a => execCtxload_okMem g d a s hs
  | .halt g a => execHalt_okMem g a s hs
  | .wdclr g => execWdclr_okMem g s hs
  | .stamp g a => execStamp_okMem g a s hs
  | .asyncErrorDelivery sheet => execAsyncErrorDelivery_okMem sheet s hs
  | .deadlockWatchdog ctx => execDeadlockWatchdog_okMem ctx s hs
  | .externalWaitTimeout sheet gang => execExternalWaitTimeout_okMem sheet gang s hs
  | .supervisorWatchdog sheet gang => execSupervisorWatchdog_okMem sheet gang s hs
  | .weightWindowOpen cluster => execWeightWindowOpen_okMem cluster s hs
  | .placeSheet die => execPlaceSheet_okMem die s hs
  | .stealRequest die => execStealRequest_okMem die s hs
  | .stealRetry die => execStealRetry_okMem die s hs
  | .restoreListPass die sheet => execRestoreListPass_okMem die sheet s hs
  | .preemptionRequest die => execPreemptionRequest_okMem die s hs
  | .drainTimeout sheet => execDrainTimeout_okMem sheet s hs
  | .save sheet => execSave_okMem sheet s hs
  | .flush sheet => execFlush_okMem sheet s hs
  | .sheetRetire sheet => execSheetRetire_okMem sheet s hs
  | .launchRetire launch => execLaunchRetire_okMem launch s hs
  | .rollback sheet gang consumed => execRollback_okMem sheet gang consumed s hs
  | .blotterSweep bad => execBlotterSweep_okMem bad s hs
  | .eccReencode region bad => execEccReencode_okMem region bad s hs
  | .countersignReplay audit => execCountersignReplay_okMem audit s hs
  | .pageWalk ctx cluster page => execPageWalk_okMem ctx cluster page s hs
  | .migrationCutover id => execMigrationCutover_okMem id s hs
  | .boostIntervalBoundary die => execBoostIntervalBoundary_okMem die s hs
  | .permitRefill die => execPermitRefill_okMem die s hs
  | .retentionEntry cluster => execRetentionEntry_okMem cluster s hs
  | .retentionWake cluster => execRetentionWake_okMem cluster s hs
  | .powerOn r => execPowerOn_okMem r s hs
  | .claim h body => execClaim_okMem h body s hs
  | .heartbeat h body => execHeartbeat_okMem h body s hs
  | .handover h body => execHandover_okMem h body s hs
  | .leaseLapse => execLeaseLapse_okMem s hs
  | .status h body => execStatus_okMem h body s hs
  | .attest h body => execAttest_okMem h body s hs
  | .notices h body => execNotices_okMem h body s hs
  | .partCreate h body => execPartCreate_okMem h body s hs
  | .partEnd h body => execPartEnd_okMem h body s hs
  | .ctxCreate h body => execCtxCreate_okMem h body s hs
  | .ctxEnd h body => execCtxEnd_okMem h body s hs
  | .stewardLaunch h body => execStewardLaunch_okMem h body s hs
  | .preempt h body => execPreempt_okMem h body s hs
  | .keyLoad h body => execKeyLoad_okMem h body s hs
  | .keyClear h body => execKeyClear_okMem h body s hs
  | .keyGrant h body => execKeyGrant_okMem h body s hs
  | .replicate h body => execReplicate_okMem h body s hs
  | .migrate h body => execMigrate_okMem h body s hs
  | .region h body => execRegion_okMem h body s hs
  | .clset h body => execClset_okMem h body s hs
  | .checkpoint h body => execCheckpoint_okMem h body s hs
  | .restore h body => execRestore_okMem h body s hs
  | .reset h body => execReset_okMem h body s hs
  | .rdmaWrite rkey va data => execRdmaWrite_okMem rkey va data s hs
  | .rdmaRead rkey va len => execRdmaRead_okMem rkey va len s hs
  | .linkUnreachable device => execLinkUnreachable_okMem device s hs
  | .reAdmission who => execReAdmission_okMem who s hs
  | .checkpointComplete id => execCheckpointComplete_okMem id s hs

theorem settled_wf (s : State) (o : Host.Outcome State Fault Refusal) (hs : Memory.wf s.mem = true) (ho : OkMem o) :
    Memory.wf (settled s o).mem = true := by
  unfold settled
  split
  · exact ho _ rfl
  · exact hs
theorem State.takeInput_wf (s : State) (hs : Memory.wf s.mem = true) : Memory.wf s.takeInput.mem = true := by
  unfold State.takeInput
  split
  · exact hs
  · next b rest _ =>
    have h1 := State.port_mem { s with inputs := rest } b
    split
    · next h => rw [h] at h1; simp only at h1; rw [h1]; exact hs
    · next h => rw [h] at h1; simp only at h1; exact settled_wf _ _ (by rw [h1]; exact hs) (exec_okMem _ _ (by rw [h1]; exact hs))
  · simp only
    split
    · exact settled_wf _ _ hs (exec_okMem _ _ hs)
    · exact hs
  · exact hs
theorem State.raiseSome_mem (s : State) : s.raiseSome.mem = s.mem := by
  unfold State.raiseSome
  simp only
  split
  · rfl
  · rw [State.modGang_mem]; rfl
theorem State.happen_wf (s : State) (h : Happening) (hs : Memory.wf s.mem = true) : Memory.wf (s.happen h).mem = true := by
  cases h with
  | unit i => exact settled_wf _ _ hs (exec_okMem _ _ hs)
  | cycle k =>
    simp only [State.happen]
    split
    · rw [State.halfPass_mem]; exact hs
    · rw [State.issueCycle_mem]; exact hs
  | sequencer sid k => simp only [State.happen]; rw [State.seqIssue_mem]; exact hs
  | input => exact State.takeInput_wf _ hs
  | raise => simp only [State.happen]; rw [State.raiseSome_mem]; exact hs
  | time => exact hs

end Sys2Proof.Machine
end

