-- ==== Sys2Proof/Tests/Slice0.lean ====
section
/-! SUPPORT. Tests: the well-formedness checks refuse, words of the spec decode, rows of the spec's tables of values and
worked examples come out, and for every statement with hypotheses a package that meets them. -/

namespace Sys2Proof.Tests
set_option Elab.async false

open Sys2Proof.Machine

/-! ### A small package -/

/-- No guard. -/
def plain : Guard := { neg := false, p := 7 }
/-- A guard that is false in every lane (R186). -/
def never : Guard := { neg := true, p := 7 }

/-- The first word of a NOP: a gang at U issues it. -/
def atU : Nat := 0x1C00
/-- The first word of ERET: a gang at S issues it. -/
def atSup : Nat := 0x1FC8
/-- RDV of a sequencer: the matrix sequencer issues it. -/
def onSeq : Nat := 0x2000000000001F84

/-- The placed package with the issue of `w`, its gang's or sequencer's registers, its sheet and itself changed. -/
def start (w : Nat) (r : Regs → Regs := id) (h : Sheet → Sheet := id) (p : State → State := id) : State :=
  let s := State.reset.withFetchWord 0 w
  p { s with sheets := tabMod 0 (fun x => h { x with
        mseq := { x.mseq with regs := r x.mseq.regs }
        gangs := tabMod 0 (fun q => { q with regs := r q.regs }) x.gangs }) s.sheets }
/-- The gang changed. -/
def withGang (f : Gang → Gang) (h : Sheet) : Sheet := { h with gangs := tabMod 0 f h.gangs }
/-- Values of vector registers in lane 0. -/
def lane0 (xs : List (Nat × Word)) (r : Regs) : Regs := xs.foldl (fun r x => r.setVec x.1 0 x.2) r
/-- Values of uniform registers. -/
def unis (xs : List (Nat × Word)) (r : Regs) : Regs := xs.foldl (fun r x => r.setUni x.1 x.2) r

/-- The package `s` leaves. -/
def run (i : Instr) (s : State) : State := match exec i s with | .next t => t | _ => State.reset
/-- The sheet of the placed package. -/
def sheetOf (s : State) : Sheet := (tabGet 0 s.sheets).getD (placedSheet false false 0)
/-- Its gang. -/
def gangOf (s : State) : Gang := (tabGet 0 (sheetOf s).gangs).getD (placedGang false)
/-- Its context. -/
def ctxOf (s : State) : Context := (tabGet 0 s.ctxs).getD placedCtx
/-- Lane 0 of v1 after an instruction on v2, v3 and v4. -/
def v1 (i : Instr) (x y z : Word) : Word := (gangOf (run i (start atU (lane0 [(2, x), (3, y), (4, z)])))).regs.vec 1 0
/-- A vector register operand. -/
def reg (n : Fin 192) : Operand := .reg (.v n)

/-- The instruction passes the first checks in `s`, and `p` holds of the package its accesses are made in, where the
issuer stands as the site says. -/
def meets (i : Instr) (s : State) (p : State → Site → Bool := fun _ c => c.view.acts plain) : Bool :=
  match s.site with
  | none => false
  | some b => (precheck i b).isNone && (match (s.drained b).site with | none => false | some c => p (s.drained b) c)
/-- The same of an instruction as `decodeTableWord` reads it. -/
def ready (w : Nat) : Bool := match decodeTableWord 0 w with | none => false | some i => meets i (start w)

/-! ### The well-formedness checks refuse -/

theorem test_refuses_odd_pair : ((.iadd plain .b64 false (.v 1) (reg 2) (reg 4) : Instr)).wellFormed = false := by decide
theorem test_refuses_odd_source_pair : ((.mov plain .b64 (.v 2) (reg 3) : Instr)).wellFormed = false := by decide
theorem test_refuses_two_immediates : ((.iadd plain .i32 false (.v 1) (.imm 1) (.imm 2) : Instr)).wellFormed = false := by decide
theorem test_refuses_wide_immediate : ((.iadd plain .i32 false (.v 1) (reg 2) (.imm64 2) : Instr)).wellFormed = false := by decide
theorem test_refuses_uniform_destination : ((.iadd plain .i32 false (.s 1) (reg 2) (.imm 2) : Instr)).wellFormed = false := by decide
theorem test_refuses_uniform_load : ((.ld plain .b32 (.s 1) (.v 4) none : Instr)).wellFormed = false := by decide
theorem test_refuses_saturated_pair : ((.iadd plain .b64 true (.v 2) (reg 4) (reg 6) : Instr)).wellFormed = false := by decide
theorem test_refuses_half_of_binary32 : ((.fclass plain .f32 true (.v 1) (reg 2) : Instr)).wellFormed = false := by decide
theorem test_refuses_displacement : ((.bra plain 2 : Instr)).wellFormed = false := by decide
theorem test_refuses_movi_register : ((.movi plain .b32 (.v 1) (reg 2) : Instr)).wellFormed = false := by decide
theorem test_refuses_lane_special : ((.movs plain 0 (.s 2) : Instr)).wellFormed = false := by decide
theorem test_refuses_wide_special : ((.movs plain 3 (.v 3) : Instr)).wellFormed = false := by decide
theorem test_refuses_packed_pair : ((.cvtff plain .f64 .f32 .rn (.v 2) (reg 3) (some (reg 4)) : Instr)).wellFormed = false := by decide
theorem test_refuses_narrow_sources : ((.inarrow plain (.i8 0) false (.v 1) (reg 2) none : Instr)).wellFormed = false := by decide
theorem test_refuses_block_scale_control : ((.scaleblk plain (.v 1) (reg 2) (reg 3) (reg 4) : Instr)).wellFormed = false := by decide
theorem test_refuses_compare_immediates : ((.icmp plain .i32 .lt .none 1 (.imm 1) (.imm 2) : Instr)).wellFormed = false := by decide
theorem test_refuses_ray_group : ((.rbox plain 1 20 (.v 185) (.v 12) : Instr)).wellFormed = false := by decide
theorem test_refuses_ray_pair : ((.rbox plain 1 21 (.v 4) (.v 12) : Instr)).wellFormed = false := by decide
theorem test_refuses_hit_group : ((.rtri plain 1 0 190 (.v 4) (.v 12) : Instr)).wellFormed = false := by decide
theorem test_refuses_shuffle_pair : ((.shfl plain .b64 none 3 (.v 4) : Instr)).wellFormed = false := by decide
theorem test_refuses_ballot_pair : ((.ballot plain 3 2 false : Instr)).wellFormed = false := by decide
theorem test_refuses_fold_class : ((.gred plain (.addI .i32) (.s 1) (.v 1) : Instr)).wellFormed = false := by decide
theorem test_refuses_load_group : ((.ld plain .b128 (.v 2) (.v 4) none : Instr)).wellFormed = false := by decide
theorem test_refuses_address_pair : ((.st plain .b32 (.v 3) none (.v 7) : Instr)).wellFormed = false := by decide
theorem test_refuses_texel_group : ((.ldq plain .f32 .wrap 187 (.v 1) (.v 2) (.s 3) : Instr)).wellFormed = false := by decide
theorem test_refuses_atomic_pair : ((.atom plain .add64 (.v 3) (.v 4) none (.v 6) : Instr)).wellFormed = false := by decide
theorem test_refuses_aggregate_address : ((.atagg plain (.addI .n32) (.v 2) 3 none (.v 7) : Instr)).wellFormed = false := by decide
theorem test_refuses_format_words : ((.mma plain .nf 0 true 8 16 (some (.s 4)) : Instr)).wellFormed = false := by decide
theorem test_refuses_format_register : ((.mma plain .bf16 0 false 8 16 (some (.s 4)) : Instr)).wellFormed = false := by decide
theorem test_refuses_tile_pair : ((.accrdT plain 2 3 : Instr)).wellFormed = false := by decide
theorem test_refuses_copy_pair : ((.cpl plain .gs .b4 (.v 3) (.v 5) : Instr)).wellFormed = false := by decide
theorem test_refuses_residency_pair : ((.residOpen plain 0 6 9 10 : Instr)).wellFormed = false := by decide
theorem test_refuses_root_pair : ((.nbc plain .row 5 { ts := 2, td := 3, cnt := 0, cen := false } : Instr)).wellFormed = false := by decide
theorem test_refuses_emit_group : ((.emit plain 0 (.v 182) 8 10 : Instr)).wellFormed = false := by decide
theorem test_refuses_launch_pair : ((.launch plain 6 (.s 9) : Instr)).wellFormed = false := by decide
theorem test_refuses_system_pair : ((.sysrd plain 3 true 5 : Instr)).wellFormed = false := by decide
theorem test_refuses_system_immediate : ((.syswr plain 5 false (.imm64 4) : Instr)).wellFormed = false := by decide
theorem test_refuses_own_encoding_of_ttb : ((.syswr plain 3 true (.s 4) : Instr)).wellFormed = false := by decide
theorem test_refuses_invalidate_pair : ((.tlbinvPage plain 5 : Instr)).wellFormed = false := by decide
theorem test_refuses_image_pair : ((.ctxload plain 6 9 : Instr)).wellFormed = false := by decide
theorem test_refuses_panel_step : ((.permitRefill 0 : Instr)).wellFormed = false := by decide

/-! ### Words of the spec's encodings decode -/

theorem test_decode_iadd : decodeTableWord 64 (0x01400030C0416880) = some (.iadd { neg := true, p := 2 } .i32 false (.v 5) (reg 1) (.reg (.s 3))) := by decide +kernel
theorem test_decode_iadd_immediate : decodeTableWord 96 (0x00809C81 + 2 ^ 32 * 0x09400000 + 2 ^ 64 * 0x3E8) = some (.iadd plain .i32 false (.v 2) (reg 2) (.imm 1000)) := by decide +kernel
theorem test_decode_bra : decodeTableWord 96 (0x00001C05 + 2 ^ 64 * 0xFFFFFFC0) = some (.bra plain (-64)) := by decide +kernel
theorem test_decode_icmp : decodeTableWord 96 (0x010000D5 + 2 ^ 32 * 0x29410000 + 2 ^ 64 * 0x64) = some (.icmp { neg := false, p := 0 } .i32 .lt .none 1 (reg 4) (.imm 100)) := by decide +kernel
theorem test_decode_imulh : decodeTableWord 96 (0x03439C91 + 2 ^ 32 * 0x09800000 + 2 ^ 64 * 0x55538) = some (.imulh plain .n32 (.v 14) (reg 13) (.imm 349496)) := by decide +kernel
theorem test_decode_ffma : decodeTableWord 64 (0x01C070008040DD0C) = some (.ffma plain .rz (.v 3) (reg 1) (reg 2) (.reg (.s 0))) := by decide +kernel
theorem test_decode_shfl : decodeTableWord 96 (0x00409F01 + 2 ^ 32 * 0x38C00000 + 2 ^ 64 * 20) = some (.shfl plain .b32 (some (.flip, .imm 20)) 2 (.v 1)) := by decide +kernel
theorem test_decode_ld : decodeTableWord 96 (0x01005E01 + 2 ^ 32 * 0x00C00000 + 2 ^ 64 * 16) = some (.ld plain .b32 (.v 1) (.v 4) (some 16)) := by decide +kernel
theorem test_decode_atagg : decodeTableWord 64 (0x01800001F1009E90) = some (.atagg plain (.addI .n32) (.v 2) 4 none (.v 7)) := by decide +kernel
theorem test_decode_atoms : decodeTableWord 96 (0x4CCC4685 + 2 ^ 32 * 0x40C0000D + 2 ^ 64 * 0x80) = some (.atoms { neg := false, p := 1 } (.or .b32) (.v 49) (some (.v 51)) (some 128) (.v 53)) := by decide +kernel
theorem test_decode_mma : decodeTableWord 128 (0x0240000402001F42 + 2 ^ 64 * 2) = some (.mma plain .bf16 2 false 8 16 none) := by decide +kernel
theorem test_decode_nred : decodeTableWord 96 (0x00001FA5 + 2 ^ 32 * 0x01C10000 + 2 ^ 64 * 0x1A) = some (.nred plain (.fold (.addF .rn)) .col { ts := 2, td := 3, cnt := 0, cen := false }) := by decide +kernel
theorem test_decode_syswr : decodeTableWord 64 (0x00C1400031001FC4) = some (.syswr plain 5 false (.s 4)) := by decide +kernel
theorem test_decode_perf : decodeTableWord 96 (0x00002435 + 2 ^ 32 * 0x04000000 + 2 ^ 64 * 3) = some (.perfImm { neg := true, p := 1 } 3) := by decide +kernel
theorem test_decode_nap : decodeTableWord 64 (0x31400428) = some (.nap { neg := false, p := 1 } 5) := by decide +kernel
/-- bits 1:0 = 0b11 of a word that is no pad (R194, item 1). -/
theorem test_decode_refuses_length_three : decodeTableWord 128 (0x1C03) = none := by decide +kernel
/-- OPC 0x0E is unassigned (R192). -/
theorem test_decode_refuses_unassigned_opcode : decodeTableWord 128 (0x1C38) = none := by decide +kernel
/-- TYPE 15 is reserved (R188). -/
theorem test_decode_refuses_reserved_type : decodeTableWord 128 (0x03C00030C0416880) = none := by decide +kernel
/-- NOP with a nonzero DST (R185). -/
theorem test_decode_refuses_unused_field : decodeTableWord 128 (0x1C00 + 2 ^ 14) = none := by decide +kernel
/-- IADD has no 96-bit form with ISEL 0 (R189). -/
theorem test_decode_refuses_zero_immediate_selector : decodeTableWord 128 (0x00809C81 + 2 ^ 32 * 0x01400000 + 2 ^ 64 * 5) = none := by decide +kernel
/-- IADD.b64 with an odd destination pair (R7). -/
theorem test_decode_refuses_odd_pair : decodeTableWord 128 (0x010000010080DC80) = none := by decide +kernel
/-- LOGIC with SUB 5 (R193). -/
theorem test_decode_refuses_logic_member : decodeTableWord 128 (0x50C00000C0805CB4) = none := by decide +kernel

/-! ### The tables of values at the end of the instruction chapters -/

/-- R230, R74. -/
theorem test_idiv : v1 (.idiv plain .i32 (.v 1) (reg 2) (reg 3)) 7 0 0 = 0xFFFFFFFF
    ∧ v1 (.idiv plain .i32 (.v 1) (reg 2) (reg 3)) (-7) 2 0 = 0xFFFFFFFD := by decide +kernel
/-- R230, R74. -/
theorem test_idiv_edge : v1 (.idiv plain .i32 (.v 1) (reg 2) (reg 3)) 0x80000000 0xFFFFFFFF 0 = 0x80000000 := by decide +kernel
/-- R230, R74. -/
theorem test_irem : v1 (.irem plain .i32 (.v 1) (reg 2) (reg 3)) 7 0 0 = 7
    ∧ v1 (.irem plain .i32 (.v 1) (reg 2) (reg 3)) (-7) 2 0 = 0xFFFFFFFF := by decide +kernel
/-- R231. -/
theorem test_iabs : v1 (.iabs plain false (.v 1) (reg 2)) 0x80000000 0 0 = 0x80000000
    ∧ v1 (.iabs plain true (.v 1) (reg 2)) 0x80000000 0 0 = 0x7FFFFFFF := by decide +kernel
/-- R228. -/
theorem test_iadd_sat : v1 (.iadd plain .n32 true (.v 1) (reg 2) (reg 3)) 0xFFFFFFF0 0x20 0 = 0xFFFFFFFF := by decide +kernel
/-- R228. -/
theorem test_isub_sat : v1 (.isub plain .n32 true (.v 1) (reg 2) (reg 3)) 5 9 0 = 0 := by decide +kernel
/-- R229. -/
theorem test_imulh : v1 (.imulh plain .i32 (.v 1) (reg 2) (reg 3)) (-2) 3 0 = 0xFFFFFFFF
    ∧ v1 (.imulh plain .n32 (.v 1) (reg 2) (reg 3)) 0xFFFFFFFE 3 0 = 2 := by decide +kernel
/-- R233. -/
theorem test_shr : v1 (.shr plain .b32 (.v 1) (reg 2) (reg 3)) 0x80000000 40 0 = 0 := by decide +kernel
/-- R233. -/
theorem test_sar : v1 (.sar plain .b32 (.v 1) (reg 2) (reg 3)) 0x80000000 40 0 = 0xFFFFFFFF := by decide +kernel
/-- R233. -/
theorem test_rot : v1 (.rot plain .b32 (.v 1) (reg 2) (reg 3)) 0x80000001 33 0 = 3 := by decide +kernel
/-- R234. -/
theorem test_fsh : v1 (.fsh plain false (.v 1) (reg 2) (reg 3) (reg 4)) 0x12345678 0x9ABCDEF0 8 = 0x789ABCDE := by decide +kernel
/-- R235. -/
theorem test_bfx : v1 (.bfx plain .i32 (.v 1) (reg 2) (reg 3)) 0x0F00 0x0408 0 = 0xFFFFFFFF
    ∧ v1 (.bfx plain .n32 (.v 1) (reg 2) (reg 3)) 0x0F00 0x0408 0 = 0xF := by decide +kernel
/-- R235. -/
theorem test_bfi : v1 (.bfi plain (.v 1) (reg 2) (reg 3) (reg 4)) 5 0x0304 0xFFFFFFFF = 0xFFFFFFDF := by decide +kernel
/-- R236. -/
theorem test_clz : v1 (.clz plain (.v 1) (reg 2)) 0 0 0 = 32 := by decide +kernel
/-- R237. -/
theorem test_bytesel : v1 (.bytesel plain (.v 1) (reg 2) (reg 3) (reg 4)) 0x44332211 0x88776655 0x10170004 = 0x00FF1155 := by decide +kernel
/-- R70. -/
theorem test_fadd : v1 (.fadd plain .rn (.v 1) (reg 2) (reg 3)) 0 0x80000000 0 = 0
    ∧ v1 (.fadd plain .rm (.v 1) (reg 2) (reg 3)) 0 0x80000000 0 = 0x80000000 := by decide +kernel
/-- R252. -/
theorem test_fmin : v1 (.fmin plain (.v 1) (reg 2) (reg 3)) 0x7FA00000 0x40400000 0 = 0x40400000
    ∧ v1 (.fmin plain (.v 1) (reg 2) (reg 3)) 0 0x80000000 0 = 0x80000000 := by decide +kernel
/-- R252. -/
theorem test_fmax : v1 (.fmax plain (.v 1) (reg 2) (reg 3)) 0x7FC00001 0xFF800001 0 = 0x7FC00000 := by decide +kernel
/-- R251. -/
theorem test_fdiv : v1 (.fdiv plain .rn (.v 1) (reg 2) (reg 3)) 0x3F800000 0x40400000 0 = 0x3EAAAAAB
    ∧ v1 (.fdiv plain .rz (.v 1) (reg 2) (reg 3)) 0x3F800000 0x40400000 0 = 0x3EAAAAAA := by decide +kernel
/-- R251. -/
theorem test_frcp : v1 (.frcp plain .rn (.v 1) (reg 2)) 0x80000000 0 0 = 0xFF800000 := by decide +kernel
/-- R254. -/
theorem test_frsq : v1 (.frsq plain (.v 1) (reg 2)) 0x80000000 0 0 = 0xFF800000 := by decide +kernel
/-- R70, R251. -/
theorem test_fsqrt : v1 (.fsqrt plain .rn (.v 1) (reg 2)) 0xC0800000 0 0 = 0x7FC00000 := by decide +kernel
/-- R254. -/
theorem test_fsin : v1 (.fsin plain (.v 1) (reg 2)) 0x3F800000 0 0 = 0 := by decide +kernel
/-- R254. -/
theorem test_fcos : v1 (.fcos plain (.v 1) (reg 2)) 0x3F000000 0 0 = 0 := by decide +kernel
/-- R254. -/
theorem test_fexp2 : v1 (.fexp2 plain (.v 1) (reg 2)) 0xFF800000 0 0 = 0 := by decide +kernel
/-- R254. -/
theorem test_flog2 : v1 (.flog2 plain (.v 1) (reg 2)) 0 0 0 = 0xFF800000 := by decide +kernel
/-- R251, R69. -/
theorem test_fscale : v1 (.fscale plain .rn (.v 1) (reg 2) (reg 3)) 0x3F800000 128 0 = 0x7F800000
    ∧ v1 (.fscale plain .rn (.v 1) (reg 2) (reg 3)) 0x3F800000 (-150) 0 = 0 := by decide +kernel
/-- R251, R69. -/
theorem test_fscale_rz : v1 (.fscale plain .rz (.v 1) (reg 2) (reg 3)) 0x3F800000 128 0 = 0x7F7FFFFF := by decide +kernel
/-- R253. -/
theorem test_ffract : v1 (.ffract plain (.v 1) (reg 2)) 0xB0800000 0 0 = 0x3F7FFFFF := by decide +kernel
/-- R253. -/
theorem test_frnd : v1 (.frnd plain .rn (.v 1) (reg 2)) 0xBECCCCCD 0 0 = 0x80000000
    ∧ v1 (.frnd plain .rn (.v 1) (reg 2)) 0x40200000 0 0 = 0x40000000 := by decide +kernel
/-- R261, R72. -/
theorem test_cvtfi : v1 (.cvtfi plain .i32 false .f32 .rn (.v 1) (reg 2)) 0x4F32D05E 0 0 = 0x7FFFFFFF
    ∧ v1 (.cvtfi plain .n32 false .f32 .rn (.v 1) (reg 2)) 0xBFC00000 0 0 = 0 := by decide +kernel
/-- R262. -/
theorem test_cvtff : v1 (.cvtff plain .f16 .f32 .rn (.v 1) (reg 2) none) 0x477FF000 0 0 = 0x7C00
    ∧ v1 (.cvtff plain .f16 .f32 .rz (.v 1) (reg 2) none) 0x477FF000 0 0 = 0x7BFF := by decide +kernel
/-- R262. -/
theorem test_cvtff_bf16 : v1 (.cvtff plain .bf16 .f32 .rn (.v 1) (reg 2) none) 0x3F808000 0 0 = 0x3F80 := by decide +kernel
/-- R258. -/
theorem test_hadd2 : v1 (.hadd2 plain .f16 .rn (.v 1) (reg 2) (reg 3)) 0x7BFF3C00 0x50003C00 0 = 0x7C004000 := by decide +kernel
/-- R264. -/
theorem test_inarrow : v1 (.inarrow plain (.i8 0) true (.v 1) (reg 2) (some (reg 3))) 300 0 0 = 0x7F := by decide +kernel

/-! ### Worked examples of the spec, one instruction each -/

/-- Bytes of page 0, which holds the virtual addresses from 0 on. -/
def bytesAt (a : Nat) (bs : List Byte) (s : State) : State := { s with mem := putBytes (placedPage 0 + a) (bs.map some) s.mem }
/-- A word of page 0. -/
def wordAt (a : Nat) (w : Nat) : State → State := bytesAt a (toBytesLE 4 w)
/-- The bytes of page 0 from `a` on. -/
def readsAt (s : State) (a n : Nat) : Nat := ofBytesLE (s.bytes (placedPage 0 + a) n)
/-- The write an instruction issued is performed at its home (R130). -/
def arrived (s : State) : State := match s.writes with | [] => s | w :: _ => s.performWrite w.1
/-- Every lane of a vector register. -/
def lanes (n : Nat) (f : Nat → Word) (r : Regs) : Regs := (List.range 16).foldl (fun r l => r.setVec n l (f l)) r

/-- R217: BRA adds its displacement; lanes whose guard is false go on. -/
theorem test_bra : ((gangOf (run (.bra plain (-64)) (start atU))).threads.map fun t => t.2.pc) = List.replicate 16 64 := by
  decide +kernel
/-- R216, R217: CALL links the next offset, 12 bytes on. -/
theorem test_call : (gangOf (run (.call plain 3 64) (start atU))).regs.vec 3 15 = 140 := by decide +kernel
/-- R13, R239: each lane's comparison goes to its bit of the predicate. -/
theorem test_icmp : (gangOf (run (.icmp plain .i32 .lt .none 1 (reg 2) (.imm 4)) (start atU (lanes 2 fun l => BitVec.ofNat 32 l)))).regs.pred 1 = 15 := by
  decide +kernel
/-- The example after R272: lane 5 reads lane (5 xor 20) mod 16 = 1. -/
theorem test_shfl_flip : (gangOf (run (.shfl plain .b32 (some (.flip, .imm 20)) 2 (.v 1)) (start atU (lanes 1 fun l => BitVec.ofNat 32 l)))).regs.vec 2 5 = 1 := by
  decide +kernel
/-- The same example: `.rev` gives lane 5 the value of lane 10 at W = 16. -/
theorem test_shfl_rev : (gangOf (run (.shfl plain .b32 none 2 (.v 1)) (start atU (lanes 1 fun l => BitVec.ofNat 32 l)))).regs.vec 2 5 = 10 := by
  decide +kernel
/-- The same example: BALLOT over every lane at W = 16. -/
theorem test_ballot : ((gangOf (run (.ballot plain 4 7 false) (start atU))).regs.vec 4 3, (gangOf (run (.ballot plain 4 7 false) (start atU))).regs.vec 5 3)
    = (0xFFFF, 0) := by decide +kernel
/-- The same example: fifteen ones and then 2^24 fold to 16,777,232. -/
theorem test_gred : (gangOf (run (.gred plain (.addF .rn) (.v 2) (.v 1))
    (start atU (lanes 1 fun l => if l = 15 then 0x4B800000 else 0x3F800000)))).regs.vec 2 0 = 0x4B800008 := by decide +kernel
/-- The example after R267, at W = 16: the scale of a block whose largest value is 3,000 is 130. -/
theorem test_scaleblk : (gangOf (run (.scaleblk plain (.v 2) (reg 1) (.imm 0x990798) (reg 1))
    (start atU (lanes 1 fun l => if l = 3 then 0x453B8000 else 0x3F800000)))).regs.vec 2 0 = 130 := by decide +kernel
/-- The same example: NFPACK puts the code 0x7C in bits 23:16. -/
theorem test_nfpack : (gangOf (run (.nfpack plain 2 (.v 4) (reg 1) (.imm 0x990798) (reg 2))
    (start atU (lane0 [(1, 0x453B8000), (2, 130)])))).regs.vec 4 0 = 0x7C0000 := by decide +kernel
/-- The same example: NFUNP gives 3,072. -/
theorem test_nfunp : (gangOf (run (.nfunp plain 2 (.v 5) (reg 4) (.imm 0x990798) (reg 2))
    (start atU (lane0 [(4, 0x7C0000), (2, 130)])))).regs.vec 5 0 = 0x45400000 := by decide +kernel
/-- The ray and triangle of the example after R271. -/
def rayAndTriangle : Regs → Regs := lane0 [(4, 0x3E800000), (5, 0x3E800000), (6, 0xBF800000), (9, 0x3F800000), (11, 0x41200000),
  (15, 0x3F800000), (19, 0x3F800000)]
/-- The example after R271, with CULL = 0. -/
theorem test_rtri : (let q := gangOf (run (.rtri plain 2 0 24 (.v 4) (.v 12)) (start atU rayAndTriangle));
    (q.regs.vec 24 0, q.regs.vec 25 0, q.regs.vec 26 0, q.regs.predAt 2 0)) = (0x3F800000, 0x3E800000, 0x3E800000, true) := by
  decide +kernel
/-- The same with `.cullneg`: discarded. -/
theorem test_rtri_cull : (let q := gangOf (run (.rtri plain 2 1 24 (.v 4) (.v 12)) (start atU rayAndTriangle));
    (q.regs.vec 24 0, q.regs.predAt 2 0)) = (0x7FC00000, false) := by decide +kernel
/-- R279: a 16-bit load with sign extension, from bytes 0x34 0x92. -/
theorem test_ld : loadWords (.b16 true) [0x34, 0x92] = [0xFFFF9234] := by decide
/-- R281, R386: a misaligned load traps; v1 is as it was and the gang is at S. -/
theorem test_ld_misaligned : (let q := gangOf (run (.ld plain .b32 (.v 1) (.v 4) (some 2)) (start atU (lane0 [(1, 77)])));
    (q.regs.vec 1 0, q.atS, q.regs.uni 2 % 256)) = (77, true, 3) := by decide +kernel
/-- R130, R284: a store's byte reaches memory at WRITE_AT_HOME, and the byte beside it is as it was. -/
theorem test_st : (let s := run (.st plain .b8 (.v 4) none (.v 7)) (start atU (fun r => lanes 4 (fun l => BitVec.ofNat 32 (4 * l)) (lanes 7 (fun _ => 9) r)) id (wordAt 4 0));
    (readsAt s 4 1, readsAt (arrived s) 4 1, readsAt (arrived s) 5 1)) = (0, 9, 0) := by decide +kernel
/-- R286: lanes 0 and 1 at one address, with 5 and 9: the word holds 9. -/
theorem test_sts : (let s := run (.sts plain .b32 (some (.v 3)) none (.v 7)) (start atU (fun r => lanes 3 (fun l => if l < 2 then 0 else BitVec.ofNat 32 (4 * l)) (lanes 7 (fun l => if l = 0 then 5 else 9) r)));
    ofBytesLE ((sheetOf s).spadBytes 0 4)) = 9 := by decide +kernel
/-- The guard of one lane: p1 true in lane 0 alone. -/
def oneLane (r : Regs) : Regs := r.setPred 1 1
/-- A guard that is p1. -/
def byP1 : Guard := { neg := false, p := 1 }
/-- R293, performed at its home: the minimum with a NaN in memory returns the NaN's bits and stores the number. -/
theorem test_atom_min : (let s := arrived <| run (.atom byP1 .minF (.v 1) (.v 4) none (.v 7)) (start atU (fun r => oneLane (lane0 [(7, 0x40000000)] r)) id (wordAt 0 0x7FA00000));
    ((gangOf s).regs.vec 1 0, readsAt s 0 4)) = (0x7FA00000, 0x40000000) := by decide +kernel
/-- R293: a 64-bit sum wraps and the old value is returned. -/
theorem test_atom_add64 : (let s := arrived <| run (.atom byP1 .add64 (.v 2) (.v 4) none (.v 8)) (start atU (fun r => oneLane (lane0 [(8, 1)] r)) id (bytesAt 0 (List.replicate 8 255)));
    ((gangOf s).regs.vec 2 0, (gangOf s).regs.vec 3 0, readsAt s 0 8)) = (0xFFFFFFFF, 0xFFFFFFFF, 0) := by decide +kernel
/-- R295: +0 and −0 differ in a compare and swap. -/
theorem test_cas : (let s := arrived <| run (.cas byP1 .b32 (.v 1) (.v 4) none (.v 7) (.v 8)) (start atU (fun r => oneLane (lane0 [(8, 5)] r)) id (wordAt 0 0x80000000));
    ((gangOf s).regs.vec 1 0, readsAt s 0 4)) = (0x80000000, 0x80000000) := by decide +kernel
/-- R293: 1.0 + 2^-24 ties to even. -/
theorem test_red : (let s := run (.red byP1 .addF (.v 4) none (.v 7)) (start atU (fun r => oneLane (lane0 [(7, 0x33800000)] r)) id (wordAt 0 0x3F800000));
    readsAt (arrived s) 0 4) = 0x3F800000 := by decide +kernel
/-- The example after R296: lanes 2, 5 and 9 with 4, 7 and 1, the word holding 100. -/
theorem test_atagg : (let s := arrived (run (.atagg byP1 (.addI .n32) (.v 2) 4 none (.v 7))
      (start atU (fun r => (lanes 7 (fun l => if l = 2 then 4 else if l = 5 then 7 else 1) r).setPred 1 0x224) id (wordAt 0 100)));
    ((gangOf s).regs.vec 2 2, (gangOf s).regs.vec 2 5, (gangOf s).regs.vec 2 9, readsAt s 0 4)) = (100, 104, 111, 112) := by decide +kernel
/-- R298: the counter's value and its greatest time. -/
theorem test_fence_c : (let s := run (.fenceC plain 2 (.v 1)) (start atU id fun h => withGang (fun q => { q with threads := q.threads.map fun t => (t.1, { t.2 with clock := 40 }) })
      { h with counters := [(2, { count := 3, cmax := 70 })] });
    ((gangOf s).regs.vec 1 0, (gangOf s).threads.map fun t => t.2.clock)) = (3, List.replicate 16 70) := by decide +kernel
/-- R301: a barrier of no threads and no count is illegal, cause 1. -/
theorem test_barinit : (gangOf (run (.barinit plain 3 false (.both 0 0)) (start atU))).regs.uni 2 % 256 = 1 := by decide +kernel
/-- R307: QPOP of a closed empty queue clears its predicate in every lane and leaves the register. -/
theorem test_qpop : (let s := run (.qpop plain 3 1 6) (start atU (fun r => (unis [(6, 55)] r).setPred 1 0xFFFF) fun h => { h with queues := [(3, { st := .closed })] });
    ((gangOf s).regs.uni 6, (gangOf s).regs.pred 1)) = (55, 0) := by decide +kernel
/-- R119: QPUSH to a closed queue raises the queue-broken trap, cause 11. -/
theorem test_qpush_closed : (gangOf (run (.qpush plain 3 (.s 5)) (start atU id fun h => { h with queues := [(3, { st := .closed })] }))).regs.uni 2 % 256 = 11 := by
  decide +kernel
/-- R302: BAR on an invalid barrier raises the barrier-invalid trap, cause 10. -/
theorem test_bar_invalid : (gangOf (run (.bar plain 5 1) (start atU))).regs.uni 2 % 256 = 10 := by decide +kernel
/-- The example after R84: one group of four products of 2^-24 on an accumulator of 1.0 gives 0x3F800002. -/
theorem test_mma_group : halfDot fmtB16 (List.replicate 4 (0x3980, 0x3980)) 0x3F800000 = 0x3F800002 := by decide +kernel
/-- R75, R84: integer products add exactly and wrap. -/
theorem test_mma_integers : (Shape.mma .i8 (NFWord.ofNat 0) (NFWord.ofNat 0)).dot [(0xFF, 2), (0x80, 0x80)] 0x7FFFFFFF = 0x80003FFD := by decide +kernel
/-- R318: ACCZ clears its fragment. -/
theorem test_accz : (gangOf (run (.accz plain 2) (start atU fun r => { r with a := [(2 * 256 + 5, 9)] }))).regs.acc 2 5 = 0 := by decide +kernel
/-- R223: NAP of 1,000 ns holds every enabled thread until then. -/
theorem test_nap : ((gangOf (run (.napImm plain 1000) (start atU))).threads.map fun t => t.2.st) = List.replicate 16 (.nap (1000 * tickNs)) := by decide +kernel
/-- R225: PERF sets the requested class, at most 3. -/
theorem test_perf : (sheetOf (run (.perfImm plain 7) (start atU))).preq = 3 := by decide +kernel
/-- R384: TRAP 77 raises cause 19. -/
theorem test_trap : (gangOf (run (.trapImm plain 77) (start atU))).regs.uni 2 % 256 = 19 := by decide +kernel
/-- R365: the privilege trap at U, cause 2. -/
theorem test_privilege : (gangOf (run (.wdclr plain) (start atU))).regs.uni 2 % 256 = 2 := by decide +kernel
/-- R368: SYSWR writes EWL. -/
theorem test_syswr : (ctxOf (run (.syswr plain 5 false (.s 4)) (start atSup (unis [(4, 9)])))).ewl = 9 := by decide +kernel
/-- R368: CEIL is lowered to CMAX. -/
theorem test_ceil : (ctxOf (run (.syswrCeil plain (.imm 3)) (start atSup id id fun s => s.modCtx 0 fun c => { c with cmax := 1 }))).ceil = 1 := by decide +kernel
/-- R374: HALT ends the context. -/
theorem test_halt : (run (.halt plain (.imm 7)) (start atSup)).ctxs = [] := by decide +kernel
/-- R327: a sequencer that fetches outside the subset holds the trap. -/
theorem test_subset : (sheetOf (run (.fadd plain .rn (.s 2) (.reg (.s 2)) (.reg (.s 1))) (start onSeq))).mseq.st = .faulted := by decide +kernel
/-- R367: IGANG = 300 and DIDT = 40 give 60 ns. -/
theorem test_spacing : ({ die := 0, cx := 0, cy := 0, aw := 64, lgr := 128, lln := 64, igang := 300, ratio := 0, didt := 40 } : Cluster).spacing = 60 := by decide
/-- R14, R20: fetched as one instruction, the first example of R14 runs as the first step. -/
theorem test_step : (match step (State.reset.withFetchWord 64 0x01400030C0416880) with | .next t => ((gangOf t).threads.map fun x => x.2.pc).head? | _ => none) = some 136 := by
  decide +kernel

/-! ### Packages that meet the hypotheses of the statements

First the statements that ask only that an instruction passes the first checks: a word of each, placed, does. -/

theorem witness_IntegerSums : ([0x1410000C0805C80, 0x100000181009C84, 0x1803140C0805C88,
    0x70940000000805C8D, 0x18000314081DC90, 0x1400100C0805C94, 0x180018100C09C98] : List Nat).all ready = true := by decide +kernel
theorem witness_IntegerQuotients : ([0x1400000C0805C9C, 0x1800030F0B05CA0] : List Nat).all ready = true := by decide +kernel
theorem witness_IntegerOrder : ([0x1400000C0805CA4, 0x11800000C0805CA4, 0x141000000805CA8, 0x140000000805CAC, 0x1400100C0805CB0] : List Nat).all ready = true := by decide +kernel
theorem witness_LogicAndShifts : ([0xC00000C0805CB4, 0x1100000181009CB4, 0x20C00000C0805CB4, 0x30C00000C0805CB4, 0x40C00000C0805CB4,
    0xC00000C0805CB8, 0x11000000C1009CB8, 0x528C0000000805CB9, 0x30C00000C0805CB8] : List Nat).all ready = true := by decide +kernel
theorem witness_FunnelAndBitFields : ([0xC10100C0805CBC, 0x1400000C0805CC0, 0xC00100C0805CC4, 0xC0000000805CC8, 0x10C0000000805CC8,
    0x20C0000000805CC8, 0x30C0000000805CC8, 0xC00100C0805CCC, 0x10B0001C1009CD0] : List Nat).all ready = true := by decide +kernel
theorem witness_Predicates : ([0x642951400001001CD5, 0xCC0000C0805CD8, 0x8807210003000000001CE9, 0x2000031001CEC, 0x101A000000001CEC,
    0x2000000005CF0, 0x1002000000401CF0, 0x2008000000309CF0] : List Nat).all ready = true := by decide +kernel
theorem witness_Moves : ([0x100000031009CDC, 0x123456789A0500000000009CE2, 0x21CE4, 0x2000000029CE4] : List Nat).all ready = true := by decide +kernel
theorem witness_FloatArithmetic : ([0x1C0C000C0805D00, 0x1C00000C0805D04, 0x1C08000C0805D08, 0x1C070008040DD0C, 0x1C0C00000805D20,
    0x509C0000000805D25, 0x1C0000000805D28, 0x1C0000000805D2C, 0x1C0000000805D34, 0x1C00000C0805D38] : List Nat).all ready = true := by decide +kernel
theorem witness_FloatChoice : ([0x1C00000C0805D10, 0x1C00000C0805D14] : List Nat).all ready = true := by decide +kernel
theorem witness_FloatTests : ([0x71D1800141001D18, 0x201000000805D1C] : List Nat).all ready = true := by decide +kernel
theorem witness_FloatFunctions : ([0x1C0000000805D30, 0x1C0000000805D3C, 0x1C0000000805D40, 0x1C0000000805D44, 0x1C0000000805D48] : List Nat).all ready = true := by decide +kernel
theorem witness_FunctionValues : (([0x1C0000000805D3C, 0x1C0000000805D40, 0x1C0000000805D44, 0x1C0000000805D48] : List Nat).all ready && fmt32.isFin 0x3F800001
    && fmt32.read 0x3F800001 == .fin false 8388609 (-23)) = true := by decide +kernel
theorem witness_HalfPairs : ([0x2400000C0805D4C, 0x2000000C0805D50, 0x2000100C0805D54, 0x2000000C0805D58, 0x2000000C0805D5C,
    0x2400100C0805D60] : List Nat).all ready = true := by decide +kernel
theorem witness_Conversions : ([0x145400000805D80, 0x18B000001009D80, 0x203000000805D84, 0x100000000C09D88, 0x2480000C0805D88,
    0x347000000805D98, 0x89000000805D98, 0x2D30000C0805D9C, 0xC0000000805D9C] : List Nat).all ready = true := by decide +kernel
theorem witness_RayTests : ([0x1C1000301051DC0, 0x101C2000301061DC6] : List Nat).all ready = true := by decide +kernel
theorem witness_CrossLane : ([0x1438C0000000409F01, 0x4100000001009F00, 0x2011400000001F04, 0x10000000011F08, 0x10C3000000419F0C,
    0x100000000819F0C, 0x1C0400000409F10, 0x50C1000000409F14] : List Nat).all ready = true := by decide +kernel

/-! Then the statements with more hypotheses. -/

/-- The gang's threads changed. -/
def withThreads (f : Thread → Thread) : Sheet → Sheet := withGang fun q => { q with threads := q.threads.map fun t => (t.1, f t.2) }
/-- What a step leaves, when it answers. -/
def answers (i : Instr) (s : State) : Bool := match exec i s with | .next _ => true | _ => false
/-- The step cannot be taken. -/
def notNow (i : Instr) (s : State) : Bool := match exec i s with | .fault .notEnabled => true | _ => false

theorem witness_FloatRounding : ((0 : Nat) < 3 ∧ (3 : Int) = 3 * 2 ^ 0) ∧ 2 ^ (fmt32.p + 2) ≤ 2 ^ 25 ∧ 2 * 2 ^ 25 < 2 * 2 ^ 25 + 1 ∧ 2 * 2 ^ 25 + 1 < 2 * (2 ^ 25 + 1) := by
  decide
theorem witness_FloatFunctions_values : fmt32.read 0x7FC00000 = .nan ∧ fmt32.read 0xFF800000 = .inf true ∧ fmt32.read 0x7F800000 = .inf false
    ∧ fmt32.read 0x80000000 = .fin true 0 (-149) ∧ fmt32.read 0xBF800000 = .fin true 8388608 (-23)
    ∧ fmt32.read 0xCB800000 = .fin true 8388608 1 := by decide +kernel
/-- The format word of the example in R82 is well formed with an E8 scale; the word 0 is not. -/
theorem witness_NarrowFormats :
    (meets (.nfpack plain 3 (.v 4) (reg 1) (.imm 0x990798) (reg 2)) (start atU) && (NFWord.ofNat 0x990798).wf
      && (NFWord.ofNat 0x990798).sck == 1 && decide (4 < (NFWord.ofNat 0x990798).wid) && meets (.nfunp plain 3 (.v 5) (reg 4) (.imm 0x990798) (reg 2)) (start atU)
      && meets (.nfunp plain 4 (.s 5) (.reg (.s 4)) (.imm 0x990798) (.reg (.s 2))) (start atU)
      && meets (.nfpack plain 0 (.v 4) (reg 1) (.imm 0) (reg 2)) (start atU) && !(NFWord.ofNat 0).wf
      && meets (.scaleblk plain (.v 2) (reg 1) (.imm 0x990798) (reg 1)) (start atU)
      && meets (.scaleblk plain (.s 2) (.reg (.s 1)) (.imm 0x990798) (.reg (.s 1))) (start atU)
      && meets (.scaleblk plain (.s 2) (.reg (.s 1)) (.imm 0) (.reg (.s 1))) (start atU)) = true := by decide +kernel
theorem witness_Branches :
    (meets (.bra plain (-64)) (start atU) && meets (.call plain 3 64) (start atU)
      && [Instr.brx plain (.s 3), .ret plain (.s 3), .callx plain 5 (.s 3)].all fun i => meets i (start atU (unis [(3, 128)]))
        && meets i (start atU (unis [(3, 130)]))) = true := by decide +kernel
theorem witness_Meetings :
    (meets (.meet plain 3 64) (start atU) (fun _ c => !c.atS && c.view.acts plain && (tabGet 0 c.sh.gangs).isSome)
      && meets (.meet plain 3 64) (start atU id (withThreads fun t => { t with stack := List.replicate 7 (64, 1) })) (fun _ c => !c.atS)
      && meets (.meet plain 3 64) (start atU id (withThreads fun t => { t with stack := List.replicate 8 (64, 1) })) (fun _ c => !c.atS)
      && meets (.mleave plain 5) (start atU) (fun _ c => !c.atS) && meets (.meet plain 3 64) (start atSup) (fun _ c => c.atS)
      && meets (.mleave plain 3) (start atSup) (fun _ c => c.atS)) = true := by decide +kernel
theorem witness_SequencerExit :
    (meets (.exit plain) (start atU) && (gangOf (run (.exit plain) (start atU id fun h => { h with gangs := h.gangs ++ [(1, placedGang false)] }))).exited
      && meets (.exit byP1) (start atU oneLane) (fun _ c => c.view.acts byP1)
      && meets (.exit plain) (start onSeq) (fun _ c => c.agent == .seq .m && c.view.acts plain)
      && meets (.exit never) (start onSeq) (fun _ c => c.agent == .seq .m && !c.view.acts never)) = true := by decide +kernel
theorem witness_GangPauses :
    (([.nop plain, .pref plain true (.v 4) (some 64), .yield plain, .nap plain 4, .napImm plain 1000, .perf plain 4, .perfImm plain 3] : List Instr).all
        (fun i => meets i (start atU))
      && (gangOf (start atU id (withThreads fun t => { t with st := .nap 0 }))).lanesIn (fun t => match t with | .nap u => u ≤ 0 | _ => false) != []
      && answers (.napEnd 0 0) (start atU id (withThreads fun t => { t with st := .nap 0 }))) = true := by decide +kernel
theorem witness_UserTraps :
    (([.trap plain, .trapImm plain 77, .bkpt plain] : List Instr).all (fun i => meets i (start atU))
      && ([.trap never, .trapImm never 77, .bkpt never] : List Instr).all fun i => meets i (start atU) fun _ c => !c.view.acts never) = true := by
  decide +kernel
/-- A trap of gang 0 at the placed instruction. -/
def here : TrapSite := { sid := 0, gang := 0, ioff := 128, noff := 136, act := 0xFFFF, enb := 0xFFFF }
/-- The store of a frame succeeds, with every hypothesis of TrapEntry met on the way. -/
theorem witness_TrapEntry :
    (let s := start atU;
      let s1 := s.drainLanes 0 0 (lanesBelow 16);
      !(gangOf s).atS && (sheetOf s).replay.isNone && freeSlot (ctxOf s).frames == some 0 && (tabGet 0 s1.sheets).isSome
        && (match s1.storeBlock { cx := 0, die := s1.dieOf (sheetOf s), atS := true, clk := (gangOf s1).clockOf (lanesOf 0xFFFF 16), cl := (sheetOf s).cluster?, sid := some 0 } (some 0) (ctxOf s).tfrm
              (List.replicate 1024 0) with
            | .ok (s2, _) => (tabGet 0 s2.sheets).isSome && (tabGet 0 s2.ctxs).isSome
            | .error _ => false)) = true := by decide +kernel
theorem witness_TrapAtSupervisor :
    ((gangOf (start atSup)).atS && (sheetOf (start atSup)).replay.isNone && (tabGet 0 (start atSup).ctxs).isSome
      && (sheetOf (start atSup)).killed.isNone) = true := by decide +kernel
/-- The placed package with the frame slots `xs` taken. -/
def framesTaken (xs : List Nat) : State := start atU id id fun s => { s with ctxs := tabMod 0 (fun x => { x with frames := xs }) s.ctxs }
theorem framesTaken_frames (xs : List Nat) : (tabGet 0 (framesTaken xs).ctxs).map Context.frames = some xs := rfl
/-- With every slot taken none is free. -/
theorem witness_TrapAtSupervisor_full : let s := framesTaken (List.range 1048576)
    (tabGet 0 s.ctxs).map (fun x => freeSlot x.frames) = some none ∧ (tabGet 0 s.sheets).map (fun h => h.replay.isNone && h.killed.isNone) = some true := by
  refine ⟨?_, rfl⟩
  have h := congrArg (Option.map freeSlot) (framesTaken_frames (List.range 1048576))
  rw [Option.map_map] at h
  refine h.trans (congrArg some ?_)
  simp only [freeSlot, List.find?_eq_none, List.mem_range, List.length_range]
  intro n _
  simp
theorem witness_EngineSubset :
    (let i := Instr.fadd plain .rn (.s 2) (.reg (.s 2)) (.reg (.s 1));
      ((start onSeq).site.any fun c => c.agent == .seq .m && (encodeFields i).isSome && !i.engine .m)
        && (tabGet 0 (start onSeq).sheets).isSome && !(sheetOf (start onSeq)).allExited
        && (sheetOf (start onSeq)).gangs.all (fun p => (p.2.lanesIn (TState.onSeq .m)).isEmpty)
        && (sheetOf (start onSeq)).queues.all fun p => p.2.st != .opened) = true := by decide +kernel
/-- A collective's immediate. -/
def imm4 (cen : Bool) : CollImm := { ts := 2, td := 3, cnt := 4, cen := cen }
/-- Every form a gang at U issues, then those at S, then those of a sequencer alone. -/
theorem witness_GuardFalse :
    (([.yield never, .nap never 4, .napImm never 9, .trap never, .trapImm never 7, .bkpt never, .perf never 4, .perfImm never 3,
        .barinit never 3 true (.regs 4 5), .barinit never 3 false (.immT 1 5), .barinit never 3 false (.immC 4 1), .barinit never 3 true (.both 1 1),
        .barinv never 3, .qinit never 3 (.s 4), .qpush never 3 (.imm 7), .qpop never 3 1 4, .qtry never 3 1 4, .qclose never 3,
        .fopen never 4 (.s 6), .fclose never 4, .launch never 4 (.s 6), .launch never 4 (.imm64 4096)] : List Instr).all
        (fun i => i.gangLevel && meets i (start atU) fun _ c => !c.view.acts never)
      && ([.mma never .f16 0 false 4 8 none, .accz never 3, .accrdV never 1 4, .accrdSp never 1 (some (.s 4)) none, .accrdT never 2 4,
          .accwrV never 1 4, .accwrSp never 1 none (some 64), .accwrT never 2 4, .forkM never 64, .forkC never 64, .rdvThread never .m 4,
          .cptIn never 2 3 8, .cptOut never 2 3 8 1, .ownEng never 2 none, .ownEng never 2 (some 5), .ownThr never 2 (some 5),
          .residOpen never 3 4 6 8, .residPrio never 2 4 6, .residClose never 6 8, .nxch never .east (imm4 true),
          .nred never (.fold (.addI .i32)) .row (imm4 false), .nbc never .col 4 (imm4 true)] : List Instr).all
        (fun i => i.gangLevel && meets i (start atU) fun _ c => !c.view.acts never)
      && ([0, 1, 2, 3] : List (Fin 4)).all (fun k => meets (.emitend never k 10) (start atU) fun _ c => !c.view.acts never)
      && ([.halt never (.imm 7), .wdclr never, .eret never, .tlbinvPage never 4, .tlbinvRange never 4 6, .tlbinvCtx never, .stamp never (.imm 7),
          .invrep never 4, .invrepRange never 4 6, .sysrd never 0 false 4, .syswr never 4 false (.s 4), .syswrTtb never (.imm64 0),
          .syswrCeil never (.imm 7), .ctxsaveCopy never 4 6, .ctxsavePark never 4 6, .ctxload never 4 6] : List Instr).all
        (fun i => i.gangLevel && meets i (start atSup) fun _ c => !c.view.acts never)
      && sysRegWide 0 == some false && sysRegWide 4 == some false
      && ([.mmat never .f16 0 false 1 2 none none, .mvsScale never 0 1 2 3 none, .mvsSt never 0 1 none, .mvsStbf never 0 1 none,
          .mvsLd never 0 1 none, .rdvSequencer never] : List Instr).all
        (fun i => i.sequencerOnly && meets i (start onSeq) fun _ c => !c.view.acts never)) = true := by decide +kernel
theorem witness_Completion :
    ((start atU).ctxs.all (fun p => !p.2.expired) && (tabGet 0 (start atU).sheets).isSome && (tabGet 0 (sheetOf (start atU)).gangs).isSome) = true := by
  decide +kernel
theorem witness_FirstChecks :
    ((start atU).site.any (fun c => c.agent == .gang 0 && !c.atS && systemOpcode (Instr.wdclr plain).opcode
        && precheck (.wdclr plain) c == some { cause := 2, check := 1 })
      && (start atSup).site.any (fun c => precheck (.wdclr plain) c == none)
      && (start atU id fun h => { h with nv := 8 }).site.any (fun c =>
        precheck (.iadd plain .i32 false (.v 8) (reg 1) (reg 2)) c == some { cause := 1, check := 1 }
          && precheck (.iadd plain .i32 false (.v 7) (reg 1) (reg 2)) c == none)
      && (start atU id fun h => { h with bad := [.vec 0 2 0] }).site.any (fun c =>
        ((Instr.iadd plain .i32 false (.v 1) (reg 3) (reg 2)).existing c.sh.W c.sh.nv c.sh.na)
          && (c.lostSource (.iadd plain .i32 false (.v 1) (reg 3) (reg 2))).isSome
          && (c.lostSource (.iadd plain .i32 false (.v 2) (reg 3) (reg 3))).isNone)
      && (start onSeq).site.any fun c => c.agent == .seq .m && precheck (.exit plain) c == none) = true := by decide +kernel
/-- Page 0's first atom written at 10, its version before that valid from 3 to 8. -/
def twoVersions (s : State) : State :=
  s.putAtom (placedPage 0) { w := 10, e := 10, prior := some { w := 3, bytes := List.replicate 32 7, ends := 8 } }
theorem witness_PlacementTimes :
    (let s := twoVersions (start atU);
      !s.dryReplay (some 0) && (s.atom (placedPage 0 + 4)).prior.isSome && (s.atom (placedPage 0)).key == 0 && (start atU).atom (placedPage 0) == {}
        && (s.atom (placedPage 0)).priorAt 7 != none && (s.atom (placedPage 0)).priorAt 8 == none) = true := by decide +kernel
/-- The checks pass, with no poison on what is read. -/
def granted (i : Instr) (s : State) (size : Nat) (kind : Access) (va : Nat := 0) : Bool :=
  meets i s fun t c => match t.checkAccess c.issuer (c.view.enabled.map fun l => { lane := l, va := va, size := size, kind := kind }) with
    | .ok (xs, u) => !xs.isEmpty && xs.all (fun x => !x.2.cm && x.2.pl != 2) &&
        (if kind == .read then u.checkLoad c (c.clockOver false c.view.enabled) xs else u.checkData c xs) == none
    | .error _ => false
theorem witness_GlobalLoads :
    (let i := Instr.ld plain .b32 (.v 1) (.v 4) none;
      granted i (start atU) 4 .read
        -- an address that no page maps, and a poisoned word
        && meets i (start atU (lanes 5 fun _ => 1)) (fun t c => match t.checkAccess c.issuer [{ lane := 0, va := 2 ^ 32, size := 4, kind := .read }] with
            | .error _ => true | .ok _ => false)
        && meets i (start atU id id fun s => s.poisonWord (placedPage 0)) (fun t c =>
            match t.checkAccess c.issuer [{ lane := 0, va := 0, size := 4, kind := .read }] with
            | .ok (xs, u) => (u.checkLoad c (c.clockOver false c.view.enabled) xs).isSome | .error _ => false)) = true := by decide +kernel
/-- The package with no translation cached and page 0's entry as given. -/
def walked (lo : Nat) : State := start atU id id fun s =>
  { s with mem := putEntry s.mem placedL2 lo (placedPage 0), ctxs := tabMod 0 (fun x => { x with tlb := [], near := [] }) s.ctxs }
/-- The trap of one access at U. -/
def trapOf (s : State) (va : Nat) (kind : Access) (atS : Bool := false) : Option (Nat × Nat) :=
  match s.checkAccess { cx := 0, die := 0, atS := atS, clk := 0 } [{ lane := 0, va := va, size := 4, kind := kind }] with
  | .error (e, _) => some (e.cause, e.check)
  | .ok _ => none
/-- Page 0's entry as placed (523), not valid (522), read-only (651), without U (11) and of key slot 1, which is empty. -/
theorem witness_AccessChecks :
    (trapOf (walked 523) 2 .read == some (3, 3) && trapOf (walked 523) (2 ^ 48) .read == some (4, 4) && trapOf (walked 523) (2 ^ 32) .read == some (4, 5)
      && trapOf (walked 522) 0 .read == some (4, 5) && trapOf ((walked 523).poisonWord placedRoot) 0 .read == some (16, 9)
      && trapOf (walked 651) 0 .write == some (5, 6) && trapOf (walked 651) 0 .read == none && trapOf (walked 523) 0 .fetch == some (5, 6)
      && trapOf (walked 11) 0 .read == some (5, 6) && trapOf (walked 11) 0 .read true == none
      && trapOf (walked (523 + 65536)) 0 .read == some (6, 7) && trapOf (walked 523) 0 .write == none
      && (tabGet 0 (walked 523).ctxs).any (fun c => c.mids.isEmpty && c.near.isEmpty && (tabGet c.part (walked 523).parts).isSome)) = true := by decide +kernel
/-- The bytes of a layout record of two dimensions of 8 binary32 elements at address 0 (R109). -/
def texelRecord : List Byte :=
  toBytesLE 128 (2 * 2 ^ 64 + 3 * 2 ^ 67 + 2 ^ 80 + (8 + 2 ^ 32 * 7) * 2 ^ 256 + (8 + 2 ^ 32 * 7 + 2 ^ 64 * 32) * 2 ^ 384)
theorem witness_LocalLoads :
    (let i := Instr.lds plain .b32 (.v 1) (some (.v 3)) none;
      meets i (start atU) (fun _ c => c.view.active plain != [] && c.agent == .gang 0 && (c.sh.line 0).present && !(c.sh.line 0).eng)
        && meets i (start atU (lanes 3 fun _ => 2)) && (sheetOf (start atU)).spadSize == 16384
        && meets i (start atU (lanes 3 fun _ => 16384))
        && meets i (start atU id fun h => h.putLine 0 { present := false, inbound := 1 }) (fun _ c => c.sh.dead.isEmpty && !(c.sh.line 0).present)
        && meets i (start atU id fun h => { h with bad := [.spad 0 8] }) (fun _ c => c.sh.lostSpan 0 4 && (c.sh.line 0).present && !(c.sh.line 0).eng)
        && meets (.ldc plain .b32 (.s 1) (some (.s 0)) (some 65532)) (start atU) && meets (.sptest plain 1 (some (.v 3)) (some 16383)) (start atU)
        && meets (.ldq plain .f32 .wrap 10 (.v 1) (.v 2) (.s 3)) (start atU id fun h => h.putSpad 0 texelRecord) (fun _ c =>
            texelRecordOk c.sh .f32 (Layout.of (c.sh.spadBytes 0 128)) && c.hasLines [0] && !c.sh.lostSpan 0 128)
        && meets (.ldq byP1 .f32 .wrap 10 (.v 1) (.v 2) (.s 3)) (start atU oneLane fun h => h.putSpad 0 texelRecord) (fun t c =>
            let r := Layout.of (c.sh.spadBytes 0 128)
            let k := texelIndex (fmt32.sub .rn 0 0x3F000000)
            match t.checkAccess c.issuer ((texels .wrap r k k).filterMap fun x => x.map fun p => { lane := 0, va := p.1, size := 4, kind := .read : Req }) with
            | .ok (xs, u) => xs.length == 4 && ((u.placeLines c false 0 .read [0]).checkLoad c 0 xs).isNone
            | .error _ => false)) = true := by decide +kernel
theorem witness_Stores :
    (granted (.st plain .b32 (.v 4) none (.v 7)) (start atU) 4 .write
      && meets (.sts plain .b32 none (some 16380) (.v 7)) (start atU) (fun _ c => c.hasLines [127] && c.view.acts plain)
      && meets (.st plain .b32 (.v 4) (some 2) (.v 7)) (start atU) (fun t c =>
        match t.checkAccess c.issuer [{ lane := 0, va := 2, size := 4, kind := .write }] with | .error _ => true | .ok _ => false)) = true := by decide +kernel
theorem witness_WritesArrive :
    (let i := [Instr.st byP1 .b32 (.v 4) none (.v 7), .red byP1 (.addI .i32) (.v 4) none (.v 7), .atom byP1 (.addI .i32) (.v 1) (.v 4) none (.v 7),
        .cas byP1 .b32 (.v 1) (.v 4) none (.v 7) (.v 8), .cas byP1 .b32 (.v 1) (.v 4) none (.v 9) (.v 8)];
      i.all fun i => let s := run i (start atU fun r => oneLane (lane0 [(9, 1)] r));
        match s.writes with
        | [(_, w)] => w.parts.length == 1 && w.dirtyOn == none && !w.once && s.replicas.isEmpty && (sheetOf s).replay.isNone
          && w.parts.all (fun p => (s.atom p.pa).key == p.key && !s.repeated p && !s.unreach p.pa && decide (s.writeTime ((gangOf s).clockOf [p.lane]) p.pa < timeEnd))
        | _ => false) = true
    ∧ ((run (.st plain .b32 (.v 4) none (.v 7)) (start atU)).writes.map fun w => decide (1 < w.2.parts.length)) = [true] := by decide +kernel
/-- What an atomic of one lane waits for at its home. -/
def atHome (p : State → LaneWrite → Bool) (i : Instr) : Bool :=
  let s := run i (start atU oneLane)
  match s.writes with
  | [(_, w)] => w.dst == some (.v 1) && w.dirtyOn == none && s.replicas.isEmpty && (sheetOf s).replay.isNone && w.parts.length == 1
      && w.parts.all fun q => !s.unreach q.pa && p s q && decide (s.writeTime ((gangOf s).clockOf (lanesOf w.lanes 64)) q.pa < timeEnd)
  | _ => false
theorem witness_Atomics :
    (granted (.atom plain (.addI .i32) (.v 1) (.v 4) none (.v 7)) (start atU) 4 .write
      && granted (.cas plain .b64 (.v 2) (.v 4) none (.v 6) (.v 8)) (start atU) 8 .write
      && granted (.red plain (.addI .i32) (.v 4) none (.v 7)) (start atU) 4 .write
      && meets (.atoms plain (.addI .i32) (.v 1) (some (.v 3)) none (.v 7)) (start atU) (fun _ c => c.hasLines [0] && c.view.active plain != [] && !c.sh.lostSpan 0 4)
      && meets (.atagg plain .add64 (.v 2) 4 none (.v 8)) (start atU) (fun t c =>
        match t.checkAccess c.issuer [{ lane := 0, va := 0, size := 8, kind := .write }] with
        | .ok ([x], u) => u.checkData c [x] == none && x.2.pl != 2
        | _ => false)
      && ([.atom byP1 (.addI .i32) (.v 1) (.v 4) none (.v 7), .cas byP1 .b32 (.v 1) (.v 4) none (.v 7) (.v 8), .atagg byP1 (.addI .n32) (.v 1) 4 none (.v 7)] : List Instr).all
        (fun i => atHome (fun s q => !s.repeated q) i
          && atHome (fun s q => { s with requests := q.req.toList.map fun (r : Nat × Nat) => (q.home.getD 0, r.1, r.2, s.now) }.repeated q) i)
      && (start atU).writeTime 0 (placedPage 0) == 1) = true := by decide +kernel

/-- A byte stored at the start of page 0. -/
def oneJoin : FolioStore := { va := 0, pa := placedPage 0, key := 0, home := 0, bytes := [some 7], tag := 0 }
/-- The context's folio slot 0 changed. -/
def withFolio (f : Folio) (s : State) : State := s.modCtx 0 fun c => { c with folios := [(0, f)] }
theorem witness_Folios :
    (meets (.fopen plain 4 (.imm 1)) (start atU) (fun t c => c.view.acts plain && (match t.folioSlot 0 (ctxOf t) with | .ok 0 => true | _ => false))
      && meets (.fopen plain 4 (.imm 65535)) (start atU) && meets (.fopen plain 4 (.imm 65536)) (start atU) && meets (.fopen plain 4 (.imm 0)) (start atU)
      && meets (.fopen plain 4 (.imm 1)) (start atU id id fun s => s.modCtx 0 fun c => { c with folios := (List.range 256).map fun n => (n, { st := .opened, gen := 1, count := 1 }) })
        (fun t _ => match t.folioSlot 0 (ctxOf t) with | .error _ => true | _ => false)
      && (let s := start atU (unis [(9, 256)]) id (withFolio { st := .opened, gen := 1, count := 1 });
          granted (.stF plain .b32 (.v 4) none (.v 7) (.s 9)) s 4 .write && ((ctxOf s).openFolio 256).isSome
            && s.folioCheck 0 (ctxOf s) [(0, placedPage 0, 256)] == none && meets (.fclose plain 9) s && ((ctxOf s).openFolio 256).map (·.count) == some 1)
      && meets (.fclose plain 9) (start atU) (fun t _ => (ctxOf t).openFolio 0 == none)
      && answers (.folioClose 0 0) (start atU id id (withFolio { st := .closing, gen := 1, joins := [oneJoin] }))
      && (start atU).replicas.isEmpty && ((start atU).atom oneJoin.pa).key == oneJoin.key && !(start atU).unreach oneJoin.pa && decide (1 + max 3 ((start atU).atom oneJoin.pa).e < timeEnd)) = true := by
  decide +kernel
theorem witness_Fences :
    (([.fenceG plain, .fenceS plain, .fenceC plain 2 (.v 1), .fenceC plain 2 (.s 1)] : List Instr).all fun i =>
      meets i (start atU) fun t _ => (tabGet 0 (t.drainSheet 0).sheets).isSome) = true := by decide +kernel
theorem witness_Barriers :
    (let i (nt nc : BitVec 16) := Instr.barinit plain 3 false (.both nt nc);
      meets (i 16 65535) (start atU) (fun _ c => c.sh.T == 16 && (c.sh.waitersOn 3).isEmpty) && meets (i 0 0) (start atU) && meets (i 17 0) (start atU)
        && meets (.barinit plain 3 false (.immC 4 65536)) (start atU)
        && meets (i 1 0) (start atU id (fun h => { h with gangs := h.gangs ++ [(1, { threads := [(0, { pc := 0, clock := 0, st := .barrier 3 1 })] })] }))
          (fun _ c => !(c.sh.waitersOn 3).isEmpty)
        && meets (.barinv plain 3) (start atU id fun h => { h with bars := [(3, { valid := true, nt := 16 })] }) (fun _ c => (c.sh.bar 3).valid)
        && meets (.barinv plain 3) (start atU) (fun _ c => !(c.sh.bar 3).valid)
        && ([.bar plain 3 5, .barArrive plain 3] : List Instr).all (fun i => meets i (start atU) (fun _ c => !(c.sh.bar 3).valid && c.view.active plain != [])
            && meets i (start atU id fun h => { h with bars := [(3, { valid := true, nt := 16 })] }) fun _ c => (c.sh.bar 3).valid && c.view.active plain != [])
        && ((start atU id fun h => { h with bars := [(3, { valid := true, nt := 16, at_ := 16 })] }).tryPhase 0 3).2
        && !((start atU id fun h => { h with bars := [(3, { valid := true, nt := 16, at_ := 15 })] }).tryPhase 0 3).2
        && (let s := start atU id fun h => { h with bars := [(3, { valid := true, nt := 1, at_ := 1, clk := 8 })], gangs := h.gangs ++ [(1, { threads := [(0, { pc := 0, clock := 0, st := .barrier 3 1 })] })] }
            (s.tryPhase 0 3).2 && (tabGet 1 (sheetOf (s.tryPhase 0 3).1).gangs).any fun q => (tabGet 0 q.threads).map (·.clock) == some 9 && q.regs.predAt 1 0)
        && answers (.barrierWaveRelease 0 0) (start atU id (withThreads fun t => { t with st := .wave 0 }))) = true := by decide +kernel
/-- Queue 3 as given. -/
def withQueue (q : Queue) (h : Sheet) : Sheet := { h with queues := [(3, q)] }
theorem witness_Queues :
    (queueConfigOk 0x40208 && queueConfigOk 0x10140 && !queueConfigOk 0 && !queueConfigOk 0x10141
      && [.uninit, .opened, .closed, .broken].all (fun st =>
        ([.qinit plain 3 (.imm 0x40208), .qpush plain 3 (.imm 9), .qpop plain 3 1 6, .qtry plain 3 1 6, .qclose plain 3] : List Instr).all fun i =>
          meets i (start atU id (withQueue { st := st })) (fun _ c => (c.sh.queue 3).st == st && (c.sh.queue 3).entries.isEmpty && !c.sh.queueWaited 3 && c.view.acts plain)
            && meets i (start atU id (withQueue { st := st, cfg := 0x40208, entries := [{ val := 7, slot := 0, clk := 0 }], slots := [{ who := 0, allow := 0 }] }))
              (fun _ c => (c.sh.queue 3).st == st && !(c.sh.queue 3).entries.isEmpty))
      && [0, 1, 4].all (fun n => meets (.qpush plain 3 (.imm 9)) (start atU id (withQueue { st := .opened, cfg := 0x40208, slots := [{ who := 0, allow := n }] }))
          (fun _ c => (c.sh.queue 3).slots.findIdx? (fun y => y.who == c.agent.producer) == some 0))
      && meets (.qpush plain 3 (.imm 9)) (start atU id (withQueue { st := .opened, cfg := 0x40208 })) (fun _ c => (c.sh.queue 3).slots.length == 0)
      && meets (.qpush plain 3 (.imm 9)) (start atU id (withQueue { st := .opened, cfg := 0x40208, slots := [{ who := 8, allow := 4 }, { who := 9, allow := 4 }] }))
          (fun _ c => (c.sh.queue 3).slots.all fun y => y.who != c.agent.producer)) = true := by decide +kernel
/-- A launch record for a kernel whose header stands at address 0 (R35). -/
def launchRecord : List Byte := toBytesLE 128 0
/-- A kernel header of one gang of 16 threads with its code at 128 (R195). -/
def kernelHeader : Nat := 0x4B52444E + 2 ^ 32 + 16 * 2 ^ 64 + 16 * 2 ^ 72 + 0x10104 * 2 ^ 96 + 128 * 2 ^ 160
/-- Page 0 software-managed. -/
def soft (s : State) : State :=
  { s with mem := putEntry s.mem placedL2 (523 + 32) (placedPage 0)
           ctxs := tabMod 0 (fun x => { x with tlb := [(0, 0, { placedLeaf 0 with cm := true }), (0, 1, placedLeaf 1)], near := [] }) s.ctxs }
/-- The status of a submission, in the placed package with `h` as the kernel header at address 65,792; by the last clock there is, so that
no view time is free. -/
def submitted (r h : Nat) (p : State → State := id) : Option Nat :=
  let s := start atU
  match (p { s with mem := putBytes (placedPage 1 + 256) ((toBytesLE 128 h).map some) s.mem }).submit 0 { cx := 0, die := 0, atS := false, clk := timeEnd } (toBytesLE 128 r) with
  | .ok (n, _) => some n
  | .error _ => none
theorem witness_Launching :
    (meets (.launch plain 6 (.imm64 0)) (start atU)
      && meets (.launch plain 6 (.imm64 (2 ^ 40))) (start atU) (fun t c => match t.readSpan c.issuer (2 ^ 40) 128 32 with | .error (.xlate, _) => true | _ => false)
      && meets (.launch plain 6 (.imm64 64)) (start atU) && (LaunchRec.of launchRecord).recordOk && (LaunchRec.of launchRecord).alignOk
      && !(LaunchRec.of (toBytesLE 128 (2 ^ 159))).recordOk && (LaunchRec.of (toBytesLE 128 1)).recordOk && !(LaunchRec.of (toBytesLE 128 1)).alignOk
      && submitted 65792 kernelHeader == some 0 && submitted (2 ^ 159) 0 == some 1 && submitted 1 0 == some 2 && submitted (2 ^ 40) 0 == some 3
      && submitted (65792 + 2 ^ 241 + 2 ^ 292) kernelHeader == some 3
      && submitted (65792 + 2 ^ 241) kernelHeader soft == some 4
      && submitted 65792 (kernelHeader - 1) == some 5 && submitted 65792 (kernelHeader - 8 * 2 ^ 72) == some 6
      && submitted 65792 (kernelHeader - 0x10104 * 2 ^ 96) == some 7
      && submitted 65792 kernelHeader (fun s => { s with launches := (List.range 256).map fun n => (n, { placedLaunch [] false with queued := true }) }) == some 8
      && submitted 65792 kernelHeader (fun s => s.poisonWord (placedPage 1 + 256)) == none) = true := by
  decide +kernel

/-- A tile descriptor: base line, rows less one, pitch in lines, row length in bytes (R57). -/
def tile (base rows pitch rlen : Nat) : DWord := BitVec.ofNat 64 (base + rows * 2 ^ 14 + pitch * 2 ^ 26 + rlen * 2 ^ 40)
/-- Tile descriptors from t0 on. -/
def tiles (ts : List DWord) (r : Regs) : Regs := (ts.zipIdx).foldl (fun r x => r.setTile x.2 x.1) r
/-- The format table's entry 0 is the word of the example in R82, so that descriptors are well formed (R90). -/
def withFmt (h : Sheet) : Sheet := { h with fmt := [(0, 0x990798)] }
/-- The format of the example in R82 is well formed (R77). -/
theorem witness_MatrixFormats : (NFWord.ofNat 0x990798).WellFormed :=
  have h : ∀ k < 256, (NFWord.ofNat 0x990798).isFin k → (NFWord.ofNat 0x990798).mag k < 2 ^ 128
      ∧ ((NFWord.ofNat 0x990798).mag k ≠ 0 → 2 ^ (-149 : Int) ≤ (NFWord.ofNat 0x990798).mag k) := by decide +kernel
  ⟨by decide, by decide, by decide, by decide, by decide, by decide, by decide, by decide, by decide, by decide, by decide, by decide, h⟩
theorem witness_MatrixProducts :
    (let nf := Instr.mma plain .nf 2 false 8 16 (some (.s 4));
      meets (.mma plain .bf16 2 false 8 16 none) (start atU) (fun _ c => !c.accBound && c.view.acts plain)
        && meets nf (start atU (unis [(4, 0x990798), (5, 0x990798)])) (fun _ c => !c.accBound && formatsAgree (NFWord.ofNat 0x990798) (NFWord.ofNat 0x990798)
            && (NFWord.ofNat 0x990798).wf)
        && meets (.mma plain .nf 2 false 8 16 (some (.v 4))) (start atU (lanes 4 fun l => BitVec.ofNat 32 l)) (fun _ c => !c.accBound)
        && meets nf (start atU (unis [(4, 0x990798)])) (fun _ c => !c.accBound)
        && meets nf (start atU (unis [(4, 0x990798), (5, 0x990798)]) fun h => { h with bad := [.vec 0 9 3] }) (fun _ c => !c.accBound && c.lost c.view.enabled [(.v 8, 2), (.v 16, 2)])
        && meets (.accwrSp plain 3 none (some 15360)) (start atU id fun h => { h with bad := [.spad 0 15364] }) (fun _ c => c.sh.lostSpan 15360 1024 && c.hasLines (spanLines 15360 1024))
        && meets (.mma plain .nf 2 false 188 16 (some (.s 4))) (start atU (unis [(4, 0x990798), (5, 0x990798)])) (fun _ c => !c.accBound && c.view.acts plain)
        && ([.accz plain 3, .accrdV plain 3 40, .accwrV plain 3 40, .accrdT plain 2 4, .accwrT plain 2 4] : List Instr).all (fun i => meets i (start atU) fun _ c => !c.accBound)
        && meets (.accz plain 3) (start atU id fun h => { h with mseq := { st := .running, starter := some 0 } }) (fun _ c => c.accBound)
        && ([.accrdSp plain 3 none (some 15360), .accwrSp plain 3 none (some 15360)] : List Instr).all fun i => meets i (start atU) fun _ c =>
            c.hasLines (spanLines 15360 1024) && c.sh.spadSize == 16384) = true := by decide +kernel
/-- A launch with both sequencer regions. -/
def withRegions (s : State) : State := s.modLaunch 0 fun l => { l with mseq := 1024, mseqN := 2, cseq := 2048, cseqN := 1 }
/-- The lines of both tiles with the engines. -/
def withEng (h : Sheet) : Sheet := { withFmt h with lines := (List.range 48).map fun n => (n, { eng := true }) }
theorem witness_Sequencers :
    (let s := start atU id id withRegions;
      ((tabGet 0 s.launches).map (·.region .m)) == some (1024, 64) && ((tabGet 0 s.launches).map (·.region .c)) == some (2048, 32)
        && meets (.forkM plain 896) s (fun _ c => (c.pc + 896).toNat == 1024 && c.sh.mseq.st == .idle) && meets (.forkM plain 956) s (fun _ c => (c.pc + 956).toNat == 1084)
        && meets (.forkM plain 960) s && meets (.forkC plain 1920) s (fun _ c => (c.pc + 1920).toNat == 2048) && meets (.forkC plain 1916) s
        && [SeqSt.idle, .running, .parked, .faulted].all (fun st => meets (.rdvThread plain .m 6) (start atU id fun h => { h with mseq := { st := st } }) (fun _ c => c.sh.mseq.st == st))
        && meets (.rdvSequencer plain) (start onSeq) (fun _ c => c.agent == .seq .m && !c.sh.allExited && c.sh.gangs.all fun p => (p.2.lanesIn (TState.onSeq .m)).isEmpty)
        && meets (.rdvSequencer plain) (start onSeq id (withThreads fun t => { t with st := .seq .m 6 })) (fun _ c => c.sh.gangs.all fun p => !(p.2.lanesIn (TState.onSeq .m)).isEmpty)
        && meets (.mmat plain .i8 3 true 0 1 none none) (start onSeq (tiles [tile 0 15 1 64, tile 16 15 1 64]) withEng) (fun _ c =>
            (c.view.tileOf 0 none).ok c.sh && (c.view.tileOf 1 none).ok c.sh && c.hasLines (c.view.tileOf 0 none).lines && c.view.acts plain && c.sh.na == 16)
        && meets (.mmat plain .i8 3 true 0 1 none none) (start onSeq (tiles [tile 0 15 1 64, tile 16 15 1 64]) withFmt) (fun _ c => !c.hasLines (c.view.tileOf 0 none).lines)
        && meets (.mmat plain .i8 3 true 0 1 none none) (start onSeq (tiles [tile 0 15 1 64, tile 16 15 1 64]) fun h => { withEng h with bad := [.spad 0 8] }) (fun _ c =>
            c.hasLines (c.view.tileOf 0 none).lines && c.sh.lostSpans (c.view.tileOf 0 none).spans)
        && !(sheetOf (start onSeq)).lostSpans [(0, 64)]
        && meets (.mmat plain .i8 3 true 0 1 none none) (start onSeq) (fun _ c => !(c.view.tileOf 0 none).ok c.sh)
        && meets (.mvsScale plain 1 0 0 1 none) (start onSeq (tiles [tile 0 0 1 16, tile 1 0 1 16]) withEng) (fun _ c => c.hasLines [0, 1] && (c.view.tileOf 0 none).ok c.sh && (c.view.tileOf 1 none).ok c.sh)
        && ([.mvsSt plain 1 0 none, .mvsLd plain 1 0 none] : List Instr).all (fun i => meets i (start onSeq (tiles [tile 0 15 1 64]) withEng) fun _ c => c.hasLines (c.view.tileOf 0 none).lines && (c.view.tileOf 0 none).ok c.sh)
        && meets (.mvsStbf plain 1 0 none) (start onSeq (tiles [tile 0 15 1 32]) withEng) (fun _ c => (c.view.tileOf 0 none).ok c.sh && c.hasLines (c.view.tileOf 0 none).lines)
        -- Tiles that are malformed, or of another row length.
        && ([.mvsScale plain 1 0 0 1 none, .mvsSt plain 1 0 none, .mvsLd plain 1 0 none, .mvsStbf plain 1 0 none] : List Instr).all fun i =>
          meets i (start onSeq) (fun _ c => !(c.view.tileOf 0 none).ok c.sh)
              && meets i (start onSeq (tiles [tile 0 15 1 8, tile 16 15 1 8]) withEng) fun _ c => (c.view.tileOf 0 none).ok c.sh) = true := by decide +kernel
/-- The record of `texelRecord` with multicast to cluster (0, 0) and barrier 0. -/
def manyRecord : List Byte := toBytesLE 128 (ofBytesLE texelRecord + 2 ^ 74 + 2 ^ 128)
theorem witness_Copies :
    (([(.cpl plain .gs .b4 (.v 3) (.v 4), .owned), (.cpl plain (.sg 1) .b4 (.v 4) (.v 3), .free), (.cpl plain (.gg 1) .b4 (.v 4) (.v 6), .free)] : List (Instr × LineNeed)).all
        (fun p => meets p.1 (start atU) fun t c => t.linesMeet c.sid c.sh c.eng [0] p.2 && c.view.acts plain
          && (match t.checkCopy c 4 ([0, 1].map fun l => { lane := l, va := 4 * l, size := 4, kind := .read }) [(0, 0)] with
              | .ok (xs, u) => u.checkData c (xs.filter fun x => x.1.kind == .read) == none | .error _ => false))
      && meets (.cpl plain .gs .b4 (.v 3) (.v 4)) (start atU (lanes 3 fun _ => 2)) (fun t c => match t.checkCopy c 4 [] [(0, 2)] with | .error _ => true | .ok _ => false)
      && meets (.cptIn plain 2 3 8) (start atU (unis [(2, 1)]))
      && ([(.cptIn plain 2 3 8, Access.read), (.cptOut plain 2 3 8 1, .write)] : List (Instr × Access)).all (fun i =>
        meets i.1 (start atU (unis [(3, 1)]) fun h => (withFmt h).putSpad 0 texelRecord) (fun t c =>
          let r := Layout.of (c.sh.spadBytes 0 128)
          r.wf && !r.mc && c.sh.fmtOk r.fmt && c.hasLines [0] && decide ((r.rowLine 1 (r.rows - 1) + r.rowLines) * 128 ≤ c.sh.spadSize) && !c.sh.lostSpan 0 128
            && t.linesMeet c.sid c.sh c.eng (r.boxLines 1) .owned
            && (match t.checkAccess c.issuer ((r.elems [0, 0]).map fun e => { lane := 0, va := e.va, size := r.size, kind := i.2 }) with
                | .ok (xs, u) => u.checkData c xs == none && !xs.isEmpty | .error _ => false))
        -- A record whose box lies past the end, one that is malformed, one that holds a lost word, and a box that no page holds.
        && meets i.1 (start atU (unis [(3, 127)]) fun h => (withFmt h).putSpad 0 texelRecord) && meets i.1 (start atU) (fun _ c => !(Layout.of (c.sh.spadBytes 0 128)).wf)
        && meets i.1 (start atU (unis [(3, 1)]) fun h => { (withFmt h).putSpad 0 texelRecord with bad := [.spad 0 8] }) (fun _ c => c.sh.lostSpan 0 128)
        && meets i.1 (start atU (unis [(3, 1)]) fun h => (withFmt h).putSpad 0 (toBytesLE 128 (ofBytesLE texelRecord + 2 ^ 32))) (fun t c =>
          match t.checkAccess c.issuer [{ lane := 0, va := 2 ^ 32, size := 4, kind := i.2 }] with | .error _ => true | .ok _ => false))
      && meets (.cptIn plain 2 3 8) (start atU (unis [(3, 1)]) fun h => { (withFmt h).putSpad 0 manyRecord with bars := [(0, { valid := true, nc := 1 })] }) (fun t c =>
          let r := Layout.of (c.sh.spadBytes 0 128)
          r.wf && r.mc && t.namesCluster c r && (t.receivers c r).map (·.1) == [0])) = true := by decide +kernel
/-- A copy of the placed sheet. -/
def someCopy : Copy := { ctx := 0, sheet := 0, issue := 0, view := 0, top := 0 }
/-- An element of two bytes, both nibbles of the first and the high one of the second. -/
def someElem : CopyElem := { va := 8, pa := placedPage 0 + 8, key := 0, bytes := [0x12, 0x34], en := [3, 2] }
/-- Copies to read, one whose bytes are there for a line that waits for it, one with an element to write, one with a counter. -/
theorem witness_Copies_completion :
    (let s := start atU id (fun h => h.putLine 2 { present := false, inbound := 1 }) fun s => { s with copies := [
          (3, { someCopy with reads := [{ va := 0, pa := placedPage 0, key := 0, n := 4, high := none, dst := 256 }], dests := [{ sheet := 0, lines := [2], mbar := none }] }), (4, someCopy)] };
      let one (c : Copy) := start atU id (fun h => h.putLine 2 { present := false, inbound := 1 }) fun s => { s with copies := [(3, c)] };
      let inward : Copy := { someCopy with spad := [(256, 7), (257, 8)], dests := [{ sheet := 0, lines := [2], mbar := none }] };
      (tabGet 3 s.copies).any (!·.reads.isEmpty) && answers (.copyCompletion 4) s && answers (.copyCompletion 3) s
        && ([2] : List Nat).Nodup && risingFrom 0 inward.spad && risingFrom 0 (sheetOf (one inward)).lines
        && (sheetOf ((one inward).completeCopy 3).1).spadByte 257 == 8 && ((sheetOf ((one inward).completeCopy 3).1).line 2).present
        && (tabGet 0 (sheetOf ((one { someCopy with cnt := some 0, top := 6 }).completeCopy 3).1).counters).any (fun k => k.count == 1 && decide (6 < k.cmax))
        && (let t := one { someCopy with out := [someElem] };
            !t.dryReplay (some 0) && !t.unreach someElem.pa && t.replicas.isEmpty && decide (someElem.pa % 32 + someElem.bytes.length ≤ 32)
              && decide (t.writeTime 0 someElem.pa < timeEnd) && (t.bytesAs 0 (someElem.pa + 1) 1).length == 1
              && (t.performElem someCopy someElem).1.bytes someElem.pa 2 == [0x12, 0x30])
        && ({ someElem with src := [(2, 3), (4, 5)] }.now ((sheetOf s).putSpad 0 [0, 0x56, 0x78])) == [0x56, 0x78]) = true := by decide +kernel
theorem witness_OwnersAndHandles :
    (([.ownEng plain 0 none, .ownThr plain 0 none] : List Instr).all (fun i => meets i (start atU (tiles [tile 0 15 1 64]) withFmt) (fun t c =>
        (c.view.tileOf 0 none).ok c.sh && t.linesMeet c.sid c.sh c.eng (c.view.tileOf 0 none).lines .idle && risingFrom 0 c.sh.lines)
        && meets i (start atU) (fun _ c => !(c.view.tileOf 0 none).ok c.sh)
        -- A line on its way: a gang waits, or traps when the copy's collective is dead, and a sequencer waits.
        && meets i (start atU (tiles [tile 0 15 1 64]) fun h => (withFmt h).putLine 3 { present := false, inbound := 1 }) (fun t c =>
            !t.linesMeet c.sid c.sh c.eng (c.view.tileOf 0 none).lines .idle && c.sh.dead.isEmpty && c.agent == .gang 0)
        && meets i (start atU (tiles [tile 0 15 1 64]) fun h => { (withFmt h).putLine 3 { present := false, inbound := 1 } with dead := [(3, 1)] }) (fun t c =>
            !t.linesMeet c.sid c.sh c.eng (c.view.tileOf 0 none).lines .idle)
        && meets i (start onSeq (tiles [tile 0 15 1 64]) fun h => (withFmt h).putLine 3 { present := false, inbound := 1 }) (fun t c =>
            !t.linesMeet c.sid c.sh c.eng (c.view.tileOf 0 none).lines .idle && c.agent == .seq .m))
      && meets (.residOpen plain 3 6 8 10) (start atU) && meets (.residOpen plain 3 6 8 10) (start atU (unis [(8, 0xFFFFFFFF), (9, 0xFFFF), (10, 1)]))
      && meets (.residOpen plain 3 6 8 10) (start atU (unis [(9, 0x10000), (10, 1)]))
      && ([.residPrio plain 1 6 7, .residClose plain 6 7] : List Instr).all (fun i => meets i (start atU) (fun t _ => (ctxOf t).handles.isEmpty)
          && meets i (start atU id id fun s => s.modCtx 0 fun c => { c with handles := [(0, { base := 0, len := 1, prio := 0 })] }) fun t _ => (tabGet 0 (ctxOf t).handles).isSome)) = true := by
  decide +kernel
theorem witness_Collectives :
    (let im : CollImm := { ts := 0, td := 1, cnt := 0, cen := false };
      ((start atU).launches.all fun l => decide (0 < (l.2.group .plane 0).length)) && ([.nxch plain .west im, .nred plain (.fold (.addF .rn)) .row im, .nbc plain .plane 6 im] : List Instr).all (fun i =>
          meets i (start atU (tiles [tile 0 3 1 64, tile 8 3 1 64]) withFmt) (fun t c => (tabGet 0 t.launches).isSome && c.hasLines (c.view.tileOf 0 none).lines
              && c.sh.linesOwned false (c.view.tileOf 1 none).lines && (c.view.tileOf 1 none).ok c.sh && c.view.acts plain)
            && meets i (start atU (tiles [tile 0 3 1 64, tile 3 3 1 64]) withFmt))
        && (let s := run (.nxch plain .west { im with cen := true }) (start atU (tiles [tile 0 3 1 64, tile 8 3 1 64]) withFmt);
            match (sheetOf s).pend with
            | [p] => p.imm.toNat.testBit 9 && risingFrom 0 (sheetOf s).lines && (Tile.of p.td 0).wf 128
                && (tabGet 0 (sheetOf (s.sendColl 0 p)).counters).any (fun k => k.count == 1)
                && ((sheetOf (s.finishColl 0 p [])).line 8).present
            | _ => false)
        && collRow { id := 0, bits := 0, imm := 0, key := 4, num := 0, clock := 0, td := 0, ts := 0, op := .addI .i32, root := 0 } [[1, 0, 0, 0], [2, 0, 0, 0]] 4 == [3, 0, 0, 0]
        && (let s := run (.nred plain (.fold (.addF .rn)) .row im) (start atU (tiles [tile 0 3 1 64, tile 8 3 1 64]) withFmt);
            match (sheetOf s).pend with
            | [p] =>
              let t := run (.collectiveCompletion p.id) s
              !p.sent && answers (.collectiveCompletion p.id) s && (s.pending p.id).isSome
                -- It has sent, its data is there; then a partner's is not, and the partner is gone or may still send.
                && (match (sheetOf t).pend with
                  | [q] => q.sent && (collSources (placedLaunch [] false) 0 q.key).all (fun k => (t.collMsg 0 k q.key q.num).isSome)
                      && answers (.collectiveCompletion p.id) t
                      && answers (.collectiveCompletion p.id) ({ t with msgs := [] }.modLaunch 0 fun l => { l with gone := [0] })
                      && notNow (.collectiveCompletion p.id) { t with msgs := [] }
                  | _ => false)
            | _ => false)
        && meets (.nred plain (.broken 6 0) .row im) (start atU)) = true := by decide +kernel
/-- A frame record of 256 by 192 pixels, read already for slot 0 and draw 0. -/
def frameRec : FrameRec := FrameRec.of 0 (toBytesLE 64 (255 * 2 ^ 128 + 191 * 2 ^ 144 + 256 * 2 ^ 160))
theorem witness_Geometry :
    (frameRec.ok && meets (.emit plain 0 (.v 20) 8 10) (start atU id fun h => { h with recs := [(0, frameRec)] }) (fun t c =>
        frameRec.targets 1 [0, 0, 0, 0, 0, 0] != [] && frameRec.targets 1 (List.replicate 6 (-65536)) == []
          && !t.drawWaits 0 0 0 [0] (ctxOf t) && t.drawWaits 0 0 500 [] (ctxOf t) && c.view.acts plain && !c.emitEnded 0 0 && ((tabGet 0 t.launches).any (emitIndexOk c)) && !boundElsewhere c (ctxOf t) 0 0
          && (match t.frameRecord c 0 0 0 with | .ok _ => true | .error _ => false))
      && meets (.emit plain 0 (.v 20) 8 10) (start atU (lanes 30 fun _ => 0x4000000) fun h => { h with recs := [(0, frameRec)] })
      && meets (.emit plain 0 (.v 20) 8 10) (start atU (unis [(9, 1)])) (fun t c =>
          match t.frameRecord c 0 (2 ^ 32) 0 with | .error _ => true | .ok _ => false)
      && meets (.emitend plain 0 10) (start atU) (fun t c => !c.emitEnded 0 0 && !t.drawWaits 0 0 0 [0] (ctxOf t))
      && meets (.emitend plain 0 10) (start atU id (withGang fun q => { q with emitEnd := [(0, 0)] })) (fun _ c => c.emitEnded 0 0)
      && answers (.primitivePacket 3) (start atU id id fun s => { s with packets := [(3, { die := 0, ctx := 0, slot := 0, fr := 0, draw := 7, group := 0, prim := 0, xy := [], z := [], vid := 0, gcm1 := 0, clk := 0, sheet := 0 })] })
      && answers (.closeMarker 3) (start atU id id fun s => { s with markers := [(3, { die := 0, ctx := 0, slot := 0, draw := 7, group := 0, gcm1 := 0, clk := 0, sheet := 0 })] })
      && ((start atU id id fun s => s.modDie 0 fun d => { d with raster := [(0, { draws := [(0, { gcm1 := 0, marks := [(0, 5)] })] })] }).nextGroup 0 0 0).isSome
      && ((start atU id id fun s => s.modDie 0 fun d => { d with raster := [(0, { draws := [(0, { gcm1 := 0, marks := [(0, 5)], next := 1 })] })] }).drawDone 0 0)) = true := by
  decide +kernel
/-- A target of eight by eight pixels with both planes on page 0. -/
def exampleRec : FrameRec := { addr := 0, vb := 32768, dz := 0, wm1 := 7, hm1 := 7, pitch := 8, jx := 0, jy := 0, ok := true }
/-- A triangle that covers pixel (0, 0) of it. -/
def examplePacket : Packet := { die := 0, ctx := 0, slot := 0, fr := 0, draw := 0, group := 0, prim := 3, xy := [0, 0, 384, 0, 0, 384]
                                z := [0x3F000000, 0x3F000000, 0x3F000000], vid := 0x30, gcm1 := 0, clk := 0, sheet := 0 }
/-- Page 0's depth words all 1.0 but the second, which is 0.25. -/
def withDepth : State := (wordAt 4 0x3E800000 ∘ wordAt 0 0x3F800000) (start atU)
theorem witness_Rasterisation :
    (let s := withDepth;
      let leaf (va : Nat) := (s.planeLeaf 0 0 0 exampleRec.addr va).1;
      let q := s.pixel 0 0 0 exampleRec 0 0 0x3F000000 0x30;
      let u := s.pixel 0 0 0 exampleRec 1 0 0x3F000000 0x30;
      leaf 0 == some (placedLeaf 0) && leaf 32768 == some (placedLeaf 0) && !s.unreach (placedPage 0) && s.replicas.isEmpty
        && decide (max (s.writeTime 0 (placedPage 0)) (s.writeTime 0 (placedPage 0 + 32768)) < timeEnd)
        && q.1.bytes (placedPage 0) 4 == toBytesLE 4 0x3F000000 && q.1.bytes (placedPage 0 + 32768) 4 == toBytesLE 4 0x30
        && u.1.mem == s.mem && u.2 == 1
        && readsAt (s.rasterise 0 0 exampleRec examplePacket).1 0 4 == 0x3F000000
        && (let t := start atU id id fun s => s.modDie 0 fun d => { d with raster := [(0, { draws := [(0, { gcm1 := 0, marks := [(0, 5)], packets := [examplePacket], record := some exampleRec })] })] };
            (t.nextGroup 0 0 0).isSome && answers (.rasteriseGroup 0 0 0) t)
        && (let t := start atU id id fun s => s.modDie 0 fun d => { d with raster := [(0, { draws := [(0, { gcm1 := 0, marks := [(0, 5)], packets := [examplePacket] })] })] };
            (t.nextGroup 0 0 0).isSome && answers (.rasteriseGroup 0 0 0) t)
        && (State.unreach { s with unreachable := [paDevice (placedPage 0)] } (placedPage 0))
        && (s.leafOf 0 none 0 0 2).1 == some (placedLeaf 2) && (s.planeLeaf 0 0 0 0 131072).1 == none) = true := by decide +kernel
theorem witness_SystemRegisters :
    (([.sysrd plain 5 false 4, .syswr plain 3 false (.s 4), .syswr plain 9 true (.imm64 4), .syswr plain 1 true (.s 4), .syswr plain 10 false (.s 4), .syswrCeil plain (.imm 2),
        .halt plain (.imm 7), .wdclr plain, .eret plain, .stamp plain (.imm 7)] : List Instr).all (fun i => meets i (start atSup) fun t c => c.view.acts plain && (tabGet 0 t.ctxs).isSome)
      && ([.sysrd plain 5 true 4, .sysrd plain 12 false 4, .syswr plain 12 false (.s 4), .syswr plain 5 true (.s 4), .syswr plain 1 false (.s 4)] : List Instr).all
          (fun i => meets i (start atSup))
      && sysRegWide 5 == some false && sysRegWide 3 == some true && sysRegWide 12 == none
      && (gangOf (start atSup)).frame == none && (ctxOf (start atSup)).tring == 0 && (gangOf (start atSup)).relPd.isEmpty
      && meets (.eret plain) (start atSup id (withGang fun q => { q with frame := some 0 })) (fun t c => match t.readFrame c 0 with
          | .ok (bs, _, _) => (Frame.of bs).ok (gangOf t) && !(Frame.of bs).nores | .error _ => false)
      && meets (.eret plain) (start atSup id (withGang fun q => { q with frame := some 0 }) fun s => s.modCtx 0 fun c => { c with tfrm := 2 ^ 40 }) (fun t c =>
          match t.readFrame c 0 with | .ok _ => false | .error _ => true)
      && meets (.stamp plain (.imm 7)) (start atSup id id fun s => s.modCtx 0 fun c => { c with tring := 2 ^ 63 }) (fun t c =>
          match t.checkAccess c.issuer [{ lane := 0, va := 0, size := 32, kind := .write }] with
          | .ok (xs, u) => xs.length == 1 && !u.unreach (placedPage 0) && ((u.beforeWrite 0 0).placeWrite { sheet := some 0, ctx := 0, key := 0 } c.clk (placedPage 0) ((List.replicate 32 (1 : Byte)).map some)).isSome
          | .error _ => false)) = true := by decide +kernel
/-- A fourth page behind the placed three, so that an image fits. -/
def fourPages (s : State) : State :=
  { s.modCtx 0 (fun c => { c with tlb := c.tlb ++ [(0, 3, placedLeaf 3)], near := c.near ++ [(0, 3, placedLeaf 3)] }) with
    mem := putEntry s.mem (placedL2 + 48) (placedEntry 3) (placedPage 3) }
/-- The sheet with few registers and no scratchpad, so that its image is short. -/
def small (h : Sheet) : Sheet := { h with nv := 4, na := 0, spg := 0 }
theorem witness_TranslationsAndImages :
    (([.tlbinvPage plain 4, .tlbinvRange plain 4 6, .tlbinvCtx plain, .syswrTtb plain (.s 4), .invrep plain 4, .invrepRange plain 4 6] : List Instr).all (fun i =>
        meets i (start atSup (unis [(6, 65536)])) (fun t c => (t.invalidate 0 c.clk .all).2 < timeEnd)
          && meets i (start atSup (unis [(5, 65535), (4, 0xFFFFFFFF), (6, 1)])) && meets i (start atSup (unis [(5, 65536), (6, 65537)])))
      && answers (.replicaConversion 0 0) (start atU id id fun s => { s with replicas := [{ ctx := 0, page := 0, pa := placedPage 0, home := 0, copies := [], converting := true }] })
      && meets (.tlbinvCtx plain) (start atSup id (withThreads fun t => { t with clock := timeEnd - 1 })) (fun t c => timeEnd ≤ (t.invalidate 0 c.clk .all).2)
      && (start atSup).clusters.any (fun k => k.1 == 0)
      && answers (.pageWalk 0 0 0) (start atU)
      && ([.ctxsaveCopy plain 6 8, .ctxsavePark plain 6 8, .ctxload plain 6 8] : List Instr).all (fun i => meets i (start atSup (unis [(8, 64)])))
      && ([.ctxsaveCopy plain 6 8, .ctxsavePark plain 6 8] : List Instr).all (fun i => meets i (start atSup id (fun h => { small h with bad := [.spad 0 8] }) fourPages)
        && meets i (start atSup id small fourPages))
      && meets (.ctxsaveCopy plain 6 8) (start atSup id small fourPages) fun t c =>
        match t.checkAccess c.issuer (spanReqs c.view.lead 0 c.sh.imageSize .write) with | .ok _ => true | .error _ => false) = true := by decide +kernel

/-! Then the statements about the steps of the package itself. -/

/-- The package without an issue in progress, with the sheet and the rest changed. -/
def still (h : Sheet → Sheet := id) (p : State → State := id) : State := { start atU id h p with issue := none }
/-- The sheet's queue of errors holds one. -/
def withError (s : State) : State := s.modCtx 0 fun c => { c with errs := [{ code := 1, detail := 0, addr := 64 }] }
/-- The clock. -/
def atTime (us : Nat) (s : State) : State := { s with now := us * tickUs }
theorem witness_Watchdogs :
    (let waits (f : Sheet → Sheet) : State := still (fun h => f (withThreads (fun t => { t with st := .pop 2 }) h)) fun s =>
        atTime 60 (s.modCtx 0 fun c => { c with blockedAt := some 0, ewl := 50, swd := 40 });
      let open_ (s : State) : Bool := (gangOf s).threads.any fun x => (sheetOf s).counted x.2.st == some false && decide (50 * tickUs < s.now - x.2.since);
      (still id withError).ctxs.any (fun p => !p.2.errs.isEmpty) && ((sheetOf (still id withError)).errGang.isSome)
        && ((sheetOf (still (withThreads fun t => { t with st := .barrier 0 0 }) withError)).errGang.isNone)
        && (sheetOf (still id withError)).killed.isNone && (sheetOf (still id withError)).replay.isNone
        && (sheetOf (still id (atTime 101))).errAt ≤ (still id (atTime 101)).now
        && (waits id).ctxBlocked 0 && (ctxOf (waits id)).blockedAt == some 0 && !open_ (waits id)
        && open_ (waits fun h => { h with queues := [(2, { cfg := 0x1000000 })] })
        && !(gangOf (waits id)).atS && (sheetOf (waits id)).home == .on 0
        && (let s := still (withGang fun g => { g with atS := true, wdFrom := some 0 }) fun s => atTime 60 (s.modCtx 0 fun c => { c with swd := 40 });
            (gangOf s).atS && decide (40 * tickUs < (gangOf s).wdMeasure s.now))
        -- A gang that another's kill stopped, and one of the killing gang.
        && notNow (.externalWaitTimeout 0 0) (still (fun h => { withThreads (fun t => { t with st := .pop 2 }) h with killed := some 1 }) (atTime 60))
        && notNow (.externalWaitTimeout 0 0) (still id) && notNow (.supervisorWatchdog 0 0) (still id)) = true := by decide +kernel
/-- Two dies, with unplaced sheets of the launch given to each. -/
def twoDies (a b : List Run) (s : State) : State :=
  { s.modLaunch 0 (fun l => { l with unplaced := [(0, a), (1, b)], left := 9, queued := true }) with
    dies := [(0, { rank := 0, x := 0, y := 0 }), (1, { rank := 1, x := 1, y := 0 })] }
/-- The sheet is saved, on the restore list of die 0. -/
def setAside (s : State) : State :=
  { s with sheets := tabMod 0 (fun h => { h with home := .saved }) s.sheets
           dies := tabMod 0 (fun d => { d with restore := [(0, 0)] }) s.dies }
/-- Every thread of the sheet has exited. -/
def ended (h : Sheet) : Sheet := withThreads (fun t => { t with st := .exited }) h
theorem witness_Scheduling :
    (let some_ : List Run := [{ lo := 3, step := 1, count := 4 }];
      let late (s : State) : State := atTime 6 { s with clusters := tabMod 0 (fun c => { c with quarantined := true }) s.clusters };
      ((tabGet 0 (still id).clusters).any fun c => (still id).cycleDue 0 c && c.windowLeft == 0 && !c.half)
        && !(still id).closing 0
        && (still id).ctxs.all (fun c => decide (c.2.rank < 4)) && (still id).launches.all (fun l => decide (l.2.prio < 8)) && ((still id).partOf 0).isSome
        && (still id).placeStop == none && (still id).askedOn 0 == none && (tabGet 0 (still id).dies).isSome && ((still id).need (.new 0 3)).isSome
        && ((still id setAside).need (.saved 0)).isSome && (still id (twoDies some_ [])).bestCluster 0 (.new 0 3) == some 0
        && ((still id setAside).placeable 0).any (fun p => p.1 == .saved 0)
        && ((still id (twoDies some_ [])).placeable 0).any (fun p => p.1 == .new 0 3)
        && runsHead some_ == some 3
        && ((still id (twoDies [] some_)).asking 0).isSome && ((still id (twoDies [] [])).asking 0).isSome
        && (still id (twoDies [] some_)).retries 0 == false
        && (still id fun s => { twoDies [] some_ s with dies := tabMod 0 (fun d => { d with steal := .resting 0 }) (twoDies [] some_ s).dies }).retries 0
        && (still id fun s => late (setAside s)).passes 0 0
        && ([Request.drain 0, .save, .flush].all fun r => answers (match r with | .drain _ => .drainTimeout 0 | .flush => .flush 0 | _ => .save 0) (still fun h => { h with request := r }))
        && (still ended).sheetDone 0 (sheetOf (still ended)) && (sheetOf (still ended)).replay.isNone
        && answers (.launchRetire 0) (still id fun s => s.modLaunch 0 fun l => { l with left := 0, eligible := some 0 })) = true := by decide +kernel
theorem witness_Preemption :
    ((still id fun s => { s with
        launches := [(0, placedLaunch [] false), (1, { placedLaunch [] false with prio := 3, unplaced := [(0, [{ lo := 0, step := 1, count := 1 }])], queued := true })]
        sheets := tabMod 0 (fun h => { h with gangs := (List.range 128).map fun n => (n, placedGang false) }) s.sheets }).preemption 0).isSome = true := by
  decide +kernel
theorem witness_UnitsAndFabric :
    (let x : Audit := { sheet := placedSheet false false 0, sigs := [(0, 5)], running := some 0 };
      let replays : State := still (fun h => { ended h with replay := some 3 }) fun s => { s with audits := [(3, x), (4, { x with running := none, writes := true, rewrite := some 0 })] };
      let moves : State := still id fun s => { s with migrations := [(2, { ctx := 0, page := 0, src := placedPage 0, dst := placedPage 9 }), (3, { ctx := 0, page := 0, src := 0, dst := 0 }), (4, { ctx := 0, page := 7, src := 0, dst := 0 })] };
      let judged (xs : List (Nat × Nat)) : State := (still id).judge 3 { sheet := placedSheet false false 0, sigs := xs };
      let coded : State := still (fun h => { h with bad := [.spad 0 8] }) fun s => s.modCluster 0 fun c => { c with ecc := (0, 1) };
      let live : ClusterTest := { dx := 0, dy := 0, cx := 0, cy := 0, aw := 64, lgr := 128, lln := 64, igang := 0, ratio := 0, didt := 0, sealed := true };
      let far : State := still id fun s => { s with steward := { s.steward with regions := [(5, { ctx := 0, base := 0, len := 64 })] } };
      answers (.rollback 0 0 false) (still id fun s => { s with shadows := [(0, { sheet := sheetOf s, bad := true })] })
        && (sheetOf (still id)).killed.isNone && State.reset.keys.isEmpty && State.reset.atoms.isEmpty && (far.atom (placedPage 0)) == {}
        && testLive live && (still id).steward.up && (still id).dryReplay (some 0) == false
        && (sheetOf ((still id).poisonPool (0, .vec 0 2 3))).bad == [.vec 0 2 3]
        && (sheetOf (run (.eccReencode (.pool 0) { pool := [(0, .spad 40 4)] }) coded)).bad == [.spad 0 32, .spad 32 32]
        && replays.dryReplay (some 0) && (judged [(0, 5), (1, 5)]).audits.isEmpty
        && !(judged [(0, 5), (1, 6), (2, 5)]).clusters.any (·.2.quarantined) && (judged [(0, 5), (1, 6), (2, 6)]).clusters.any (·.2.quarantined)
        && (sheetOf (judged [(0, 5), (1, 6), (2, 6)])).request == .save && !(judged [(0, 5), (1, 6), (2, 7)]).clusters.any (·.2.quarantined)
        && Memory.wf moves.mem && risingFrom 0 moves.atoms && ((still id).atom (placedPage 0)).key == 0
        && (tabGet 0 (still id).clusters).any (fun c => c.didt == 0 && c.retainsAt 0 0 == 20 * tickUs)
        && notNow (.retentionEntry 0) (still ended fun s => atTime 3 (s.modCluster 0 fun c => { c with idleAt := some 0 }))
        && notNow (.reAdmission (.die 0)) (still id) && notNow (.reAdmission (.steward 1)) (still id)
        && notNow (.reAdmission (.peer 3)) (still id fun s => { s with parts := tabMod 0 (fun p => { p with devices := [3] }) s.parts })
        && answers (.reAdmission (.steward 1)) (still id fun s => { s with ctxs := [] })
        && (sheetOf (still id)).ivl.recoverable && (still id).sliceCode 64 != 1
        && (still id fun s => s.modCluster 0 fun c => { c with ecc := (0, 1) }).clusters.any (fun c => c.2.ecc.1 != c.2.ecc.2)
        && (still id fun s => s.modDie 0 fun d => { d with ecc := [(4, (0, 1))] }).dies.any (fun d => tabGet 4 d.2.ecc == some (0, 1))
        && replays.replayOver 0 (sheetOf replays) && (tabGet 4 replays.audits).any (fun x => (replays.replayCluster x).isSome)
        && (moves.leafNow 0 0).any (fun l => l.pa == placedPage 0) && (moves.leafNow 0 7).isNone
        && (moves.dies.all fun d => d.2.boostAt ≤ moves.now && d.2.idle != 5) && answers (.permitRefill 0) (still id fun s => s.modDie 0 fun d => { d with idle := 5 })
        && (let s := still ended fun s => atTime 30 (s.modCluster 0 fun c => { c with idleAt := some 0 }); s.idleCluster 0 && answers (.retentionEntry 0) s)
        && (let s := still id fun s => s.modCluster 0 fun c => { c with retained := true }; s.wakes 0)
        && !State.reset.steward.up && (still id).regionFor 5 0 8 == none && (far.regionFor 5 0 8).isSome
        && (match far.checkAccess (far.firmware 0) [{ lane := 0, va := 0, size := 1, kind := .read }] with | .ok (xs, t) => xs.all fun x => !t.poisoned (x.2.phys x.1.va) 8 && !t.unreach (x.2.phys x.1.va) | .error _ => false)
        && (match far.checkAccess (far.firmware 0) [{ lane := 0, va := 0, size := 1, kind := .write }] with | .ok _ => true | .error _ => false)
        && answers (.linkUnreachable 3) (still id)
        && answers (.reAdmission (.die 0)) (still id fun s => { s with ctxs := [] }) && answers (.reAdmission (.peer 3)) (still id)) = true := by decide +kernel
/-- A sender's header, and the package whose lease it holds. -/
def hdr : CmdHdr := { key := 9, seq := 1 }
def leased (p : State → State := id) : State :=
  still id fun s => p { s with steward := { s.steward with keys := [9, 10], pen := some 9, leaseEnd := tickUs } }
/-- The status of the reply. -/
def told (i : Instr) (s : State) : Option Nat := ((run i s).steward.outbox.getLast?).map (·.stat)
def le (n x : Nat) : List Byte := toBytesLE n x
/-- A checkpoint of a partition that held nothing. -/
def emptyCheckpoint : Checkpoint :=
  { part := 0, grant := { x0 := 0, y0 := 0, x1 := 7, y1 := 5, winBase := 0, winSize := 0, ranges := [], devices := [] }, mem := [], atoms := [], ctxs := [], launches := []
    sheets := [], shadows := [], msgs := [], packets := [], markers := [], raster := [], replicas := [], audits := [], images := [] }
theorem witness_StewardCommands :
    (let s := leased;
      told (.heartbeat hdr []) (leased fun s => { s with steward := { s.steward with badConfig := true } }) == some 1
        && told (.heartbeat { hdr with key := 10 } []) s == some 3 && told (.claim hdr (le 32 0)) s == some 0
        && told (.claim { hdr with key := 8 } (le 32 0)) s == some 3 && told (.heartbeat hdr []) s == some 0 && told (.handover hdr (le 32 10)) s == some 0
        && ((partitionOf (le 24 (2 + 2 ^ 8 * 0) ++ le 8 0)).any fun p => (tabGet p.1 s.parts).isNone)
        && ((partitionOf (le 32 0)).any fun p => (tabGet p.1 s.parts).isSome)
        && told (.partEnd hdr (le 4 0)) s == some 0
        && told (.ctxCreate hdr (le 4 5 ++ le 4 1 ++ le 24 0 ++ le 4 2 ++ le 4 0)) s == some 0
        && told (.ctxEnd hdr (le 4 0)) s == some 0
        && told (.preempt hdr (le 4 0 ++ le 4 9 ++ le 8 0 ++ le 4 1 ++ le 4 0 ++ le 8 0)) s == some 0
        && (s.leafNow 0 0).any (fun l => l.pl == 1 && !l.block && s.pageDie l.pa == 0 && paDevice l.pa == s.steward.device) && (s.ctxDies 0).contains 0
        && told (.replicate hdr (le 8 0 ++ le 8 0)) s == some 0 && told (.migrate hdr (le 8 0 ++ le 8 0)) s == some 0
        && told (.status hdr []) s == some 0 && told (.attest hdr (le 32 5)) s == some 0 && told (.notices hdr (le 4 3)) s == some 0
        && told (.partCreate hdr (le 32 0)) (leased fun s => { s with parts := (List.range 16).filterMap fun n => (tabGet 0 s.parts).map fun p => (n, p) }) == some 8
        && told (.partCreate hdr (le 32 0)) s == some 7
        && told (.ctxCreate hdr (le 4 5 ++ le 4 1 ++ le 24 0 ++ le 4 2 ++ le 4 0)) (leased fun s => { s with ctxs := (List.range 64).map fun n => (n, placedCtx) }) == some 8
        && told (.ctxCreate hdr (le 4 0 ++ le 4 1 ++ le 24 0 ++ le 4 2 ++ le 4 0)) s == some 7
        && answers (.stewardLaunch hdr (le 8 0 ++ le 128 0)) s && answers (.stewardLaunch hdr (le 8 0 ++ le 128 65792)) (leased fun s => s.poisonWord (placedPage 1 + 256))
        && told (.replicate hdr (le 8 0 ++ le 8 0)) (leased fun s => { s with mem := putEntry s.mem placedL2 531 (placedPage 0) }) == some 0
        && told (.replicate hdr (le 8 0 ++ le 8 0)) (leased fun s => { s with mem := putEntry s.mem placedL2 515 (placedPage 0) }) == some 5
        && told (.migrate hdr (le 4 0 ++ le 4 1 ++ le 8 0)) (leased (twoDies [] [] ∘ fun s => { s with parts := tabMod 0 (fun p => { p with ranges := [] }) s.parts })) == some 5
        && ((leased (twoDies [] [])).ctxDies 0).contains 1
        && told (.clset hdr (le 4 2 ++ le 4 0 ++ le 4 2 ++ le 4 100)) s == some 0
        && answers (.checkpoint hdr (le 4 0)) s
        && told (.restore hdr (le 8 0 ++ le 8 4)) (leased fun s => { s with ctxs := [], steward := { s.steward with checkpoints := [(4, emptyCheckpoint)] } }) == some 0
        && !(leased fun s => { s with ctxs := [] }).clashes emptyCheckpoint
        && told (.restore hdr (le 8 0 ++ le 8 4)) (leased fun s => { s with steward := { s.steward with checkpoints := [(4, emptyCheckpoint)] } }) == some 7
        && (le 4 5 ++ le 4 0 ++ le 104 0).length == 112 && s.steward.fresh hdr && (s.reply 2 hdr 0 []).steward.seqs == [(9, 1)]
        && !(s.reply 2 hdr 0 []).steward.fresh hdr && (s.reply 2 hdr 3 []).steward.seqs.isEmpty
        && told (.region hdr (le 4 0 ++ le 4 1 ++ le 16 0 ++ le 4 5)) (leased fun s => { s with steward := { s.steward with regions := [(5, { ctx := 0, base := 0, len := 64 })] } }) == some 0
        && told (.clset hdr (le 4 3 ++ le 4 0 ++ le 4 3 ++ le 4 0x80000002)) s == some 0
        && told (.keyClear hdr (le 4 7)) s == some 0 && told (.keyGrant hdr (le 4 7 ++ le 4 5)) s == some 0
        && (tabGet 0 s.clusters).isSome && (tabGet 0 s.parts).isSome
        && (run (.reset hdr []) s).clusters.isEmpty
        && answers .leaseLapse (leased (atTime 2)) && answers (.checkpointComplete 4) (leased fun s => { s with steward := { s.steward with saving := some (4, 0, hdr) } })) = true := by
  decide +kernel
/-- A pad and a word of no instruction. -/
theorem witness_StepRunsTheDecoded :
    (let at_ (w : Nat) : Bool × Bool × Bool := let s := start w;
        match s.site with
        | none => (false, false, false)
        | some c => match (s.fetch c).1 with | .instr i => (i == .nop plain, false, false) | .pad => (false, true, false) | .trap .. => (false, false, true);
      (start atU).issue.isSome && (still id).issue.isNone && at_ atU == (true, false, false) && at_ 0xFFFFFFFF == (false, true, false)
        && at_ 0x7 == (false, false, true)
        && systemOpcode (Fields.unpack atSup).opc && (match fetched (.gang 0) false 128 (toBytesLE 8 atSup) with | .trap e _ => e.cause == 2 | _ => false)
        && (match fetched (.seq .m) false 128 (toBytesLE 16 0x01C070008040DD0C) with | .trap e _ => e.cause == 12 | _ => false)
        && systemOpcode (Fields.unpack atU).opc == false && atU % 4 != 3
        && (Fields.unpack onSeq).engineSubset .m && !(Fields.unpack 0x01C070008040DD0C).engineSubset .m) = true := by decide +kernel
/-- Well-formed instructions with operands at the ends of their ranges have an encoding, which decodes to them. -/
theorem witness_RoundTrip :
    (([.iadd never .i32 false (.v 191) (.reg (.v 191)) (.imm 0xFFFFFFFF), .bra plain (-64), .nop byP1, .mma plain .bf16 15 true 0 191 none] : List Instr).all fun i =>
        match encode i with
        | some w => i.wellFormed && decodeTableWord 0 w == some i && (encodeBytes i).any fun bs => bs.length == i.bytes
        | none => false) = true := by decide +kernel
theorem witness_MemoryForm : (Memory.wf (start atU).mem && answers (.nop plain) (start atU) && Memory.wf State.reset.mem) = true := by decide +kernel
/-- A lane that naps when its gang traps runs at U after ERET, not at S (R386). -/
theorem test_nap_ends_at_S :
    (let q : Gang := { threads := [(0, { pc := 8, clock := 0, st := .nap 5 }), (1, { pc := 16, clock := 0 })] };
      (((q.entered 0 0 1 3 0).wake [0]).threads).map fun t => (t.2.st, t.2.pc)) = [(.uRun, 8), (.running, 32)] := by decide
/-- Tables that are full and tables that are not, whatever their open sizes are. -/
theorem witness_StewardCommands_tables (r : Replica) (q : Region) :
    65536 ≤ ((List.replicate 65536 r).filter fun x => x.home = r.home).length ∧ Config.regionSlots ≤ (List.replicate Config.regionSlots (0, q)).length
      ∧ ([] : Tab Region).length < Config.regionSlots :=
  ⟨by rw [List.filter_replicate_of_pos (by simp), List.length_replicate], by rw [List.length_replicate], Nat.succ_pos _⟩
/-- A die on which the partition was granted one page, which is free. -/
theorem witness_StewardCommands_page :
    ((leased (twoDies [] [])).freePage { x0 := 0, y0 := 0, x1 := 7, y1 := 5, winBase := 0, winSize := 0, ranges := [(64000032768, 65536)], devices := [] } 1).isSome = true := by
  have h (n : Nat) : ((fun i => 4398046511104 * (leased (twoDies [] [])).steward.device + 65536 * (976563 + (n + i) % 1)) : Nat → Nat) = fun _ => 64000032768 := by
    funext i; rw [Nat.mod_one]; decide +kernel
  unfold State.freePage
  dsimp only
  generalize hr : List.flatMap _ _ = room
  have e : room = [(976563, 1)] := by rw [← hr]; decide +kernel
  subst e
  rw [List.findSome?_cons]
  dsimp only
  rw [h]
  decide +kernel

end Sys2Proof.Tests
end

section
/-! What completing an instruction leaves: settling the meetings of a gang changes no clock and no program counter, so no
context's time runs out by it. -/

namespace Sys2Proof.Machine

/-! ### Tables -/

theorem all_tabMod {α : Type} (f : Nat × α → Bool) {k : Nat} {g : α → α} (hg : ∀ v, f (k, v) = true → f (k, g v) = true)
    {l : List (Nat × α)} (h : l.all f = true) : (tabMod k g l).all f = true := by
  cases e : tabGet k l with
  | none => rwa [tabMod_none _ e]
  | some v =>
    rw [tabMod_some _ e]
    exact all_tabPut f (hg v (List.all_eq_true.1 h _ (tabGet_mem e))) h

theorem tabGet_tabMod {α : Type} (k q : Nat) (f : α → α) (l : List (Nat × α)) :
    tabGet q (tabMod k f l) = (tabGet q l).map fun v => if q = k then f v else v := by
  by_cases h : q = k
  · subst h; simp
  · simp [h, tabGet_tabMod_ne h]

theorem tabGet_map {α β : Type} (f : α → β) (k : Nat) (l : List (Nat × α)) :
    tabGet k (l.map fun p => (p.1, f p.2)) = (tabGet k l).map f := by
  induction l with
  | nil => rfl
  | cons p r ih =>
    simp only [List.map_cons, tabGet]
    split
    · rfl
    · exact ih

/-! ### Settling the meetings of a gang -/

/-- What meetings leave of a thread: its clock and its program counter. -/
def Thread.place (t : Thread) : Nat × Word := (t.clock, t.pc)

/-- The places of the threads of a table, by lane. -/
def placesOf (l : Tab Thread) : List (Nat × Nat × Word) := l.map fun p => (p.1, p.2.place)

theorem placesOf_tabMap {f : Nat → Thread → Thread} (hf : ∀ l t, (f l t).place = t.place) (l : Tab Thread) :
    placesOf (tabMap f l) = placesOf l := by
  simp [placesOf, tabMap, hf]

theorem tabGet_placesOf (k : Nat) (l : Tab Thread) : tabGet k (placesOf l) = (tabGet k l).map Thread.place :=
  tabGet_map ..

/-- `q'` is `q` but for what arrivals at meetings and releases of them change: whether threads run, their stacks, and
rejoin masks (R25). -/
structure Gang.SettlesTo (q q' : Gang) : Prop where
  atS : q'.atS = q.atS
  frame : q'.frame = q.frame
  yielded : q'.yielded = q.yielded
  regs : ∃ m, q'.regs = { q.regs with m := m }
  places : placesOf q'.threads = placesOf q.threads

theorem Gang.SettlesTo.refl (q : Gang) : q.SettlesTo q := ⟨rfl, rfl, rfl, ⟨_, rfl⟩, rfl⟩

theorem Gang.SettlesTo.trans {a b c : Gang} (h : a.SettlesTo b) (g : b.SettlesTo c) : a.SettlesTo c where
  atS := g.atS.trans h.atS
  frame := g.frame.trans h.frame
  yielded := g.yielded.trans h.yielded
  regs := by
    obtain ⟨m, hm⟩ := h.regs
    obtain ⟨n, hn⟩ := g.regs
    exact ⟨n, by rw [hn, hm]⟩
  places := g.places.trans h.places

theorem Gang.arrive_settlesTo (q : Gang) : q.SettlesTo q.arrive := by
  refine ⟨rfl, rfl, rfl, ⟨_, rfl⟩, ?_⟩
  dsimp only [Gang.arrive]
  exact placesOf_tabMap (fun _ t => by split <;> rfl) q.threads

theorem Gang.releaseMeeting_settlesTo (q : Gang) (e : Word × Fin 8) : q.SettlesTo (q.releaseMeeting e) := by
  refine ⟨rfl, rfl, rfl, ⟨_, rfl⟩, ?_⟩
  dsimp only [Gang.releaseMeeting]
  exact placesOf_tabMap (fun _ t => by split <;> rfl) q.threads

theorem Gang.settleGo_settlesTo (n : Nat) (q : Gang) : q.SettlesTo (Gang.settleGo n q) := by
  induction n generalizing q with
  | zero => exact .refl q
  | succ n ih =>
    rw [Gang.settleGo]
    split
    · exact q.arrive_settlesTo
    · exact (q.arrive_settlesTo.trans (q.arrive.releaseMeeting_settlesTo _)).trans (ih _)

theorem Gang.settle_settlesTo (q : Gang) : q.SettlesTo q.settle := by
  unfold Gang.settle
  split
  · exact .refl q
  · exact q.settleGo_settlesTo 513

/-! ### Moving the lanes of a gang -/

/-- The change of a lane that completion makes before meetings settle: one that runs goes to its next offset (R212). -/
def Thread.advance (next : Nat → Word) (l : Nat) (t : Thread) : Thread :=
  if t.st == TState.running then { t with pc := next l, again := none } else t

theorem Thread.advance_place (next : Nat → Word) (l : Nat) (t : Thread) :
    (t.advance next l).place = (t.clock, if t.st = .running then next l else t.pc) := by
  by_cases h : t.st = .running <;> simp [Thread.advance, Thread.place, h]

theorem Thread.advance_advance (next : Nat → Word) (l : Nat) (t : Thread) :
    (t.advance next l).advance next l = t.advance next l := by
  by_cases h : t.st = .running <;> simp [Thread.advance, h]

/-- A change of lanes that is the same done twice is made once in each lane of the list. -/
theorem Gang.tabGet_modThreads {f : Nat → Thread → Thread} (hf : ∀ l t, f l (f l t) = f l t) (q : Gang) (ls : List Nat) (l : Nat) :
    tabGet l (q.modThreads ls f).threads = (tabGet l q.threads).map fun t => if l ∈ ls then f l t else t := by
  unfold Gang.modThreads
  induction ls generalizing q with
  | nil => simp
  | cons a ls ih =>
    rw [List.foldl_cons, ih, Gang.modThread, tabGet_tabMod, Option.map_map]
    congr 1
    funext t
    by_cases h : l = a
    · subst h; simp [hf]
    · simp [h]

/-- No thread of the gang has a clock above `b`. -/
def Gang.clocksLe (b : Nat) (q : Gang) : Bool := q.threads.all fun p => p.2.clock ≤ b

theorem Gang.clocksLe_modThreads {f : Nat → Thread → Thread} (hf : ∀ l t, (f l t).clock = t.clock) {q : Gang} (ls : List Nat) {b : Nat}
    (h : q.clocksLe b = true) : (q.modThreads ls f).clocksLe b = true := by
  unfold Gang.modThreads
  induction ls generalizing q with
  | nil => exact h
  | cons a ls ih => exact ih (all_tabMod _ (fun v hv => by simpa [hf] using hv) h)

theorem Gang.SettlesTo.clocksLe {q q' : Gang} (h : q.SettlesTo q') (b : Nat) : q'.clocksLe b = q.clocksLe b := by
  have e (g : Gang) : g.clocksLe b = (placesOf g.threads).all fun p => p.2.1 ≤ b := by
    simp [Gang.clocksLe, placesOf, Thread.place, List.all_map, Function.comp_def]
  rw [e, e, h.places]

/-- A moved gang is settled from one whose lanes advanced, with the registers and the yield flag the instruction left. -/
theorem Gang.settlesTo_moved (q : Gang) (lanes : List Nat) (i : Instr) (W lane at_ : Nat) (r : Regs) (next : Nat → Word) :
    ∃ u : Gang, u.SettlesTo (q.moved lanes i W lane at_ r next) ∧ u.threads = (q.modThreads lanes (Thread.advance next)).threads
      ∧ u.atS = q.atS ∧ u.frame = q.frame ∧ u.yielded = (i.yields && q.yielded) ∧ u.regs = r :=
  ⟨_, Gang.settle_settlesTo _, rfl, Gang.modThreads_atS .., Gang.modThreads_frame .., rfl, rfl⟩

theorem Gang.moved_frame (q : Gang) (lanes : List Nat) (i : Instr) (W lane at_ : Nat) (r : Regs) (next : Nat → Word) :
    (q.moved lanes i W lane at_ r next).atS = q.atS ∧ (q.moved lanes i W lane at_ r next).frame = q.frame
      ∧ (q.moved lanes i W lane at_ r next).yielded = (i.yields && q.yielded)
      ∧ ∃ m, (q.moved lanes i W lane at_ r next).regs = { r with m := m } := by
  obtain ⟨u, hu, -, hS, hf, hy, rfl⟩ := q.settlesTo_moved lanes i W lane at_ r next
  exact ⟨hu.atS.trans hS, hu.frame.trans hf, hu.yielded.trans hy, hu.regs⟩

/-- A moved gang's lane keeps its clock; its counter is the next offset if it is in the list and ran (R212). -/
theorem Gang.tabGet_moved (q : Gang) (lanes : List Nat) (i : Instr) (W lane at_ : Nat) (r : Regs) (next : Nat → Word) (l : Nat) :
    (tabGet l (q.moved lanes i W lane at_ r next).threads).map Thread.place
      = (tabGet l q.threads).map fun t => (t.clock, if l ∈ lanes ∧ t.st = .running then next l else t.pc) := by
  obtain ⟨u, hu, ht, -⟩ := q.settlesTo_moved lanes i W lane at_ r next
  rw [← tabGet_placesOf, hu.places, tabGet_placesOf, ht, Gang.tabGet_modThreads (Thread.advance_advance next), Option.map_map]
  congr 1
  funext t
  by_cases h : l ∈ lanes
  · simp [h, Thread.advance_place]
  · simp [h, Thread.place]

theorem Gang.clocksLe_moved {q : Gang} (lanes : List Nat) (i : Instr) (W lane at_ : Nat) (r : Regs) (next : Nat → Word) {b : Nat}
    (h : q.clocksLe b = true) : (q.moved lanes i W lane at_ r next).clocksLe b = true := by
  obtain ⟨u, hu, ht, -⟩ := q.settlesTo_moved lanes i W lane at_ r next
  rw [hu.clocksLe, Gang.clocksLe, ht]
  exact Gang.clocksLe_modThreads (fun l t => congrArg Prod.fst (t.advance_place next l)) lanes h

/-! ### The clocks of a sheet -/

theorem foldl_max_le_iff (l : List Nat) (a b : Nat) : l.foldl max a ≤ b ↔ a ≤ b ∧ ∀ x ∈ l, x ≤ b := by
  induction l generalizing a with
  | nil => simp
  | cons x l ih => simp [ih, and_assoc]

theorem Sheet.topClock_le_iff (h : Sheet) (b : Nat) :
    h.topClock ≤ b ↔ h.gangs.all (fun p => p.2.clocksLe b) = true ∧ h.mseq.clock ≤ b ∧ h.cseq.clock ≤ b := by
  simp only [Sheet.topClock, Sheet.threads, maxOf, foldl_max_le_iff, Nat.max_le, Nat.zero_le, true_and, Gang.clocksLe,
    List.all_eq_true, decide_eq_true_eq, List.forall_mem_map, List.forall_mem_flatMap]

/-- Time that is not exhausted stays so while a sheet's context is the same and its clocks do not rise (R128). -/
theorem State.quiet_modSheet {s : State} (h : s.quiet) (k : Nat) {f : Sheet → Sheet} (hctx : ∀ v, (f v).ctx = v.ctx)
    (htop : ∀ v, (f v).topClock ≤ v.topClock) : (s.modSheet k f).quiet := by
  intro p hp
  obtain ⟨hx, hc⟩ := h p hp
  refine ⟨hx, ?_⟩
  simp only [State.clockEnds, List.any_eq_not_all_not, Bool.not_eq_false'] at hc ⊢
  refine all_tabMod _ (fun v hv => ?_) hc
  have hlt : ¬v.ctx = p.1 ∨ v.topClock < timeEnd := by simpa using hv
  simpa [hctx] using hlt.imp_right (htop v).trans_lt

/-! ### The sheet an instruction completes in -/

/-- The issuing sheet after completion: its gang or sequencer has moved on, and words written whole are lost no longer. -/
def Sheet.completed (h : Sheet) (c : Site) (i : Instr) (lane at_ : Nat) (next : Nat → Word) : Sheet :=
  Sheet.mended (match c.agent with
    | .gang g => h.modGang g fun q => q.moved c.view.enabled i c.sh.W lane at_ q.regs next
    | .seq k => h.modSeq k fun (q : Seq) => { q with pc := if q.st == SeqSt.running then next 0 else q.pc + BitVec.ofNat 32 i.bytes }) c i

section
variable (h : Sheet) (c : Site) (i : Instr) (lane at_ : Nat) (next : Nat → Word)

theorem Sheet.completed_gang {n : Nat} (ha : c.agent = .gang n) :
    h.completed c i lane at_ next
      = (h.modGang n fun q => q.moved c.view.enabled i c.sh.W lane at_ q.regs next).mended c i := by
  simp [Sheet.completed, ha]

/-- Nothing of the sheet changes but its gangs, its sequencers and which words are lost. -/
theorem Sheet.completed_eq : ∃ gs m q b,
    h.completed c i lane at_ next = { h with gangs := gs, mseq := m, cseq := q, bad := b } := by
  unfold Sheet.completed
  split
  · exact ⟨_, _, _, _, rfl⟩
  · next k _ => cases k <;> exact ⟨_, _, _, _, rfl⟩

theorem Sheet.completed_ctx : (h.completed c i lane at_ next).ctx = h.ctx := by
  obtain ⟨_, _, _, _, e⟩ := h.completed_eq c i lane at_ next
  rw [e]

theorem Sheet.completed_frame :
    (h.completed c i lane at_ next).spad = h.spad ∧ (h.completed c i lane at_ next).lines = h.lines
      ∧ (h.completed c i lane at_ next).bars = h.bars ∧ (h.completed c i lane at_ next).queues = h.queues
      ∧ (h.completed c i lane at_ next).counters = h.counters := by
  obtain ⟨_, _, _, _, e⟩ := h.completed_eq c i lane at_ next
  rw [e]
  exact ⟨rfl, rfl, rfl, rfl, rfl⟩

/-- Completion raises no clock. -/
theorem Sheet.completed_topClock_le : (h.completed c i lane at_ next).topClock ≤ h.topClock := by
  obtain ⟨hg, hm, hc⟩ := (h.topClock_le_iff h.topClock).1 le_rfl
  rw [Sheet.topClock_le_iff]
  unfold Sheet.completed
  split
  · exact ⟨all_tabMod _ (fun _ hq => Gang.clocksLe_moved _ i _ _ _ _ _ hq) hg, hm, hc⟩
  · next k _ => cases k <;> exact ⟨hg, hm, hc⟩

end

/-! ### The package an instruction completes in -/

/-- Completion is the end of the issue, perhaps a draw for the latency of a result from outside the registers (R472), and the
issuing sheet moving on; then contexts whose time is exhausted end (R128). -/
theorem State.finishAt_completed (s : State) (c : Site) (i : Instr) (next : Nat → Word) :
    ∃ n lane at_, (i.reaches = false → n = s.choices) ∧ s.finishAt c i next
      = (({ s with issue := none, choices := n }).modSheet c.sid fun h => h.completed c i lane at_ next).reap := by
  refine ⟨match c.agent with | .gang _ => if i.reaches then s.choices + 1 else s.choices | .seq _ => s.choices,
    s.laneOf c.sh, s.resultAt c.sh i, fun hr => by cases c.agent <;> simp [hr], ?_⟩
  unfold State.finishAt Sheet.completed
  refine congrArg State.reap ?_
  cases c.agent with
  | gang g =>
    cases i.reaches <;>
      simp only [State.modGang, State.modSheet, State.drew, tabMod_tabMod, Gang.moved, Gang.modThreads_regs, Gang.modThreads_yielded,
        Gang.modThreads_board, if_true, Bool.false_eq_true, if_false]
  | seq k => simp only [State.modSheet, tabMod_tabMod]

/-- With no context's time exhausted, completion is only the issuing sheet moving on: its clocks do not rise, so no time runs out. -/
theorem State.finishAt_quiet {s : State} (hq : s.quiet) (c : Site) (i : Instr) (next : Nat → Word) :
    ∃ n lane at_, (i.reaches = false → n = s.choices) ∧ s.finishAt c i next
      = ({ s with issue := none, choices := n }).modSheet c.sid fun h => h.completed c i lane at_ next := by
  obtain ⟨n, lane, at_, hn, e⟩ := s.finishAt_completed c i next
  have hq' : ({ s with issue := none, choices := n } : State).quiet := hq
  have hdone := State.quiet_modSheet hq' c.sid (fun h => h.completed_ctx c i lane at_ next)
    fun h => h.completed_topClock_le c i lane at_ next
  exact ⟨n, lane, at_, hn, e.trans (State.reap_quiet hdone)⟩

/-- Settles O28: completion changes the issuing sheet alone, in it the issuing gang alone, and settling the gang's meetings
keeps every lane's clock and counter. -/
theorem completion : Obligations.Completion := by
  intro s c i next hq
  obtain ⟨n, lane, at_, hn, e⟩ := State.finishAt_quiet hq c i next
  rw [e]
  refine ⟨rfl, rfl, rfl, rfl, rfl, rfl, rfl, rfl, rfl, rfl, rfl, hn, rfl, fun k hk => tabGet_tabMod_ne hk .., fun h hh => ?_⟩
  obtain ⟨hspad, hlines, hbars, hqueues, hcounters⟩ := h.completed_frame c i lane at_ next
  refine ⟨h.completed c i lane at_ next, (tabGet_tabMod_same ..).trans (congrArg _ hh), hspad, hlines, hbars, hqueues, hcounters,
    fun g hg => ?_⟩
  rw [h.completed_gang _ _ _ _ _ hg]
  refine ⟨rfl, rfl, fun j hj => tabGet_tabMod_ne hj .., fun q hgq => ?_⟩
  obtain ⟨hS, hf, hy, m, hm⟩ := q.moved_frame c.view.enabled i c.sh.W lane at_ q.regs next
  refine ⟨_, (tabGet_tabMod_same ..).trans (congrArg _ hgq), hS, hf, hy, ?_⟩
  rw [hm]
  refine ⟨rfl, rfl, rfl, rfl, rfl, fun l x hx => ?_⟩
  have hp := q.tabGet_moved c.view.enabled i c.sh.W lane at_ q.regs next l
  rw [hx, Option.map_some, Option.map_eq_some_iff] at hp
  obtain ⟨x', hx', hp⟩ := hp
  exact ⟨x', hx', congrArg Prod.fst hp, congrArg Prod.snd hp⟩

end Sys2Proof.Machine
end

section
/-! What the machine after reset and a sheet first placed hold (R31, R43, R457). -/

namespace Sys2Proof.Machine

/-- A table whose places all hold one value yields no other. -/
theorem eq_of_tabGet_map_const {α β : Type} {x v : α} {k : Nat} {l : List β} {f : β → Nat}
    (h : tabGet k (l.map fun i => (f i, x)) = some v) : v = x := by
  obtain ⟨_, _, e⟩ := List.mem_map.1 (tabGet_mem h)
  exact (congrArg Prod.snd e).symm

/-- p7 has a bit for each of 64 lanes and none above (R51). -/
theorem Regs.predAt_seven_eq (r : Regs) (l : Nat) : r.predAt 7 l = decide (l < 64) := by
  by_cases h : l < 64
  · simp [h]
  · rw [decide_eq_false h]
    exact BitVec.getLsbD_of_ge _ _ (by omega)

/-- Registers that nothing has written read zero (R31). -/
theorem Regs.blank_reads :
    (∀ r x, ({} : Regs).vec r x = 0) ∧ (∀ r, ({} : Regs).uni r = 0) ∧ (∀ r, ({} : Regs).tile r = 0)
      ∧ (∀ p : Fin 8, p.val < 7 → ({} : Regs).pred p = 0) ∧ (∀ x, ({} : Regs).predAt 7 x = decide (x < 64))
      ∧ (∀ r, ({} : Regs).rejoin r = 0) ∧ ∀ a e, ({} : Regs).acc a e = 0 :=
  ⟨fun _ _ => rfl, fun _ => rfl, fun _ => rfl, fun _ hp => if_neg (Nat.ne_of_lt hp), Regs.predAt_seven_eq _, fun _ => rfl,
    fun _ _ => rfl⟩

section
variable {l : Launch} {launch index k : Nat} {c : Cluster} {d : Die} {ceil tag now : Nat}

/-- Every gang of a new sheet is at U with unwritten registers, each of its threads at the kernel's entry (R31, R43). -/
theorem freshSheet_gang {n : Nat} {q : Gang} (h : tabGet n (freshSheet l launch index k c d ceil tag now).gangs = some q) :
    q = { threads := (List.range (l.width c)).map fun n => (n, { pc := BitVec.ofNat 32 l.entry, clock := l.startClock }) } :=
  eq_of_tabGet_map_const h

/-- Only barrier 0 of a new sheet is valid (R31). -/
theorem freshSheet_bar_ne {b : Nat} (hb : b ≠ 0) : (freshSheet l launch index k c d ceil tag now).bar b = {} := by
  simp [freshSheet, Sheet.bar, tabGet, hb.symm]

end

/-- Settles O60: reset is the record of resting values, and every gang, thread and object of a new sheet is one of a kind. -/
theorem startStates : Obligations.StartStates := by
  refine ⟨⟨rfl, rfl, rfl, rfl, rfl, rfl, rfl, rfl, rfl, rfl, rfl, rfl, rfl, rfl, rfl, rfl, rfl, rfl, rfl⟩, ?_⟩
  intro l launch index k c d ceil tag now
  refine ⟨fun n q hq => ?_, fun _ => ⟨rfl, rfl, rfl⟩, fun _ => rfl, rfl, rfl, fun b hb => ?_, fun _ => rfl, fun _ => rfl, rfl, rfl, rfl⟩
  · obtain ⟨hvec, huni, htile, hpred, hseven, hrejoin, hacc⟩ := Regs.blank_reads
    rw [freshSheet_gang hq]
    refine ⟨rfl, hvec, huni, htile, hpred, hseven, hrejoin, hacc, fun x t ht => ?_⟩
    rw [eq_of_tabGet_map_const ht]
    exact ⟨rfl, rfl, rfl, rfl⟩
  · rw [freshSheet_bar_ne hb]

end Sys2Proof.Machine
end

section
/-! What a submission reads and answers (R37, R195 to R200), and what LAUNCH makes of the answer (R311). -/

namespace Sys2Proof.Machine

/-! ### Reading leaves the table of launches as it is -/

theorem foldl_launches {α : Type} (f : State → α → State) (h : ∀ s a, (f s a).launches = s.launches) (l : List α) (s : State) :
    (l.foldl f s).launches = s.launches := by
  induction l generalizing s with
  | nil => rfl
  | cons a l ih => rw [List.foldl_cons, ih, h]

@[simp] theorem State.observe_launches (s : State) (tag who cx : Option Nat) : (s.observe tag who cx).launches = s.launches := by
  unfold State.observe
  split <;> rfl

@[simp] theorem State.markRead_launches (s : State) (who : Option Nat) (v pa : Nat) (cx : Option Nat) :
    (s.markRead who v pa cx).launches = s.launches := by
  unfold State.markRead
  simp only
  split
  · simp
  · rfl

@[simp] theorem State.markReads_launches (s : State) (who : Option Nat) (v : Nat) (pas : List Nat) (cx : Option Nat) :
    (s.markReads who v pas cx).launches = s.launches :=
  foldl_launches _ (fun _ _ => State.markRead_launches ..) _ _

@[simp] theorem State.stewardTime_launches (s : State) (w : Issuer) (t : Nat) : (s.stewardTime w t).launches = s.launches := by
  unfold State.stewardTime
  split <;> rfl

@[simp] theorem State.walk_launches (s : State) (cx die c page : Nat) : (s.walk cx die c page).2.launches = s.launches := by
  unfold State.walk
  split
  · rfl
  · simp only
    rw [foldl_launches _ fun _ _ => by simp]
    split <;> rfl

@[simp] theorem State.leafOf_launches (s : State) (cx : Nat) (cl : Option Nat) (die c page : Nat) :
    (s.leafOf cx cl die c page).2.launches = s.launches := by
  unfold State.leafOf
  simp only
  repeat' split
  all_goals simp

@[simp] theorem State.translatePages_launches (s : State) (w : Issuer) (ps : List Nat) (m : Tab Translated) :
    (s.translatePages w ps m).2.launches = s.launches := by
  induction ps generalizing s m with
  | nil => rfl
  | cons p ps ih =>
    simp only [State.translatePages]
    split
    · exact ih s m
    · rw [ih, State.leafOf_launches]

@[simp] theorem State.counterLeaf_launches (s : State) (w : Issuer) (va : Nat) : (s.counterLeaf w va).2.launches = s.launches := by
  unfold State.counterLeaf
  dsimp only
  split
  · rfl
  · simp

/-- A reading that answers `q`, its package at `f` of the result, leaves the table of launches as it is in `s`, whether it
fails or not. -/
structure KeepsLaunches {ε α : Type} (s : State) (f : α → State) (q : Except (ε × State) α) : Prop where
  error : ∀ e, q = .error e → e.2.launches = s.launches
  ok : ∀ t, q = .ok t → (f t).launches = s.launches

theorem KeepsLaunches.of_error {ε α : Type} {s : State} {f : α → State} {e : ε × State} (h : e.2.launches = s.launches) :
    KeepsLaunches s f (.error e) :=
  ⟨fun _ he => by cases he; exact h, fun _ he => by cases he⟩

theorem KeepsLaunches.of_ok {ε α : Type} {s : State} {f : α → State} {t : α} (h : (f t).launches = s.launches) :
    KeepsLaunches (ε := ε) s f (.ok t) :=
  ⟨fun _ he => (by cases he), fun _ ht => by cases ht; exact h⟩

theorem State.checkAccess_keepsLaunches (s : State) (w : Issuer) (reqs : List Req) :
    KeepsLaunches s (·.2) (s.checkAccess w reqs) := by
  unfold State.checkAccess
  simp only
  have h := s.translatePages_launches w (reqs.map fun r => r.va / 65536) w.known
  split
  · exact .of_error rfl
  split
  · exact .of_error rfl
  split
  · exact .of_error h
  split
  · exact .of_error h
  split
  · exact .of_error h
  · exact .of_ok h

theorem State.readSpan_keepsLaunches (s : State) (w : Issuer) (va n z : Nat) :
    KeepsLaunches s (·.2.2) (s.readSpan w va n z) := by
  unfold State.readSpan
  simp only
  split
  · next h => exact .of_error ((State.checkAccess_keepsLaunches ..).error _ h)
  · next h =>
    have h1 := (State.checkAccess_keepsLaunches ..).ok _ h
    split
    · exact .of_error h1
    · exact .of_ok (by simpa using h1)

/-- The first word of a patched instruction, and the second where there is one (R199). -/
def State.readInstrStart (s : State) (w : Issuer) (at_ : Nat) : Except (Unread × State) (List Byte × Issuer × State) :=
  match s.readSpan w at_ 4 4 with
  | .error e => .error e
  | .ok (x, w, s) =>
    if ofBytesLE x % 4 = 2 then (s.readSpan w (at_ + 4) 4 4).map fun (y : List Byte × Issuer × State) => (x ++ y.1, y.2)
    else .ok (x, w, s)

theorem State.readInstrStart_keepsLaunches (s : State) (w : Issuer) (at_ : Nat) :
    KeepsLaunches s (·.2.2) (s.readInstrStart w at_) := by
  unfold State.readInstrStart
  split
  · next h => exact .of_error ((State.readSpan_keepsLaunches ..).error _ h)
  · next x w1 s1 h =>
    have h1 := (State.readSpan_keepsLaunches ..).ok _ h
    split
    · cases h2 : s1.readSpan w1 (at_ + 4) 4 4 with
      | error e => exact .of_error (((State.readSpan_keepsLaunches ..).error _ h2).trans h1)
      | ok t => exact .of_ok (((State.readSpan_keepsLaunches ..).ok _ h2).trans h1)
    · exact .of_ok h1

/-- Reading the entry `i` of a patch table of bytes `bs`, with the instruction it names, after entries `ps` (R199). -/
def State.readPatch (k : Nat) (bs : List Byte) (ps : List PatchEntry) (w : Issuer) (s : State) (i : Nat) :
    Except (Unread × State) (List PatchEntry × Issuer × State) :=
  let e := ofBytesLE ((bs.drop (8 * i)).take 8)
  match s.readInstrStart w (k + bitsOf e 0 24 / 4 * 4) with
  | .error e => .error e
  | .ok (x, w, s) =>
    .ok (ps ++ [{ ioff := bitsOf e 0 24, poff := bitsOf e 24 16, wide := e.testBit 40, spare := bitsOf e 41 23, word := ofBytesLE x }], w, s)

/-- Reading one entry more, if none before it failed. -/
def State.thenPatch (k : Nat) (bs : List Byte) (q : Except (Unread × State) (List PatchEntry × Issuer × State)) (i : Nat) :
    Except (Unread × State) (List PatchEntry × Issuer × State) :=
  match q with
  | .error e => .error e
  | .ok (ps, w, s) => s.readPatch k bs ps w i

theorem State.readPatches_eq (s : State) (w : Issuer) (k : Nat) (h : Header) : s.readPatches w k h =
    if h.ptcnt = 0 then .ok ([], w, s)
    else match s.readSpan w (k + h.ptoff) (8 * h.ptcnt) (if h.ptoff % 8 = 0 then 8 else 1) with
      | .error e => .error e
      | .ok (bs, w, s) => (List.range h.ptcnt).foldl (State.thenPatch k bs) (.ok ([], w, s)) := rfl

theorem State.thenPatch_keepsLaunches {s : State} {q : Except (Unread × State) (List PatchEntry × Issuer × State)}
    (hq : KeepsLaunches s (·.2.2) q) (k : Nat) (bs : List Byte) (i : Nat) :
    KeepsLaunches s (·.2.2) (State.thenPatch k bs q i) := by
  unfold State.thenPatch
  split
  · exact .of_error (hq.error _ rfl)
  · have h1 := hq.ok _ rfl
    unfold State.readPatch
    simp only
    split
    · next h => exact .of_error (((State.readInstrStart_keepsLaunches ..).error _ h).trans h1)
    · next h => exact .of_ok (((State.readInstrStart_keepsLaunches ..).ok _ h).trans h1)

theorem State.foldl_thenPatch_keepsLaunches {s : State} (k : Nat) (bs : List Byte) (l : List Nat)
    {q : Except (Unread × State) (List PatchEntry × Issuer × State)} (hq : KeepsLaunches s (·.2.2) q) :
    KeepsLaunches s (·.2.2) (l.foldl (State.thenPatch k bs) q) := by
  induction l generalizing q with
  | nil => exact hq
  | cons i l ih => exact ih (State.thenPatch_keepsLaunches hq k bs i)

theorem State.readPatches_keepsLaunches (s : State) (w : Issuer) (k : Nat) (h : Header) :
    KeepsLaunches s (·.2.2) (s.readPatches w k h) := by
  rw [State.readPatches_eq]
  split
  · exact .of_ok rfl
  · split
    · next h => exact .of_error ((State.readSpan_keepsLaunches ..).error _ h)
    · next h => exact State.foldl_thenPatch_keepsLaunches k _ _ (.of_ok ((State.readSpan_keepsLaunches ..).ok _ h))

theorem State.readCounters_keepsLaunches (s : State) (w : Issuer) (l : List (Nat × Nat)) :
    KeepsLaunches s (·.2.2) (s.readCounters w l) := by
  induction l generalizing s w with
  | nil => exact .of_ok rfl
  | cons a l ih =>
    have h1 := State.counterLeaf_launches s w a.1
    unfold State.readCounters
    split
    · next h => rw [h] at h1; exact .of_error h1
    · next h =>
      rw [h] at h1
      split
      · next h2 => exact .of_error (((ih ..).error _ h2).trans h1)
      · next h2 => exact .of_ok (((ih ..).ok _ h2).trans h1)

theorem State.readSubmission_keepsLaunches (s : State) (w : Issuer) (r : LaunchRec) :
    KeepsLaunches s (·.2) (s.readSubmission w r) := by
  unfold State.readSubmission
  split
  · next h => exact .of_error ((State.readSpan_keepsLaunches ..).error _ h)
  next h1 =>
  have h1 := (State.readSpan_keepsLaunches ..).ok _ h1
  simp only
  split
  · next h => exact .of_error (((State.readSpan_keepsLaunches ..).error _ h).trans h1)
  next h2 =>
  have h2 := ((State.readSpan_keepsLaunches ..).ok _ h2).trans h1
  split
  · next h => exact .of_error (((State.readCounters_keepsLaunches ..).error _ h).trans h2)
  next h3 =>
  have h3 := ((State.readCounters_keepsLaunches ..).ok _ h3).trans h2
  split
  · next h => exact .of_error (((State.checkAccess_keepsLaunches ..).error _ h).trans h3)
  next h4 =>
  have h4 := ((State.checkAccess_keepsLaunches ..).ok _ h4).trans h3
  split
  · next h => exact .of_error (((State.readSpan_keepsLaunches ..).error _ h).trans h4)
  next h5 =>
  have h5 := ((State.readSpan_keepsLaunches ..).ok _ h5).trans h4
  split
  · next h => exact .of_error (((State.readPatches_keepsLaunches ..).error _ h).trans h5)
  next h6 => exact .of_ok (((State.readPatches_keepsLaunches ..).ok _ h6).trans h5)

/-! ### The conditions of the statuses (R37, R195 to R200) -/

theorem inSpace_iff {a : Nat} : inSpace a = true ↔ a < 2 ^ 48 := decide_eq_true_iff

theorem LaunchRec.recordOk_iff (r : LaunchRec) : r.recordOk = true ↔ r.spare = 0 ∧ r.ndep ≤ 4 ∧ r.kaddr < 2 ^ 48 ∧ r.paddr < 2 ^ 48
    ∧ (r.cpv = true → r.caddr < 2 ^ 48) ∧ ∀ d ∈ r.deps.take r.ndep, d.1 < 2 ^ 48 := by
  simp only [LaunchRec.recordOk, LaunchRec.used, Bool.and_eq_true, Bool.or_eq_true, Bool.not_eq_true', List.all_eq_true, inSpace_iff,
    beq_iff_eq, decide_eq_true_eq, and_assoc, ← imp_iff_not_or, Bool.eq_false_iff, ne_eq]

theorem LaunchRec.alignOk_iff (r : LaunchRec) : r.alignOk = true ↔ r.kaddr % 128 = 0 ∧ r.paddr % 16 = 0
    ∧ (r.cpv = true → r.caddr % 8 = 0) ∧ ∀ d ∈ r.deps.take r.ndep, d.1 % 8 = 0 := by
  simp only [LaunchRec.alignOk, LaunchRec.used, Bool.and_eq_true, Bool.or_eq_true, Bool.not_eq_true', List.all_eq_true,
    beq_iff_eq, and_assoc, ← imp_iff_not_or, Bool.eq_false_iff, ne_eq]

theorem Header.ok_iff (h : Header) : h.ok = true ↔ h.magic = 0x4B52444E ∧ h.ver = 1 ∧ h.spare = 0 ∧ h.entry % 4 = 0 ∧ h.mseq % 32 = 0
    ∧ h.cseq % 32 = 0 ∧ h.ptoff % 8 = 0 ∧ h.coff % 4 = 0 ∧ (h.mseqN = 0 → h.mseq = 0) ∧ (h.cseqN = 0 → h.cseq = 0)
    ∧ ¬(h.mseqN ≠ 0 ∧ h.cseqN ≠ 0 ∧ h.mseq < h.cseq + 32 * h.cseqN ∧ h.cseq < h.mseq + 32 * h.mseqN)
    ∧ ¬(h.mseq ≤ h.entry ∧ h.entry < h.mseq + 32 * h.mseqN) ∧ ¬(h.cseq ≤ h.entry ∧ h.entry < h.cseq + 32 * h.cseqN)
    ∧ h.ptcnt ≤ 1024 ∧ h.csize ≤ 61440 ∧ h.csize % 4 = 0 := by
  simp only [Header.ok, Bool.and_eq_true, Bool.or_eq_true, Bool.not_eq_true', Bool.and_eq_false_iff, decide_eq_false_iff_not,
    beq_iff_eq, decide_eq_true_eq, and_assoc, ne_eq]
  grind

theorem Header.shapeOk_iff (h : Header) : h.shapeOk = true ↔ h.gwid ∈ [8, 16, 32, 64] ∧ 1 ≤ h.nthr ∧ h.nthr ≤ 1024
    ∧ h.nthr % h.gwid = 0 ∧ h.nthr ≤ 64 * min h.gwid 16 ∧ h.psize ≤ 4096 ∧ h.psize % 4 = 0 := by
  simp only [Header.shapeOk, Bool.and_eq_true, Bool.or_eq_true, beq_iff_eq, decide_eq_true_eq, and_assoc, or_assoc, List.mem_cons,
    List.not_mem_nil, or_false]

theorem patchOk_iff (psize : Nat) (all : List PatchEntry) (p : PatchEntry) : patchOk psize all p = true ↔ p.spare = 0 ∧ p.ioff % 4 = 0
    ∧ p.poff % 4 = 0 ∧ p.poff + (if p.wide then 8 else 4) ≤ psize ∧ (all.filter fun q => q.ioff = p.ioff).length = 1
    ∧ (if p.wide then p.word % 4 = 2 ∧ p.word / 2 ^ 58 % 4 ≠ 0 else p.word % 4 = 1) := by
  have hfilter : (all.filter fun q => q.ioff == p.ioff) = all.filter fun q => q.ioff = p.ioff := rfl
  have hsel : patchOk.isel p.word ≠ 0 ↔ p.word / 2 ^ 58 % 4 ≠ 0 := Iff.rfl
  cases hw : p.wide <;>
    simp only [patchOk, hfilter, hw, hsel, Bool.and_eq_true, beq_iff_eq, decide_eq_true_eq, and_assoc, if_true, Bool.false_eq_true,
      if_false]

theorem State.poolOk_iff (s : State) (cx pool : Nat) : s.poolOk cx pool = true ↔ 4 ≤ pool % 256 ∧ pool / 2 ^ 16 % 256 ≤ 32
    ∧ poolGranules pool ≤ 128 ∧ pool < 2 ^ 24
    ∧ ∃ k ∈ s.ctxClusters cx, ∃ q, tabGet k s.clusters = some q ∧ poolGranules pool ≤ q.lgr := by
  have hhigh : pool / 16777216 = 0 ↔ pool < 2 ^ 24 := by omega
  simp only [State.poolOk, Bool.and_eq_true, beq_iff_eq, decide_eq_true_eq, List.any_eq_true, Option.any_eq_true, hhigh, and_assoc,
    Nat.reducePow]

/-- Whether the queue of a context holds 256 launches of a priority (R37). -/
theorem queueFull_iff (l : Tab Launch) (cx prio : Nat) :
    256 ≤ (l.filter fun p => p.2.ctx == cx && p.2.queued && p.2.prio == prio).length
      ↔ 256 ≤ (l.filter fun p => p.2.ctx = cx ∧ p.2.queued = true ∧ p.2.prio = prio).length := by
  rw [List.filter_congr fun p _ => show _ = decide (p.2.ctx = cx ∧ p.2.queued = true ∧ p.2.prio = prio) by
    simp [Bool.beq_eq_decide_eq, Bool.and_assoc]]

/-! ### Acceptance (R39, R402, R403) -/

@[simp] theorem State.tryEligible_nextId (s : State) (k : Nat) : (s.tryEligible k).nextId = s.nextId := by
  unfold State.tryEligible
  repeat' split
  all_goals rfl

/-- Making a launch eligible leaves it queued under its identity, for its context. -/
theorem State.tryEligible_launch {s : State} {k : Nat} {l : Launch} (h : tabGet k s.launches = some l) :
    ∃ l', tabGet k (s.tryEligible k).launches = some l' ∧ l'.ctx = l.ctx := by
  simp only [State.tryEligible, h]
  split
  · exact ⟨_, (tabGet_tabMod_same ..).trans (congrArg _ h), rfl⟩
  · exact ⟨l, h, rfl⟩

/-- The package after a submission is accepted: each counter's present value is read, and the launch is queued (R39, R402,
R403). -/
def State.accepted (s : State) (cx : Nat) (w : Issuer) (x : Submission) : State :=
  let (deps, s) := x.counters.foldl (fun (q : List Dep × State) d =>
    let (e, s) := q.2.acceptDep cx w.clk d
    (q.1 ++ [e], s)) ([], s)
  let s := s.stewardTime w (maxOf (x.counters.map fun d => (s.atom (d.2.2.phys d.1)).e))
  let k := s.nextId
  let s := { s with nextId := k + 1, launches := tabPut k (x.launch cx w.clk deps) s.launches }
  s.tryEligible k

theorem State.accepted_launch (s : State) (cx : Nat) (w : Issuer) (x : Submission) :
    ∃ k l, tabGet k (s.accepted cx w x).launches = some l ∧ l.ctx = cx ∧ (s.accepted cx w x).nextId = k + 1 := by
  unfold State.accepted
  simp only
  generalize List.foldl _ _ _ = q
  obtain ⟨l, hl, hctx⟩ := State.tryEligible_launch (s := { q.2.stewardTime w _ with nextId := _, launches := _ }) (tabGet_tabPut_same ..)
  exact ⟨_, l, hl, hctx, State.tryEligible_nextId ..⟩

/-! ### What a submission answers (R37) -/

section
variable {s u : State} {cx : Nat} {w : Issuer} {bs : List Byte} {x : Submission}

theorem State.submit_malformed (h : (LaunchRec.of bs).recordOk = false) : s.submit cx w bs = .ok (1, s) := by
  simp [State.submit, h]

theorem State.submit_misaligned (hr : (LaunchRec.of bs).recordOk = true) (ha : (LaunchRec.of bs).alignOk = false) :
    s.submit cx w bs = .ok (2, s) := by
  simp [State.submit, hr, ha]

variable (hr : (LaunchRec.of bs).recordOk = true) (ha : (LaunchRec.of bs).alignOk = true)
include hr ha

theorem State.submit_unread (h : s.readSubmission w (LaunchRec.of bs) = .error (.xlate, u)) : s.submit cx w bs = .ok (3, u) := by
  simp [State.submit, hr, ha, h]

theorem State.submit_lost {e : Trap} (h : s.readSubmission w (LaunchRec.of bs) = .error (.lost e, u)) :
    s.submit cx w bs = .error (e, u) := by
  simp [State.submit, hr, ha, h]

/-- A record whose data are read answers its status, and is queued exactly when that is 0. -/
theorem State.submit_read (h : s.readSubmission w (LaunchRec.of bs) = .ok (x, u)) : s.submit cx w bs =
    .ok (if u.submissionStatus cx x = 0 then (0, u.accepted cx w x) else (u.submissionStatus cx x, u)) := by
  by_cases h0 : u.submissionStatus cx x = 0 <;> simp [State.submit, State.accepted, hr, ha, h, h0]

end

theorem State.submissionStatus_le (s : State) (cx : Nat) (x : Submission) : s.submissionStatus cx x ≤ 8 := by
  unfold State.submissionStatus
  simp only
  repeat' split
  all_goals decide

/-- A submission that takes no trap either answers a status from 1 to 8 and leaves the table of launches as it was, or answers 0
and queues the launch. -/
theorem State.submit_cases {s u : State} {cx n : Nat} {w : Issuer} {bs : List Byte} (h : s.submit cx w bs = .ok (n, u)) :
    (n ≠ 0 ∧ n ≤ 8 ∧ u.launches = s.launches) ∨ (n = 0 ∧ ∃ v x, u = State.accepted v cx w x) := by
  cases hr : (LaunchRec.of bs).recordOk with
  | false =>
    rw [State.submit_malformed hr] at h
    cases h
    exact .inl ⟨by decide, by decide, rfl⟩
  | true =>
  cases ha : (LaunchRec.of bs).alignOk with
  | false =>
    rw [State.submit_misaligned hr ha] at h
    cases h
    exact .inl ⟨by decide, by decide, rfl⟩
  | true =>
  have hkeeps := s.readSubmission_keepsLaunches w (LaunchRec.of bs)
  match hq : s.readSubmission w (LaunchRec.of bs) with
  | .error (.xlate, v) =>
    rw [State.submit_unread hr ha hq] at h
    cases h
    exact .inl ⟨by decide, by decide, hkeeps.error _ hq⟩
  | .error (.lost e, v) =>
    rw [State.submit_lost hr ha hq] at h
    cases h
  | .ok (x, v) =>
    rw [State.submit_read hr ha hq] at h
    split at h
    · cases h
      exact .inr ⟨rfl, v, x, rfl⟩
    · next h0 =>
      cases h
      exact .inl ⟨h0, State.submissionStatus_le .., hkeeps.ok _ hq⟩

/-! ### What a submission reads, in its order (R37, R196) -/

section
variable {s s1 s2 s3 : State} {w w1 w2 w3 : Issuer} {r : LaunchRec} {hb ps : List Byte}

theorem State.readSubmission_header_error {e : Unread × State} (h : s.readSpan w r.kaddr 128 32 = .error e) :
    s.readSubmission w r = .error e := by
  simp [State.readSubmission, h]

variable (h1 : s.readSpan w r.kaddr 128 32 = .ok (hb, w1, s1))
include h1

theorem State.readSubmission_params_error {e : Unread × State}
    (h : s1.readSpan w1 r.paddr (Header.of hb).psize 4 = .error e) : s.readSubmission w r = .error e := by
  simp [State.readSubmission, h1, h]

variable (h2 : s1.readSpan w1 r.paddr (Header.of hb).psize 4 = .ok (ps, w2, s2))
include h2

theorem State.readSubmission_counters_error {e : Unread × State}
    (h : s2.readCounters w2 ((if r.cpv then [(r.caddr, 0)] else []) ++ r.used) = .error e) : s.readSubmission w r = .error e := by
  simp [State.readSubmission, h1, h2, h]

theorem State.readSubmission_entry_error {cs : List (Nat × Nat × Leaf)} {e : Trap} {v : State}
    (h3 : s2.readCounters w2 ((if r.cpv then [(r.caddr, 0)] else []) ++ r.used) = .ok (cs, w3, s3))
    (h : s3.checkAccess { w3 with atS := false }
      [{ lane := 0, va := (r.kaddr + (Header.of hb).entry) / 4 * 4, size := 4, kind := .fetch }] = .error (e, v)) :
    s.readSubmission w r = .error (.xlate, v) := by
  simp [State.readSubmission, h1, h2, h3, h]

end

/-! ### The status once everything is read (R37) -/

/-- A patch table is valid (R199, R200). -/
theorem patches_iff (x : Submission) : x.patches.all (patchOk x.h.psize x.patches) = true ↔ ∀ p ∈ x.patches, p.spare = 0
    ∧ p.ioff % 4 = 0 ∧ p.poff % 4 = 0 ∧ p.poff + (if p.wide then 8 else 4) ≤ x.h.psize
    ∧ (x.patches.filter fun q => q.ioff = p.ioff).length = 1
    ∧ (if p.wide then p.word % 4 = 2 ∧ p.word / 2 ^ 58 % 4 ≠ 0 else p.word % 4 = 1) := by
  simp only [List.all_eq_true, patchOk_iff]

/-- The statuses from 4 on in their order: one applies where the conditions of those before it are met. -/
theorem State.submissionStatus_order (s : State) (cx : Nat) (x : Submission) :
    let valid := x.h.ok = true ∧ x.patches.all (patchOk x.h.psize x.patches) = true
    let fits := s.poolOk cx (if x.r.pov then x.r.poolov else x.h.pool) = true
    let full := 256 ≤ (s.launches.filter fun p => p.2.ctx == cx && p.2.queued && p.2.prio == x.r.prio).length
    let status := s.submissionStatus cx x
    (x.cm = true → status = 4) ∧ (x.cm = false → ¬valid → status = 5) ∧ (x.cm = false → valid → ¬x.h.shapeOk = true → status = 6)
    ∧ (x.cm = false → valid → x.h.shapeOk = true → ¬fits → status = 7)
    ∧ (x.cm = false → valid → x.h.shapeOk = true → fits → full → status = 8)
    ∧ (x.cm = false → valid → x.h.shapeOk = true → fits → ¬full → status = 0) := by
  simp only [State.submissionStatus]
  refine ⟨fun hm => ?_, fun hm hv => ?_, fun hm hv hs => ?_, fun hm hv hs hf => ?_, fun hm hv hs hf hq => ?_, fun hm hv hs hf hq => ?_⟩
  · rw [if_pos hm]
  · rw [if_neg (by simp [hm]), if_pos (by simpa only [Bool.or_eq_true, Bool.not_eq_true', Bool.eq_false_iff, ne_eq, ← not_and_or] using hv)]
  all_goals rw [if_neg (by simp [hm]), if_neg (by simp only [hv.1, hv.2]; decide)]
  · rw [if_pos (by simpa using hs)]
  all_goals rw [if_neg (by simp [hs])]
  · rw [if_pos (by simpa using hf)]
  all_goals rw [if_neg (by simpa using hf)]
  · rw [if_pos hq]
  · rw [if_neg hq]

/-! ### LAUNCH (R311) -/

/-- The address a LAUNCH reads its record at. -/
def launchAddr (v : View) (a : AddrOperand) : Nat :=
  match a with
  | .s n => (v.upair n).toNat
  | .imm64 w => w.toNat

/-- The package after a LAUNCH completes with a status (R311). -/
def State.launched (s : State) (c : Site) (i : Instr) (d : Fin 64) (n : Nat) : State :=
  (((s.putRegs c (c.view.regs.setUni d.val (BitVec.ofNat 32 n))).pinDown c.sid).noAudit c.sid).finish c i

/-- The trap of uncorrectable data that a LAUNCH reads (R434). -/
def Trap.ofLaunch (e : Trap) (c : Site) : Trap := { cause := 16, check := 9, lane := some c.view.lead, addr := e.addr, own := e.own }

section
variable {s t : State} {c : Site} {g : Guard} {d : Fin 64} {a : AddrOperand} (h : ActsOn (.launch g d a) g s t c)
include h

theorem execLaunch_misaligned (hva : launchAddr c.view a % 128 ≠ 0) :
    Raises (.launch g d a) s t c { cause := 3, check := 3, addr := launchAddr c.view a } := by
  rw [Raises, exec_launch, execLaunch, enterMemGang_of h]
  exact if_pos hva

variable (hva : launchAddr c.view a % 128 = 0)
include hva

/-- An aligned LAUNCH answers by what reading its record and submitting it give. -/
theorem execLaunch_aligned : exec (.launch g d a) s =
    match t.readSpan c.issuer (launchAddr c.view a) 128 32 with
    | .error (.xlate, u) => .next (u.launched c (.launch g d a) d 3)
    | .error (.lost e, u) => .next (u.raise c (.launch g d a) (e.ofLaunch c))
    | .ok (bs, w, u) => match u.submit c.sh.ctx w bs with
      | .error (e, u) => .next (u.raise c (.launch g d a) (e.ofLaunch c))
      | .ok (n, u) => .next (u.launched c (.launch g d a) d n) := by
  rw [exec_launch, execLaunch, enterMemGang_of h]
  exact (if_neg (not_not.2 hva)).trans rfl

end

/-- Settles O41: each status is the one whose condition is met first, and only acceptance queues a launch. -/
theorem launching : Obligations.Launching := by
  refine ⟨fun s t c g d a h => ⟨execLaunch_misaligned h, fun hva => ?_⟩, fun s cx w bs => ?_, fun s u cx w bs x hr ha => ?_,
    fun s s1 s2 s3 w w1 w2 w3 r hb ps cs => ?_⟩
  · have he := execLaunch_aligned h hva
    dsimp only
    split
    all_goals
      rename_i hq
      replace hq : t.readSpan c.issuer (launchAddr c.view a) 128 32 = _ := hq
      rw [hq] at he
    · exact he
    · exact he
    · dsimp only at he
      split
      all_goals
        rename_i hs
        rw [hs] at he
        exact he
  · refine ⟨LaunchRec.recordOk_iff _, LaunchRec.alignOk_iff _, State.submit_malformed, State.submit_misaligned, fun n u h => ?_⟩
    obtain ⟨h0, h8, hl⟩ | ⟨rfl, v, x, rfl⟩ := State.submit_cases h
    · exact ⟨h8, fun e => absurd e h0, fun _ => congrArg _ hl⟩
    · exact ⟨by decide, fun _ => v.accepted_launch cx w x, fun e => absurd rfl e⟩
  · refine ⟨fun v => State.submit_unread hr ha, fun e v => State.submit_lost hr ha, fun h => ?_⟩
    have hans := State.submit_read (cx := cx) hr ha h
    obtain ⟨h4, h5, h6, h7, h8, h0⟩ := u.submissionStatus_order cx x
    simp only [Header.ok_iff, patches_iff, Header.shapeOk_iff, State.poolOk_iff, queueFull_iff] at h4 h5 h6 h7 h8 h0
    have answer {n : Nat} (hn : n ≠ 0) (hst : u.submissionStatus cx x = n) : s.submit cx w bs = .ok (n, u) := by
      rw [hans, hst, if_neg hn]
    exact ⟨fun hm => answer (by decide) (h4 hm), fun hm hv => answer (by decide) (h5 hm hv),
      fun hm hh hp hs => answer (by decide) (h6 hm ⟨hh, hp⟩ hs), fun hm hh hp hs hf => answer (by decide) (h7 hm ⟨hh, hp⟩ hs hf),
      fun hm hh hp hs hf hq => answer (by decide) (h8 hm ⟨hh, hp⟩ hs hf hq),
      fun hm hh hp hs hf hq => ⟨u.accepted cx w x, by rw [hans, if_pos (h0 hm ⟨hh, hp⟩ hs hf hq)]⟩⟩
  · exact ⟨fun e => State.readSubmission_header_error, fun h1 => ⟨fun e => State.readSubmission_params_error h1, fun h2 =>
      ⟨fun e => State.readSubmission_counters_error h1 h2, fun h3 e v => State.readSubmission_entry_error h1 h2 h3⟩⟩⟩

end Sys2Proof.Machine
end

section
/-! The scheduling hardware's own steps (R174, R393 to R396, R404 to R410). -/

namespace Sys2Proof.Machine

/-! ### Sorting -/

theorem insertBy_perm {α : Type} (le : α → α → Bool) (x : α) (l : List α) : (insertBy le x l).Perm (x :: l) := by
  induction l with
  | nil => exact .refl _
  | cons y r ih =>
    simp only [insertBy]
    split
    · exact (ih.cons y).trans (.swap x y r)
    · exact .refl _

theorem sortBy_perm {α : Type} (le : α → α → Bool) (l : List α) : (sortBy le l).Perm l := by
  have h (r : List α) : (l.foldl (fun r x => insertBy le x r) r).Perm (l ++ r) := by
    induction l generalizing r with
    | nil => exact .refl _
    | cons x l ih =>
      exact (ih _).trans (((insertBy_perm le x r).append_left l).trans List.perm_middle)
  simpa [sortBy] using h []

@[simp] theorem mem_sortBy {α : Type} {le : α → α → Bool} {l : List α} {x : α} : x ∈ sortBy le l ↔ x ∈ l := (sortBy_perm le l).mem_iff

/-- A comparison that orders any two elements, and does so transitively. -/
structure Orders {α : Type} (le : α → α → Bool) : Prop where
  total : ∀ a b, le a b = false → le b a = true
  trans : ∀ a b c, le a b = true → le b c = true → le a c = true

theorem Orders.refl {α : Type} {le : α → α → Bool} (h : Orders le) (a : α) : le a a = true :=
  (Bool.eq_false_or_eq_true _).elim id (h.total a a)

theorem Orders.on {α β : Type} {le : α → α → Bool} (h : Orders le) (f : β → α) : Orders fun a b => le (f a) (f b) :=
  ⟨fun a b => h.total (f a) (f b), fun a b c => h.trans (f a) (f b) (f c)⟩

theorem orders_lexLe : Orders lexLe where
  total a := by
    induction a with
    | nil => intro b h; simp [lexLe] at h
    | cons x a ih =>
      intro b h
      cases b with
      | nil => rfl
      | cons y b =>
        have := ih b
        simp only [lexLe, Bool.or_eq_false_iff, decide_eq_false_iff_not, Bool.and_eq_false_iff, beq_eq_false_iff_ne, Bool.or_eq_true,
          decide_eq_true_eq, Bool.and_eq_true, beq_iff_eq] at h ⊢
        grind
  trans a := by
    induction a with
    | nil => intros; rfl
    | cons x a ih =>
      intro b c hab hbc
      cases b with
      | nil => simp [lexLe] at hab
      | cons y b =>
      cases c with
      | nil => simp [lexLe] at hbc
      | cons z c =>
        have := ih b c
        simp only [lexLe, Bool.or_eq_true, decide_eq_true_eq, Bool.and_eq_true, beq_iff_eq] at hab hbc ⊢
        grind

theorem orders_natLe : Orders fun a b : Nat => decide (a ≤ b) where
  total a b h := by simp only [decide_eq_false_iff_not, decide_eq_true_eq] at h ⊢; omega
  trans a b c hab hbc := by simp only [decide_eq_true_eq] at hab hbc ⊢; omega

section
variable {α : Type} {le : α → α → Bool} (hle : Orders le)
include hle

theorem pairwise_insertBy (x : α) {l : List α} (h : l.Pairwise fun a b => le a b = true) :
    (insertBy le x l).Pairwise fun a b => le a b = true := by
  induction l with
  | nil => exact List.pairwise_singleton ..
  | cons y r ih =>
    obtain ⟨hy, hr⟩ := List.pairwise_cons.1 h
    simp only [insertBy]
    split
    · next hyx =>
      refine List.pairwise_cons.2 ⟨fun z hz => ?_, ih hr⟩
      obtain rfl | hz := List.mem_cons.1 ((insertBy_perm le x r).mem_iff.1 hz)
      · exact hyx
      · exact hy z hz
    · next hyx =>
      have hxy := hle.total y x (by simpa using hyx)
      refine List.pairwise_cons.2 ⟨fun z hz => ?_, h⟩
      obtain rfl | hz := List.mem_cons.1 hz
      · exact hxy
      · exact hle.trans x y z hxy (hy z hz)

theorem pairwise_sortBy (l : List α) : (sortBy le l).Pairwise fun a b => le a b = true := by
  have h (r : List α) (hr : r.Pairwise fun a b => le a b = true) :
      (l.foldl (fun r x => insertBy le x r) r).Pairwise fun a b => le a b = true := by
    induction l generalizing r with
    | nil => exact hr
    | cons x l ih => exact ih _ (pairwise_insertBy hle x hr)
  exact h [] .nil

/-- The head of a sorted list is least. -/
theorem le_of_head?_sortBy {l : List α} {x y : α} (h : (sortBy le l).head? = some x) (hy : y ∈ l) : le x y = true := by
  obtain ⟨r, hr⟩ := List.head?_eq_some_iff.1 h
  have hs := pairwise_sortBy hle l
  rw [hr] at hs
  have hy : y ∈ x :: r := by rwa [← hr, mem_sortBy]
  obtain rfl | hy := List.mem_cons.1 hy
  · exact hle.refl _
  · exact (List.pairwise_cons.1 hs).1 y hy

end

/-! ### Weight windows (R174) -/

/-- How far after the last window's weight a weight comes in the cyclic order, from 0 to 3. -/
def windowLag (last w : Nat) : Nat := (w + 7 - last) % 4

theorem nextWindow_nil (last : Nat) : nextWindow last [] = (last + 1) % 4 := rfl

theorem windowLag_next {last k : Nat} (hl : last < 4) (hk : k < 4) : windowLag last ((last + (k + 1)) % 4) = k := by
  unfold windowLag
  omega

theorem next_windowLag {last w : Nat} (hl : last < 4) (hw : w < 4) : (last + (windowLag last w + 1)) % 4 = w := by
  unfold windowLag
  omega

/-- The window's weight is the nearest that a ready gang has. -/
theorem nextWindow_nearest {last : Nat} {ws : List Nat} (hl : last < 4) (hws : ∀ w ∈ ws, w < 4) (hne : ws ≠ []) :
    nextWindow last ws ∈ ws ∧ ∀ w ∈ ws, windowLag last (nextWindow last ws) ≤ windowLag last w := by
  have hlist : [1, 2, 3, 4].map (fun k => (last + k) % 4) = (List.range 4).map fun k => (last + (k + 1)) % 4 := rfl
  have hmem (w : Nat) (hw : w ∈ ws) : w ∈ (List.range 4).map fun k => (last + (k + 1)) % 4 :=
    List.mem_map.2 ⟨windowLag last w, List.mem_range.2 (Nat.mod_lt _ (by decide)), next_windowLag hl (hws w hw)⟩
  have hsorted : ((List.range 4).map fun k => (last + (k + 1)) % 4).Pairwise fun a b => windowLag last a < windowLag last b := by
    refine List.pairwise_map.2 (List.pairwise_lt_range.imp_of_mem fun {a b} ha hb hab => ?_)
    rwa [windowLag_next hl (List.mem_range.1 ha), windowLag_next hl (List.mem_range.1 hb)]
  obtain ⟨w0, hw0⟩ := List.exists_mem_of_ne_nil _ hne
  unfold nextWindow
  rw [hlist]
  cases hf : ((List.range 4).map fun k => (last + (k + 1)) % 4).find? (ws.contains ·) with
  | none => exact absurd (List.find?_eq_none.1 hf w0 (hmem w0 hw0)) (by simpa using hw0)
  | some v =>
    obtain ⟨hv, before, after, hsplit, hbefore⟩ := List.find?_eq_some_iff_append.1 hf
    refine ⟨by simpa using hv, fun w hw => ?_⟩
    have hw' := hmem w hw
    rw [hsplit] at hw' hsorted
    obtain hw' | hw' := List.mem_append.1 hw'
    · exact absurd hw (by simpa using hbefore w hw')
    · obtain rfl | hw' := List.mem_cons.1 hw'
      · exact Nat.le_refl _
      · exact Nat.le_of_lt ((List.pairwise_cons.1 (List.pairwise_append.1 hsorted).2.1).1 w hw')

/-! ### The offering order (R404, R405, R408) -/

section
variable {s : State} {die : Nat}

/-- The turn of a launch's context in the rotation of its key, the less the earlier (R404). -/
def State.turnOf (s : State) (d : Die) (l : Launch) : Nat :=
  match tabGet (s.schedKey l) d.rotation with
  | none => l.ctx
  | some r => if r < l.ctx then l.ctx - r else l.ctx + 4294967296 - r

/-- A launch's place in the offering order of a die: greater scheduling keys come first (R404). -/
def State.offerRank (s : State) (d : Die) (l : Nat × Launch) : List Nat :=
  [32 - s.schedKey l.2, s.turnOf d l.2, l.2.eligible.getD 0, l.1]

/-- A die of a partition offers the partition's eligible launches in that order. -/
theorem State.dieLaunches_eq {p : Nat} {r : Partition} {d : Die} (hp : s.partOf die = some (p, r)) (hd : tabGet die s.dies = some d) :
    s.dieLaunches die = sortBy (fun a b => lexLe (s.offerRank d a) (s.offerRank d b))
        (s.launches.filter fun l => l.2.eligible.isSome && ((tabGet l.2.ctx s.ctxs).map (·.part)) == some p) := by
  simp only [State.dieLaunches, hp, hd]
  rfl

theorem State.dieLaunches_none (h : s.partOf die = none ∨ tabGet die s.dies = none) : s.dieLaunches die = [] := by
  unfold State.dieLaunches
  split
  · next hp hd => rw [hp, hd] at h; simp at h
  · rfl

theorem State.mem_dieLaunches {p : Nat} {r : Partition} (hp : s.partOf die = some (p, r)) (hd : (tabGet die s.dies).isSome)
    (l : Nat × Launch) : l ∈ s.dieLaunches die ↔
      l ∈ s.launches ∧ l.2.eligible.isSome = true ∧ ∃ c, tabGet l.2.ctx s.ctxs = some c ∧ c.part = p := by
  obtain ⟨d, hd⟩ := Option.isSome_iff_exists.1 hd
  simp [State.dieLaunches_eq hp hd]

/-- A scheduling key is at most 31 where ranks and priorities keep their ranges (R404). -/
theorem State.schedKey_le (hc : ∀ c ∈ s.ctxs, c.2.rank < 4) {l : Launch} (hl : l.prio < 8) : s.schedKey l ≤ 31 := by
  have hr : s.rankOf l < 4 := by
    unfold State.rankOf
    cases h : tabGet l.ctx s.ctxs with
    | none => decide
    | some c => exact hc _ (tabGet_mem h)
  unfold State.schedKey
  omega

theorem head_le_of_lexLe {a b : Nat} {r t : List Nat} (h : lexLe (a :: r) (b :: t) = true) : a ≤ b := by
  simp only [lexLe, Bool.or_eq_true, decide_eq_true_eq, Bool.and_eq_true, beq_iff_eq] at h
  omega

theorem State.dieLaunches_pairwise (hc : ∀ c ∈ s.ctxs, c.2.rank < 4) (hl : ∀ l ∈ s.launches, l.2.prio < 8) :
    (s.dieLaunches die).Pairwise fun a b => s.schedKey b.2 ≤ s.schedKey a.2 := by
  cases hp : s.partOf die with
  | none => rw [State.dieLaunches_none (.inl hp)]; exact .nil
  | some p =>
  cases hd : tabGet die s.dies with
  | none => rw [State.dieLaunches_none (.inr hd)]; exact .nil
  | some d =>
    rw [State.dieLaunches_eq hp hd]
    refine (pairwise_sortBy (orders_lexLe.on _) _).imp_of_mem fun {a b} ha hb hab => ?_
    have hka := State.schedKey_le hc (hl a (List.mem_filter.1 (mem_sortBy.1 ha)).1)
    have hkb := State.schedKey_le hc (hl b (List.mem_filter.1 (mem_sortBy.1 hb)).1)
    have := head_le_of_lexLe hab
    omega

/-- Of one launch a die offers the sheets of its restore list by index, then the least unplaced index it owns (R405, R408). -/
theorem State.offersOf_eq {d : Die} (hd : tabGet die s.dies = some d) (l : Nat × Launch) : ∃ saved : List Nat,
    s.offersOf die l = saved.map Offer.saved ++ ((runsHead (s.ownRuns die l.2)).map (Offer.new l.1)).toList
    ∧ saved.Pairwise (fun a b => ((tabGet a s.sheets).map Sheet.index).getD 0 ≤ ((tabGet b s.sheets).map Sheet.index).getD 0)
    ∧ ∀ k, k ∈ saved ↔ (∃ t, (k, t) ∈ d.restore) ∧ (tabGet k s.sheets).map Sheet.launch = some l.1 := by
  let index (r : Nat × Nat) : Nat := ((tabGet r.1 s.sheets).map Sheet.index).getD 0
  let mine := d.restore.filter fun r => ((tabGet r.1 s.sheets).map Sheet.launch) == some l.1
  refine ⟨(sortBy (fun a b => index a ≤ index b) mine).map Prod.fst, ?_, ?_, fun k => ?_⟩
  · simp only [State.offersOf, hd, List.map_map]
    rfl
  · exact List.pairwise_map.2 ((pairwise_sortBy (orders_natLe.on index) mine).imp fun h => of_decide_eq_true h)
  · simp only [List.mem_map, mem_sortBy, mine, List.mem_filter, beq_iff_eq, Prod.exists, exists_and_right, exists_eq_right]

end

/-! ### What fits, and where (R407) -/

theorem State.need_saved {s : State} {sid : Nat} {h : Sheet} {l : Launch} (hh : tabGet sid s.sheets = some h)
    (hl : tabGet h.launch s.launches = some l) : s.need (.saved sid) =
      some { granules := poolGranules h.pool, gangs := fun _ => h.gangs.length, width := fun c => l.width c == h.W } := by
  simp [State.need, hh, hl]

theorem State.need_new {s : State} {launch : Nat} {l : Launch} (hl : tabGet launch s.launches = some l) (index : Nat) :
    s.need (.new launch index) = some { granules := poolGranules l.pool, gangs := fun c => l.T / l.width c, width := fun _ => true } := by
  simp [State.need, hl]

theorem State.fitsOn_iff (s : State) (n : Need) (k gran gangs : Nat) : s.fitsOn n k gran gangs = true ↔
    ∃ c, tabGet k s.clusters = some c ∧ c.quarantined = false ∧ n.width c = true ∧ n.granules + s.clusterTaken k ≤ c.lgr + gran
      ∧ s.clusterGangs k + n.gangs c ≤ 64 + gangs := by
  unfold State.fitsOn
  cases tabGet k s.clusters <;> simp [and_assoc]

/-- What is kept for the sheet of a preemption request only takes room from others (R410). -/
theorem State.fitsOn_of_takesOn {s : State} {die k : Nat} {o : Offer} {n : Need} (h : s.takesOn die o n k = true) :
    s.fitsOn n k 0 0 = true := by
  unfold State.takesOn at h
  split at h
  · exact h
  · obtain ⟨c, hc, hq, hw, hgran, hgangs⟩ := (State.fitsOn_iff ..).1 h
    dsimp only at hgran hgangs
    exact (State.fitsOn_iff ..).2 ⟨c, hc, hq, hw, by omega, by omega⟩

theorem State.takesOn_of_askedOn_none {s : State} {die : Nat} (h : s.askedOn die = none) (o : Offer) (n : Need) (k : Nat) :
    s.takesOn die o n k = s.fitsOn n k 0 0 := by
  simp [State.takesOn, h]

/-- The clusters of a die that take an offered sheet. -/
def State.takers (s : State) (die : Nat) (o : Offer) (n : Need) : List Nat :=
  ((s.clusters.filter fun c => c.2.die == die).map (·.1)).filter (s.takesOn die o n)

theorem State.mem_takers {s : State} {die k : Nat} {o : Offer} {n : Need} :
    k ∈ s.takers die o n ↔ (∃ c, (k, c) ∈ s.clusters ∧ c.die = die) ∧ s.takesOn die o n k = true := by
  simp [State.takers, List.mem_filter, List.mem_map]

/-- A cluster's place in the choice of one: its resident gangs, then its number (R407). -/
def State.crowding (s : State) (k : Nat) : List Nat := [s.clusterGangs k, k]

theorem State.bestCluster_eq {s : State} {o : Offer} {n : Need} (hn : s.need o = some n) (die : Nat) : s.bestCluster die o =
    ((s.takers die o n).find? fun k => (s.askedOn die).any fun a => a.offer == o && a.cluster == k).or
      (sortBy (fun a b => lexLe (s.crowding a) (s.crowding b)) (s.takers die o n)).head? := by
  simp only [State.bestCluster, hn]
  rfl

theorem State.bestCluster_mem {s : State} {die k : Nat} {o : Offer} {n : Need} (hn : s.need o = some n)
    (h : s.bestCluster die o = some k) : k ∈ s.takers die o n := by
  rw [State.bestCluster_eq hn, Option.or_eq_some_iff] at h
  obtain h | ⟨-, h⟩ := h
  · exact List.mem_of_find?_eq_some h
  · exact mem_sortBy.1 (List.mem_of_head? h)

/-- With no preemption request, the least crowded cluster that fits the sheet takes it (R407). -/
theorem State.bestCluster_least {s : State} {die k j : Nat} {o : Offer} {n : Need} (hn : s.need o = some n)
    (ha : s.askedOn die = none) (h : s.bestCluster die o = some k) (hj : j ∈ s.takers die o n) :
    s.clusterGangs k < s.clusterGangs j ∨ (s.clusterGangs k = s.clusterGangs j ∧ k ≤ j) := by
  rw [State.bestCluster_eq hn, ha, List.find?_eq_none.2 (by simp), Option.none_or] at h
  have hle := le_of_head?_sortBy (orders_lexLe.on s.crowding) h hj
  simp only [State.crowding, lexLe, Bool.or_eq_true, decide_eq_true_eq, Bool.and_eq_true, beq_iff_eq] at hle
  omega

/-! ### The first that fits (R408) -/

/-- No time in an option lies more than `bound` before `now`. -/
theorem any_overdue_eq_false_iff (o : Option Nat) (now bound : Nat) :
    (o.any fun t => decide (bound < now - t)) = false ↔ ∀ t, o = some t → now - t ≤ bound := by
  cases o <;> simp

theorem State.heldBack_eq_false_iff {s : State} {die : Nat} {o : Offer} :
    s.heldBack die o = false ↔ ∀ t, s.waitsSince die o = some t → s.now - t ≤ s.offerPlq o :=
  any_overdue_eq_false_iff ..

theorem State.firstFit_iff (s : State) (die k : Nat) (o : Offer) (os : List Offer) : s.firstFit die os = some (o, k) ↔
    ∃ before after, os = before ++ o :: after ∧ s.bestCluster die o = some k
      ∧ ∀ x ∈ before, s.bestCluster die x = none ∧ s.heldBack die x = false := by
  induction os with
  | nil => simp [State.firstFit]
  | cons y os ih =>
    unfold State.firstFit
    cases hb : s.bestCluster die y with
    | some j =>
      simp only [Option.some.injEq, Prod.mk.injEq]
      constructor
      · rintro ⟨rfl, rfl⟩
        exact ⟨[], os, rfl, hb, by simp⟩
      · rintro ⟨before, after, hsplit, hk, hbefore⟩
        cases before with
        | nil => cases hsplit; exact ⟨rfl, Option.some.inj (hb.symm.trans hk)⟩
        | cons z before =>
          cases hsplit
          exact absurd (hbefore y (List.mem_cons_self ..)).1 (by simp [hb])
    | none =>
      have hskip : (∃ before after, y :: os = before ++ o :: after ∧ s.bestCluster die o = some k
            ∧ ∀ x ∈ before, s.bestCluster die x = none ∧ s.heldBack die x = false)
          ↔ s.heldBack die y = false ∧ ∃ before after, os = before ++ o :: after ∧ s.bestCluster die o = some k
            ∧ ∀ x ∈ before, s.bestCluster die x = none ∧ s.heldBack die x = false := by
        constructor
        · rintro ⟨before, after, hsplit, hk, hbefore⟩
          cases before with
          | nil => cases hsplit; exact absurd hk (by simp [hb])
          | cons z before =>
            cases hsplit
            exact ⟨(hbefore y (List.mem_cons_self ..)).2, before, after, rfl, hk, fun x hx => hbefore x (List.mem_cons_of_mem _ hx)⟩
        · rintro ⟨hy, before, after, rfl, hk, hbefore⟩
          exact ⟨y :: before, after, rfl, hk, by simpa [hb, hy] using hbefore⟩
      rw [hskip, ← ih]
      cases s.heldBack die y <;> simp

/-- With no preemption request a die places the first offered sheet that fits, unless one before it may no longer be passed. -/
theorem State.placeable_eq {s : State} {die p : Nat} {r : Partition} (hp : s.partOf die = some (p, r)) (hs : s.placeStop ≠ some p)
    (ha : s.askedOn die = none) : s.placeable die = s.firstFit die (s.offers die) := by
  simp [State.placeable, State.askedFit, hp, hs, ha]

theorem runsHead_least {rs : List Run} {i : Nat} (h : runsHead rs = some i) :
    (∀ r ∈ rs, 0 < r.count → i ≤ r.lo) ∧ ∃ r ∈ rs, 0 < r.count ∧ r.lo = i := by
  obtain ⟨hmem, hle⟩ := List.min?_eq_some_iff.1 h
  simp only [List.mem_map, List.mem_filter, decide_eq_true_eq, forall_exists_index, and_imp, and_assoc] at hmem hle
  exact ⟨fun r hr hc => hle _ r hr hc rfl, hmem⟩

/-! ### Each step where its condition holds -/

section
variable {s : State} {die k : Nat}

theorem execWeightWindowOpen_due {c : Cluster} (hc : tabGet k s.clusters = some c) (hdue : s.cycleDue k c = true)
    (hleft : c.windowLeft = 0) (hhalf : c.half = false) : exec (.weightWindowOpen k) s =
      .next ((s.readyGangs k c).2.modCluster k fun x =>
        { x with window := nextWindow x.window ((s.readyGangs k c).1.map (·.slot.weight)), windowLeft := 16 }) := by
  rw [exec_weightWindowOpen, execWeightWindowOpen, hc]
  simp only [hdue, hleft, hhalf]
  rfl

theorem execPlaceSheet_saved {sid : Nat} {h : Sheet} {l : Launch} (hp : s.placeable die = some (.saved sid, k))
    (hh : tabGet sid s.sheets = some h) (hl : tabGet h.launch s.launches = some l) :
    exec (.placeSheet die) s = .next ((s.rotate die (s.schedKey l)).restoreSheet sid k).reap := by
  simp [execPlaceSheet, hp, hh, hl]

theorem execPlaceSheet_new {launch index : Nat} {l : Launch} (hp : s.placeable die = some (.new launch index, k))
    (hl : tabGet launch s.launches = some l) : exec (.placeSheet die) s =
      .next (((s.rotate die (s.schedKey l)).modLaunch launch fun l =>
        let l := { l with unplaced := tabMod (s.dieIndex die) runsTail l.unplaced }
        { l with queued := l.unplaced.any fun p => 0 < runsCount p.2 }).placeNew launch index k).reap := by
  simp [execPlaceSheet, hp, hl]

/-- The sibling a dry distributor asks (R406). -/
def State.stealVictim (s : State) (die k : Nat) : Nat := ((s.siblings die)[(s.dieIndex die + k) % (s.siblings die).length]?).getD die

theorem execStealRequest_refused (hk : s.asking die = some k)
    (hnone : ∀ l ∈ s.dieLaunches (s.stealVictim die k), runsCount (s.ownRuns (s.stealVictim die k) l.2) < 2) :
    exec (.stealRequest die) s = .next (s.modDie die fun d =>
      { d with steal := if k + 1 < (s.siblings die).length then .asking (k + 1) else .resting (s.now + 5 * tickUs) }) := by
  have hfind : (s.dieLaunches (s.stealVictim die k)).find? (fun l => decide (2 ≤ runsCount (s.ownRuns (s.stealVictim die k) l.2))) = none :=
    List.find?_eq_none.2 fun l hl => by simpa using hnone l hl
  rw [exec_stealRequest, execStealRequest, hk]
  unfold State.stealVictim at hfind
  simp only [hfind]

theorem execStealRequest_taken {id : Nat} {l : Launch} (hk : s.asking die = some k)
    (hfind : (s.dieLaunches (s.stealVictim die k)).find? (fun l => decide (2 ≤ runsCount (s.ownRuns (s.stealVictim die k) l.2))) = some (id, l)) :
    exec (.stealRequest die) s =
      let q := runsSplit (s.ownRuns (s.stealVictim die k) l) (runsCount (s.ownRuns (s.stealVictim die k) l) / 2)
      .next ((s.modLaunch id fun x =>
        { x with unplaced := tabPut (s.dieIndex die) (s.ownRuns die x ++ q.2) (tabPut (s.dieIndex (s.stealVictim die k)) q.1 x.unplaced) }).modDie die
          fun d => { d with steal := .none }) := by
  rw [exec_stealRequest, execStealRequest, hk]
  unfold State.stealVictim at hfind
  simp only [hfind]
  rfl

theorem execStealRetry_due (h : s.retries die = true) :
    exec (.stealRetry die) s = .next (s.modDie die fun d => { d with steal := .asking 1 }) := by
  simp [execStealRetry, h]

theorem execRestoreListPass_due {sheet : Nat} (h : s.passes die sheet = true) : exec (.restoreListPass die sheet) s =
    let ds := s.siblings die
    let next := (ds[(s.dieIndex die + 1) % ds.length]?).getD die
    let wait := (((tabGet die s.dies).map (·.waiting)).getD []).filter (·.1 == .saved sheet)
    .next (((s.modDie die fun d =>
        { d with restore := d.restore.filter (·.1 != sheet), waiting := d.waiting.filter (·.1 != .saved sheet) }).queueRestore sheet next).modDie next
      fun d => { d with waiting := d.waiting ++ wait }) := by
  rw [exec_restoreListPass, execRestoreListPass, h]
  rfl

theorem execPreemptionRequest_made {a : Asked} {L : Nat} (h : s.preemption die = some (a, L)) : exec (.preemptionRequest die) s =
    .next ((a.victims.foldl (fun s v => s.requestPreempt v.1 L) s).modDie die fun d => { d with asked := some a }) := by
  simp [execPreemptionRequest, h]

end

section
variable {s : State} {sid : Nat} {h : Sheet} (hh : tabGet sid s.sheets = some h)
include hh

theorem execDrainTimeout_due {t : Nat} (hr : h.request = .drain t) (ht : t ≤ s.now) :
    exec (.drainTimeout sid) s = .next (s.modSheet sid fun h => { h with request := .save }) := by
  simp [execDrainTimeout, hh, hr, ht]

variable {k : Nat} (hk : h.home = .on k)
include hk

theorem execSave_due (hr : h.request = .save) (hl : h.loss = none) : exec (.save sid) s = .next (s.saveSheet sid).reap := by
  simp [execSave, hh, hr, hl, Sheet.cluster?, hk]

theorem execFlush_due (hr : h.request = .flush) : exec (.flush sid) s =
    if h.ivl.recoverable then .next (s.flushSheet sid).reap else .next (s.modSheet sid fun h => { h with request := .save }) := by
  simp [execFlush, hh, hr, Sheet.cluster?, hk]

end

/-! ### Retirement (R32, R40, R436) -/

@[simp] theorem State.unpin_launches (s : State) (i : Interval) : (s.unpin i).launches = s.launches := by
  unfold State.unpin
  refine foldl_launches _ (fun _ _ => ?_) _ _
  rfl

@[simp] theorem State.leaveCluster_launches (s : State) (k : Nat) : (s.leaveCluster k).launches = s.launches := by
  unfold State.leaveCluster
  simp only
  split <;> rfl

@[simp] theorem State.leaveCluster_sheets (s : State) (k : Nat) : (s.leaveCluster k).sheets = s.sheets := by
  unfold State.leaveCluster
  simp only
  split <;> rfl

@[simp] theorem State.removeSheet_launches (s : State) (sid : Nat) : (s.removeSheet sid).launches = s.launches := by
  unfold State.removeSheet
  split
  · rfl
  · next h _ => cases h.cluster? <;> simp

theorem State.removeSheet_gone (s : State) (sid : Nat) : tabGet sid (s.removeSheet sid).sheets = none := by
  unfold State.removeSheet
  split
  · assumption
  · next h _ => cases h.cluster? <;> simp

/-- The tally a launch keeps of its retired sheets. -/
def Launch.tallied (l : Launch) (h : Sheet) (now : Nat) (taken : Bool) : Launch :=
  { l with left := l.left - 1, retired := l.retired + 1, spent := l.spent + (now - h.firstAt)
           maxTime := max l.maxTime h.topClock, gone := l.gone ++ [h.index], audits := l.audits + (if taken then 1 else 0) }

/-- A finished sheet that is sampled joins the audits (R436). -/
def State.withAudit (s : State) (h : Sheet) (taken : Bool) : State :=
  if taken then
    { s with audits := tabPut s.nextId { sheet := h, sigs := [(h.cluster?.getD 0, h.sig)] } s.audits, nextId := s.nextId + 1 }
  else s

@[simp] theorem State.withAudit_mem (s : State) (h : Sheet) (taken : Bool) : (s.withAudit h taken).mem = s.mem := by cases taken <;> rfl
@[simp] theorem State.withAudit_launches (s : State) (h : Sheet) (taken : Bool) : (s.withAudit h taken).launches = s.launches := by
  cases taken <;> rfl
@[simp] theorem State.withAudit_now (s : State) (h : Sheet) (taken : Bool) : (s.withAudit h taken).now = s.now := by cases taken <;> rfl

theorem execSheetRetire_done {s : State} {sid : Nat} {h : Sheet} (hh : tabGet sid s.sheets = some h) (hd : s.sheetDone sid h = true)
    (hr : h.replay = none) : exec (.sheetRetire sid) s =
      .next (((s.drew.withAudit h (s.sampled h)).modLaunch h.launch (·.tallied h s.now (s.sampled h))).removeSheet sid) := by
  rw [exec_sheetRetire, execSheetRetire, hh]
  simp only [hd, hr]
  cases s.sampled h <;> rfl

theorem execLaunchRetire_done {s : State} {k : Nat} {l : Launch} (hl : tabGet k s.launches = some l) (he : l.eligible.isSome = true)
    (hleft : l.left = 0) (ha : l.audits = 0) (hc : s.closing l.ctx = false) : exec (.launchRetire k) s =
      let u := if l.cpv then s.increment l else s
      .next { u with launches := tabDel k u.launches, msgs := u.msgs.filter (·.launch != k) }.reap := by
  have he' : l.eligible.isNone = false := by simpa using he
  rw [exec_launchRetire, execLaunchRetire, hl]
  simp only [he', hleft, ha, hc]
  rfl

/-- Settles O52: the order of the offers is that of a stable sort, the cluster is the head of one, a placement the first offer that
fits, and each step is its own equation. -/
theorem scheduling : Obligations.Scheduling := by
  refine ⟨fun s k c => execWeightWindowOpen_due, fun last ws hl hws => ⟨fun h => ?_, nextWindow_nearest hl hws⟩,
    fun s die hc hl => ⟨State.dieLaunches_pairwise hc hl, fun l p r hp hd => State.mem_dieLaunches hp hd l, rfl,
      fun l d hd => State.offersOf_eq hd l⟩,
    fun s die k o n hn hk => ?_, fun s sid launch index c => ⟨fun h l hh hl => ?_, fun l hl => ?_⟩,
    fun s die k o n hn ha hk j c hj hc hfit => ?_, fun s die p k r o hp hs ha => ?_,
    fun s die sid k h l => execPlaceSheet_saved, fun s die launch index k l => execPlaceSheet_new, fun rs i => runsHead_least,
    fun s die k hk => ⟨execStealRequest_refused hk, fun id l => execStealRequest_taken hk⟩,
    fun s die sheet => ⟨execStealRetry_due, execRestoreListPass_due, fun a L => execPreemptionRequest_made⟩,
    fun s sid h hh => ⟨fun t => execDrainTimeout_due hh, fun k hk => ⟨execSave_due hh hk, fun hr hi => ?_, fun hr hi => ?_⟩,
      fun hd hr => ?_⟩,
    fun s k l => execLaunchRetire_done⟩
  · rw [h, nextWindow_nil]
  · obtain ⟨hmem, htakes⟩ := State.mem_takers.1 (State.bestCluster_mem hn hk)
    exact ⟨hmem, (State.fitsOn_iff ..).1 (State.fitsOn_of_takesOn htakes)⟩
  · exact ⟨_, State.need_saved hh hl, rfl, rfl, beq_iff_eq⟩
  · exact ⟨_, State.need_new hl index, rfl, rfl, rfl⟩
  · refine State.bestCluster_least hn ha hk (State.mem_takers.2 ⟨⟨c, hj, hc⟩, ?_⟩)
    rw [State.takesOn_of_askedOn_none ha]
    exact (State.fitsOn_iff ..).2 hfit
  · simp only [State.placeable_eq hp hs ha, State.firstFit_iff, State.heldBack_eq_false_iff]
  · rw [execFlush_due hh hk hr, if_pos hi]
  · rw [execFlush_due hh hk hr, if_neg (by simp [hi])]
  · refine ⟨_, execSheetRetire_done hh hd hr, State.removeSheet_gone .., by simp [State.removeSheet_mem], fun l hl => ?_⟩
    rw [State.removeSheet_launches]
    exact (tabGet_tabMod_same ..).trans (by rw [State.withAudit_launches, State.drew_launches, hl]; rfl)

end Sys2Proof.Machine
end

section
/-! The checks every instruction passes first (R194, R326, R359, R380), and what reading a lost register means (R434). -/

namespace Sys2Proof

/-! ### Opcodes -/

/-- A step of the panel's own units has no opcode (R192), so an instruction of an opcode of the system range has an encoding. -/
theorem encodeFields_isSome_of_systemOpcode {i : Instr} (h : systemOpcode i.opcode = true) : (encodeFields i).isSome = true := by
  cases e : encodeFields i with
  | some f => rfl
  | none => simp [Instr.opcode, e, systemOpcode] at h

@[simp] theorem blank_opc (g : Guard) (opc : Nat) : (blank g opc).opc = opc := rfl
@[simp] theorem Fields.withUni_opc (f : Fields) (o : UOperand) : (f.withUni o).opc = f.opc := by cases o <;> rfl
@[simp] theorem Fields.withSys_opc (f : Fields) (a : SysOperand) : (f.withSys a).opc = f.opc := by cases a <;> rfl

/-! ### Registers that exist (R52) -/

theorem Instr.existing_iadd {W nv na : Nat} {g : Guard} {ty : AddTy} {sat : Bool} {n : Fin 192} {x y : Operand}
    (h : (Instr.iadd g ty sat (.v n) x y).existing W nv na = true) : n.val + span (ty == .b64) ≤ nv :=
  of_decide_eq_true (List.all_eq_true.1 h (.v n.val, span (ty == .b64)) List.mem_cons_self)

theorem Instr.existing_accz {W nv na : Nat} {g : Guard} {k : Fin 16} : (Instr.accz g k).existing W nv na = true ↔ k.val < na := by
  simp [Instr.existing, Instr.dests, Instr.sources]

namespace Machine

/-! ### Lost registers (R434) -/

theorem Site.gang_of_agent {c : Site} {n : Nat} (h : c.agent = .gang n) : c.gang = n := by simp [Site.gang, h]

/-- A lost word that meets the registers read is one of a vector register of the issuing gang in a lane read, or of a fragment of
the site's gang. -/
theorem Site.lost_witness {c : Site} {ls : List Nat} {rs : List (RegName × Nat)} (h : c.lost ls rs = true) : ∃ w ∈ c.sh.bad,
    (∃ r, ∃ l ∈ ls, w = .vec c.gang r l ∧ (boardOf rs 0).any (·.1 == .v r) = true)
      ∨ ∃ k x, w = .acc c.gang k x ∧ (boardOf rs 0).any (·.1 == .a k) = true := by
  obtain ⟨w, hw, h⟩ := List.any_eq_true.1 h
  refine ⟨w, hw, ?_⟩
  cases w with
  | vec g r l =>
    simp only [Bool.and_eq_true, beq_iff_eq, List.contains_iff_mem] at h
    obtain ⟨⟨hg, hl⟩, hr⟩ := h
    exact .inl ⟨r, l, hl, by rw [Site.gang_of_agent hg], hr⟩
  | acc g k x =>
    simp only [Bool.and_eq_true, beq_iff_eq] at h
    obtain ⟨⟨hg, -⟩, hk⟩ := h
    exact .inr ⟨k, x, by rw [hg], hk⟩
  | spad => exact absurd h Bool.false_ne_true

theorem Site.lostSource_of_bad_nil {c : Site} (h : c.sh.bad = []) (i : Instr) : c.lostSource i = none := by
  simp [Site.lostSource, Site.lost, h]

theorem Site.lostSource_some {c : Site} {i : Instr} {e : Trap} (h : c.lostSource i = some e) :
    c.lost (c.readers i) (i.sources c.sh.W) = true ∧ ∃ lane, e = lostData lane := by
  obtain ⟨hl, he⟩ := Option.ite_none_right_eq_some.1 h
  exact ⟨hl, _, (Option.some.inj he).symm⟩

/-! ### The first checks, in their order -/

theorem ite_some_eq_none_iff {α : Type} {p : Prop} [Decidable p] {a : α} {o : Option α} :
    (if p then some a else o) = none ↔ ¬ p ∧ o = none := by
  by_cases h : p <;> simp [h]

section
variable {i : Instr} {c : Site} {n : Nat} (ha : c.agent = .gang n)
include ha

/-- The first checks of a thread's instruction, in their order. -/
theorem precheck_gang : precheck i c =
    if (systemOpcode i.opcode && !c.atS) = true then some { cause := 2, check := 1 }
    else if (!i.existing c.sh.W c.sh.nv c.sh.na) = true then some (Trap.illegal 1)
    else if i.sequencerOnly = true then some (Trap.illegal 1)
    else c.lostSource i := by
  rw [precheck, ha]
  rfl

theorem precheck_gang_privilege (hi : systemOpcode i.opcode = true) (hS : c.atS = false) :
    precheck i c = some { cause := 2, check := 1 } := by
  rw [precheck_gang ha, if_pos (by simp [hi, hS])]

theorem precheck_gang_eq_none_iff : precheck i c = none ↔ (systemOpcode i.opcode = true → c.atS = true)
    ∧ i.existing c.sh.W c.sh.nv c.sh.na = true ∧ i.sequencerOnly = false ∧ c.lostSource i = none := by
  simp [precheck_gang ha, ite_some_eq_none_iff]

theorem precheck_gang_missing (hi : systemOpcode i.opcode = true → c.atS = true)
    (hr : i.existing c.sh.W c.sh.nv c.sh.na = false) : precheck i c = some { cause := 1, check := 1 } := by
  rw [precheck_gang ha, if_neg (by simpa using hi), if_pos (by simp [hr])]
  rfl

end

theorem precheck_seq_eq_none_iff {i : Instr} {c : Site} {k : SeqKind} (ha : c.agent = .seq k) : precheck i c = none ↔
    i.engine k = true ∧ i.existing c.sh.W c.sh.nv c.sh.na = true ∧ c.lostSource i = none := by
  simp [precheck, ha, ite_some_eq_none_iff]

/-- An instruction of an opcode of the system range raises the privilege trap at U before any other check (R359). -/
theorem raises_privilege {s : State} {c : Site} {n : Nat} {i : Instr} (hs : s.site = some c) (ha : c.agent = .gang n)
    (hS : c.atS = false) (hi : systemOpcode i.opcode = true) : Raises i s s c { cause := 2, check := 1 } :=
  exec_enters (encodeFields_isSome_of_systemOpcode hi) hs (precheck_gang_privilege ha hi hS)

/-- Settles O29: `precheck` is its checks in order, the privilege check first, and every instruction of a program begins with it. -/
theorem firstChecks : Obligations.FirstChecks := by
  refine ⟨fun i c n ha => ⟨precheck_gang_eq_none_iff ha, precheck_gang_privilege ha, precheck_gang_missing ha⟩,
    fun i c k => precheck_seq_eq_none_iff, fun i c => ⟨fun h => Site.lostSource_of_bad_nil h i, fun e he => ?_⟩,
    fun W nv na g n x y => Instr.existing_iadd, fun W nv na g n x y => Instr.existing_iadd, fun W nv na g k => ?_⟩
  · obtain ⟨hl, lane, rfl⟩ := Site.lostSource_some he
    exact ⟨rfl, rfl, rfl, Site.lost_witness hl⟩
  · -- The statement's last two clauses stand inside the equivalence for ACCZ.
    rw [Instr.existing_accz]
    refine iff_self_and.2 fun _ => ⟨fun s c n i => raises_privilege, fun g num wide u w d a o i hi => ?_⟩
    fin_cases hi <;> simp [Instr.opcode, encodeFields, systemOpcode]

end Machine
end Sys2Proof
end

section
/-! The one rounding (R68, R69): dropping bits rounds to an integer in the mode, the codes of a format lie as integers do in each
binade, and so the rounded code is the nearest of them, or the bounding one of a directed mode. -/

namespace Sys2Proof.Machine

/-! ### Rounding to an integer by dropping bits (R68) -/

/-- The number `v` stands at `m` units, or with `sticky` strictly between `m` and `m + 1` of them. -/
def StandsAt (m : Nat) (sticky : Bool) (v : Rat) : Prop := (m : Rat) ≤ v ∧ v < m + 1 ∧ ((m : Rat) = v ↔ sticky = false)

theorem bitLen_pos {m : Nat} (h : 0 < m) : 0 < bitLen m := by simp [bitLen, h.ne']

theorem lt_two_pow_bitLen (m : Nat) : m < 2 ^ bitLen m := by
  unfold bitLen
  split
  · simp_all
  · exact Nat.lt_log2_self

theorem two_pow_bitLen_le {m : Nat} (h : 0 < m) : 2 ^ (bitLen m - 1) ≤ m := by
  simp only [bitLen, beq_iff_eq, h.ne', if_false, Nat.add_sub_cancel]
  exact Nat.log2_self_le h.ne'

/-- The mode that rounds a magnitude as `r` rounds the negative number of that magnitude. -/
def mirrorMode : Rnd → Rnd
  | .rp => .rm
  | .rm => .rp
  | r => r

theorem roundUp_neg (r : Rnd) (odd inexact : Bool) (c : Ordering) :
    roundUp r true odd inexact c = roundUp (mirrorMode r) false odd inexact c := by
  cases r <;> rfl

theorem dropBits_neg (r : Rnd) (m s : Nat) (sticky : Bool) :
    dropBits r true m s sticky = dropBits (mirrorMode r) false m s sticky := by
  simp only [dropBits, roundUp_neg]

/-- A number is rounded to itself when it is an integer. -/
theorem roundsToInt_natCast (r : Rnd) (k : Nat) : RoundsToInt r (k : Rat) k := by
  cases r
  case rn => exact .inl ⟨by push_cast; linarith, by push_cast; linarith⟩
  case rz =>
    rw [RoundsToInt, if_pos k.cast_nonneg]
    exact ⟨by simp, by simp⟩
  all_goals exact ⟨by simp, by simp⟩

/-- A number of less than a quarter goes to 0, or upward to 1. -/
theorem roundsToInt_of_lt_quarter {r : Rnd} {y : Rat} {inexact : Bool} (h0 : 0 ≤ y) (h1 : y < 1 / 4) (hi : inexact = true ↔ 0 < y) :
    RoundsToInt r y (if roundUp r false false inexact .lt then 1 else 0 : Nat) := by
  cases r
  case rn => exact .inl ⟨by simp [roundUp]; linarith, by simp [roundUp]; linarith⟩
  case rz =>
    rw [RoundsToInt, if_pos h0]
    simpa [roundUp] using ⟨h0, by linarith⟩
  case rm => simpa [roundUp, RoundsToInt] using ⟨h0, by linarith⟩
  case rp =>
    cases inexact
    · have : ¬ 0 < y := by simpa using hi
      simpa [roundUp, RoundsToInt] using ⟨by linarith, by linarith⟩
    · simpa [roundUp, RoundsToInt] using ⟨by linarith, hi.1 rfl⟩

/-- A number between `k` and `k + 1` goes to one of the two, as `roundUp` says of how it lies against the middle. -/
theorem roundsToInt_roundUp {r : Rnd} {y : Rat} {k : Nat} {inexact : Bool} {c : Ordering} (h0 : (k : Rat) ≤ y) (h1 : y < k + 1)
    (hi : inexact = true ↔ (k : Rat) < y)
    (hc : match c with | .lt => y < k + 1 / 2 | .eq => y = k + 1 / 2 | .gt => (k : Rat) + 1 / 2 < y) :
    RoundsToInt r y (k + if roundUp r false (k % 2 == 1) inexact c then 1 else 0 : Nat) := by
  have hy : 0 ≤ y := h0.trans' k.cast_nonneg
  cases r
  case rn =>
    cases c
    · exact .inl ⟨by simp [roundUp]; linarith, by simp [roundUp]; linarith⟩
    · subst hc
      rcases Nat.mod_two_eq_zero_or_one k with hk | hk
      · exact .inr ⟨.inl (by simp [roundUp, hk]; ring), by simp [roundUp, hk]; omega⟩
      · exact .inr ⟨.inr (by simp [roundUp, hk]; ring), by simp [roundUp, hk]; omega⟩
    · exact .inl ⟨by simp [roundUp]; linarith, by simp [roundUp]; linarith⟩
  case rz =>
    rw [RoundsToInt, if_pos hy]
    simpa [roundUp] using ⟨h0, h1⟩
  case rm => simpa [roundUp, RoundsToInt] using ⟨h0, h1⟩
  case rp =>
    cases inexact
    · have : y ≤ k := by simpa using hi
      simpa [roundUp, RoundsToInt] using ⟨this, by linarith⟩
    · simpa [roundUp, RoundsToInt] using ⟨h1.le, hi.1 rfl⟩

/-- How the part that is dropped lies against half a unit. -/
def dropOrder (rem half : Nat) (sticky : Bool) : Ordering :=
  match compare rem half with
  | .eq => if sticky then .gt else .eq
  | o => o

theorem dropOrder_spec {rem half k : Nat} {sticky : Bool} {v y : Rat} (hv : StandsAt (k * (2 * half) + rem) sticky v)
    (hh : 0 < half) (hy : v = y * (2 * half)) :
    match dropOrder rem half sticky with
    | .lt => y < k + 1 / 2
    | .eq => y = k + 1 / 2
    | .gt => (k : Rat) + 1 / 2 < y := by
  obtain ⟨hm, hm1, hs⟩ := hv
  have hH : (0 : Rat) < half := by exact_mod_cast hh
  push_cast at hm hm1 hs
  unfold dropOrder
  rcases lt_trichotomy rem half with h | h | h
  · rw [Nat.compare_eq_lt.2 h]
    have : (rem : Rat) + 1 ≤ half := by exact_mod_cast h
    show y < k + 1 / 2
    nlinarith
  · subst h
    rw [Nat.compare_eq_eq.2 rfl]
    cases sticky
    · have := hs.2 rfl
      show y = k + 1 / 2
      have : (y - (k + 1 / 2)) * (2 * rem) = 0 := by linarith
      rcases mul_eq_zero.1 this with h | h <;> linarith
    · have : (k : Rat) * (2 * rem) + rem < v := lt_of_le_of_ne hm fun h => by simpa using hs.1 h
      show (k : Rat) + 1 / 2 < y
      nlinarith
  · rw [Nat.compare_eq_gt.2 h]
    have : (half : Rat) + 1 ≤ rem := by exact_mod_cast h
    show (k : Rat) + 1 / 2 < y
    nlinarith

/-- Dropping `s` bits divides by `2 ^ s` and rounds to an integer (R68). -/
theorem dropBits_roundsToInt {r : Rnd} {m s : Nat} {sticky : Bool} {v : Rat} (hv : StandsAt m sticky v) (hs : 0 < s) :
    RoundsToInt r (v / 2 ^ s) (dropBits r false m s sticky : Nat) := by
  obtain ⟨hm, hm1, hst⟩ := hv
  have hP : (0 : Rat) < 2 ^ s := by positivity
  have h0 : 0 ≤ v := hm.trans' m.cast_nonneg
  unfold dropBits
  split
  · next h =>
    -- Fewer bits than are dropped: the number is less than a quarter.
    have hb : (m : Rat) + 1 ≤ 2 ^ bitLen m := by exact_mod_cast lt_two_pow_bitLen m
    have hq : (2 : Rat) ^ bitLen m * 4 ≤ 2 ^ s := by
      rw [show (4 : Rat) = 2 ^ 2 by norm_num, ← pow_add]
      exact pow_le_pow_right₀ (by norm_num) h
    refine roundsToInt_of_lt_quarter (div_nonneg h0 hP.le) ((div_lt_iff₀ hP).2 (by linarith)) ?_
    rw [div_pos_iff_of_pos_right hP, h0.lt_iff_ne']
    cases sticky
    · have := hst.2 rfl
      simp [← this]
    · have : (m : Rat) ≠ v := fun h => by simpa using hst.1 h
      have : v ≠ 0 := fun h => this (le_antisymm hm (h ▸ m.cast_nonneg))
      simpa
  · obtain ⟨t, rfl⟩ : ∃ t, s = t + 1 := ⟨s - 1, by omega⟩
    have hd : m = m / 2 ^ (t + 1) * (2 * 2 ^ t) + m % 2 ^ (t + 1) := by
      rw [mul_comm 2, ← pow_succ]
      exact (Nat.div_add_mod' m _).symm
    have hlt : m % 2 ^ (t + 1) < 2 ^ (t + 1) := Nat.mod_lt _ (by positivity)
    generalize m / 2 ^ (t + 1) = k at hd ⊢
    generalize m % 2 ^ (t + 1) = rem at hd hlt ⊢
    subst hd
    have hlt' : (rem : Rat) + 1 ≤ 2 * 2 ^ t := by
      rw [mul_comm, ← pow_succ]
      exact_mod_cast hlt
    have hc := dropOrder_spec (y := v / 2 ^ (t + 1)) ⟨hm, hm1, hst⟩ (Nat.two_pow_pos t) (by push_cast; rw [pow_succ']; field_simp)
    push_cast at hm hm1 hst
    rw [pow_succ'] at hP
    simp only [Nat.add_eq_zero_iff, one_ne_zero, and_false, beq_iff_eq, if_false, Nat.add_sub_cancel]
    refine roundsToInt_roundUp ?_ ?_ ?_ hc
    · rw [pow_succ', le_div_iff₀ hP]
      have : (0 : Rat) ≤ rem := rem.cast_nonneg
      linarith
    · rw [pow_succ', div_lt_iff₀ hP]
      linarith
    · rw [pow_succ', lt_div_iff₀ hP]
      have h0 : (0 : Rat) ≤ rem := rem.cast_nonneg
      cases sticky
      · have := hst.2 rfl
        rw [← this]
        simp [Nat.pos_iff_ne_zero]
      · have : (k : Rat) * (2 * 2 ^ t) + rem ≠ v := fun h => by simpa using hst.1 h
        simpa using lt_of_le_of_ne (by linarith) fun h => this (le_antisymm hm (by linarith))

/-! ### The codes of a format (R65) -/

theorem Fmt.mag_eq (f : Fmt) (k : Nat) : f.mag k = if k < 2 ^ f.p then (k : Rat) * 2 ^ f.low
    else ((2 ^ f.p + k % 2 ^ f.p : Nat) : Rat) * 2 ^ (f.low + (k / 2 ^ f.p : Nat) - 1) := by
  have : (2 : Int) - 2 ^ (f.e - 1) - f.p = f.low := by
    unfold Fmt.low Fmt.bias
    ring
  rw [Fmt.mag, this]

/-- In binade `n` a code stands for as many units of `2 ^ (f.low + n)` as it lies above the code of `n` binades, the first code of
the next binade included. -/
theorem Fmt.mag_binade (f : Fmt) {n j : Nat} (hj : j ≤ 2 ^ (f.p + 1)) (hn : n = 0 ∨ 2 ^ f.p ≤ j) :
    f.mag (n * 2 ^ f.p + j) = j * 2 ^ (f.low + n) := by
  have hP : 0 < 2 ^ f.p := Nat.two_pow_pos _
  rw [pow_succ] at hj
  rw [Fmt.mag_eq]
  by_cases hlt : j < 2 ^ f.p
  · obtain rfl : n = 0 := by omega
    simp [hlt]
  · obtain ⟨i, rfl⟩ := Nat.exists_eq_add_of_le (not_lt.1 hlt)
    rw [if_neg (by nlinarith), show n * 2 ^ f.p + (2 ^ f.p + i) = i + (n + 1) * 2 ^ f.p by ring, Nat.add_mul_mod_self_right,
      Nat.add_mul_div_right _ _ hP]
    rcases (show i ≤ 2 ^ f.p by omega).lt_or_eq with hi | rfl
    · rw [Nat.mod_eq_of_lt hi, Nat.div_eq_of_lt hi]
      push_cast
      congr 2
      ring
    · rw [Nat.mod_self, Nat.div_self hP, show f.low + (1 + (n + 1) : Nat) - 1 = f.low + n + 1 by push_cast; ring,
        zpow_add_one₀ two_ne_zero]
      push_cast
      ring

theorem Fmt.mag_strictMono (f : Fmt) : StrictMono f.mag := by
  refine strictMono_nat_of_lt_succ fun k => ?_
  have hd := Nat.div_add_mod' k (2 ^ f.p)
  have hm := Nat.mod_lt k (Nat.two_pow_pos f.p)
  obtain ⟨n, j, rfl, hj, hn⟩ : ∃ n j, k = n * 2 ^ f.p + j ∧ j + 1 ≤ 2 ^ (f.p + 1) ∧ (n = 0 ∨ 2 ^ f.p ≤ j) := by
    rw [pow_succ]
    rcases h : k / 2 ^ f.p with _ | n
    · exact ⟨0, k % 2 ^ f.p, by simp_all, by omega, .inl rfl⟩
    · exact ⟨n, 2 ^ f.p + k % 2 ^ f.p, by rw [h] at hd; linarith, by omega, .inr (by omega)⟩
  rw [add_assoc, f.mag_binade (by omega) hn, f.mag_binade hj (by omega)]
  have : (0 : Rat) < 2 ^ (f.low + n) := by positivity
  push_cast
  linarith

/-! ### The nearest code (R69) -/

/-- The middle between a code and the next. -/
def Fmt.half (f : Fmt) (k : Nat) : Rat := (f.mag k + f.mag (k + 1)) / 2

/-- `b` is the code a positive value is rounded to when the binades go on without end. -/
def Fmt.NearestFree (f : Fmt) (r : Rnd) (x : Rat) (b : Nat) : Prop :=
  match r with
  | .rn => (0 < b → f.half (b - 1) < x ∨ (f.half (b - 1) ≤ x ∧ b % 2 = 0)) ∧ (x < f.half b ∨ (x ≤ f.half b ∧ b % 2 = 0))
  | .rz | .rm => f.mag b ≤ x ∧ x < f.mag (b + 1)
  | .rp => 0 < b ∧ f.mag (b - 1) < x ∧ x ≤ f.mag b

theorem Fmt.half_lt (f : Fmt) (k : Nat) : f.half k < f.mag (k + 1) := by
  have := f.mag_strictMono (Nat.lt_succ_self k)
  unfold Fmt.half
  linarith
theorem Fmt.lt_half (f : Fmt) (k : Nat) : f.mag k < f.half k := by
  have := f.mag_strictMono (Nat.lt_succ_self k)
  unfold Fmt.half
  linarith

theorem Fmt.half_binade (f : Fmt) {n j : Nat} (hj : j + 1 ≤ 2 ^ (f.p + 1)) (hn : n = 0 ∨ 2 ^ f.p ≤ j) :
    f.half (n * 2 ^ f.p + j) = (j + 1 / 2) * 2 ^ (f.low + n) := by
  rw [Fmt.half, add_assoc, f.mag_binade (by omega) hn, f.mag_binade hj (by omega)]
  push_cast
  ring

theorem roundsToInt_bounds {r : Rnd} {y : Rat} {k : Nat} (h0 : 0 ≤ y) (h : RoundsToInt r y k) : y < k + 1 ∧ (k : Rat) < y + 1 := by
  cases r
  case rn => rcases h with ⟨h1, h2⟩ | ⟨h1 | h1, -⟩ <;> constructor <;> push_cast at * <;> linarith
  case rz =>
    rw [RoundsToInt, if_pos h0] at h
    obtain ⟨h1, h2⟩ := h
    constructor <;> push_cast at * <;> linarith
  all_goals
    obtain ⟨h1, h2⟩ := h
    constructor <;> push_cast at * <;> linarith

/-- A value of binade `n`, rounded to an integer of the binade's units, is rounded to a code (R68, R69). -/
theorem Fmt.nearestFree_of_roundsToInt {f : Fmt} {r : Rnd} {n k : Nat} {y : Rat} (hp : 0 < f.p) (h0 : 0 < y) (hy : y < 2 ^ (f.p + 1))
    (hn : n = 0 ∨ 2 ^ f.p ≤ y) (hr : RoundsToInt r y k) : f.NearestFree r (y * 2 ^ (f.low + n)) (n * 2 ^ f.p + k) := by
  have hU : (0 : Rat) < 2 ^ (f.low + n) := by positivity
  obtain ⟨hy1, hk1⟩ := roundsToInt_bounds h0.le hr
  -- The integer lies in the binade, whose upper end is the next binade's first code.
  have hk : k ≤ 2 ^ (f.p + 1) := by
    have : (k : Rat) < (2 ^ (f.p + 1) + 1 : Nat) := by push_cast; linarith
    exact Nat.lt_succ_iff.1 (by exact_mod_cast this)
  have hkn : n = 0 ∨ 2 ^ f.p ≤ k := hn.imp_right fun h => by
    have : ((2 ^ f.p : Nat) : Rat) < (k + 1 : Nat) := by push_cast; linarith
    exact Nat.lt_succ_iff.1 (by exact_mod_cast this)
  have hmag := f.mag_binade hk hkn
  -- The code below lies in the binade too, or else the value is not below the binade's first code.
  have hpred : 0 < n * 2 ^ f.p + k → (∃ j, k = j + 1 ∧ (n = 0 ∨ 2 ^ f.p ≤ j)) ∨ (k : Rat) ≤ y := by
    intro hb
    rcases hn with rfl | hn
    · exact .inl ⟨k - 1, by omega, .inl rfl⟩
    · by_cases hj : 2 ^ f.p + 1 ≤ k
      · exact .inl ⟨k - 1, by omega, .inr (by omega)⟩
      · refine .inr (hn.trans' ?_)
        exact_mod_cast (by omega : k ≤ 2 ^ f.p)
  cases r
  case rn =>
    have heven : (n * 2 ^ f.p + k) % 2 = k % 2 := by
      obtain ⟨q, hq⟩ := Nat.exists_eq_add_of_lt hp
      rw [hq, pow_succ, ← mul_assoc]
      omega
    obtain ⟨hlo, hhi⟩ : ((k : Rat) < y + 1 / 2 ∨ ((k : Rat) ≤ y + 1 / 2 ∧ k % 2 = 0))
        ∧ (y < k + 1 / 2 ∨ (y ≤ k + 1 / 2 ∧ k % 2 = 0)) := by
      rcases hr with ⟨h1, h2⟩ | ⟨h1 | h1, h2⟩
      · push_cast at h1 h2
        exact ⟨.inl (by linarith), .inl (by linarith)⟩
      all_goals
        push_cast at h1
        exact ⟨.inr ⟨by linarith, by omega⟩, .inr ⟨by linarith, by omega⟩⟩
    refine ⟨fun hb => ?_, ?_⟩
    · rw [heven]
      rcases hpred hb with ⟨j, rfl, hj⟩ | hle
      · rw [show n * 2 ^ f.p + (j + 1) - 1 = n * 2 ^ f.p + j by omega, f.half_binade hk hj,
          mul_lt_mul_iff_left₀ hU, mul_le_mul_iff_left₀ hU]
        push_cast at hlo
        exact hlo.imp (fun h => by linarith) fun h => ⟨by linarith [h.1], h.2⟩
      · left
        have := f.half_lt (n * 2 ^ f.p + k - 1)
        rw [Nat.sub_add_cancel hb, hmag] at this
        nlinarith
    · rw [heven]
      rcases hk.lt_or_eq with hk | hk
      · rw [f.half_binade hk hkn, mul_lt_mul_iff_left₀ hU, mul_le_mul_iff_left₀ hU]
        exact hhi
      · left
        have := f.lt_half (n * 2 ^ f.p + k)
        rw [hmag] at this
        subst hk
        push_cast at this
        nlinarith
  case rp =>
    obtain ⟨hle, hlt⟩ := hr
    push_cast at hle hlt
    have hk0 : (0 : Rat) < k := by linarith
    have hb : 0 < n * 2 ^ f.p + k := Nat.add_pos_right _ (by exact_mod_cast hk0)
    refine ⟨hb, ?_, by rw [hmag]; nlinarith⟩
    rcases hpred hb with ⟨j, rfl, hj⟩ | hle
    · rw [show n * 2 ^ f.p + (j + 1) - 1 = n * 2 ^ f.p + j by omega, f.mag_binade (by omega) hj]
      push_cast at hlt
      nlinarith
    · have := f.mag_strictMono (Nat.sub_lt hb one_pos)
      rw [hmag] at this
      nlinarith
  all_goals
    obtain ⟨hle, hlt⟩ : (k : Rat) ≤ y ∧ y < k + 1 := by simpa [RoundsToInt, h0.le] using hr
    have hk : k + 1 ≤ 2 ^ (f.p + 1) := by
      have : (k : Rat) < (2 ^ (f.p + 1) : Nat) := by push_cast; linarith
      exact_mod_cast this
    rw [Fmt.NearestFree, hmag, add_assoc, f.mag_binade hk (by omega)]
    push_cast
    constructor <;> nlinarith

theorem Fmt.nearest_rn_iff {f : Fmt} {x : Rat} {w : Nat} : f.Nearest .rn (· < x) (x < ·) w ↔ w ≤ f.infBits
    ∧ (0 < w → f.half (w - 1) < x ∨ (f.half (w - 1) ≤ x ∧ w % 2 = 0))
    ∧ (w < f.infBits → x < f.half w ∨ (x ≤ f.half w ∧ w % 2 = 0)) := by
  simp only [Fmt.Nearest, not_lt, Fmt.half]

/-- Where the binades end the infinity stands for every code above it, but for the modes that round down to the greatest finite code
(R69). -/
theorem Fmt.nearest_of_nearestFree {f : Fmt} {r : Rnd} {x : Rat} {b : Nat} (hf : 0 < f.infBits) (h : f.NearestFree r x b) :
    f.Nearest r (· < x) (x < ·) (if b ≥ f.infBits then f.overflow r false else b) := by
  have hmono := f.mag_strictMono
  have hhalf {a b : Nat} (h : a < b) : f.half a < f.half b := by
    have h1 := hmono h
    have h2 := hmono (Nat.succ_lt_succ h)
    unfold Fmt.half
    linarith
  cases r
  case rn =>
    obtain ⟨hlo, hhi⟩ := h
    rw [Fmt.nearest_rn_iff]
    split
    · next hb =>
      refine ⟨le_rfl, fun _ => ?_, fun h => absurd h (lt_irrefl _)⟩
      rcases eq_or_lt_of_le hb with heq | hlt
      · rw [Fmt.overflow, heq]
        exact hlo (heq ▸ hf)
      · left
        have := hhalf (show f.infBits - 1 < b - 1 by omega)
        rcases hlo (by omega) with h | h
        · exact this.trans h
        · exact this.trans_le h.1
    · next hb =>
      exact ⟨by omega, hlo, fun _ => hhi⟩
  case rp =>
    obtain ⟨hpos, hlo, hhi⟩ := h
    split
    · next hb =>
      have hle : f.mag (f.infBits - 1) ≤ f.mag (b - 1) := hmono.monotone (by omega)
      exact ⟨le_rfl, hf, hle.trans_lt hlo, fun h => absurd h (lt_irrefl _)⟩
    · next hb => exact ⟨by omega, hpos, hlo, fun _ => not_lt.2 hhi⟩
  all_goals
    obtain ⟨hlo, hhi⟩ := h
    split
    · next hb =>
      have hle : f.mag (f.infBits - 1) ≤ f.mag b := hmono.monotone (by omega)
      exact ⟨Nat.sub_lt hf one_pos, not_lt.2 (hle.trans hlo), fun h => absurd (show f.infBits - 1 + 1 < f.infBits from h) (by omega)⟩
    · next hb => exact ⟨by omega, not_lt.2 hlo, fun _ => hhi⟩

/-- The exponent of the unit in the last place that a magnitude of `m` units of `2 ^ e` is rounded to. -/
def Fmt.unitExp (f : Fmt) (m : Nat) (e : Int) : Int := max (e + bitLen m - 1 - f.p) f.low

/-- In units of the last place a magnitude lies in the format's range, and at its upper half unless it is subnormal. -/
theorem Fmt.unitExp_spec {f : Fmt} {m : Nat} {e : Int} {v : Rat} (hm : 0 < m) (hlo : (m : Rat) ≤ v) (hhi : v < m + 1) :
    v * 2 ^ (e - f.unitExp m e) < 2 ^ (f.p + 1) ∧ (f.unitExp m e = f.low ∨ 2 ^ f.p ≤ v * 2 ^ (e - f.unitExp m e)) := by
  have hU : (0 : Rat) < 2 ^ (e - f.unitExp m e) := by positivity
  have hb := bitLen_pos hm
  have hq : f.unitExp m e = max (e + bitLen m - 1 - f.p) f.low := rfl
  constructor
  · have hm2 : (m : Rat) + 1 ≤ 2 ^ bitLen m := by exact_mod_cast lt_two_pow_bitLen m
    calc v * 2 ^ (e - f.unitExp m e) < 2 ^ bitLen m * 2 ^ (e - f.unitExp m e) := by nlinarith
      _ = 2 ^ ((bitLen m : Int) + (e - f.unitExp m e)) := by rw [zpow_add₀ two_ne_zero, zpow_natCast]
      _ ≤ 2 ^ ((f.p + 1 : Nat) : Int) := zpow_le_zpow_right₀ one_le_two (by omega)
      _ = 2 ^ (f.p + 1) := zpow_natCast _ _
  · refine or_iff_not_imp_left.2 fun hne => ?_
    have hm2 : (2 : Rat) ^ (bitLen m - 1) ≤ m := by exact_mod_cast two_pow_bitLen_le hm
    calc (2 : Rat) ^ f.p = 2 ^ (((bitLen m - 1 : Nat) : Int) + (e - f.unitExp m e)) := by rw [← zpow_natCast]; congr 1; omega
      _ = 2 ^ (bitLen m - 1) * 2 ^ (e - f.unitExp m e) := by rw [zpow_add₀ two_ne_zero, zpow_natCast]
      _ ≤ v * 2 ^ (e - f.unitExp m e) := by nlinarith

/-- A number given with a nonzero part below its units has bits enough that some are dropped. -/
theorem Fmt.lt_unitExp {f : Fmt} {m : Nat} (e : Int) (hm : 2 ^ (f.p + 2) ≤ m) : e < f.unitExp m e := by
  have : f.p + 2 < bitLen m := (Nat.pow_lt_pow_iff_right one_lt_two).1 (hm.trans_lt (lt_two_pow_bitLen m))
  have hq : f.unitExp m e = max (e + bitLen m - 1 - f.p) f.low := rfl
  omega

/-- The one rounding gives the nearest code (R69): the magnitude is given in units of `2 ^ e`, exactly or with a nonzero part below
them, of which it has then enough for the format. -/
theorem Fmt.round_nearest {f : Fmt} {r : Rnd} {m : Nat} {e : Int} {sticky : Bool} {v : Rat} (hp : 0 < f.p) (hf : 0 < f.infBits) (hm : 0 < m)
    (hst : sticky = true → 2 ^ (f.p + 2) ≤ m) (hv : StandsAt m sticky v) :
    f.Nearest r (· < v * 2 ^ e) (v * 2 ^ e < ·) (f.round r false m e sticky) := by
  simp only [Fmt.round, beq_iff_eq, hm.ne', Bool.and_eq_true, false_and, if_false, Fmt.withSign, Bool.false_eq_true, Nat.add_zero]
  refine f.nearest_of_nearestFree hf ?_
  obtain ⟨hlo, hhi, hex⟩ := id hv
  obtain ⟨hrange, hnormal⟩ := f.unitExp_spec (e := e) hm hlo hhi
  have hv0 : 0 < v := lt_of_lt_of_le (by exact_mod_cast hm) hlo
  have hlow : f.low ≤ f.unitExp m e := le_max_right _ _
  rw [← Fmt.unitExp]
  have hdrop := f.lt_unitExp (m := m) e
  generalize f.unitExp m e = q at hrange hnormal hlow hdrop ⊢
  obtain ⟨n, rfl⟩ := Int.le.dest hlow
  have hx : v * 2 ^ e = v * 2 ^ (e - (f.low + n)) * 2 ^ (f.low + n : Int) := by
    rw [mul_assoc, ← zpow_add₀ two_ne_zero, sub_add_cancel]
  rw [hx, add_sub_cancel_left, Int.toNat_natCast]
  refine f.nearestFree_of_roundsToInt hp (by positivity) hrange (hnormal.imp_left fun h => by omega) ?_
  split
  · next hle =>
    -- Every bit is kept.
    cases sticky
    · rw [← hex.2 rfl]
      have : (m : Rat) * 2 ^ (e - (f.low + n)) = (m * 2 ^ (e - (f.low + n)).toNat : Nat) := by
        push_cast
        rw [← zpow_natCast, Int.toNat_of_nonneg (by omega)]
      rw [this]
      exact roundsToInt_natCast r _
    · have := hdrop (hst rfl)
      omega
  · next hle =>
    have : v * 2 ^ (e - (f.low + n)) = v / 2 ^ (f.low + n - e).toNat := by
      rw [← zpow_natCast, Int.toNat_of_nonneg (by omega), div_eq_mul_inv, ← zpow_neg, neg_sub]
    rw [this]
    exact dropBits_roundsToInt hv (by omega)

/-! ### What the nearest code is -/

/-- Of two numbers the one beyond the middle is the nearer. -/
theorem abs_sub_lt_of_middle_lt {a b x : Rat} (hab : a < b) (h : (a + b) / 2 < x) : |x - b| < |x - a| := by
  rw [abs_of_pos (by linarith : 0 < x - a), abs_lt]
  constructor <;> linarith

/-- At the middle the two are as near. -/
theorem abs_sub_le_of_middle_le {a b x : Rat} (hab : a < b) (h : (a + b) / 2 ≤ x) : |x - b| ≤ |x - a| := by
  rw [abs_of_pos (by linarith : 0 < x - a), abs_le]
  constructor <;> linarith

/-- No code up to the infinity's is nearer than the one RNE gives, and one as near gives way to an even one (R68, R69). -/
theorem Fmt.Nearest.rn_abs {f : Fmt} {x : Rat} {w k : Nat} (h : f.Nearest .rn (· < x) (x < ·) w) (hk : k ≤ f.infBits) (hne : k ≠ w) :
    |x - f.mag w| < |x - f.mag k| ∨ (|x - f.mag w| = |x - f.mag k| ∧ w % 2 = 0) := by
  obtain ⟨hw, hlo, hhi⟩ := Fmt.nearest_rn_iff.1 h
  have hmono := f.mag_strictMono
  unfold Fmt.half at hlo hhi
  have tie {a b : Rat} (h : a ≤ b) (he : w % 2 = 0) : a < b ∨ (a = b ∧ w % 2 = 0) := h.lt_or_eq.imp_right fun h => ⟨h, he⟩
  rcases hne.lt_or_gt with hkw | hkw
  · have hkm : f.mag k ≤ f.mag (w - 1) := hmono.monotone (by omega)
    have hlo := hlo (by omega)
    rw [Nat.sub_add_cancel (by omega : 1 ≤ w)] at hlo
    rcases hlo with h | ⟨h, he⟩
    · exact .inl (abs_sub_lt_of_middle_lt (hmono hkw) (by linarith))
    · exact tie (abs_sub_le_of_middle_le (hmono hkw) (by linarith)) he
  · have hkm : f.mag (w + 1) ≤ f.mag k := hmono.monotone (by omega)
    -- Seen from the other side, with every sign reversed.
    have hneg (a : Rat) : |x - a| = |-x - -a| := by rw [← neg_add', abs_neg, sub_eq_add_neg]
    rw [hneg, hneg]
    rcases hhi (by omega) with h | ⟨h, he⟩
    · exact .inl (abs_sub_lt_of_middle_lt (neg_lt_neg (hmono hkw)) (by linarith))
    · exact tie (abs_sub_le_of_middle_le (neg_lt_neg (hmono hkw)) (by linarith)) he

theorem ite_sub_eq_abs (x a : Rat) : (if a ≤ x then x - a else a - x) = |x - a| := by
  split
  · next h => exact (abs_of_nonneg (sub_nonneg.2 h)).symm
  · next h => rw [abs_sub_comm, abs_of_pos (sub_pos.2 (not_le.1 h))]

theorem Fmt.Nearest.le_infBits {f : Fmt} {r : Rnd} {lt gt : Rat → Prop} {w : Nat} (h : f.Nearest r lt gt w) : w ≤ f.infBits := by
  cases r
  case rn => exact h.1
  case rp => exact h.1
  all_goals exact h.1.le

/-! ### Signs and zeros (R68, R69, R70) -/

theorem Fmt.overflow_neg (f : Fmt) (r : Rnd) : f.overflow r true = f.overflow (mirrorMode r) false := by cases r <;> rfl

theorem Fmt.round_neg (f : Fmt) (r : Rnd) (m : Nat) (e : Int) (sticky : Bool) :
    f.round r true m e sticky = f.signBit + f.round (mirrorMode r) false m e sticky := by
  unfold Fmt.round
  split
  · simp [Fmt.withSign]
  · simp [Fmt.withSign, dropBits_neg, Fmt.overflow_neg, Nat.add_comm]

theorem Fmt.round_zero (f : Fmt) (r : Rnd) (neg : Bool) (e : Int) : f.round r neg 0 e false = if neg then f.signBit else 0 := by
  cases neg <;> simp [Fmt.round, Fmt.withSign]

/-- A value given in units of `2 ^ e`, exactly or as a bound with a nonzero part below it. -/
theorem standsAt_div {m : Nat} {e : Int} {sticky : Bool} {x : Rat}
    (h : if sticky then (m : Rat) * 2 ^ e < x ∧ x < ((m + 1 : Nat) : Rat) * 2 ^ e else x = (m : Rat) * 2 ^ e) :
    StandsAt m sticky (x / 2 ^ e) := by
  have hU : (0 : Rat) < 2 ^ e := by positivity
  cases sticky
  · rw [if_neg Bool.false_ne_true] at h
    have : x / 2 ^ e = m := by rw [h, mul_div_cancel_right₀ _ hU.ne']
    rw [this]
    exact ⟨le_rfl, lt_add_one _, by simp⟩
  · obtain ⟨h1, h2⟩ := h
    push_cast at h2
    rw [← lt_div_iff₀ hU] at h1
    exact ⟨h1.le, (div_lt_iff₀ hU).2 h2, by simpa using h1.ne⟩

theorem fmt_pos : ∀ f ∈ [fmt32, fmt16, fmtB16, fmt64], 0 < f.p ∧ 0 < f.infBits := by decide

/-- Settles O9: in its binade a value is rounded to an integer of units, which is a code, and the codes' values rise. -/
theorem floatRounding : Obligations.FloatRounding := by
  unfold Obligations.FloatRounding
  intro f hf r m e sticky x value away flip w hx
  obtain ⟨hp, hinf⟩ := fmt_pos f hf
  have hval : value = f.mag := funext fun k => (f.mag_eq k).symm
  have haway (k : Nat) : away k = |x - f.mag k| := by
    rw [← ite_sub_eq_abs, ← hval]
  have hnear : f.Nearest r (· < x) (x < ·) w := by
    have hU : (2 : Rat) ^ e ≠ 0 := by positivity
    obtain ⟨hm, hst, hv⟩ : 0 < m ∧ (sticky = true → 2 ^ (f.p + 2) ≤ m) ∧ StandsAt m sticky (x / 2 ^ e) := by
      cases sticky
      · exact ⟨hx.1, by simp, standsAt_div hx.2⟩
      · exact ⟨hx.1.trans_lt' (by positivity), fun _ => hx.1, standsAt_div hx.2⟩
    have := f.round_nearest (r := r) (e := e) hp hinf hm hst hv
    rwa [div_mul_cancel₀ _ hU] at this
  refine ⟨hnear.le_infBits, ?_, f.round_neg r m e sticky, fun neg => f.round_zero r neg e⟩
  cases r
  case rn =>
    intro k hk hne
    rw [haway, haway]
    exact hnear.rn_abs hk hne
  case rp =>
    obtain ⟨hle, hpos, hlo, hhi⟩ := hnear
    exact ⟨hle.eq_or_lt.imp_right fun h => hval ▸ not_lt.1 (hhi h), hpos, hval ▸ hlo⟩
  all_goals
    obtain ⟨hlt, hlo, hhi⟩ := hnear
    exact ⟨hlt, hval ▸ not_lt.1 hlo, hval ▸ hhi⟩

end Sys2Proof.Machine
end

section
/-! A copy of a tensor to several sheets, in a package whose table of sheets does not list them in rising order (R113, R335). -/

namespace Sys2Proof.Machine

/-! ### Completion without a notice

A context that ends is reported to the penholder, so where no notice stands the completion of an instruction has ended none, and the
copies in flight are those the instruction left. -/

theorem State.notice_copies (s : State) (kind cx code origin addr : Nat) : (s.notice kind cx code origin addr).copies = s.copies := by
  unfold State.notice
  rfl

theorem State.asyncError_copies (s : State) (cx code addr detail : Nat) : (s.asyncError cx code addr detail).copies = s.copies := by
  simp only [State.asyncError, apply_ite State.copies, State.modCtx_copies, State.notice_copies, ite_self]

theorem State.exhaust_copies (s : State) (cx : Nat) : (s.exhaust cx).copies = s.copies := by
  rw [State.exhaust, State.modCtx_copies, State.drew_copies, State.asyncError_copies]

theorem State.notice_notices_ne_nil (s : State) (kind cx code origin addr : Nat) :
    (s.notice kind cx code origin addr).steward.notices ≠ [] := by
  intro h
  simp only [State.notice, List.drop_eq_nil_iff] at h
  simp only [List.length_append, List.length_singleton] at h
  omega

theorem State.endContext_notices_ne_nil {s : State} {cx : Nat} (h : (tabGet cx s.ctxs).isSome ∨ s.steward.notices ≠ [])
    (origin code : Nat) : (s.endContext cx origin code).steward.notices ≠ [] := by
  unfold State.endContext
  cases hc : tabGet cx s.ctxs with
  | none => exact h.resolve_left (by simp [hc])
  | some x => exact State.notice_notices_ne_nil _ _ _ _ _ _

theorem isSome_tabGet_of_mem {α : Type} {p : Nat × α} {l : List (Nat × α)} (h : p ∈ l) : (tabGet p.1 l).isSome := by
  induction l with
  | nil => cases h
  | cons q l ih =>
    rw [tabGet]
    split
    · rfl
    · next hne =>
      refine ih ((List.mem_cons.1 h).resolve_left ?_)
      rintro rfl
      exact hne rfl

theorem State.foldl_exhaust_copies (l : List Nat) (s : State) : (l.foldl (fun s cx => s.exhaust cx) s).copies = s.copies := by
  induction l generalizing s with
  | nil => rfl
  | cons cx l ih => rw [List.foldl_cons, ih, State.exhaust_copies]

theorem State.foldl_endContext_notices_ne_nil (l : List Nat) (origin code : Nat) {s : State} (h : s.steward.notices ≠ []) :
    (l.foldl (fun s cx => s.endContext cx origin code) s).steward.notices ≠ [] := by
  induction l generalizing s with
  | nil => exact h
  | cons cx l ih => exact ih (State.endContext_notices_ne_nil (.inr h) _ _)

theorem State.reap_copies {s : State} (h : s.reap.steward.notices = []) : s.reap.copies = s.copies := by
  unfold State.reap at h ⊢
  rw [← State.foldl_exhaust_copies ((s.ctxs.filter fun p => !p.2.expired && s.clockEnds p.1).map (·.1)) s]
  generalize ((s.ctxs.filter fun p => !p.2.expired && s.clockEnds p.1).map (·.1)).foldl (fun s cx => s.exhaust cx) s = t at h ⊢
  dsimp only at h ⊢
  cases hl : t.ctxs.filter fun p => p.2.expired with
  | nil => rfl
  | cons p l =>
    rw [hl, List.map_cons, List.foldl_cons] at h
    have hp : p ∈ t.ctxs.filter fun p => p.2.expired := hl ▸ List.mem_cons_self
    have hsome := isSome_tabGet_of_mem (List.mem_of_mem_filter hp)
    exact absurd h (State.foldl_endContext_notices_ne_nil _ _ _ (State.endContext_notices_ne_nil (.inl hsome) _ _))

theorem State.finish_copies {s : State} {c : Site} {i : Instr} (h : (s.finish c i).steward.notices = []) :
    (s.finish c i).copies = s.copies := by
  rw [State.finish, State.finishAt, State.reap_copies h]
  cases c.agent with
  | gang g => cases i.reaches <;> rfl
  | seq k => rfl

/-! ### A package whose sheets are listed out of order -/

/-- No guard. -/
def unguarded : Guard := { neg := false, p := 7 }

/-- The 128 bytes of a layout record (R108): one dimension of one element of one byte, boxes of one element, delivered to barrier 0 of
the sheets on the cluster of position (0, 0). -/
def manyRecordBytes : List Byte := toBytesLE 128 (2 ^ 64 + 2 ^ 67 + 2 ^ 74 + 2 ^ 80 + 2 ^ 128 + 2 ^ 256)

/-- The registers of a CPT of the record at scratchpad address 0 to line 1, with origin 1, out of the tensor's bounds. -/
def recordRegs : Regs := (({} : Regs).setUni 3 1).setUni 8 1

/-- A sheet of the placed package that holds the record, and whose barrier 0 takes arrivals of copies. -/
def recordSheet : Sheet :=
  { (placedSheet false false 1).putSpad 0 manyRecordBytes with
    bars := [(0, { valid := true, nc := 1 })]
    fmt := [(0, 0x990798)]
    gangs := [(0, { placedGang false with regs := recordRegs })] }

/-- The placed package with a second sheet, which its table lists before the issuing one of the lower number. -/
def unsortedSheets : State :=
  { State.reset.withFetchWord 0 0x1C00 with sheets := [(1, placedSheet false false 2), (0, recordSheet)], nextId := 3 }

/-- Its issuer: gang 0 of sheet 0. -/
def unsortedSite : Site :=
  { sid := 0, sh := recordSheet, agent := .gang 0, view := { regs := recordRegs, W := 16, lanes := lanesBelow 16 }
    pc := 128, atS := false, die := 0, clk := 0 }

/-- CPT of the record named by s2 to the line in s3, with its origin from s8 on. -/
def copyIn : Instr := .cptIn unguarded 2 3 8

theorem unsortedSheets_actsOn : ActsOn copyIn unguarded unsortedSheets unsortedSheets unsortedSite :=
  have hsite : unsortedSheets.site = some unsortedSite := by decide +kernel
  ⟨⟨unsortedSite, ⟨hsite, by decide +kernel⟩, by decide +kernel, hsite⟩, by decide +kernel⟩

/-- The instruction completes, and the copy goes to sheet 0 twice: the stamp of the record's line has entered the sheet a second time
in the table, before the sheet of the higher number. -/
theorem unsortedSheets_copies : (match exec copyIn unsortedSheets with
    | .next t => decide (t.steward.notices = [] ∧ (tabGet 3 t.copies).map (fun cp => cp.dests.map (·.sheet)) = some [0, 0])
    | _ => false) = true := by decide +kernel

/-- An instruction that uses no address reads nothing and passes the checks of one. -/
theorem State.checkAccess_of_eq_nil {s : State} {w : Issuer} {reqs : List Req} (h : reqs = []) : s.checkAccess w reqs = .ok ([], s) := by
  subst h
  rfl

/-- Refutes O44: where the table of sheets does not list them in rising order, a multicast copy goes to the issuing sheet once more than
that sheet stands among the receivers before the instruction. Of tables in rising order this says nothing. -/
theorem not_copies : ¬ Obligations.Copies := by
  unfold Obligations.Copies
  rintro ⟨-, h, -⟩
  obtain ⟨-, -, -, -, -, h⟩ :=
    h unsortedSheets unsortedSheets unsortedSheets unsortedSite unguarded 2 3 8 none [] unsortedSheets_actsOn
  -- The record is well formed, its box lies in the scratchpad, and no element of it is in bounds.
  obtain ⟨u, cp, hdoes, -, hcp, -, -, hin, -⟩ := h (by decide +kernel) (by decide +kernel) (by decide +kernel) (by decide +kernel)
    (State.checkAccess_of_eq_nil (by decide +kernel)) (by decide +kernel) (by decide +kernel)
  obtain ⟨-, -, -, hmc, -⟩ := hin rfl
  -- The copy in flight after the instruction goes to sheet 0 twice.
  have hend := unsortedSheets_copies
  rw [show exec copyIn unsortedSheets = _ from hdoes] at hend
  obtain ⟨hnone, hcopies⟩ := of_decide_eq_true hend
  rw [State.finish_copies hnone, show tabGet 3 u.copies = _ from hcp, Option.map_some, Option.some.injEq] at hcopies
  have htwo : cp.dests.length = 2 := by simpa using congrArg List.length hcopies
  -- The receivers before it are sheet 0 once.
  have hlen := congrArg List.length (hmc (by decide +kernel))
  rw [List.length_map, htwo] at hlen
  exact absurd hlen (by decide +kernel)

end Sys2Proof.Machine
end

section
/-! Every step keeps memory in its canonical form (R105, R129, R362). -/

namespace Sys2Proof.Machine

/-- The step of an issue in progress keeps memory's form: no fetch touches memory, and each of its three answers has its law. -/
theorem issueStep_okMem (s : State) (hs : Memory.wf s.mem = true) : OkMem (issueStep s) := by
  unfold issueStep
  split
  · exact okMem_next hs
  · next c _ =>
    have hf : Memory.wf (s.fetch c).2.mem = true := by rwa [State.fetch_mem]
    split <;> rename_i e <;> rw [e] at hf
    · exact okMem_of (State.skipPad_mem ..) hf
    · exact okMem_next (State.fetchTrap_wf _ _ _ _ hf)
    · exact exec_okMem _ _ hf

/-- The step between instructions keeps memory's form: what is measured, scheduled and chosen touches no byte, and what
happens keeps the form. -/
theorem panelStep_okMem (s : State) (hs : Memory.wf s.mem = true) : OkMem (panelStep s) := by
  have ht : Memory.wf s.track.mem = true := by rwa [State.track_mem]
  unfold panelStep
  split
  · exact exec_okMem _ _ hs
  dsimp only
  split
  · exact okMem_next ht
  · exact okMem_next (State.happen_wf _ _ (by rwa [State.choose_mem, State.setDue_mem]))

/-- Settles O59: with an issue in progress or without one, the step is made of operations that keep the form. -/
theorem memoryForm : Obligations.MemoryForm := by
  intro s t hs ht
  unfold step at ht
  split at ht
  · exact issueStep_okMem s hs t ht
  · exact panelStep_okMem s hs t ht

end Sys2Proof.Machine
end

section
/-! The checks of an access (R281, R415, R418, R419) and the walks of the page tables (R413 to R417). -/

namespace Sys2Proof.Machine

/-! ### The first request that fails a check -/

theorem firstFail_of_forall {reqs : List Req} {cause check : Nat} {info : Req → Nat} {ok : Req → Bool} (h : ∀ r ∈ reqs, ok r = true) :
    firstFail reqs cause check info ok = none := by
  rw [firstFail, List.find?_eq_none.2 fun r hr => by simp [h r hr], Option.map_none]

/-- The request named is the first that fails. -/
theorem firstFail_of_first {reqs : List Req} {cause check : Nat} {info : Req → Nat} {ok : Req → Bool} {r : Req} {pre post : List Req}
    (hreqs : reqs = pre ++ r :: post) (hr : ok r = false) (hpre : ∀ x ∈ pre, ok x = true) :
    firstFail reqs cause check info ok = some { cause := cause, check := check, lane := some r.lane, addr := r.va, info := info r } := by
  subst hreqs
  have hnone : pre.find? (fun r => !ok r) = none := List.find?_eq_none.2 fun x hx => by simp [hpre x hx]
  simp [firstFail, hnone, hr]

/-! ### What the checks of a translated page say -/

/-- What the instruction's translations give the page of one of its addresses. -/
def State.pageOf (s : State) (w : Issuer) (reqs : List Req) (r : Req) : Option Translated :=
  tabGet (r.va / 65536) (s.translatePages w (reqs.map fun r => r.va / 65536) w.known).1

/-- The leaf they give it. -/
def State.leafFor (s : State) (w : Issuer) (reqs : List Req) (r : Req) : Option Leaf := (s.pageOf w reqs r).bind (·.leaf)

/-- The permission check (R415, R418) fails in four ways. -/
theorem State.permits_eq_false {s : State} {w : Issuer} {k : Access} {l : Leaf} : s.permits w k l = false ↔
    (k = .write ∧ l.ro = true) ∨ (k = .fetch ∧ l.x = false) ∨ (w.atS = false ∧ l.u = false) ∨ s.granted w.cx l = false := by
  simp only [State.permits, Bool.and_eq_false_iff, Bool.not_eq_false', Bool.and_eq_true, Bool.or_eq_false_iff, beq_iff_eq, Bool.not_eq_true']
  simp only [or_assoc]

/-- The key check (R415, R419) fails where every slot and context there are have no key or no grant. -/
theorem State.keyOk_eq_false {s : State} {cx : Nat} {l : Leaf} : s.keyOk cx l = false ↔
    ∀ k c, tabGet l.key s.keys = some k → tabGet cx s.ctxs = some c → k.key ≠ none → k.grants.testBit c.part = false := by
  unfold State.keyOk
  split
  · next k c hk hc =>
    simp only [hk, hc, Option.some.injEq, Bool.and_eq_false_iff]
    constructor
    · rintro h _ _ rfl rfl hkey
      exact h.resolve_left (by simpa [Option.isSome_iff_ne_none] using hkey)
    · intro h
      by_cases hkey : k.key = none
      · exact .inl (by rw [hkey]; rfl)
      · exact .inr (h k c rfl rfl hkey)
  · next h => simpa using fun k c hk hc => (h k c hk hc).elim

theorem any_eq_false_of_some {α : Type} {o : Option α} {p : α → Bool} {a : α} (h : o = some a) (hp : p a = false) : o.any p = false := by
  rw [h]; exact hp

/-! ### The checks in their order (R281) -/

section
variable {s : State} {w : Issuer} {reqs : List Req}

/-- The addresses pass the checks that need no translation: check 3 and check 4. -/
def Reaching (reqs : List Req) : Prop := ∀ r ∈ reqs, r.va % r.size = 0 ∧ r.va < 2 ^ 48

theorem State.checkAccess_of_unaligned {t : Trap} (h : firstFail reqs 3 3 (fun _ => 0) (fun r => r.va % r.size == 0) = some t) :
    s.checkAccess w reqs = .error (t, s) := by
  rw [State.checkAccess, h]

theorem State.checkAccess_of_beyond {t : Trap} (ha : ∀ r ∈ reqs, r.va % r.size = 0)
    (h : firstFail reqs 4 4 (fun _ => 0) (fun r => r.va < 281474976710656) = some t) : s.checkAccess w reqs = .error (t, s) := by
  rw [State.checkAccess, firstFail_of_forall fun r hr => by simp [ha r hr], h]

/-- With the first two checks passed, the rest is about the translations. -/
theorem State.checkAccess_of_reaching (h : Reaching reqs) : s.checkAccess w reqs =
    match firstFail reqs 4 5 (fun _ => 0) (fun r => (s.leafFor w reqs r).isSome) with
    | some t => .error ((((tabGet (t.addr / 65536) (s.translatePages w (reqs.map fun r => r.va / 65536) w.known).1).bind (·.lost)).map
        (s.walkTrap w t)).getD t, (s.translatePages w (reqs.map fun r => r.va / 65536) w.known).2)
    | none =>
      match firstFail reqs 5 6 (fun _ => 0) (fun r => (s.leafFor w reqs r).any (s.permits w r.kind)) with
      | some t => .error (t, (s.translatePages w (reqs.map fun r => r.va / 65536) w.known).2)
      | none =>
        match firstFail reqs 6 7 (fun r => ((s.leafFor w reqs r).map (·.key)).getD 0) (fun r => (s.leafFor w reqs r).any (s.keyOk w.cx)) with
        | some t => .error (t, (s.translatePages w (reqs.map fun r => r.va / 65536) w.known).2)
        | none => .ok (reqs.filterMap fun r => (s.leafFor w reqs r).map fun l => (r, l),
            (s.translatePages w (reqs.map fun r => r.va / 65536) w.known).2) := by
  rw [State.checkAccess, firstFail_of_forall fun r hr => by simp [(h r hr).1],
    firstFail_of_forall fun r hr => by simpa using (h r hr).2]
  rfl

/-- Check 5 names the first address with no leaf; a lost entry of its walk makes it check 9 (R434, R470). -/
theorem State.checkAccess_of_noLeaf (h : Reaching reqs) {r : Req} {pre post : List Req} (hreqs : reqs = pre ++ r :: post)
    (hr : s.leafFor w reqs r = none) (hpre : ∀ x ∈ pre, s.leafFor w reqs x ≠ none) :
    s.checkAccess w reqs = .error ((((s.pageOf w reqs r).bind (·.lost)).map (s.walkTrap w { cause := 4, check := 5, lane := some r.lane, addr := r.va })).getD
      { cause := 4, check := 5, lane := some r.lane, addr := r.va }, (s.translatePages w (reqs.map fun r => r.va / 65536) w.known).2) := by
  rw [State.checkAccess_of_reaching h,
    firstFail_of_first hreqs (by rw [hr]; rfl) fun x hx => Option.isSome_iff_ne_none.2 (hpre x hx)]
  rfl

theorem State.checkAccess_of_denied (h : Reaching reqs) (hl : ∀ r ∈ reqs, s.leafFor w reqs r ≠ none) {t : Trap}
    (ht : firstFail reqs 5 6 (fun _ => 0) (fun r => (s.leafFor w reqs r).any (s.permits w r.kind)) = some t) :
    s.checkAccess w reqs = .error (t, (s.translatePages w (reqs.map fun r => r.va / 65536) w.known).2) := by
  rw [State.checkAccess_of_reaching h, firstFail_of_forall fun r hr => Option.isSome_iff_ne_none.2 (hl r hr)]
  dsimp only
  rw [ht]

theorem State.checkAccess_of_locked (h : Reaching reqs) (hl : ∀ r ∈ reqs, s.leafFor w reqs r ≠ none)
    (hp : ∀ r ∈ reqs, (s.leafFor w reqs r).any (s.permits w r.kind) = true) {t : Trap}
    (ht : firstFail reqs 6 7 (fun r => ((s.leafFor w reqs r).map (·.key)).getD 0) (fun r => (s.leafFor w reqs r).any (s.keyOk w.cx)) = some t) :
    s.checkAccess w reqs = .error (t, (s.translatePages w (reqs.map fun r => r.va / 65536) w.known).2) := by
  rw [State.checkAccess_of_reaching h, firstFail_of_forall fun r hr => Option.isSome_iff_ne_none.2 (hl r hr)]
  dsimp only
  rw [firstFail_of_forall hp]
  dsimp only
  rw [ht]

theorem State.checkAccess_of_passing (h : Reaching reqs) (hl : ∀ r ∈ reqs, s.leafFor w reqs r ≠ none)
    (hp : ∀ r ∈ reqs, (s.leafFor w reqs r).any (s.permits w r.kind) = true)
    (hk : ∀ r ∈ reqs, (s.leafFor w reqs r).any (s.keyOk w.cx) = true) :
    s.checkAccess w reqs = .ok (reqs.filterMap fun r => (s.leafFor w reqs r).map fun l => (r, l),
      (s.translatePages w (reqs.map fun r => r.va / 65536) w.known).2) := by
  rw [State.checkAccess_of_reaching h, firstFail_of_forall fun r hr => Option.isSome_iff_ne_none.2 (hl r hr)]
  dsimp only
  rw [firstFail_of_forall hp]
  dsimp only
  rw [firstFail_of_forall hk]

end

/-- Pairing each element with its value keeps the elements, where each has one. -/
theorem filterMap_pair_fst {α β : Type} {f : α → Option β} {l : List α} (h : ∀ a ∈ l, f a ≠ none) :
    (l.filterMap fun a => (f a).map fun b => (a, b)).map (·.1) = l := by
  induction l with
  | nil => rfl
  | cons a l ih =>
    obtain ⟨b, hb⟩ := Option.ne_none_iff_exists'.1 (h a List.mem_cons_self)
    rw [List.filterMap_cons_some (b := (a, b)) (by rw [hb]; rfl), List.map_cons, ih fun x hx => h x (List.mem_cons_of_mem _ hx)]

/-! ### What a partition was granted (R418) -/

theorem State.granted_iff {s : State} {cx : Nat} {l : Leaf} {c : Context} {p : Partition} (hc : tabGet cx s.ctxs = some c)
    (hp : tabGet c.part s.parts = some p) : s.granted cx l = true ↔
      if l.pl = 0 then paDevice l.pa = s.steward.device ∧ p.winBase ≤ l.pa ∧ l.pa + 65536 ≤ p.winBase + p.winSize
      else if paDevice l.pa = s.steward.device then ∃ r ∈ p.ranges, r.1 ≤ l.pa ∧ l.pa + 65536 ≤ r.1 + r.2
      else paDevice l.pa ∈ p.devices := by
  have hpart : ((tabGet cx s.ctxs).bind fun c => tabGet c.part s.parts) = some p := by rw [hc]; exact hp
  rw [State.granted, hpart]
  dsimp only
  by_cases h0 : l.pl = 0
  · simp [h0, and_comm]
  · by_cases hown : paDevice l.pa = s.steward.device <;> simp [h0, hown]

/-! ### Translations (R416, R417) -/

section
variable {s : State} {cx die clk page : Nat} {cl : Option Nat} {c : Context}

/-- With nothing cached the translation is the walk's. -/
theorem State.leafOf_of_uncached (hc : tabGet cx s.ctxs = some c) (hnear : (cl.bind fun k => leafGet k page c.near) = none)
    (hmine : leafGet die page c.tlb = none) : (s.leafOf cx cl die clk page).1 = (s.walk cx die clk page).1.leaf := by
  simp only [State.leafOf, hc, hnear, hmine]
  rfl

/-- A translation is the walk's, the cluster's or the die's. -/
theorem State.leafOf_cases (hc : tabGet cx s.ctxs = some c) {near mine got : Option Leaf} (hnear : (cl.bind fun k => leafGet k page c.near) = near)
    (hmine : leafGet die page c.tlb = mine) (hgot : (s.leafOf cx cl die clk page).1 = got) :
    got = (s.walk cx die clk page).1.leaf ∨ (got = near ∧ near ≠ none) ∨ (got = mine ∧ mine ≠ none) := by
  subst hgot
  simp only [State.leafOf, hc, hnear, hmine]
  cases near with
  | none =>
    cases mine with
    | none => exact .inl rfl
    | some l =>
      simp only [Option.none_or]
      split
      · next h => exact .inl (by simp_all)
      · split <;> simp
  | some l =>
    simp only [Option.some_or]
    split
    · next h => exact .inl (by simp_all)
    · cases mine with
      | none => dsimp only; split <;> simp
      | some m => dsimp only; split <;> [skip; split] <;> simp

/-- A page the instruction has not translated yet is translated once, and what was found is kept. -/
theorem State.translatePages_singleton (s : State) {w : Issuer} {p : Nat} (h : tabGet p w.known = none) :
    (s.translatePages w [p] w.known).2 = (s.leafOf w.cx w.cl w.die w.clk p).2
      ∧ (tabGet p (s.translatePages w [p] w.known).1).bind (·.leaf) = (s.leafOf w.cx w.cl w.die w.clk p).1 := by
  simp [State.translatePages, h]

end

/-! ### The walk (R413, R414, R417) -/

theorem Entry.table_iff (e : Entry) : e.table = true ↔ e.lo = 1 ∧ e.pa % 2 ^ 17 = 0 := by
  simp only [Entry.table, bitsOf, Bool.and_eq_true, beq_iff_eq]
  omega

/-- With no level-1 entry held for the page, the walk reads from the root at a time not below the page's floor. -/
theorem State.walk_of_no_mid {s : State} {cx die clk page : Nat} {c : Context} (hc : tabGet cx s.ctxs = some c)
    (hmids : ∀ m ∈ c.mids, ¬(m.1 = die ∧ m.2.1 = page / 8192)) :
    (s.walk cx die clk page).1 = s.walkGo (s.readEntry (max clk (c.floor page))) c.ttb page := by
  have hnone : (c.mids.find? fun m => m.1 == die && m.2.1 == page / 8192) = none :=
    List.find?_eq_none.2 fun m hm => by simpa using hmids m hm
  simp [State.walk, hc, hnone]

section
variable (s : State) (read : Nat → Nat → Entry × Nat) (ttb page : Nat)

theorem State.walkGo_of_no_root (h : (read 0 (ttb / 65536 * 65536 + 16 * (page / 2 ^ 26))).1.table = false) :
    (s.walkGo read ttb page).leaf = none := by
  simp only [Nat.reducePow] at h
  simp [State.walkGo, h]

theorem State.walkGo_of_block {e0 : Entry} (he0 : (read 0 (ttb / 65536 * 65536 + 16 * (page / 2 ^ 26))).1 = e0) (h0 : e0.table = true)
    {at1 : Nat} (hat1 : e0.pa + 16 * (page / 2 ^ 13 % 2 ^ 13) = at1) (h1 : (read 1 at1).1.table = false) :
    (s.walkGo read ttb page).leaf = (read 1 at1).1.leaf 1 page at1 (s.packageMemory (paDevice (read 1 at1).1.pa)) := by
  subst he0 hat1
  simp only [Nat.reducePow] at h0 h1 ⊢
  simp [State.walkGo, h0, h1]

theorem State.walkGo_of_page {e0 e1 : Entry} (he0 : (read 0 (ttb / 65536 * 65536 + 16 * (page / 2 ^ 26))).1 = e0) (h0 : e0.table = true)
    (he1 : (read 1 (e0.pa + 16 * (page / 2 ^ 13 % 2 ^ 13))).1 = e1) (h1 : e1.table = true)
    {at2 : Nat} (hat2 : e1.pa + 16 * (page % 2 ^ 13) = at2) :
    (s.walkGo read ttb page).leaf = (read 2 at2).1.leaf 2 page at2 (s.packageMemory (paDevice (read 2 at2).1.pa)) := by
  subst he0 he1 hat2
  simp only [Nat.reducePow] at h0 h1 ⊢
  simp [State.walkGo, State.walkLast, h0, h1]

end

/-! ### One entry read (R131, R417) -/

theorem State.le_raiseView (s : State) (v : Nat) (pas : List Nat) : v ≤ s.raiseView v pas := by
  unfold State.raiseView
  induction pas generalizing v with
  | nil => exact le_rfl
  | cons pa pas ih => exact le_trans (by dsimp only; split <;> omega) (ih _)

theorem State.le_settleView (s : State) (pas : List Nat) (n v : Nat) : v ≤ s.settleView pas n v := by
  induction n generalizing v with
  | zero => exact le_rfl
  | succ n ih => exact (s.le_raiseView v pas).trans (ih _)

/-- A view time is never below the clock it is drawn from. -/
theorem State.le_viewFrom (s : State) (floor : Nat → Nat) (c : Nat) (pas : List Nat) : c ≤ s.viewFrom floor c pas := by
  refine le_trans ?_ (s.le_settleView pas _ _)
  split <;> omega

theorem stGetList_length {β : Type} (d : β) (k n : Nat) (l : Store β) : (stGetList d k n l).length = n := by
  induction n generalizing k with
  | zero => rfl
  | succ n ih => rw [stGetList, List.length_cons, ih]

theorem State.length_versionBytes_le (s : State) (v pa n : Nat) : (s.versionBytes v pa n).length ≤ n := by
  unfold State.versionBytes
  split
  · exact (stGetList_length ..).le
  · exact List.length_take_le ..

/-- The two words of an entry, unless it is lost or out of reach. -/
theorem State.readEntry_eq (s : State) (c k pa : Nat) : ∃ v, c ≤ v ∧ s.readEntry c k pa =
    (if s.poisonedAt v pa 16 = true ∨ paDevice pa ∈ s.unreachable then { lo := 0, pa := 0 }
      else { lo := fieldAt (s.versionBytes v pa 16) 0 8, pa := fieldAt (s.versionBytes v pa 16) 8 8 }, v) := by
  refine ⟨{ s with choices := s.choices + k }.viewTime c [pa], State.le_viewFrom .., ?_⟩
  rw [State.readEntry]
  generalize State.viewTime _ c [pa] = v
  have hpa : (s.versionBytes v pa 16).drop 8 = ((s.versionBytes v pa 16).drop 8).take 8 :=
    (List.take_of_length_le (by have := s.length_versionBytes_le v pa 16; simp; omega)).symm
  simp only [State.entryLost, State.unreach, Bool.or_eq_true, List.contains_iff_mem, Entry.lost, Entry.of, fieldAt, List.drop_zero, ← hpa]

/-! ### A leaf entry (R413, R414) -/

theorem testBit_eq_bit (x i : Nat) : x.testBit i = (x / 2 ^ i % 2 ^ 1 == 1) := by
  rw [Nat.testBit_eq_decide_div_mod_eq, Nat.pow_one, Bool.beq_eq_decide_eq]

theorem Entry.leaf_eq_some_iff (e : Entry) (level page at_ memory : Nat) (l : Leaf) :
    let b (i n : Nat) : Nat := e.lo / 2 ^ i % 2 ^ n
    (e.leaf level page at_ memory = some l ↔
      b 0 1 = 1 ∧ b 1 2 = (if level = 1 then 2 else 1) ∧ b 3 2 ≠ 3 ∧ ¬(level = 1 ∧ b 3 2 = 2) ∧ b 10 6 = 0 ∧ e.lo < 2 ^ 24
      ∧ e.pa % (if level = 1 then 2 ^ 29 else 2 ^ 16) = 0 ∧ paOffset e.pa < memory
      ∧ l = { pa := e.pa + (if level = 1 then page % 2 ^ 13 * 2 ^ 16 else 0), pl := b 3 2, cm := b 5 1 == 1, xs := b 6 1 == 1, ro := b 7 1 == 1
              x := b 8 1 == 1, u := b 9 1 == 1, key := b 16 8, block := level == 1, entryPa := at_ }) := by
  intro b
  unfold Entry.leaf
  simp only [Option.ite_none_right_eq_some, Bool.and_eq_true, decide_eq_true_eq, testBit_eq_bit]
  by_cases h : level = 1 <;> simp [h, b, bitsOf, and_assoc, eq_comm (a := l)]

/-- Settles O36: the checks in their order, the leaves they give, and the walk entry by entry. -/
theorem accessChecks : Obligations.AccessChecks := by
  unfold Obligations.AccessChecks
  refine ⟨fun s w reqs => ?_, ?_, ?_, ?_, ?_, State.readEntry_eq, Entry.leaf_eq_some_iff⟩
  · intro q page leaf first unaligned beyond denied locked traps
    have hleaf r : leaf r = s.leafFor w reqs r := rfl
    have hreaching (h : ∀ r ∈ reqs, ¬unaligned r ∧ ¬beyond r) : Reaching reqs := fun r hr =>
      ⟨not_not.1 (h r hr).1, not_le.1 (h r hr).2⟩
    -- A leaf there is fails the permission or key check exactly where the page is denied or locked.
    have hdenied r : denied r ↔ ∃ l, leaf r = some l ∧ s.permits w r.kind l = false := by simp only [denied, State.permits_eq_false]
    have hlocked r : locked r ↔ ∃ l, leaf r = some l ∧ s.keyOk w.cx l = false := by simp only [locked, State.keyOk_eq_false]
    have hpass {p : Leaf → Bool} {r : Req} (hl : leaf r ≠ none) (h : ¬∃ l, leaf r = some l ∧ p l = false) : (leaf r).any p = true := by
      obtain ⟨l, hl⟩ := Option.ne_none_iff_exists'.1 hl
      rw [hl]
      simpa using not_exists.1 h l ∘ And.intro hl
    refine ⟨?_, ?_, ?_, ?_⟩
    · rintro r ⟨pre, post, hreqs, hr, hpre⟩
      exact State.checkAccess_of_unaligned (firstFail_of_first hreqs (by simpa [unaligned] using hr) fun x hx => by simpa [unaligned] using hpre x hx)
    · rintro ha r ⟨pre, post, hreqs, hr, hpre⟩
      exact State.checkAccess_of_beyond (fun r hr => not_not.1 (ha r hr))
        (firstFail_of_first hreqs (by simpa [beyond] using hr) fun x hx => by simpa [beyond] using hpre x hx)
    · rintro h r ⟨pre, post, hreqs, hr, hpre⟩
      have htrap := State.checkAccess_of_noLeaf (s := s) (w := w) (hreaching h) hreqs hr hpre
      rw [show s.pageOf w reqs r = page r from rfl] at htrap
      refine ⟨fun hlost => ?_, fun hlost => ?_⟩
      · rw [hlost] at htrap
        exact htrap
      · obtain ⟨x, hx⟩ := Option.ne_none_iff_exists'.1 hlost
        rw [hx] at htrap
        exact ⟨_, htrap⟩
    · intro h
      have hreach := hreaching fun r hr => ⟨(h r hr).1, (h r hr).2.1⟩
      have hsome : ∀ r ∈ reqs, leaf r ≠ none := fun r hr => (h r hr).2.2
      have hperm (hgranted : ∀ r ∈ reqs, ¬denied r) : ∀ r ∈ reqs, (leaf r).any (s.permits w r.kind) = true := fun r hr =>
        hpass (hsome r hr) (mt (hdenied r).2 (hgranted r hr))
      refine ⟨?_, fun hgranted => ⟨?_, fun hopen => ?_⟩⟩
      · rintro r ⟨pre, post, hreqs, hr, hpre⟩
        obtain ⟨l, hl, hno⟩ := (hdenied r).1 hr
        exact State.checkAccess_of_denied hreach hsome (firstFail_of_first hreqs (any_eq_false_of_some hl hno) fun x hx =>
          hpass (hsome x (by simp [hreqs, hx])) (mt (hdenied x).2 (hpre x hx)))
      · rintro r l ⟨pre, post, hreqs, hr, hpre⟩ hl
        obtain ⟨l', hl', hno⟩ := (hlocked r).1 hr
        have hfail := State.checkAccess_of_locked hreach hsome (hperm hgranted) (firstFail_of_first hreqs (any_eq_false_of_some hl' hno) fun x hx =>
          hpass (hsome x (by simp [hreqs, hx])) (mt (hlocked x).2 (hpre x hx)))
        rw [← hleaf, hl] at hfail
        exact hfail
      · refine ⟨_, State.checkAccess_of_passing hreach hsome (hperm hgranted) fun r hr => hpass (hsome r hr) (mt (hlocked r).2 (hopen r hr)),
          filterMap_pair_fst hsome, fun x hx => ?_⟩
        obtain ⟨r, -, hr⟩ := List.mem_filterMap.1 hx
        obtain ⟨l, hl, rfl⟩ := Option.map_eq_some_iff.1 hr
        exact hl
  · intro s cx l c p hc hp
    exact State.granted_iff hc hp
  · intro s cx cl die clk page c hc
    exact ⟨State.leafOf_cases hc rfl rfl rfl, State.leafOf_of_uncached hc⟩
  · intro s w p hp
    exact s.translatePages_singleton hp
  · intro s cx die clk page c hc hmids read mem table at0 e0 at1 e1 at2 e2 got
    have hgot : got = (s.walkGo (s.readEntry (max clk (c.floor page))) c.ttb page).leaf :=
      congrArg Walked.leaf (State.walk_of_no_mid hc hmids)
    have htable (e : Entry) : table e ↔ e.table = true := (e.table_iff).symm
    have hnot {e : Entry} (h : ¬table e) : e.table = false := Bool.eq_false_iff.2 (mt (htable e).2 h)
    rw [hgot]
    exact ⟨fun h0 => s.walkGo_of_no_root _ _ _ (hnot h0), fun h0 h1 => s.walkGo_of_block _ _ _ rfl ((htable _).1 h0) rfl (hnot h1),
      fun h0 h1 => s.walkGo_of_page _ _ _ rfl ((htable _).1 h0) rfl ((htable _).1 h1) rfl⟩

end Sys2Proof.Machine
end

section
/-! The queue instructions (R119 to R121, R305 to R308). -/

namespace Sys2Proof.Machine

/-! ### Which queues trap (R119, R307) -/

@[simp] theorem queueTrap_uninit (push : Bool) : queueTrap .uninit push = some (Trap.illegal 2) := rfl
@[simp] theorem queueTrap_broken (push : Bool) : queueTrap .broken push = some { cause := 11, check := 8 } := rfl
@[simp] theorem queueTrap_opened (push : Bool) : queueTrap .opened push = none := rfl
@[simp] theorem queueTrap_closed : queueTrap .closed false = none := rfl

/-! ### The slot of a producer (R121) -/

/-- The slots a push sees: the producer's among them, a new one with the whole allowance where it had none. -/
def Queue.slotsFor (x : Queue) (who : Nat) : List QSlot :=
  if x.slots.any (·.who == who) then x.slots else x.slots ++ [{ who := who, allow := bitsOf x.cfg.toNat 16 8 }]

/-- The slots after a push in slot `n`. -/
def spendAllowance (slots : List QSlot) (n : Nat) : List QSlot :=
  slots.zipIdx.map fun p => if p.2 = n then { p.1 with allow := p.1.allow - 1 } else p.1

theorem Queue.slotsFor_of_slot {x : Queue} {who n : Nat} (h : x.slots.findIdx? (·.who == who) = some n) : x.slotsFor who = x.slots :=
  if_pos (by rw [← List.findIdx?_isSome, h]; rfl)

section
variable {x : Queue} {who : Nat} (h : ∀ y ∈ x.slots, y.who ≠ who)
include h

theorem Queue.slotsFor_of_new : x.slotsFor who = x.slots ++ [{ who := who, allow := bitsOf x.cfg.toNat 16 8 }] :=
  if_neg (by simpa using h)

theorem Queue.findIdx?_slotsFor_of_new : (x.slotsFor who).findIdx? (·.who == who) = some x.slots.length := by
  have hnone : x.slots.findIdx? (·.who == who) = none := List.findIdx?_eq_none_iff.2 fun y hy => by simpa using h y hy
  simp [Queue.slotsFor_of_new h, List.findIdx?_append, hnone]

end

/-- Only the last slot gives up one of its allowance when it is the last that pushes. -/
theorem spendAllowance_append (slots : List QSlot) (y : QSlot) :
    spendAllowance (slots ++ [y]) slots.length = slots ++ [{ y with allow := y.allow - 1 }] := by
  have hkeep : slots.zipIdx.map (fun p => if p.2 = slots.length then { p.1 with allow := p.1.allow - 1 } else p.1) = slots := by
    have hmap : slots.zipIdx.map (fun p => if p.2 = slots.length then { p.1 with allow := p.1.allow - 1 } else p.1) = slots.zipIdx.map Prod.fst :=
      List.map_congr_left fun p hp => if_neg (by have := (List.mem_zipIdx' hp).1; omega)
    rw [hmap, List.zipIdx_map_fst]
  simp [spendAllowance, List.zipIdx_append, hkeep]

/-! ### What each instruction does with its queue -/

section
variable {s t : State} {c : Site} {g : Guard} {q : Fin 16} {a : UOperand} {pd : Fin 8} {d : Fin 64}

theorem exec_qinit_of (h : ActsOn (.qinit g q a) g s t c) : exec (.qinit g q a) s =
    if !queueConfigOk (c.view.uop a).toNat then .next (t.raise c (.qinit g q a) (Trap.illegal 2))
    else if (c.sh.queue q.val).st == .opened || (c.sh.queue q.val).st == .broken
        || ((c.sh.queue q.val).st == .closed && (!(c.sh.queue q.val).entries.isEmpty || c.sh.queueWaited q.val)) then
      .next (t.raise c (.qinit g q a) { cause := 11, check := 8 })
    else .next ((t.modSheet c.sid (·.modQueue q.val fun _ => { st := .opened, cfg := c.view.uop a })).finish c (.qinit g q a)) := by
  rw [exec_qinit, execQinit, enterMemGang_of h]

/-- A queue that cannot be pushed to traps. -/
theorem exec_qpush_of_trap (h : ActsOn (.qpush g q a) g s t c) {e : Trap} (he : queueTrap (c.sh.queue q.val).st true = some e) :
    Raises (.qpush g q a) s t c e := by
  rw [Raises, exec_qpush, execQpush, enterMemGang_of h]
  simp only [he]

/-- QPUSH on an open queue, the producer in slot `n`. -/
theorem exec_qpush_of (h : ActsOn (.qpush g q a) g s t c) (hx : (c.sh.queue q.val).st = .opened) {n : Nat} {slot : QSlot}
    (hn : ((c.sh.queue q.val).slotsFor c.agent.producer).findIdx? (·.who == c.agent.producer) = some n)
    (hslot : ((c.sh.queue q.val).slotsFor c.agent.producer)[n]? = some slot) : exec (.qpush g q a) s =
    if bitsOf (c.sh.queue q.val).cfg.toNat 8 8 < ((c.sh.queue q.val).slotsFor c.agent.producer).length then
      .next (t.raise c (.qpush g q a) { cause := 11, check := 8 })
    else if slot.allow = 0 then
      match c.agent with
      | .gang _ => .next (t.waitIn c (.push q.val))
      | .seq _ => .next (t.seqWait c (.push q.val))
    else
      .next ((((t.raiseTo c (max c.clk slot.clk)).modSheet c.sid fun h =>
        (h.modQueue q.val fun y => { y with slots := spendAllowance ((c.sh.queue q.val).slotsFor c.agent.producer) n }).append q.val
          { val := c.view.uop a, slot := n, clk := max c.clk slot.clk }).pinDown c.sid).finish c (.qpush g q a)) := by
  rw [exec_qpush, execQpush, enterMemGang_of h]
  unfold Queue.slotsFor at hn hslot ⊢
  simp only [hx, queueTrap_opened, hn, Option.getD_some, hslot, spendAllowance] <;> rfl

theorem popOrElse_of_trap {i : Instr} {wait : Bool} (h : ActsOn i g s t c) {e : Trap} (he : queueTrap (c.sh.queue q.val).st false = some e) :
    popOrElse i g q pd d wait s = .next (t.raise c i e) := by
  rw [popOrElse, enterMemGang_of h]
  simp only [he]

/-- QPOP and QTRY take the oldest entry. -/
theorem popOrElse_of_entry {i : Instr} {wait : Bool} (h : ActsOn i g s t c) (hx : queueTrap (c.sh.queue q.val).st false = none)
    {e : QEntry} {es : List QEntry} (he : (c.sh.queue q.val).entries = e :: es) :
    popOrElse i g q pd d wait s = .next (t.popEntry c i q.val pd d e) := by
  rw [popOrElse, enterMemGang_of h]
  simp only [hx, he]

/-- On an empty queue they wait, or clear their predicate. -/
theorem popOrElse_of_empty {i : Instr} {wait : Bool} (h : ActsOn i g s t c) (hx : queueTrap (c.sh.queue q.val).st false = none)
    (he : (c.sh.queue q.val).entries = []) : popOrElse i g q pd d wait s =
    if wait && (c.sh.queue q.val).st == .opened then
      .next (((t.modSheet c.sid (·.modQueue q.val fun y => { y with
        pops := y.pops ++ [{ gang := c.gang, lanes := c.view.lanes, dst := d, pd := pd, next := c.next i }] })).pinDown c.sid).waitIn c (.pop q.val))
    else .next (((t.putRegs c (c.view.regs.putPred pd c.view.enabled fun _ => false)).pinDown c.sid).finish c i) := by
  rw [popOrElse, enterMemGang_of h]
  simp only [hx, he]

theorem exec_qclose_of_trap (h : ActsOn (.qclose g q) g s t c) {e : Trap} (he : queueTrap (c.sh.queue q.val).st false = some e) :
    Raises (.qclose g q) s t c e := by
  rw [Raises, exec_qclose, execQclose, enterMemGang_of h]
  simp only [he]

theorem exec_qclose_of (h : ActsOn (.qclose g q) g s t c) (hx : queueTrap (c.sh.queue q.val).st false = none) :
    Does (.qclose g q) s
      ((if (c.sh.queue q.val).st == .opened then t.modSheet c.sid (·.endQueue q.val .closed c.clk) else t).pinDown c.sid) c := by
  rw [Does, exec_qclose, execQclose, enterMemGang_of h]
  simp only [hx]

/-- A queue in a state that traps raises that trap in every operation of a queue. -/
theorem raises_of_queueTrap {i : Instr} (hi : i ∈ ([.qpush g q a, .qpop g q pd d, .qtry g q pd d, .qclose g q] : List Instr)) (h : ActsOn i g s t c)
    {e : Trap} (he : ∀ push, queueTrap (c.sh.queue q.val).st push = some e) : Raises i s t c e := by
  simp only [List.mem_cons, List.not_mem_nil, or_false] at hi
  obtain rfl | rfl | rfl | rfl := hi
  · exact exec_qpush_of_trap h (he _)
  · exact popOrElse_of_trap h (he _)
  · exact popOrElse_of_trap h (he _)
  · exact exec_qclose_of_trap h (he _)

end

/-- Settles O40, instruction by instruction: the state of the queue, the producer's slot and the entries decide. -/
theorem queues : Obligations.Queues := by
  intro s t c g q a pd d x done
  have hst {v : QState} (h : x.st = v) : (c.sh.queue q.val).st = v := h
  have hopen (h : x.st = .opened ∨ x.st = .closed) : queueTrap (c.sh.queue q.val).st false = none := by
    rcases h with h | h <;> rw [hst h] <;> rfl
  refine ⟨fun hacts => ⟨fun hcfg => ?_, fun hcfg hrest => ?_, fun hcfg hbusy => ?_⟩, fun n slot hx hslot hn hroom hacts => ?_,
    fun hx hnew hroom hallow hacts => ?_, fun hx hnew hfull hacts => ?_, fun e es hx he => ⟨fun hacts => ?_, fun hacts => ?_⟩,
    fun he => ⟨fun hx hacts => ?_, fun hx hacts => ?_, fun hx hacts => ?_⟩, fun hacts => ⟨fun hx => ?_, fun hx => ?_⟩,
    fun i hi hacts => ⟨fun hx => ?_, fun hx => ?_⟩⟩
  -- QINIT.
  · rw [Raises, exec_qinit_of hacts, hcfg]
    rfl
  · rw [Does, exec_qinit_of hacts, hcfg]
    rcases hrest with hx | ⟨hx, he, hw⟩
    · rw [hst hx]
      rfl
    · rw [hst hx, show (c.sh.queue q.val).entries = [] from he, hw]
      rfl
  · rw [Raises, exec_qinit_of hacts, hcfg]
    rcases hbusy with hx | hx <;> rw [hst hx] <;> rfl
  -- QPUSH of a producer with a slot.
  · have hslots : (c.sh.queue q.val).slotsFor c.agent.producer = x.slots := Queue.slotsFor_of_slot hn
    have hexec := exec_qpush_of hacts hx (n := n) (slot := slot) (by rw [hslots]; exact hn) (by rw [hslots]; exact hslot)
    rw [hslots, if_neg (not_lt.2 hroom)] at hexec
    refine ⟨fun hne => ?_, fun hzero k hk => ?_, fun hzero k hk => ?_⟩
    · rw [if_neg hne] at hexec
      exact hexec
    · rw [hexec, if_pos hzero, hk]
    · rw [hexec, if_pos hzero, hk]
  -- QPUSH of a new producer, with room for its slot.
  · have hslots : (c.sh.queue q.val).slotsFor c.agent.producer = _ := Queue.slotsFor_of_new hnew
    have hexec := exec_qpush_of hacts hx (Queue.findIdx?_slotsFor_of_new hnew) (by rw [hslots]; exact List.getElem?_concat_length)
    rw [hslots, List.length_append, List.length_singleton, if_neg (Nat.not_lt.2 hroom), if_neg hallow.ne', spendAllowance_append,
      Nat.max_zero] at hexec
    exact hexec
  -- And without.
  · have hslots : (c.sh.queue q.val).slotsFor c.agent.producer = _ := Queue.slotsFor_of_new hnew
    have hexec := exec_qpush_of hacts hx (Queue.findIdx?_slotsFor_of_new hnew) (by rw [hslots]; exact List.getElem?_concat_length)
    rw [hslots, List.length_append, List.length_singleton, if_pos (Nat.lt_succ_of_le hfull)] at hexec
    exact hexec
  -- QPOP and QTRY.
  · exact popOrElse_of_entry hacts (hopen hx) he
  · exact popOrElse_of_entry hacts (hopen hx) he
  · refine (popOrElse_of_empty hacts (hopen (.inr hx)) he).trans ?_
    rw [hst hx]
    rfl
  · exact popOrElse_of_empty hacts (hopen hx) he
  · refine (popOrElse_of_empty hacts (hopen (.inl hx)) he).trans ?_
    rw [hst hx]
    rfl
  -- QCLOSE.
  · have hdoes := exec_qclose_of hacts (hopen (.inl hx))
    rw [hst hx] at hdoes
    exact hdoes
  · have hdoes := exec_qclose_of hacts (hopen (.inr hx))
    rw [hst hx] at hdoes
    exact hdoes
  -- A queue that was not configured, and a broken one.
  · exact raises_of_queueTrap hi hacts fun push => by rw [hst hx]; rfl
  · exact raises_of_queueTrap hi hacts fun push => by rw [hst hx]; rfl

end Sys2Proof.Machine
end

section
/-! Barriers: who waits, what a release leaves of a waiting lane, and when a phase completes (R97, R179, R299 to R303). -/

namespace Sys2Proof.Machine

/-! ### Folds -/

/-- What every step of a fold keeps, and one of its steps brings about, holds after the fold. -/
theorem foldl_reaches {σ α : Type} {f : σ → α → σ} {P R : σ → Prop} (hP : ∀ x a, P x → P (f x a)) (hR : ∀ x a, R x → R (f x a))
    {a : α} (ha : ∀ x, P x → R (f x a)) {l : List α} (hl : a ∈ l) {x : σ} (hx : P x) : R (l.foldl f x) := by
  induction l generalizing x with
  | nil => cases hl
  | cons b l ih =>
    rcases List.mem_cons.1 hl with rfl | hl
    · exact List.foldlRecOn l f (ha x hx) fun y hy b _ => hR y b hy
    · exact ih hl (hP x b hx)

/-! ### A gang of a sheet -/

/-- A gang by sheet and number. -/
def State.gang? (s : State) (sid n : Nat) : Option Gang := (tabGet sid s.sheets).bind fun h => tabGet n h.gangs

/-- The gang exists and is so. -/
def State.GangHas (s : State) (sid n : Nat) (P : Gang → Prop) : Prop := ∃ q, s.gang? sid n = some q ∧ P q

theorem State.gang?_modGang (s : State) (k m sid n : Nat) (f : Gang → Gang) :
    (s.modGang k m f).gang? sid n = (s.gang? sid n).map fun q => if sid = k ∧ n = m then f q else q := by
  simp only [State.gang?, State.modGang, State.modSheet, tabGet_tabMod, Option.bind_map, Function.comp_def, Option.map_bind]
  congr 1
  funext h
  by_cases hk : sid = k
  · simp [hk, Sheet.modGang, tabGet_tabMod]
  · simp [hk]

theorem State.gang?_modCluster (s : State) (k sid n : Nat) (f : Cluster → Cluster) : (s.modCluster k f).gang? sid n = s.gang? sid n := rfl

theorem State.gang?_modSheet (s : State) (k sid n : Nat) {f : Sheet → Sheet} (hf : ∀ h, (f h).gangs = h.gangs) :
    (s.modSheet k f).gang? sid n = s.gang? sid n := by
  simp only [State.gang?, State.modSheet, tabGet_tabMod, Option.bind_map, Function.comp_def]
  congr 1
  funext h
  split <;> simp [hf]

theorem State.gang?_modBar (s : State) (k b sid n : Nat) (f : Barrier → Barrier) : (s.modBar k b f).gang? sid n = s.gang? sid n :=
  s.gang?_modSheet k sid n (f := fun h => { h with bars := tabPut b (f ((tabGet b h.bars).getD {})) h.bars }) fun _ => rfl

section
variable {s : State} {sid n : Nat} {P R : Gang → Prop}

theorem State.GangHas.imp (h : s.GangHas sid n P) (hPR : ∀ q, P q → R q) : s.GangHas sid n R := by
  obtain ⟨q, hq, hP⟩ := h
  exact ⟨q, hq, hPR q hP⟩

/-- A change of some gang keeps what it keeps of every gang. -/
theorem State.GangHas.modGang (h : s.GangHas sid n P) (k m : Nat) {f : Gang → Gang} (hf : ∀ q, P q → P (f q)) :
    (s.modGang k m f).GangHas sid n P := by
  obtain ⟨q, hq, hP⟩ := h
  refine ⟨_, by rw [State.gang?_modGang, hq, Option.map_some], ?_⟩
  split
  · exact hf q hP
  · exact hP

/-- A change of the gang itself. -/
theorem State.GangHas.modGang_same (h : s.GangHas sid n P) {f : Gang → Gang} (hf : ∀ q, P q → R (f q)) : (s.modGang sid n f).GangHas sid n R := by
  obtain ⟨q, hq, hP⟩ := h
  exact ⟨f q, by simp [State.gang?_modGang, hq], hf q hP⟩

end

/-- In a fold of changes of gangs, one change that is the gang's brings `R` about where each change keeps `P` and `R`. -/
theorem State.GangHas.foldl_modGang {α : Type} {s : State} {sid n : Nat} {P R : Gang → Prop} (h : s.GangHas sid n P) {k m : α → Nat}
    {f : State → α → Gang → Gang} (hP : ∀ s a q, P q → P (f s a q)) (hR : ∀ s a q, R q → R (f s a q)) {a : α} {l : List α} (ha : a ∈ l)
    (hk : k a = sid) (hm : m a = n) (hPR : ∀ s q, P q → R (f s a q)) :
    (l.foldl (fun s a => s.modGang (k a) (m a) (f s a)) s).GangHas sid n R := by
  refine foldl_reaches (P := fun s : State => s.GangHas sid n P) (R := fun s => s.GangHas sid n R) (fun s b h => h.modGang _ _ (hP s b))
    (fun s b h => h.modGang _ _ (hR s b)) (fun s h => ?_) ha h
  rw [hk, hm]
  exact h.modGang_same (hPR s)

/-! ### A lane that waits, and one that is released -/

theorem laneOn_setLane_ne (m : Mask) {l k : Nat} (b : Bool) (h : k ≠ l) : laneOn (setLane m l b) k = laneOn m k := by
  rcases Nat.lt_or_ge l 64 with hl | hl
  · rw [laneOn_setLane _ _ _ _ hl, if_neg h]
  · have hzero : BitVec.ofNat 64 (2 ^ l) = 0 := by
      refine BitVec.eq_of_toNat_eq ?_
      rw [BitVec.toNat_ofNat]
      exact Nat.mod_eq_zero_of_dvd (Nat.pow_dvd_pow 2 hl)
    have hnot : ~~~(0 : Mask) = BitVec.allOnes 64 := rfl
    cases b
    · simp only [setLane, hzero, hnot, Bool.false_eq_true, if_false, BitVec.and_allOnes]
    · simp only [setLane, hzero, if_true]
      rw [show (0 : Mask) = 0#64 from rfl, BitVec.or_zero]

theorem Regs.predAt_putPred_ne (r : Regs) (pd p : Fin 8) (f : Nat → Bool) {l k : Nat} (h : k ≠ l) :
    (r.putPred p [l] f).predAt pd k = r.predAt pd k := by
  simp only [Regs.predAt, Regs.putPred, Regs.pred_setPred, List.foldl_cons, List.foldl_nil]
  split
  · next hp => rw [laneOn_setLane_ne _ _ h, hp.1]
  · rfl

/-- Lane `l` waits on a barrier for `pd`, and a release at `clk` gives it the clock `C`. -/
structure Gang.Waits (l b : Nat) (pd : Fin 8) (clk C : Nat) (q : Gang) : Prop where
  atU : q.atS = false
  lane : ∃ t, tabGet l q.threads = some t ∧ t.st = .barrier b pd ∧ max t.clock clk = C

/-- Lane `l` has the clock and the predicate of its release. -/
structure Gang.Freed (l : Nat) (pd : Fin 8) (C : Nat) (v : Bool) (q : Gang) : Prop where
  clock : (tabGet l q.threads).map Thread.clock = some C
  pred : pd.val ≠ 7 → q.regs.predAt pd l = v

/-- Lane `l` waits on no barrier. -/
def Gang.Leaves (l : Nat) (q : Gang) : Prop := ∀ t, tabGet l q.threads = some t → ∀ k d, t.st ≠ .barrier k d

theorem Gang.releaseLanes_cons (q : Gang) (l : Nat) (ls : List Nat) (clk : Nat) (v : Bool) :
    q.releaseLanes (l :: ls) clk v = (q.releaseLanes [l] clk v).releaseLanes ls clk v := rfl

/-- A lane at U that waits takes its predicate and its clock. -/
theorem Gang.releaseLanes_singleton {q : Gang} {m k : Nat} {p : Fin 8} {t : Thread} (hq : q.atS = false) (ht : tabGet m q.threads = some t)
    (hst : t.st = .barrier k p) (clk : Nat) (v : Bool) :
    q.releaseLanes [m] clk v =
      { q.modThread m fun t => { t with clock := max t.clock clk } with regs := q.regs.putPred p [m] fun _ => v } := by
  simp only [Gang.releaseLanes, List.foldl_cons, List.foldl_nil, ht, Option.map_some, hst, Gang.modThread, hq, Bool.false_and,
    Bool.false_eq_true, if_false]

/-- A lane that waits on no barrier is left as it is. -/
theorem Gang.releaseLanes_singleton_of_not {q : Gang} {m : Nat} (h : ∀ t, tabGet m q.threads = some t → ∀ k p, t.st ≠ .barrier k p) (clk : Nat)
    (v : Bool) : q.releaseLanes [m] clk v = q := by
  simp only [Gang.releaseLanes, List.foldl_cons, List.foldl_nil]
  split
  · next k p hst =>
    obtain ⟨t, ht, hst⟩ := Option.map_eq_some_iff.1 hst
    exact absurd hst (h t ht k p)
  · rfl

section
variable {l b clk C : Nat} {pd : Fin 8} {v : Bool} {q : Gang}

/-- The release of one lane, by whether it waits at all. -/
theorem Gang.releaseLanes_cases (hq : q.atS = false) (m clk : Nat) (v : Bool) : q.releaseLanes [m] clk v = q
    ∨ ∃ t k p, tabGet m q.threads = some t ∧ t.st = .barrier k p ∧ q.releaseLanes [m] clk v =
      { q.modThread m fun t => { t with clock := max t.clock clk } with regs := q.regs.putPred p [m] fun _ => v } := by
  by_cases h : ∃ t k p, tabGet m q.threads = some t ∧ t.st = .barrier k p
  · obtain ⟨t, k, p, ht, hst⟩ := h
    exact .inr ⟨t, k, p, ht, hst, Gang.releaseLanes_singleton hq ht hst clk v⟩
  · refine .inl (Gang.releaseLanes_singleton_of_not (fun t ht k p hst => h ⟨t, k, p, ht, hst⟩) clk v)

/-- Releasing lanes ends no wait by itself. -/
theorem Gang.Waits.releaseLane (h : q.Waits l b pd clk C) (m : Nat) : (q.releaseLanes [m] clk v).Waits l b pd clk C := by
  rcases Gang.releaseLanes_cases h.atU m clk v with he | ⟨-, -, p, -, -, he⟩ <;> rw [he]
  · exact h
  obtain ⟨t, ht, hst, hC⟩ := h.lane
  refine ⟨h.atU, _, by rw [Gang.modThread, tabGet_tabMod, ht, Option.map_some], ?_⟩
  split
  · exact ⟨hst, by rw [max_assoc, max_self]; exact hC⟩
  · exact ⟨hst, hC⟩

/-- A waiting lane that is released is freed. -/
theorem Gang.Waits.freed_of_releaseLane (h : q.Waits l b pd clk C) (hl : l < 64) : (q.releaseLanes [l] clk v).Freed l pd C v := by
  obtain ⟨t, ht, hst, hC⟩ := h.lane
  rw [Gang.releaseLanes_singleton h.atU ht hst]
  refine ⟨by simp [Gang.modThread, ht, hC], fun hpd => ?_⟩
  rw [Regs.predAt_putPred _ _ _ _ _ _ (by simpa using hl), if_pos ⟨rfl, hpd, List.mem_singleton_self l⟩]

/-- The release of a lane leaves a freed one freed. -/
theorem Gang.Freed.releaseLane (h : q.Freed l pd C v) (hw : q.Waits l b pd clk C) (hl : l < 64) (m : Nat) :
    (q.releaseLanes [m] clk v).Freed l pd C v := by
  by_cases hm : l = m
  · exact hm ▸ hw.freed_of_releaseLane hl
  rcases Gang.releaseLanes_cases hw.atU m clk v with he | ⟨-, -, p, -, -, he⟩ <;> rw [he]
  · exact h
  · refine ⟨by rw [Gang.modThread, tabGet_tabMod_ne hm]; exact h.clock, fun hpd => ?_⟩
    rw [Regs.predAt_putPred_ne _ _ _ _ hm]
    exact h.pred hpd

theorem Gang.Waits.releaseLanes (h : q.Waits l b pd clk C) (ls : List Nat) : (q.releaseLanes ls clk v).Waits l b pd clk C := by
  induction ls generalizing q with
  | nil => exact h
  | cons m ls ih => exact ih (h.releaseLane m)

theorem Gang.Freed.releaseLanes (h : q.Freed l pd C v) (hw : q.Waits l b pd clk C) (hl : l < 64) (ls : List Nat) :
    (q.releaseLanes ls clk v).Freed l pd C v := by
  induction ls generalizing q with
  | nil => exact h
  | cons m ls ih => exact ih (h.releaseLane hw hl m) (hw.releaseLane m)

theorem Gang.Waits.freed_of_releaseLanes (h : q.Waits l b pd clk C) (hl : l < 64) {ls : List Nat} (hmem : l ∈ ls) :
    (q.releaseLanes ls clk v).Freed l pd C v := by
  induction ls generalizing q with
  | nil => cases hmem
  | cons m ls ih =>
    rw [Gang.releaseLanes_cons]
    rcases List.mem_cons.1 hmem with rfl | hmem
    · exact (h.freed_of_releaseLane hl).releaseLanes (h.releaseLane l) hl ls
    · exact ih (h.releaseLane m) hmem

/-! ### Going on after the release -/

/-- A lane is put in a state. -/
def Thread.to (st : Nat → TState) (l : Nat) (t : Thread) : Thread := { t with st := st l }

theorem Gang.goesOn_ne_barrier (q : Gang) (l k : Nat) (d : Fin 8) : q.goesOn l ≠ .barrier k d := by
  unfold Gang.goesOn
  split <;> exact TState.noConfusion

/-- A change of lanes that keeps their clocks leaves a freed one freed. -/
theorem Gang.Freed.modThreads (h : q.Freed l pd C v) (ls : List Nat) {f : Nat → Thread → Thread} (hf : ∀ l t, f l (f l t) = f l t)
    (hclock : ∀ l t, (f l t).clock = t.clock) : (q.modThreads ls f).Freed l pd C v where
  clock := by
    rw [Gang.tabGet_modThreads hf, Option.map_map, ← h.clock]
    congr 1
    funext t
    simp only [Function.comp_apply]
    split
    · exact hclock l t
    · rfl
  pred hpd := by rw [Gang.modThreads_regs]; exact h.pred hpd

theorem Gang.Freed.to (h : q.Freed l pd C v) (ls : List Nat) (st : Nat → TState) : (q.modThreads ls (Thread.to st)).Freed l pd C v :=
  h.modThreads ls (fun _ _ => rfl) fun _ _ => rfl

theorem Gang.Freed.settle (h : q.Freed l pd C v) : q.settle.Freed l pd C v := by
  have hs := q.settle_settlesTo
  obtain ⟨m, hm⟩ := hs.regs
  refine ⟨?_, fun hpd => by rw [hm]; exact h.pred hpd⟩
  have hclock (u : Gang) : (tabGet l u.threads).map Thread.clock = (tabGet l (placesOf u.threads)).map Prod.fst := by
    rw [tabGet_placesOf, Option.map_map]; rfl
  rw [hclock, hs.places, ← hclock]
  exact h.clock

theorem Gang.Freed.wake (h : q.Freed l pd C v) (ls : List Nat) : (q.wake ls).Freed l pd C v := (h.to ls _).settle

theorem Gang.Leaves.modThreads (h : q.Leaves l) (ls : List Nat) {f : Nat → Thread → Thread} (hf : ∀ l t, f l (f l t) = f l t)
    (hst : ∀ t, (∀ k d, t.st ≠ .barrier k d) → ∀ k d, (f l t).st ≠ .barrier k d) : (q.modThreads ls f).Leaves l := by
  intro y hy
  rw [Gang.tabGet_modThreads hf] at hy
  obtain ⟨t, ht, rfl⟩ := Option.map_eq_some_iff.1 hy
  split
  · exact hst t (h t ht)
  · exact h t ht

theorem Gang.Leaves.to (h : q.Leaves l) (ls : List Nat) {st : Nat → TState} (hst : ∀ k d, st l ≠ .barrier k d) :
    (q.modThreads ls (Thread.to st)).Leaves l :=
  h.modThreads ls (fun _ _ => rfl) fun _ _ => hst

/-- A lane put in a state that is no wait on a barrier waits on none. -/
theorem Gang.leaves_to {ls : List Nat} (hl : l ∈ ls) {st : Nat → TState} (hst : ∀ k d, st l ≠ .barrier k d) :
    (q.modThreads ls (Thread.to st)).Leaves l := by
  intro y hy
  rw [Gang.tabGet_modThreads (f := Thread.to st) fun _ _ => rfl] at hy
  obtain ⟨t, -, rfl⟩ := Option.map_eq_some_iff.1 hy
  rw [if_pos hl]
  exact hst

theorem Gang.Leaves.tabMap (h : q.Leaves l) {f : Nat → Thread → Thread}
    (hst : ∀ t, (∀ k d, t.st ≠ .barrier k d) → ∀ k d, (f l t).st ≠ .barrier k d) : ({ q with threads := tabMap f q.threads } : Gang).Leaves l := by
  intro y hy
  obtain ⟨t, ht, rfl⟩ := Option.map_eq_some_iff.1 ((tabGet_tabMap l f q.threads).symm.trans hy)
  exact hst t (h t ht)

theorem Gang.Leaves.arrive (h : q.Leaves l) : q.arrive.Leaves l :=
  h.tabMap fun t ht k d => by
    split
    · exact TState.noConfusion
    · exact ht k d

theorem Gang.Leaves.releaseMeeting (h : q.Leaves l) (e : Word × Fin 8) : (q.releaseMeeting e).Leaves l :=
  h.tabMap (q := q) fun t ht k d => by
    split
    · exact TState.noConfusion
    · exact ht k d

/-- Settling meetings puts no lane on a barrier. -/
theorem Gang.Leaves.settle (h : q.Leaves l) : q.settle.Leaves l := by
  have hgo (n : Nat) {q : Gang} (h : q.Leaves l) : (Gang.settleGo n q).Leaves l := by
    induction n generalizing q with
    | zero => exact h
    | succ n ih =>
      rw [Gang.settleGo]
      split
      · exact h.arrive
      · exact ih (h.arrive.releaseMeeting _)
  unfold Gang.settle
  split
  · exact h
  · exact hgo 513 h

theorem Gang.Leaves.wake (h : q.Leaves l) (ls : List Nat) : (q.wake ls).Leaves l := (h.to ls (q.goesOn_ne_barrier l)).settle

theorem Gang.leaves_wake {ls : List Nat} (hl : l ∈ ls) : (q.wake ls).Leaves l := (Gang.leaves_to hl (q.goesOn_ne_barrier l)).settle

end

/-! ### The waiters of a barrier -/

theorem Gang.mem_lanesIn {q : Gang} {l : Nat} {t : Thread} (ht : tabGet l q.threads = some t) {f : TState → Bool} (hf : f t.st = true) :
    l ∈ q.lanesIn f :=
  List.mem_map.2 ⟨(l, t), List.mem_filter.2 ⟨tabGet_mem ht, hf⟩, rfl⟩

theorem Sheet.mem_waitersOn {h : Sheet} {n b : Nat} {q : Gang} (hq : tabGet n h.gangs = some q) {l : Nat}
    (hl : l ∈ q.lanesIn (TState.onBarrier b)) : (n, q.lanesIn (TState.onBarrier b)) ∈ h.waitersOn b :=
  List.mem_filter.2 ⟨List.mem_map.2 ⟨(n, q), tabGet_mem hq, rfl⟩, by simpa using List.ne_nil_of_mem hl⟩

/-! ### The release in waves (R179, R302, R303) -/

/-- In a fold of wakes that has the gang's among them, a freed lane comes to run. -/
theorem State.GangHas.foldl_wake {α : Type} {s : State} {sid n l C : Nat} {pd : Fin 8} {v : Bool} (h : s.GangHas sid n (Gang.Freed l pd C v))
    {k m : α → Nat} {ls : α → List Nat} {a : α} {as : List α} (ha : a ∈ as) (hk : k a = sid) (hm : m a = n) (hl : l ∈ ls a) :
    (as.foldl (fun s a => s.modGang (k a) (m a) (·.wake (ls a))) s).GangHas sid n fun q => q.Freed l pd C v ∧ q.Leaves l :=
  h.foldl_modGang (f := fun _ a q => q.wake (ls a)) (fun _ _ _ hq => hq.wake _) (fun _ _ _ hq => ⟨hq.1.wake _, hq.2.wake _⟩) ha hk hm
    fun _ _ hq => ⟨hq.wake _, Gang.leaves_wake hl⟩

/-- The wave a lane leaves with is set, if it leaves with one (R179). -/
def Thread.inWaveAt (at_ : Nat) (t : Thread) : Thread := if t.st.inWave then { t with st := .wave at_ } else t

theorem Thread.inWaveAt_inWaveAt (at_ : Nat) (t : Thread) : (t.inWaveAt at_).inWaveAt at_ = t.inWaveAt at_ := by
  by_cases h : t.st.inWave = true
  · rw [Thread.inWaveAt, Thread.inWaveAt, if_pos h]
    rfl
  · rw [Thread.inWaveAt, Thread.inWaveAt, if_neg h, if_neg h]

theorem Thread.inWaveAt_clock (at_ : Nat) (t : Thread) : (t.inWaveAt at_).clock = t.clock := by
  unfold Thread.inWaveAt
  split <;> rfl

theorem Thread.inWaveAt_ne_barrier (at_ : Nat) (t : Thread) (ht : ∀ k d, t.st ≠ .barrier k d) (k : Nat) (d : Fin 8) :
    (t.inWaveAt at_).st ≠ .barrier k d := by
  unfold Thread.inWaveAt
  split
  · exact TState.noConfusion
  · exact ht k d

/-- A freed lane of a gang in the waves is on no barrier, whether it runs at once or leaves with a wave. -/
theorem State.GangHas.releaseWaves {s : State} {sid n l C : Nat} {pd : Fin 8} {v : Bool} (h : s.GangHas sid n (Gang.Freed l pd C v)) (k : Nat)
    {ls : List Nat} (hl : l ∈ ls) {waves : List (Nat × Nat × List Nat)} (hw : (sid, n, ls) ∈ waves) :
    (s.releaseWaves k waves).GangHas sid n fun q => q.Freed l pd C v ∧ q.Leaves l := by
  have hno (a k : Nat) (d : Fin 8) : TState.wave a ≠ .barrier k d := TState.noConfusion
  simp only [State.releaseWaves]
  split
  · exact h.foldl_wake (k := fun p => p.1) (m := fun p => p.2.1) (ls := fun p => p.2.2) hw rfl rfl hl
  · have hout := h.foldl_modGang (R := fun q => q.Freed l pd C v ∧ q.Leaves l) (k := fun p => p.1) (m := fun p => p.2.1)
      (f := fun s p q => q.modThreads p.2.2 (Thread.to fun _ => .wave s.now)) (fun _ _ _ hq => hq.to _ _)
      (fun _ _ _ hq => ⟨hq.1.to _ _, hq.2.to _ (hno _)⟩) hw rfl rfl fun s _ hq => ⟨hq.to _ _, Gang.leaves_to hl (hno s.now)⟩
    refine List.foldlRecOn (motive := fun u : State => u.GangHas sid n fun q => q.Freed l pd C v ∧ q.Leaves l) _ _ ?_ fun u hu p _ =>
      hu.modGang _ _ (f := fun q => q.modThreads _ fun _ => Thread.inWaveAt _) fun q hq =>
        ⟨hq.1.modThreads _ (fun _ => Thread.inWaveAt_inWaveAt _) fun _ => Thread.inWaveAt_clock _,
          hq.2.modThreads _ (fun _ => Thread.inWaveAt_inWaveAt _) (Thread.inWaveAt_ne_barrier _)⟩
    obtain ⟨q, hq, hfree⟩ := hout
    exact ⟨q, (State.gang?_modCluster ..).trans hq, hfree⟩

/-- The release of a barrier: each lane that waits at U has its clock and predicate, and waits no longer. -/
theorem State.releaseBarrier_frees {s : State} {sid n l b : Nat} {pd : Fin 8} {h : Sheet} {q : Gang} {x : Thread} (hs : tabGet sid s.sheets = some h)
    (hq : tabGet n h.gangs = some q) (hU : q.atS = false) (hx : tabGet l q.threads = some x) (hst : x.st = .barrier b pd) (hl : l < 64)
    (clk : Nat) (v : Bool) :
    (s.releaseBarrier sid b clk v).GangHas sid n fun q => q.Freed l pd (max x.clock clk) v ∧ q.Leaves l := by
  have hmem : l ∈ q.lanesIn (TState.onBarrier b) := Gang.mem_lanesIn hx (by simp [TState.onBarrier, hst])
  have hwaits : s.GangHas sid n (Gang.Waits l b pd clk (max x.clock clk)) := ⟨q, by rw [State.gang?, hs]; exact hq, hU, x, hx, hst, rfl⟩
  have hfreed := (hwaits.foldl_modGang (R := fun q => q.Waits l b pd clk (max x.clock clk) ∧ q.Freed l pd (max x.clock clk) v)
    (k := fun _ => sid) (m := fun p : Nat × List Nat => p.1) (f := fun _ p q => q.releaseLanes p.2 clk v) (fun _ p _ hq => hq.releaseLanes p.2)
    (fun _ p _ hq => ⟨hq.1.releaseLanes p.2, hq.2.releaseLanes hq.1 hl p.2⟩) (Sheet.mem_waitersOn hq hmem) rfl rfl
    fun _ _ hq => ⟨hq.releaseLanes _, hq.freed_of_releaseLanes hl hmem⟩).imp fun _ hq => hq.2
  rw [State.releaseBarrier, hs]
  dsimp only
  split
  · exact hfreed.foldl_wake (k := fun _ => sid) (m := fun p : Nat × List Nat => p.1) (ls := fun p => p.2) (Sheet.mem_waitersOn hq hmem) rfl rfl hmem
  · exact hfreed.releaseWaves _ hmem (List.mem_map.2 ⟨_, Sheet.mem_waitersOn hq hmem, rfl⟩)

/-! ### The barriers of a sheet -/

/-- The barriers of a sheet by its number. -/
def State.barsOf (s : State) (sid : Nat) : Option (Tab Barrier) := (tabGet sid s.sheets).map (·.bars)

theorem State.barsOf_modSheet (s : State) (k sid : Nat) {f : Sheet → Sheet} (hf : ∀ h, (f h).bars = h.bars) :
    (s.modSheet k f).barsOf sid = s.barsOf sid := by
  simp only [State.barsOf, State.modSheet, tabGet_tabMod, Option.map_map]
  congr 1
  funext h
  simp only [Function.comp_apply]
  split <;> simp [hf]

theorem State.barsOf_modGang (s : State) (k m sid : Nat) (f : Gang → Gang) : (s.modGang k m f).barsOf sid = s.barsOf sid :=
  s.barsOf_modSheet k sid fun _ => rfl

theorem State.barsOf_foldl_modGang {α : Type} (k m : α → Nat) (f : State → α → Gang → Gang) (l : List α) (s : State) (sid : Nat) :
    (l.foldl (fun s a => s.modGang (k a) (m a) (f s a)) s).barsOf sid = s.barsOf sid :=
  List.foldlRecOn (motive := fun u : State => u.barsOf sid = s.barsOf sid) l _ rfl fun u hu _ _ => (u.barsOf_modGang _ _ _ _).trans hu

theorem State.barsOf_releaseWaves (s : State) (k : Nat) (waves : List (Nat × Nat × List Nat)) (sid : Nat) :
    (s.releaseWaves k waves).barsOf sid = s.barsOf sid := by
  simp only [State.releaseWaves]
  split
  · exact State.barsOf_foldl_modGang (fun p : Nat × Nat × List Nat => p.1) (fun p => p.2.1) (fun _ p q => q.wake p.2.2) ..
  · refine (State.barsOf_foldl_modGang (fun p : (Nat × Nat × Nat × List Nat) × Nat => p.1.2.1) (fun p => p.1.2.2.1) _ _ _ sid).trans ?_
    exact State.barsOf_foldl_modGang (fun p : Nat × Nat × List Nat => p.1) (fun p => p.2.1) (fun s p q => q.modThreads p.2.2 (Thread.to fun _ => .wave s.now)) ..

theorem State.barsOf_releaseBarrier (s : State) (k b clk : Nat) (v : Bool) (sid : Nat) :
    (s.releaseBarrier k b clk v).barsOf sid = s.barsOf sid := by
  have hgive (ws : List (Nat × List Nat)) := State.barsOf_foldl_modGang (fun _ => k) (fun p : Nat × List Nat => p.1)
    (fun _ p q => q.releaseLanes p.2 clk v) ws s sid
  unfold State.releaseBarrier
  split
  · rfl
  dsimp only
  split
  · exact (State.barsOf_foldl_modGang (fun _ => k) (fun p : Nat × List Nat => p.1) (fun _ p q => q.wake p.2) ..).trans (hgive _)
  · exact (State.barsOf_releaseWaves ..).trans (hgive _)

/-- A changed barrier reads as changed. -/
theorem State.bar_modBar {s : State} {sid b : Nat} {bars : Tab Barrier} (h : s.barsOf sid = some bars) (f : Barrier → Barrier) :
    (tabGet sid (s.modBar sid b f).sheets).map (fun h => h.bar b) = some (f ((tabGet b bars).getD {})) := by
  obtain ⟨g, hg, rfl⟩ := Option.map_eq_some_iff.1 h
  simp [State.modBar, State.modSheet, hg, Sheet.bar]

/-! ### The completion of a phase (R302) -/

/-- The sheet a phase completes in: its next boundary for errors is set where someone waits (R388). -/
def State.beforePhase (s : State) (sid b : Nat) (h : Sheet) : State := if (h.waitersOn b).isEmpty then s else s.errBoundary sid

section
variable {s : State} {sid b : Nat} {h : Sheet}

theorem State.tryPhase_of_met (hs : tabGet sid s.sheets = some h) (hmet : (h.bar b).nt ≤ (h.bar b).at_ ∧ (h.bar b).nc ≤ (h.bar b).ac) :
    s.tryPhase sid b = (((s.beforePhase sid b h).releaseBarrier sid b ((h.bar b).clk + 1) true).modBar sid b fun x =>
      { x with at_ := x.at_ - x.nt, ac := x.ac - x.nc, clk := 0 }, true) := by
  simp only [State.tryPhase, hs, hmet, decide_true, Bool.and_self, if_true] <;> rfl

theorem State.tryPhase_of_not_met (hs : tabGet sid s.sheets = some h) (hmet : ¬((h.bar b).nt ≤ (h.bar b).at_ ∧ (h.bar b).nc ≤ (h.bar b).ac)) :
    s.tryPhase sid b = (s, false) := by
  simp only [State.tryPhase, hs]
  exact if_neg (by simpa using hmet)

theorem State.tryPhase_iff (hs : tabGet sid s.sheets = some h) :
    (s.tryPhase sid b).2 = true ↔ (h.bar b).nt ≤ (h.bar b).at_ ∧ (h.bar b).nc ≤ (h.bar b).ac := by
  by_cases hmet : (h.bar b).nt ≤ (h.bar b).at_ ∧ (h.bar b).nc ≤ (h.bar b).ac
  · simp only [State.tryPhase_of_met hs hmet, hmet, and_self]
  · simp only [State.tryPhase_of_not_met hs hmet, hmet, Bool.false_eq_true]

/-- The boundary for errors changes neither gangs nor barriers of the sheet. -/
theorem State.beforePhase_sheet (hs : tabGet sid s.sheets = some h) :
    ∃ h0, tabGet sid (s.beforePhase sid b h).sheets = some h0 ∧ h0.gangs = h.gangs ∧ h0.bars = h.bars := by
  unfold State.beforePhase
  split
  · exact ⟨h, hs, rfl, rfl⟩
  · simp only [State.errBoundary, hs, State.modSheet, tabGet_tabMod_same, Option.map_some]
    exact ⟨_, rfl, rfl, rfl⟩

/-- A completed phase takes its targets from the counts and clears the phase clock. -/
theorem State.tryPhase_bar (hs : tabGet sid s.sheets = some h) (hdone : (s.tryPhase sid b).2 = true) :
    (tabGet sid (s.tryPhase sid b).1.sheets).map (fun h => h.bar b)
      = some { h.bar b with at_ := (h.bar b).at_ - (h.bar b).nt, ac := (h.bar b).ac - (h.bar b).nc, clk := 0 } := by
  obtain ⟨h0, hh0, -, hbars⟩ := State.beforePhase_sheet (b := b) hs
  rw [State.tryPhase_of_met hs ((State.tryPhase_iff hs).1 hdone)]
  refine State.bar_modBar (bars := h.bars) ?_ _
  rw [State.barsOf_releaseBarrier, State.barsOf, hh0, Option.map_some, hbars]

/-- It releases every lane that waits at U. -/
theorem State.tryPhase_frees {n l : Nat} {q : Gang} {x : Thread} {pd : Fin 8} (hs : tabGet sid s.sheets = some h)
    (hdone : (s.tryPhase sid b).2 = true) (hq : tabGet n h.gangs = some q) (hU : q.atS = false) (hx : tabGet l q.threads = some x)
    (hst : x.st = .barrier b pd) (hl : l < 64) :
    (s.tryPhase sid b).1.GangHas sid n fun q => q.Freed l pd (max x.clock ((h.bar b).clk + 1)) true ∧ q.Leaves l := by
  obtain ⟨h0, hh0, hgangs, -⟩ := State.beforePhase_sheet (b := b) hs
  obtain ⟨q', hq', hfree⟩ := State.releaseBarrier_frees hh0 (hgangs ▸ hq) hU hx hst hl ((h.bar b).clk + 1) true
  rw [State.tryPhase_of_met hs ((State.tryPhase_iff hs).1 hdone)]
  exact ⟨q', (State.gang?_modBar ..).trans hq', hfree⟩

end

/-! ### The instructions -/

section
variable {s t : State} {c : Site} {g : Guard} {b : Fin 16}

theorem exec_barinit_of {ext : Bool} {n : BarCounts} (h : ActsOn (.barinit g b ext n) g s t c) : exec (.barinit g b ext n) s =
    if c.sh.T < (barCounts c.view n).1 || 65535 < (barCounts c.view n).2 || ((barCounts c.view n).1 = 0 && (barCounts c.view n).2 = 0) then
      .next (t.raise c (.barinit g b ext n) (Trap.illegal 2))
    else if !(c.sh.waitersOn b.val).isEmpty then .next (t.raise c (.barinit g b ext n) { cause := 9, check := 8 })
    else .next ((t.modBar c.sid b.val fun _ => { valid := true, ext := ext, nt := (barCounts c.view n).1, nc := (barCounts c.view n).2 }).finish c
      (.barinit g b ext n)) := by
  rw [exec_barinit, execBarinit, enterMemGang_of h]

theorem exec_barinv_of (h : ActsOn (.barinv g b) g s t c) : exec (.barinv g b) s =
    if (c.sh.bar b.val).valid then
      .next (((t.releaseBarrier c.sid b.val (max (c.sh.bar b.val).clk c.clk + 1) false).modBar c.sid b.val fun _ => {}).finish c (.barinv g b))
    else .next (t.finish c (.barinv g b)) := by
  rw [exec_barinv, execBarinv, enterMemGang_of h]

/-- The arrivals of lanes in their order, and whether one of them completed a phase. -/
def arrivals (c : Site) (i : Instr) (b : Nat) (pd : Option (Fin 8)) (ls : List Nat) (t : State) : State × Bool :=
  ls.foldl (fun q k => ((q.1.threadArrival c i b pd k).1, q.2 || (q.1.threadArrival c i b pd k).2)) (t, false)

variable {i : Instr} {pd : Option (Fin 8)} {l : Nat} {ls : List Nat}

theorem barrierArrive_of_valid (h : Reaches i s t c) (hls : c.view.active g = l :: ls) (hb : (c.sh.bar b.val).valid = true) :
    barrierArrive i g b pd s = .next (if (arrivals c i b.val pd (l :: ls) t).2 then
      (((arrivals c i b.val pd (l :: ls) t).1.finish c i).shadowPoints [c.sid]).reap else (arrivals c i b.val pd (l :: ls) t).1.finish c i) := by
  rw [barrierArrive, enterMem_of h]
  simp only [hls, hb] <;> rfl

theorem barrierArrive_of_invalid (h : Reaches i s t c) (hls : c.view.active g = l :: ls) (hb : (c.sh.bar b.val).valid = false) :
    barrierArrive i g b pd s = .next (t.raise c i { cause := 10, check := 8, lane := some l }) := by
  rw [barrierArrive, enterMem_of h]
  simp only [hls, hb] <;> rfl

end

/-- Settles O39: the instructions by their conditions, and a phase's completion by what its release does to each waiter. -/
theorem barriers : Obligations.Barriers := by
  unfold Obligations.Barriers
  refine ⟨?_, ?_, ?_, ?_, ?_, ?_, ?_⟩
  -- BARINIT.
  · intro s t c g b ext n i nt nc hacts
    refine ⟨fun hbad => ?_, fun hnt hnc hsome => ⟨fun hnone => ?_, fun hwait => ?_⟩⟩
    · exact (exec_barinit_of hacts).trans (if_pos (by simpa [or_assoc] using hbad))
    all_goals
      have hok := (exec_barinit_of hacts).trans (if_neg (by simpa using ⟨⟨hnt, hnc⟩, fun h0 => hsome.resolve_left (not_not_intro h0)⟩))
    · exact hok.trans (if_neg (by simp [hnone]))
    · exact hok.trans (if_pos (by simp [hwait]))
  -- BARINV.
  · intro s t c g b hacts
    exact ⟨fun hv => (exec_barinv_of hacts).trans (if_pos hv), fun hv => (exec_barinv_of hacts).trans (if_neg (by simp [hv]))⟩
  -- BAR and BAR.arrive.
  · intro s t c g b pd l ls hls run
    refine ⟨fun h hv => ?_, fun h hv => ?_, fun h hv => ?_, fun h hv => ?_⟩
    · exact (exec_bar ..).trans (barrierArrive_of_valid h hls hv)
    · exact (exec_barArrive ..).trans (barrierArrive_of_valid h hls hv)
    · exact (exec_bar ..).trans (barrierArrive_of_invalid h hls hv)
    · exact (exec_barArrive ..).trans (barrierArrive_of_invalid h hls hv)
  -- The completion of a phase.
  · intro s sid b h hs x
    refine ⟨State.tryPhase_iff hs, fun hno => ?_, State.tryPhase_bar hs⟩
    rw [State.tryPhase_of_not_met hs fun hmet => by simp [(State.tryPhase_iff hs).2 hmet] at hno]
  · intro s sid b n h q l x pd hs hdone hq hU hx hst hl
    obtain ⟨q', hq', hfreed, hleaves⟩ := State.tryPhase_frees hs hdone hq hU hx hst hl
    obtain ⟨h', hh', hq'⟩ := Option.bind_eq_some_iff.1 hq'
    obtain ⟨y, hy, hclock⟩ := Option.map_eq_some_iff.1 hfreed.clock
    exact ⟨h', q', y, hh', hq', hy, hclock, hfreed.pred, hleaves y hy⟩
  · intro q l clk b pd v x hx hst hU hl
    have hwaits : q.Waits l b pd clk (max x.clock clk) := ⟨hU, x, hx, hst, rfl⟩
    exact ⟨(hwaits.freed_of_releaseLane hl).clock, (hwaits.freed_of_releaseLane hl).pred⟩
  -- A wave leaves.
  · intro s sheet gang h q hs hq due hdue
    have hlanes : q.lanesIn (TState.waveDue s.now) = due := congrArg q.lanesIn (funext fun st => by cases st <;> rfl)
    have hgang : ((tabGet sheet s.sheets).bind fun h => tabGet gang h.gangs) = some q := by rw [hs]; exact hq
    rw [exec_barrierWaveRelease, execBarrierWaveRelease, hgang]
    simp only [hlanes]
    exact if_neg (by simpa using hdue)

end Sys2Proof.Machine
end

section
/-! Folios: opening, joining, counting down and closing (R122 to R124, R138, R285, R309, R310). -/

namespace Sys2Proof.Machine

/-! ### What a step leaves of the homes -/

/-- `u` has the memory of `s`, what the homes keep of its atoms, the homes within reach and the replicated pages; and no context
appears or goes. -/
structure State.SameHomes (s u : State) : Prop where
  mem : u.mem = s.mem
  atoms : u.atoms = s.atoms
  unreachable : u.unreachable = s.unreachable
  replicas : u.replicas = s.replicas
  ctxs : ∀ cx, (tabGet cx u.ctxs).isSome = (tabGet cx s.ctxs).isSome

theorem State.SameHomes.refl (s : State) : s.SameHomes s := ⟨rfl, rfl, rfl, rfl, fun _ => rfl⟩

theorem State.SameHomes.trans {a b c : State} (h : a.SameHomes b) (g : b.SameHomes c) : a.SameHomes c :=
  ⟨g.mem.trans h.mem, g.atoms.trans h.atoms, g.unreachable.trans h.unreachable, g.replicas.trans h.replicas,
    fun cx => (g.ctxs cx).trans (h.ctxs cx)⟩

theorem State.SameHomes.ite {a x y : State} {p : Prop} [Decidable p] (hx : a.SameHomes x) (hy : a.SameHomes y) :
    a.SameHomes (if p then x else y) := by
  split
  · exact hx
  · exact hy

theorem State.SameHomes.foldl {α : Type} {f : State → α → State} (hf : ∀ (s : State) a, s.SameHomes (f s a)) (l : List α) (s : State) :
    s.SameHomes (l.foldl f s) :=
  List.foldlRecOn (motive := fun u : State => s.SameHomes u) l f (.refl s) fun u hu a _ => hu.trans (hf u a)

theorem State.sameHomes_modSheet (s : State) (k : Nat) (f : Sheet → Sheet) : s.SameHomes (s.modSheet k f) := ⟨rfl, rfl, rfl, rfl, fun _ => rfl⟩

theorem State.sameHomes_modLaunch (s : State) (k : Nat) (f : Launch → Launch) : s.SameHomes (s.modLaunch k f) := ⟨rfl, rfl, rfl, rfl, fun _ => rfl⟩

theorem State.sameHomes_modCtx (s : State) (k : Nat) (f : Context → Context) : s.SameHomes (s.modCtx k f) :=
  ⟨rfl, rfl, rfl, rfl, fun cx => by simp [State.modCtx, tabGet_tabMod]⟩

theorem State.notice_sameHomes (s : State) (kind ctx code origin addr : Nat) : s.SameHomes (s.notice kind ctx code origin addr) := by
  unfold State.notice
  exact ⟨rfl, rfl, rfl, rfl, fun _ => rfl⟩

theorem State.asyncError_sameHomes (s : State) (cx code addr detail : Nat) : s.SameHomes (s.asyncError cx code addr detail) := by
  simp only [State.asyncError]
  split
  · refine State.SameHomes.trans ?_ (State.sameHomes_modCtx _ cx _)
    split
    · exact ⟨rfl, rfl, rfl, rfl, fun _ => rfl⟩
    · exact .refl s
  · exact s.notice_sameHomes ..

theorem State.observe_sameHomes (s : State) (tag who cx : Option Nat) : s.SameHomes (s.observe tag who cx) := by
  unfold State.observe
  split
  · exact .refl s
  · exact s.sameHomes_modSheet ..

theorem State.tryEligible_sameHomes (s : State) (k : Nat) : s.SameHomes (s.tryEligible k) := by
  unfold State.tryEligible
  split
  · exact .refl s
  · split
    · exact s.sameHomes_modLaunch ..
    · exact .refl s

theorem State.testWatches_sameHomes (s : State) (pa t : Nat) : s.SameHomes (s.testWatches pa t) :=
  State.SameHomes.foldl (fun u _ => ((u.observe_sameHomes ..).trans (State.sameHomes_modLaunch ..)).trans (State.tryEligible_sameHomes ..)) _ s

/-! ### One atom written by no sheet -/

theorem State.atom_congr (s : State) {pa pb : Nat} (h : pa / 32 = pb / 32) : s.atom pa = s.atom pb := by
  rw [State.atom, State.atom, h]

theorem State.SameHomes.atom {s u : State} (h : s.SameHomes u) (pa : Nat) : u.atom pa = s.atom pa := by
  rw [State.atom, State.atom, h.atoms]

theorem State.SameHomes.byte {s u : State} (h : s.SameHomes u) (x : Nat) : u.byte x = s.byte x := by
  rw [State.byte, State.byte, h.mem]

theorem State.SameHomes.unreach {s u : State} (h : s.SameHomes u) (pa : Nat) : u.unreach pa = s.unreach pa := by
  rw [State.unreach, State.unreach, h.unreachable]

theorem State.atom_putAtom (s : State) (pa pb : Nat) (a : Atom) : (s.putAtom pa a).atom pb = if pb / 32 = pa / 32 then a else s.atom pb := by
  rw [State.atom, State.putAtom, stGet_stPut, State.atom]

/-- A write by no sheet, under the key its atom has: the enabled bytes are written, and the atom has the time and the key (R105, R129). -/
theorem State.perform_unowned (s : State) (w : Writer) (t pa : Nat) (bs : List (Option Byte)) (fo : Option Nat) (hw : w.sheet = none)
    (hkey : (s.atom pa).key = w.key) :
    ∃ a : Atom, ({ s with mem := putBytes pa bs s.mem }.putAtom pa a).SameHomes (s.perform w t pa bs fo) ∧ a.w = t := by
  have hdry : s.dryReplay none = false := rfl
  have hobs := s.observe_sameHomes (s.atom pa).itag none (some w.ctx)
  have hput (a : Atom) : ({ s with mem := putBytes pa bs s.mem }.putAtom pa a).SameHomes
      ({ s.observe (s.atom pa).itag none (some w.ctx) with mem := putBytes pa bs (s.observe (s.atom pa).itag none (some w.ctx)).mem }.putAtom pa a) := by
    refine ⟨?_, ?_, hobs.unreachable, hobs.replicas, hobs.ctxs⟩
    · simp only [State.putAtom_mem, hobs.mem]
    · simp only [State.putAtom, hobs.atoms]
  simp only [State.perform, hw, hdry, Bool.false_eq_true, if_false, hkey, if_true, putBytes]
  exact ⟨_, (State.SameHomes.ite ((hput _).trans (State.asyncError_sameHomes ..)) (hput _)).trans (State.testWatches_sameHomes ..), rfl⟩

/-! ### The pending bytes of a folio (R124) -/

/-- The byte that stands at `x` when one more store of a folio joins: the later by the storing lanes' clocks. -/
def FolioStore.over (x : Nat) (b : Option (Nat × Byte)) (j : FolioStore) : Option (Nat × Byte) :=
  match j.at x, b with
  | none, b => b
  | some v, none => some (j.clk, v)
  | some v, some y => if y.1 ≤ j.clk then some (j.clk, v) else some y

theorem Folio.pending_eq (f : Folio) (a : Nat) :
    f.pending a = (List.range 32).map fun i => (f.joins.foldl (FolioStore.over (32 * a + i)) none).map (·.2) := rfl

theorem FolioStore.at_eq_some_iff {j : FolioStore} {x : Nat} {b : Byte} : j.at x = some b ↔ j.pa ≤ x ∧ j.bytes[x - j.pa]? = some (some b) := by
  simp [FolioStore.at, Option.join_eq_some_iff]

section
variable {x : Nat} {j : FolioStore} {b : Option (Nat × Byte)}

theorem FolioStore.over_of_none (h : j.at x = none) : j.over x b = b := by
  simp only [FolioStore.over, h]

/-- A store not earlier than what stands takes its place. -/
theorem FolioStore.over_of_le {v : Byte} (h : j.at x = some v) (hb : ∀ y, b = some y → y.1 ≤ j.clk) : FolioStore.over x b j = some (j.clk, v) := by
  cases b with
  | none => simp only [FolioStore.over, h]
  | some y => simp only [FolioStore.over, h, if_pos (hb y rfl)]

/-- An earlier one does not. -/
theorem FolioStore.over_of_lt {y : Nat × Byte} (h : ∀ v, j.at x = some v → j.clk < y.1) : FolioStore.over x (some y) j = some y := by
  cases hv : j.at x with
  | none => exact FolioStore.over_of_none hv
  | some v => simp only [FolioStore.over, hv, if_neg (not_le.2 (h v hv))]

/-- What stands has a clock of the stores or of what stood before. -/
theorem FolioStore.over_le {c : Nat} (hj : ∀ v, j.at x = some v → j.clk ≤ c) (hb : ∀ y, b = some y → y.1 ≤ c) (y : Nat × Byte)
    (hy : FolioStore.over x b j = some y) : y.1 ≤ c := by
  cases hv : j.at x with
  | none => exact hb y (by rwa [FolioStore.over_of_none hv] at hy)
  | some v =>
    cases b with
    | none =>
      simp only [FolioStore.over, hv, Option.some.injEq] at hy
      exact hy ▸ hj v hv
    | some z =>
      simp only [FolioStore.over, hv] at hy
      split at hy
      · exact Option.some.inj hy ▸ hj v hv
      · exact hb y hy

end

theorem foldl_over_of_none {x : Nat} {js : List FolioStore} (h : ∀ j ∈ js, j.at x = none) (b : Option (Nat × Byte)) :
    js.foldl (FolioStore.over x) b = b :=
  List.foldlRecOn (motive := fun c => c = b) js _ rfl fun _ hc j hj => hc ▸ FolioStore.over_of_none (h j hj)

/-- Of several stores to one byte the latest stands, and of equal ones the last to issue. -/
theorem foldl_over_of_latest {x : Nat} {pre post : List FolioStore} {j : FolioStore} {v : Byte} (hj : j.at x = some v)
    (hpre : ∀ k ∈ pre, ∀ y, k.at x = some y → k.clk ≤ j.clk) (hpost : ∀ k ∈ post, ∀ y, k.at x = some y → k.clk < j.clk) :
    (pre ++ j :: post).foldl (FolioStore.over x) none = some (j.clk, v) := by
  have hbefore : ∀ y, pre.foldl (FolioStore.over x) none = some y → y.1 ≤ j.clk :=
    List.foldlRecOn (motive := fun b : Option (Nat × Byte) => ∀ y, b = some y → y.1 ≤ j.clk) pre _ (fun _ h => by cases h) fun b hb k hk =>
      FolioStore.over_le (hpre k hk) hb
  rw [List.foldl_append, List.foldl_cons, FolioStore.over_of_le hj hbefore]
  exact List.foldlRecOn (motive := fun b : Option (Nat × Byte) => b = some (j.clk, v)) post _ rfl fun b hb k hk => by
    rw [hb, FolioStore.over_of_lt (hpost k hk)]

/-! ### The close (R138) -/

section
variable {s : State} {cx slot t : Nat} {f : Folio}

/-- Who writes an atom of the folio: no sheet, for its context, under the key and to the home of its first store there. -/
def Folio.writer (f : Folio) (cx a : Nat) : Writer :=
  let j := f.joins.find? fun j => j.pa / 32 == a
  { sheet := none, ctx := cx, key := (j.map (·.key)).getD 0, home := j.map (·.home) }

/-- The close of one atom: its pending bytes are written, unless its home is out of reach (R470). -/
def State.closeAtom (cx slot t : Nat) (f : Folio) (s : State) (a : Nat) : State :=
  if s.unreach (32 * a) then s.asyncError cx 7 (((f.joins.find? fun j => j.pa / 32 == a).map (·.va)).getD 0 / 32 * 32) 0
  else s.perform (f.writer cx a) t (32 * a) (f.pending a) (some (slot + 256 * f.gen))

/-- Atom `a` can be closed in `s`: its home is in reach, and its key is the one the folio's stores to it have. -/
def Folio.Closable (f : Folio) (s : State) (a : Nat) : Prop :=
  s.unreach (32 * a) = false ∧ (s.atom (32 * a)).key = ((f.joins.find? fun j => j.pa / 32 == a).map (·.key)).getD 0

/-- What stands at a byte once the folio's stores to it are made over `old`. -/
def Folio.result (f : Folio) (x : Nat) (old : Byte) : Byte := ((f.joins.foldl (FolioStore.over x) none).map (·.2)).getD old

/-- `u` is `s` with the atoms of a list closed at the time `t`. -/
structure Folio.ClosedTo (f : Folio) (t : Nat) (as : List Nat) (s u : State) : Prop where
  byte : ∀ x, u.byte x = if x / 32 ∈ as then f.result x (s.byte x) else s.byte x
  written : ∀ pa, pa / 32 ∈ as → (u.atom pa).w = t
  kept : ∀ pa, pa / 32 ∉ as → u.atom pa = s.atom pa
  unreachable : u.unreachable = s.unreachable
  ctxs : ∀ cx, (tabGet cx u.ctxs).isSome = (tabGet cx s.ctxs).isSome

theorem State.closeAtom_closedTo {a : Nat} (h : f.Closable s a) : f.ClosedTo t [a] s (s.closeAtom cx slot t f a) := by
  obtain ⟨hreach, hkey⟩ := h
  obtain ⟨v, hsame, hv⟩ := s.perform_unowned (f.writer cx a) t (32 * a) (f.pending a) (some (slot + 256 * f.gen)) rfl hkey
  have hclose : s.closeAtom cx slot t f a = s.perform (f.writer cx a) t (32 * a) (f.pending a) (some (slot + 256 * f.gen)) := by
    rw [State.closeAtom, hreach]
    rfl
  have hat (pa : Nat) : (s.closeAtom cx slot t f a).atom pa = if pa / 32 = a then v else s.atom pa := by
    rw [hclose, hsame.atom, State.atom_putAtom, Nat.mul_div_cancel_left _ (by omega)]
    rfl
  refine ⟨fun x => ?_, fun pa hpa => ?_, fun pa hpa => ?_, by rw [hclose, hsame.unreachable]; rfl, fun k => by rw [hclose, hsame.ctxs]; rfl⟩
  · have hbyte : (s.closeAtom cx slot t f a).byte x = stGet restingByte x (putBytes (32 * a) (f.pending a) s.mem) := by
      rw [hclose, hsame.byte]
      rfl
    simp only [hbyte, stGet_putBytes, List.mem_singleton, Folio.pending_eq]
    by_cases hx : x / 32 = a
    · have hle : 32 * a ≤ x := by omega
      have hlt : x - 32 * a < 32 := by omega
      have hsum : 32 * a + (x - 32 * a) = x := by omega
      rw [if_pos hle, if_pos hx, List.getElem?_map, List.getElem?_range hlt, Option.map_some, hsum]
      rfl
    · rw [if_neg hx]
      split
      · next hle =>
        rw [List.getElem?_eq_none (by rw [List.length_map, List.length_range]; omega)]
        rfl
      · rfl
  · rw [hat, if_pos (List.mem_singleton.1 hpa), hv]
  · rw [hat, if_neg (by simpa using hpa)]

theorem Folio.ClosedTo.closable {u : State} {a b : Nat} (h : f.ClosedTo t [a] s u) (hab : b ≠ a) (hb : f.Closable s b) : f.Closable u b := by
  refine ⟨by rw [State.unreach, h.unreachable]; exact hb.1, ?_⟩
  rw [h.kept _ (by rw [Nat.mul_div_cancel_left _ (by omega)]; simpa using hab)]
  exact hb.2

/-- Atoms are closed one after another. -/
theorem Folio.ClosedTo.cons {u v : State} {a : Nat} {as : List Nat} (h : f.ClosedTo t [a] s u) (g : f.ClosedTo t as u v) (ha : a ∉ as) :
    f.ClosedTo t (a :: as) s v where
  byte x := by
    rw [g.byte, h.byte]
    by_cases hx : x / 32 = a
    · simp [hx, ha]
    · simp [hx]
  written pa hpa := by
    by_cases hin : pa / 32 ∈ as
    · exact g.written pa hin
    · rw [g.kept pa hin]
      exact h.written pa (by simpa [hin] using hpa)
  kept pa hpa := by
    rw [List.mem_cons, not_or] at hpa
    rw [g.kept pa hpa.2, h.kept pa (by simpa using hpa.1)]
  unreachable := g.unreachable.trans h.unreachable
  ctxs k := (g.ctxs k).trans (h.ctxs k)

theorem State.foldl_closeAtom_closedTo {as : List Nat} (hnd : as.Nodup) (h : ∀ a ∈ as, f.Closable s a) :
    f.ClosedTo t as s (as.foldl (State.closeAtom cx slot t f) s) := by
  induction as generalizing s with
  | nil => exact ⟨fun _ => rfl, fun _ h => absurd h List.not_mem_nil, fun _ _ => rfl, rfl, fun _ => rfl⟩
  | cons a as ih =>
    obtain ⟨hna, hnd⟩ := List.nodup_cons.1 hnd
    have h1 : f.ClosedTo t [a] s (s.closeAtom cx slot t f a) := State.closeAtom_closedTo (h a List.mem_cons_self)
    exact h1.cons (ih hnd fun b hb => h1.closable (fun e => hna (e ▸ hb)) (h b (List.mem_cons_of_mem _ hb))) hna

theorem Folio.mem_atoms {a : Nat} : a ∈ f.atoms ↔ ∃ j ∈ f.joins, j.pa / 32 = a := by
  rw [Folio.atoms, List.mem_eraseDups, List.mem_map]

theorem nodup_eraseDups : ∀ l : List Nat, l.eraseDups.Nodup
  | [] => List.nodup_nil
  | a :: l => by
    rw [List.eraseDups_cons, List.nodup_cons, List.mem_eraseDups]
    exact ⟨by simp, nodup_eraseDups _⟩
termination_by l => l.length
decreasing_by exact Nat.lt_succ_of_le (List.length_filter_le ..)

theorem Folio.nodup_atoms (f : Folio) : f.atoms.Nodup := nodup_eraseDups _

theorem maxOf_le_iff (l : List Nat) (b : Nat) : maxOf l ≤ b ↔ ∀ x ∈ l, x ≤ b := by
  rw [maxOf, foldl_max_le_iff]
  exact and_iff_right (Nat.zero_le b)

/-- The greatest lease end over the folio's atoms is the greatest over its stores. -/
theorem Folio.maxOf_atoms (f : Folio) (s : State) :
    maxOf (f.atoms.map fun a => (s.atom (32 * a)).e) = maxOf (f.joins.map fun j => (s.atom j.pa).e) := by
  have hatom (pa : Nat) : s.atom (32 * (pa / 32)) = s.atom pa := s.atom_congr (by omega)
  refine eq_of_forall_ge_iff fun b => ?_
  simp only [maxOf_le_iff, List.forall_mem_map, Folio.mem_atoms, forall_exists_index, and_imp]
  exact ⟨fun h j hj => hatom j.pa ▸ h _ j hj rfl, fun h a j hj ha => by rw [← ha, hatom]; exact h j hj⟩

/-- No page is replicated: a write waits for no conversion (R101). -/
theorem State.beforeWrite_of_no_replica (h : s.replicas = []) (cx va : Nat) : s.beforeWrite cx va = s := by
  rw [State.beforeWrite, State.convert, h]
  rfl

theorem State.foldl_beforeWrite_of_no_replica (h : s.replicas = []) (cx : Nat) (js : List FolioStore) :
    js.foldl (fun s j => s.beforeWrite cx j.va) s = s :=
  List.foldlRecOn (motive := fun u => u = s) js _ rfl fun u hu j _ => by rw [hu, State.beforeWrite_of_no_replica h]

/-- The time of the close: above every contributor's clock and every lease end. -/
def Folio.closeTime (f : Folio) (s : State) : Nat := 1 + max f.clk (maxOf (f.joins.map fun j => (s.atom j.pa).e))

theorem Folio.lt_closeTime (f : Folio) (s : State) : f.clk < f.closeTime s ∧ ∀ j ∈ f.joins, (s.atom j.pa).e < f.closeTime s := by
  have hmax := (maxOf_le_iff (f.joins.map fun j => (s.atom j.pa).e) _).1 le_rfl
  unfold Folio.closeTime
  refine ⟨by omega, fun j hj => ?_⟩
  have := hmax _ (List.mem_map_of_mem hj)
  omega

/-- The folio after its close. -/
def Folio.shut (f : Folio) (t : Nat) : Folio := { f with st := .closed, closeT := t, joins := [], closer := none }

/-- The close, with no page replicated. -/
theorem State.closeFolio_of_no_replica {ctx : Context} (hctx : tabGet cx s.ctxs = some ctx) (hf : tabGet slot ctx.folios = some f) (hr : s.replicas = []) :
    s.closeFolio cx slot = if f.closeTime s < timeEnd then
      let u := (f.atoms.foldl (State.closeAtom cx slot (f.closeTime s) f) s).modCtx cx fun c =>
        { c with folios := tabPut slot (f.shut (f.closeTime s)) c.folios }
      match f.closer with
      | none => u
      | some (k, g, m) => u.modGang k g fun g => g.raiseClock (lanesOf m 64) (f.closeTime s)
    else s.exhaust cx := by
  have hfolio : ((tabGet cx s.ctxs).bind fun c => tabGet slot c.folios) = some f := by rw [hctx]; exact hf
  simp only [State.closeFolio, hfolio, State.foldl_beforeWrite_of_no_replica hr, Folio.maxOf_atoms] <;> rfl

/-- The atoms of a folio whose stores have their atoms' keys and homes in reach can be closed. -/
theorem Folio.closable (h : ∀ j ∈ f.joins, (s.atom j.pa).key = j.key ∧ s.unreach (j.pa / 32 * 32) = false) {a : Nat} (ha : a ∈ f.atoms) :
    f.Closable s a := by
  obtain ⟨j, hj, hja⟩ := Folio.mem_atoms.1 ha
  obtain ⟨k, hk⟩ := Option.isSome_iff_exists.1 ((List.find?_isSome (p := fun j : FolioStore => j.pa / 32 == a)).2 ⟨j, hj, by simpa using hja⟩)
  have hka : k.pa / 32 = a := by simpa using List.find?_some hk
  refine ⟨?_, ?_⟩
  · rw [← hja, Nat.mul_comm]
    exact (h j hj).2
  · rw [hk, Option.map_some, Option.getD_some, ← (h k (List.mem_of_find?_eq_some hk)).1]
    exact congrArg Atom.key (s.atom_congr (by omega))

/-- What the close leaves: every atom of the folio closed at the one time, and the folio closed and empty. -/
theorem State.closeFolio_closedTo {ctx : Context} (hctx : tabGet cx s.ctxs = some ctx) (hf : tabGet slot ctx.folios = some f) (hr : s.replicas = [])
    (h : ∀ j ∈ f.joins, (s.atom j.pa).key = j.key ∧ s.unreach (j.pa / 32 * 32) = false) (ht : f.closeTime s < timeEnd) :
    f.ClosedTo (f.closeTime s) f.atoms s (s.closeFolio cx slot)
      ∧ ((tabGet cx (s.closeFolio cx slot).ctxs).bind fun q => tabGet slot q.folios) = some (f.shut (f.closeTime s)) := by
  have hfold : f.ClosedTo (f.closeTime s) f.atoms s (f.atoms.foldl (State.closeAtom cx slot (f.closeTime s) f) s) :=
    State.foldl_closeAtom_closedTo f.nodup_atoms fun a ha => Folio.closable h ha
  obtain ⟨c, hc⟩ := Option.isSome_iff_exists.1 ((hfold.ctxs cx).trans (by rw [hctx]; rfl))
  -- What follows the writes changes no home.
  have hrest : ∃ g : State → State, (∀ v, (g v).mem = v.mem ∧ (g v).atoms = v.atoms ∧ (g v).unreachable = v.unreachable ∧ (g v).ctxs = v.ctxs) ∧
      s.closeFolio cx slot = g ((f.atoms.foldl (State.closeAtom cx slot (f.closeTime s) f) s).modCtx cx fun c =>
        { c with folios := tabPut slot (f.shut (f.closeTime s)) c.folios }) := by
    rw [State.closeFolio_of_no_replica hctx hf hr, if_pos ht]
    dsimp only
    split
    · exact ⟨id, fun _ => ⟨rfl, rfl, rfl, rfl⟩, rfl⟩
    · exact ⟨fun v => v.modGang _ _ _, fun _ => ⟨rfl, rfl, rfl, rfl⟩, rfl⟩
  obtain ⟨g, hg, he⟩ := hrest
  rw [he]
  generalize f.atoms.foldl (State.closeAtom cx slot (f.closeTime s) f) s = v at hfold hc ⊢
  obtain ⟨hmem, hatoms, hunr, hctxs⟩ := hg (v.modCtx cx fun c => { c with folios := tabPut slot (f.shut (f.closeTime s)) c.folios })
  have hsame : v.SameHomes (v.modCtx cx fun c => { c with folios := tabPut slot (f.shut (f.closeTime s)) c.folios }) := v.sameHomes_modCtx ..
  refine ⟨⟨fun x => ?_, fun pa hpa => ?_, fun pa hpa => ?_, ?_, fun k => ?_⟩, ?_⟩
  · rw [State.byte, hmem]; exact hfold.byte x
  · rw [State.atom, hatoms]; exact hfold.written pa hpa
  · rw [State.atom, hatoms]; exact hfold.kept pa hpa
  · rw [hunr]; exact hfold.unreachable
  · rw [hctxs, hsame.ctxs, hfold.ctxs]
  · rw [hctxs]
    simp [State.modCtx, hc]

/-- A store of the folio that has a byte for an address touches its atom. -/
theorem FolioStore.atom_of_at {j : FolioStore} (hj : j.pa % 32 + j.bytes.length ≤ 32) {x : Nat} {b : Byte} (h : j.at x = some b) :
    j.pa / 32 = x / 32 := by
  obtain ⟨hle, hb⟩ := FolioStore.at_eq_some_iff.1 h
  have := (List.getElem?_eq_some_iff.1 hb).1
  omega

end

/-! ### The instructions -/

/-- A folio takes a slot of a context. -/
def Context.putFolio (x : Context) (slot : Nat) (f : Folio) : Context := { x with folios := tabPut slot f x.folios }

/-- An open folio counted down by one (R310), and closing at 0. -/
def Folio.down (f : Folio) (c : Site) : Folio :=
  let f1 : Folio := { f with count := f.count - 1, clk := max f.clk c.clk }
  if f1.count = 0 then { f1 with st := .closing, closer := some (c.sid, c.gang, c.view.lanes) } else f1

section
variable {s t : State} {c : Site} {g : Guard} {d : Fin 64} {ctx : Context}

theorem exec_fopen_of {a : UOperand} (h : ActsOn (.fopen g d a) g s t c) (hctx : tabGet c.sh.ctx t.ctxs = some ctx) : exec (.fopen g d a) s =
    if (c.view.uop a).toNat = 0 || 65535 < (c.view.uop a).toNat then .next (t.raise c (.fopen g d a) (Trap.illegal 2))
    else match t.folioSlot c.sh.ctx ctx with
      | .error k => .next (t.raise c (.fopen g d a) { cause := 13, check := 8, info := k })
      | .ok slot => .next (((((t.modCtx c.sh.ctx fun x =>
          x.putFolio slot { st := .opened, gen := (ctx.folio slot).gen + 1, count := (c.view.uop a).toNat }).putRegs c
            (c.view.regs.setUni d.val (BitVec.ofNat 32 (slot + 256 * ((ctx.folio slot).gen + 1))))).pinDown c.sid).noAudit c.sid).finish c
              (.fopen g d a)) := by
  rw [exec_fopen, execFopen, enterMemGang_of h]
  simp only [hctx] <;> rfl

theorem exec_fclose_of_none {a : Fin 64} (h : ActsOn (.fclose g a) g s t c) (hctx : tabGet c.sh.ctx t.ctxs = some ctx)
    (hf : ctx.openFolio (c.view.regs.uni a.val).toNat = none) : Raises (.fclose g a) s t c (Trap.illegal 2) := by
  rw [Raises, exec_fclose, execFclose, enterMemGang_of h]
  simp only [hctx, hf]

/-- FCLOSE of an open folio counts down, and starts the close at 0 (R310). -/
theorem exec_fclose_of {a : Fin 64} {f : Folio} (h : ActsOn (.fclose g a) g s t c) (hctx : tabGet c.sh.ctx t.ctxs = some ctx)
    (hf : ctx.openFolio (c.view.regs.uni a.val).toNat = some f) :
    Does (.fclose g a) s (((t.modCtx c.sh.ctx fun x => x.putFolio ((c.view.regs.uni a.val).toNat % 256) (f.down c)).pinDown c.sid).noAudit c.sid) c := by
  rw [Does, exec_fclose, execFclose, enterMemGang_of h]
  simp only [hctx, hf] <;> rfl

variable {ty : MemTy} {a b h : Reg} {off : Option Word}

/-- The lanes for which ST.F stores. -/
def storeLanes (c : Site) (g : Guard) (a b h : Reg) : List Nat := c.accessLanes g (!a.isVec && !b.isVec && !h.isVec)
/-- The folio handle of a lane. -/
def storeHandle (c : Site) (h : Reg) (l : Nat) : Nat := (c.view.reg32 l h).toNat

/-- One store of ST.F joins its folio; one whose home is out of reach raises error 7 instead (R470). -/
def joinFolio (c : Site) (ty : MemTy) (a b h : Reg) (xs : List (Req × Leaf)) (u : State) (x : Req × Leaf) : State :=
  if u.unreach (x.2.phys x.1.va) then u.asyncError c.sh.ctx 7 x.1.va 0
  else
    let pa := x.2.phys x.1.va
    let covered (k : Nat) : Bool := xs.any fun y => decide (x.1.lane < y.1.lane) && decide (y.2.phys y.1.va ≤ pa + k) && decide (pa + k < y.2.phys y.1.va + ty.size)
    let j : FolioStore := { va := x.1.va, pa := pa, key := x.2.key, home := u.homeOf c.sh.ctx x.1.va x.2
                            clk := c.clockAt (!a.isVec && !b.isVec && !h.isVec) x.1.lane
                            bytes := (c.view.storeBytes x.1.lane ty b).zipIdx.map fun p => if covered p.2 then none else some p.1, tag := c.sh.ivl.tag }
    (u.beforeWrite c.sh.ctx x.1.va).modCtx c.sh.ctx fun q =>
      { q with folios := tabMod (storeHandle c h x.1.lane % 256) (fun f => { f with joins := f.joins ++ [j] }) q.folios }

theorem exec_stF_of_closed (hr : Reaches (.stF g ty a off b h) s t c) (hctx : tabGet c.sh.ctx t.ctxs = some ctx) {l : Nat}
    (hl : (storeLanes c g a b h).find? (fun l => (ctx.openFolio (storeHandle c h l)).isNone) = some l) :
    Raises (.stF g ty a off b h) s t c { cause := 1, check := 2, lane := some l } := by
  unfold storeLanes storeHandle at hl
  rw [Raises, exec_stF, execStF, enterMem_of hr]
  simp only [hctx, hl]

/-- ST.F that passes its checks: each store joins. -/
theorem exec_stF_of (hr : Reaches (.stF g ty a off b h) s t c) (hctx : tabGet c.sh.ctx t.ctxs = some ctx)
    (hopen : (storeLanes c g a b h).find? (fun l => (ctx.openFolio (storeHandle c h l)).isNone) = none) {xs : List (Req × Leaf)} {t1 : State}
    (hxs : t.checkAccess c.issuer ((storeLanes c g a b h).map fun l => { lane := l, va := c.view.globalAt l a off, size := ty.size, kind := .write })
      = .ok (xs, t1)) (hcheck : t.folioCheck c.sh.ctx ctx (xs.map fun x => (x.1.lane, x.2.phys x.1.va, storeHandle c h x.1.lane)) = none) :
    Does (.stF g ty a off b h) s ((xs.foldl (joinFolio c ty a b h xs) t1).noAudit c.sid) c := by
  unfold storeLanes storeHandle at hopen
  unfold storeLanes at hxs
  unfold storeHandle at hcheck
  rw [Does, exec_stF, execStF, enterMem_of hr]
  simp only [hctx, hopen, hxs, orTrap_ok, hcheck, List.any_filter, ← Bool.and_assoc] <;> rfl

/-- With no page replicated, a store that joins changes no byte. -/
theorem joinFolio_mem {u : State} (xs : List (Req × Leaf)) (x : Req × Leaf) (hu : u.replicas = []) :
    (joinFolio c ty a b h xs u x).mem = u.mem ∧ (joinFolio c ty a b h xs u x).replicas = [] := by
  unfold joinFolio
  split
  · have he := u.asyncError_sameHomes c.sh.ctx 7 x.1.va 0
    exact ⟨he.mem, he.replicas.trans hu⟩
  · dsimp only
    rw [State.beforeWrite_of_no_replica hu]
    exact ⟨rfl, hu⟩

theorem foldl_joinFolio_mem {u : State} (xs ys : List (Req × Leaf)) (hu : u.replicas = []) :
    (ys.foldl (joinFolio c ty a b h xs) u).mem = u.mem :=
  (List.foldlRecOn (motive := fun v : State => v.mem = u.mem ∧ v.replicas = []) ys _ ⟨rfl, hu⟩ fun _ hv x _ =>
    have hjoin := joinFolio_mem xs x hv.2
    ⟨hjoin.1.trans hv.1, hjoin.2⟩).1

end

theorem exec_folioClose_of {s : State} {cx slot : Nat} {ctx : Context} (hctx : tabGet cx s.ctxs = some ctx) (hst : (ctx.folio slot).st = .closing) :
    exec (.folioClose cx slot) s = .next (s.closeFolio cx slot).reap := by
  rw [exec_folioClose, execFolioClose, hctx]
  dsimp only
  rw [hst]
  rfl

/-- Settles O37: FOPEN, ST.F and FCLOSE by their conditions, and the close atom by atom. -/
theorem folios : Obligations.Folios := by
  unfold Obligations.Folios
  refine ⟨?_, ?_, ?_, fun s cx slot ctx => exec_folioClose_of, ?_⟩
  -- FOPEN.
  · intro s t c g d a ctx i n hacts hctx
    refine ⟨fun hbad => (exec_fopen_of hacts hctx).trans (if_pos (by simpa using hbad)), fun hlo hhi => ?_⟩
    have hexec := (exec_fopen_of hacts hctx).trans (if_neg (by simpa using ⟨Nat.ne_of_gt hlo, hhi⟩))
    refine ⟨fun slot hslot => ?_, fun k hslot => ?_⟩
    · rw [hslot] at hexec
      exact hexec
    · rw [hslot] at hexec
      exact hexec
  -- ST.F.
  · intro s t t1 c g ty a b h off ctx xs i once ls handle hr hctx
    refine ⟨fun hclosed => ?_, fun hopen hxs hcheck => ?_⟩
    · obtain ⟨l, hl, hnone⟩ := hclosed
      obtain ⟨m, hm⟩ := Option.isSome_iff_exists.1
        ((List.find?_isSome (p := fun l => (ctx.openFolio (storeHandle c h l)).isNone)).2 ⟨l, hl, Option.isNone_iff_eq_none.2 hnone⟩)
      exact ⟨m, List.mem_of_find?_eq_some hm, exec_stF_of_closed hr hctx hm⟩
    · intro join u
      refine ⟨exec_stF_of hr hctx (List.find?_eq_none.2 fun l hl => ?_) hxs hcheck, fun hrep => ?_⟩
      · obtain ⟨f, hf⟩ := hopen l hl
        exact ne_true_of_eq_false (Option.isNone_eq_false_iff.2 (Option.isSome_iff_exists.2 ⟨f, hf⟩))
      · exact (foldl_joinFolio_mem xs xs hrep).trans (State.checkAccess_mem _ _ _ _ hxs)
  -- FCLOSE.
  · intro s t c g a ctx i handle hacts hctx
    exact ⟨exec_fclose_of_none hacts hctx, fun f hf => exec_fclose_of hacts hctx hf⟩
  -- The close.
  · intro s cx slot ctx f hctx hf hr hjoins u t has
    have hat (j : FolioStore) (x : Nat) (b : Byte) : has j x b ↔ j.at x = some b := FolioStore.at_eq_some_iff.symm
    have hu : u = s.closeFolio cx slot := rfl
    refine ⟨fun hend => ?_, fun ht => ?_⟩
    · rw [hu, State.closeFolio_of_no_replica hctx hf hr, if_neg (show ¬f.closeTime s < timeEnd from not_lt.2 hend)]
    · obtain ⟨hclosed, hshut⟩ := State.closeFolio_closedTo hctx hf hr (fun j hj => ⟨(hjoins j hj).1, (hjoins j hj).2.2⟩) ht
      refine ⟨fun x hno => ?_, fun x pre j post b hsplit hj hpre hpost => ?_, fun j hj => ?_, (f.lt_closeTime s).1, hshut⟩
      · -- No store has a byte for it.
        have hnone : f.result x (s.byte x) = s.byte x := by
          rw [Folio.result, foldl_over_of_none fun j hj => Option.eq_none_iff_forall_ne_some.2 fun b hb => hno j hj b ((hat j x b).2 hb)]
          rfl
        rw [hu, hclosed.byte, hnone, ite_self]
      · have hmem : j ∈ f.joins := by rw [hsplit]; simp
        have hin : x / 32 ∈ f.atoms := Folio.mem_atoms.2 ⟨j, hmem, FolioStore.atom_of_at (hjoins j hmem).2.1 ((hat j x b).1 hj)⟩
        rw [hu, hclosed.byte, if_pos hin, Folio.result, hsplit,
          foldl_over_of_latest ((hat j x b).1 hj) (fun k hk y hy => hpre k hk y ((hat k x y).2 hy)) fun k hk y hy => hpost k hk y ((hat k x y).2 hy)]
        rfl
      · exact ⟨hclosed.written _ (Folio.mem_atoms.2 ⟨j, hj, rfl⟩), (f.lt_closeTime s).2 j hj⟩

end Sys2Proof.Machine
end

section
/-! Fences (R135, R297, R298). -/

namespace Sys2Proof.Machine

section
variable {s t : State} {c : Site} {g : Guard}

/-- The greatest clock of a gang's lanes that have not exited (R135). -/
def State.gangTime (s : State) (sid n : Nat) : Nat :=
  maxOf ((((tabGet sid s.sheets).bind fun h => tabGet n h.gangs).map Gang.liveClocks).getD [])

/-- The greatest clock of a sheet's lanes that have not exited, and of its sequencers (R135). -/
def Sheet.fenceTime (h : Sheet) : Nat := max (maxOf (h.gangs.flatMap fun p => p.2.liveClocks)) (max h.mseq.clock h.cseq.clock)

theorem exec_fenceG_of (h : Reaches (.fenceG g) s t c) :
    let u := t.drainLanes c.sid c.gang (lanesBelow c.sh.W)
    Does (.fenceG g) s (u.modGang c.sid c.gang fun q => q.raiseClock (c.view.active g) (u.gangTime c.sid c.gang)) c := by
  rw [Does, exec_fenceG, execFenceG, enterMem_of h]
  rfl

theorem exec_fenceS_of (h : Reaches (.fenceS g) s t c) {sh : Sheet} (hsh : tabGet c.sid (t.drainSheet c.sid).sheets = some sh) :
    Does (.fenceS g) s ((t.drainSheet c.sid).modGang c.sid c.gang fun q => q.raiseClock (c.view.active g) sh.fenceTime) c := by
  rw [Does, exec_fenceS, execFenceS, enterMem_of h]
  simp only [hsh, Option.getD_some]
  rfl

theorem exec_fenceC_of {k : Fin 8} {d : Reg} (h : Reaches (.fenceC g k d) s t c) :
    let x := (tabGet k.val c.sh.counters).getD {}
    let ls := c.accessLanes g (!d.isVec)
    Does (.fenceC g k d) s ((if ls = [] then t else t.giveTimes c (!d.isVec) ls x.cmax).putRegs c (c.view.put32 g d fun _ => x.count)) c := by
  rw [Does, exec_fenceC, execFenceC, enterMem_of h]
  simp only [List.isEmpty_iff]

/-- Clocks are raised, and never fall. -/
theorem Gang.clock_raiseClock {q : Gang} {l : Nat} {x : Thread} (hx : tabGet l q.threads = some x) (ls : List Nat) (m : Nat) :
    (tabGet l (q.raiseClock ls m).threads).map Thread.clock = some (if l ∈ ls then max x.clock m else x.clock) := by
  rw [Gang.raiseClock, Gang.tabGet_modThreads fun _ t => by simp, hx]
  split <;> rfl

end

/-- Settles O38: each fence by what it does once its accesses are reached. -/
theorem fences : Obligations.Fences := by
  unfold Obligations.Fences
  intro s t c g
  refine ⟨exec_fenceG_of, fun h sh hsh => exec_fenceS_of h hsh, fun k d h => ⟨_, ?_, View.put32_writes ..⟩, fun q ls m l x hx => Gang.clock_raiseClock hx ls m⟩
  have hlanes : c.accessLanes g (!d.isVec) = if d.isVec then c.view.active g else if c.view.acts g then [c.view.lead] else [] := by
    cases d.isVec <;> rfl
  rw [← hlanes]
  exact exec_fenceC_of h

end Sys2Proof.Machine
end

section
/-! The view times of loads and the versions they read (R129, R131). -/

namespace Sys2Proof.Machine

/-! ### The version valid at a time -/

theorem Atom.priorAt_eq_some_iff {a : Atom} {v : Nat} {p : Prior} : a.priorAt v = some p ↔ a.prior = some p ∧ v < a.w ∧ v < p.ends := by
  unfold Atom.priorAt
  cases a.prior with
  | none => simp
  | some q => simp only [Option.ite_none_right_eq_some, Bool.and_eq_true, decide_eq_true_eq, Option.some.injEq]; grind

theorem Atom.priorAt_of_written {a : Atom} {v : Nat} (h : a.w ≤ v) : a.priorAt v = none := by
  cases hp : a.priorAt v with
  | none => rfl
  | some p => have := (Atom.priorAt_eq_some_iff.1 hp).2.1; omega

theorem State.versionAs_of_none {s : State} {v pa : Nat} (h : (s.atom pa).priorAt v = none) (key n : Nat) :
    s.versionAs key v pa n = s.bytesAs key pa n := by
  simp only [State.versionAs, h]

theorem State.versionAs_of_some {s : State} {v pa : Nat} {p : Prior} (h : (s.atom pa).priorAt v = some p) (key n : Nat) :
    s.versionAs key v pa n = ((s.rekeyed p.w p.key key pa p.bytes).drop (pa % 32)).take n := by
  simp only [State.versionAs, h]

/-! ### View times settle -/

/-- Every atom of the list has a version valid at the time. -/
def State.Settled (s : State) (pas : List Nat) (v : Nat) : Prop := ∀ pa ∈ pas, (s.atom pa).w ≤ v ∨ ((s.atom pa).priorAt v).isSome

/-- The atoms of the list whose current version is later than the time. -/
def State.later (s : State) (pas : List Nat) (v : Nat) : Finset Nat := {pa ∈ pas.toFinset | v < (s.atom pa).w}

section
variable {s : State} {pas : List Nat} {v : Nat}

/-- A time raised over one atom. -/
def State.raisedOver (s : State) (v pa : Nat) : Nat := if ((s.atom pa).priorAt v).isSome then v else max v (s.atom pa).w

theorem State.raiseView_cons (s : State) (v pa : Nat) (pas : List Nat) : s.raiseView v (pa :: pas) = s.raiseView (s.raisedOver v pa) pas := rfl

/-- An atom that has a version valid at the time leaves it; over any other the time becomes the write time. -/
theorem State.raisedOver_cases (s : State) (v pa : Nat) :
    (s.raisedOver v pa = v ∧ ((s.atom pa).w ≤ v ∨ ((s.atom pa).priorAt v).isSome)) ∨ (v < (s.atom pa).w ∧ s.raisedOver v pa = (s.atom pa).w) := by
  rw [State.raisedOver]
  split
  · next h => exact .inl ⟨rfl, .inr h⟩
  · rcases le_or_gt (s.atom pa).w v with h | h
    · exact .inl ⟨max_eq_left h, .inl h⟩
    · exact .inr ⟨h, max_eq_right h.le⟩

/-- A time that no atom raises is settled. -/
theorem State.settled_of_raiseView (h : s.raiseView v pas = v) : s.Settled pas v := by
  induction pas with
  | nil => exact fun _ hpa => absurd hpa List.not_mem_nil
  | cons pa pas ih =>
    rw [State.raiseView_cons] at h
    have hle := s.le_raiseView (s.raisedOver v pa) pas
    obtain ⟨hstay, hvalid⟩ | ⟨hlate, hraised⟩ := s.raisedOver_cases v pa
    · exact List.forall_mem_cons.2 ⟨hvalid, ih (by rwa [hstay] at h)⟩
    · omega

/-- A time that is raised passes the write time of one of the atoms. -/
theorem State.passes_of_raiseView (h : s.raiseView v pas ≠ v) : ∃ pa ∈ pas, v < (s.atom pa).w ∧ (s.atom pa).w ≤ s.raiseView v pas := by
  induction pas with
  | nil => exact absurd rfl h
  | cons pa pas ih =>
    rw [State.raiseView_cons] at h ⊢
    obtain ⟨hstay, -⟩ | ⟨hlate, hraised⟩ := s.raisedOver_cases v pa
    · rw [hstay] at h ⊢
      obtain ⟨b, hb, hpassed⟩ := ih h
      exact ⟨b, List.mem_cons_of_mem _ hb, hpassed⟩
    · exact ⟨pa, List.mem_cons_self, hlate, hraised ▸ s.le_raiseView ..⟩

theorem State.settleView_of_raiseView (h : s.raiseView v pas = v) (n : Nat) : s.settleView pas n v = v := by
  induction n with
  | zero => rfl
  | succ n ih => rw [State.settleView, h, ih]

theorem State.later_raiseView_lt (h : s.raiseView v pas ≠ v) : (s.later pas (s.raiseView v pas)).card < (s.later pas v).card := by
  obtain ⟨pa, hpa, hlate, hpassed⟩ := State.passes_of_raiseView h
  have hle := s.le_raiseView v pas
  refine Finset.card_lt_card ((Finset.ssubset_iff_of_subset fun b hb => ?_).2 ⟨pa, ?_, ?_⟩)
  · simp only [State.later, Finset.mem_filter] at hb ⊢
    exact ⟨hb.1, by omega⟩
  · simpa [State.later] using ⟨hpa, hlate⟩
  · simpa [State.later] using fun _ => hpassed

/-- Each pass that raises the time passes one more atom's write time, so as many passes as there are later atoms settle it. -/
theorem State.settled_settleView {n : Nat} (h : (s.later pas v).card ≤ n) : s.Settled pas (s.settleView pas n v) := by
  induction n generalizing v with
  | zero =>
    intro pa hpa
    have hnone : pa ∉ s.later pas v := by rw [Finset.card_eq_zero.1 (Nat.le_zero.1 h)]; exact Finset.notMem_empty pa
    exact .inl (by simpa [State.later, State.settleView, hpa] using hnone)
  | succ n ih =>
    by_cases hfix : s.raiseView v pas = v
    · rw [State.settleView_of_raiseView hfix]
      exact State.settled_of_raiseView hfix
    · exact ih (by have := State.later_raiseView_lt hfix; omega)

theorem State.settled_viewFrom (s : State) (floor : Nat → Nat) (c : Nat) (pas : List Nat) : s.Settled pas (s.viewFrom floor c pas) :=
  State.settled_settleView ((Finset.card_filter_le ..).trans pas.toFinset_card_le)

/-- A view time is not below the floor of any atom it is for. -/
theorem State.floor_le_viewFrom (s : State) (floor : Nat → Nat) (c : Nat) {pa : Nat} (hpa : pa ∈ pas) : floor pa ≤ s.viewFrom floor c pas := by
  refine le_trans ?_ (s.le_settleView pas _ _)
  have hmax := (maxOf_le_iff (pas.map floor) _).1 le_rfl _ (List.mem_map_of_mem hpa)
  split <;> omega

/-- At a time not below a load's floor, a retained version that is still valid had been written. -/
theorem State.prior_written_of_loadFloor {k pa : Nat} {p : Prior} (hfloor : s.loadFloor k pa ≤ v) (hp : (s.atom pa).priorAt v = some p) : p.w ≤ v := by
  obtain ⟨hprior, hlate, -⟩ := Atom.priorAt_eq_some_iff.1 hp
  rw [State.loadFloor] at hfloor
  split at hfloor
  · simp only [State.viewFloor, hprior] at hfloor
    split at hfloor <;> omega
  · rw [hprior, Option.map_some, Option.getD_some] at hfloor
    omega

end

end Sys2Proof.Machine
end

section
/-! What one write leaves of its atom and of memory (R105, R129, R419). -/

namespace Sys2Proof.Machine

/-! ### Bytes read and written -/

theorem getElem?_stGetList {β : Type} (d : β) (l : Store β) (n k i : Nat) : (stGetList d k n l)[i]? = if i < n then some (stGet d (k + i) l) else none := by
  induction n generalizing k i with
  | zero => rfl
  | succ n ih =>
    cases i with
    | zero => simp [stGetList]
    | succ i => simp [stGetList, ih, Nat.add_assoc, Nat.add_comm 1 i]

/-- Bytes that were written are read back. -/
theorem stGetList_putBytes_same (pa : Nat) (bs : List Byte) (m : Store Byte) :
    stGetList restingByte pa bs.length (putBytes pa (bs.map some) m) = bs := by
  refine List.ext_getElem? fun i => ?_
  rw [getElem?_stGetList, stGet_putBytes, if_pos (Nat.le_add_right ..), Nat.add_sub_cancel_left, List.getElem?_map]
  split
  · next hi => simp [List.getElem?_eq_getElem hi]
  · next hi => simp [List.getElem?_eq_none (not_lt.1 hi)]

/-- A byte outside the span of a write reads as before. -/
theorem stGet_putBytes_outside {pa a : Nat} {bs : List (Option Byte)} (h : ¬(pa ≤ a ∧ a < pa + bs.length)) (m : Store Byte) :
    stGet restingByte a (putBytes pa bs m) = stGet restingByte a m := by
  rw [stGet_putBytes]
  split
  · next hle => rw [List.getElem?_eq_none (by omega)]; rfl
  · rfl

theorem length_toBytesLE (n x : Nat) : (toBytesLE n x).length = n := by
  induction n generalizing x with
  | zero => rfl
  | succ n ih => rw [toBytesLE, List.length_cons, ih]

/-! ### An atom under a key (R419) -/

/-- The bytes of an atom that are written anew, so that it is stored under the key of the page: none where it is already, else all. -/
def State.rebase (s : State) (key pa : Nat) : List (Option Byte) :=
  if (s.atom pa).key = key then []
  else (s.rekeyed (s.atom pa).w (s.atom pa).key key pa (s.bytes (pa / 32 * 32) 32)).map some

theorem State.rebase_of_key {s : State} {key pa : Nat} (h : (s.atom pa).key = key) : s.rebase key pa = [] := if_pos h

theorem State.rekeyed_congr {s u : State} (h : u.keys = s.keys) (w stored key pa : Nat) (bs : List Byte) :
    u.rekeyed w stored key pa bs = s.rekeyed w stored key pa bs := by
  unfold State.rekeyed State.slotKey
  rw [h]

theorem State.length_rekeyed (s : State) (w stored key pa : Nat) {bs : List Byte} (h : bs.length = 32) : (s.rekeyed w stored key pa bs).length = 32 := by
  unfold State.rekeyed
  split <;> simp [h]

theorem State.length_rebase_le (s : State) (key pa : Nat) : (s.rebase key pa).length ≤ 32 := by
  unfold State.rebase
  split
  · exact Nat.zero_le _
  · exact (List.length_map ..).trans (s.length_rekeyed _ _ _ _ (stGetList_length ..)) |>.le

theorem State.bytesAs_of_key {s : State} {key pa n : Nat} (hkey : (s.atom pa).key = key) (hn : pa % 32 + n ≤ 32) :
    s.bytesAs key pa n = s.bytes pa n := by
  have hsame : s.rekeyed (s.atom pa).w (s.atom pa).key key pa (s.bytes (pa / 32 * 32) 32) = s.bytes (pa / 32 * 32) 32 := by
    simp [State.rekeyed, hkey]
  have hpa : pa / 32 * 32 + pa % 32 = pa := by omega
  rw [State.bytesAs, hsame]
  simp only [State.bytes]
  refine List.ext_getElem? fun i => ?_
  rw [List.getElem?_take, List.getElem?_drop, getElem?_stGetList, getElem?_stGetList, ← Nat.add_assoc, hpa]
  by_cases hi : i < n
  · simp [hi, show pa % 32 + i < 32 by omega]
  · simp [hi]

/-- What a byte reads as under a key is what it is once its atom is stored under it. -/
theorem State.bytesAs_one (s : State) (key pa : Nat) :
    s.bytesAs key pa 1 = [stGet restingByte pa (putBytes (pa / 32 * 32) (s.rebase key pa) s.mem)] := by
  by_cases hkey : (s.atom pa).key = key
  · rw [State.bytesAs_of_key hkey (by omega), State.rebase_of_key hkey]
    rfl
  · have hlen := s.length_rekeyed (s.atom pa).w (s.atom pa).key key pa (bs := s.bytes (pa / 32 * 32) 32) (stGetList_length ..)
    rw [State.bytesAs, State.rebase, if_neg hkey, stGet_putBytes, if_pos (Nat.div_mul_le_self ..), List.getElem?_map]
    generalize s.rekeyed (s.atom pa).w (s.atom pa).key key pa (s.bytes (pa / 32 * 32) 32) = l at hlen
    have hlt : pa % 32 < l.length := by omega
    rw [show pa - pa / 32 * 32 = pa % 32 by omega, List.getElem?_eq_getElem hlt, List.drop_eq_getElem_cons hlt]
    rfl

/-! ### One write at its home (R105, R129) -/

theorem State.observe_keys (s : State) (tag who cx : Option Nat) : (s.observe tag who cx).keys = s.keys := by
  unfold State.observe
  split <;> rfl

/-- The memory after a write of an atom: the atom stored under the page's key, and the enabled bytes over it. -/
def State.written (s : State) (key pa : Nat) (bs : List (Option Byte)) : Store Byte :=
  putBytes pa bs (putBytes (pa / 32 * 32) (s.rebase key pa) s.mem)

/-- A write outside a dry replay leaves the homes with the bytes written and the atom at the time, under the writer's key. -/
theorem State.perform_sameHomes {s : State} {w : Writer} (hdry : s.dryReplay w.sheet = false) (t pa : Nat) (bs : List (Option Byte)) (fo : Option Nat) :
    ∃ a : Atom, ({ s with mem := s.written w.key pa bs }.putAtom pa a).SameHomes (s.perform w t pa bs fo) ∧ a.w = t ∧ a.e = t ∧ a.key = w.key := by
  have hobs := s.observe_sameHomes (s.atom pa).itag w.sheet (some w.ctx)
  have hrekeyed (b : List Byte) : (s.observe (s.atom pa).itag w.sheet (some w.ctx)).rekeyed (s.atom pa).w (s.atom pa).key w.key pa b
      = s.rekeyed (s.atom pa).w (s.atom pa).key w.key pa b := State.rekeyed_congr (s.observe_keys ..) ..
  have hput (a : Atom) : ({ s with mem := s.written w.key pa bs }.putAtom pa a).SameHomes
      ({ s.observe (s.atom pa).itag w.sheet (some w.ctx) with mem := s.written w.key pa bs }.putAtom pa a) :=
    ⟨rfl, by simp only [State.putAtom, hobs.atoms], hobs.unreachable, hobs.replicas, hobs.ctxs⟩
  have hmem : putBytes pa bs (putBytes (pa / 32 * 32) (if (s.atom pa).key = w.key then []
      else (s.rekeyed (s.atom pa).w (s.atom pa).key w.key pa (s.bytes (pa / 32 * 32) 32)).map some) (s.observe (s.atom pa).itag w.sheet (some w.ctx)).mem)
      = s.written w.key pa bs := by
    rw [hobs.mem]
    rfl
  -- What follows the write of the atom changes no home.
  have hrest {x y : State} (h : x.SameHomes y) (merged : Prop) [Decidable merged] :
      x.SameHomes ((if merged then y.asyncError w.ctx 6 (pa / 32 * 32) 0 else y).testWatches pa t) :=
    (h.trans (State.SameHomes.ite (State.asyncError_sameHomes ..) (.refl _))).trans (State.testWatches_sameHomes ..)
  simp only [State.perform, hdry, Bool.false_eq_true, if_false, hrekeyed, hmem]
  obtain ⟨_ | k, ctx, key, home, reads⟩ := w
  · refine ⟨_, hrest (hput _) _, ?_⟩
    exact ⟨rfl, rfl, rfl⟩
  · refine ⟨_, hrest ((hput _).trans (State.sameHomes_modSheet ..)) _, ?_⟩
    exact ⟨rfl, rfl, rfl⟩

/-- What a write leaves at the homes: its bytes over the atom under the page's key, the atom at its time, and every other atom. -/
theorem State.perform_leaves {s : State} {w : Writer} (hdry : s.dryReplay w.sheet = false) (t pa : Nat) (bs : List (Option Byte)) (fo : Option Nat) :
    (∀ a, a / 32 = pa / 32 → ((s.perform w t pa bs fo).atom a).w = t ∧ ((s.perform w t pa bs fo).atom a).e = t ∧ ((s.perform w t pa bs fo).atom a).key = w.key)
    ∧ (∀ a, a / 32 ≠ pa / 32 → (s.perform w t pa bs fo).atom a = s.atom a)
    ∧ (s.perform w t pa bs fo).mem = s.written w.key pa bs := by
  obtain ⟨x, hsame, hw, he, hkey⟩ := State.perform_sameHomes hdry t pa bs fo
  have hatom (a : Nat) : (s.perform w t pa bs fo).atom a = if a / 32 = pa / 32 then x else s.atom a := by
    rw [hsame.atom, State.atom_putAtom]
    rfl
  refine ⟨fun a ha => ?_, fun a ha => ?_, hsame.mem⟩
  · rw [hatom, if_pos ha]
    exact ⟨hw, he, hkey⟩
  · rw [hatom, if_neg ha]

/-- A byte outside the atom of a write that lies within it is as before. -/
theorem State.stGet_written_outside {s : State} {pa a : Nat} {bs : List (Option Byte)} (hbs : pa % 32 + bs.length ≤ 32) (ha : a / 32 ≠ pa / 32) (key : Nat) :
    stGet restingByte a (s.written key pa bs) = s.byte a := by
  have hlen := s.length_rebase_le key pa
  rw [State.written, stGet_putBytes_outside (by omega), stGet_putBytes_outside (by omega)]
  rfl

/-- A byte of the atom: the enabled byte written there, else what the page's key reads. -/
theorem State.bytesAs_perform {s : State} {w : Writer} (hdry : s.dryReplay w.sheet = false) (t : Nat) {pa a : Nat} (bs : List (Option Byte)) (fo : Option Nat)
    (ha : a / 32 = pa / 32) : (s.perform w t pa bs fo).bytesAs w.key a 1 =
      [((if pa ≤ a then bs[a - pa]? else none).join).getD (stGet restingByte a (putBytes (a / 32 * 32) (s.rebase w.key a) s.mem))] := by
  obtain ⟨hatom, -, hmem⟩ := State.perform_leaves hdry t pa bs fo
  have hrebase : s.rebase w.key pa = s.rebase w.key a := by
    simp only [State.rebase, State.rekeyed, s.atom_congr ha, ha]
  obtain ⟨-, -, hkey⟩ := hatom a ha
  rw [State.bytesAs_of_key hkey (by omega)]
  simp only [State.bytes, stGetList, hmem, State.written, stGet_putBytes pa bs, hrebase, ha]
  split <;> rfl

/-- Settles O30: view times settle because each pass that raises them passes one more write time; a write by what it leaves of its atom. -/
theorem placementTimes : Obligations.PlacementTimes := by
  unfold Obligations.PlacementTimes
  refine ⟨fun s k c pas => ?_, fun s c pa => ⟨le_max_left .., ?_⟩, fun s key pa n => State.bytesAs_of_key, ?_⟩
  · refine ⟨s.le_viewFrom .., fun pa hpa => ?_⟩
    have hfloor := s.floor_le_viewFrom (s.loadFloor k) c hpa
    cases hprior : (s.atom pa).priorAt (s.viewFrom (s.loadFloor k) c pas) with
    | none =>
      have hwritten : (s.atom pa).w ≤ _ := (s.settled_viewFrom (s.loadFloor k) c pas pa hpa).resolve_right (by simp [hprior])
      exact .inl ⟨hwritten, State.versionAs_of_none hprior⟩
    | some p =>
      obtain ⟨hp, hlate, hends⟩ := Atom.priorAt_eq_some_iff.1 hprior
      exact .inr ⟨p, hp, State.prior_written_of_loadFloor hfloor hprior, hends, hlate, State.versionAs_of_some hprior⟩
  · exact Nat.lt_of_succ_le (le_max_right ..)
  · intro s w t pa bs f hdry hbs u
    obtain ⟨hatom, hother, hmem⟩ := State.perform_leaves hdry t pa bs f
    obtain ⟨hw, he, hkey⟩ := hatom pa rfl
    refine ⟨fun a ha => ?_, hw, he, hkey, fun a ha => ⟨?_, hother a ha⟩⟩
    · rw [State.bytesAs_perform hdry t bs f ha, s.bytesAs_one]
      generalize (if pa ≤ a then bs[a - pa]? else none) = byte
      match byte with
      | none => rfl
      | some none => rfl
      | some (some b) => rfl
    · rw [State.byte, hmem]
      exact State.stGet_written_outside hbs ha _

end Sys2Proof.Machine
end

section
/-! Writes at their homes: what the pending writes, memory and the atom written are after one (R129, R130, R284, R293 to R295). -/

namespace Sys2Proof.Machine

/-! ### Operations at a home leave the pending writes as they are -/

theorem foldl_writes {α : Type} (f : State → α → State) (h : ∀ s a, (f s a).writes = s.writes) (l : List α) (s : State) :
    (l.foldl f s).writes = s.writes :=
  List.foldlRecOn (motive := fun u : State => u.writes = s.writes) l f rfl fun u hu a _ => (h u a).trans hu

@[simp] theorem State.notice_writes (s : State) (kind cx code origin addr : Nat) : (s.notice kind cx code origin addr).writes = s.writes := by
  unfold State.notice
  rfl

@[simp] theorem State.asyncError_writes (s : State) (cx code addr detail : Nat) : (s.asyncError cx code addr detail).writes = s.writes := by
  simp only [State.asyncError]
  split
  · rw [State.modCtx_writes]
    split <;> rfl
  · exact s.notice_writes ..

@[simp] theorem State.observe_writes (s : State) (tag who cx : Option Nat) : (s.observe tag who cx).writes = s.writes := by
  unfold State.observe
  split <;> rfl

@[simp] theorem State.exhaust_writes (s : State) (cx : Nat) : (s.exhaust cx).writes = s.writes := by
  simp [State.exhaust]

@[simp] theorem State.markRead_writes (s : State) (who : Option Nat) (v pa : Nat) (cx : Option Nat) : (s.markRead who v pa cx).writes = s.writes := by
  simp only [State.markRead]
  split <;> simp

@[simp] theorem State.tryEligible_writes (s : State) (k : Nat) : (s.tryEligible k).writes = s.writes := by
  unfold State.tryEligible
  split
  · rfl
  · split <;> rfl

@[simp] theorem State.testWatches_writes (s : State) (pa t : Nat) : (s.testWatches pa t).writes = s.writes :=
  foldl_writes _ (fun _ _ => by simp) _ _

@[simp] theorem State.perform_writes (s : State) (w : Writer) (t pa : Nat) (bs : List (Option Byte)) (fo : Option Nat) :
    (s.perform w t pa bs fo).writes = s.writes := by
  rw [State.perform]
  split
  · rfl
  · cases w.sheet <;> simp [apply_ite State.writes]

/-- A write that is placed is performed at its time. -/
theorem State.placeWrite_eq_some {s : State} {w : Writer} {c pa : Nat} {bs : List (Option Byte)} {x : State × Nat} (h : s.placeWrite w c pa bs = some x) :
    x.1 = s.perform w (s.writeTime c pa) pa bs none := by
  simp only [State.placeWrite, Option.ite_none_right_eq_some, Option.some.injEq] at h
  rw [← h.2]

theorem State.writeBack_writes (s : State) (k cx c key : Nat) (home : Option Nat) (pa n : Nat) : (s.writeBack k cx c key home pa n).writes = s.writes := by
  refine foldl_writes _ (fun u tag => ?_) _ _
  rw [State.modCluster_writes]
  cases h : u.placeWrite _ _ _ _ with
  | none => exact u.exhaust_writes cx
  | some x => exact (congrArg State.writes (State.placeWrite_eq_some h)).trans (u.perform_writes ..)

theorem State.sweepPage_writes (s : State) (cx c page : Nat) (l : Leaf) : (s.sweepPage cx c page l).writes = s.writes := by
  refine foldl_writes _ (fun u k => ?_) _ _
  simp only [State.modCluster_writes]
  refine foldl_writes _ (fun u a => ?_) _ _
  split
  · exact u.asyncError_writes ..
  · exact u.writeBack_writes ..

@[simp] theorem State.beforeWrite_writes (s : State) (cx va : Nat) : (s.beforeWrite cx va).writes = s.writes := by
  rw [State.beforeWrite, State.convert]
  split
  · simp only [State.discard, State.modCtx_writes]
    split
    · rfl
    · split
      · rw [State.sweepPage_writes]
        split
        · exact s.perform_writes ..
        · rfl
      · split
        · exact s.perform_writes ..
        · rfl
  · rfl

/-! ### One lane's part -/

/-- The lanes whose clocks take the time of a part (R280). -/
def PendWrite.takers (w : PendWrite) (p : LaneWrite) : List Nat := if w.once then lanesOf w.lanes 64 else [p.lane]

/-- The clock a part is performed at. -/
def State.partClock (s : State) (w : PendWrite) (p : LaneWrite) : Nat :=
  (((tabGet w.sheet s.sheets).bind fun h => tabGet w.gang h.gangs).map (·.clockOf (w.takers p))).getD 0

/-- Who performs a part: its sheet while the interval it was issued in is the present one, or in a replay that writes nothing, and else no
sheet (R428, R437). -/
def State.partWriter (s : State) (w : PendWrite) (p : LaneWrite) : Writer :=
  { sheet := if s.dryReplay (some w.sheet) || ((tabGet w.sheet s.sheets).map (·.ivl.tag)) = some w.tag then some w.sheet else none
    ctx := w.ctx, key := p.key, home := p.home, reads := p.op.computes }

/-- What the issuing gang receives: the time, and an atomic's result. -/
def State.partGiven (s : State) (w : PendWrite) (p : LaneWrite) (old t : Nat) (q : Gang) : Gang :=
  match w.dst with
  | none => q.raiseClock (w.takers p) t
  | some d => { q.raiseClock (w.takers p) t with
      regs := (q.raiseClock (w.takers p) t).regs.deliver w.wide d (w.takers p) (p.op.result old) }.expand (((tabGet w.sheet s.sheets).map Sheet.W).getD 0)

/-- A part performed at its home, once the replicated page it writes to is converted. -/
def State.performOp (s : State) (who : Writer) (old : Nat) (w : PendWrite) (p : LaneWrite) : State :=
  if s.repeated p then s
  else
    match (s.executed p).placeOp who (s.partClock w p) p with
    | none => s.exhaust w.ctx
    | some (u, t) => u.modGang w.sheet w.gang (s.partGiven w p old t)

/-- The value a part finds at its home. -/
def State.found (s : State) (p : LaneWrite) : Nat := ofBytesLE (s.bytesAs p.key p.pa p.op.size)

/-- What performing a part does: error 7 for a home out of reach (R470), the write-back of dirty bytes (R103), or the operation at the home. -/
theorem State.performPart_cases (s : State) (w : PendWrite) (p : LaneWrite) :
    (s.unreach p.pa = true ∧ s.performPart w p = s.asyncError w.ctx 7 p.va 0)
    ∨ (∃ k bs, w.dirtyOn = some k ∧ p.op = .store bs
        ∧ s.performPart w p = if s.dryReplay (some w.sheet) then s else (s.beforeWrite w.ctx p.va).writeBack k w.ctx 0 p.key p.home p.pa bs.length)
    ∨ s.performPart w p = (if (p.op.writes (s.found p)).isSome && !s.dryReplay (some w.sheet) then s.beforeWrite w.ctx p.va else s).performOp
        (s.partWriter w p) (s.found p) w p := by
  unfold State.performPart
  by_cases hout : (s.unreach p.pa && !s.dryReplay (some w.sheet)) = true
  · exact .inl ⟨(Bool.and_eq_true_iff.1 hout).1, if_pos hout⟩
  · simp only [if_neg hout]
    split
    · next k bs hd hop => exact .inr (.inl ⟨k, bs, hd, hop, rfl⟩)
    · exact .inr (.inr rfl)

theorem State.executed_eq (s : State) (p : LaneWrite) : ∃ r, s.executed p = { s with requests := r } := by
  unfold State.executed
  split
  · exact ⟨s.requests, rfl⟩
  · exact ⟨_, rfl⟩

section
variable {s : State} {who : Writer} {c : Nat} {p : LaneWrite}

/-- An operation that writes is a write at its home, while its time exists (R128, R129). -/
theorem State.placeOp_of_some {bs : List Byte} (h : p.op.writes (s.found p) = some bs) : s.placeOp who c p = s.placeWrite who c p.pa (bs.map some) := by
  rw [State.found] at h
  simp only [State.placeOp, h]

/-- A comparison that fails is a read of its atom (R295). -/
theorem State.placeOp_of_none (h : p.op.writes (s.found p) = none) : s.placeOp who c p =
    if s.writeTime c p.pa < timeEnd then some (s.markRead who.sheet (s.writeTime c p.pa) p.pa (some who.ctx), s.writeTime c p.pa) else none := by
  rw [State.found] at h
  simp only [State.placeOp, h]

/-- What an operation that is placed does at its home. -/
theorem State.placeOp_cases {x : State × Nat} (h : s.placeOp who c p = some x) :
    (∃ bs, p.op.writes (s.found p) = some bs ∧ x.1 = s.perform who (s.writeTime c p.pa) p.pa (bs.map some) none)
    ∨ (p.op.writes (s.found p) = none ∧ x.1 = s.markRead who.sheet (s.writeTime c p.pa) p.pa (some who.ctx)) := by
  cases hw : p.op.writes (s.found p) with
  | some bs => exact .inl ⟨bs, rfl, State.placeWrite_eq_some (State.placeOp_of_some hw ▸ h)⟩
  | none =>
    rw [State.placeOp_of_none hw] at h
    simp only [Option.ite_none_right_eq_some, Option.some.injEq] at h
    exact .inr ⟨rfl, by rw [← h.2]⟩

theorem State.placeOp_writes {x : State × Nat} (h : s.placeOp who c p = some x) : x.1.writes = s.writes := by
  obtain ⟨bs, -, hx⟩ | ⟨-, hx⟩ := State.placeOp_cases h
  · rw [hx, State.perform_writes]
  · rw [hx, State.markRead_writes]

theorem State.performOp_of_some {w : PendWrite} {u : State} {t : Nat} (hfresh : s.repeated p = false) (hclock : s.partClock w p = c)
    (h : (s.executed p).placeOp who c p = some (u, t)) (old : Nat) : ∃ f, s.performOp who old w p = u.modGang w.sheet w.gang f := by
  refine ⟨s.partGiven w p old t, ?_⟩
  simp only [State.performOp, hfresh, Bool.false_eq_true, if_false, hclock, h]

theorem State.performOp_writes (s : State) (who : Writer) (old : Nat) (w : PendWrite) (p : LaneWrite) : (s.performOp who old w p).writes = s.writes := by
  rw [State.performOp]
  split
  · rfl
  · obtain ⟨r, hr⟩ := s.executed_eq p
    split
    · exact s.exhaust_writes _
    · next u t h => exact (State.placeOp_writes h).trans (by rw [hr])

end

theorem State.performPart_writes (s : State) (w : PendWrite) (p : LaneWrite) : (s.performPart w p).writes = s.writes := by
  obtain ⟨-, h⟩ | ⟨k, bs, -, -, h⟩ | h := s.performPart_cases w p
  · rw [h, State.asyncError_writes]
  · rw [h]
    split
    · rfl
    · rw [State.writeBack_writes, State.beforeWrite_writes]
  · rw [h, State.performOp_writes]
    split
    · rw [State.beforeWrite_writes]
    · rfl

@[simp] theorem State.arrived_writes (s : State) (w : PendWrite) (id : Nat) : (s.arrived w id).writes = s.writes := by
  unfold State.arrived
  split <;> rfl

/-! ### Bytes that a write spares -/

/-- `u` has the byte at `a` as `s` has it, the keys of its atoms and the replicated pages. -/
structure State.Spares (a : Nat) (s u : State) : Prop where
  byte : u.byte a = s.byte a
  key : ∀ x, (u.atom x).key = (s.atom x).key
  replicas : u.replicas = s.replicas

section
variable {a : Nat} {s u v : State}

theorem State.Spares.refl (a : Nat) (s : State) : State.Spares a s s := ⟨rfl, fun _ => rfl, rfl⟩

theorem State.Spares.trans (h : State.Spares a s u) (g : State.Spares a u v) : State.Spares a s v :=
  ⟨g.byte.trans h.byte, fun x => (g.key x).trans (h.key x), g.replicas.trans h.replicas⟩

theorem State.SameHomes.spares (h : s.SameHomes u) (a : Nat) : State.Spares a s u :=
  ⟨h.byte a, fun x => by rw [h.atom], h.replicas⟩

theorem State.drew_sameHomes (s : State) : s.SameHomes s.drew := ⟨rfl, rfl, rfl, rfl, fun _ => rfl⟩

theorem State.exhaust_sameHomes (s : State) (cx : Nat) : s.SameHomes (s.exhaust cx) :=
  ((s.asyncError_sameHomes ..).trans (State.drew_sameHomes _)).trans (State.sameHomes_modCtx ..)

theorem State.arrived_sameHomes (s : State) (w : PendWrite) (id : Nat) : s.SameHomes (s.arrived w id) :=
  .ite (.refl s) (s.sameHomes_modSheet ..)

theorem State.executed_sameHomes (s : State) (p : LaneWrite) : s.SameHomes (s.executed p) := by
  obtain ⟨r, hr⟩ := s.executed_eq p
  rw [hr]
  exact ⟨rfl, rfl, rfl, rfl, fun _ => rfl⟩

theorem State.putAtom_spares {pa : Nat} {x : Atom} (hx : x.key = (s.atom pa).key) : State.Spares a s (s.putAtom pa x) := by
  refine ⟨rfl, fun y => ?_, rfl⟩
  rw [State.atom_putAtom]
  split
  · next hy => rw [hx, s.atom_congr hy]
  · rfl

theorem State.markRead_spares (s : State) (who : Option Nat) (t pa : Nat) (cx : Option Nat) : State.Spares a s (s.markRead who t pa cx) := by
  simp only [State.markRead]
  split
  · exact (State.putAtom_spares (x := { s.atom pa with e := max (s.atom pa).e t }) rfl).trans ((State.observe_sameHomes ..).spares a)
  · exact .refl a s

/-- A write under the key of its atom spares every byte outside its span. -/
theorem State.perform_spares {w : Writer} {pa : Nat} (hkey : (s.atom pa).key = w.key) {bs : List (Option Byte)} (ha : ¬(pa ≤ a ∧ a < pa + bs.length))
    (t : Nat) (fo : Option Nat) : State.Spares a s (s.perform w t pa bs fo) := by
  cases hdry : s.dryReplay w.sheet with
  | true => rw [State.perform, if_pos hdry]; exact .refl a s
  | false =>
    obtain ⟨x, hsame, -, -, hx⟩ := State.perform_sameHomes hdry t pa bs fo
    have hbyte : State.Spares a s { s with mem := s.written w.key pa bs } := by
      refine ⟨(stGet_putBytes_outside ha _).trans ?_, fun _ => rfl, rfl⟩
      rw [State.rebase_of_key hkey]
      rfl
    exact (hbyte.trans (State.putAtom_spares (hx.trans hkey.symm))).trans (hsame.spares a)

theorem State.writeBack_spares {key pa n : Nat} (hkey : (s.atom pa).key = key) (ha : ¬(pa ≤ a ∧ a < pa + n)) (k cx c : Nat) (home : Option Nat) :
    State.Spares a s (s.writeBack k cx c key home pa n) := by
  refine List.foldlRecOn (motive := fun u : State => State.Spares a s u) _ _ (.refl a s) fun u hu tag _ => ?_
  have hcluster (v : State) (f : Cluster → Cluster) : State.Spares a v (v.modCluster k f) := ⟨rfl, fun _ => rfl, rfl⟩
  refine (hu.trans ?_).trans (hcluster _ _)
  cases h : u.placeWrite _ _ _ _ with
  | none => exact (u.exhaust_sameHomes cx).spares a
  | some x =>
    rw [Option.map_some, Option.getD_some, State.placeWrite_eq_some h]
    exact State.perform_spares ((hu.key pa).trans hkey) (by simpa using ha) ..

/-- The bytes of an operation are as many as it reads. -/
theorem LaneOp.length_of_writes {op : LaneOp} {old : Nat} {bs : List Byte} (h : op.writes old = some bs) : bs.length = op.size := by
  cases op <;> simp only [LaneOp.writes, Option.some.injEq, Option.ite_none_right_eq_some] at h
  case store => rw [h]; rfl
  case cas => rw [← h.2]; exact length_toBytesLE ..
  all_goals rw [← h]; exact length_toBytesLE ..

theorem State.placeOp_spares {who : Writer} {p : LaneWrite} (hkey : (s.atom p.pa).key = who.key) (ha : ¬(p.pa ≤ a ∧ a < p.pa + p.op.size))
    {c : Nat} {x : State × Nat} (h : s.placeOp who c p = some x) : State.Spares a s x.1 := by
  obtain ⟨bs, hw, hx⟩ | ⟨-, hx⟩ := State.placeOp_cases h
  · rw [hx]
    exact State.perform_spares hkey (by rwa [List.length_map, LaneOp.length_of_writes hw]) ..
  · rw [hx]
    exact s.markRead_spares ..

theorem State.performOp_spares {who : Writer} {p : LaneWrite} (hkey : (s.atom p.pa).key = who.key) (ha : ¬(p.pa ≤ a ∧ a < p.pa + p.op.size))
    (old : Nat) (w : PendWrite) : State.Spares a s (s.performOp who old w p) := by
  rw [State.performOp]
  split
  · exact .refl a s
  · have hexec := (s.executed_sameHomes p).spares a
    split
    · exact (s.exhaust_sameHomes _).spares a
    · next v t h => exact (hexec.trans (State.placeOp_spares ((hexec.key _).trans hkey) ha h)).trans ((v.sameHomes_modSheet ..).spares a)

/-- With no page replicated, a part under the key of its atom spares every byte outside its span. -/
theorem State.performPart_spares {p : LaneWrite} (hr : s.replicas = []) (hkey : (s.atom p.pa).key = p.key) (ha : ¬(p.pa ≤ a ∧ a < p.pa + p.op.size))
    (w : PendWrite) : State.Spares a s (s.performPart w p) := by
  obtain ⟨-, h⟩ | ⟨k, bs, -, hop, h⟩ | h := s.performPart_cases w p
  · rw [h]
    exact (s.asyncError_sameHomes ..).spares a
  · rw [h, State.beforeWrite_of_no_replica hr]
    rw [hop] at ha
    split
    · exact .refl a s
    · exact State.writeBack_spares hkey ha ..
  · rw [h, State.beforeWrite_of_no_replica hr, ite_self]
    exact State.performOp_spares hkey ha ..

theorem State.foldl_performPart_spares {ps : List LaneWrite} (hr : s.replicas = []) (hkey : ∀ p ∈ ps, (s.atom p.pa).key = p.key)
    (ha : ∀ p ∈ ps, ¬(p.pa ≤ a ∧ a < p.pa + p.op.size)) (w : PendWrite) : State.Spares a s (ps.foldl (fun s p => s.performPart w p) s) :=
  List.foldlRecOn (motive := fun u : State => State.Spares a s u) ps _ (.refl a s) fun _ hu p hp =>
    hu.trans (State.performPart_spares (hu.replicas.trans hr) ((hu.key _).trans (hkey p hp)) (ha p hp) w)

end

/-! ### A pending write, or one part of it -/

section
variable {s : State} {id n a : Nat} {w : PendWrite}

/-- The package with other pending writes, and other request IDs kept (R424). -/
def State.withPending (s : State) (ws : Tab PendWrite) (rs : List (Nat × Nat × Nat × Nat)) : State := { s with writes := ws, requests := rs }

/-- The package with other pending writes. -/
def State.withWrites (s : State) (ws : Tab PendWrite) : State := s.withPending ws s.requests

theorem State.performWrite_of (h : tabGet id s.writes = some w) : s.performWrite id =
    (w.parts.foldl (fun s p => s.performPart w p) (s.withWrites (tabDel id s.writes))).arrived w id := by
  simp only [State.performWrite, h]
  rfl

theorem PendWrite.pick_lt (hn : n < w.parts.length) : w.pick n < w.parts.length :=
  List.findIdx_lt_length_of_exists ⟨w.parts[n], List.getElem_mem hn, by simp [hn]⟩

/-- One of several parts: the others stay pending. -/
theorem State.writePart_of_several (h : tabGet id s.writes = some w) (hlen : 1 < w.parts.length) (hn : n < w.parts.length) : s.writePart id n =
    (s.withWrites (tabPut id { w with parts := w.parts.eraseIdx (w.pick n) } s.writes)).performPart w (w.parts[w.pick n]'(PendWrite.pick_lt hn)) := by
  have hpick := PendWrite.pick_lt hn
  have hleft : (w.parts.eraseIdx (w.pick n)).isEmpty = false := by
    rw [List.isEmpty_eq_false_iff, ← List.length_pos_iff, List.length_eraseIdx_of_lt hpick]
    omega
  simp only [State.writePart, h, List.getElem?_eq_getElem hpick, hleft, Bool.false_eq_true, if_false]
  rfl

/-- What a write's part leaves: what performing some part of it leaves, or the package as it was. -/
theorem State.writePart_cases (h : tabGet id s.writes = some w) (n : Nat) : s.writePart id n = s ∨ ∃ p ∈ w.parts, ∃ ws,
    s.writePart id n = ((s.withWrites ws).performPart w p).arrived w id ∨ s.writePart id n = (s.withWrites ws).performPart w p := by
  simp only [State.writePart, h]
  split
  · exact .inl rfl
  · next p hp =>
    by_cases hlast : (w.parts.eraseIdx (w.pick n)).isEmpty = true
    · exact .inr ⟨p, List.mem_of_getElem? hp, tabDel id s.writes, .inl (by rw [if_pos hlast, if_pos hlast]; rfl)⟩
    · exact .inr ⟨p, List.mem_of_getElem? hp, tabPut id _ s.writes, .inr (by rw [if_neg hlast, if_neg hlast]; rfl)⟩

theorem State.performWrite_writes (h : tabGet id s.writes = some w) : (s.performWrite id).writes = tabDel id s.writes := by
  rw [State.performWrite_of h, State.arrived_writes, foldl_writes _ fun u p => u.performPart_writes w p]
  rfl

theorem State.writePart_writes (h : tabGet id s.writes = some w) (hlen : 1 < w.parts.length) (hn : n < w.parts.length) :
    (s.writePart id n).writes = tabPut id { w with parts := w.parts.eraseIdx (w.pick n) } s.writes := by
  rw [State.writePart_of_several h hlen hn, State.performPart_writes]
  rfl

theorem State.withWrites_spares (s : State) (ws : Tab PendWrite) (a : Nat) : State.Spares a s (s.withWrites ws) := ⟨rfl, fun _ => rfl, rfl⟩

section
variable (hr : s.replicas = []) (hkey : ∀ p ∈ w.parts, (s.atom p.pa).key = p.key) (ha : ∀ p ∈ w.parts, ¬(p.pa ≤ a ∧ a < p.pa + p.op.size))
include hr hkey ha

theorem State.performWrite_spares (h : tabGet id s.writes = some w) : State.Spares a s (s.performWrite id) := by
  have hbare := s.withWrites_spares (tabDel id s.writes) a
  rw [State.performWrite_of h]
  exact (hbare.trans (State.foldl_performPart_spares (s := s.withWrites (tabDel id s.writes)) hr hkey ha w)).trans ((State.arrived_sameHomes ..).spares a)

theorem State.writePart_spares (h : tabGet id s.writes = some w) (n : Nat) : State.Spares a s (s.writePart id n) := by
  obtain hsame | ⟨p, hp, ws, hone⟩ := State.writePart_cases h n
  · rw [hsame]
    exact .refl a s
  · have hpart := (s.withWrites_spares ws a).trans (State.performPart_spares (s := s.withWrites ws) hr (hkey p hp) (ha p hp) w)
    obtain hlast | hnot := hone
    · rw [hlast]
      exact hpart.trans ((State.arrived_sameHomes ..).spares a)
    · rw [hnot]
      exact hpart

end

/-! ### WRITE_AT_HOME -/

theorem State.nextWrite_iff (h : tabGet id s.writes = some w) : s.nextWrite id = true ↔
    ∀ p ∈ s.writes, p.1 < id → p.2.sheet = w.sheet → p.2.gang = w.gang → p.2.lanes &&& w.lanes = 0 := by
  simp [State.nextWrite, h]

/-- The package in which a write is performed: a choice is drawn where it has several parts (log entry 66). -/
def State.choosing (s : State) (w : PendWrite) : State := if w.parts.length ≤ 1 then s else s.drew

theorem State.choosing_writes (s : State) (w : PendWrite) : (s.choosing w).writes = s.writes := by
  unfold State.choosing
  split <;> rfl

theorem State.choosing_spares (s : State) (w : PendWrite) (a : Nat) : State.Spares a s (s.choosing w) := by
  unfold State.choosing
  split
  · exact .refl a s
  · exact s.drew_sameHomes.spares a

/-- The write is performed whole, or, where a free value chooses so, one of its several parts. -/
theorem exec_writeAtHome_of (h : tabGet id s.writes = some w) (hnext : s.nextWrite id = true) : exec (.writeAtHome id) s =
    if w.parts.length ≤ 1 ∨ s.free .duration % 2 = 0 then .next ((s.choosing w).performWrite id).reap
    else .next ((s.choosing w).writePart id (s.free .duration / 2 % w.parts.length)).reap := by
  rw [exec_writeAtHome, execWriteAtHome, if_pos hnext, h, State.choosing]
  by_cases hone : w.parts.length ≤ 1
  · simp [hone]
  · simp [hone]

/-! ### The write of one lane -/

/-- One lane's write at a reachable home, performed at the clock `c`, at a time that exists, and not by a dry replay. -/
structure State.Ready (s : State) (id : Nat) (w : PendWrite) (p : LaneWrite) (c : Nat) : Prop where
  pending : tabGet id s.writes = some w
  alone : w.parts = [p]
  hard : w.dirtyOn = none
  clock : s.partClock w p = c
  live : s.dryReplay (some w.sheet) = false
  home_only : s.replicas = []
  reach : s.unreach p.pa = false
  fresh : s.repeated p = false
  time : s.writeTime c p.pa < timeEnd

variable {p : LaneWrite} {c : Nat}

/-- The homes after such a write are those its operation leaves. -/
theorem State.Ready.performWrite_sameHomes (h : s.Ready id w p c) : ∃ rs, ∀ u t,
    (s.withPending (tabDel id s.writes) rs).placeOp (s.partWriter w p) c p = some (u, t) → u.SameHomes (s.performWrite id) := by
  obtain ⟨rs, hrs⟩ := (s.withWrites (tabDel id s.writes)).executed_eq p
  refine ⟨rs, fun u t hplace => ?_⟩
  have hexec : ((s.withWrites (tabDel id s.writes)).executed p).placeOp (s.partWriter w p) c p = some (u, t) := by
    rw [hrs]
    exact hplace
  have hop : ∃ f, (s.withWrites (tabDel id s.writes)).performPart w p = u.modGang w.sheet w.gang f := by
    obtain ⟨hout, -⟩ | ⟨k, bs, hd, -⟩ | hop := (s.withWrites (tabDel id s.writes)).performPart_cases w p
    · exact absurd (hout.symm.trans h.reach) Bool.noConfusion
    · exact absurd (hd.symm.trans h.hard) (Option.some_ne_none k)
    · rw [hop, State.beforeWrite_of_no_replica (s := s.withWrites (tabDel id s.writes)) h.home_only, ite_self]
      exact State.performOp_of_some (s := s.withWrites (tabDel id s.writes)) h.fresh h.clock hexec ..
  obtain ⟨f, hf⟩ := hop
  rw [State.performWrite_of h.pending, h.alone, List.foldl_cons, List.foldl_nil, hf]
  exact (u.sameHomes_modSheet ..).trans (State.arrived_sameHomes ..)

theorem State.Ready.writer_live (h : s.Ready id w p c) : s.dryReplay (s.partWriter w p).sheet = false := by
  simp only [State.partWriter]
  split
  · exact h.live
  · rfl

/-- An operation that writes leaves its bytes at its address, and the atom at the time of the write. -/
theorem State.Ready.lands (h : s.Ready id w p c) {bs : List Byte} (hbs : p.op.writes (s.found p) = some bs) :
    (s.performWrite id).bytes p.pa bs.length = bs ∧ ((s.performWrite id).atom p.pa).w = s.writeTime c p.pa := by
  obtain ⟨rs, hsame⟩ := h.performWrite_sameHomes
  have hplaced := hsame _ _ ((State.placeOp_of_some (s := s.withPending (tabDel id s.writes) rs) hbs).trans (if_pos h.time))
  obtain ⟨hatom, -, hmem⟩ := State.perform_leaves (s := s.withPending (tabDel id s.writes) rs) h.writer_live (s.writeTime c p.pa) p.pa (bs.map some) none
  refine ⟨?_, ?_⟩
  · rw [State.bytes, hplaced.mem]
    exact (congrArg (stGetList restingByte p.pa bs.length) hmem).trans (stGetList_putBytes_same ..)
  · rw [hplaced.atom]
    exact (hatom p.pa rfl).1

/-- A comparison that fails leaves memory as it was. -/
theorem State.Ready.fails (h : s.Ready id w p c) (hnone : p.op.writes (s.found p) = none) : (s.performWrite id).mem = s.mem := by
  obtain ⟨rs, hsame⟩ := h.performWrite_sameHomes
  have hplaced := hsame _ _ ((State.placeOp_of_none (s := s.withPending (tabDel id s.writes) rs) hnone).trans (if_pos h.time))
  exact hplaced.mem.trans (State.markRead_mem ..)

theorem State.Ready.lands_toBytesLE (h : s.Ready id w p c) {k x : Nat} (hbs : p.op.writes (s.found p) = some (toBytesLE k x)) :
    (s.performWrite id).bytes p.pa k = toBytesLE k x := by
  have hlands := (h.lands hbs).1
  rwa [length_toBytesLE] at hlands

/-- Only a comparison may write nothing. -/
theorem LaneOp.exists_writes {op : LaneOp} (h : ∀ wide want new, op ≠ .cas wide want new) (old : Nat) : ∃ bs, op.writes old = some bs := by
  cases op with
  | cas wide want new => exact absurd rfl (h wide want new)
  | _ => exact ⟨_, rfl⟩

end

/-- Settles O34: a part spares what lies outside its span, and the write of one lane leaves what its operation writes. -/
theorem writesArrive : Obligations.WritesArrive := by
  unfold Obligations.WritesArrive
  refine ⟨fun s id w hw hfirst => ?_, fun s id w p h q hw halone hhard honce hh hq hreplay hr hreach hfresh htime => ?_⟩
  · have hexec := exec_writeAtHome_of hw ((State.nextWrite_iff hw).2 hfirst)
    have hpending : tabGet id (s.choosing w).writes = some w := by rw [State.choosing_writes, hw]
    intro u n whole apart
    refine ⟨fun hwhole => hexec.trans (if_pos hwhole), fun hnot => hexec.trans (if_neg hnot), ?_, fun hlen => ?_, fun hr hkey a ha => ?_⟩
    · exact (congrArg (tabGet id) (State.performWrite_writes hpending)).trans (tabGet_tabDel_same ..)
    · exact (congrArg (tabGet id) (State.writePart_writes hpending hlen (Nat.mod_lt _ (by omega)))).trans (tabGet_tabPut_same ..)
    · have hspan (p : LaneWrite) : apart a p → ¬(p.pa ≤ a ∧ a < p.pa + p.op.size) := by
        obtain ⟨_, _, _, _, op⟩ := p
        cases op <;> exact fun h => h
      have hchoose := s.choosing_spares w a
      have hkey' (p : LaneWrite) (hp : p ∈ w.parts) : ((s.choosing w).atom p.pa).key = p.key := (hchoose.key _).trans (hkey p hp)
      have hafter {v : State} (hv : State.Spares a (s.choosing w) v) : v.byte a = s.byte a := (hchoose.trans hv).byte
      exact ⟨hafter (State.performWrite_spares (hchoose.replicas.trans hr) hkey' (fun p hp => hspan p (ha p hp)) hpending),
        hafter (State.writePart_spares (hchoose.replicas.trans hr) hkey' (fun p hp => hspan p (ha p hp)) hpending n)⟩
  · have hready : s.Ready id w p (q.clockOf [p.lane]) := by
      refine ⟨hw, halone, hhard, ?_, ?_, hr, hreach, hfresh, htime⟩
      · simp [State.partClock, PendWrite.takers, honce, hh, hq]
      · simp [State.dryReplay, hh, hreplay]
    refine ⟨fun bs hop => ?_, fun op x hop => ?_, fun wide want new hop => ⟨fun heq => ?_, fun hne => ?_⟩, fun hcas => ?_⟩
    · exact (hready.lands (by rw [hop]; rfl)).1
    · exact hready.lands_toBytesLE (by rcases hop with hop | hop <;> rw [State.found, hop] <;> rfl)
    · exact hready.lands_toBytesLE (by rw [State.found, hop]; exact if_pos heq)
    · exact hready.fails (by rw [State.found, hop]; exact if_neg hne)
    · obtain ⟨bs, hbs⟩ := LaneOp.exists_writes hcas (s.found p)
      exact (hready.lands hbs).2

end Sys2Proof.Machine
end

section
/-! What the accesses of the panel's own units leave alone: a part of the package that none of the named updates touches is as before after
reads, walks, writes at the homes, errors and the work of a raster unit. -/

namespace Sys2Proof.Machine

/-- `π` reads nothing that accesses to memory change: not memory, atoms, sheets, contexts, launches, clusters, replicas, notices or the
free choices. -/
structure OffAccess {α : Type} (π : State → α) : Prop where
  mem : ∀ s x, π { s with mem := x } = π s
  atoms : ∀ s x, π { s with atoms := x } = π s
  sheets : ∀ s x, π { s with sheets := x } = π s
  ctxs : ∀ s x, π { s with ctxs := x } = π s
  launches : ∀ s x, π { s with launches := x } = π s
  clusters : ∀ s x, π { s with clusters := x } = π s
  replicas : ∀ s x, π { s with replicas := x } = π s
  steward : ∀ s x, π { s with steward := x } = π s
  choices : ∀ s x, π { s with choices := x } = π s

theorem offAccess_dies : OffAccess State.dies where
  mem _ _ := rfl
  atoms _ _ := rfl
  sheets _ _ := rfl
  ctxs _ _ := rfl
  launches _ _ := rfl
  clusters _ _ := rfl
  replicas _ _ := rfl
  steward _ _ := rfl
  choices _ _ := rfl

section
variable {α β γ : Type} {π : State → α}

theorem foldl_keeps {f : State → β → State} (h : ∀ s b, π (f s b) = π s) (l : List β) (s : State) : π (l.foldl f s) = π s :=
  List.foldlRecOn (motive := fun u => π u = π s) l f rfl fun u hu b _ => (h u b).trans hu

theorem foldl_keeps_fst {f : State × γ → β → State × γ} (h : ∀ q b, π (f q b).1 = π q.1) (l : List β) (q : State × γ) :
    π (l.foldl f q).1 = π q.1 :=
  List.foldlRecOn (motive := fun u : State × γ => π u.1 = π q.1) l f rfl fun u hu b _ => (h u b).trans hu

theorem ite_keeps {p : Prop} [Decidable p] {x y s : State} (hx : π x = π s) (hy : π y = π s) : π (if p then x else y) = π s := by
  split
  · exact hx
  · exact hy

variable (hπ : OffAccess π)
include hπ

theorem OffAccess.notice (s : State) (kind cx code origin addr : Nat) : π (s.notice kind cx code origin addr) = π s := by
  unfold State.notice
  exact hπ.steward ..

theorem OffAccess.asyncError (s : State) (cx code addr detail : Nat) : π (s.asyncError cx code addr detail) = π s := by
  simp only [State.asyncError]
  exact ite_keeps ((hπ.ctxs ..).trans (ite_keeps (hπ.sheets ..) rfl)) (hπ.notice ..)

theorem OffAccess.exhaust (s : State) (cx : Nat) : π (s.exhaust cx) = π s :=
  (hπ.ctxs ..).trans ((hπ.choices ..).trans (hπ.asyncError ..))

theorem OffAccess.observe (s : State) (tag who cx : Option Nat) : π (s.observe tag who cx) = π s := by
  unfold State.observe
  split
  · rfl
  · exact hπ.sheets ..

theorem OffAccess.markRead (s : State) (who : Option Nat) (v pa : Nat) (cx : Option Nat) : π (s.markRead who v pa cx) = π s :=
  ite_keeps ((hπ.observe ..).trans (hπ.atoms ..)) rfl

theorem OffAccess.markReads (s : State) (who : Option Nat) (v : Nat) (pas : List Nat) (cx : Option Nat) : π (s.markReads who v pas cx) = π s :=
  foldl_keeps (fun _ _ => hπ.markRead ..) _ _

theorem OffAccess.tryEligible (s : State) (k : Nat) : π (s.tryEligible k) = π s := by
  unfold State.tryEligible
  split
  · rfl
  · exact ite_keeps (hπ.launches ..) rfl

theorem OffAccess.testWatches (s : State) (pa t : Nat) : π (s.testWatches pa t) = π s :=
  foldl_keeps (fun _ _ => (hπ.tryEligible ..).trans ((hπ.launches ..).trans (hπ.observe ..))) _ _

theorem OffAccess.perform (s : State) (w : Writer) (t pa : Nat) (bs : List (Option Byte)) (fo : Option Nat) : π (s.perform w t pa bs fo) = π s := by
  have hput (u : State) (m : Store Byte) (x : Atom) : π ({ u with mem := m }.putAtom pa x) = π u := (hπ.atoms ..).trans (hπ.mem ..)
  simp only [State.perform]
  refine ite_keeps rfl ((hπ.testWatches ..).trans (ite_keeps ((hπ.asyncError ..).trans ?_) ?_))
  all_goals
    split
    · exact (hput ..).trans (hπ.observe ..)
    · exact (hπ.sheets ..).trans ((hput ..).trans (hπ.observe ..))

theorem OffAccess.writeBack (s : State) (k cx c key : Nat) (home : Option Nat) (pa n : Nat) : π (s.writeBack k cx c key home pa n) = π s := by
  refine foldl_keeps (fun u tag => (hπ.clusters ..).trans ?_) _ _
  cases h : u.placeWrite _ _ _ _ with
  | none => exact hπ.exhaust u cx
  | some x => exact (congrArg π (State.placeWrite_eq_some h)).trans (hπ.perform ..)

theorem OffAccess.sweepPage (s : State) (cx c page : Nat) (l : Leaf) : π (s.sweepPage cx c page l) = π s :=
  foldl_keeps (fun _ _ => (hπ.clusters ..).trans (foldl_keeps (fun _ _ => ite_keeps (hπ.asyncError ..) (hπ.writeBack ..)) _ _)) _ _

theorem OffAccess.beforeWrite (s : State) (cx va : Nat) : π (s.beforeWrite cx va) = π s := by
  simp only [State.beforeWrite, State.convert]
  refine ite_keeps ((hπ.replicas ..).trans ((hπ.ctxs ..).trans ?_)) rfl
  split
  · rfl
  · have hleaf (p : Prop) [Decidable p] (b : List (Option Byte)) (at_ : Nat) : π (if p then s.rewriteLeaf cx at_ b else s) = π s :=
      ite_keeps (hπ.perform ..) rfl
    exact ite_keeps ((hπ.sweepPage ..).trans (hleaf ..)) (hleaf ..)

theorem OffAccess.walk (s : State) (cx die c page : Nat) : π (s.walk cx die c page).2 = π s := by
  unfold State.walk
  split
  · rfl
  · exact (foldl_keeps (fun _ _ => (hπ.choices ..).trans (hπ.markRead ..)) _ _).trans (ite_keeps (hπ.choices ..) rfl)

theorem OffAccess.leafOf (s : State) (cx : Nat) (cl : Option Nat) (die c page : Nat) : π (s.leafOf cx cl die c page).2 = π s := by
  have hwalk := hπ.walk s cx die c page
  have hmod (u : State) (f : Context → Context) : π (u.modCtx cx f) = π u := hπ.ctxs ..
  have hdrew (u : State) : π u.drew = π u := hπ.choices ..
  unfold State.leafOf
  simp only
  repeat' split
  all_goals simp only [hmod, hdrew, hwalk]

theorem OffAccess.translatePages (s : State) (w : Issuer) (ps : List Nat) (m : Tab Translated) : π (s.translatePages w ps m).2 = π s := by
  induction ps generalizing s m with
  | nil => rfl
  | cons p ps ih =>
    simp only [State.translatePages]
    split
    · exact ih s m
    · exact (ih ..).trans (hπ.leafOf ..)

/-- The checks of an access leave it as it is, whether they fail or not. -/
theorem OffAccess.checkAccess (s : State) (w : Issuer) (reqs : List Req) :
    (∀ e, s.checkAccess w reqs = .error e → π e.2 = π s) ∧ ∀ x, s.checkAccess w reqs = .ok x → π x.2 = π s := by
  have h := hπ.translatePages s w (reqs.map fun r => r.va / 65536) w.known
  unfold State.checkAccess
  simp only
  repeat' split
  all_goals
    refine ⟨fun e he => ?_, fun x hx => ?_⟩
    · cases he <;> first | rfl | exact h
    · cases hx <;> exact h

/-! ### A raster unit's accesses -/

theorem OffAccess.beginDraw (s : State) (die cx clk fr : Nat) : π (s.beginDraw die cx clk fr).2 = π s := by
  unfold State.beginDraw
  dsimp only
  split
  · next h => exact (hπ.checkAccess ..).1 _ h
  · next x u h =>
    have hu : π u = π s := (hπ.checkAccess ..).2 _ h
    have hread (v : Nat) (pas : List Nat) : π (u.markReads none v pas (some cx)).drew = π s := (hπ.choices ..).trans ((hπ.markReads ..).trans hu)
    split
    · exact hread ..
    · split
      · exact (hπ.translatePages ..).trans (hread ..)
      · exact (hπ.translatePages ..).trans (hread ..)

theorem OffAccess.planeLeaf (s : State) (cx die clk fr va : Nat) : π (s.planeLeaf cx die clk fr va).2 = π s := by
  have hleaf : π (if va < 281474976710656 then s.leafOf cx none die clk (va / 65536) else (none, s)).2 = π s := by
    split
    · exact hπ.leafOf ..
    · rfl
  unfold State.planeLeaf
  generalize (if va < 281474976710656 then s.leafOf cx none die clk (va / 65536) else (none, s)) = q at hleaf
  obtain ⟨_ | l, t⟩ := q
  · exact (hπ.asyncError ..).trans hleaf
  · dsimp only
    split
    · exact hleaf
    · exact (hπ.asyncError ..).trans hleaf

theorem OffAccess.pixel (s : State) (cx die clk : Nat) (r : FrameRec) (px py z : Nat) (vid : Word) : π (s.pixel cx die clk r px py z vid).1 = π s := by
  unfold State.pixel
  dsimp only
  have h1 := hπ.planeLeaf s cx die clk r.addr (r.word r.dz px py)
  split
  · next s1 e => exact (congrArg (fun x : Option Leaf × State => π x.2) e).symm.trans h1
  · next ld s1 e =>
    have h1 : π s1 = π s := (congrArg (fun x : Option Leaf × State => π x.2) e).symm.trans h1
    have h2 := (hπ.planeLeaf s1 cx die clk r.addr (r.word r.vb px py)).trans h1
    split
    · next s2 e => exact (congrArg (fun x : Option Leaf × State => π x.2) e).symm.trans h2
    · next lv s2 e =>
      have h2 : π s2 = π s := (congrArg (fun x : Option Leaf × State => π x.2) e).symm.trans h2
      split
      · exact (hπ.asyncError ..).trans h2
      · split
        · exact (hπ.exhaust ..).trans h2
        · split
          · simp only [hπ.perform, hπ.beforeWrite, h2]
          · exact (hπ.markRead ..).trans h2

theorem OffAccess.rasterise (s : State) (die clk : Nat) (r : FrameRec) (p : Packet) : π (s.rasterise die clk r p).1 = π s := by
  simp only [State.rasterise]
  split
  · refine foldl_keeps_fst (fun q py => foldl_keeps_fst (fun q px => ?_) _ _) _ _
    split
    · rfl
    · split
      · rfl
      · exact hπ.pixel ..
  · rfl

theorem OffAccess.wakeDraws (s : State) (cx slot : Nat) : π (s.wakeDraws cx slot) = π s := hπ.sheets ..

end

end Sys2Proof.Machine
end

section
/-! Geometry: what EMIT and EMITEND send, what a die holds of a draw, and when a draw passes (R150 to R156, R163, R343 to R345). -/

namespace Sys2Proof.Machine

/-! ### The dies a primitive goes to (R150, R153) -/

theorem mem_fromTo {a b x : Nat} : x ∈ fromTo a b ↔ a ≤ x ∧ x ≤ b := by
  simp only [fromTo, List.mem_map, List.mem_range]
  constructor
  · rintro ⟨i, hi, rfl⟩
    omega
  · rintro ⟨ha, hb⟩
    exact ⟨x - a, by omega, by omega⟩

theorem FrameRec.mem_targets {r : FrameRec} {d k : Nat} {xy : List Int} : k ∈ r.targets d xy ↔ k < d ∧ ∃ x0 x1 y0 y1,
    boxAxis (xsOf xy) r.wm1 = some (x0, x1) ∧ boxAxis (ysOf xy) r.hm1 = some (y0, y1)
    ∧ ∃ rx ry, x0 / 64 ≤ rx ∧ rx ≤ x1 / 64 ∧ y0 / 64 ≤ ry ∧ ry ≤ y1 / 64 ∧ (rx + r.rw * ry) % d = k := by
  unfold FrameRec.targets
  split
  · next x0 x1 y0 y1 hx hy =>
    simp only [List.mem_filter, List.mem_range, List.any_eq_true, mem_fromTo, FrameRec.owner, beq_iff_eq, hx, hy, Option.some.injEq, Prod.mk.injEq]
    refine and_congr_right fun _ => ⟨?_, ?_⟩
    · rintro ⟨rx, ⟨h0, h1⟩, ry, ⟨h2, h3⟩, h⟩
      exact ⟨x0, x1, y0, y1, ⟨rfl, rfl⟩, ⟨rfl, rfl⟩, rx, ry, h0, h1, h2, h3, h⟩
    · rintro ⟨_, _, _, _, ⟨rfl, rfl⟩, ⟨rfl, rfl⟩, rx, ry, h0, h1, h2, h3, h⟩
      exact ⟨rx, ⟨h0, h1⟩, ry, ⟨h2, h3⟩, h⟩
  · next hnone =>
    simp only [List.not_mem_nil, false_iff]
    rintro ⟨-, x0, x1, y0, y1, hx, hy, -⟩
    exact hnone _ _ _ _ hx hy

/-! ### When an EMIT or EMITEND waits (R151, R152, R163) -/

theorem State.drawWaits_iff (s : State) (cx slot draw : Nat) (to_ : List Nat) (ctx : Context) : s.drawWaits cx slot draw to_ ctx = true ↔
    32768 ≤ (ctx.frameSlot slot).ahead draw ∨ ((ctx.frameSlot slot).launchOf draw = none ∧ draw ≠ (ctx.frameSlot slot).nextDraw)
    ∨ ((ctx.frameSlot slot).ahead draw ≠ 0 ∧ ∃ d ∈ to_, Config.rasterBuffer ≤ s.rasterHeld d cx slot) := by
  simp [State.drawWaits, FrameSlot.waits, State.buffersFull, or_assoc]

/-! ### EMIT (R151 to R154, R343, R344) -/

/-- A lane's word `n` of the group EMIT reads. -/
def emitWord (c : Site) (a : Reg) (j n : Nat) : Word := c.view.regPlus j a n
/-- A lane's six coordinates. -/
def emitXy (c : Site) (a : Reg) (j : Nat) : List Int := (List.range 6).map fun n => (emitWord c a j n).toInt
/-- Whether a lane's coordinates and primitive index are in range (R344). -/
def emitInRange (c : Site) (a : Reg) (j : Nat) : Bool :=
  (emitXy c a j).all (fun x => -8388608 ≤ x && x < 8388608) && (emitWord c a j 10).toNat < 67108864
theorem emitInRange_iff {c : Site} {a : Reg} {j : Nat} : emitInRange c a j = true ↔
    (∀ x ∈ emitXy c a j, -8388608 ≤ x ∧ x < 8388608) ∧ (emitWord c a j 10).toNat < 67108864 := by
  simp [emitInRange]

/-- Whether the gang may emit to the draw with the record (R152, R344). -/
def emitAllowed (c : Site) (l : Launch) (ctx : Context) (r : FrameRec) (va slot draw : Nat) : Bool :=
  emitIndexOk c l && r.ok && r.addr == va && !c.emitEnded slot draw && !boundElsewhere c ctx slot draw
/-- A lane's packet, but for its die (R154). -/
def emitPacket (c : Site) (l : Launch) (a : Reg) (slot va draw : Nat) (v : Option Nat) (j : Nat) : Packet :=
  { die := 0, ctx := c.sh.ctx, slot := slot, fr := va, draw := draw, group := c.sh.index, prim := (emitWord c a j 10).toNat
    xy := emitXy c a j, z := [emitWord c a j 6, emitWord c a j 7, emitWord c a j 8], vid := emitWord c a j 9
    gcm1 := l.sheets - 1, clk := max c.clk (v.getD 0), sheet := c.sid }
/-- The dies to which the lanes `ls` send. -/
def State.emitDies (t : State) (c : Site) (a : Reg) (r : FrameRec) (ls : List Nat) : List Nat :=
  (ls.flatMap fun j => r.targets (t.ctxDies c.sh.ctx).length (emitXy c a j)).eraseDups.map fun j => (t.ctxDies c.sh.ctx)[j]?.getD 0
/-- The package once the draw is bound, the record kept and the clocks are raised to the record's view time (R152, R162). -/
def State.emitBound (t : State) (c : Site) (ctx : Context) (r : FrameRec) (slot draw : Nat) (v : Option Nat) : State :=
  let u := (t.bindDraw c slot draw ctx).modSheet c.sid fun h => { h with recs := tabPut (65536 * slot + draw) r h.recs }
  match v with
  | none => u
  | some v => u.raiseTo c v

section
variable {s t t1 : State} {c : Site} {g : Guard} {slot : Fin 4} {a : Reg} {b d : Fin 64} {k : Nat} {ks : List Nat} {l : Launch} {ctx : Context}
  {r : FrameRec} {v : Option Nat} {draw : Nat}
variable (h : Reaches (.emit g slot a b d) s t c) (hlanes : c.accessLanes g (!a.isVec) = k :: ks) (hl : tabGet c.sh.launch t.launches = some l)
  (hctx : tabGet c.sh.ctx t.ctxs = some ctx) (hdraw : (c.view.regs.uni d.val).toNat % 65536 = draw)
include h hlanes hl hctx hdraw

theorem exec_emit_of_error {e : Trap} {u : State} (hrec : t.frameRecord c k (c.view.upair b).toNat (65536 * slot.val + draw) = .error (e, u)) :
    Raises (.emit g slot a b d) s u c e := by
  subst hdraw
  rw [Raises, exec_emit, execEmit, enterMem_of h]
  simp only [hlanes, List.head?_cons, hl, hctx, hrec, orTrap_error]

variable (hrec : t.frameRecord c k (c.view.upair b).toNat (65536 * slot.val + draw) = .ok (r, v, t1))
include hrec

theorem exec_emit_of : exec (.emit g slot a b d) s =
    match (k :: ks).find? fun j => !emitAllowed c l ctx r (c.view.upair b).toNat slot.val draw || !emitInRange c a j with
    | some j => .next (t1.raise c (.emit g slot a b d) { cause := 1, check := 2, lane := some j })
    | none =>
      if t.drawWaits c.sh.ctx slot.val draw (t.emitDies c a r (k :: ks)) ctx then .next (t1.waitIn c (.draw slot.val draw))
      else .next (((((k :: ks).foldl (fun s j => s.sendPrimitive (s.ctxDies c.sh.ctx) r (emitPacket c l a slot.val (c.view.upair b).toNat draw v j))
        (t1.emitBound c ctx r slot.val draw v)).pinDown c.sid).noAudit c.sid).finish c (.emit g slot a b d)) := by
  subst hdraw
  rw [exec_emit, execEmit, enterMem_of h]
  simp only [hlanes, List.head?_cons, hl, hctx, hrec, orTrap_ok]
  rfl

end
/-! ### EMITEND (R155, R345) -/

/-- Whether the gang may end its group of the draw (R152, R345). -/
def emitendAllowed (c : Site) (l : Launch) (ctx : Context) (slot draw : Nat) : Bool :=
  emitIndexOk c l && !c.emitEnded slot draw && !boundElsewhere c ctx slot draw
/-- The dies to which EMITEND sends: each live die where this gang closes the group. -/
def State.markerDies (t : State) (c : Site) (slot draw : Nat) : List Nat := if c.closesGroup slot draw then t.ctxDies c.sh.ctx else []
/-- The package once the draw is bound and the gang's end is recorded. -/
def State.emitendBound (t : State) (c : Site) (ctx : Context) (slot draw : Nat) : State :=
  (t.bindDraw c slot draw ctx).modGang c.sid c.gang fun q => { q with emitEnd := q.emitEnd ++ [(slot, draw)] }

/-- Whether every gang of the sheet has ended its group of the draw. -/
def State.groupEnded (u : State) (c : Site) (slot draw : Nat) : Bool :=
  ((tabGet c.sid u.sheets).map fun h => h.gangs.all fun p => p.2.emitEnd.contains (slot, draw)).getD false
/-- The markers of the group are sent once every gang has ended it. -/
def State.emitendSent (u : State) (c : Site) (slot draw : Nat) (l : Launch) : State :=
  if u.groupEnded c slot draw then u.sendMarkers c slot draw l else u

theorem State.groupEnded_iff {u : State} {c : Site} {slot draw : Nat} {h : Sheet} (hh : tabGet c.sid u.sheets = some h) :
    u.groupEnded c slot draw = true ↔ ∀ p ∈ h.gangs, (slot, draw) ∈ p.2.emitEnd := by
  simp [State.groupEnded, hh]

theorem Site.closesGroup_iff {c : Site} {slot draw : Nat} :
    c.closesGroup slot draw = true ↔ ∀ p ∈ c.sh.gangs, p.1 = c.gang ∨ (slot, draw) ∈ p.2.emitEnd := by
  simp [Site.closesGroup]

section
variable {s t : State} {c : Site} {g : Guard} {slot : Fin 4} {a : Fin 64} {l : Launch} {ctx : Context} {draw : Nat}
variable (h : ActsOn (.emitend g slot a) g s t c) (hl : tabGet c.sh.launch t.launches = some l) (hctx : tabGet c.sh.ctx t.ctxs = some ctx)
  (hdraw : (c.view.regs.uni a.val).toNat % 65536 = draw)
include h hl hctx hdraw

theorem exec_emitend_of : exec (.emitend g slot a) s =
    if !emitendAllowed c l ctx slot.val draw then .next (t.raise c (.emitend g slot a) (Trap.illegal 2))
    else if t.drawWaits c.sh.ctx slot.val draw (t.markerDies c slot.val draw) ctx then .next (t.waitIn c (.draw slot.val draw))
    else .next (((((t.emitendBound c ctx slot.val draw).emitendSent c slot.val draw l).pinDown c.sid).noAudit c.sid).finish c
      (.emitend g slot a)) := by
  subst hdraw
  rw [exec_emitend, execEmitend, enterMemGang_of h]
  simp only [hl, hctx, emitendAllowed, Bool.not_and, Bool.not_not]
  rfl

end

/-! ### What a die holds (R154, R155) -/

/-- What a die holds of a draw of a slot of a context. -/
def State.drawAt (s : State) (die cx slot draw : Nat) : Option DrawState :=
  ((tabGet die s.dies).bind fun d => tabGet (4 * cx + slot) d.raster).bind fun r => tabGet draw r.draws

theorem State.drawAt_modDraw {s : State} {die cx slot draw gcm1 : Nat} (hdie : (tabGet die s.dies).isSome) (f : DrawState → DrawState) :
    (s.modDraw die cx slot draw gcm1 f).drawAt die cx slot draw = some (f ((s.drawAt die cx slot draw).getD { gcm1 := gcm1 })) := by
  obtain ⟨d, hd⟩ := Option.isSome_iff_exists.1 hdie
  simp only [State.drawAt, State.modDraw, State.modDie, tabGet_tabMod_same, hd, Option.map_some, Option.bind_some, tabGet_tabPut_same]
  cases tabGet (4 * cx + slot) d.raster <;> rfl

theorem exec_primitivePacket_of {s : State} {id : Nat} {p : Packet} (h : tabGet id s.packets = some p) : exec (.primitivePacket id) s =
    .next ({ s with packets := tabDel id s.packets }.modDraw p.die p.ctx p.slot p.draw p.gcm1 fun d => { d with packets := d.packets ++ [p] }) := by
  rw [exec_primitivePacket, execPrimitivePacket, h]

theorem State.markerBlocked_eq_false_iff {s : State} {m : Marker} : s.markerBlocked m = false ↔ ∀ p ∈ s.packets,
    ¬(p.2.die = m.die ∧ p.2.ctx = m.ctx ∧ p.2.slot = m.slot ∧ p.2.draw = m.draw ∧ p.2.group = m.group) := by
  simp [State.markerBlocked, and_assoc]

/-- A marker whose packets have all come is held by its die, which held nothing of the draw (R155). -/
theorem exec_closeMarker_of {s : State} {id : Nat} {m : Marker} (hm : tabGet id s.markers = some m) (hcome : s.markerBlocked m = false)
    (hgroup : m.group ≤ m.gcm1) (hfirst : s.drawAt m.die m.ctx m.slot m.draw = none) (hdie : (tabGet m.die s.dies).isSome) :
    exec (.closeMarker id) s = .next (({ s with markers := tabDel id s.markers }.modDraw m.die m.ctx m.slot m.draw m.gcm1 fun d => d).modDraw
      m.die m.ctx m.slot m.draw m.gcm1 fun d => { d with marks := tabPut m.group m.clk d.marks }) := by
  have hheld : State.drawAt ({ s with markers := tabDel id s.markers }.modDraw m.die m.ctx m.slot m.draw m.gcm1 fun d => d)
      m.die m.ctx m.slot m.draw = some { gcm1 := m.gcm1 } := by
    rw [State.drawAt_modDraw (by exact hdie)]
    exact congrArg some (congrArg (Option.getD · _) hfirst)
  unfold State.drawAt at hheld
  rw [exec_closeMarker, execCloseMarker, hm]
  simp only [hcome, Bool.false_eq_true, if_false, hheld]
  rw [if_neg (by simpa [tabGet] using hgroup)]

/-! ### A group is rasterised (R156, R162) -/

/-- The packets a die holds of the group it comes to next. -/
def DrawState.group (d : DrawState) : List Packet := d.packets.filter fun p => p.group == d.next
/-- A die's clock `clk` raised above the marker's and the packets of the group (R133). -/
def DrawState.mergedClock (d : DrawState) (m clk : Nat) : Nat := max clk (1 + max m (maxOf (d.group.map (·.clk))))
/-- And above everything the die holds of the draw (log entry 43). -/
def DrawState.heldClock (d : DrawState) (m clk : Nat) : Nat :=
  max (d.mergedClock m clk) (1 + max (maxOf (d.packets.map (·.clk))) (maxOf (d.marks.map (·.2))))

/-- A die that has no record of the draw takes the one its first packet names, or discards the draw (R149, R162). -/
def State.begun (s : State) (die cx clk held : Nat) (d : DrawState) (ps : List Packet) : DrawState × Nat × State :=
  match ps, d.record.isNone && !d.failed with
  | p :: _, true =>
    match s.beginDraw die cx held p.fr with
    | (some (r, v), s) => ({ d with record := some r }, max clk v, s)
    | (none, s) => ({ d with failed := true }, clk, s.asyncError cx 3 p.fr 0)
  | _, _ => (d, clk, s)
/-- The primitives in their order, where the die has a record. -/
def rasterised (die : Nat) (ps : List Packet) (x : DrawState × Nat × State) : State × Nat :=
  match x.1.record with
  | none => (x.2.2, x.2.1)
  | some r => ps.foldl (fun (q : State × Nat) p => q.1.rasterise die q.2 r p) (x.2.2, x.2.1)
/-- The draw with its next group done. -/
def DrawState.passed (d : DrawState) : DrawState := { d with packets := d.packets.filter (·.group != d.next), next := d.next + 1 }
/-- The die holds the draw as it now is and its clock, which the launch's time and the end of logical time see. -/
def State.groupDone (s : State) (die cx slot draw : Nat) (d : DrawState) (clk : Nat) : State :=
  let s := s.modDie die fun x =>
    let r := (tabGet (4 * cx + slot) x.raster).getD {}
    { x with raster := tabPut (4 * cx + slot) { clk := clk, draws := tabPut draw d r.draws } x.raster }
  let launch := (tabGet cx s.ctxs).bind fun c => (c.frameSlot slot).launchOf draw
  let s := (launch.map fun l => s.modLaunch l fun x => { x with maxTime := max x.maxTime clk }).getD s
  if timeEnd ≤ clk then (s.wakeDraws cx slot).exhaust cx else s.wakeDraws cx slot

/-- The package after the next group of a draw. -/
def State.rasterisedGroup (s : State) (die cx slot draw : Nat) (d : DrawState) (m clk : Nat) : State :=
  let o := s.tokenOrder d.group.length d.group
  let x := o.2.begun die cx (d.mergedClock m clk) (d.heldClock m clk) d o.1
  let q := rasterised die o.1 x
  q.1.groupDone die cx slot draw x.1.passed q.2

section
variable {s : State} {die cx slot draw : Nat} {d : DrawState} {m clk : Nat}

theorem exec_rasteriseGroup_of (h : s.nextGroup die cx slot = some (draw, d, m, clk)) :
    exec (.rasteriseGroup die cx slot) s = .next (s.rasterisedGroup die cx slot draw d m clk).reap := by
  rw [exec_rasteriseGroup, execRasteriseGroup, h]
  rfl

theorem State.die_of_nextGroup (h : s.nextGroup die cx slot = some (draw, d, m, clk)) : (tabGet die s.dies).isSome := by
  cases hd : tabGet die s.dies with
  | none => simp [State.nextGroup, hd] at h
  | some x => rfl

/-- What begins a draw is its record or its failure. -/
theorem State.begun_draw (s : State) (die cx clk held : Nat) (d : DrawState) (ps : List Packet) :
    ∃ r f, (s.begun die cx clk held d ps).1 = { d with record := r, failed := f } := by
  unfold State.begun
  split
  · split
    · exact ⟨_, _, rfl⟩
    · exact ⟨_, _, rfl⟩
  · exact ⟨_, _, rfl⟩

theorem OffAccess.begun {α : Type} {π : State → α} (hπ : OffAccess π) (s : State) (die cx clk held : Nat) (d : DrawState) (ps : List Packet) :
    π (s.begun die cx clk held d ps).2.2 = π s := by
  unfold State.begun
  split
  · next p _ _ =>
    have hbegin := hπ.beginDraw s die cx held p.fr
    split
    · next e => exact (congrArg (fun x : Option (FrameRec × Nat) × State => π x.2) e).symm.trans hbegin
    · next e => exact (hπ.asyncError ..).trans ((congrArg (fun x : Option (FrameRec × Nat) × State => π x.2) e).symm.trans hbegin)
  · rfl

theorem OffAccess.rasterised {α : Type} {π : State → α} (hπ : OffAccess π) (die : Nat) (ps : List Packet) (x : DrawState × Nat × State) :
    π (rasterised die ps x).1 = π x.2.2 := by
  unfold Machine.rasterised
  split
  · rfl
  · exact foldl_keeps_fst (fun _ _ => hπ.rasterise ..) _ _

/-- The order of the primitives takes free choices alone. -/
theorem State.tokenOrder_choices (s : State) (n : Nat) (l : List Packet) : ∃ k, (s.tokenOrder n l).2 = { s with choices := k } := by
  induction n generalizing s l with
  | zero => exact ⟨_, rfl⟩
  | succ n ih =>
    cases l with
    | nil => exact ⟨_, rfl⟩
    | cons p l =>
      simp only [State.tokenOrder]
      split
      · split
        · exact ⟨_, rfl⟩
        · exact ⟨_, rfl⟩
      · split
        · exact ih s.drew _
        · exact ih s _

theorem OffAccess.tokenOrder {α : Type} {π : State → α} (hπ : OffAccess π) (s : State) (n : Nat) (l : List Packet) :
    π (s.tokenOrder n l).2 = π s := by
  obtain ⟨k, hk⟩ := s.tokenOrder_choices n l
  rw [hk, hπ.choices]

theorem State.drawAt_groupDone {s : State} (hdie : (tabGet die s.dies).isSome) (d : DrawState) (clk : Nat) :
    (s.groupDone die cx slot draw d clk).drawAt die cx slot draw = some d := by
  obtain ⟨x, hx⟩ := Option.isSome_iff_exists.1 hdie
  have hdies : (s.groupDone die cx slot draw d clk).dies = (s.modDie die fun x =>
      { x with raster := tabPut (4 * cx + slot) { clk := clk, draws := tabPut draw d ((tabGet (4 * cx + slot) x.raster).getD {}).draws } x.raster }).dies := by
    refine ite_keeps (π := State.dies) ((offAccess_dies.exhaust ..).trans ?_) ?_
    all_goals
      refine (offAccess_dies.wakeDraws ..).trans ?_
      cases (tabGet cx _).bind _ <;> rfl
  rw [State.drawAt, hdies]
  simp [State.modDie, hx]

/-- The die then holds the draw with its next group done. -/
theorem State.drawAt_rasterisedGroup (h : s.nextGroup die cx slot = some (draw, d, m, clk)) :
    ∃ r f, (s.rasterisedGroup die cx slot draw d m clk).drawAt die cx slot draw = some { d.passed with record := r, failed := f } := by
  obtain ⟨r, f, hbegun⟩ := (s.tokenOrder d.group.length d.group).2.begun_draw die cx (d.mergedClock m clk) (d.heldClock m clk) d
    (s.tokenOrder d.group.length d.group).1
  refine ⟨r, f, (State.drawAt_groupDone ?_ _ _).trans ?_⟩
  · rw [offAccess_dies.rasterised, offAccess_dies.begun, offAccess_dies.tokenOrder]
    exact State.die_of_nextGroup h
  · rw [hbegun]
    rfl

end

/-! ### The oldest draw passes (R152) -/

theorem State.wakeDraws_ctxs (s : State) (cx slot : Nat) : (s.wakeDraws cx slot).ctxs = s.ctxs := rfl

theorem exec_drawAdvance_of {s : State} {cx slot : Nat} {ctx : Context} (hctx : tabGet cx s.ctxs = some ctx) (hdone : s.drawDone cx slot = true) :
    ∃ t, exec (.drawAdvance cx slot) s = .next t ∧ t.mem = s.mem ∧ (tabGet cx t.ctxs).map (fun c => c.frameSlot slot)
      = some { o := ((ctx.frameSlot slot).o + 1) % 65536, bound := (ctx.frameSlot slot).bound.filter fun b => b.1 != (ctx.frameSlot slot).o } := by
  rw [exec_drawAdvance, execDrawAdvance, if_pos hdone]
  refine ⟨_, rfl, ?_, ?_⟩
  · rw [State.wakeDraws_mem]
    rfl
  · rw [State.wakeDraws_ctxs]
    simp only [State.modCtx, tabGet_tabMod_same, hctx, Option.map_some, Option.getD_some]
    simp [Context.frameSlot]

/-- Settles O47: EMIT and EMITEND by their checks and waits; packets, markers and groups by what their die then holds of the draw. -/
theorem geometry : Obligations.Geometry := by
  unfold Obligations.Geometry
  refine ⟨?_, ?_, fun s cx slot draw to_ ctx => s.drawWaits_iff .., ?_, fun s id p => exec_primitivePacket_of, ?_, ?_, fun s cx slot ctx =>
    exec_drawAdvance_of, fun r d xy k => FrameRec.mem_targets⟩
  -- EMIT.
  · intro s t t1 c g slot a b d k ks l ctx r v i draw va word xy inRange packet hreach hlanes hl hctx hrec gangOk
    have hlanes' : c.accessLanes g (!a.isVec) = k :: ks := by
      rw [← hlanes, Site.accessLanes]
      cases a.isVec <;> rfl
    have hexec := exec_emit_of hreach hlanes' hl hctx rfl hrec
    have hgang : emitAllowed c l ctx r va slot.val draw = true ↔ gangOk := by
      simp [emitAllowed, gangOk, and_assoc]
    have hrange (j : Nat) : emitInRange c a j = true ↔ inRange j := emitInRange_iff
    -- The lane that is found is the first that breaks a limit.
    have hfind : (k :: ks).find? (fun j => !emitAllowed c l ctx r va slot.val draw || !emitInRange c a j) = none
        ↔ gangOk ∧ ∀ j ∈ k :: ks, inRange j := by
      simp only [List.find?_eq_none, Bool.or_eq_true, Bool.not_eq_true', not_or, Bool.not_eq_false, hgang, hrange]
      exact ⟨fun h => ⟨(h k List.mem_cons_self).1, fun j hj => (h j hj).2⟩, fun h j hj => ⟨h.1, h.2 j hj⟩⟩
    refine ⟨fun hbad => ?_, fun hok hall => ?_⟩
    · obtain ⟨j, hj⟩ := Option.ne_none_iff_exists'.1 (mt hfind.1 hbad)
      rw [hj] at hexec
      exact ⟨j, List.mem_of_find?_eq_some hj, hexec⟩
    · rw [hfind.2 ⟨hok, hall⟩] at hexec
      refine ⟨fun hwaits => hexec.trans (if_pos hwaits), fun hgoes => hexec.trans ((if_neg (Bool.eq_false_iff.1 hgoes)).trans ?_)⟩
      cases v <;> rfl
  · intro s t u c g slot a b d k ks e i hreach hlanes hl hctx hrec
    obtain ⟨l, hl⟩ := Option.isSome_iff_exists.1 hl
    obtain ⟨ctx, hctx⟩ := Option.isSome_iff_exists.1 hctx
    refine exec_emit_of_error hreach (ks := ks) ?_ hl hctx rfl hrec
    rw [← hlanes, Site.accessLanes]
    cases a.isVec <;> rfl
  -- EMITEND.
  · intro s t c g slot a l ctx i draw hacts hl hctx ok to_
    have hexec := exec_emitend_of hacts hl hctx rfl
    have hok : emitendAllowed c l ctx slot.val draw = true ↔ ok := by
      simp [emitendAllowed, ok, and_assoc]
    have hto : t.markerDies c slot.val draw = to_ := if_congr Site.closesGroup_iff rfl rfl
    refine ⟨fun hno => hexec.trans (if_pos ?_), fun hyes hwaits => ?_, fun hyes hgoes => ?_⟩
    · simpa using mt hok.1 hno
    · rw [hok.2 hyes] at hexec
      exact hexec.trans (if_pos (hto ▸ hwaits))
    · rw [hok.2 hyes, hto, hgoes] at hexec
      intro u h hh
      have hended := State.groupEnded_iff (slot := slot.val) (draw := draw) hh
      refine ⟨fun hall => ?_, fun ⟨p, hp, hno⟩ => ?_⟩
      · have hsent : u.emitendSent c slot.val draw l = u.sendMarkers c slot.val draw l := if_pos (hended.2 hall)
        rw [Does, ← hsent]
        exact hexec
      · have hsent : u.emitendSent c slot.val draw l = u := if_neg fun h => hno (hended.1 h p hp)
        rw [Does, ← hsent]
        exact hexec
  -- A marker arrives.
  · intro s id m hm hcome hgroup hfirst hdie u
    exact exec_closeMarker_of hm (State.markerBlocked_eq_false_iff.2 hcome) hgroup hfirst hdie
  -- A group is rasterised.
  · intro s die cx slot draw d m clk h
    obtain ⟨r, f, hdraw⟩ := State.drawAt_rasterisedGroup h
    exact ⟨_, exec_rasteriseGroup_of h, _, (Option.bind_assoc ..).symm.trans hdraw, rfl, rfl, rfl⟩

end Sys2Proof.Machine
end

section
/-! Neighbour collectives: which are issued, what each sends, and what its destination receives (R96, R145 to R147, R276, R338 to R342). -/

namespace Sys2Proof.Machine

/-! ### The issue (R338, R339, R341) -/

theorem collBad_iff {c : Site} {im : CollImm} {rootOk : Bool} : collBad c im rootOk = true ↔
    (c.view.tileOf im.ts none).ok c.sh = false ∨ (c.view.tileOf im.td none).ok c.sh = false
    ∨ (c.view.tileOf im.ts none).rows ≠ (c.view.tileOf im.td none).rows ∨ (c.view.tileOf im.ts none).rlen ≠ (c.view.tileOf im.td none).rlen
    ∨ (∃ n ∈ (c.view.tileOf im.ts none).lines, n ∈ (c.view.tileOf im.td none).lines) ∨ rootOk = false := by
  simp only [collBad, Bool.or_eq_true, Bool.not_eq_true', Bool.and_eq_false_iff, decide_eq_true_eq, List.any_eq_true, List.contains_iff_mem, or_assoc]

/-- The collective an instruction enters in its sheet's pending list, under the next number of its key. -/
def State.newColl (t : State) (c : Site) (i : Instr) (im : CollImm) (key : Nat) (op : FoldOp) (root : Nat) : PendColl :=
  { id := t.nextId, bits := BitVec.ofNat 64 ((encode i).getD 0), imm := BitVec.ofNat 32 ((encode i).getD 0 / 18446744073709551616), key := key
    num := (tabGet key c.sh.matches_).getD 0, clock := c.clk, td := c.view.regs.tile im.td.val, ts := c.view.regs.tile im.ts.val, op := op, root := root }

/-- The package with the collective pending and one more transfer inbound on each line of its destination. -/
def State.collIssued (t : State) (c : Site) (im : CollImm) (p : PendColl) : State :=
  (({ t.modSheet c.sid (fun h =>
    let h := (c.view.tileOf im.td none).lines.foldl (fun (h : Sheet) n =>
      h.putLine n { h.line n with present := false, inbound := (h.line n).inbound + 1, coll := (h.line n).coll + 1 }) h
    { h with matches_ := tabPut p.key (p.num + 1) h.matches_, pend := h.pend ++ [p] }) with nextId := t.nextId + 1 }).pinDown c.sid).noAudit c.sid

section
variable {s t : State} {c : Site} {i : Instr} {g : Guard} {im : CollImm} {key : Nat} {op : FoldOp} {root : Site → Nat} {members : Launch → Nat → Nat}
  {l : Launch} (h : ActsOn i g s t c) (hl : tabGet c.sh.launch t.launches = some l)
include h hl

theorem collective_of_bad (hbad : collBad c im (root c < members l c.sh.index) = true) :
    collective i g im key op root members s = .next (t.raise c i (Trap.illegal 2)) := by
  rw [collective, enterMemGang_of h]
  simp only [hl, hbad, if_true]

theorem collective_of (hok : collBad c im (root c < members l c.sh.index) = false) (hs : c.hasLines (c.view.tileOf im.ts none).lines = true)
    (hd : c.sh.linesOwned false (c.view.tileOf im.td none).lines = true) :
    collective i g im key op root members s = .next ((t.collIssued c im (t.newColl c i im key op (root c))).finish c i) := by
  rw [collective, enterMemGang_of h]
  simp only [hl, hok, hs, hd, Bool.not_true, Bool.false_eq_true, if_false]
  rfl

end

/-! ### What a pending collective does next (R145, R147, R341, R342) -/

section
variable {s : State} {id sid cl : Nat} {h : Sheet} {l : Launch} {p : PendColl}

/-- The collectives of a key that were issued before one and are not complete. -/
def Sheet.collsBefore (h : Sheet) (id key : Nat) : List PendColl := (h.pend.takeWhile fun q => q.id ≠ id).filter fun q => q.key = key
/-- The messages a collective has from its sources. -/
def State.collMsgs (s : State) (l : Launch) (h : Sheet) (p : PendColl) : List (Option CollMsg) :=
  (collSources l h.index p.key).map fun k => s.collMsg h.launch k p.key p.num
/-- Whether a source that has not sent is gone. -/
def State.collDead (s : State) (l : Launch) (h : Sheet) (p : PendColl) : Bool :=
  ((collSources l h.index p.key).zip (s.collMsgs l h p)).any fun x => x.2.isNone && l.gone.contains x.1

theorem State.collStep_of (hp : s.pending id = some (sid, h, p)) (hcl : h.home = .on cl) (hl : tabGet h.launch s.launches = some l) :
    s.collStep id = if (h.collsBefore id p.key).any fun q => p.sent || !q.sent then none
      else if !p.sent then some (s.sendColl sid p)
      else if (s.collMsgs l h p).all Option.isSome then some (s.finishColl sid p ((s.collMsgs l h p).filterMap fun m => m))
      else if s.collDead l h p then some (s.killColl sid p)
      else none := by
  have hcluster : h.cluster? = some cl := by rw [Sheet.cluster?, hcl]
  have hbefore : (h.pend.takeWhile fun q => q.id != id).any (fun q => q.key == p.key && (p.sent || !q.sent))
      = (h.collsBefore id p.key).any fun q => p.sent || !q.sent := by
    simp only [Sheet.collsBefore, List.any_filter, decide_not]
    rfl
  rw [State.collStep, hp]
  simp only [hcluster, hl, hbefore]
  rfl

theorem exec_collectiveCompletion_of {t : State} (hp : s.pending id = some (sid, h, p)) (hstep : s.collStep id = some t) :
    exec (.collectiveCompletion id) s = .next (if timeEnd ≤ s.collTime id then t.exhaust h.ctx else t).reap := by
  rw [exec_collectiveCompletion, execCollectiveCompletion, hp, hstep]

theorem exec_collectiveCompletion_of_none (hstep : s.collStep id = none) : exec (.collectiveCompletion id) s = .fault .notEnabled := by
  rw [exec_collectiveCompletion, execCollectiveCompletion, hstep]

end

/-! ### A row of the destination (R276, R340) -/

theorem getElem?_pad (bs : List Byte) {k n : Nat} (h : k < n) : ((bs ++ List.replicate n 0).take n)[k]? = some (bs.getD k 0) := by
  rw [List.getElem?_take_of_lt h, List.getElem?_append]
  split
  · next hk => rw [List.getElem?_eq_getElem hk, List.getD_eq_getElem _ _ hk]
  · next hk => rw [List.getD_eq_default _ _ (not_lt.1 hk), List.getElem?_replicate, if_pos (by omega)]

/-- The word of a member's row that takes part in a fold: the identity where the row is smaller. -/
def foldWord (op : FoldOp) (k : Nat) (bs : List Byte) : Word :=
  if 4 * k + 4 ≤ bs.length then ofBits (ofBytesLE ((bs.drop (4 * k)).take 4)) else foldIdentity op
/-- Word `k` of a folded row. -/
def foldedWord (op : FoldOp) (rows : List (List Byte)) (k : Nat) : Word := rows.foldl (fun r bs => foldStep op r (foldWord op k bs)) (foldIdentity op)

section
variable {p : PendColl} {rows : List (List Byte)} {n : Nat}

theorem collRow_of_exchange (h : p.key < 4) : collRow p rows n = (rows.headD [] ++ List.replicate n 0).take n := if_pos h

theorem collRow_of_fold (h : 4 ≤ p.key) (h7 : p.key < 7) : collRow p rows n = (List.range (n / 4)).flatMap fun k => toBytesLE 4 (foldedWord p.op rows k).toNat := by
  rw [collRow, if_neg (not_lt.2 h), if_pos h7]
  rfl

theorem collRow_of_broadcast (h : 7 ≤ p.key) : collRow p rows n = (((rows[p.root]?).getD []) ++ List.replicate n 0).take n := by
  rw [collRow, if_neg (by omega), if_neg (by omega)]

end

theorem length_flatMap_of_length {α : Type} {f : α → List Byte} {w : Nat} (hf : ∀ a, (f a).length = w) (l : List α) : (l.flatMap f).length = l.length * w := by
  simp [List.length_flatMap, hf]

/-- Pieces of one length put together: piece `k` begins at `w * k`. -/
theorem take_drop_flatMap {α : Type} {f : α → List Byte} {w : Nat} (hf : ∀ a, (f a).length = w) {l : List α} {k : Nat} {a : α} (hk : l[k]? = some a) :
    ((l.flatMap f).drop (w * k)).take w = f a := by
  induction l generalizing k with
  | nil => simp at hk
  | cons b l ih =>
    cases k with
    | zero =>
      obtain rfl : b = a := by simpa using hk
      simp [← hf b]
    | succ k =>
      rw [List.flatMap_cons, Nat.mul_succ, Nat.add_comm, ← List.drop_drop, List.drop_left' (hf b)]
      exact ih (by simpa using hk)

theorem length_collRow {p : PendColl} {rows : List (List Byte)} {n : Nat} (h : n % 4 = 0) : (collRow p rows n).length = n := by
  rcases Nat.lt_or_ge p.key 4 with h4 | h4
  · simp [collRow_of_exchange h4]
  · rcases Nat.lt_or_ge p.key 7 with h7 | h7
    · rw [collRow_of_fold h4 h7, length_flatMap_of_length (fun _ => length_toBytesLE ..), List.length_range]
      omega
    · simp [collRow_of_broadcast h7]

theorem ofBytesLE_toBytesLE (n x : Nat) : ofBytesLE (toBytesLE n x) = x % 256 ^ n := by
  induction n generalizing x with
  | zero => simp [toBytesLE, ofBytesLE, Nat.mod_one]
  | succ n ih =>
    rw [toBytesLE, ofBytesLE, ih, BitVec.toNat_ofNat, pow_succ' 256, Nat.mod_mul]

theorem fieldAt_collRow {p : PendColl} {rows : List (List Byte)} {n k : Nat} (h : 4 ≤ p.key) (h7 : p.key < 7) (hk : 4 * k + 4 ≤ n) :
    fieldAt (collRow p rows n) (4 * k) 4 = (foldedWord p.op rows k).toNat := by
  have hlt : k < n / 4 := by omega
  rw [fieldAt, collRow_of_fold h h7, take_drop_flatMap (fun _ => length_toBytesLE ..) (List.getElem?_range hlt), ofBytesLE_toBytesLE]
  exact Nat.mod_eq_of_lt (BitVec.isLt _)

/-! ### The times of scratchpad lines (R98, R132) -/

theorem tabGet_eq_none_of_risingFrom {α : Type} {lo k : Nat} {l : List (Nat × α)} (hl : risingFrom lo l = true) (hk : k < lo) : tabGet k l = none := by
  induction l generalizing lo with
  | nil => rfl
  | cons p l ih =>
    obtain ⟨j, v⟩ := p
    simp only [risingFrom, Bool.and_eq_true, decide_eq_true_eq] at hl
    rw [tabGet, if_neg (by omega), ih hl.2 (by omega)]

theorem risingFrom_stPut {β : Type} [DecidableEq β] (d v : β) (k : Nat) {l : Store β} (hl : risingFrom 0 l = true) : risingFrom 0 (stPut d k v l) = true := by
  unfold stPut
  split
  · exact risingFrom_tabDel k hl
  · exact risingFrom_tabPut (Nat.zero_le k) v hl

/-- Every value of a store changed, the store written anew. -/
theorem stGet_foldl_stPut {β : Type} [DecidableEq β] (d : β) (f : β → β) {l : Store β} {lo : Nat} (hl : risingFrom lo l = true) (acc : Store β) (k : Nat) :
    stGet d k (l.foldl (fun m p => stPut d p.1 (f p.2) m) acc) = ((tabGet k l).map f).getD (stGet d k acc) := by
  induction l generalizing lo acc with
  | nil => rfl
  | cons p l ih =>
    obtain ⟨j, v⟩ := p
    simp only [risingFrom, Bool.and_eq_true, decide_eq_true_eq] at hl
    rw [List.foldl_cons, ih hl.2, tabGet]
    by_cases hj : j = k
    · subst hj
      rw [tabGet_eq_none_of_risingFrom hl.2 (Nat.lt_succ_self j), if_pos rfl, stGet_stPut_same]
      rfl
    · rw [if_neg hj, stGet_stPut_ne (Ne.symm hj)]

theorem Sheet.line_putLine (h : Sheet) (n m : Nat) (x : Line) : (h.putLine n x).line m = if m = n then x else h.line m := by
  rw [Sheet.line, Sheet.putLine, stGet_stPut]
  rfl

theorem Sheet.risingFrom_putLine {h : Sheet} (n : Nat) (x : Line) (hr : risingFrom 0 h.lines = true) : risingFrom 0 (h.putLine n x).lines = true :=
  risingFrom_stPut _ _ _ hr

theorem Sheet.risingFrom_raiseEpoch (h : Sheet) (e : Nat) : risingFrom 0 (h.raiseEpoch e).lines = true :=
  List.foldlRecOn (motive := fun m : Store Line => risingFrom 0 m = true) h.lines _ rfl fun _ hm _ _ => risingFrom_stPut _ _ _ hm

/-- A raised epoch changes the stamps alone, and no line's time falls. -/
theorem Sheet.line_raiseEpoch {h : Sheet} {e : Nat} (hr : risingFrom 0 h.lines = true) (he : h.epoch ≤ e) (m : Nat) :
    (h.raiseEpoch e).line m = { h.line m with stamp := h.epoch + (h.line m).stamp - e } := by
  rw [Sheet.line, Sheet.raiseEpoch, stGet_foldl_stPut Line.fresh (fun x => { x with stamp := h.epoch + x.stamp - e }) hr]
  unfold Sheet.line stGet
  cases tabGet m h.lines with
  | some x => rfl
  | none => simpa [tabGet, Line.fresh] using (Nat.sub_eq_zero_of_le he).symm

/-- The time `t` is recorded in line `n`: only lines and epoch change, of the lines only the stamps, and no other line's time falls. -/
structure Sheet.Stamped (n t : Nat) (h h' : Sheet) : Prop where
  frame : h' = { h with epoch := h'.epoch, lines := h'.lines }
  rising : risingFrom 0 h.lines = true → risingFrom 0 h'.lines = true
  line : risingFrom 0 h.lines = true → ∀ m, { h'.line m with stamp := 0 } = { h.line m with stamp := 0 }
  time : t ≤ h'.lineTime n
  later : risingFrom 0 h.lines = true → ∀ m, m ≠ n → h.lineTime m ≤ h'.lineTime m

theorem Sheet.stamped_putLine (h : Sheet) (n t : Nat) : Sheet.Stamped n t h (h.putLine n { h.line n with stamp := t - h.epoch }) where
  frame := rfl
  rising := Sheet.risingFrom_putLine _ _
  line _ m := by
    rw [Sheet.line_putLine]
    split
    · next e => rw [e]
    · rfl
  time := by
    rw [Sheet.lineTime, Sheet.line_putLine, if_pos rfl]
    exact le_add_tsub
  later _ m hm := by
    rw [Sheet.lineTime, Sheet.lineTime, Sheet.line_putLine, if_neg hm]
    exact le_rfl

theorem Sheet.stamped_raiseEpoch (h : Sheet) (n : Nat) {t e : Nat} (he : h.epoch ≤ e) :
    Sheet.Stamped n t h ((h.raiseEpoch e).putLine n { (h.raiseEpoch e).line n with stamp := t - e }) := by
  have hput := Sheet.stamped_putLine (h.raiseEpoch e) n t
  have hrising := h.risingFrom_raiseEpoch e
  refine ⟨rfl, fun _ => hput.rising hrising, fun hr m => ?_, hput.time, fun hr m hm => (hput.later hrising m hm).trans' ?_⟩
  · exact (hput.line hrising m).trans (by rw [Sheet.line_raiseEpoch hr he])
  · rw [Sheet.lineTime, Sheet.lineTime, Sheet.line_raiseEpoch hr he]
    exact le_add_tsub

theorem State.stampLine_stamped {s : State} {sid : Nat} {h : Sheet} (hh : tabGet sid s.sheets = some h) (n t : Nat) :
    ∃ h', tabGet sid (s.stampLine sid n t).sheets = some h' ∧ Sheet.Stamped n t h h' := by
  rw [State.stampLine, hh]
  dsimp only
  split
  · exact ⟨_, by rw [State.modSheet, tabGet_tabMod_same, hh, Option.map_some], h.stamped_putLine n t⟩
  · next hlt =>
    refine ⟨_, by rw [State.modSheet, tabGet_tabMod_same]; exact congrArg (Option.map _) hh, h.stamped_raiseEpoch n ?_⟩
    have := Nat.mod_lt (s.free .epoch) (show 0 < 65536 by omega)
    omega

theorem State.stampLine_msgs (s : State) (sid n t : Nat) : (s.stampLine sid n t).msgs = s.msgs := by
  unfold State.stampLine
  split
  · rfl
  · dsimp only
    split <;> rfl

/-- Lines stamped one after another: only lines and epoch change. -/
theorem State.foldl_stampLine {s : State} {sid : Nat} {h : Sheet} (hh : tabGet sid s.sheets = some h) (ns : List Nat) (t : Nat) :
    ∃ h', tabGet sid (ns.foldl (fun s n => s.stampLine sid n t) s).sheets = some h' ∧ h' = { h with epoch := h'.epoch, lines := h'.lines } := by
  induction ns generalizing s h with
  | nil => exact ⟨h, hh, rfl⟩
  | cons n ns ih =>
    obtain ⟨h1, hh1, hst⟩ := State.stampLine_stamped hh n t
    obtain ⟨h', hh', hframe⟩ := ih hh1
    refine ⟨h', hh', ?_⟩
    rw [hframe, hst.frame]

/-! ### The source is sent (R114, R340, R341) -/

/-- A counter risen by 1 at a time. -/
def Counter.up (x : Counter) (t : Nat) : Counter := { count := x.count + 1, cmax := max x.cmax t }

theorem State.countUp_sheet {s : State} {sid cl : Nat} {h : Sheet} (hh : tabGet sid s.sheets = some h) (hcl : h.home = .on cl) (k t : Nat) :
    tabGet sid (s.countUp sid k t).sheets = some { h with counters := tabPut k (((tabGet k h.counters).getD {}).up t) h.counters } := by
  rw [State.countUp, State.modSheet, tabGet_tabMod_same, hh, Option.map_some, hcl]
  rfl

/-- The end of line waits changes gangs and sequencers alone. -/
theorem State.wakeLines_sheet {s : State} {sid : Nat} {h : Sheet} (hh : tabGet sid s.sheets = some h) :
    ∃ gs m q, tabGet sid (s.wakeLines sid).sheets = some { h with gangs := gs, mseq := m, cseq := q } :=
  ⟨_, _, _, by rw [State.wakeLines, State.modSheet, tabGet_tabMod_same, hh, Option.map_some]⟩

/-- The greatest of a collective's issue clock and the stamps of its source. -/
def PendColl.sendTime (p : PendColl) (h : Sheet) : Nat := max p.clock (maxOf ((Tile.of p.ts 0).lines.map h.lineTime))
/-- A byte of its source: as it stands, or as it was kept when a store came. -/
def PendColl.sourceByte (p : PendColl) (h : Sheet) (a : Nat) : Byte := (tabGet a p.got).getD (h.spadByte a)
/-- What it sends. -/
def PendColl.message (p : PendColl) (h : Sheet) : CollMsg :=
  { launch := h.launch, index := h.index, key := p.key, num := p.num, clk := p.sendTime h
    rows := (List.range ((Tile.of p.ts 0).rows + 1)).map fun r => (List.range (Tile.of p.ts 0).rlen).map fun j =>
      p.sourceByte h ((Tile.of p.ts 0).rowAt r + j) }

theorem PendColl.message_byte {p : PendColl} {h : Sheet} {r j : Nat} (hr : r ≤ (Tile.of p.ts 0).rows) (hj : j < (Tile.of p.ts 0).rlen) :
    (((p.message h).rows[r]?).bind fun row => row[j]?) = some (p.sourceByte h ((Tile.of p.ts 0).rowAt r + j)) := by
  simp [PendColl.message, List.getElem?_range (Nat.lt_succ_of_le hr), List.getElem?_range hj]

/-- A lost word of the source is a loss of the sheet's state (R430, R434). -/
def State.sourceLost (s : State) (sid : Nat) (p : PendColl) (h : Sheet) : State :=
  if (List.range ((Tile.of p.ts 0).rows + 1)).any (fun r => h.lostSpan ((Tile.of p.ts 0).rowAt r) (Tile.of p.ts 0).rlen) && h.loss.isNone && h.killed.isNone then
    s.modSheet sid fun h => { h with loss := some none }
  else s
/-- The source read, and the message on its way. -/
def State.collSent (s : State) (sid : Nat) (p : PendColl) (h : Sheet) : State :=
  let t := (Tile.of p.ts 0).lines.foldl (fun s n => s.stampLine sid n (p.sendTime h)) (s.sourceLost sid p h)
  { t with msgs := t.msgs ++ [p.message h] }.modPend sid p.id fun p => { p with sent := true }

theorem State.collSent_msgs (s : State) (sid : Nat) (p : PendColl) (h : Sheet) : (s.collSent sid p h).msgs = s.msgs ++ [p.message h] := by
  have hlost : (s.sourceLost sid p h).msgs = s.msgs := by
    unfold State.sourceLost
    split <;> rfl
  exact congrArg (· ++ [p.message h]) ((foldl_keeps (π := State.msgs) (fun u n => u.stampLine_msgs ..) _ _).trans hlost)

section
variable {s : State} {sid cl : Nat} {h : Sheet} {p : PendColl} (hh : tabGet sid s.sheets = some h)
include hh

theorem State.sendColl_of : s.sendColl sid p = (if p.imm.toNat.testBit 9 then
    (s.collSent sid p h).countUp sid (bitsOf p.imm.toNat 6 3) (p.sendTime h + 1) else s.collSent sid p h).wakeLines sid := by
  rw [State.sendColl, hh]
  rfl

/-- The sheet then: the collective has sent, and besides it only lines, epoch and the mark of a loss differ. -/
theorem State.collSent_sheet : ∃ h', tabGet sid (s.collSent sid p h).sheets = some h' ∧ h'.home = h.home ∧ h'.counters = h.counters
    ∧ h'.pend = h.pend.map fun q => if q.id == p.id then { q with sent := true } else q := by
  obtain ⟨loss, hlost⟩ : ∃ loss, tabGet sid (s.sourceLost sid p h).sheets = some { h with loss := loss } := by
    unfold State.sourceLost
    split
    · exact ⟨_, by rw [State.modSheet, tabGet_tabMod_same, hh, Option.map_some]⟩
    · exact ⟨_, hh⟩
  obtain ⟨h', hh', hframe⟩ := State.foldl_stampLine hlost (Tile.of p.ts 0).lines (p.sendTime h)
  refine ⟨_, by rw [State.collSent, State.modPend, State.modSheet, tabGet_tabMod_same]; exact congrArg (Option.map _) hh', ?_⟩
  rw [hframe]
  exact ⟨rfl, rfl, rfl⟩

end

/-! ### The destination is written (R96, R340) -/

theorem stGet_stPutList {β : Type} [DecidableEq β] (d : β) (k : Nat) (vs : List β) (l : Store β) (a : Nat) :
    stGet d a (stPutList d k vs l) = if k ≤ a then (vs[a - k]?).getD (stGet d a l) else stGet d a l := by
  induction vs generalizing k l with
  | nil => simp [stPutList]
  | cons v vs ih =>
    rw [stPutList, ih]
    rcases lt_trichotomy a k with h | rfl | h
    · rw [if_neg (by omega), if_neg (by omega), stGet_stPut_ne (by omega)]
    · rw [if_neg (by omega), if_pos le_rfl, stGet_stPut_same, Nat.sub_self]
      rfl
    · rw [if_pos (by omega), if_pos (by omega), stGet_stPut_ne (by omega), show a - k = a - (k + 1) + 1 by omega, List.getElem?_cons_succ]

theorem State.settleCopies_sheets (s : State) (sid a n : Nat) : (s.settleCopies sid a n).sheets = s.sheets := by
  unfold State.settleCopies
  split
  · rfl
  · refine foldl_keeps (π := State.sheets) (fun u p => ?_) _ _
    split
    · refine foldl_keeps_fst (π := State.sheets) (fun q e => ?_) _ _
      split <;> rfl
    · rfl

/-- A pending collective before bytes of its sheet change: of the source it has still to send, each element is kept or is not. -/
def collSettled (h : Sheet) (a n : Nat) (q : State × List PendColl) (p : PendColl) : State × List PendColl :=
  if p.sent then (q.1, q.2 ++ [p])
  else
    let ws := ((Tile.of p.ts 0).words a n).filter fun w => (tabGet (4 * w) p.got).isNone
    let x := ws.foldl (fun (q : State × Tab Byte) w =>
      (q.1.drew, if q.1.free .copySource % 2 = 0 then
        (List.range 4).foldl (fun m i => tabPut (4 * w + i) (h.spadByte (4 * w + i)) m) q.2 else q.2)) (q.1, p.got)
    (x.1, q.2 ++ [{ p with got := x.2 }])

theorem collSettled_sheets (h : Sheet) (a n : Nat) (q : State × List PendColl) (p : PendColl) : (collSettled h a n q p).1.sheets = q.1.sheets := by
  unfold collSettled
  split
  · rfl
  · exact foldl_keeps_fst (π := State.sheets) (fun q w => by rfl) _ (q.1, p.got)

theorem State.settleColls_sheet {s : State} {sid : Nat} {h : Sheet} (hh : tabGet sid s.sheets = some h) (a n : Nat) :
    ∃ pend, tabGet sid (s.settleColls sid a n).sheets = some { h with pend := pend } := by
  have hsettle : s.settleColls sid a n = if h.pend.isEmpty then (h.pend.foldl (collSettled h a n) (s, [])).1
      else (h.pend.foldl (collSettled h a n) (s, [])).1.modSheet sid fun x => { x with pend := (h.pend.foldl (collSettled h a n) (s, [])).2 } := by
    rw [State.settleColls, hh]
    rfl
  have hfold : tabGet sid (h.pend.foldl (collSettled h a n) (s, [])).1.sheets = some h := by
    rw [foldl_keeps_fst (π := State.sheets) (collSettled_sheets h a n), hh]
  rw [hsettle]
  split
  · exact ⟨_, hfold⟩
  · exact ⟨_, by rw [State.modSheet, tabGet_tabMod_same, hfold, Option.map_some]⟩

/-- A write of scratchpad bytes: besides them only the pending collectives' bytes and the marks of lost words differ. -/
theorem State.writeSpad_sheet {s : State} {sid : Nat} {h : Sheet} (hh : tabGet sid s.sheets = some h) (a : Nat) (bs : List Byte) :
    ∃ pend bad, tabGet sid (s.writeSpad sid a bs).sheets = some { h with pend := pend, bad := bad, spad := stPutList 0 a bs h.spad } := by
  obtain ⟨pend, hcolls⟩ := State.settleColls_sheet (s := s.settleCopies sid a bs.length) (sid := sid) (h := h)
    (by rw [State.settleCopies_sheets, hh]) a bs.length
  exact ⟨_, _, by rw [State.writeSpad, State.modSheet, tabGet_tabMod_same, hcolls]; rfl⟩

/-- Several such writes, one after another. -/
theorem State.foldl_writeSpad_sheet {α : Type} {s : State} {sid : Nat} {h : Sheet} (hh : tabGet sid s.sheets = some h) (at_ : α → Nat)
    (bs : α → List Byte) (l : List α) : ∃ pend bad, tabGet sid (l.foldl (fun s r => s.writeSpad sid (at_ r) (bs r)) s).sheets
      = some { h with pend := pend, bad := bad, spad := l.foldl (fun m r => stPutList 0 (at_ r) (bs r) m) h.spad } := by
  induction l generalizing s h with
  | nil => exact ⟨_, _, hh⟩
  | cons r l ih =>
    obtain ⟨pend, bad, hh1⟩ := State.writeSpad_sheet hh (at_ r) (bs r)
    exact ih hh1

/-- A byte none of them writes is as before. -/
theorem stGet_foldl_stPutList_outside {α : Type} {at_ : α → Nat} {bs : α → List Byte} {l : List α} {a : Nat}
    (h : ∀ r ∈ l, ¬(at_ r ≤ a ∧ a < at_ r + (bs r).length)) (m : Store Byte) :
    stGet 0 a (l.foldl (fun m r => stPutList 0 (at_ r) (bs r) m) m) = stGet 0 a m := by
  refine List.foldlRecOn (motive := fun x => stGet 0 a x = stGet 0 a m) l _ rfl fun x hx r hr => ?_
  rw [stGet_stPutList, hx]
  split
  · rw [List.getElem?_eq_none (by have := h r hr; omega)]
    rfl
  · rfl

/-- A byte that one of them alone writes is that one's. -/
theorem stGet_foldl_stPutList_inside {α : Type} {at_ : α → Nat} {bs : α → List Byte} {l : List α} {r : α} {j : Nat} {b : Byte} (hr : r ∈ l)
    (hj : (bs r)[j]? = some b) (hone : ∀ q ∈ l, at_ q ≤ at_ r + j → at_ r + j < at_ q + (bs q).length → q = r) (m : Store Byte) :
    stGet 0 (at_ r + j) (l.foldl (fun m r => stPutList 0 (at_ r) (bs r) m) m) = b := by
  obtain ⟨pre, post, rfl⟩ := List.append_of_mem hr
  have hwrites (x : Store Byte) : stGet 0 (at_ r + j) (stPutList 0 (at_ r) (bs r) x) = b := by
    rw [stGet_stPutList, if_pos (Nat.le_add_right ..), Nat.add_sub_cancel_left, hj]
    rfl
  rw [List.foldl_append, List.foldl_cons]
  refine List.foldlRecOn (motive := fun x => stGet 0 (at_ r + j) x = b) post _ (hwrites _) fun x hx q hq => ?_
  by_cases hspan : at_ q ≤ at_ r + j ∧ at_ r + j < at_ q + (bs q).length
  · rw [hone q (by simp [hq]) hspan.1 hspan.2]
    exact hwrites x
  · rw [stGet_stPutList, hx]
    split
    · rw [List.getElem?_eq_none (by omega)]
      rfl
    · rfl

/-! ### The lines of the destination (R96, R132) -/

/-- One line of the destination: an inbound transfer fewer, and stamped at `t` or at its own later time. -/
def State.lineFilled (sid t : Nat) (s : State) (n : Nat) : State :=
  let s := s.modSheet sid fun h => h.putLine n { (h.line n).arrived false with coll := ((h.line n).arrived false).coll - 1 }
  s.stampLine sid n (max t (((tabGet sid s.sheets).map (·.lineTime n)).getD 0))

/-- `h'` is `h` with the lines of a list filled at `t`. -/
structure Sheet.Filled (ls : List Nat) (t : Nat) (h h' : Sheet) : Prop where
  spad : h'.spad = h.spad
  rising : risingFrom 0 h'.lines = true
  filled : ∀ n ∈ ls, (h'.line n).inbound = (h.line n).inbound - 1 ∧ ((h'.line n).present = true ↔ (h.line n).inbound ≤ 1) ∧ t ≤ h'.lineTime n
  other : ∀ n, n ∉ ls → (h'.line n).inbound = (h.line n).inbound ∧ (h'.line n).present = (h.line n).present
  later : ∀ n, h.lineTime n ≤ h'.lineTime n

theorem State.lineFilled_filled {s : State} {sid : Nat} {h : Sheet} (hh : tabGet sid s.sheets = some h) (hr : risingFrom 0 h.lines = true) (t n : Nat) :
    ∃ h', tabGet sid (s.lineFilled sid t n).sheets = some h' ∧ Sheet.Filled [n] t h h' := by
  have hput : tabGet sid (s.modSheet sid fun h => h.putLine n { (h.line n).arrived false with coll := ((h.line n).arrived false).coll - 1 }).sheets
      = some (h.putLine n { (h.line n).arrived false with coll := ((h.line n).arrived false).coll - 1 }) := by
    rw [State.modSheet, tabGet_tabMod_same, hh, Option.map_some]
  have hrising := Sheet.risingFrom_putLine n { (h.line n).arrived false with coll := ((h.line n).arrived false).coll - 1 } hr
  have hline (m : Nat) := h.line_putLine n m { (h.line n).arrived false with coll := ((h.line n).arrived false).coll - 1 }
  have htime (m : Nat) : (h.putLine n { (h.line n).arrived false with coll := ((h.line n).arrived false).coll - 1 }).lineTime m = h.lineTime m := by
    rw [Sheet.lineTime, hline]
    split
    · next e => rw [e]; rfl
    · rfl
  obtain ⟨h', hh', hst⟩ := State.stampLine_stamped hput n (max t (h.lineTime n))
  have hsame (m : Nat) := hst.line hrising m
  refine ⟨h', ?_, ?_, hst.rising hrising, fun m hm => ?_, fun m hm => ?_, fun m => ?_⟩
  · rw [State.lineFilled]
    simp only [hput, Option.map_some, Option.getD_some, htime]
    exact hh'
  · rw [hst.frame]
    rfl
  · obtain rfl := List.mem_singleton.1 hm
    have hm := hsame m
    rw [hline, if_pos rfl] at hm
    obtain ⟨hpresent, -, -, hin, -⟩ := Line.mk.injEq .. |>.mp hm
    refine ⟨hin, ?_, (le_max_left ..).trans hst.time⟩
    rw [hpresent]
    simp [Line.arrived, Nat.sub_eq_zero_iff_le]
  · have hm' := hsame m
    rw [hline, if_neg (List.mem_singleton.not.1 hm)] at hm'
    obtain ⟨hpresent, -, -, hin, -⟩ := Line.mk.injEq .. |>.mp hm'
    exact ⟨hin, hpresent⟩
  · by_cases hm : m = n
    · subst hm
      exact (le_max_right ..).trans hst.time
    · exact (htime m).symm.le.trans (hst.later hrising m hm)

theorem State.foldl_lineFilled {s : State} {sid : Nat} {h : Sheet} (hh : tabGet sid s.sheets = some h) (hr : risingFrom 0 h.lines = true) (t : Nat)
    {ls : List Nat} (hls : ls.Nodup) : ∃ h', tabGet sid (ls.foldl (State.lineFilled sid t) s).sheets = some h' ∧ Sheet.Filled ls t h h' := by
  induction ls generalizing s h with
  | nil => exact ⟨h, hh, rfl, hr, by simp, fun _ _ => ⟨rfl, rfl⟩, fun _ => le_rfl⟩
  | cons n ls ih =>
    obtain ⟨hn, hls⟩ := List.nodup_cons.1 hls
    obtain ⟨h1, hh1, hf1⟩ := State.lineFilled_filled hh hr t n
    obtain ⟨h', hh', hf⟩ := ih hh1 hf1.rising hls
    refine ⟨h', hh', hf.spad.trans hf1.spad, hf.rising, fun m hm => ?_, fun m hm => ?_, fun m => (hf1.later m).trans (hf.later m)⟩
    · rcases List.mem_cons.1 hm with rfl | hm
      · obtain ⟨hin, hpresent, htime⟩ := hf1.filled m List.mem_cons_self
        obtain ⟨hin', hpresent'⟩ := hf.other m hn
        exact ⟨hin'.trans hin, by rw [hpresent', hpresent], htime.trans (hf.later m)⟩
      · obtain ⟨hin, hpresent⟩ := hf1.other m (by rintro h; exact hn (List.mem_singleton.1 h ▸ hm))
        obtain ⟨hin', hpresent', htime⟩ := hf.filled m hm
        rw [hin] at hin' hpresent'
        exact ⟨hin', hpresent', htime⟩
    · obtain ⟨hmn, hm⟩ := not_or.1 (List.mem_cons.not.1 hm)
      obtain ⟨hin, hpresent⟩ := hf1.other m (by simpa using hmn)
      obtain ⟨hin', hpresent'⟩ := hf.other m hm
      exact ⟨hin'.trans hin, hpresent'.trans hpresent⟩

end Sys2Proof.Machine
end

section
/-! Neighbour collectives: a completed destination, and the statement as a whole (R338 to R342). -/

namespace Sys2Proof.Machine

/-! ### The rows of a well-formed tile (R58) -/

theorem Tile.lines_nodup (d : Tile) : d.lines.Nodup := nodup_eraseDups _

theorem Tile.wf_iff {d : Tile} {n : Nat} : d.wf n = true ↔ d.rlen ≠ 0 ∧ d.rlen % 4 = 0 ∧ d.rlen ≤ 4096 ∧ (d.rows = 0 ∨ d.rowLines ≤ d.pitch)
    ∧ d.base + d.rows * d.pitch + d.rowLines ≤ n ∧ d.spare = 0 := by
  simp [Tile.wf, and_assoc]

/-- A row ends before the next begins. -/
theorem Tile.rowAt_add_rlen_le {d : Tile} {n r q : Nat} (hwf : d.wf n = true) (hr : r < q) (hq : q ≤ d.rows) : d.rowAt r + d.rlen ≤ d.rowAt q := by
  obtain ⟨-, -, -, hpitch, -⟩ := Tile.wf_iff.1 hwf
  have hlines : d.rlen ≤ d.rowLines * 128 := by
    rw [Tile.rowLines]
    omega
  have hstep : r * d.pitch + d.pitch ≤ q * d.pitch := by
    rw [← Nat.succ_mul]
    exact Nat.mul_le_mul_right _ hr
  simp only [Tile.rowAt]
  omega

/-- A byte of a row is of no other row. -/
theorem Tile.row_unique {d : Tile} {n r q a : Nat} (hwf : d.wf n = true) (hr : r ≤ d.rows) (hq : q ≤ d.rows)
    (hra : d.rowAt r ≤ a ∧ a < d.rowAt r + d.rlen) (hqa : d.rowAt q ≤ a ∧ a < d.rowAt q + d.rlen) : q = r := by
  rcases lt_trichotomy q r with h | h | h
  · have := Tile.rowAt_add_rlen_le hwf h hr
    omega
  · exact h
  · have := Tile.rowAt_add_rlen_le hwf h hq
    omega

/-! ### A collective completes (R340, R341) -/

/-- The time a collective's destination is written at: above its issue clock and every clock its data carries. -/
def PendColl.doneTime (p : PendColl) (ms : List CollMsg) : Nat := 1 + max p.clock (maxOf (ms.map (·.clk)))
/-- Row `r` of the destination. -/
def PendColl.rowOf (p : PendColl) (ms : List CollMsg) (r : Nat) : List Byte := collRow p (ms.map fun m => (m.rows[r]?).getD []) (Tile.of p.td 0).rlen
/-- The destination's bytes written, and its lines filled. -/
def State.collFilled (s : State) (sid : Nat) (p : PendColl) (ms : List CollMsg) : State :=
  (Tile.of p.td 0).lines.foldl (State.lineFilled sid (p.doneTime ms))
    ((List.range ((Tile.of p.td 0).rows + 1)).foldl (fun s r => s.writeSpad sid ((Tile.of p.td 0).rowAt r) (p.rowOf ms r)) s)

theorem PendColl.clock_lt_doneTime (p : PendColl) (ms : List CollMsg) : p.clock < p.doneTime ms := by
  rw [PendColl.doneTime]
  omega

theorem PendColl.clk_lt_doneTime (p : PendColl) {ms : List CollMsg} {m : CollMsg} (hm : m ∈ ms) : m.clk < p.doneTime ms := by
  have := (maxOf_le_iff (ms.map (·.clk)) _).1 le_rfl m.clk (List.mem_map_of_mem hm)
  rw [PendColl.doneTime]
  omega

theorem State.finishColl_of (s : State) (sid : Nat) (p : PendColl) (ms : List CollMsg) :
    s.finishColl sid p ms = (((s.collFilled sid p ms).dropColl sid p.id).wakeLines sid).rouse sid := rfl

theorem State.rouse_sheets (s : State) (sid : Nat) : (s.rouse sid).sheets = s.sheets := by
  unfold State.rouse
  split <;> rfl

section
variable {s : State} {sid : Nat} {h : Sheet} (hh : tabGet sid s.sheets = some h)
include hh

/-- The sheet a completed collective leaves: its destination's rows written and its destination's lines filled. -/
theorem State.finishColl_sheet (hr : risingFrom 0 h.lines = true) (p : PendColl) (ms : List CollMsg) :
    ∃ h1 h', tabGet sid (s.finishColl sid p ms).sheets = some h' ∧ Sheet.Filled (Tile.of p.td 0).lines (p.doneTime ms) h1 h'
      ∧ h1.lines = h.lines ∧ h1.spad = (List.range ((Tile.of p.td 0).rows + 1)).foldl (fun m r => stPutList 0 ((Tile.of p.td 0).rowAt r) (p.rowOf ms r) m) h.spad := by
  obtain ⟨pend, bad, hspad⟩ := State.foldl_writeSpad_sheet hh (Tile.of p.td 0).rowAt (p.rowOf ms) (List.range ((Tile.of p.td 0).rows + 1))
  obtain ⟨h2, hh2, hfilled⟩ := State.foldl_lineFilled hspad hr (p.doneTime ms) (Tile.of p.td 0).lines_nodup
  have hdrop : tabGet sid ((s.collFilled sid p ms).dropColl sid p.id).sheets = some { h2 with pend := h2.pend.filter (·.id != p.id) } := by
    rw [State.dropColl, State.modSheet, tabGet_tabMod_same]
    exact congrArg (Option.map _) hh2
  obtain ⟨gs, m, q, hwake⟩ := State.wakeLines_sheet hdrop
  have hdone := (congrArg (tabGet sid ·.sheets) (s.finishColl_of sid p ms)).trans
    ((congrArg (tabGet sid) (State.rouse_sheets (((s.collFilled sid p ms).dropColl sid p.id).wakeLines sid) sid)).trans hwake)
  refine ⟨_, _, hdone, ⟨hfilled.spad, hfilled.rising, hfilled.filled, hfilled.other, hfilled.later⟩, rfl, rfl⟩

/-- What a source's sending leaves of its sheet: the collective has sent, and the counter it names has risen. -/
theorem State.sendColl_sheet {cl : Nat} (hcl : h.home = .on cl) (p : PendColl) :
    ∃ h', tabGet sid (s.sendColl sid p).sheets = some h' ∧ (h'.pend = h.pend.map fun q => if q.id == p.id then { q with sent := true } else q)
      ∧ h'.counters = if p.imm.toNat.testBit 9 then tabPut (bitsOf p.imm.toNat 6 3)
        (((tabGet (bitsOf p.imm.toNat 6 3) h.counters).getD {}).up (p.sendTime h + 1)) h.counters else h.counters := by
  obtain ⟨h1, hh1, hhome, hcounters, hpend⟩ := State.collSent_sheet hh (p := p)
  rw [State.sendColl_of hh]
  split
  · obtain ⟨gs, m, q, hwake⟩ := State.wakeLines_sheet (State.countUp_sheet hh1 (hhome.trans hcl) (bitsOf p.imm.toNat 6 3) (p.sendTime h + 1))
    exact ⟨_, hwake, hpend, by rw [hcounters]⟩
  · obtain ⟨gs, m, q, hwake⟩ := State.wakeLines_sheet hh1
    exact ⟨_, hwake, hpend, hcounters⟩

theorem State.sendColl_msgs (p : PendColl) : (s.sendColl sid p).msgs = s.msgs ++ [p.message h] := by
  rw [State.sendColl_of hh]
  refine Eq.trans ?_ (s.collSent_msgs sid p h)
  split <;> rfl

end

/-- A byte of a completed destination. -/
theorem PendColl.destination_byte {p : PendColl} {ms : List CollMsg} {n r j : Nat} (hwf : (Tile.of p.td 0).wf n = true) (hr : r ≤ (Tile.of p.td 0).rows)
    (hj : j < (Tile.of p.td 0).rlen) (m : Store Byte) :
    some (stGet 0 ((Tile.of p.td 0).rowAt r + j) ((List.range ((Tile.of p.td 0).rows + 1)).foldl
      (fun m r => stPutList 0 ((Tile.of p.td 0).rowAt r) (p.rowOf ms r) m) m)) = (p.rowOf ms r)[j]? := by
  obtain ⟨-, hmul, -⟩ := Tile.wf_iff.1 hwf
  have hlen (q : Nat) : (p.rowOf ms q).length = (Tile.of p.td 0).rlen := length_collRow hmul
  have hb : (p.rowOf ms r)[j]? = some ((p.rowOf ms r)[j]'(by rw [hlen]; exact hj)) := List.getElem?_eq_getElem _
  rw [stGet_foldl_stPutList_inside (List.mem_range.2 (Nat.lt_succ_of_le hr)) hb fun q hq hlo hhi => ?_, hb]
  exact Tile.row_unique hwf hr (Nat.le_of_lt_succ (List.mem_range.1 hq)) ⟨Nat.le_add_right .., by omega⟩ ⟨hlo, by rw [← hlen q]; exact hhi⟩

/-- A byte outside the destination. -/
theorem PendColl.outside_byte {p : PendColl} {ms : List CollMsg} {n a : Nat} (hwf : (Tile.of p.td 0).wf n = true)
    (ha : ∀ r ≤ (Tile.of p.td 0).rows, ∀ j < (Tile.of p.td 0).rlen, a ≠ (Tile.of p.td 0).rowAt r + j) (m : Store Byte) :
    stGet 0 a ((List.range ((Tile.of p.td 0).rows + 1)).foldl (fun m r => stPutList 0 ((Tile.of p.td 0).rowAt r) (p.rowOf ms r) m) m) = stGet 0 a m := by
  obtain ⟨-, hmul, -⟩ := Tile.wf_iff.1 hwf
  refine stGet_foldl_stPutList_outside (fun r hr hspan => ?_) m
  have hlen : (p.rowOf ms r).length = (Tile.of p.td 0).rlen := length_collRow hmul
  exact ha r (Nat.le_of_lt_succ (List.mem_range.1 hr)) (a - (Tile.of p.td 0).rowAt r) (by omega) (by omega)

/-! ### The issue of each instruction (R338, R339) -/

section
variable {s t : State} {c : Site} {i : Instr} {g : Guard} {im : CollImm} {key : Nat} {op : FoldOp} {root : Site → Nat} {members : Launch → Nat → Nat}
  {l : Launch} {rootOk : Prop}

/-- Why R338 finds a collective malformed. -/
def CollMalformed (c : Site) (im : CollImm) (rootOk : Prop) : Prop :=
  (c.view.tileOf im.ts none).ok c.sh = false ∨ (c.view.tileOf im.td none).ok c.sh = false
    ∨ (c.view.tileOf im.ts none).rows ≠ (c.view.tileOf im.td none).rows ∨ (c.view.tileOf im.ts none).rlen ≠ (c.view.tileOf im.td none).rlen
    ∨ (∃ n ∈ (c.view.tileOf im.ts none).lines, n ∈ (c.view.tileOf im.td none).lines) ∨ ¬rootOk

theorem collBad_eq_true_iff (hroot : root c < members l c.sh.index ↔ rootOk) :
    collBad c im (root c < members l c.sh.index) = true ↔ CollMalformed c im rootOk := by
  rw [collBad_iff, decide_eq_false_iff_not, hroot]
  rfl

/-- A collective of its own key, root and number of members: the trap of one malformed, the issue of one ready. -/
theorem collective_issue (hexec : exec i s = collective i g im key op root members s) (h : ActsOn i g s t c) (hl : tabGet c.sh.launch t.launches = some l)
    (hroot : root c < members l c.sh.index ↔ rootOk) :
    (CollMalformed c im rootOk → Raises i s t c (Trap.illegal 2))
    ∧ (¬CollMalformed c im rootOk → c.hasLines (c.view.tileOf im.ts none).lines = true ∧ c.sh.linesOwned false (c.view.tileOf im.td none).lines = true →
      Does i s (t.collIssued c im (t.newColl c i im key op (root c))) c) := by
  refine ⟨fun hbad => ?_, fun hok hready => ?_⟩
  · rw [Raises, hexec, collective_of_bad h hl ((collBad_eq_true_iff hroot).2 hbad)]
  · have hnot := Bool.eq_false_iff.2 (mt (collBad_eq_true_iff hroot).1 hok)
    rw [Does, hexec, collective_of h hl hnot hready.1 hready.2]

end

section
variable {s t : State} {c : Site} {g : Guard} {im : CollImm} {grp : ShardGroup} {l : Launch} (hl : tabGet c.sh.launch t.launches = some l)
include hl

/-- What `collective_issue` says of one instruction. -/
abbrev CollIssue (i : Instr) (s t : State) (c : Site) (im : CollImm) (rootOk : Prop) (key : Nat) (op : FoldOp) (root : Nat) : Prop :=
  (CollMalformed c im rootOk → Raises i s t c (Trap.illegal 2))
    ∧ (¬CollMalformed c im rootOk → c.hasLines (c.view.tileOf im.ts none).lines = true ∧ c.sh.linesOwned false (c.view.tileOf im.td none).lines = true →
      Does i s (t.collIssued c im (t.newColl c i im key op root)) c)

theorem nxch_issue {dir : Compass} (h : ActsOn (.nxch g dir im) g s t c) : CollIssue (.nxch g dir im) s t c im True (compassKey dir) .and 0 :=
  collective_issue (root := fun _ => 0) (members := fun _ _ => 1) (exec_nxch g dir im s) h hl (by simp)

theorem nred_issue {op : FoldOp} (h : ActsOn (.nred g (.fold op) grp im) g s t c) :
    CollIssue (.nred g (.fold op) grp im) s t c im True (4 + groupCode grp) op 0 :=
  collective_issue (root := fun _ => 0) (members := fun _ _ => 1) (exec_nred g (.fold op) grp im s) h hl (by simp)

/-- A fold that R276 does not allow is malformed whatever its tiles. -/
theorem nred_broken_issue {sub : Fin 6} {ty : Fin 16} (h : ActsOn (.nred g (.broken sub ty) grp im) g s t c) :
    Raises (.nred g (.broken sub ty) grp im) s t c (Trap.illegal 2) :=
  (collective_issue (root := fun _ => 0) (members := fun _ _ => 0) (rootOk := False) (exec_nred g (.broken sub ty) grp im s) h hl (by simp)).1
    (by simp [CollMalformed])

theorem nbc_issue {root : Fin 64} (h : ActsOn (.nbc g grp root im) g s t c) :
    CollIssue (.nbc g grp root im) s t c im ((c.view.upair root).toNat < (l.group grp c.sh.index).length) (7 + groupCode grp) .and (c.view.upair root).toNat :=
  collective_issue (root := fun c => (c.view.upair root).toNat) (members := fun l k => (l.group grp k).length) (exec_nbc g grp root im s) h hl Iff.rfl

end

/-! ### What the completion does, case by case (R145, R341, R342) -/

theorem not_all_isSome_iff {α : Type} {l : List (Option α)} : ¬l.all Option.isSome = true ↔ ∃ m ∈ l, m = none := by
  simp

theorem State.collDead_iff {s : State} {l : Launch} {h : Sheet} {p : PendColl} : s.collDead l h p = true ↔
    ∃ x ∈ (collSources l h.index p.key).zip (s.collMsgs l h p), x.2 = none ∧ x.1 ∈ l.gone := by
  simp only [State.collDead, List.any_eq_true, Bool.and_eq_true, Option.isNone_iff_eq_none, List.contains_iff_mem]

section
variable {s : State} {id sid cl : Nat} {h : Sheet} {l : Launch} {p : PendColl} (hp : s.pending id = some (sid, h, p)) (hcl : h.home = .on cl)
  (hl : tabGet h.launch s.launches = some l)
include hp hcl hl

theorem State.collStep_of_unsent (hsent : p.sent = false) (hbefore : ∀ q ∈ h.collsBefore id p.key, q.sent = true) :
    s.collStep id = some (s.sendColl sid p) := by
  have hnone : (h.collsBefore id p.key).any (fun q => p.sent || !q.sent) = false := by
    rw [List.any_eq_false]
    intro q hq
    simp [hsent, hbefore q hq]
  rw [State.collStep_of hp hcl hl, hnone, hsent]
  simp

section
variable (hsent : p.sent = true) (hbefore : h.collsBefore id p.key = [])
include hsent hbefore

theorem State.collStep_of_sent : s.collStep id =
    if (s.collMsgs l h p).all Option.isSome then some (s.finishColl sid p ((s.collMsgs l h p).filterMap fun m => m))
    else if s.collDead l h p then some (s.killColl sid p) else none := by
  rw [State.collStep_of hp hcl hl, hbefore, hsent]
  simp

theorem State.collStep_of_arrived (hall : ∀ m ∈ s.collMsgs l h p, m ≠ none) :
    s.collStep id = some (s.finishColl sid p ((s.collMsgs l h p).filterMap fun m => m)) := by
  rw [State.collStep_of_sent hp hcl hl hsent hbefore, if_pos (List.all_eq_true.2 fun m hm => Option.isSome_iff_ne_none.2 (hall m hm))]

theorem State.collStep_of_dead (hdead : ∃ x ∈ (collSources l h.index p.key).zip (s.collMsgs l h p), x.2 = none ∧ x.1 ∈ l.gone) :
    s.collStep id = some (s.killColl sid p) := by
  have hmissing : ¬(s.collMsgs l h p).all Option.isSome = true := by
    obtain ⟨x, hx, hnone, -⟩ := hdead
    exact not_all_isSome_iff.2 ⟨x.2, (List.of_mem_zip hx).2, hnone⟩
  rw [State.collStep_of_sent hp hcl hl hsent hbefore, if_neg hmissing, if_pos (State.collDead_iff.2 hdead)]

theorem State.collStep_of_awaited (hmissing : ∃ m ∈ s.collMsgs l h p, m = none)
    (hlive : ∀ x ∈ (collSources l h.index p.key).zip (s.collMsgs l h p), x.2 = none → x.1 ∉ l.gone) : s.collStep id = none := by
  have hdead : ¬s.collDead l h p = true := fun hd => by
    obtain ⟨x, hx, hnone, hgone⟩ := State.collDead_iff.1 hd
    exact hlive x hx hnone hgone
  rw [State.collStep_of_sent hp hcl hl hsent hbefore, if_neg (not_all_isSome_iff.2 hmissing), if_neg hdead]

end

/-- One of its key issued before it has not sent, or is not complete when it has sent itself. -/
theorem State.collStep_of_held (hheld : ∃ q ∈ h.collsBefore id p.key, p.sent = true ∨ q.sent = false) : s.collStep id = none := by
  rw [State.collStep_of hp hcl hl, if_pos (by simpa using hheld)]

end

/-! ### The statement -/

/-- Settles O46: the issue and the completion by cases, and the destination's bytes from the rows written, which are disjoint. -/
theorem collectives : Obligations.Collectives := by
  unfold Obligations.Collectives
  refine ⟨fun s t c g im dir op grp root l => ?_, fun s id sid cl h l p hp hcl hl => ?_, fun s sid n h p hh hcl => ?_,
    fun s sid n h p ms hh hr => ?_, fun p rows n k hk => ?_, fun p rows n k h4 h7 hn hk => ?_⟩
  · intro ts td bad goes ready rootNo hl
    refine ⟨fun h => ?_, fun h => ?_, fun sub ty h => ?_, fun h => ?_⟩
    · exact nxch_issue hl h
    · exact nred_issue hl h
    · exact nred_broken_issue hl h
    · have hissue := nbc_issue hl h
      exact hissue
  · refine ⟨fun hsent hbefore => ?_, fun hsent hbefore hall => ?_, fun hsent hbefore hdead => ?_, ?_⟩
    · exact exec_collectiveCompletion_of hp (State.collStep_of_unsent hp hcl hl hsent hbefore)
    · exact exec_collectiveCompletion_of hp (State.collStep_of_arrived hp hcl hl hsent hbefore hall)
    · exact exec_collectiveCompletion_of hp (State.collStep_of_dead hp hcl hl hsent hbefore hdead)
    · rintro (⟨q, hq, hunsent⟩ | ⟨hsent, hbefore | ⟨hmissing, hlive⟩⟩)
      · exact exec_collectiveCompletion_of_none (State.collStep_of_held hp hcl hl ⟨q, hq, .inr hunsent⟩)
      · obtain ⟨q, hq⟩ := List.exists_mem_of_ne_nil _ hbefore
        exact exec_collectiveCompletion_of_none (State.collStep_of_held hp hcl hl ⟨q, hq, .inl hsent⟩)
      · by_cases hbefore : h.collsBefore id p.key = []
        · exact exec_collectiveCompletion_of_none (State.collStep_of_awaited hp hcl hl hsent hbefore hmissing hlive)
        · obtain ⟨q, hq⟩ := List.exists_mem_of_ne_nil _ hbefore
          exact exec_collectiveCompletion_of_none (State.collStep_of_held hp hcl hl ⟨q, hq, .inl hsent⟩)
  · obtain ⟨h', hh', hpend, hcounters⟩ := State.sendColl_sheet hh hcl p
    refine ⟨p.message h, h', State.sendColl_msgs hh p, rfl, rfl, rfl, rfl, rfl, fun r hr j hj => PendColl.message_byte hr hj, hh', ?_, fun hcen => ?_, fun hcen => ?_⟩
    · rw [hpend]
      simp only [List.mem_map]
      rintro q ⟨q', -, rfl⟩ hid
      split at hid <;> simp_all
    · rw [hcounters, hcen]
      rfl
    · rw [hcounters, if_pos hcen]
      exact tabGet_tabPut_same ..
  · intro td hwf
    obtain ⟨h1, h', hh', hfilled, hlines, hspad⟩ := State.finishColl_sheet hh hr p ms
    have hline (x : Nat) : h1.line x = h.line x := by rw [Sheet.line, Sheet.line, hlines]
    refine ⟨h', hh', fun r hr j hj => ?_, fun a ha => ?_, fun x hx => ?_⟩
    · rw [Sheet.spadByte, hfilled.spad, hspad]
      exact PendColl.destination_byte hwf hr hj h.spad
    · rw [Sheet.spadByte, hfilled.spad, hspad]
      exact PendColl.outside_byte hwf ha h.spad
    · obtain ⟨hin, hpresent, htime⟩ := hfilled.filled x hx
      rw [hline] at hin hpresent
      exact ⟨hin, hpresent, (p.clock_lt_doneTime ms).trans_le htime, fun m hm => (p.clk_lt_doneTime hm).trans_le htime⟩
  · refine ⟨fun h4 => ?_, fun h7 => ?_⟩
    · rw [collRow_of_exchange h4, getElem?_pad _ hk]
    · rw [collRow_of_broadcast h7, getElem?_pad _ hk]
  · exact ⟨length_collRow hn, fieldAt_collRow h4 h7 hk⟩

end Sys2Proof.Machine
end

section
/-! The arithmetic of codes is the exact operation on their values, rounded once (R65, R68 to R72, R251): sums, products, quotients and
fused products of two or three codes, and an integer put into a format. -/

namespace Sys2Proof.Machine

/-! ### A code as an exact value (R65) -/

/-- The number that a sign and `m` units of `2 ^ e` stand for. -/
def unitsVal (neg : Bool) (m : Nat) (e : Int) : Rat := (if neg then -(m : Rat) else m) * 2 ^ e

theorem unitsVal_eq_zero_iff {neg : Bool} {m : Nat} {e : Int} : unitsVal neg m e = 0 ↔ m = 0 := by
  have hU : (2 : Rat) ^ e ≠ 0 := by positivity
  cases neg <;> simp [unitsVal, hU]

theorem unitsVal_mul (n1 n2 : Bool) (m1 m2 : Nat) (e1 e2 : Int) :
    unitsVal n1 m1 e1 * unitsVal n2 m2 e2 = unitsVal (n1 != n2) (m1 * m2) (e1 + e2) := by
  unfold unitsVal
  rw [zpow_add₀ two_ne_zero]
  cases n1 <;> cases n2 <;> push_cast <;> simp <;> ring

/-- What a code reads as: its class, its sign and, for a finite one, its value in units. -/
inductive Fmt.Reads (f : Fmt) (w : Nat) : FVal → Prop
  | nan : f.isNan w → f.Reads w .nan
  | inf : f.isInf w → f.Reads w (.inf (decide (f.neg w)))
  | fin {m : Nat} {e : Int} : f.isFin w → f.val w = unitsVal (decide (f.neg w)) m e → (m = 0 ↔ f.isZero w) → f.Reads w (.fin (decide (f.neg w)) m e)

/-- A code of the format: its fields fill it. -/
def Fmt.Code (f : Fmt) (w : Nat) : Prop := w < 2 * f.signBit

theorem Fmt.signBit_pos (f : Fmt) : 0 < f.signBit := Nat.two_pow_pos _

theorem Fmt.infBits_lt_signBit (f : Fmt) : f.infBits < f.signBit := by
  rw [Fmt.infBits, Fmt.signBit, pow_add]
  exact Nat.mul_lt_mul_of_pos_right (Nat.sub_lt (Nat.two_pow_pos _) one_pos) (Nat.two_pow_pos _)

section
variable {f : Fmt} {w : Nat} (hw : f.Code w)
include hw

theorem Fmt.Code.div_signBit : w / f.signBit % 2 = if f.neg w then 1 else 0 := by
  rw [Fmt.Code] at hw
  split
  · next h => rw [Nat.div_eq_of_lt_le (k := 1) (by omega) (by omega)]
  · next h => rw [Nat.div_eq_of_lt (not_le.1 h)]

/-- A code is its sign and its magnitude. -/
theorem Fmt.Code.eq_withSign : w = f.withSign (decide (f.neg w)) (f.abs w) := by
  rw [Fmt.withSign, Fmt.abs]
  rw [Fmt.Code] at hw
  by_cases h : f.neg w
  · rw [if_pos (decide_eq_true h), Nat.mod_eq_sub_mod h, Nat.mod_eq_of_lt (by omega)]
    exact (Nat.sub_add_cancel h).symm
  · rw [if_neg (by simpa using h), Nat.mod_eq_of_lt (not_le.1 h), Nat.add_zero]

theorem Fmt.Code.eq_iff {v : Nat} (hv : f.Code v) : w = v ↔ (f.neg w ↔ f.neg v) ∧ f.abs w = f.abs v := by
  refine ⟨by rintro rfl; simp, fun ⟨hneg, habs⟩ => ?_⟩
  rw [hw.eq_withSign, hv.eq_withSign, habs, decide_eq_decide.2 hneg]

end

/-- A code's magnitude is its exponent field and its mantissa field. -/
theorem Fmt.abs_eq_fields (f : Fmt) (w : Nat) : f.abs w = w / 2 ^ f.p % 2 ^ f.e * 2 ^ f.p + w % 2 ^ f.p := by
  rw [Fmt.abs, Fmt.signBit, Nat.add_comm f.e, pow_add, Nat.mod_mul]
  ring

theorem Fmt.mag_subnormal (f : Fmt) {m : Nat} (hm : m < 2 ^ f.p) : f.mag m = m * 2 ^ f.low := by
  rw [f.mag_eq, if_pos hm]

theorem Fmt.mag_normal (f : Fmt) {q m : Nat} (hq : 0 < q) (hm : m < 2 ^ f.p) : f.mag (q * 2 ^ f.p + m) = (2 ^ f.p + m : Nat) * 2 ^ (f.low + q - 1) := by
  have h := f.mag_binade (n := q - 1) (j := 2 ^ f.p + m) (by rw [pow_succ]; omega) (.inr (Nat.le_add_right ..))
  have hsum : (q - 1) * 2 ^ f.p + (2 ^ f.p + m) = q * 2 ^ f.p + m := by
    obtain ⟨q, rfl⟩ := Nat.exists_eq_add_of_le' hq
    rw [Nat.add_sub_cancel]
    ring
  rw [hsum] at h
  rw [h]
  congr 2
  omega

theorem Fmt.val_eq (f : Fmt) {w m : Nat} {e : Int} (h : f.mag (f.abs w) = m * 2 ^ e) : f.val w = unitsVal (decide (f.neg w)) m e := by
  by_cases hneg : f.neg w <;> simp [Fmt.val, unitsVal, hneg, h]

/-- Reading a code. -/
theorem Fmt.reads_read {f : Fmt} {w : Nat} (hw : f.Code w) : f.Reads w (f.read w) := by
  have hneg : (w / f.signBit % 2 == 1) = decide (f.neg w) := by
    rw [hw.div_signBit]
    split <;> simp_all
  have habs := f.abs_eq_fields w
  have hm := Nat.mod_lt w (Nat.two_pow_pos f.p)
  have hq := Nat.mod_lt (w / 2 ^ f.p) (Nat.two_pow_pos f.e)
  simp only [Fmt.read, hneg]
  generalize w / 2 ^ f.p % 2 ^ f.e = q at habs hq ⊢
  generalize w % 2 ^ f.p = m at habs hm ⊢
  by_cases htop : q = 2 ^ f.e - 1
  · have hinf : f.abs w = f.infBits + m := by rw [habs, htop, Fmt.infBits]
    rw [if_pos (by simpa using htop)]
    by_cases hm0 : m = 0
    · rw [if_pos (by simpa using hm0)]
      exact .inf (by rw [Fmt.isInf, hinf, hm0, Nat.add_zero])
    · rw [if_neg (by simpa using hm0)]
      exact .nan (by rw [Fmt.isNan, hinf]; omega)
  · rw [if_neg (by simpa using htop)]
    have hfin : f.isFin w := by
      have : (q + 1) * 2 ^ f.p ≤ (2 ^ f.e - 1) * 2 ^ f.p := Nat.mul_le_mul_right _ (by omega)
      rw [Nat.succ_mul] at this
      rw [Fmt.isFin, habs, Fmt.infBits]
      omega
    by_cases hq0 : q = 0
    · rw [if_pos (by simpa using hq0)]
      rw [hq0, Nat.zero_mul, Nat.zero_add] at habs
      exact .fin hfin (f.val_eq (by rw [habs, f.mag_subnormal hm])) (by rw [Fmt.isZero, habs])
    · rw [if_neg (by simpa using hq0)]
      have hpos := Nat.two_pow_pos f.p
      refine .fin hfin (f.val_eq ?_) ?_
      · rw [habs, f.mag_normal (Nat.pos_of_ne_zero hq0) hm]
      · have := Nat.mul_pos (Nat.pos_of_ne_zero hq0) hpos
        rw [Fmt.isZero, habs]
        omega

section
variable {f : Fmt} {w : Nat} (hw : f.Code w)
include hw

theorem Fmt.Code.read_of_nan (h : f.isNan w) : f.read w = .nan := by
  have hread := Fmt.reads_read hw
  generalize f.read w = v at hread ⊢
  cases hread with
  | nan => rfl
  | inf h' => exact absurd h' h.ne'
  | fin h' => exact absurd h' h.not_gt

theorem Fmt.Code.read_of_inf (h : f.isInf w) : f.read w = .inf (decide (f.neg w)) := by
  have hread := Fmt.reads_read hw
  generalize f.read w = v at hread ⊢
  cases hread with
  | nan h' => exact absurd h h'.ne'
  | inf => rfl
  | fin h' => exact absurd h h'.ne

theorem Fmt.Code.read_of_fin (h : f.isFin w) :
    ∃ m e, f.read w = .fin (decide (f.neg w)) m e ∧ f.val w = unitsVal (decide (f.neg w)) m e ∧ (m = 0 ↔ f.isZero w) := by
  have hread := Fmt.reads_read hw
  generalize f.read w = v at hread ⊢
  cases hread with
  | nan h' => exact absurd h h'.not_gt
  | inf h' => exact absurd h' h.ne
  | fin _ hval hzero => exact ⟨_, _, rfl, hval, hzero⟩

end

/-! ### The rounding of a value in units (R69) -/

theorem Fmt.code_withSign {f : Fmt} (neg : Bool) {mag : Nat} (h : mag ≤ f.infBits) : f.Code (f.withSign neg mag) := by
  have := f.infBits_lt_signBit
  rw [Fmt.Code, Fmt.withSign]
  split <;> omega

theorem Fmt.overflow_le (f : Fmt) (r : Rnd) (neg : Bool) : f.overflow r neg ≤ f.infBits := by
  cases r <;> cases neg <;> simp [Fmt.overflow]

theorem Fmt.code_round (f : Fmt) (r : Rnd) (neg : Bool) (m : Nat) (e : Int) (sticky : Bool) : f.Code (f.round r neg m e sticky) := by
  have hle (bits : Nat) : (if bits ≥ f.infBits then f.overflow r neg else bits) ≤ f.infBits := by
    split
    · exact f.overflow_le r neg
    · next h => exact (not_le.1 h).le
  unfold Fmt.round
  split
  · exact Fmt.code_withSign neg (Nat.zero_le _)
  · exact Fmt.code_withSign neg (hle _)

theorem Fmt.code_nanBits {f : Fmt} (hp : 0 < f.p) : f.Code f.nanBits := by
  have hlt : 2 ^ (f.p - 1) < 2 ^ f.p := Nat.pow_lt_pow_right one_lt_two (Nat.sub_lt hp one_pos)
  have hsum : f.infBits + 2 ^ f.p = f.signBit := by
    rw [Fmt.infBits, Fmt.signBit, pow_add, ← Nat.succ_mul, Nat.succ_eq_add_one, Nat.sub_add_cancel Nat.one_le_two_pow]
  rw [Fmt.Code, Fmt.nanBits]
  omega

/-- Every written code is one of the format. -/
theorem Fmt.code_write {f : Fmt} (hp : 0 < f.p) (r : Rnd) (v : FVal) : f.Code (f.write r v) := by
  cases v with
  | nan => exact Fmt.code_nanBits hp
  | inf neg => exact Fmt.code_withSign neg le_rfl
  | fin neg m e => exact f.code_round r neg m e false

theorem Fmt.code_div {f : Fmt} (hp : 0 < f.p) (r : Rnd) (a b : Nat) : f.Code (f.div r a b) := by
  have hnan : f.Code f.nanBits := Fmt.code_nanBits hp
  have hinf (neg : Bool) : f.Code (f.withSign neg f.infBits) := Fmt.code_withSign neg le_rfl
  unfold Fmt.div
  split
  · exact hnan
  · exact hnan
  · exact hnan
  · exact hinf _
  · exact Fmt.code_withSign _ (Nat.zero_le _)
  · dsimp only
    split
    · split
      · exact hnan
      · exact hinf _
    · exact f.code_round ..

section
variable {f : Fmt} {r : Rnd} (hp : 0 < f.p) (hinf : 0 < f.infBits)
include hp hinf

/-- The one rounding of a number that stands at `m` units, of either sign. -/
theorem Fmt.round_rounds {neg : Bool} {m : Nat} {e : Int} {sticky : Bool} {v : Rat} (hm : 0 < m) (hst : sticky = true → 2 ^ (f.p + 2) ≤ m)
    (hv : StandsAt m sticky v) : f.Rounds r ((if neg then -v else v) * 2 ^ e) (f.round r neg m e sticky) := by
  have hpos : 0 < v * 2 ^ e := mul_pos ((Nat.cast_pos.2 hm).trans_le hv.1) (by positivity)
  cases neg
  · refine ⟨fun _ => f.round_nearest hp hinf hm hst hv, fun hneg => ?_⟩
    exact absurd hneg hpos.not_gt
  · refine ⟨fun h => ?_, fun _ => ⟨_, f.round_neg r m e sticky, ?_⟩⟩
    · rw [if_pos rfl, neg_mul] at h
      linarith
    · rw [if_pos rfl, neg_mul, neg_neg]
      have := f.round_nearest (r := mirrorMode r) (e := e) hp hinf hm hst hv
      cases r <;> exact this

theorem Fmt.round_units {neg : Bool} {m : Nat} {e : Int} (hm : m ≠ 0) : f.Rounds r (unitsVal neg m e) (f.round r neg m e false) :=
  f.round_rounds hp hinf (Nat.pos_of_ne_zero hm) (by simp) ⟨le_rfl, lt_add_one _, by simp⟩

/-- An integer put into a format (R72). -/
theorem Fmt.ofInt_spec (n : Int) : f.OfInt r n (f.ofInt r n) := by
  refine ⟨?_, fun hn => ?_⟩
  · rintro rfl
    exact f.round_zero r false 0
  · have hval : unitsVal (decide (n < 0)) n.natAbs 0 = n := by
      rw [unitsVal, zpow_zero, mul_one, Nat.cast_natAbs]
      by_cases h : n < 0
      · rw [if_pos (decide_eq_true h), abs_of_neg h]
        push_cast
        ring
      · rw [if_neg (by simpa using h), abs_of_nonneg (not_lt.1 h)]
    have := f.round_units (r := r) (neg := decide (n < 0)) (e := 0) hp hinf (Int.natAbs_ne_zero.2 hn)
    rwa [hval] at this

end

/-! ### The exact operations (R70) -/

theorem scaled_mul {e lo : Int} (h : lo ≤ e) (neg : Bool) (m : Nat) : (scaled neg m e lo : Rat) * 2 ^ lo = unitsVal neg m e := by
  have hU : (2 : Rat) ^ (e - lo).toNat * 2 ^ lo = 2 ^ e := by
    rw [← zpow_natCast, Int.toNat_of_nonneg (by omega), ← zpow_add₀ two_ne_zero, sub_add_cancel]
  cases neg
  · simp only [scaled, unitsVal, Bool.false_eq_true, if_false]
    push_cast
    rw [mul_assoc, hU]
  · simp only [scaled, unitsVal, if_true]
    push_cast
    rw [neg_mul, mul_assoc, hU, neg_mul]

section
variable {n1 n2 : Bool} {m1 m2 : Nat} {e1 e2 : Int} {r : Rnd}

/-- The exact sum of two numbers in units, when it is not zero. -/
theorem FVal.add_of_ne_zero (h : unitsVal n1 m1 e1 + unitsVal n2 m2 e2 ≠ 0) :
    ∃ n m e, FVal.add r (.fin n1 m1 e1) (.fin n2 m2 e2) = .fin n m e ∧ m ≠ 0 ∧ unitsVal n m e = unitsVal n1 m1 e1 + unitsVal n2 m2 e2 := by
  rw [← scaled_mul (min_le_left e1 e2), ← scaled_mul (min_le_right e1 e2), ← add_mul] at h ⊢
  simp only [FVal.add]
  generalize scaled n1 m1 e1 (min e1 e2) = a at h ⊢
  generalize scaled n2 m2 e2 (min e1 e2) = b at h ⊢
  have hs : a + b ≠ 0 := fun h0 => h (by exact_mod_cast congrArg (fun z : Int => (z : Rat) * 2 ^ (min e1 e2)) h0 |>.trans (by simp))
  refine ⟨decide (a + b < 0), (a + b).natAbs, min e1 e2, if_neg (by simpa using hs), Int.natAbs_ne_zero.2 hs, ?_⟩
  rw [unitsVal, Nat.cast_natAbs]
  congr 1
  by_cases hneg : a + b < 0
  · rw [if_pos (decide_eq_true hneg), abs_of_neg hneg]
    push_cast
    ring
  · rw [if_neg (by simpa using hneg), abs_of_nonneg (not_lt.1 hneg)]
    push_cast
    ring

/-- An exact zero sum: two zeros of one sign keep it. -/
theorem FVal.add_of_eq_zero (h : unitsVal n1 m1 e1 + unitsVal n2 m2 e2 = 0) :
    ∃ e, FVal.add r (.fin n1 m1 e1) (.fin n2 m2 e2) = .fin (if m1 = 0 ∧ m2 = 0 ∧ n1 = n2 then n1 else decide (r = .rm)) 0 e := by
  have hU : (2 : Rat) ^ (min e1 e2) ≠ 0 := by positivity
  rw [← scaled_mul (min_le_left e1 e2), ← scaled_mul (min_le_right e1 e2), ← add_mul] at h
  have hs : scaled n1 m1 e1 (min e1 e2) + scaled n2 m2 e2 (min e1 e2) = 0 := by
    exact_mod_cast (mul_eq_zero.1 h).resolve_right hU
  refine ⟨min e1 e2, ?_⟩
  simp only [FVal.add, hs, beq_self_eq_true, if_true, Bool.and_eq_true, beq_iff_eq, and_assoc]
  congr 1

end

/-! ### The operations on codes (R69, R70, R251) -/

theorem Fmt.signOf_eq (f : Fmt) (a b : Nat) : f.signOf a b = if decide (f.neg a) != decide (f.neg b) then f.signBit else 0 := by
  unfold Fmt.signOf
  by_cases ha : f.neg a <;> by_cases hb : f.neg b <;> simp [ha, hb]

/-- The quotient of two finite codes. -/
theorem Fmt.div_of_fin (f : Fmt) {r : Rnd} {a b m1 m2 : Nat} {n1 n2 : Bool} {e1 e2 : Int} (hra : f.read a = .fin n1 m1 e1) (hrb : f.read b = .fin n2 m2 e2) :
    f.div r a b = if m2 = 0 then (if m1 = 0 then f.nanBits else f.withSign (n1 != n2) f.infBits)
      else f.round r (n1 != n2) (m1 * 2 ^ (f.p + 3 + bitLen m2) / m2) (e1 - e2 - (f.p + 3 + bitLen m2 : Nat)) (m1 * 2 ^ (f.p + 3 + bitLen m2) % m2 != 0) := by
  rw [Fmt.div, hra, hrb]
  simp only [beq_iff_eq]

/-- The whole part of a quotient, with its remainder as what lies below. -/
theorem standsAt_natDiv {n m : Nat} (hm : 0 < m) : StandsAt (n / m) (n % m != 0) ((n : Rat) / m) := by
  have hq : (0 : Rat) < m := Nat.cast_pos.2 hm
  have hdiv : (n : Rat) = m * (n / m : Nat) + (n % m : Nat) := by exact_mod_cast (Nat.div_add_mod n m).symm
  have hmod : ((n % m : Nat) : Rat) < m := Nat.cast_lt.2 (Nat.mod_lt n hm)
  refine ⟨Nat.cast_div_le, ?_, ?_⟩
  · rw [div_lt_iff₀ hq]
    linarith
  · rw [eq_div_iff hq.ne', bne_eq_false_iff_eq, ← Nat.cast_eq_zero (R := Rat)]
    constructor <;> intro h <;> linarith

theorem Fmt.withSign_infBits (f : Fmt) (neg : Bool) : f.withSign neg f.infBits = (if neg then f.signBit else 0) + f.infBits := Nat.add_comm _ _

theorem FVal.add_nan (r : Rnd) (v : FVal) : FVal.add r v .nan = .nan := by cases v <;> rfl
theorem FVal.add_inf_inf (r : Rnd) (x y : Bool) : FVal.add r (.inf x) (.inf y) = if x = y then .inf x else .nan := by cases x <;> cases y <;> rfl
theorem FVal.mul_nan (v : FVal) : FVal.mul v .nan = .nan := by cases v <;> rfl

/-- A code is a NaN, an infinity or finite. -/
theorem Fmt.class_cases (f : Fmt) (w : Nat) : f.isNan w ∨ f.isInf w ∨ f.isFin w := by
  rcases lt_trichotomy (f.abs w) f.infBits with h | h | h
  · exact .inr (.inr h)
  · exact .inr (.inl h)
  · exact .inl h

theorem Fmt.withSign_inj (f : Fmt) {x y : Bool} {mag : Nat} : f.withSign x mag = f.withSign y mag ↔ x = y := by
  have := f.signBit_pos.ne'
  cases x <;> cases y <;> simp [Fmt.withSign, this]

section
variable {f : Fmt} {a b : Nat} (ha : f.Code a)
include ha

theorem Fmt.Code.eq_withSign_of_inf (h : f.isInf a) : a = f.withSign (decide (f.neg a)) f.infBits := by
  have := ha.eq_withSign
  rwa [show f.abs a = f.infBits from h] at this

theorem Fmt.Code.eq_withSign_of_zero (h : f.isZero a) : a = if decide (f.neg a) then f.signBit else 0 := by
  have := ha.eq_withSign
  rwa [show f.abs a = 0 from h, Fmt.withSign, Nat.zero_add] at this

/-- A zero is the one of a sign. -/
theorem Fmt.Code.eq_withSign_of_zero_iff (h : f.isZero a) {x : Bool} : (a = if x then f.signBit else 0) ↔ decide (f.neg a) = x := by
  have hx (y : Bool) : (if y then f.signBit else 0) = f.withSign y 0 := (Nat.zero_add _).symm
  have hself := ha.eq_withSign_of_zero h
  rw [hx] at hself ⊢
  exact ⟨fun e => f.withSign_inj.1 (hself.symm.trans e), fun e => hself.trans (by rw [e])⟩

variable (hb : f.Code b)
include hb

/-- The products that have no value (R70). -/
theorem Fmt.Code.mul_undefined (hinf : 0 < f.infBits) (h : f.isNan a ∨ f.isNan b ∨ (f.isInf a ∧ f.isZero b) ∨ (f.isZero a ∧ f.isInf b)) :
    (f.read a).mul (f.read b) = .nan := by
  rcases h with h | h | ⟨hi, hz⟩ | ⟨hz, hi⟩
  · rw [ha.read_of_nan h]
    rfl
  · rw [hb.read_of_nan h, FVal.mul_nan]
  · obtain ⟨m, e, hread, -, hm⟩ := hb.read_of_fin (hz.trans_lt hinf)
    rw [ha.read_of_inf hi, hread, hm.2 hz]
    rfl
  · obtain ⟨m, e, hread, -, hm⟩ := ha.read_of_fin (hz.trans_lt hinf)
    rw [hb.read_of_inf hi, hread, hm.2 hz]
    rfl

theorem Fmt.Code.mul_of_inf_left (hi : f.isInf a) (hc : f.isInf b ∨ f.isFin b) (hz : ¬f.isZero b) :
    (f.read a).mul (f.read b) = .inf (decide (f.neg a) != decide (f.neg b)) := by
  rw [ha.read_of_inf hi]
  rcases hc with h | h
  · rw [hb.read_of_inf h]
    rfl
  · obtain ⟨m, e, hread, -, hm⟩ := hb.read_of_fin h
    rw [hread]
    exact if_neg (by simpa using mt hm.1 hz)

theorem Fmt.Code.mul_of_inf_right (hi : f.isInf b) (hc : f.isInf a ∨ f.isFin a) (hz : ¬f.isZero a) :
    (f.read a).mul (f.read b) = .inf (decide (f.neg a) != decide (f.neg b)) := by
  rw [hb.read_of_inf hi]
  rcases hc with h | h
  · rw [ha.read_of_inf h]
    rfl
  · obtain ⟨m, e, hread, -, hm⟩ := ha.read_of_fin h
    rw [hread]
    exact if_neg (by simpa using mt hm.1 hz)

end

section
variable {f : Fmt} {r : Rnd} (hp : 0 < f.p) (hinf : 0 < f.infBits)
include hp hinf

/-- A finite value in units rounded: a nonzero one to the nearest code, a zero to its sign. -/
theorem Fmt.write_add {n1 n2 : Bool} {m1 m2 : Nat} {e1 e2 : Int} :
    (unitsVal n1 m1 e1 + unitsVal n2 m2 e2 ≠ 0 → f.Rounds r (unitsVal n1 m1 e1 + unitsVal n2 m2 e2) (f.write r (FVal.add r (.fin n1 m1 e1) (.fin n2 m2 e2))))
    ∧ (unitsVal n1 m1 e1 + unitsVal n2 m2 e2 = 0 → f.write r (FVal.add r (.fin n1 m1 e1) (.fin n2 m2 e2))
        = if m1 = 0 ∧ m2 = 0 ∧ n1 = n2 then (if n1 then f.signBit else 0) else f.zeroSum r) := by
  refine ⟨fun h => ?_, fun h => ?_⟩
  · obtain ⟨n, m, e, hadd, hm, hval⟩ := FVal.add_of_ne_zero (r := r) h
    rw [hadd, ← hval]
    exact f.round_units hp hinf hm
  · obtain ⟨e, hadd⟩ := FVal.add_of_eq_zero (r := r) h
    rw [hadd, Fmt.write, f.round_zero]
    split
    · rfl
    · simp [Fmt.zeroSum]

theorem Fmt.sum_spec {a b : Nat} (ha : f.Code a) (hb : f.Code b) : f.IsSum r a b (f.write r (FVal.add r (f.read a) (f.read b))) := by
  refine ⟨fun h => ?_, fun hia hib => ?_, fun hia hfb => ?_, fun hfa hib => ?_, fun hfa hfb => ?_⟩
  · rcases h with h | h
    · rw [ha.read_of_nan h]
      rfl
    · rw [hb.read_of_nan h, FVal.add_nan]
      rfl
  · rw [ha.read_of_inf hia, hb.read_of_inf hib, FVal.add_inf_inf]
    by_cases h : f.neg a ↔ f.neg b
    · rw [if_pos (decide_eq_decide.2 h), if_pos ((ha.eq_iff hb).2 ⟨h, hia.trans hib.symm⟩)]
      exact (ha.eq_withSign_of_inf hia).symm
    · rw [if_neg (mt decide_eq_decide.1 h), if_neg fun e => h ((ha.eq_iff hb).1 e).1]
      rfl
  · obtain ⟨m, e, hread, -⟩ := hb.read_of_fin hfb
    rw [ha.read_of_inf hia, hread]
    exact (ha.eq_withSign_of_inf hia).symm
  · obtain ⟨m, e, hread, -⟩ := ha.read_of_fin hfa
    rw [hb.read_of_inf hib, hread]
    exact (hb.eq_withSign_of_inf hib).symm
  · obtain ⟨m1, e1, hra, hva, hza⟩ := ha.read_of_fin hfa
    obtain ⟨m2, e2, hrb, hvb, hzb⟩ := hb.read_of_fin hfb
    rw [hra, hrb, hva, hvb]
    obtain ⟨hne, heq⟩ := f.write_add (r := r) hp hinf (n1 := decide (f.neg a)) (n2 := decide (f.neg b)) (m1 := m1) (m2 := m2) (e1 := e1) (e2 := e2)
    refine ⟨hne, fun h => (heq h).trans ?_⟩
    -- Equal codes with the sum zero are zeros of one sign.
    have hsame : m1 = 0 ∧ m2 = 0 ∧ decide (f.neg a) = decide (f.neg b) ↔ a = b := by
      rw [hza, hzb, decide_eq_decide, ha.eq_iff hb]
      refine ⟨fun ⟨h1, h2, hneg⟩ => ⟨hneg, h1.trans h2.symm⟩, fun ⟨hneg, habs⟩ => ?_⟩
      have hm : unitsVal (decide (f.neg a)) m1 e1 = 0 := by
        have : f.val a = f.val b := by rw [(ha.eq_iff hb).2 ⟨hneg, habs⟩]
        rw [hva, hvb] at this
        linarith
      have h1 := hza.1 (unitsVal_eq_zero_iff.1 hm)
      exact ⟨h1, habs.symm.trans h1, hneg⟩
    simp only [hsame]
    split
    · next e =>
      subst e
      exact (ha.eq_withSign_of_zero (hza.1 (hsame.2 rfl).1)).symm
    · rfl

theorem Fmt.product_spec {a b : Nat} (ha : f.Code a) (hb : f.Code b) : f.IsProduct r a b (f.mul r a b) := by
  rw [Fmt.mul]
  refine ⟨fun h => ?_, fun hia hcb hzb => ?_, fun hib hca hza => ?_, fun hfa hfb => ?_⟩
  · rw [ha.mul_undefined hb hinf h]
    rfl
  · rw [ha.mul_of_inf_left hb hia hcb hzb, Fmt.write, f.withSign_infBits, f.signOf_eq]
  · rw [ha.mul_of_inf_right hb hib hca hza, Fmt.write, f.withSign_infBits, f.signOf_eq]
  · obtain ⟨m1, e1, hra, hva, hza⟩ := ha.read_of_fin hfa
    obtain ⟨m2, e2, hrb, hvb, hzb⟩ := hb.read_of_fin hfb
    rw [hra, hrb, hva, hvb, unitsVal_mul, f.signOf_eq]
    refine ⟨fun h => f.round_units hp hinf (mt unitsVal_eq_zero_iff.2 h), fun h => ?_⟩
    rw [FVal.mul, unitsVal_eq_zero_iff.1 h]
    exact f.round_zero ..

theorem Fmt.fused_spec {a b c : Nat} (ha : f.Code a) (hb : f.Code b) (hc : f.Code c) : f.IsFused r a b c (f.fma r a b c) := by
  unfold Fmt.IsFused
  rw [Fmt.fma]
  have hsign : f.signOf a b + f.infBits = f.withSign (decide (f.neg a) != decide (f.neg b)) f.infBits := by rw [f.withSign_infBits, ← f.signOf_eq]
  rw [hsign]
  refine ⟨fun h => ?_, fun h hi => ?_, fun hfa hfb hic => ?_, fun hfa hfb hfc => ?_⟩
  · have hnan : ((f.read a).mul (f.read b)).add r (f.read c) = .nan := by
      by_cases hcn : f.isNan c
      · rw [hc.read_of_nan hcn, FVal.add_nan]
      · rw [ha.mul_undefined hb hinf (by tauto)]
        rfl
    rw [hnan]
    rfl
  · have hmul : (f.read a).mul (f.read b) = .inf (decide (f.neg a) != decide (f.neg b)) := by
      rcases hi with hi | hi
      · exact ha.mul_of_inf_left hb hi ((f.class_cases b).resolve_left (by tauto)) (by tauto)
      · exact ha.mul_of_inf_right hb hi ((f.class_cases a).resolve_left (by tauto)) (by tauto)
    rw [hmul]
    rcases (f.class_cases c).resolve_left (by tauto) with hic | hfc
    · have hcp : c ≠ f.withSign (decide (f.neg a) != decide (f.neg b)) f.infBits ↔ ¬(decide (f.neg a) != decide (f.neg b)) = decide (f.neg c) := by
        rw [ne_eq, ← f.withSign_inj (mag := f.infBits), ← hc.eq_withSign_of_inf hic, eq_comm]
      rw [hc.read_of_inf hic, FVal.add_inf_inf, if_congr (and_iff_right hic) rfl rfl, if_congr hcp rfl rfl, ite_not]
      split <;> rfl
    · obtain ⟨m, e, hread, -⟩ := hc.read_of_fin hfc
      rw [hread, if_neg fun h => hfc.ne h.1]
      rfl
  · obtain ⟨m1, e1, hra, -⟩ := ha.read_of_fin hfa
    obtain ⟨m2, e2, hrb, -⟩ := hb.read_of_fin hfb
    rw [hra, hrb, hc.read_of_inf hic]
    exact (hc.eq_withSign_of_inf hic).symm
  · obtain ⟨m1, e1, hra, hva, hza⟩ := ha.read_of_fin hfa
    obtain ⟨m2, e2, hrb, hvb, hzb⟩ := hb.read_of_fin hfb
    obtain ⟨m3, e3, hrc, hvc, hzc⟩ := hc.read_of_fin hfc
    simp only [hra, hrb, hrc, hva, hvb, hvc, unitsVal_mul, FVal.mul]
    obtain ⟨hne, heq⟩ := f.write_add (r := r) hp hinf (n1 := decide (f.neg a) != decide (f.neg b)) (n2 := decide (f.neg c)) (m1 := m1 * m2) (m2 := m3)
      (e1 := e1 + e2) (e2 := e3)
    refine ⟨hne, fun h => (heq h).trans ?_⟩
    -- A zero product and a zero of its sign; with the product zero the sum's being zero makes the other a zero.
    have hsame : m1 * m2 = 0 ∧ m3 = 0 ∧ (decide (f.neg a) != decide (f.neg b)) = decide (f.neg c) ↔ (f.isZero a ∨ f.isZero b) ∧ c = f.signOf a b := by
      rw [Nat.mul_eq_zero, hza, hzb, f.signOf_eq]
      refine and_congr_right fun hz => ?_
      have hm3 : m3 = 0 := by
        have hprod : unitsVal (decide (f.neg a) != decide (f.neg b)) (m1 * m2) (e1 + e2) = 0 :=
          unitsVal_eq_zero_iff.2 (Nat.mul_eq_zero.2 (hz.imp hza.2 hzb.2))
        rw [hprod, zero_add] at h
        exact unitsVal_eq_zero_iff.1 h
      rw [and_iff_right hm3, hc.eq_withSign_of_zero_iff (hzc.1 hm3), eq_comm]
    rw [if_congr hsame rfl rfl]
    split
    · next hz => rw [hz.2, f.signOf_eq]
    · rfl

/-- A quotient of two numbers in units, neither zero. -/
theorem Fmt.div_rounds {a b m1 m2 : Nat} {n1 n2 : Bool} {e1 e2 : Int} (hra : f.read a = .fin n1 m1 e1) (hrb : f.read b = .fin n2 m2 e2)
    (hm1 : 0 < m1) (hm2 : 0 < m2) : f.Rounds r (unitsVal n1 m1 e1 / unitsVal n2 m2 e2) (f.div r a b) := by
  rw [f.div_of_fin hra hrb, if_neg hm2.ne']
  set k := f.p + 3 + bitLen m2 with hk
  have hq : (0 : Rat) < m2 := Nat.cast_pos.2 hm2
  have hbig : 2 ^ (f.p + 2) ≤ m1 * 2 ^ k / m2 := by
    rw [Nat.le_div_iff_mul_le hm2]
    calc 2 ^ (f.p + 2) * m2 ≤ 2 ^ (f.p + 3) * 2 ^ bitLen m2 :=
          Nat.mul_le_mul (Nat.pow_le_pow_right two_pos (by omega)) (lt_two_pow_bitLen m2).le
      _ = 1 * 2 ^ k := by rw [← pow_add, one_mul]
      _ ≤ m1 * 2 ^ k := Nat.mul_le_mul_right _ hm1
  have hval : unitsVal n1 m1 e1 / unitsVal n2 m2 e2
      = (if (n1 != n2) = true then -((m1 * 2 ^ k : Nat) / m2 : Rat) else ((m1 * 2 ^ k : Nat) / m2 : Rat)) * 2 ^ (e1 - e2 - k) := by
    have hU : (2 : Rat) ^ e2 ≠ 0 := by positivity
    have hK : (2 : Rat) ^ k ≠ 0 := by positivity
    rw [zpow_sub₀ two_ne_zero, zpow_sub₀ two_ne_zero, zpow_natCast]
    push_cast
    cases n1 <;> cases n2 <;> simp [unitsVal] <;> field_simp
  rw [hval]
  exact f.round_rounds hp hinf (hbig.trans_lt' (Nat.two_pow_pos _)) (fun _ => hbig) (standsAt_natDiv hm2)

theorem Fmt.quotient_spec {a b : Nat} (ha : f.Code a) (hb : f.Code b) : f.IsQuotient r a b (f.div r a b) := by
  refine ⟨fun h => ?_, fun hia hfb => ?_, fun hfa hza hzb => ?_, fun hfa hib => ?_, fun hza hfb hzb => ?_, fun hfa hza hfb hzb => ?_⟩
  · rcases h with h | h | ⟨hia, hib⟩ | ⟨hza, hzb⟩
    · rw [Fmt.div, ha.read_of_nan h]
    · rw [Fmt.div, hb.read_of_nan h]
      cases f.read a <;> rfl
    · rw [Fmt.div, ha.read_of_inf hia, hb.read_of_inf hib]
    · obtain ⟨m1, e1, hra, -, hm1⟩ := ha.read_of_fin (hza.trans_lt hinf)
      obtain ⟨m2, e2, hrb, -, hm2⟩ := hb.read_of_fin (hzb.trans_lt hinf)
      rw [f.div_of_fin hra hrb, if_pos (hm2.2 hzb), if_pos (hm1.2 hza)]
  · obtain ⟨m2, e2, hrb, -⟩ := hb.read_of_fin hfb
    rw [Fmt.div, ha.read_of_inf hia, hrb, f.signOf_eq]
    exact f.withSign_infBits _
  · obtain ⟨m1, e1, hra, -, hm1⟩ := ha.read_of_fin hfa
    obtain ⟨m2, e2, hrb, -, hm2⟩ := hb.read_of_fin (hzb.trans_lt hinf)
    rw [f.div_of_fin hra hrb, if_pos (hm2.2 hzb), if_neg (mt hm1.1 hza), f.signOf_eq, f.withSign_infBits]
  · obtain ⟨m1, e1, hra, -⟩ := ha.read_of_fin hfa
    rw [Fmt.div, hra, hb.read_of_inf hib, f.signOf_eq]
    exact Nat.zero_add _
  · obtain ⟨m1, e1, hra, -, hm1⟩ := ha.read_of_fin (hza.trans_lt hinf)
    obtain ⟨m2, e2, hrb, -, hm2⟩ := hb.read_of_fin hfb
    rw [f.div_of_fin hra hrb, if_neg (mt hm2.1 hzb), hm1.2 hza, Nat.zero_mul, Nat.zero_div, Nat.zero_mod, f.signOf_eq]
    exact f.round_zero ..
  · obtain ⟨m1, e1, hra, hva, hm1⟩ := ha.read_of_fin hfa
    obtain ⟨m2, e2, hrb, hvb, hm2⟩ := hb.read_of_fin hfb
    rw [hva, hvb]
    exact f.div_rounds hp hinf hra hrb (Nat.pos_of_ne_zero (mt hm1.1 hza)) (Nat.pos_of_ne_zero (mt hm2.1 hzb))

end

/-! ### The sign reversed, and the order of codes (R255) -/

/-- A code with its sign reversed. -/
def Fmt.flip (f : Fmt) (w : Nat) : Nat := if w < f.signBit then w + f.signBit else w - f.signBit

theorem Fmt.abs_flip (f : Fmt) (w : Nat) : f.abs (f.flip w) = f.abs w := by
  rw [Fmt.abs, Fmt.abs, Fmt.flip]
  split
  · exact Nat.add_mod_right ..
  · next h => exact (Nat.mod_eq_sub_mod (not_lt.1 h)).symm

section
variable {f : Fmt} {w : Nat} (hw : f.Code w)
include hw

theorem Fmt.Code.flip : f.Code (f.flip w) := by
  rw [Fmt.Code, Fmt.flip] at *
  split <;> omega

theorem Fmt.Code.neg_flip : f.neg (f.flip w) ↔ ¬f.neg w := by
  have := f.signBit_pos
  rw [Fmt.Code] at hw
  rw [Fmt.flip, Fmt.neg, Fmt.neg]
  split <;> omega

/-- The code reversed reads as the value reversed. -/
theorem Fmt.Code.read_flip : f.read (f.flip w) = (f.read w).negate := by
  have hfields := (f.abs_eq_fields (f.flip w)).symm.trans ((f.abs_flip w).trans (f.abs_eq_fields w))
  have hm : f.flip w % 2 ^ f.p = w % 2 ^ f.p := by
    have := congrArg (· % 2 ^ f.p) hfields
    simpa [Nat.mul_add_mod'] using this
  have hq : f.flip w / 2 ^ f.p % 2 ^ f.e = w / 2 ^ f.p % 2 ^ f.e := by
    rw [hm, Nat.add_right_cancel_iff] at hfields
    exact Nat.eq_of_mul_eq_mul_right (Nat.two_pow_pos _) hfields
  have hsign : (f.flip w / f.signBit % 2 == 1) = !(w / f.signBit % 2 == 1) := by
    rw [hw.flip.div_signBit, hw.div_signBit, if_congr hw.neg_flip rfl rfl]
    by_cases h : f.neg w <;> simp [h]
  simp only [Fmt.read, hm, hq, hsign]
  split
  · split <;> rfl
  · split <;> rfl

/-- Whether a code is NaN, as the model tests it. -/
theorem Fmt.Code.isNaN_iff : f.isNaN w = true ↔ f.isNan w := by
  rcases f.class_cases w with h | h | h
  · simp [Fmt.isNaN, hw.read_of_nan h, h]
  · simp [Fmt.isNaN, hw.read_of_inf h, show f.abs w = f.infBits from h]
  · obtain ⟨m, e, hread, -⟩ := hw.read_of_fin h
    simp [Fmt.isNaN, hread, le_of_lt h]

theorem Fmt.Code.cmpKey_eq : f.cmpKey w = if f.neg w then -(f.abs w : Int) else f.abs w := by
  rw [Fmt.cmpKey, hw.div_signBit, Fmt.abs]
  by_cases h : f.neg w <;> simp [h]

theorem Fmt.Code.lt_iff {v : Nat} (hv : f.Code v) : f.lt w v = true ↔
    ¬f.isNan w ∧ ¬f.isNan v ∧ (if f.neg w then -(f.abs w : Int) else f.abs w) < if f.neg v then -(f.abs v : Int) else f.abs v := by
  rw [Fmt.lt, hw.cmpKey_eq, hv.cmpKey_eq, Bool.and_eq_true, Bool.and_eq_true, Bool.not_eq_true', Bool.not_eq_true', ← hw.isNaN_iff, ← hv.isNaN_iff,
    Bool.not_eq_true, Bool.not_eq_true, decide_eq_true_eq, and_assoc]

end

/-- A difference: the second operand is reversed first (R70). -/
theorem Fmt.difference_spec {f : Fmt} {r : Rnd} {a b : Nat} (hp : 0 < f.p) (hinf : 0 < f.infBits) (ha : f.Code a) (hb : f.Code b) :
    f.IsSum r a (f.flip b) (f.sub r a b) := by
  rw [Fmt.sub, ← hb.read_flip]
  exact f.sum_spec hp hinf ha hb.flip

end Sys2Proof.Machine
end

section
/-! The pixels of a primitive that a die updates, and their depths (R150, R153, R156 to R159). -/

namespace Sys2Proof.Machine

/-! ### The depth of a sample (R159) -/

theorem fmt32_pos : 0 < fmt32.p ∧ 0 < fmt32.infBits := fmt_pos _ (by simp)

theorem fmt32_code_iff {w : Nat} : fmt32.Code w ↔ w < 2 ^ 32 := Iff.rfl

/-- The depth of a sample from its edge values: the rounded steps of R159, one after another. -/
def IsDepth (z0 z1 z2 : Word) (a b1 b2 : Int) (z : Nat) : Prop :=
  ∃ fa f1 f2 rcp l1 l2 d1 d2 t : Nat, fmt32.OfInt .rn a fa ∧ fmt32.OfInt .rn b1 f1 ∧ fmt32.OfInt .rn b2 f2
    ∧ fmt32.IsQuotient .rn 0x3F800000 fa rcp ∧ fmt32.IsProduct .rn f1 rcp l1 ∧ fmt32.IsProduct .rn f2 rcp l2
    ∧ fmt32.IsSum .rn z1.toNat (fmt32.flip z0.toNat) d1 ∧ fmt32.IsSum .rn z2.toNat (fmt32.flip z0.toNat) d2
    ∧ fmt32.IsFused .rn l1 d1 z0.toNat t ∧ fmt32.IsFused .rn l2 d2 t z

theorem sampleDepth_spec (z0 z1 z2 : Word) (a b1 b2 : Int) :
    IsDepth z0 z1 z2 a b1 b2 (sampleDepth [z0, z1, z2] a b1 b2) ∧ sampleDepth [z0, z1, z2] a b1 b2 < 2 ^ 32 := by
  obtain ⟨hp, hinf⟩ := fmt32_pos
  have hword (w : Word) : fmt32.Code w.toNat := w.isLt
  have hone : fmt32.Code 0x3F800000 := fmt32_code_iff.2 (by norm_num)
  have hint (n : Int) : fmt32.Code (fmt32.ofInt .rn n) := fmt32.code_round ..
  have hmul (x y : Nat) : fmt32.Code (fmt32.mul .rn x y) := Fmt.code_write hp ..
  have hsub (x y : Nat) : fmt32.Code (fmt32.sub .rn x y) := Fmt.code_write hp ..
  have hfma (x y z : Nat) : fmt32.Code (fmt32.fma .rn x y z) := Fmt.code_write hp ..
  have hrcp := Fmt.code_div hp .rn 0x3F800000 (fmt32.ofInt .rn a)
  exact ⟨⟨_, _, _, _, _, _, _, _, _, fmt32.ofInt_spec hp hinf a, fmt32.ofInt_spec hp hinf b1, fmt32.ofInt_spec hp hinf b2,
    fmt32.quotient_spec hp hinf hone (hint a), fmt32.product_spec hp hinf (hint b1) hrcp, fmt32.product_spec hp hinf (hint b2) hrcp,
    Fmt.difference_spec hp hinf (hword z1) (hword z0), Fmt.difference_spec hp hinf (hword z2) (hword z0),
    fmt32.fused_spec hp hinf (hmul _ _) (hsub _ _) (hword z0), fmt32.fused_spec hp hinf (hmul _ _) (hsub _ _) (hfma _ _ _)⟩, hfma _ _ _⟩

/-! ### Coverage (R157, R158) -/

/-- The sign by which a triangle of a signed area is turned. -/
def turnSign (area : Int) : Int := if area < 0 then -1 else 1

theorem turnSign_eq (a : Int) : turnSign a = -1 ∨ turnSign a = 1 := by
  unfold turnSign
  split <;> simp

theorem turnSign_mul_self {a : Int} : turnSign a * a = |a| := by
  unfold turnSign
  split
  · next h => rw [abs_of_neg h, neg_one_mul]
  · next h => rw [abs_of_nonneg (not_lt.1 h), one_mul]

/-- A sample lies on the inner side of an edge, or on it when it is a top or left edge. -/
def EdgeHolds (sg xi yi xj yj sx sy : Int) : Prop :=
  0 < sg * edge xi yi xj yj sx sy ∨ (sg * edge xi yi xj yj sx sy = 0 ∧ (sg * (yj - yi) < 0 ∨ (yj = yi ∧ 0 < sg * (xj - xi))))

theorem EdgeHolds.nonneg {sg xi yi xj yj sx sy : Int} (h : EdgeHolds sg xi yi xj yj sx sy) : 0 ≤ sg * edge xi yi xj yj sx sy :=
  h.elim le_of_lt fun h => h.1.ge

/-- A triangle covers a sample. -/
def Covers (x0 y0 x1 y1 x2 y2 sx sy : Int) : Prop :=
  edge x0 y0 x1 y1 x2 y2 ≠ 0 ∧ EdgeHolds (turnSign (edge x0 y0 x1 y1 x2 y2)) x0 y0 x1 y1 sx sy
    ∧ EdgeHolds (turnSign (edge x0 y0 x1 y1 x2 y2)) x1 y1 x2 y2 sx sy ∧ EdgeHolds (turnSign (edge x0 y0 x1 y1 x2 y2)) x2 y2 x0 y0 sx sy

/-- The model's test of one edge. -/
def edgeTest (sg xi yi xj yj sx sy : Int) : Bool :=
  0 < sg * edge xi yi xj yj sx sy || (sg * edge xi yi xj yj sx sy == 0 && (sg * (yj - yi) < 0 || (sg * (yj - yi) == 0 && 0 < sg * (xj - xi))))

theorem edgeTest_iff {sg xi yi xj yj sx sy : Int} (hsg : sg = -1 ∨ sg = 1) : edgeTest sg xi yi xj yj sx sy = true ↔ EdgeHolds sg xi yi xj yj sx sy := by
  have hdy : sg * (yj - yi) = 0 ↔ yj = yi := by
    rw [mul_eq_zero, or_iff_right (by omega), sub_eq_zero]
  simp only [edgeTest, EdgeHolds, Bool.or_eq_true, Bool.and_eq_true, decide_eq_true_eq, beq_iff_eq, hdy]

section
variable (x0 y0 x1 y1 x2 y2 sx sy : Int)

/-- The edge values of a sample that the depth is taken from, with the area. -/
def edgeValues : Int × Int × Int :=
  (turnSign (edge x0 y0 x1 y1 x2 y2) * edge x0 y0 x1 y1 x2 y2, turnSign (edge x0 y0 x1 y1 x2 y2) * edge x2 y2 x0 y0 sx sy,
    turnSign (edge x0 y0 x1 y1 x2 y2) * edge x0 y0 x1 y1 sx sy)

theorem coverage_of : coverage [x0, y0, x1, y1, x2, y2] sx sy =
    if (edge x0 y0 x1 y1 x2 y2 ≠ 0 && edgeTest (turnSign (edge x0 y0 x1 y1 x2 y2)) x0 y0 x1 y1 sx sy
      && edgeTest (turnSign (edge x0 y0 x1 y1 x2 y2)) x1 y1 x2 y2 sx sy && edgeTest (turnSign (edge x0 y0 x1 y1 x2 y2)) x2 y2 x0 y0 sx sy) = true
    then some (edgeValues x0 y0 x1 y1 x2 y2 sx sy) else none := rfl

theorem coverage_eq_some_iff {k : Int × Int × Int} : coverage [x0, y0, x1, y1, x2, y2] sx sy = some k ↔
    Covers x0 y0 x1 y1 x2 y2 sx sy ∧ edgeValues x0 y0 x1 y1 x2 y2 sx sy = k := by
  have hsg := turnSign_eq (edge x0 y0 x1 y1 x2 y2)
  rw [coverage_of, Option.ite_none_right_eq_some, Option.some_inj, Covers, ← edgeTest_iff hsg, ← edgeTest_iff hsg, ← edgeTest_iff hsg]
  simp only [Bool.and_eq_true, decide_eq_true_eq, and_assoc]

end

/-! ### A covered sample lies in the triangle's box -/

theorem le_of_weights {a b c x y z t m : Int} (ha : 0 ≤ a) (hb : 0 ≤ b) (hc : 0 ≤ c) (hpos : 0 < a + b + c)
    (h : a * x + b * y + c * z = (a + b + c) * t) (hx : m ≤ x) (hy : m ≤ y) (hz : m ≤ z) : m ≤ t := by
  have hle : (a + b + c) * m ≤ (a + b + c) * t := by
    rw [← h]
    have h1 := mul_le_mul_of_nonneg_left hx ha
    have h2 := mul_le_mul_of_nonneg_left hy hb
    have h3 := mul_le_mul_of_nonneg_left hz hc
    rw [add_mul, add_mul]
    omega
  exact le_of_mul_le_mul_left hle hpos

section
variable {x0 y0 x1 y1 x2 y2 sx sy : Int} (h : Covers x0 y0 x1 y1 x2 y2 sx sy)
include h

/-- The edge values are the sample's weights on the opposite vertices. -/
theorem Covers.weights : ∃ a b c : Int, 0 ≤ a ∧ 0 ≤ b ∧ 0 ≤ c ∧ 0 < a + b + c ∧ a * x0 + b * x1 + c * x2 = (a + b + c) * sx
    ∧ a * y0 + b * y1 + c * y2 = (a + b + c) * sy := by
  obtain ⟨harea, h01, h12, h20⟩ := h
  have hsum : turnSign (edge x0 y0 x1 y1 x2 y2) * edge x1 y1 x2 y2 sx sy + turnSign (edge x0 y0 x1 y1 x2 y2) * edge x2 y2 x0 y0 sx sy
      + turnSign (edge x0 y0 x1 y1 x2 y2) * edge x0 y0 x1 y1 sx sy = |edge x0 y0 x1 y1 x2 y2| := by
    rw [← turnSign_mul_self, ← mul_add, ← mul_add]
    congr 1
    simp only [edge]
    ring
  refine ⟨_, _, _, h12.nonneg, h20.nonneg, h01.nonneg, by rw [hsum]; exact abs_pos.2 harea, ?_, ?_⟩
  all_goals
    simp only [edge]
    ring

/-- No coordinate below the three vertices', and none above. -/
theorem Covers.x_between : (∀ m, m ≤ x0 → m ≤ x1 → m ≤ x2 → m ≤ sx) ∧ ∀ m, x0 ≤ m → x1 ≤ m → x2 ≤ m → sx ≤ m := by
  obtain ⟨a, b, c, ha, hb, hc, hpos, hx, -⟩ := h.weights
  refine ⟨fun m => le_of_weights ha hb hc hpos hx, fun m h0 h1 h2 => neg_le_neg_iff.1 ?_⟩
  exact le_of_weights ha hb hc hpos (x := -x0) (y := -x1) (z := -x2) (by linarith) (neg_le_neg h0) (neg_le_neg h1) (neg_le_neg h2)

theorem Covers.y_between : (∀ m, m ≤ y0 → m ≤ y1 → m ≤ y2 → m ≤ sy) ∧ ∀ m, y0 ≤ m → y1 ≤ m → y2 ≤ m → sy ≤ m := by
  obtain ⟨a, b, c, ha, hb, hc, hpos, -, hy⟩ := h.weights
  refine ⟨fun m => le_of_weights ha hb hc hpos hy, fun m h0 h1 h2 => neg_le_neg_iff.1 ?_⟩
  exact le_of_weights ha hb hc hpos (x := -y0) (y := -y1) (z := -y2) (by linarith) (neg_le_neg h0) (neg_le_neg h1) (neg_le_neg h2)

end

/-- The pixel of a sample that no bound of three coordinates leaves out lies in their box. -/
theorem boxAxis_of_between {a b c t : Int} {m1 q : Nat} (h : (∀ m, m ≤ a → m ≤ b → m ≤ c → m ≤ t) ∧ ∀ m, a ≤ m → b ≤ m → c ≤ m → t ≤ m)
    (hlo : 256 * (q : Int) ≤ t) (hhi : t ≤ 256 * q + 255) (hq : q ≤ m1) : ∃ x ∈ boxAxis [a, b, c] m1, x.1 ≤ q ∧ q ≤ x.2 := by
  have hmin := h.1 (min (min a b) c) (by omega) (by omega) (by omega)
  have hmax := h.2 (max (max a b) c) (by omega) (by omega) (by omega)
  simp only [boxAxis, List.foldl_cons, List.foldl_nil, List.headD_cons, min_self, max_self]
  rw [if_pos (by omega)]
  exact ⟨_, rfl, by dsimp only; omega, by dsimp only; omega⟩

theorem le_of_boxAxis {xs : List Int} {m1 : Nat} {b : Nat × Nat} (h : b ∈ boxAxis xs m1) : b.2 ≤ m1 := by
  simp only [boxAxis] at h
  split at h
  · obtain rfl := Option.some.inj h
    dsimp only
    omega
  · cases h

/-! ### The pixels a die updates (R150, R153, R156) -/

/-- The update a die makes of a pixel: none outside its regions or of a sample that the primitive does not cover. -/
def FrameRec.update (r : FrameRec) (n me : Nat) (p : Packet) (k : Nat × Nat) : Option (Nat × Nat × Nat) :=
  if r.owner n (k.2 / 64) (k.1 / 64) = me then
    (coverage p.xy (256 * k.2 + 128 + r.jx) (256 * k.1 + 128 + r.jy)).map fun c => (k.2, k.1, sampleDepth p.z c.1 c.2.1 c.2.2)
  else none

/-- The pixels of the primitive's box, by row. -/
def FrameRec.boxPixels (r : FrameRec) (xy : List Int) : List (Nat × Nat) :=
  match boxAxis (xsOf xy) r.wm1, boxAxis (ysOf xy) r.hm1 with
  | some (x0, x1), some (y0, y1) => fromTo y0 y1 ×ˢ fromTo x0 x1
  | _, _ => []

theorem FrameRec.mem_boxPixels {r : FrameRec} {xy : List Int} {k : Nat × Nat} : k ∈ r.boxPixels xy ↔
    (∃ b ∈ boxAxis (xsOf xy) r.wm1, b.1 ≤ k.2 ∧ k.2 ≤ b.2) ∧ ∃ b ∈ boxAxis (ysOf xy) r.hm1, b.1 ≤ k.1 ∧ k.1 ≤ b.2 := by
  unfold FrameRec.boxPixels
  obtain ⟨py, px⟩ := k
  cases boxAxis (xsOf xy) r.wm1 <;> cases boxAxis (ysOf xy) r.hm1 <;> simp [List.mem_product, mem_fromTo, and_comm]

theorem nodup_fromTo (a b : Nat) : (fromTo a b).Nodup := List.nodup_range.map (add_right_injective a)

theorem FrameRec.nodup_boxPixels (r : FrameRec) (xy : List Int) : (r.boxPixels xy).Nodup := by
  unfold FrameRec.boxPixels
  split
  · exact (nodup_fromTo ..).product (nodup_fromTo ..)
  · exact List.nodup_nil

/-- Where each result of a function into options tells its argument, the results come from a sublist of the arguments. -/
theorem map_filterMap_sublist {α β : Type} {u : α → Option β} {f : β → α} (h : ∀ a b, u a = some b → f b = a) (l : List α) :
    ((l.filterMap u).map f).Sublist l := by
  induction l with
  | nil => exact .slnil
  | cons a l ih =>
    cases hu : u a with
    | none => rw [List.filterMap_cons_none hu]; exact ih.cons a
    | some b => rw [List.filterMap_cons_some hu, List.map_cons, h a b hu]; exact ih.cons_cons a

theorem foldl_product {α β γ : Type} (g : γ → α × β → γ) (l : List α) (m : List β) (init : γ) :
    (l ×ˢ m).foldl g init = l.foldl (fun acc a => m.foldl (fun acc b => g acc (a, b)) acc) init := by
  change (l.flatMap fun a => m.map (Prod.mk a)).foldl g init = _
  rw [List.foldl_flatMap]
  simp only [List.foldl_map]

theorem State.rasterise_of (s : State) (die clk : Nat) (r : FrameRec) (p : Packet) : s.rasterise die clk r p =
    ((r.boxPixels p.xy).filterMap (r.update (s.ctxDies p.ctx).length (logicalIndex (s.ctxDies p.ctx) die) p)).foldl
      (fun q k => q.1.pixel p.ctx die q.2 r k.1 k.2.1 k.2.2 p.vid) (s, clk) := by
  unfold State.rasterise FrameRec.boxPixels
  cases boxAxis (xsOf p.xy) r.wm1 with
  | none => rfl
  | some x =>
    cases boxAxis (ysOf p.xy) r.hm1 with
    | none => rfl
    | some y =>
      rw [List.foldl_filterMap, foldl_product]
      refine List.foldl_ext _ _ _ fun q py _ => List.foldl_ext _ _ _ fun q px _ => ?_
      unfold FrameRec.update
      by_cases hme : r.owner (s.ctxDies p.ctx).length (px / 64) (py / 64) = logicalIndex (s.ctxDies p.ctx) die
      · simp only [hme, bne_self_eq_false, Bool.false_eq_true, if_false, if_true]
        cases coverage p.xy (256 * px + 128 + r.jx) (256 * py + 128 + r.jy) <;> rfl
      · simp [hme]

/-- A covered sample's pixel lies in the box. -/
theorem FrameRec.mem_boxPixels_of_covers {r : FrameRec} {p : Packet} {x0 y0 x1 y1 x2 y2 : Int} (hxy : p.xy = [x0, y0, x1, y1, x2, y2])
    (hjx : -128 ≤ r.jx ∧ r.jx ≤ 127) (hjy : -128 ≤ r.jy ∧ r.jy ≤ 127) {k : Nat × Nat} (hx : k.2 ≤ r.wm1) (hy : k.1 ≤ r.hm1)
    (hc : Covers x0 y0 x1 y1 x2 y2 (256 * k.2 + 128 + r.jx) (256 * k.1 + 128 + r.jy)) : k ∈ r.boxPixels p.xy := by
  rw [FrameRec.mem_boxPixels, hxy]
  exact ⟨boxAxis_of_between hc.x_between (by omega) (by omega) hx, boxAxis_of_between hc.y_between (by omega) (by omega) hy⟩

section
variable {r : FrameRec} {p : Packet} {x0 y0 x1 y1 x2 y2 : Int} {z0 z1 z2 : Word} (hxy : p.xy = [x0, y0, x1, y1, x2, y2]) (hz : p.z = [z0, z1, z2])
  {n me : Nat}
include hxy hz

/-- An update of a triangle's pixel: of the die's own regions, of a covered sample, and to the depth of R159. -/
theorem FrameRec.update_eq_some_iff {k : Nat × Nat} {u : Nat × Nat × Nat} : r.update n me p k = some u ↔
    r.owner n (k.2 / 64) (k.1 / 64) = me ∧ Covers x0 y0 x1 y1 x2 y2 (256 * k.2 + 128 + r.jx) (256 * k.1 + 128 + r.jy)
      ∧ ∃ c, edgeValues x0 y0 x1 y1 x2 y2 (256 * k.2 + 128 + r.jx) (256 * k.1 + 128 + r.jy) = c ∧ (k.2, k.1, sampleDepth [z0, z1, z2] c.1 c.2.1 c.2.2) = u := by
  rw [FrameRec.update, Option.ite_none_right_eq_some, Option.map_eq_some_iff, hxy, hz]
  simp only [coverage_eq_some_iff, and_assoc, exists_and_left]

theorem FrameRec.update_pixel {k : Nat × Nat} {u : Nat × Nat × Nat} (hu : r.update n me p k = some u) : (u.2.1, u.1) = k := by
  obtain ⟨-, -, c, -, rfl⟩ := (FrameRec.update_eq_some_iff hxy hz).1 hu
  rfl

/-- The updates a die makes of a triangle, each of its own pixel. -/
theorem FrameRec.nodup_updates : (((r.boxPixels p.xy).filterMap (r.update n me p)).map fun u => (u.1, u.2.1)).Nodup := by
  have hsub := map_filterMap_sublist (fun k u => FrameRec.update_pixel (r := r) (n := n) (me := me) hxy hz) (r.boxPixels p.xy)
  have h := (hsub.nodup (r.nodup_boxPixels p.xy)).map Prod.swap_injective
  rwa [List.map_map] at h

/-- Which pixels those are. -/
theorem FrameRec.exists_mem_updates_iff (hjx : -128 ≤ r.jx ∧ r.jx ≤ 127) (hjy : -128 ≤ r.jy ∧ r.jy ≤ 127) {px py : Nat} :
    (∃ z, (px, py, z) ∈ (r.boxPixels p.xy).filterMap (r.update n me p)) ↔ px ≤ r.wm1 ∧ py ≤ r.hm1
      ∧ Covers x0 y0 x1 y1 x2 y2 (256 * px + 128 + r.jx) (256 * py + 128 + r.jy) ∧ r.owner n (px / 64) (py / 64) = me := by
  constructor
  · rintro ⟨z, hmem⟩
    obtain ⟨k, hk, hu⟩ := List.mem_filterMap.1 hmem
    obtain rfl := FrameRec.update_pixel hxy hz hu
    obtain ⟨⟨bx, hbx, -, hlex⟩, ⟨hb, hby, -, hley⟩⟩ := FrameRec.mem_boxPixels.1 hk
    obtain ⟨howner, hcov, -⟩ := (FrameRec.update_eq_some_iff hxy hz).1 hu
    exact ⟨hlex.trans (le_of_boxAxis hbx), hley.trans (le_of_boxAxis hby), hcov, howner⟩
  · rintro ⟨hx, hy, hcov, howner⟩
    exact ⟨_, List.mem_filterMap.2 ⟨(py, px), FrameRec.mem_boxPixels_of_covers hxy hjx hjy hx hy hcov,
      (FrameRec.update_eq_some_iff hxy hz).2 ⟨howner, hcov, _, rfl, rfl⟩⟩⟩

/-- The depth each is updated to. -/
theorem FrameRec.depth_of_mem_updates {u : Nat × Nat × Nat} (hu : u ∈ (r.boxPixels p.xy).filterMap (r.update n me p)) : u.2.2 < 2 ^ 32
    ∧ IsDepth z0 z1 z2 (turnSign (edge x0 y0 x1 y1 x2 y2) * edge x0 y0 x1 y1 x2 y2)
      (turnSign (edge x0 y0 x1 y1 x2 y2) * edge x2 y2 x0 y0 (256 * u.1 + 128 + r.jx) (256 * u.2.1 + 128 + r.jy))
      (turnSign (edge x0 y0 x1 y1 x2 y2) * edge x0 y0 x1 y1 (256 * u.1 + 128 + r.jx) (256 * u.2.1 + 128 + r.jy)) u.2.2 := by
  obtain ⟨k, -, hu⟩ := List.mem_filterMap.1 hu
  obtain ⟨-, -, c, rfl, rfl⟩ := (FrameRec.update_eq_some_iff hxy hz).1 hu
  exact (sampleDepth_spec ..).symm

end

end Sys2Proof.Machine
end

section
/-! The update of a pixel, the order of a group's primitives, and what a group leaves of memory (R156, R160 to R162, R470). -/

namespace Sys2Proof.Machine

/-! ### Several bytes at a home -/

theorem State.bytes_congr {s u : State} {pa n : Nat} (h : ∀ i < n, u.byte (pa + i) = s.byte (pa + i)) : u.bytes pa n = s.bytes pa n := by
  refine List.ext_getElem? fun i => ?_
  rw [State.bytes, State.bytes, getElem?_stGetList, getElem?_stGetList]
  split
  · next hi => exact congrArg some (h i hi)
  · rfl

theorem OffAccess.keys : OffAccess State.keys where
  mem _ _ := rfl
  atoms _ _ := rfl
  sheets _ _ := rfl
  ctxs _ _ := rfl
  launches _ _ := rfl
  clusters _ _ := rfl
  replicas _ _ := rfl
  steward _ _ := rfl
  choices _ _ := rfl

section
variable {s : State} {w : Writer} (hdry : s.dryReplay w.sheet = false) (t : Nat) {pa : Nat} (fo : Option Nat)
include hdry

/-- What a write makes is read back under its key. -/
theorem State.bytesAs_perform_same {bs : List Byte} (hbs : pa % 32 + bs.length ≤ 32) :
    (s.perform w t pa (bs.map some) fo).bytesAs w.key pa bs.length = bs := by
  obtain ⟨hatom, -, hmem⟩ := State.perform_leaves hdry t pa (bs.map some) fo
  obtain ⟨-, -, hkey⟩ := hatom pa rfl
  rw [State.bytesAs_of_key hkey hbs, State.bytes, hmem]
  exact stGetList_putBytes_same ..

variable {bs : List (Option Byte)} (hbs : pa % 32 + bs.length ≤ 32)
include hbs

theorem State.byte_perform_outside {a : Nat} (ha : a / 32 ≠ pa / 32) : (s.perform w t pa bs fo).byte a = s.byte a := by
  rw [State.byte, (State.perform_leaves hdry t pa bs fo).2.2]
  exact State.stGet_written_outside hbs ha _

/-- Another atom reads as before, under every key. -/
theorem State.bytesAs_perform_outside {a : Nat} (ha : a / 32 ≠ pa / 32) (key n : Nat) : (s.perform w t pa bs fo).bytesAs key a n = s.bytesAs key a n := by
  obtain ⟨-, hother, -⟩ := State.perform_leaves hdry t pa bs fo
  have hbytes : (s.perform w t pa bs fo).bytes (a / 32 * 32) 32 = s.bytes (a / 32 * 32) 32 :=
    State.bytes_congr fun i hi => State.byte_perform_outside hdry t fo hbs (by omega)
  rw [State.bytesAs, State.bytesAs, hother a ha, hbytes]
  simp only [State.rekeyed_congr (OffAccess.keys.perform s w t pa bs fo)]

end

/-- A byte of a written atom beside the bytes written reads as before. -/
theorem State.bytesAs_perform_beside {s : State} {w : Writer} (hdry : s.dryReplay w.sheet = false) (t : Nat) {pa a : Nat} {bs : List (Option Byte)}
    (fo : Option Nat) (ha : a / 32 = pa / 32) (hout : a < pa ∨ pa + bs.length ≤ a) : (s.perform w t pa bs fo).bytesAs w.key a 1 = s.bytesAs w.key a 1 := by
  have hnone : (if pa ≤ a then bs[a - pa]? else none) = none := by
    split
    · exact List.getElem?_eq_none (by omega)
    · rfl
  rw [State.bytesAs_perform hdry t bs fo ha, s.bytesAs_one, hnone]
  rfl

/-! ### The update of a pixel (R160, R470) -/

theorem ofBytesLE_lt (bs : List Byte) : ofBytesLE bs < 256 ^ bs.length := by
  induction bs with
  | nil => exact one_pos
  | cons b bs ih =>
    have := b.isLt
    rw [ofBytesLE, List.length_cons, pow_succ']
    omega

/-- What the depth test compares with: the word in the depth plane. -/
def State.depthWord (s : State) (ld : Leaf) (pd : Nat) : Nat := ofBytesLE (s.bytesAs ld.key pd 4)

theorem State.code_depthWord (s : State) (ld : Leaf) (pd : Nat) : fmt32.Code (s.depthWord ld pd) := by
  have hlen : (s.bytesAs ld.key pd 4).length ≤ 4 := List.length_take_le ..
  exact (ofBytesLE_lt _).trans_le (Nat.pow_le_pow_right (by omega) hlen)

/-- The one time of a pixel's two writes. -/
def State.pixelTime (s : State) (clk pd pv : Nat) : Nat := max (s.writeTime clk pd) (s.writeTime clk pv)

/-- The depth word written. -/
def State.depthPut (s : State) (cx t z : Nat) (ld : Leaf) (vd : Nat) : State :=
  s.perform { sheet := none, ctx := cx, key := ld.key, home := some (s.homeOf cx vd ld), reads := true } t (ld.phys vd) ((toBytesLE 4 z).map some) none
/-- The visibility word written. -/
def State.visibilityPut (s : State) (cx t : Nat) (vid : Word) (lv : Leaf) (vv : Nat) : State :=
  s.perform { sheet := none, ctx := cx, key := lv.key, home := some (s.homeOf cx vv lv) } t (lv.phys vv) ((toBytesLE 4 vid.toNat).map some) none

section
variable {s s1 s2 : State} {cx die clk : Nat} {r : FrameRec} {px py z : Nat} {vid : Word} {ld lv : Leaf}
  (hd : s.planeLeaf cx die clk r.addr (r.word r.dz px py) = (some ld, s1)) (hv : s1.planeLeaf cx die clk r.addr (r.word r.vb px py) = (some lv, s2))
include hd hv

/-- The update of a pixel whose planes are translated, by its cases. -/
theorem State.pixel_of : s.pixel cx die clk r px py z vid =
    let vd := r.word r.dz px py
    let vv := r.word r.vb px py
    if s2.unreach (ld.phys vd) || s2.unreach (lv.phys vv) then (s2.asyncError cx 7 vd 0, clk)
    else if timeEnd ≤ s2.pixelTime clk (ld.phys vd) (lv.phys vv) then (s2.exhaust cx, clk)
    else if fmt32.lt z (s2.depthWord ld (ld.phys vd)) then
      let u := (s2.beforeWrite cx vd).beforeWrite cx vv
      let t := u.pixelTime clk (ld.phys vd) (lv.phys vv)
      ((u.depthPut cx t z ld vd).visibilityPut cx t vid lv vv, t)
    else (s2.markRead none (s2.writeTime clk (ld.phys vd)) (ld.phys vd) (some cx), s2.writeTime clk (ld.phys vd)) := by
  rw [State.pixel, hd]
  dsimp only
  rw [hv]
  rfl

theorem State.pixel_of_unreach (h : s2.unreach (ld.phys (r.word r.dz px py)) = true ∨ s2.unreach (lv.phys (r.word r.vb px py)) = true) :
    s.pixel cx die clk r px py z vid = (s2.asyncError cx 7 (r.word r.dz px py) 0, clk) :=
  (State.pixel_of hd hv).trans (if_pos (by simpa using h))

variable (hrd : s2.unreach (ld.phys (r.word r.dz px py)) = false) (hrv : s2.unreach (lv.phys (r.word r.vb px py)) = false)
include hrd hrv

theorem State.pixel_of_exhausted (h : timeEnd ≤ s2.pixelTime clk (ld.phys (r.word r.dz px py)) (lv.phys (r.word r.vb px py))) :
    s.pixel cx die clk r px py z vid = (s2.exhaust cx, clk) :=
  (State.pixel_of hd hv).trans ((if_neg (by simp [hrd, hrv])).trans (if_pos h))

variable (htime : s2.pixelTime clk (ld.phys (r.word r.dz px py)) (lv.phys (r.word r.vb px py)) < timeEnd)
include htime

theorem State.pixel_of_not_less (h : fmt32.lt z (s2.depthWord ld (ld.phys (r.word r.dz px py))) = false) : s.pixel cx die clk r px py z vid =
    (s2.markRead none (s2.writeTime clk (ld.phys (r.word r.dz px py))) (ld.phys (r.word r.dz px py)) (some cx),
      s2.writeTime clk (ld.phys (r.word r.dz px py))) :=
  (State.pixel_of hd hv).trans ((if_neg (by simp [hrd, hrv])).trans ((if_neg (not_le.2 htime)).trans (if_neg (by simp [h]))))

theorem State.pixel_of_less (hrep : s2.replicas = []) (h : fmt32.lt z (s2.depthWord ld (ld.phys (r.word r.dz px py))) = true) :
    s.pixel cx die clk r px py z vid = ((s2.depthPut cx (s2.pixelTime clk (ld.phys (r.word r.dz px py)) (lv.phys (r.word r.vb px py))) z ld
      (r.word r.dz px py)).visibilityPut cx (s2.pixelTime clk (ld.phys (r.word r.dz px py)) (lv.phys (r.word r.vb px py))) vid lv (r.word r.vb px py),
        s2.pixelTime clk (ld.phys (r.word r.dz px py)) (lv.phys (r.word r.vb px py))) := by
  refine (State.pixel_of hd hv).trans ((if_neg (by simp [hrd, hrv])).trans ((if_neg (not_le.2 htime)).trans ((if_pos h).trans ?_)))
  dsimp only
  rw [State.beforeWrite_of_no_replica hrep, State.beforeWrite_of_no_replica hrep]

end

section
variable {s s1 s2 : State} {cx die clk : Nat} {r : FrameRec} {px py : Nat} {ld lv : Leaf}

theorem State.planeLeaf_pair_mem (hd : s.planeLeaf cx die clk r.addr (r.word r.dz px py) = (some ld, s1))
    (hv : s1.planeLeaf cx die clk r.addr (r.word r.vb px py) = (some lv, s2)) : s2.mem = s.mem := by
  have h1 := s.planeLeaf_mem cx die clk r.addr (r.word r.dz px py)
  have h2 := s1.planeLeaf_mem cx die clk r.addr (r.word r.vb px py)
  rw [hd] at h1
  rw [hv] at h2
  exact h2.trans h1

end

/-- What a pixel's two writes leave, its words in two atoms: both words, at one time, and no other byte. -/
structure PixelWritten (s q : State) (t pd pv z : Nat) (vid : Word) (kd kv : Nat) : Prop where
  depth : q.bytesAs kd pd 4 = toBytesLE 4 z
  visibility : q.bytesAs kv pv 4 = toBytesLE 4 vid.toNat
  depthTime : (q.atom pd).w = t
  visibilityTime : (q.atom pv).w = t
  other : ∀ a, a / 32 ≠ pd / 32 → a / 32 ≠ pv / 32 → q.byte a = s.byte a
  besideDepth : ∀ a, a / 32 = pd / 32 → (a < pd ∨ pd + 4 ≤ a) → q.bytesAs kd a 1 = s.bytesAs kd a 1
  besideVisibility : ∀ a, a / 32 = pv / 32 → (a < pv ∨ pv + 4 ≤ a) → q.bytesAs kv a 1 = s.bytesAs kv a 1

/-- A word of four bytes at an aligned address lies within its atom. -/
theorem word_within {pa x : Nat} (h : pa % 4 = 0) : pa % 32 + ((toBytesLE 4 x).map some).length ≤ 32 := by
  rw [List.length_map, length_toBytesLE]
  omega

theorem State.pixelWritten (s : State) (cx t z : Nat) (vid : Word) {ld lv : Leaf} {vd vv : Nat} (hpd : ld.phys vd % 4 = 0) (hpv : lv.phys vv % 4 = 0)
    (hne : ld.phys vd / 32 ≠ lv.phys vv / 32) :
    PixelWritten s ((s.depthPut cx t z ld vd).visibilityPut cx t vid lv vv) t (ld.phys vd) (lv.phys vv) z vid ld.key lv.key := by
  have hdry (u : State) : u.dryReplay none = false := rfl
  have hlen (x : Nat) : ((toBytesLE 4 x).map some).length = 4 := by rw [List.length_map, length_toBytesLE]
  have hbd := word_within (x := z) hpd
  have hbv := word_within (x := vid.toNat) hpv
  have hread (u : State) (w : Writer) (pa x : Nat) (hw : w.sheet = none) (h : pa % 32 + ((toBytesLE 4 x).map some).length ≤ 32) :
      (u.perform w t pa ((toBytesLE 4 x).map some) none).bytesAs w.key pa 4 = toBytesLE 4 x := by
    have := State.bytesAs_perform_same (s := u) (w := w) (by rw [hw]; rfl) t none (bs := toBytesLE 4 x) (by rwa [List.length_map] at h)
    rwa [length_toBytesLE] at this
  unfold State.visibilityPut
  refine ⟨?_, hread _ _ _ _ rfl hbv, ?_, ?_, fun a had hav => ?_, fun a ha hout => ?_, fun a ha hout => ?_⟩
  · rw [State.bytesAs_perform_outside (hdry _) t none hbv hne]
    exact hread _ _ _ _ rfl hbd
  · rw [(State.perform_leaves (hdry _) t _ _ none).2.1 _ hne]
    exact ((State.perform_leaves (hdry _) t _ _ none).1 _ rfl).1
  · exact ((State.perform_leaves (hdry _) t _ _ none).1 _ rfl).1
  · rw [State.byte_perform_outside (hdry _) t none hbv hav]
    exact State.byte_perform_outside (hdry _) t none hbd had
  · rw [State.bytesAs_perform_outside (hdry _) t none hbv (by omega)]
    exact State.bytesAs_perform_beside (w := { sheet := none, ctx := cx, key := ld.key, home := some (s.homeOf cx vd ld), reads := true }) (hdry _) t none ha
      (by rwa [hlen])
  · refine (State.bytesAs_perform_beside (w := { sheet := none, ctx := cx, key := lv.key, home := some ((s.depthPut cx t z ld vd).homeOf cx vv lv) })
      (hdry _) t none ha (by rwa [hlen])).trans ?_
    exact State.bytesAs_perform_outside (hdry _) t none hbd (by omega) _ _

/-! ### A plane's page (R149) -/

section
variable {s t : State} {cx die clk fr va : Nat} {l : Leaf} (hva : va < 2 ^ 48) (hl : s.leafOf cx none die clk (va / 65536) = (some l, t))
include hva hl

theorem State.planeLeaf_of : s.planeLeaf cx die clk fr va =
    if t.permits (rasterIssuer cx die clk) .write l && t.keyOk cx l then (some l, t) else (none, t.asyncError cx 3 fr 0) := by
  rw [State.planeLeaf, if_pos (show va < 281474976710656 from hva), hl]

end

/-! ### The order of primitives (R156) -/

theorem foldl_min_le (l : List Nat) (a : Nat) : l.foldl min a ≤ a ∧ ∀ x ∈ l, l.foldl min a ≤ x := by
  induction l generalizing a with
  | nil => simp
  | cons b l ih =>
    obtain ⟨hle, hall⟩ := ih (min a b)
    rw [List.foldl_cons]
    refine ⟨hle.trans (min_le_left ..), fun x hx => ?_⟩
    rcases List.mem_cons.1 hx with rfl | hx
    · exact hle.trans (min_le_right ..)
    · exact hall x hx

theorem foldl_min_mem (l : List Nat) (a : Nat) : l.foldl min a ∈ a :: l := by
  induction l generalizing a with
  | nil => simp
  | cons b l ih =>
    have h := ih (min a b)
    rw [List.foldl_cons]
    rcases List.mem_cons.1 h with h | h
    · rw [h]
      rcases min_choice a b with e | e
      · rw [e]
        exact List.mem_cons_self
      · rw [e]
        exact List.mem_cons_of_mem _ List.mem_cons_self
    · exact List.mem_cons_of_mem _ (List.mem_cons_of_mem _ h)

/-- The packets of least primitive index, each with its place. -/
def leastOf (p : Packet) (l : List Packet) : List (Packet × Nat) := ((p :: l).zipIdx).filter fun q => q.1.prim == (l.map (·.prim)).foldl min p.prim

theorem mem_leastOf {p : Packet} {l : List Packet} {q : Packet × Nat} (h : q ∈ leastOf p l) : (p :: l)[q.2]? = some q.1 ∧ ∀ x ∈ p :: l, q.1.prim ≤ x.prim := by
  obtain ⟨hmem, hprim⟩ := List.mem_filter.1 h
  obtain ⟨hle, hall⟩ := foldl_min_le (l.map (·.prim)) p.prim
  refine ⟨List.mem_zipIdx_iff_getElem?.1 hmem, fun x hx => ?_⟩
  rw [beq_iff_eq.1 hprim]
  rcases List.mem_cons.1 hx with rfl | hx
  · exact hle
  · exact hall _ (List.mem_map_of_mem hx)

theorem leastOf_ne_nil (p : Packet) (l : List Packet) : leastOf p l ≠ [] := by
  obtain ⟨x, hx, hprim⟩ := List.mem_map.1 (show (l.map (·.prim)).foldl min p.prim ∈ (p :: l).map (·.prim) from foldl_min_mem _ _)
  obtain ⟨i, hi⟩ := List.mem_iff_getElem?.1 hx
  exact List.ne_nil_of_mem (List.mem_filter.2 ⟨List.mem_zipIdx_iff_getElem? (x := (x, i)).2 hi, beq_iff_eq.2 hprim⟩)

/-- One step of the order: a packet of least index, then the rest. -/
theorem State.tokenOrder_cons (s : State) (n : Nat) (p : Packet) (l : List Packet) : ∃ q ∈ leastOf p l, ∃ u : State,
    (s.tokenOrder (n + 1) (p :: l)).1 = q.1 :: (u.tokenOrder n ((p :: l).eraseIdx q.2)).1 := by
  have hlt := Nat.mod_lt (s.free .tokenOrder) (List.length_pos_iff.2 (leastOf_ne_nil p l))
  refine ⟨_, List.getElem_mem hlt, if 1 < (leastOf p l).length then s.drew else s, ?_⟩
  rw [State.tokenOrder]
  change (match (leastOf p l)[s.free .tokenOrder % (leastOf p l).length]? with
    | none => (p :: l, if 1 < (leastOf p l).length then s.drew else s)
    | some q => _).1 = _
  rw [List.getElem?_eq_getElem hlt]
  rfl

/-- The group's packets in increasing primitive index. -/
theorem State.tokenOrder_sorted (s : State) {n : Nat} {l : List Packet} (hn : l.length ≤ n) :
    (s.tokenOrder n l).1.Perm l ∧ (s.tokenOrder n l).1.Pairwise fun a b => a.prim ≤ b.prim := by
  induction n generalizing s l with
  | zero =>
    obtain rfl := List.length_eq_zero_iff.1 (Nat.le_zero.1 hn)
    exact ⟨.refl _, .nil⟩
  | succ n ih =>
    cases l with
    | nil => exact ⟨.refl _, .nil⟩
    | cons p l =>
      obtain ⟨q, hq, u, horder⟩ := s.tokenOrder_cons n p l
      obtain ⟨hat, hleast⟩ := mem_leastOf hq
      obtain ⟨hlt, hget⟩ := List.getElem?_eq_some_iff.1 hat
      obtain ⟨hperm, hsorted⟩ := ih u (l := (p :: l).eraseIdx q.2) (by rw [List.length_eraseIdx_of_lt hlt]; omega)
      rw [horder]
      refine ⟨(hperm.cons q.1).trans ?_, List.pairwise_cons.2 ⟨fun b hb => hleast b (List.mem_of_mem_eraseIdx (hperm.subset hb)), hsorted⟩⟩
      rw [← hget]
      exact List.getElem_cons_eraseIdx_perm hlt

/-! ### What a group leaves of memory (R156, R161, R162) -/

section
variable {s : State} {die cx slot draw : Nat} {d : DrawState} {m clk : Nat}

theorem State.groupDone_mem (s : State) (die cx slot draw : Nat) (d : DrawState) (clk : Nat) : (s.groupDone die cx slot draw d clk).mem = s.mem := by
  refine ite_keeps (π := State.mem) ((State.exhaust_mem ..).trans ?_) ?_
  all_goals
    refine (State.wakeDraws_mem ..).trans ?_
    cases (tabGet cx _).bind _ <;> rfl

/-- The memory after the group is that after its primitives. -/
theorem State.rasterisedGroup_mem : (s.rasterisedGroup die cx slot draw d m clk).mem =
    (rasterised die (s.tokenOrder d.group.length d.group).1 ((s.tokenOrder d.group.length d.group).2.begun die cx (d.mergedClock m clk) (d.heldClock m clk) d
      (s.tokenOrder d.group.length d.group).1)).1.mem := State.groupDone_mem ..

theorem rasterised_of_some {ps : List Packet} {x : DrawState × Nat × State} {r : FrameRec} (h : x.1.record = some r) :
    rasterised die ps x = ps.foldl (fun q p => q.1.rasterise die q.2 r p) (x.2.2, x.2.1) := by
  simp only [rasterised, h]

theorem rasterised_of_none {ps : List Packet} {x : DrawState × Nat × State} (h : x.1.record = none) : rasterised die ps x = (x.2.2, x.2.1) := by
  simp only [rasterised, h]

/-- A draw that has its record, or has failed, does not begin again. -/
theorem State.begun_of_not {ps : List Packet} {held : Nat} (h : (d.record.isNone && !d.failed) = false) : s.begun die cx clk held d ps = (d, clk, s) := by
  unfold State.begun
  rw [h]
  cases ps <;> rfl

section
variable {p : Packet} {ps : List Packet} {held : Nat} {t : State} (hrec : d.record = none) (hfail : d.failed = false)
include hrec hfail

theorem State.begun_of_some {r : FrameRec} {v : Nat} (h : s.beginDraw die cx held p.fr = (some (r, v), t)) :
    s.begun die cx clk held d (p :: ps) = ({ d with record := some r }, max clk v, t) := by
  simp only [State.begun, hrec, hfail, Option.isNone_none, Bool.not_false, Bool.and_self, h]

theorem State.begun_of_none (h : s.beginDraw die cx held p.fr = (none, t)) :
    s.begun die cx clk held d (p :: ps) = ({ d with failed := true }, clk, t.asyncError cx 3 p.fr 0) := by
  simp only [State.begun, hrec, hfail, Option.isNone_none, Bool.not_false, Bool.and_self, h]

end

end

/-- Settles O48: the pixels by the box, whose weights every covered sample is within; a pixel by its two writes; a group by the order of its primitives. -/
theorem rasterisation : Obligations.Rasterisation := by
  unfold Obligations.Rasterisation
  refine ⟨?_, ?_, ?_, ?_⟩
  -- Which pixels, and their depths.
  · intro s die clk r p x0 y0 x1 y1 x2 y2 z0 z1 z2 hxy hz hjx0 hjx1 hjy0 hjy1
    refine ⟨_, s.rasterise_of die clk r p, FrameRec.nodup_updates hxy hz, fun u hu => FrameRec.depth_of_mem_updates hxy hz hu, fun px py => ?_⟩
    exact FrameRec.exists_mem_updates_iff hxy hz ⟨hjx0, hjx1⟩ ⟨hjy0, hjy1⟩
  -- One pixel.
  · intro s s1 s2 cx die clk r px py z vid ld lv vd vv pd pv at_ old rank less q hd hv
    refine ⟨State.planeLeaf_pair_mem hd hv, State.pixel_of_unreach hd hv, fun hrd hrv hrep hpd hpv hne hz htime => ?_, State.pixel_of_exhausted hd hv⟩
    have hlt : fmt32.lt z old = true ↔ less := Fmt.Code.lt_iff (fmt32_code_iff.2 hz) (s2.code_depthWord ld pd)
    refine ⟨fun hless => ?_, fun hless => ?_⟩
    · have hq : q = _ := State.pixel_of_less hd hv hrd hrv htime hrep (hlt.2 hless)
      have hwritten : PixelWritten s2 q.1 at_ pd pv z vid ld.key lv.key := by
        rw [hq]
        exact s2.pixelWritten cx _ z vid hpd hpv hne
      exact ⟨congrArg Prod.snd hq, hwritten.depth, hwritten.visibility, hwritten.depthTime, hwritten.visibilityTime, hwritten.other, hwritten.besideDepth,
        hwritten.besideVisibility⟩
    · have hq : q = _ := State.pixel_of_not_less hd hv hrd hrv htime (Bool.eq_false_iff.2 (mt hlt.1 hless))
      exact ⟨(congrArg (·.1.mem) hq).trans (State.markRead_mem ..), congrArg Prod.snd hq⟩
  -- A plane's page.
  · intro s t cx die clk fr va l hva hl may
    refine ⟨fun hmay => ?_, fun hmay => ?_⟩
    · exact (State.planeLeaf_of hva hl).trans (if_pos (Bool.and_eq_true_iff.2 hmay))
    · exact (State.planeLeaf_of hva hl).trans (if_neg fun h => hmay (Bool.and_eq_true_iff.1 h))
  -- A group.
  · intro s die cx slot draw d m clk hnext group clk1 held
    obtain ⟨n, hn⟩ := s.tokenOrder_choices d.group.length d.group
    obtain ⟨hperm, hsorted⟩ := s.tokenOrder_sorted (le_refl d.group.length)
    refine ⟨_, n, _, exec_rasteriseGroup_of hnext, hperm, hsorted, fun r hr => ?_, fun hr hf => ?_, fun hr hf p rest hps =>
      ⟨fun r v t ht => ?_, fun t ht => ?_⟩⟩
    all_goals rw [State.rasterisedGroup_mem]
    · rw [hn, State.begun_of_not (by rw [hr]; rfl), rasterised_of_some hr]
      rfl
    · rw [hn, State.begun_of_not (by rw [hf, Bool.not_true, Bool.and_false]), rasterised_of_none hr]
    · rw [hn, hps, State.begun_of_some (held := d.heldClock m clk) hr hf ht, rasterised_of_some rfl]
      rfl
    · have hmem := State.beginDraw_mem { s with choices := n } die cx held p.fr
      rw [ht] at hmem
      rw [hn, hps, State.begun_of_none (held := d.heldClock m clk) hr hf ht, rasterised_of_none hr, State.asyncError_mem]
      exact hmem

end Sys2Proof.Machine
end

section
/-! The fields of a word are its digits, and a word in memory begins with its length code (R181, R184). -/

namespace Sys2Proof
open Machine

/-- The fields of a word, each what remains when those below it are divided away. -/
theorem Fields.unpack_eq (w : Nat) : Fields.unpack w =
    { len := w % 4, opc := w / 4 % 256, grd := w / 4 / 256 % 16, dst := w / 4 / 256 / 16 % 256, sra := w / 4 / 256 / 16 / 256 % 256
      srb := w / 4 / 256 / 16 / 256 / 256 % 256, src := w / 4 / 256 / 16 / 256 / 256 / 256 % 256, rnd := w / 4 / 256 / 16 / 256 / 256 / 256 / 256 % 4
      xmod := w / 4 / 256 / 16 / 256 / 256 / 256 / 256 / 4 % 64, type := w / 4 / 256 / 16 / 256 / 256 / 256 / 256 / 4 / 64 % 16
      isel := w / 4 / 256 / 16 / 256 / 256 / 256 / 256 / 4 / 64 / 16 % 4, sub := w / 4 / 256 / 16 / 256 / 256 / 256 / 256 / 4 / 64 / 16 / 4 % 16
      ext := w / 4 / 256 / 16 / 256 / 256 / 256 / 256 / 4 / 64 / 16 / 4 / 16 } := by
  simp only [Fields.unpack, Nat.div_div_eq_div_mul, Nat.reduceMul]

theorem digit_mod {a n : Nat} (h : a < n) (b : Nat) : (a + n * b) % n = a := by
  rw [Nat.add_mul_mod_self_left, Nat.mod_eq_of_lt h]

theorem digit_div {a n : Nat} (h : a < n) (b : Nat) : (a + n * b) / n = b := by
  rw [Nat.add_mul_div_left _ _ (Nat.zero_lt_of_lt h), Nat.div_eq_of_lt h, Nat.zero_add]

theorem mod_add_mul {w n b : Nat} (h : b = w / n) : w % n + n * b = w := h ▸ Nat.mod_add_div ..

theorem Fields.inRange_iff {f : Fields} : f.inRange = true ↔ f.len < 3 ∧ f.opc < 256 ∧ f.grd < 16 ∧ f.dst < 256 ∧ f.sra < 256 ∧ f.srb < 256
    ∧ f.src < 256 ∧ f.rnd < 4 ∧ f.xmod < 64 ∧ f.type < 16 ∧ f.isel < 4 ∧ f.sub < 16
    ∧ f.ext < if f.len = 0 then 1 else if f.len = 1 then 4294967296 else 18446744073709551616 := by
  simp only [Fields.inRange, Bool.and_eq_true, decide_eq_true_eq, beq_iff_eq, and_assoc]

theorem Fields.unpack_pack {f : Fields} (h : f.inRange = true) : Fields.unpack f.pack = f := by
  obtain ⟨hlen, hopc, hgrd, hdst, hsra, hsrb, hsrc, hrnd, hxmod, htype, hisel, hsub, -⟩ := Fields.inRange_iff.1 h
  have hlen : f.len < 4 := hlen.trans (by decide)
  rw [Fields.unpack_eq]
  unfold Fields.pack
  simp only [digit_mod hlen, digit_div hlen, digit_mod hopc, digit_div hopc, digit_mod hgrd, digit_div hgrd, digit_mod hdst, digit_div hdst,
    digit_mod hsra, digit_div hsra, digit_mod hsrb, digit_div hsrb, digit_mod hsrc, digit_div hsrc, digit_mod hrnd, digit_div hrnd,
    digit_mod hxmod, digit_div hxmod, digit_mod htype, digit_div htype, digit_mod hisel, digit_div hisel, digit_mod hsub, digit_div hsub]

theorem Fields.pack_unpack (w : Nat) : (Fields.unpack w).pack = w := by
  rw [Fields.unpack_eq]
  unfold Fields.pack
  dsimp only
  iterate 12 apply mod_add_mul
  rfl

/-- A length code is one of three. -/
theorem lt_three_cases {n : Nat} (h : n < 3) : n = 0 ∨ n = 1 ∨ n = 2 := by omega

theorem Fields.inRange_unpack {w : Nat} (h : w < 2 ^ (32 + 32 * (w % 4 + 1))) (hlen : w % 4 < 3) : (Fields.unpack w).inRange = true := by
  have hext : w / 18446744073709551616 < if w % 4 = 0 then 1 else if w % 4 = 1 then 4294967296 else 18446744073709551616 := by
    obtain e | e | e := lt_three_cases hlen <;> rw [e] at h ⊢ <;> simp <;> omega
  simp [Fields.inRange_iff, Fields.unpack, Nat.mod_lt, hlen, hext]

/-- A word's size is its length code's. -/
theorem Fields.pack_lt {f : Fields} (h : f.inRange = true) : f.pack < 2 ^ (8 * lengthBytes f.len) := by
  have hp := congrArg Fields.ext (Fields.unpack_pack h)
  obtain ⟨hlen, -, -, -, -, -, -, -, -, -, -, -, hext⟩ := Fields.inRange_iff.1 h
  rw [← hp] at hext
  obtain e | e | e := lt_three_cases hlen <;> rw [e] at hext ⊢ <;> simp [Fields.unpack, lengthBytes] at hext ⊢ <;> omega

/-- The low bytes of a longer run of a number's bytes hold the number when it fits them. -/
theorem take_toBytesLE (n w : Nat) {k : Nat} (h : k ≤ n) : (toBytesLE n w).take k = toBytesLE k w := by
  induction k generalizing n w with
  | zero => rfl
  | succ k ih =>
    obtain ⟨n, rfl⟩ : ∃ m, n = m + 1 := ⟨n - 1, by omega⟩
    rw [toBytesLE, toBytesLE, List.take_succ_cons, ih n _ (by omega)]

theorem Fields.pack_mod (f : Fields) (h : f.inRange = true) : f.pack % 4 = f.len := by
  have hp := congrArg Fields.len (Fields.unpack_pack h)
  simpa only [Fields.unpack] using hp

/-- The bytes that begin with a word's give its fields. -/
theorem bytesFields_pack {f : Fields} (h : f.inRange = true) {n : Nat} (hn : lengthBytes f.len ≤ n) :
    bytesFields (toBytesLE n f.pack) = .ok f := by
  obtain ⟨hlen, -⟩ := Fields.inRange_iff.1 h
  have hone : 1 ≤ n := by unfold lengthBytes at hn; omega
  have hcode : ofBytesLE ((toBytesLE n f.pack).take 1) % 4 = f.len := by
    rw [take_toBytesLE _ _ hone, Machine.ofBytesLE_toBytesLE, pow_one, Nat.mod_mod_of_dvd _ (by decide), f.pack_mod h]
  have hword : ofBytesLE ((toBytesLE n f.pack).take (lengthBytes f.len)) = f.pack := by
    rw [take_toBytesLE _ _ hn, Machine.ofBytesLE_toBytesLE]
    exact Nat.mod_eq_of_lt ((Fields.pack_lt h).trans_eq (by rw [pow_mul]; rfl))
  unfold bytesFields
  simp only [hcode, hword, Fields.unpack_pack h, Machine.length_toBytesLE, beq_iff_eq, hlen.ne, not_lt.2 hn, if_false]

end Sys2Proof
end

section
/-! What the encoder puts into a word of guard, registers, sources and immediates, the decoder reads back (R187, R189, R190, R227). -/

namespace Sys2Proof
open Machine

/-- The instruction has a word, of fields within their widths, that decodes to it. -/
def Instr.Encodes (i : Instr) : Prop := ∃ f, encodeFields i = some f ∧ f.inRange = true ∧ decodeFields f = .ok i

@[simp] theorem need_true (r : Reject) : need true r = .ok () := rfl
@[simp] theorem ok_bind {α β : Type} (a : α) (f : α → Except Reject β) : ((.ok a : Except Reject α) >>= f) = f a := rfl
@[simp] theorem ok_pure {α : Type} (a : α) : (pure a : Except Reject α) = .ok a := rfl
@[simp] theorem map_ok {α β : Type} (a : α) (f : α → β) : (Except.ok a : Except Reject α).map f = .ok (f a) := rfl

/-! ### Guards and registers -/

/-- The guard of a code. -/
def Guard.ofCode (c : Nat) : Guard := { neg := c / 8 == 1, p := Fin.ofNat 8 c }
@[simp] theorem Fields.guard_eq (f : Fields) : f.guard = Guard.ofCode f.grd := rfl
@[simp] theorem Guard.code_lt (g : Guard) : g.code < 16 := by
  unfold Guard.code
  split <;> omega
@[simp] theorem Guard.ofCode_code (g : Guard) : Guard.ofCode g.code = g := by
  obtain ⟨neg, p⟩ := g
  have hp := p.isLt
  cases neg <;> simp [Guard.ofCode, Guard.code, Fin.ext_iff]
  omega

@[simp] theorem Reg.code_lt (r : Reg) : r.code < 256 := by
  cases r <;> (simp only [Reg.code]; omega)
@[simp] theorem Reg.ofCode_code (r : Reg) : Reg.ofCode r.code = r := by
  cases r <;> simp [Reg.code, Reg.ofCode, Fin.ofNat_eq_cast]
theorem Reg.code_mod_two (r : Reg) : r.code % 2 = r.num % 2 := by
  cases r <;> simp [Reg.code, Reg.num, Nat.add_mod]
theorem regOf_code {r : Reg} {pair : Bool} (h : r.okPair pair = true) : regOf r.code pair = .ok r := by
  unfold regOf
  rw [Reg.code_mod_two, Reg.ofCode_code, if_neg]
  cases pair <;> simp_all [Reg.okPair]

/-! ### Sources (R189, R190, R227) -/

section
variable {f : Fields} {k j n : Nat} {o : Operand} {pair : Bool}

@[simp] theorem Fields.withSource_opc (f : Fields) (k : Nat) (o : Operand) : (f.withSource k o).opc = f.opc := by
  cases o <;> simp [Fields.withSource, apply_ite Fields.opc]
@[simp] theorem Fields.withSource_grd (f : Fields) (k : Nat) (o : Operand) : (f.withSource k o).grd = f.grd := by
  cases o <;> simp [Fields.withSource, apply_ite Fields.grd]
@[simp] theorem Fields.withSource_dst (f : Fields) (k : Nat) (o : Operand) : (f.withSource k o).dst = f.dst := by
  cases o <;> simp [Fields.withSource, apply_ite Fields.dst]
@[simp] theorem Fields.withSource_rnd (f : Fields) (k : Nat) (o : Operand) : (f.withSource k o).rnd = f.rnd := by
  cases o <;> simp [Fields.withSource, apply_ite Fields.rnd]
@[simp] theorem Fields.withSource_xmod (f : Fields) (k : Nat) (o : Operand) : (f.withSource k o).xmod = f.xmod := by
  cases o <;> simp [Fields.withSource, apply_ite Fields.xmod]
@[simp] theorem Fields.withSource_type (f : Fields) (k : Nat) (o : Operand) : (f.withSource k o).type = f.type := by
  cases o <;> simp [Fields.withSource, apply_ite Fields.type]
@[simp] theorem Fields.withSource_sub (f : Fields) (k : Nat) (o : Operand) : (f.withSource k o).sub = f.sub := by
  cases o <;> simp [Fields.withSource, apply_ite Fields.sub]

/-- The places of the three sources (R187). -/
def IsSource (k : Nat) : Prop := k = 1 ∨ k = 2 ∨ k = 3

/-- What putting a source leaves: its field, ISEL and the length code. -/
theorem Fields.withSource_field (hk : IsSource k) (f : Fields) (o : Operand) :
    (f.withSource k o).field k = match o with | .reg r => r.code | .imm _ | .imm64 _ => f.field k := by
  obtain rfl | rfl | rfl := hk <;> cases o <;> rfl
theorem Fields.withSource_field_of_ne (hk : IsSource k) (hj : IsSource j) (h : j ≠ k) (f : Fields) (o : Operand) :
    (f.withSource k o).field j = f.field j := by
  obtain rfl | rfl | rfl := hk <;> obtain rfl | rfl | rfl := hj <;> cases o <;> simp_all [Fields.withSource, Fields.field]
@[simp] theorem Fields.withSource_isel (f : Fields) (k : Nat) (o : Operand) : (f.withSource k o).isel = if o.isImm then k else f.isel := by
  cases o <;> simp [Fields.withSource, Operand.isImm, apply_ite Fields.isel]
theorem Fields.withSource_len (f : Fields) (k : Nat) (o : Operand) :
    (f.withSource k o).len = match o with | .reg _ => f.len | .imm _ => 1 | .imm64 _ => 2 := by
  cases o <;> simp [Fields.withSource, apply_ite Fields.len]

theorem Fields.withSource_isel_ne (h : f.isel ≠ j) (hk : k ≠ j) : (f.withSource k o).isel ≠ j := by
  rw [Fields.withSource_isel]
  split <;> assumption

/-- A source put into an empty field is read back. -/
theorem Fields.source_withSource (hk : IsSource k) (hfield : f.field k = 0) (hisel : f.isel ≠ k) (ho : o.ok pair = true) :
    (f.withSource k o).source k pair = .ok o := by
  have hf := Fields.withSource_field hk f o
  unfold Fields.source
  rw [hf, Fields.withSource_isel]
  cases o with
  | reg r => simp [hisel, Operand.isImm, regOf_code ho]
  | imm w => simp [hfield, Operand.isImm, Fields.withSource]
  | imm64 w =>
    obtain rfl : pair = true := ho
    simp [hfield, Operand.isImm, Fields.withSource]

/-- Another source is read as before, unless both are immediates. -/
theorem Fields.source_withSource_of_ne (hk : IsSource k) (hj : IsSource j) (h : j ≠ k) (himm : o.isImm = true → f.isel ≠ j) :
    (f.withSource k o).source j pair = f.source j pair := by
  have hf := Fields.withSource_field_of_ne hk hj h f o
  unfold Fields.source
  cases o with
  | reg r =>
    have hext : (f.withSource k (.reg r)).ext = f.ext := by simp [Fields.withSource, apply_ite Fields.ext]
    simp [hf, hext, Operand.isImm, Fields.withSource_len]
  | imm w => simp [hf, h.symm, himm rfl, Operand.isImm]
  | imm64 w => simp [hf, h.symm, himm rfl, Operand.isImm]

/-- A source among the first `n` keeps the form (R227). -/
theorem Fields.aluForm_withSource (hk : 1 ≤ k) (hn : k ≤ n) (h : f.aluForm n = .ok ()) : (f.withSource k o).aluForm n = .ok () := by
  unfold Fields.aluForm at h ⊢
  cases o <;> simp_all [Operand.isImm, Fields.withSource_len]

end

/-! ### Destination and sources -/

/-- A word that holds no source yet. -/
@[simp] def Fields.Sourceless (f : Fields) : Prop := f.len = 0 ∧ f.isel = 0 ∧ f.sra = 0 ∧ f.srb = 0 ∧ f.src = 0

section
variable {f : Fields} {pd pa pb pc : Bool} {d : Reg} {a b c : Operand}

theorem uniformRule_of_okSources {os : List Operand} (h : okSources d os = true) : uniformRule d os = .ok () := by
  simp only [okSources, Bool.and_eq_true] at h
  rw [uniformRule, h.2, need_true]

/-- Of two sources, and of any two of three, one at most is an immediate (R189). -/
theorem not_both_imm (h : okSources d [a, b] = true) (hb : b.isImm = true) : a.isImm = false := by
  by_contra ha
  simp [okSources, hb, Bool.not_eq_false _ ▸ ha] at h
theorem not_two_imm (h : okSources d [a, b, c] = true) :
    (b.isImm = true → a.isImm = false) ∧ (c.isImm = true → a.isImm = false ∧ b.isImm = false) := by
  simp only [okSources, List.filter_cons, List.filter_nil, Bool.and_eq_true, decide_eq_true_eq] at h
  cases ha : a.isImm <;> cases hb : b.isImm <;> cases hc : c.isImm <;> simp [ha, hb, hc] at h ⊢

section
variable (hf : f.Sourceless)
include hf

theorem Fields.aluForm_of_sourceless (n : Nat) : f.aluForm n = .ok () := by
  obtain ⟨hlen, hisel, -⟩ := hf
  simp [Fields.aluForm, hlen, hisel]
theorem Fields.source_one (ha : a.ok pa = true) : (f.withSource 1 a).source 1 pa = .ok a := by
  obtain ⟨hlen, hisel, hsra, hsrb, hsrc⟩ := hf
  exact Fields.source_withSource (.inl rfl) hsra (by simp [hisel]) ha
theorem Fields.source_one_of_two (himm : b.isImm = true → a.isImm = false) (ha : a.ok pa = true) :
    ((f.withSource 1 a).withSource 2 b).source 1 pa = .ok a :=
  (Fields.source_withSource_of_ne (.inr (.inl rfl)) (.inl rfl) (by decide) fun hb => by simp [himm hb, hf.2.1]).trans (Fields.source_one hf ha)
theorem Fields.source_two_of_two (hb : b.ok pb = true) : ((f.withSource 1 a).withSource 2 b).source 2 pb = .ok b := by
  obtain ⟨hlen, hisel, hsra, hsrb, hsrc⟩ := hf
  exact Fields.source_withSource (.inr (.inl rfl)) ((Fields.withSource_field_of_ne (.inl rfl) (.inr (.inl rfl)) (by decide) f a).trans hsrb)
    (Fields.withSource_isel_ne (by simp [hisel]) (by decide)) hb
theorem Fields.aluForm_of_two : ((f.withSource 1 a).withSource 2 b).aluForm 2 = .ok () :=
  Fields.aluForm_withSource (by decide) le_rfl (Fields.aluForm_withSource le_rfl (by decide) (Fields.aluForm_of_sourceless hf 2))

end

theorem Fields.alu1_withSource (h : okAlu1 pd pa d a = true) (hf : f.Sourceless) (hdst : f.dst = d.code) : (f.withSource 1 a).alu1 pd pa = .ok (d, a) := by
  simp only [okAlu1, Bool.and_eq_true] at h
  obtain ⟨⟨hd, ha⟩, hs⟩ := h
  have hform : (f.withSource 1 a).aluForm 1 = .ok () := Fields.aluForm_withSource le_rfl le_rfl (Fields.aluForm_of_sourceless hf 1)
  have hunused : (f.withSource 1 a).unused false false true true = .ok () := by
    obtain ⟨-, -, -, hsrb, hsrc⟩ := hf
    cases a <;> simp [Fields.unused, Fields.withSource, hsrb, hsrc]
  simp [Fields.alu1, hform, hunused, Fields.source_one hf ha, hdst, regOf_code hd, uniformRule_of_okSources hs]

theorem Fields.alu2_withSource (h : okAlu2 pd pa pb d a b = true) (hf : f.Sourceless) (hdst : f.dst = d.code) : ((f.withSource 1 a).withSource 2 b).alu2 pd pa pb = .ok (d, a, b) := by
  simp only [okAlu2, Bool.and_eq_true] at h
  obtain ⟨⟨⟨hd, ha⟩, hb⟩, hs⟩ := h
  have hunused : ((f.withSource 1 a).withSource 2 b).unused false false false true = .ok () := by
    obtain ⟨-, -, -, -, hsrc⟩ := hf
    cases a <;> cases b <;> simp [Fields.unused, Fields.withSource, hsrc]
  simp [Fields.alu2, Fields.aluForm_of_two hf, hunused, Fields.source_one_of_two hf (not_both_imm hs) ha, Fields.source_two_of_two hf hb, hdst,
    regOf_code hd, uniformRule_of_okSources hs]

theorem Fields.alu3_withSource (h : okAlu3 pd pa pb pc d a b c = true) (hf : f.Sourceless) (hdst : f.dst = d.code) :
    (((f.withSource 1 a).withSource 2 b).withSource 3 c).alu3 pd pa pb pc = .ok (d, a, b, c) := by
  simp only [okAlu3, Bool.and_eq_true] at h
  obtain ⟨⟨⟨⟨hd, ha⟩, hb⟩, hc⟩, hs⟩ := h
  obtain ⟨hba, hcab⟩ := not_two_imm hs
  obtain ⟨hlen, hisel, hsra, hsrb, hsrc⟩ := id hf
  have hform : (((f.withSource 1 a).withSource 2 b).withSource 3 c).aluForm 3 = .ok () :=
    Fields.aluForm_withSource (by decide) le_rfl (Fields.aluForm_withSource (by decide) (by decide)
      (Fields.aluForm_withSource le_rfl (by decide) (Fields.aluForm_of_sourceless hf 3)))
  have hone : (((f.withSource 1 a).withSource 2 b).withSource 3 c).source 1 pa = .ok a :=
    (Fields.source_withSource_of_ne (.inr (.inr rfl)) (.inl rfl) (by decide) fun hi => by simp [hcab hi, hisel]).trans
      (Fields.source_one_of_two hf hba ha)
  have htwo : (((f.withSource 1 a).withSource 2 b).withSource 3 c).source 2 pb = .ok b :=
    (Fields.source_withSource_of_ne (.inr (.inr rfl)) (.inr (.inl rfl)) (by decide) fun hi => by simp [hcab hi, hisel]).trans
      (Fields.source_two_of_two hf hb)
  have hthree : (((f.withSource 1 a).withSource 2 b).withSource 3 c).source 3 pc = .ok c :=
    Fields.source_withSource (.inr (.inr rfl)) (((Fields.withSource_field_of_ne (.inr (.inl rfl)) (.inr (.inr rfl)) (by decide) _ b).trans
      (Fields.withSource_field_of_ne (.inl rfl) (.inr (.inr rfl)) (by decide) f a)).trans hsrc)
      (Fields.withSource_isel_ne (Fields.withSource_isel_ne (by simp [hisel]) (by decide)) (by decide)) hc
  simp [Fields.alu3, hform, hone, htwo, hthree, hdst, regOf_code hd, uniformRule_of_okSources hs]

end

/-! ### The encoder's words and the decoder's checks of them -/

@[simp] theorem Fields.form_eq (f : Fields) (len isel : Nat) : f.form len isel = need (f.len == len && f.isel == isel) .badForm := rfl
@[simp] theorem Fields.mods_eq (f : Fields) (sub type xmod rnd : Nat) :
    f.mods sub type xmod rnd = need (f.sub == sub && f.type == type && f.xmod == xmod && f.rnd == rnd) .badModifier := rfl
@[simp] theorem Fields.unused_eq (f : Fields) (d a b c : Bool) :
    f.unused d a b c = need ((!d || f.dst == 0) && (!a || f.sra == 0) && (!b || f.srb == 0) && (!c || f.src == 0)) .unusedField := rfl

@[simp] theorem blank_eq (g : Guard) (opc : Nat) : blank g opc = { len := 0, opc := opc, grd := g.code } := rfl
@[simp] theorem Fields.put1_eq (f : Fields) (d : Reg) (a : Operand) : f.put1 d a = { f with dst := d.code }.withSource 1 a := rfl
@[simp] theorem Fields.put2_eq (f : Fields) (d : Reg) (a b : Operand) : f.put2 d a b = ({ f with dst := d.code }.withSource 1 a).withSource 2 b := rfl
@[simp] theorem Fields.put3_eq (f : Fields) (d : Reg) (a b c : Operand) :
    f.put3 d a b c = (({ f with dst := d.code }.withSource 1 a).withSource 2 b).withSource 3 c := rfl

section
variable {opc grd dst rnd xmod type sub : Nat} {pd pa pb pc : Bool} {d : Reg} {a b c : Operand}

/-- A word of an opcode, a guard, a destination and modifiers that holds no source yet. -/
abbrev Fields.head (opc grd dst rnd xmod type sub : Nat) : Fields :=
  { len := 0, opc := opc, grd := grd, dst := dst, sra := 0, srb := 0, src := 0, rnd := rnd, xmod := xmod, type := type, isel := 0, sub := sub, ext := 0 }

theorem Fields.sourceless_head : (Fields.head opc grd dst rnd xmod type sub).Sourceless := ⟨rfl, rfl, rfl, rfl, rfl⟩
theorem Fields.alu1_head (h : okAlu1 pd pa d a = true) : ((Fields.head opc grd d.code rnd xmod type sub).withSource 1 a).alu1 pd pa = .ok (d, a) :=
  Fields.alu1_withSource h Fields.sourceless_head rfl
theorem Fields.alu2_head (h : okAlu2 pd pa pb d a b = true) :
    (((Fields.head opc grd d.code rnd xmod type sub).withSource 1 a).withSource 2 b).alu2 pd pa pb = .ok (d, a, b) :=
  Fields.alu2_withSource h Fields.sourceless_head rfl
theorem Fields.alu3_head (h : okAlu3 pd pa pb pc d a b c = true) :
    ((((Fields.head opc grd d.code rnd xmod type sub).withSource 1 a).withSource 2 b).withSource 3 c).alu3 pd pa pb pc = .ok (d, a, b, c) :=
  Fields.alu3_withSource h Fields.sourceless_head rfl

/-- What a compare reads of its word (R239, R255). -/
theorem Fields.compare_head {comb : Combine} (h : okCmp comb a b = true) :
    let f := ((Fields.head opc grd 0 rnd xmod type sub).withSource 1 a).withSource 2 b
    (f.len != 2) = true ∧ f.aluForm 2 = .ok () ∧ f.dst = 0 ∧ f.src = 0 ∧ f.source 1 false = .ok a ∧ f.source 2 false = .ok b := by
  simp only [okCmp, Bool.and_eq_true] at h
  obtain ⟨⟨⟨ha, hb⟩, himm⟩, -⟩ := h
  refine ⟨bne_iff_ne.2 ?_, Fields.aluForm_of_two Fields.sourceless_head, ?_, ?_, Fields.source_one_of_two Fields.sourceless_head (fun hb' => ?_) ha,
    Fields.source_two_of_two Fields.sourceless_head hb⟩
  · cases a <;> cases b <;> simp_all [Operand.ok, Fields.withSource_len]
  · simp
  · cases a <;> cases b <;> rfl
  · simpa [hb'] using himm
end

/-! ### Fields within their widths -/

@[simp] theorem Fields.inRange_mk {len opc grd dst sra srb src rnd xmod type isel sub ext : Nat} :
    (Fields.mk len opc grd dst sra srb src rnd xmod type isel sub ext).inRange = true ↔ len < 3 ∧ opc < 256 ∧ grd < 16 ∧ dst < 256 ∧ sra < 256
      ∧ srb < 256 ∧ src < 256 ∧ rnd < 4 ∧ xmod < 64 ∧ type < 16 ∧ isel < 4 ∧ sub < 16
      ∧ ext < if len = 0 then 1 else if len = 1 then 4294967296 else 18446744073709551616 := Fields.inRange_iff
@[simp] theorem Fields.inRange_withSource {f : Fields} {k : Nat} (h : f.inRange = true) (hk : k < 4) (o : Operand) : (f.withSource k o).inRange = true := by
  rw [Fields.inRange_iff] at h
  cases o with
  | reg r => unfold Fields.withSource; (repeat' split) <;> simp_all
  | imm w =>
    have hw := w.isLt
    simp_all [Fields.withSource]
  | imm64 w =>
    have hw := w.isLt
    simp_all [Fields.withSource]
@[simp] theorem Fields.inRange_three {f : Fields} (h : f.inRange = true) (a b c : Operand) :
    (((f.withSource 1 a).withSource 2 b).withSource 3 c).inRange = true :=
  Fields.inRange_withSource (Fields.inRange_withSource (Fields.inRange_withSource h (by decide) a) (by decide) b) (by decide) c

end Sys2Proof
end

section
/-! The decoder sends an opcode to its range, and codes of types and modifiers are read back (R192). -/

namespace Sys2Proof
open Machine

/-! ### Numbers of registers and objects -/

theorem vecOf_val {n : Fin 192} {pair : Bool} (h : Reg.okPair (.v n) pair = true) : vecOf n.val pair = .ok n := by
  have hodd : (pair && n.val % 2 == 1) = false := by cases pair <;> simp_all [Reg.okPair, Reg.num]
  simp [vecOf, hodd]
theorem uniOf_val {n : Fin 64} {pair : Bool} (h : Reg.okPair (.s n) pair = true) : uniOf (n.val + 192) pair = .ok n := by
  have hodd : (pair && (n.val + 192) % 2 == 1) = false := by cases pair <;> simp_all [Reg.okPair, Reg.num, Nat.add_mod]
  simp [uniOf, hodd]
@[simp] theorem vecOf_val_single (n : Fin 192) : vecOf n.val false = .ok n := vecOf_val rfl
@[simp] theorem uniOf_val_single (n : Fin 64) : uniOf (n.val + 192) false = .ok n := uniOf_val rfl
@[simp] theorem vecOf_val_pair {n : Fin 192} (h : n.val % 2 = 0) : vecOf n.val true = .ok n := vecOf_val (by simp [Reg.okPair, Reg.num, h])
@[simp] theorem uniOf_val_pair {n : Fin 64} (h : n.val % 2 = 0) : uniOf (n.val + 192) true = .ok n := uniOf_val (by simp [Reg.okPair, Reg.num, h])
@[simp] theorem regOf_code_single (r : Reg) : regOf r.code false = .ok r := regOf_code rfl

/-! ### The decoder by ranges of opcodes (R192) -/

/-- An instruction has a word when it has fields that the decoder of their opcode's range reads back. -/
theorem Instr.Encodes.of_fields {i : Instr} {f : Fields} (hf : encodeFields i = some f) (hr : f.inRange = true)
    (hd : f.len < 3 → decodeFields f = .ok i) : i.Encodes :=
  ⟨f, hf, hr, hd (Fields.inRange_iff.1 hr).1⟩

section
variable {i : Instr} {f : Fields} (hf : encodeFields i = some f)
include hf

theorem Instr.Encodes.of_control (h : f.inRange = true ∧ f.opc ≤ 0x0D ∧ f.control = .ok i) : i.Encodes := by
  obtain ⟨hr, hhi, hd⟩ := h
  exact .of_fields hf hr fun hlen => by rw [decodeFields, if_neg (by omega), if_pos hhi, hd]
theorem Instr.Encodes.of_integer (h : f.inRange = true ∧ (0x20 ≤ f.opc ∧ f.opc ≤ 0x2C) ∧ f.integer = .ok i) : i.Encodes := by
  obtain ⟨hr, ⟨hlo, hhi⟩, hd⟩ := h
  exact .of_fields hf hr fun hlen => by simp only [decodeFields, hd]; grind
theorem Instr.Encodes.of_bits (h : f.inRange = true ∧ (0x2D ≤ f.opc ∧ f.opc ≤ 0x34) ∧ f.bits = .ok i) : i.Encodes := by
  obtain ⟨hr, ⟨hlo, hhi⟩, hd⟩ := h
  exact .of_fields hf hr fun hlen => by simp only [decodeFields, hd]; grind
theorem Instr.Encodes.of_moves (h : f.inRange = true ∧ (0x35 ≤ f.opc ∧ f.opc ≤ 0x3F) ∧ f.moves = .ok i) : i.Encodes := by
  obtain ⟨hr, ⟨hlo, hhi⟩, hd⟩ := h
  exact .of_fields hf hr fun hlen => by simp only [decodeFields, hd]; grind
theorem Instr.Encodes.of_float (h : f.inRange = true ∧ (0x40 ≤ f.opc ∧ f.opc ≤ 0x52) ∧ f.float = .ok i) : i.Encodes := by
  obtain ⟨hr, ⟨hlo, hhi⟩, hd⟩ := h
  exact .of_fields hf hr fun hlen => by simp only [decodeFields, hd]; grind
theorem Instr.Encodes.of_convert (h : f.inRange = true ∧ (0x53 ≤ f.opc ∧ f.opc ≤ 0x7F) ∧ f.convert = .ok i) : i.Encodes := by
  obtain ⟨hr, ⟨hlo, hhi⟩, hd⟩ := h
  exact .of_fields hf hr fun hlen => by simp only [decodeFields, hd]; grind
theorem Instr.Encodes.of_memory (h : f.inRange = true ∧ (0x80 ≤ f.opc ∧ f.opc ≤ 0x9F) ∧ f.memory = .ok i) : i.Encodes := by
  obtain ⟨hr, ⟨hlo, hhi⟩, hd⟩ := h
  exact .of_fields hf hr fun hlen => by simp only [decodeFields, hd]; grind
theorem Instr.Encodes.of_atomic (h : f.inRange = true ∧ (0xA0 ≤ f.opc ∧ f.opc ≤ 0xAF) ∧ f.atomic = .ok i) : i.Encodes := by
  obtain ⟨hr, ⟨hlo, hhi⟩, hd⟩ := h
  exact .of_fields hf hr fun hlen => by simp only [decodeFields, hd]; grind
theorem Instr.Encodes.of_sync (h : f.inRange = true ∧ (0xB0 ≤ f.opc ∧ f.opc ≤ 0xBF) ∧ f.sync = .ok i) : i.Encodes := by
  obtain ⟨hr, ⟨hlo, hhi⟩, hd⟩ := h
  exact .of_fields hf hr fun hlen => by simp only [decodeFields, hd]; grind
theorem Instr.Encodes.of_lanes (h : f.inRange = true ∧ (0xC0 ≤ f.opc ∧ f.opc ≤ 0xCF) ∧ f.lanes = .ok i) : i.Encodes := by
  obtain ⟨hr, ⟨hlo, hhi⟩, hd⟩ := h
  exact .of_fields hf hr fun hlen => by simp only [decodeFields, hd]; grind
theorem Instr.Encodes.of_matrix (h : f.inRange = true ∧ (0xD0 ≤ f.opc ∧ f.opc ≤ 0xDF) ∧ f.matrix = .ok i) : i.Encodes := by
  obtain ⟨hr, ⟨hlo, hhi⟩, hd⟩ := h
  exact .of_fields hf hr fun hlen => by simp only [decodeFields, hd]; grind
theorem Instr.Encodes.of_engine (h : f.inRange = true ∧ (0xE0 ≤ f.opc ∧ f.opc ≤ 0xEF) ∧ f.engine = .ok i) : i.Encodes := by
  obtain ⟨hr, ⟨hlo, hhi⟩, hd⟩ := h
  exact .of_fields hf hr fun hlen => by simp only [decodeFields, hd]; grind
theorem Instr.Encodes.of_system (h : f.inRange = true ∧ 0xF0 ≤ f.opc ∧ f.system = .ok i) : i.Encodes := by
  obtain ⟨hr, hlo, hd⟩ := h
  exact .of_fields hf hr fun hlen => by simp only [decodeFields, hd]; grind
end

/-! ### Codes of types and modifiers -/

@[simp] theorem intTy_code (t : IntTy) : intTy t.code = .ok t := by cases t <;> rfl
@[simp] theorem IntTy.code_lt (t : IntTy) : t.code < 16 := by cases t <;> decide
@[simp] theorem addTy_code (t : AddTy) : addTy t.code = .ok t := by cases t <;> rfl
@[simp] theorem AddTy.code_lt (t : AddTy) : t.code < 16 := by cases t <;> decide
@[simp] theorem bit_true : bit true = 1 := rfl
@[simp] theorem bit_false : bit false = 0 := rfl
@[simp] theorem bit_le_one (b : Bool) : bit b ≤ 1 := by cases b <;> decide
@[simp] theorem bit_beq_one (b : Bool) : (bit b == 1) = b := by cases b <;> rfl
@[simp] theorem bit_lt_two (b : Bool) : bit b < 2 := by cases b <;> decide
@[simp] theorem bit_lt (b : Bool) {n : Nat} (h : 1 < n) : bit b < n := by have := bit_lt_two b; omega

end Sys2Proof
end

section
/-! Instructions of control, integer arithmetic and logic have a word that decodes to them (R216, R226, R232). -/

namespace Sys2Proof
open Machine

@[simp] theorem bitTy_code (t : BitTy) : bitTy t.code = .ok t := by cases t <;> rfl
@[simp] theorem bitTy0_code (t : BitTy) : bitTy0 t.code = .ok t := by cases t <;> rfl
@[simp] theorem BitTy.code_lt (t : BitTy) : t.code < 16 := by cases t <;> decide
@[simp] theorem floatTy_code (t : FloatTy) : floatTy t.code = .ok t := by cases t <;> rfl
@[simp] theorem FloatTy.code_lt (t : FloatTy) : t.code < 16 := by cases t <;> decide
@[simp] theorem halfTy_code (t : HalfTy) : halfTy t.code = .ok t := by cases t <;> rfl
@[simp] theorem HalfTy.code_lt (t : HalfTy) : t.code < 16 := by cases t <;> decide
@[simp] theorem rndOf_code (r : Rnd) : rndOf r.code = r := by cases r <;> rfl
@[simp] theorem Rnd.code_lt (r : Rnd) : r.code < 4 := by cases r <;> decide
@[simp] theorem icmpOf_code (c : ICmp) : icmpOf c.code = .ok c := by cases c <;> rfl
@[simp] theorem ICmp.code_lt (c : ICmp) : c.code < 16 := by cases c <;> decide
@[simp] theorem fcmpOf_code (c : FCmp) : fcmpOf c.code = .ok c := by cases c <;> rfl
@[simp] theorem FCmp.code_lt (c : FCmp) : c.code < 16 := by cases c <;> decide
@[simp] theorem combineOf_code (c : Combine) : combineOf c.rnd c.pq = .ok c := by cases c <;> simp [combineOf, Combine.rnd, Combine.pq]
@[simp] theorem Combine.rnd_lt (c : Combine) : c.rnd < 4 := by cases c <;> simp [Combine.rnd]
@[simp] theorem Combine.pq_add_lt (k : Fin 8) (c : Combine) : k.val + 8 * c.pq < 64 := by cases c <;> (simp only [Combine.pq]; omega)

/-! ### A low field and the bits above it -/

section
variable {n : Nat} (k : Fin n) (x : Nat)
@[simp] theorem high_add_mul : (k.val + n * x) / n = x := digit_div k.isLt x
open Fin.NatCast in
@[simp] theorem cast_add_mul [NeZero n] : ((k.val + n * x : Nat) : Fin n) = k := Fin.ext (digit_mod k.isLt x)
end
@[simp] theorem word_lt (w : Word) : w.toNat < 4294967296 := w.isLt
@[simp] theorem dword_lt (w : DWord) : w.toNat < 18446744073709551616 := w.isLt
@[simp] theorem fin192_lt_256 (n : Fin 192) : n.val < 256 := by omega
@[simp] theorem fin64_add_lt_256 (n : Fin 64) : n.val + 192 < 256 := by omega
@[simp] theorem fin8_lt_64 (k : Fin 8) : k.val < 64 := by omega
@[simp] theorem bit_lt_64 (b : Bool) : bit b < 64 := bit_lt b (by decide)
@[simp] theorem fin_add_bit_lt_16 (k : Fin 8) (b : Bool) : k.val + 8 * bit b < 16 := by
  have := bit_lt_two b
  omega
@[simp] theorem fin_add_bit_lt (k : Fin 8) (b : Bool) : k.val + 8 * bit b < 64 := by
  have := bit_lt_two b
  omega

section
variable {g : Guard} {d : Reg} {a b c : Operand}

/-! ### Control (R216) -/

theorem encodes_bare : ∀ op ∈ [Instr.nop, .exit, .yield, .trap, .bkpt], (op g).Encodes := by
  intro op hop
  fin_cases hop <;> exact .of_control rfl (by simp [Fields.control])
theorem encodes_jump (a : Reg) : ∀ op ∈ [Instr.brx, .ret], (op g a).Encodes := by
  intro op hop
  fin_cases hop <;> exact .of_control rfl (by simp [Fields.control])
theorem encodes_control_uni (n : Fin 64) : ∀ op ∈ [Instr.nap, .perf], (op g n).Encodes := by
  intro op hop
  fin_cases hop <;> exact .of_control rfl (by simp [Fields.control, Fields.uniOrImm])
theorem encodes_control_imm (w : Word) : ∀ op ∈ [Instr.napImm, .perfImm, .trapImm], (op g w).Encodes := by
  intro op hop
  fin_cases hop <;> exact .of_control rfl (by simp [Fields.withImm, Fields.control, Fields.uniOrImm])
theorem encodes_branch {w : Word} (h : okDisp w = true) (d : Fin 192) (k : Fin 8) :
    (Instr.bra g w).Encodes ∧ (Instr.call g d w).Encodes ∧ (Instr.meet g k w).Encodes := by
  have h : w.toNat % 4 = 0 := by simpa [okDisp] using h
  refine ⟨.of_control rfl ?_, .of_control rfl ?_, .of_control rfl ?_⟩ <;> simp [Fields.withImm, Fields.control, Fields.disp, h]
theorem encodes_callx (d : Fin 192) (a : Reg) : (Instr.callx g d a).Encodes := .of_control rfl (by simp [Fields.control])
theorem encodes_mleave (k : Fin 8) : (Instr.mleave g k).Encodes := .of_control rfl (by simp [Fields.control])

/-! ### Integer arithmetic (R226) -/

theorem encodes_sum {t : AddTy} {sat : Bool} (h : (okAlu2 (t == .b64) (t == .b64) (t == .b64) d a b && !(sat && t == .b64)) = true) :
    ∀ op ∈ [Instr.iadd, .isub], (op g t sat d a b).Encodes := by
  simp only [Bool.and_eq_true, Bool.not_eq_true'] at h
  obtain ⟨hok, hsat⟩ := h
  have hmod : (bit sat == 0 || sat && t != .b64) = true := by cases sat <;> simp_all
  intro op hop
  fin_cases hop <;> exact .of_integer rfl (by simp [Fields.integer, Fields.alu2_head hok, hmod])
theorem encodes_word2 {t : IntTy} (h : okAlu2 false false false d a b = true) :
    ∀ op ∈ [Instr.imul, .imulh, .idiv, .irem, .imin, .imax], (op g t d a b).Encodes := by
  intro op hop
  fin_cases hop <;> exact .of_integer rfl (by simp [Fields.integer, Fields.alu2_head h])
theorem encodes_word3 {t : IntTy} (h : okAlu3 false false false false d a b c = true) :
    ∀ op ∈ [Instr.iadd3, .imad, .clamp], (op g t d a b c).Encodes := by
  intro op hop
  fin_cases hop <;> exact .of_integer rfl (by simp [Fields.integer, Fields.alu3_head h])
theorem encodes_imadw {t : IntTy} (h : okAlu3 true false false true d a b c = true) : (Instr.imadw g t d a b c).Encodes :=
  .of_integer rfl (by simp [Fields.integer, Fields.alu3_head h])
theorem encodes_word1 {sat : Bool} (h : okAlu1 false false d a = true) : ∀ op ∈ [Instr.iabs, .ineg], (op g sat d a).Encodes := by
  intro op hop
  fin_cases hop <;> exact .of_integer rfl (by simp [Fields.integer, Fields.alu1_head h])

/-! ### Logic, shifts and bit fields (R232) -/

theorem encodes_logic {t : BitTy} (h : okAlu2 (t == .b64) (t == .b64) (t == .b64) d a b = true) :
    ∀ op ∈ [Instr.and, .or, .xor, .andn, .orn], (op g t d a b).Encodes := by
  intro op hop
  fin_cases hop <;> exact .of_bits rfl (by simp [Fields.bits, Fields.alu2_head h])
theorem encodes_shift {t : BitTy} (h : okAlu2 (t == .b64) (t == .b64) false d a b = true) :
    ∀ op ∈ [Instr.shl, .shr, .sar, .rot], (op g t d a b).Encodes := by
  intro op hop
  fin_cases hop <;> exact .of_bits rfl (by simp [Fields.bits, Fields.alu2_head h])
theorem encodes_fsh {left : Bool} (h : okAlu3 false false false false d a b c = true) : (Instr.fsh g left d a b c).Encodes :=
  .of_bits rfl (by simp [Fields.bits, Fields.alu3_head h])
theorem encodes_bfx {t : IntTy} (h : okAlu2 false false false d a b = true) : (Instr.bfx g t d a b).Encodes :=
  .of_bits rfl (by simp [Fields.bits, Fields.alu2_head h])
theorem encodes_insert (h : okAlu3 false false false false d a b c = true) : ∀ op ∈ [Instr.bfi, .bytesel], (op g d a b c).Encodes := by
  intro op hop
  fin_cases hop <;> exact .of_bits rfl (by simp [Fields.bits, Fields.alu3_head h])
theorem encodes_count (h : okAlu1 false false d a = true) : ∀ op ∈ [Instr.popc, .clz, .ctz, .brev], (op g d a).Encodes := by
  intro op hop
  fin_cases hop <;> exact .of_bits rfl (by simp [Fields.bits, Fields.alu1_head h])
theorem encodes_lea {k : Fin 8} {sx : Bool} (h : okAlu2 true true false d a b = true) : (Instr.lea g k sx d a b).Encodes :=
  .of_bits rfl (by simp [Fields.bits, Fields.alu2_head h])
end

end Sys2Proof
end

section
/-! Compares, moves, predicates, float arithmetic, conversions and ray tests have a word that decodes to them. -/

namespace Sys2Proof
open Machine

@[simp] theorem cvtSrcOf_code (s : CvtSrc) (b : Bool) : cvtSrcOf ((s.code + 8 * bit b) % 4) ((s.code + 8 * bit b) / 4 % 2 == 1) = .ok s := by
  cases b <;> cases s with
  | f32 | f64 => rfl
  | f16 hi | bf16 hi => cases hi <;> rfl
theorem CvtSrc.code_lt (s : CvtSrc) : s.code < 8 := by
  cases s with
  | f32 | f64 => decide
  | f16 hi | bf16 hi => cases hi <;> decide
@[simp] theorem CvtSrc.code_add_lt (s : CvtSrc) (b : Bool) : s.code + 8 * bit b < 16 := by
  have := s.code_lt
  have := bit_lt_two b
  omega
@[simp] theorem CvtSrc.code_add_lt_64 (s : CvtSrc) (b : Bool) : s.code + 8 * bit b < 64 := (s.code_add_lt b).trans (by decide)
@[simp] theorem CvtSrc.code_add_div (s : CvtSrc) (b : Bool) : (s.code + 8 * bit b) / 8 = bit b := digit_div s.code_lt _
@[simp] theorem cvtIntOf_code (s : CvtInt) : cvtIntOf s.code = s := by cases s <;> rfl
@[simp] theorem CvtInt.code_lt (s : CvtInt) : s.code < 4 := by cases s <;> decide
@[simp] theorem CvtInt.code_lt_64 (s : CvtInt) : s.code < 64 := s.code_lt.trans (by decide)
@[simp] theorem cvtDstOf_code (t : CvtDst) : cvtDstOf t.code = .ok t := by cases t <;> rfl
@[simp] theorem CvtDst.code_lt (t : CvtDst) : t.code < 16 := by cases t <;> decide
theorem groupReg_code {r : Reg} {n : Nat} (h : r.okGroup n = true) : groupReg r.code n = .ok r := by
  simp [groupReg, h]
@[simp] theorem NarrowTy.code_lt (t : NarrowTy) : t.code < 16 := by cases t <;> simp [NarrowTy.code]
theorem NarrowTy.xmod_lt (t : NarrowTy) : t.xmod < 16 := by
  cases t with
  | i8 k | n8 k | i4 k | n4 k => simp only [NarrowTy.xmod]; omega
  | b16 k sx => cases sx <;> simp only [NarrowTy.xmod] <;> simp <;> omega
  | b32 sx => cases sx <;> decide
/-- INARROW's saturation bit stands above the narrow type's bits of XMOD. -/
theorem NarrowTy.xmod_sat (t : NarrowTy) (sat : Bool) : t.xmod + 16 * bit sat < 32 ∧ t.xmod + 16 * bit sat < 64
    ∧ (t.xmod + 16 * bit sat) % 8 = t.xmod % 8 ∧ (t.xmod + 16 * bit sat) / 8 % 2 = t.xmod / 8 % 2 ∧ (t.xmod + 16 * bit sat) / 16 = bit sat := by
  have := t.xmod_lt
  have := bit_lt_two sat
  omega
/-- A narrow type is read back from TYPE and the low bits of XMOD. -/
theorem narrowOf_code (t : NarrowTy) : narrowOf t.code (t.xmod % 8) (t.xmod / 8 % 2 == 1) = .ok t := by
  cases t with
  | i8 k | n8 k | i4 k | n4 k => fin_cases k <;> rfl
  | b16 k sx => fin_cases k <;> cases sx <;> rfl
  | b32 sx => cases sx <;> rfl

section
variable {g : Guard} {d : Reg} {a b c : Operand}

/-! ### Compare, select, moves and predicates (R239 to R246) -/

theorem encodes_icmp {t : IntTy} {cmp : ICmp} {comb : Combine} {pd : Fin 8} (h : okCmp comb a b = true) : (Instr.icmp g t cmp comb pd a b).Encodes := by
  obtain ⟨hlen, hform, hdst, hsrc, hone, htwo⟩ :=
    Fields.compare_head (opc := 0x35) (grd := g.code) (rnd := comb.rnd) (xmod := pd.val + 8 * comb.pq) (type := t.code) (sub := cmp.code) h
  exact .of_moves rfl (by simp [Fields.moves, hlen, hform, hsrc, hone, htwo])
theorem encodes_sel {t : BitTy} {p : Fin 8} {neg : Bool} {d : Fin 192} (h : okAlu2 (t == .b64) (t == .b64) (t == .b64) (.v d) a b = true) :
    (Instr.sel g t p neg d a b).Encodes :=
  .of_moves rfl (by simp [Fields.moves, Fields.alu2_head h])
theorem encodes_mov {t : BitTy} (h : okAlu1 (t == .b64) (t == .b64) d a = true) : (Instr.mov g t d a).Encodes :=
  .of_moves rfl (by simp [Fields.moves, Fields.alu1_head h])
theorem encodes_movi {t : BitTy} (h : (okAlu1 (t == .b64) (t == .b64) d a && a.isImm) = true) : (Instr.movi g t d a).Encodes := by
  obtain ⟨hok, himm⟩ := Bool.and_eq_true_iff.1 h
  exact .of_moves rfl (by simp [Fields.moves, Fields.alu1_head hok, himm])
theorem encodes_movs {n : Fin 15} (h : (d.okPair (specialWide n.val) && (d.isVec || !specialLane n.val)) = true) : (Instr.movs g n d).Encodes := by
  obtain ⟨hpair, hlane⟩ := Bool.and_eq_true_iff.1 h
  have hn : n.val / 4 * 4 + n.val % 4 = n.val := by omega
  exact .of_moves rfl (by simp [Fields.moves, hn, regOf_code hpair, hlane]; omega)
theorem encodes_pcomb (pd pa pb pc : Fin 8) (tt : Byte) : (Instr.pcomb g pd pa pb pc tt).Encodes := by
  have htt := tt.isLt
  have hext : ∀ e, e = pa.val + 16 * pb.val + 256 * pc.val + 65536 * tt.toNat → (e / 8 % 2 = 0 ∧ e / 128 % 2 = 0 ∧ e / 2048 % 32 = 0 ∧ e / 16777216 = 0)
      ∧ Fin.ofNat 8 e = pa ∧ Fin.ofNat 8 (e / 16) = pb ∧ Fin.ofNat 8 (e / 256) = pc ∧ BitVec.ofNat 8 (e / 65536) = tt := by
    intro e he
    refine ⟨by omega, Fin.ext ?_, Fin.ext ?_, Fin.ext ?_, BitVec.eq_of_toNat_eq ?_⟩ <;> simp <;> omega
  obtain ⟨⟨h8, h128, h2048, htop⟩, ha, hb, hc, ht⟩ := hext _ rfl
  exact .of_moves rfl (by simp [-Fin.ofNat_eq_cast, Fields.moves, h8, h128, h2048, htop, ha, hb, hc, ht]; omega)
theorem encodes_psetm {pd : Fin 8} {n : Fin 64} (h : (n.val % 2 == 0) = true) : (Instr.psetm g pd n).Encodes := by
  have h := beq_iff_eq.1 h
  exact .of_moves rfl (by simp [Fields.moves, h])
theorem encodes_psetmMask (pd k : Fin 8) : (Instr.psetmMask g pd k).Encodes :=
  .of_moves rfl (by simp [Fields.moves]; omega)
theorem encodes_pmov (p : Fin 8) (n : Fin 192) (r : Reg) : (Instr.pmovToReg g p n).Encodes ∧ (Instr.pmovToPred g p r).Encodes := by
  refine ⟨.of_moves rfl ?_, .of_moves rfl ?_⟩ <;> simp [Fields.moves]
theorem encodes_pmovFromMask {k : Fin 8} {n : Fin 64} (h : (n.val % 2 == 0) = true) : (Instr.pmovFromMask g k n).Encodes := by
  have h := beq_iff_eq.1 h
  exact .of_moves rfl (by simp [Fields.moves, h]; omega)

/-! ### Binary32 arithmetic (R250, R255, R256) -/

theorem encodes_float2 {r : Rnd} (h : okAlu2 false false false d a b = true) :
    ∀ op ∈ [Instr.fadd, .fsub, .fmul, .fscale, .fdiv], (op g r d a b).Encodes := by
  intro op hop
  fin_cases hop <;> exact .of_float rfl (by simp [Fields.float, Fields.isF32, Fields.alu2_head h])
theorem encodes_fminmax (h : okAlu2 false false false d a b = true) : ∀ op ∈ [Instr.fmin, .fmax], (op g d a b).Encodes := by
  intro op hop
  fin_cases hop <;> exact .of_float rfl (by simp [Fields.float, Fields.isF32, Fields.alu2_head h])
theorem encodes_ffma {r : Rnd} (h : okAlu3 false false false false d a b c = true) : (Instr.ffma g r d a b c).Encodes :=
  .of_float rfl (by simp [Fields.float, Fields.isF32, Fields.alu3_head h])
theorem encodes_float1 {r : Rnd} (h : okAlu1 false false d a = true) : ∀ op ∈ [Instr.frnd, .frcp, .fsqrt], (op g r d a).Encodes := by
  intro op hop
  fin_cases hop <;> exact .of_float rfl (by simp [Fields.float, Fields.isF32, Fields.alu1_head h])
theorem encodes_function (h : okAlu1 false false d a = true) :
    ∀ op ∈ [Instr.ffract, .frsq, .fexp2, .flog2, .fsin, .fcos], (op g d a).Encodes := by
  intro op hop
  fin_cases hop <;> exact .of_float rfl (by simp [Fields.float, Fields.isF32, Fields.alu1_head h])
theorem encodes_fcmp {cmp : FCmp} {comb : Combine} {pd : Fin 8} (h : okCmp comb a b = true) : (Instr.fcmp g cmp comb pd a b).Encodes := by
  obtain ⟨hlen, hform, hdst, hsrc, hone, htwo⟩ :=
    Fields.compare_head (opc := 0x46) (grd := g.code) (rnd := comb.rnd) (xmod := pd.val + 8 * comb.pq) (type := 7) (sub := cmp.code) h
  exact .of_float rfl (by simp [Fields.float, Fields.isF32, hlen, hform, hsrc, hone, htwo])
theorem encodes_fclass {t : FloatTy} {hi : Bool} (h : (okAlu1 false false d a && !(hi && t == .f32)) = true) : (Instr.fclass g t hi d a).Encodes := by
  obtain ⟨hok, hhi⟩ := Bool.and_eq_true_iff.1 h
  have hmod : (bit hi == 0 || hi && t != .f32) = true := by cases hi <;> simp_all
  exact .of_float rfl (by simp [Fields.float, Fields.alu1_head hok, hmod])

/-! ### Paired arithmetic, conversions, NF and ray tests (R257, R260, R265, R269, R270) -/

theorem encodes_half2 {t : HalfTy} {r : Rnd} (h : okAlu2 false false false d a b = true) : ∀ op ∈ [Instr.hadd2, .hmul2], (op g t r d a b).Encodes := by
  intro op hop
  fin_cases hop <;> exact .of_convert rfl (by simp [Fields.convert, Fields.alu2_head h])
theorem encodes_half3 {t : HalfTy} {r : Rnd} (h : okAlu3 false false false false d a b c = true) :
    ∀ op ∈ [Instr.hfma2, .fdot2], (op g t r d a b c).Encodes := by
  intro op hop
  fin_cases hop <;> exact .of_convert rfl (by simp [Fields.convert, Fields.alu3_head h])
theorem encodes_hminmax {t : HalfTy} (h : okAlu2 false false false d a b = true) : ∀ op ∈ [Instr.hmin2, .hmax2], (op g t d a b).Encodes := by
  intro op hop
  fin_cases hop <;> exact .of_convert rfl (by simp [Fields.convert, Fields.alu2_head h])
theorem encodes_cvtfi {t : IntTy} {wide : Bool} {s : CvtSrc} {r : Rnd} (h : okAlu1 wide s.wide d a = true) : (Instr.cvtfi g t wide s r d a).Encodes :=
  .of_convert rfl (by simp [Fields.convert, Fields.alu1_head h])
theorem encodes_cvtif {t : FloatTy} {s : CvtInt} {r : Rnd} (h : okAlu1 false s.wide d a = true) : (Instr.cvtif g t s r d a).Encodes :=
  .of_convert rfl (by simp [Fields.convert, Fields.alu1_head h])
theorem encodes_nf {k : Fin 8} (h : okAlu3 false false false false d a b c = true) : ∀ op ∈ [Instr.nfpack, .nfunp], (op g k d a b c).Encodes := by
  intro op hop
  fin_cases hop <;> exact .of_convert rfl (by simp [Fields.convert, Fields.alu3_head h])
theorem encodes_scaleblk (h : (okAlu3 false false false false d a b c && !b.isVec) = true) : (Instr.scaleblk g d a b c).Encodes := by
  obtain ⟨hok, hb⟩ := Bool.and_eq_true_iff.1 h
  exact .of_convert rfl (by simp [Fields.convert, Fields.alu3_head hok, hb])
theorem encodes_iwiden {t : NarrowTy} (h : okAlu1 t.isB32 false d a = true) : (Instr.iwiden g t d a).Encodes := by
  have hx := t.xmod_lt
  have hsx : (t.xmod / 8 == 1) = (t.xmod / 8 % 2 == 1) := by rw [Nat.mod_eq_of_lt (by omega)]
  have hlt : t.xmod < 64 := hx.trans (by decide)
  exact .of_convert rfl (by simp [Fields.convert, hx, hlt, hsx, narrowOf_code, Fields.alu1_head h])
theorem encodes_cvtff {t : CvtDst} {s : CvtSrc} {r : Rnd} (h : okAlu1 (t == .f64) s.wide d a = true) : (Instr.cvtff g t s r d a none).Encodes := by
  have hs := cvtSrcOf_code s false
  have hlt := s.code_lt
  have hdiv : s.code / 8 = 0 := by omega
  have hlt16 : s.code < 16 := by omega
  have hlt64 : s.code < 64 := by omega
  simp only [bit_false, Nat.mul_zero, Nat.add_zero] at hs
  exact .of_convert rfl (by simp [Fields.convert, hs, hdiv, hlt16, hlt64, Fields.alu1_head h])
theorem encodes_cvtff_pair {t : CvtDst} {s : CvtSrc} {r : Rnd}
    (h : (okAlu2 false false false d a b && (t == .f16 || t == .bf16) && s == .f32) = true) : (Instr.cvtff g t s r d a (some b)).Encodes := by
  simp only [Bool.and_eq_true, beq_iff_eq] at h
  obtain ⟨⟨hok, ht⟩, rfl⟩ := h
  exact .of_convert rfl (by simp [Fields.convert, CvtSrc.code, cvtSrcOf, ht, Fields.alu2_head hok])
theorem encodes_inarrow {t : NarrowTy} {sat : Bool} (h : (okAlu1 false true d a && t.isB32) = true) : (Instr.inarrow g t sat d a none).Encodes := by
  obtain ⟨hok, ht⟩ := Bool.and_eq_true_iff.1 h
  exact .of_convert rfl (by simp [Fields.convert, NarrowTy.xmod_sat, narrowOf_code, ht, Fields.alu1_head hok])
theorem encodes_inarrow_pair {t : NarrowTy} {sat : Bool} (h : (okAlu2 false false false d a b && !t.isB32) = true) :
    (Instr.inarrow g t sat d a (some b)).Encodes := by
  obtain ⟨hok, ht⟩ := Bool.and_eq_true_iff.1 h
  simp only [Bool.not_eq_true'] at ht
  exact .of_convert rfl (by simp [Fields.convert, NarrowTy.xmod_sat, narrowOf_code, ht, Fields.alu2_head hok])
theorem encodes_rbox {pd : Fin 8} {n : Fin 192} {x y : Reg} (h : (n.val % 2 == 0 && x.okGroup 8 && y.okGroup 6) = true) :
    (Instr.rbox g pd n x y).Encodes := by
  simp only [Bool.and_eq_true, beq_iff_eq] at h
  obtain ⟨⟨hn, hx⟩, hy⟩ := h
  exact .of_convert rfl (by simp [Fields.convert, Fields.isF32, hn, groupReg_code hx, groupReg_code hy])
theorem encodes_rtri {pd : Fin 8} {cull : Fin 3} {n : Fin 192} {x y : Reg} (h : (Reg.okGroup (.v n) 3 && x.okGroup 8 && y.okGroup 9) = true) :
    (Instr.rtri g pd cull n x y).Encodes := by
  simp only [Bool.and_eq_true] at h
  obtain ⟨⟨hn, hx⟩, hy⟩ := h
  exact .of_convert rfl (by simp [Fields.convert, Fields.isF32, hn, groupReg_code hx, groupReg_code hy]; omega)
end

end Sys2Proof
end

section
/-! Memory accesses and atomics have a word that decodes to them (R283, R292). -/

namespace Sys2Proof
open Machine

@[simp] theorem MemTy.code_lt (t : MemTy) : t.code < 16 := by cases t <;> decide
@[simp] theorem texTyOf_code (t : TexTy) : texTyOf t.code = .ok t := by cases t <;> rfl
@[simp] theorem TexTy.code_lt (t : TexTy) : t.code < 16 := by cases t <;> decide
@[simp] theorem texModeOf_code (m : TexMode) : texModeOf m.code = .ok m := by cases m <;> rfl
theorem TexMode.code_lt (m : TexMode) : m.code < 4 := by cases m <;> decide
theorem atomOf_code (op : AtomOp) : atomOf op.sub op.type = .ok op := by
  cases op with
  | addF | add64 | minF | maxF => rfl
  | addI t | minI t | maxI t => cases t <;> rfl
  | and t | or t | xor t | exch t => cases t <;> rfl
theorem aggOf_code (op : AggOp) : aggOf op.sub op.type = .ok op := by
  cases op with
  | add64 => rfl
  | addI t => cases t <;> rfl
  | and t | or t | xor t => cases t <;> rfl
theorem AtomOp.codes_lt (op : AtomOp) : op.sub < 16 ∧ op.type < 16 := by
  cases op with
  | addF | add64 | minF | maxF => decide
  | addI t | minI t | maxI t => cases t <;> decide
  | and t | or t | xor t | exch t => cases t <;> decide
theorem AggOp.codes_lt (op : AggOp) : op.sub < 16 ∧ op.type < 16 := by
  cases op with
  | add64 => decide
  | addI t => cases t <;> decide
  | and t | or t | xor t => cases t <;> decide
theorem dataOf_code {t : MemTy} {r : Reg} (h : t.okData r = true) : dataOf r.code t = .ok r := by
  simp [dataOf, h]
theorem uniformRegs_ok {d : Reg} {rs : List Reg} (h : okUniform d rs = true) : uniformRegs d rs = .ok () := by
  rw [uniformRegs, h, need_true]

/-! ### Offsets and bases (R277, R278) -/

section
variable (f : Fields) (off : Option Word)
@[simp] theorem Fields.withOffset_opc : (f.withOffset off).opc = f.opc := by cases off <;> rfl
@[simp] theorem Fields.withOffset_grd : (f.withOffset off).grd = f.grd := by cases off <;> rfl
@[simp] theorem Fields.withOffset_dst : (f.withOffset off).dst = f.dst := by cases off <;> rfl
@[simp] theorem Fields.withOffset_sra : (f.withOffset off).sra = f.sra := by cases off <;> rfl
@[simp] theorem Fields.withOffset_srb : (f.withOffset off).srb = f.srb := by cases off <;> rfl
@[simp] theorem Fields.withOffset_src : (f.withOffset off).src = f.src := by cases off <;> rfl
@[simp] theorem Fields.withOffset_rnd : (f.withOffset off).rnd = f.rnd := by cases off <;> rfl
@[simp] theorem Fields.withOffset_xmod : (f.withOffset off).xmod = f.xmod := by cases off <;> rfl
@[simp] theorem Fields.withOffset_type : (f.withOffset off).type = f.type := by cases off <;> rfl
@[simp] theorem Fields.withOffset_sub : (f.withOffset off).sub = f.sub := by cases off <;> rfl

variable {f}
@[simp] theorem Fields.inRange_withOffset (h : f.inRange = true) : (f.withOffset off).inRange = true := by
  rw [Fields.inRange_iff] at h
  cases off with
  | none => simp_all [Fields.withOffset, Fields.inRange_iff]
  | some w =>
    have hw := w.isLt
    simp_all [Fields.withOffset]
@[simp] theorem Fields.offset_withOffset {opc grd dst sra srb src rnd xmod type sub : Nat} :
    ((Fields.mk 0 opc grd dst sra srb src rnd xmod type 0 sub 0).withOffset off).offset = .ok off := by
  cases off <;> simp [Fields.withOffset, Fields.offset]
end

/-- The code of a base, 0 where there is none. -/
def baseCode (a : Option Reg) : Nat := (a.map Reg.code).getD 0
@[simp] theorem baseCode_lt (a : Option Reg) : baseCode a < 256 := by cases a <;> simp [baseCode]
/-- The word of a scratchpad or constant address: a base, or the bit that says there is none. -/
@[simp] theorem Fields.withBase_mk {len opc grd dst srb src rnd xmod type isel sub ext : Nat} (a : Option Reg) :
    (Fields.mk len opc grd dst 0 srb src rnd xmod type isel sub ext).withBase a =
      Fields.mk len opc grd dst (baseCode a) srb src rnd (xmod + 32 * bit a.isNone) type isel sub ext := by
  cases a <;> simp [Fields.withBase, baseCode]
theorem Fields.base_of_sra {f : Fields} {a : Option Reg} (h : f.sra = baseCode a) : f.base a.isNone = .ok a := by
  cases a <;> simp [Fields.base, h, baseCode]

/-- The size bits of XMOD leave the bit above them (R277). -/
theorem size_xmod {x : Nat} (hx : x = 0 ∨ x = 4 ∨ x = 8) (b : Bool) : (x + 32 * bit b) / 8 % 2 = x / 8 % 2 ∧ (x + 32 * bit b) / 4 % 2 = x / 4 % 2
    ∧ (x + 32 * bit b) % 32 = x ∧ (x + 32 * bit b) / 32 = bit b ∧ x + 32 * bit b < 64 := by
  have := bit_lt_two b
  omega
/-- A number below the bit that says there is no base. -/
theorem below_base_bit {n : Nat} [NeZero n] (k : Fin n) (hn : n ∣ 32) (b : Bool) : (k.val + 32 * bit b) % 32 = k.val
    ∧ (k.val + 32 * bit b) / 32 = bit b ∧ k.val + 32 * bit b < 64 ∧ Fin.ofNat n (k.val + 32 * bit b) = k := by
  have hk : k.val < 32 := k.isLt.trans_le (Nat.le_of_dvd (by decide) hn)
  have := bit_lt_two b
  refine ⟨by omega, by omega, by omega, Fin.ext ?_⟩
  rw [Fin.val_ofNat, Nat.add_mod, Nat.mod_eq_zero_of_dvd (Dvd.dvd.mul_right hn _), Nat.add_zero, Nat.mod_mod, Nat.mod_eq_of_lt k.isLt]
theorem LoadTy.xmod_cases (t : LoadTy) : t.xmod = 0 ∨ t.xmod = 4 ∨ t.xmod = 8 := by
  cases t with
  | b8 sx | b16 sx => cases sx <;> decide
  | b32 | b64 | b128 => decide
theorem MemTy.xmod_cases (t : MemTy) : t.xmod = 0 ∨ t.xmod = 8 := by cases t <;> decide
@[simp] theorem loadTyOf_code (t : LoadTy) : loadTyOf t.mem.code (t.xmod / 8 % 2 == 1) (t.xmod / 4 % 2 == 1) = .ok t := by
  cases t with
  | b8 sx | b16 sx => cases sx <;> rfl
  | b32 | b64 | b128 => rfl
@[simp] theorem memTyOf_code (t : MemTy) : memTyOf t.code (t.xmod / 8 % 2 == 1) = .ok t := by cases t <;> rfl
/-- XMOD of a load or a store, as the decoder tests it. -/
theorem LoadTy.xmod_ok (t : LoadTy) : (t.xmod == 0 || t.xmod == 4 || t.xmod == 8) = true ∧ t.xmod < 64 := by
  obtain h | h | h := t.xmod_cases <;> simp [h]
theorem MemTy.xmod_ok (t : MemTy) : (t.xmod == 0 || t.xmod == 8) = true ∧ t.xmod < 64 := by
  obtain h | h := t.xmod_cases <;> simp [h]

section
variable {g : Guard} {off : Option Word}

/-! ### Memory access (R283) -/

theorem encodes_ld {t : LoadTy} {d a : Reg} (h : (t.mem.okData d && a.okPair true && okUniform d [a]) = true) : (Instr.ld g t d a off).Encodes := by
  simp only [Bool.and_eq_true] at h
  obtain ⟨⟨hd, ha⟩, hu⟩ := h
  exact .of_memory rfl (by simp [Fields.memory, t.xmod_ok, dataOf_code hd, regOf_code ha, uniformRegs_ok hu])
theorem encodes_st {t : MemTy} {a b : Reg} (h : (t.okData b && a.okPair true) = true) (c : Reg) :
    (Instr.st g t a off b).Encodes ∧ (Instr.stF g t a off b c).Encodes := by
  obtain ⟨hb, ha⟩ := Bool.and_eq_true_iff.1 h
  refine ⟨.of_memory rfl ?_, .of_memory rfl ?_⟩ <;> simp [Fields.memory, t.xmod_ok, dataOf_code hb, regOf_code ha]
theorem encodes_local_load {t : LoadTy} {d : Reg} {a : Option Reg} (h : (t.mem.okData d && okUniform d a.toList) = true) :
    ∀ op ∈ [Instr.lds, .ldc], (op g t d a off).Encodes := by
  obtain ⟨hd, hu⟩ := Bool.and_eq_true_iff.1 h
  obtain ⟨hx2, hsx, hlow, hnb, hlt⟩ := size_xmod t.xmod_cases a.isNone
  intro op hop
  fin_cases hop <;> exact .of_memory rfl (by
    simp [Fields.memory, t.xmod_ok, hx2, hsx, hlow, hnb, hlt, dataOf_code hd, Fields.base_of_sra, uniformRegs_ok hu])
theorem encodes_sts {t : MemTy} {b : Reg} (h : t.okData b = true) (a : Option Reg) : (Instr.sts g t a off b).Encodes := by
  obtain ⟨hx2, -, hlow, hnb, hlt⟩ := size_xmod (t.xmod_cases.imp_right .inr) a.isNone
  exact .of_memory rfl (by simp [Fields.memory, t.xmod_ok, hx2, hlow, hnb, hlt, dataOf_code h, Fields.base_of_sra])
theorem encodes_ldq {t : TexTy} {m : TexMode} {n : Fin 192} {a b c : Reg} (h : Reg.okGroup (.v n) 6 = true) : (Instr.ldq g t m n a b c).Encodes := by
  have hm := m.code_lt
  exact .of_memory rfl (by simp [Fields.memory, hm, h]; omega)
theorem encodes_pref {l2 : Bool} {a : Reg} (h : a.okPair true = true) : (Instr.pref g l2 a off).Encodes :=
  .of_memory rfl (by simp [Fields.memory, regOf_code h])
theorem encodes_sptest (pd : Fin 8) (a : Option Reg) : (Instr.sptest g pd a off).Encodes := by
  obtain ⟨hlow, hnb, hlt, hpd⟩ := below_base_bit (n := 8) pd (by decide) a.isNone
  exact .of_memory rfl (by simp [-Fin.ofNat_eq_cast, Fields.memory, hlow, hnb, hlt, hpd, Fields.base_of_sra])

/-! ### Atomics (R292) -/

theorem encodes_atom {op : AtomOp} {d a b : Reg} (h : (d.okPair op.wide && b.okPair op.wide && a.okPair true && okUniform d [a, b]) = true) :
    (Instr.atom g op d a off b).Encodes := by
  simp only [Bool.and_eq_true] at h
  obtain ⟨⟨⟨hd, hb⟩, ha⟩, hu⟩ := h
  exact .of_atomic rfl (by simp [Fields.atomic, op.codes_lt, atomOf_code, regOf_code hd, regOf_code hb, regOf_code ha, uniformRegs_ok hu])
theorem encodes_atoms {op : AtomOp} {d b : Reg} {a : Option Reg} (h : (d.okPair op.wide && b.okPair op.wide && okUniform d (b :: a.toList)) = true) :
    (Instr.atoms g op d a off b).Encodes := by
  simp only [Bool.and_eq_true] at h
  obtain ⟨⟨hd, hb⟩, hu⟩ := h
  obtain ⟨-, -, hlow, hnb, hlt⟩ := size_xmod (.inl rfl) a.isNone
  simp only [Nat.zero_add] at hlow hnb hlt
  exact .of_atomic rfl (by
    simp [Fields.atomic, op.codes_lt, hlow, hnb, hlt, atomOf_code, regOf_code hd, regOf_code hb, Fields.base_of_sra, uniformRegs_ok hu])
theorem encodes_cas {t : BitTy} {d a b c : Reg}
    (h : (d.okPair (t == .b64) && b.okPair (t == .b64) && c.okPair (t == .b64) && a.okPair true && okUniform d [a, b, c]) = true) :
    (Instr.cas g t d a off b c).Encodes := by
  simp only [Bool.and_eq_true] at h
  obtain ⟨⟨⟨⟨hd, hb⟩, hc⟩, ha⟩, hu⟩ := h
  exact .of_atomic rfl (by simp [Fields.atomic, regOf_code hd, regOf_code hb, regOf_code hc, regOf_code ha, uniformRegs_ok hu])
theorem encodes_red {op : AtomOp} {a b : Reg} (h : (b.okPair op.wide && a.okPair true) = true) : (Instr.red g op a off b).Encodes := by
  obtain ⟨hb, ha⟩ := Bool.and_eq_true_iff.1 h
  exact .of_atomic rfl (by simp [Fields.atomic, op.codes_lt, atomOf_code, regOf_code hb, regOf_code ha])
theorem encodes_atagg {op : AggOp} {d b : Reg} {n : Fin 64} (h : (d.okPair op.wide && b.okPair op.wide && n.val % 2 == 0 && okUniform d [b]) = true) :
    (Instr.atagg g op d n off b).Encodes := by
  simp only [Bool.and_eq_true, beq_iff_eq] at h
  obtain ⟨⟨⟨hd, hb⟩, hn⟩, hu⟩ := h
  exact .of_atomic rfl (by simp [Fields.atomic, op.codes_lt, aggOf_code, regOf_code hd, regOf_code hb, hn, uniformRegs_ok hu])

end

end Sys2Proof
end

section
/-! Instructions of synchronisation and across lanes have a word that decodes to them (R272, R300, R305). -/

namespace Sys2Proof
open Machine

/-! ### Objects (R300, R305) -/

/-- An object's number and a predicate's in MOD bits 53:47. -/
theorem objMods_read (b : Fin 16) (pd : Fin 8) : Fin.ofNat 16 ((b.val * 4 + pd.val / 2) / 4) = b
    ∧ Fin.ofNat 8 (pd.val / 2 % 4 * 2 + pd.val % 2) = pd ∧ b.val * 4 + pd.val / 2 < 64 ∧ pd.val % 2 * 2 < 4 ∧ pd.val % 2 * 2 % 2 = 0 := by
  refine ⟨Fin.ext ?_, Fin.ext ?_, by omega, by omega, by omega⟩ <;> simp <;> omega
/-- An object's number alone. -/
theorem obj_read (b : Fin 16) : Fin.ofNat 16 (b.val * 4 / 4) = b ∧ b.val * 4 % 4 = 0 ∧ b.val * 4 < 64 := by
  refine ⟨by simp, by omega, by omega⟩

section
variable {g : Guard} {a : UOperand}

theorem encodes_fence (k : Fin 8) (d : Reg) : (Instr.fenceG g).Encodes ∧ (Instr.fenceS g).Encodes ∧ (Instr.fenceC g k d).Encodes := by
  refine ⟨.of_sync rfl ?_, .of_sync rfl ?_, .of_sync rfl ?_⟩ <;> simp [Fields.sync]
theorem encodes_bar (b : Fin 16) (pd : Fin 8) : (Instr.bar g b pd).Encodes := by
  obtain ⟨hb, hpd, hlt, hrnd, heven⟩ := objMods_read b pd
  exact .of_sync rfl (by simp [-Fin.ofNat_eq_cast, Fields.sync, objMods, hb, hpd, hlt, hrnd, heven])
theorem encodes_barArrive (b : Fin 16) : (Instr.barArrive g b).Encodes := by
  obtain ⟨hb, hlow, hlt⟩ := obj_read b
  exact .of_sync rfl (by simp [Fields.sync, hlow, hlt])
theorem encodes_object (b : Fin 16) : ∀ op ∈ [Instr.barinv, .qclose], (op g b).Encodes := by
  obtain ⟨hb, hlow, hlt⟩ := obj_read b
  intro op hop
  fin_cases hop <;> exact .of_sync rfl (by simp [Fields.sync, hlow, hlt])
theorem encodes_qget (q : Fin 16) (pd : Fin 8) (d : Fin 64) : ∀ op ∈ [Instr.qpop, .qtry], (op g q pd d).Encodes := by
  obtain ⟨hb, hpd, hlt, hrnd, heven⟩ := objMods_read q pd
  intro op hop
  fin_cases hop <;> exact .of_sync rfl (by simp [-Fin.ofNat_eq_cast, Fields.sync, objMods, hb, hpd, hlt, hrnd, heven])
theorem encodes_fclose (n : Fin 64) : (Instr.fclose g n).Encodes := .of_sync rfl (by simp [Fields.sync])
theorem encodes_queue (q : Fin 16) (a : UOperand) : ∀ op ∈ [Instr.qinit, .qpush], (op g q a).Encodes := by
  obtain ⟨hb, hlow, hlt⟩ := obj_read q
  intro op hop
  fin_cases hop <;> cases a <;> exact .of_sync rfl (by simp [Fields.sync, Fields.uniOrImm, Fields.withUni, Fields.withImm, hlow, hlt])
theorem encodes_fopen (d : Fin 64) (a : UOperand) : (Instr.fopen g d a).Encodes := by
  cases a <;> exact .of_sync rfl (by simp [Fields.sync, Fields.uniOrImm, Fields.withUni, Fields.withImm])
theorem encodes_barinit (b : Fin 16) (ext : Bool) (c : BarCounts) : (Instr.barinit g b ext c).Encodes := by
  have hb : Fin.ofNat 16 ((b.val * 4 + 2 * bit ext) / 4) = b := by
    have := bit_lt_two ext
    exact Fin.ext (by simp; omega)
  have hx : (b.val * 4 + 2 * bit ext) % 2 = 0 ∧ (b.val * 4 + 2 * bit ext) / 2 % 2 = bit ext ∧ b.val * 4 + 2 * bit ext < 64 := by
    have := bit_lt_two ext
    omega
  cases c with
  | regs nt nc | immT nt nc | immC nt nc => exact .of_sync rfl (by simp [-Fin.ofNat_eq_cast, Fields.sync, Fields.withImm, hb, hx])
  | both nt nc =>
    have hnt := nt.isLt
    have hnc := nc.isLt
    have hlow : BitVec.ofNat 16 (nt.toNat + 65536 * nc.toNat) = nt := BitVec.eq_of_toNat_eq (by simp; omega)
    have hhigh : BitVec.ofNat 16 ((nt.toNat + 65536 * nc.toNat) / 65536) = nc := BitVec.eq_of_toNat_eq (by simp; omega)
    have hlt : nt.toNat + 65536 * nc.toNat < 4294967296 := by omega
    exact .of_sync rfl (by simp [-Fin.ofNat_eq_cast, Fields.sync, hb, hx, hlow, hhigh, hlt])
theorem encodes_launch {d : Fin 64} {x : AddrOperand} (h : (match x with | .s n => n.val % 2 == 0 | .imm64 _ => true) = true) :
    (Instr.launch g d x).Encodes := by
  cases x with
  | s n =>
    have h := beq_iff_eq.1 h
    exact .of_sync rfl (by simp [Fields.sync, h])
  | imm64 w =>
    exact .of_sync rfl (by simp [Fields.sync])

/-! ### Cross-lane instructions (R272) -/

theorem encodes_shfl_rev {t : BitTy} {n : Fin 192} {x : Reg} (h : (Reg.okPair (.v n) (t == .b64) && x.okPair (t == .b64) && true) = true) :
    (Instr.shfl g t none n x).Encodes := by
  simp only [Bool.and_true, Bool.and_eq_true] at h
  exact .of_lanes rfl (by simp [Fields.lanes, vecOf_val h.1, regOf_code h.2])
theorem encodes_shfl {t : BitTy} {m : ShflMode} {o : Operand} {n : Fin 192} {x : Reg}
    (h : (Reg.okPair (.v n) (t == .b64) && x.okPair (t == .b64) && o.ok false) = true) : (Instr.shfl g t (some (m, o)) n x).Encodes := by
  simp only [Bool.and_eq_true] at h
  obtain ⟨⟨hn, hx⟩, ho⟩ := h
  cases o with
  | reg r => cases m <;> exact .of_lanes rfl (by simp [Fields.lanes, ShflMode.code, Fields.withSource, Fields.source, Fields.field, vecOf_val hn, regOf_code hx])
  | imm w => cases m <;> exact .of_lanes rfl (by simp [Fields.lanes, ShflMode.code, Fields.withSource, Fields.source, Fields.field, vecOf_val hn, regOf_code hx])
  | imm64 w => exact absurd ho Bool.false_ne_true
theorem encodes_vote (m : VoteMode) (pd pa : Fin 8) (neg : Bool) : (Instr.vote g m pd pa neg).Encodes := by
  have hlt : pd.val + 8 * pa.val < 64 := by omega
  cases m <;> exact .of_lanes rfl (by simp [Fields.lanes, VoteMode.code, hlt])
theorem encodes_ballot {n : Fin 192} {pa : Fin 8} {neg : Bool} (h : (n.val % 2 == 0) = true) : (Instr.ballot g n pa neg).Encodes := by
  have h := beq_iff_eq.1 h
  exact .of_lanes rfl (by simp [Fields.lanes, h]; omega)
theorem encodes_match {t : BitTy} {n : Fin 192} {x : Reg} (h : (n.val % 2 == 0 && x.okPair (t == .b64)) = true) (alleq : Option (Fin 8)) :
    (Instr.match_ g t alleq n x).Encodes := by
  simp only [Bool.and_eq_true, beq_iff_eq] at h
  obtain ⟨hn, hx⟩ := h
  cases alleq <;> exact .of_lanes rfl (by simp [Fields.lanes, hn, regOf_code hx])
theorem foldOf_code (op : FoldOp) (omitted : Bool) : foldOf op.sub op.type op.rnd omitted = .ok op := by
  cases op with
  | addF r => cases r <;> rfl
  | minF | maxF | and | or | xor => cases omitted <;> rfl
  | addI t | minI t | maxI t => cases t <;> cases omitted <;> rfl
theorem FoldOp.codes_lt (op : FoldOp) : op.sub < 16 ∧ op.type < 16 ∧ op.rnd < 4 := by
  cases op with
  | addF r => cases r <;> decide
  | minF | maxF | and | or | xor => decide
  | addI t | minI t | maxI t => cases t <;> decide
theorem encodes_gred {op : FoldOp} {d x : Reg} (h : okFold d x = true) : (Instr.gred g op d x).Encodes :=
  .of_lanes rfl (by simp [Fields.lanes, op.codes_lt, foldOf_code, h])
theorem encodes_gscan (op : FoldOp) (excl : Bool) (n : Fin 192) (x : Reg) : (Instr.gscan g op excl n x).Encodes :=
  .of_lanes rfl (by simp [Fields.lanes, op.codes_lt, foldOf_code])

end

end Sys2Proof
end

section
/-! Instructions of matrices, engines, geometry and the system have a word that decodes to them (R316 to R332, R368). -/

namespace Sys2Proof
open Machine

@[simp] theorem matTyOf_code (t : MatTy) : matTyOf t.code = .ok t := by cases t <;> rfl
@[simp] theorem MatTy.code_lt (t : MatTy) : t.code < 16 := by cases t <;> decide
@[simp] theorem groupOf_code (x : ShardGroup) : groupOf x.code = .ok x := by cases x <;> rfl
@[simp] theorem ShardGroup.code_lt (x : ShardGroup) : x.code < 64 := by cases x <;> decide
@[simp] theorem offsetReg_code (o : Option (Fin 64)) : offsetReg o.isSome (offsetCode o) = .ok o := by
  cases o <;> simp [offsetReg, offsetCode]
@[simp] theorem offsetCode_lt (o : Option (Fin 64)) : offsetCode o < 256 := by cases o <;> simp [offsetCode]
theorem CollImm.code_lt (c : CollImm) : c.code < 1024 := by
  unfold CollImm.code
  split <;> omega
@[simp] theorem collImmOf_code (c : CollImm) : collImmOf c.code = .ok c := by
  obtain ⟨ts, td, cnt, cen⟩ := c
  have hlt := CollImm.code_lt ⟨ts, td, cnt, cen⟩
  rw [collImmOf, if_pos hlt]
  simp only [CollImm.code, Except.ok.injEq, CollImm.mk.injEq, Fin.ext_iff, Fin.val_ofNat]
  cases cen <;> simp <;> omega
@[simp] theorem CollImm.code_lt_word (c : CollImm) : c.code < 4294967296 := c.code_lt.trans (by decide)
@[simp] theorem sysWide_code (w : Bool) : sysWide (wideCode w) = .ok w := by cases w <;> rfl
@[simp] theorem wideCode_lt (w : Bool) : wideCode w < 16 := by cases w <;> decide
@[simp] theorem fin16_lt_64 (k : Fin 16) : k.val < 64 := by omega
/-- A TYPE that R276 does not give a fold is no fold's (R338). -/
theorem foldOf_broken {k : Fin 6} {t : Fin 16} (h : (NredOp.broken k t).ok = true) : foldOf k.val t.val 0 false = .error .badModifier := by
  revert k t
  decide
theorem nredOf_code {op : NredOp} (h : op.ok = true) : nredOf op.sub op.type op.rnd = .ok op := by
  cases op with
  | fold op => simp [nredOf, NredOp.sub, NredOp.type, NredOp.rnd, foldOf_code]
  | broken k t => simp [nredOf, NredOp.sub, NredOp.type, NredOp.rnd, foldOf_broken h]
theorem NredOp.codes_lt (op : NredOp) : op.sub < 16 ∧ op.type < 16 ∧ op.rnd < 4 := by
  cases op with
  | fold op => exact op.codes_lt
  | broken k t => exact ⟨by simp only [NredOp.sub]; omega, t.isLt, Nat.zero_lt_succ 3⟩

section
variable {g : Guard}

/-! ### Matrix instructions (R316, R319, R330, R332) -/

theorem encodes_mma {t : MatTy} {k : Fin 16} {z : Bool} {a b : Fin 192} {c : Option Reg}
    (h : (match c with | none => t != .nf | some r => t == .nf && !z && r.okGroup 2) = true) : (Instr.mma g t k z a b c).Encodes := by
  have hz : (k.val + 16 * bit z) / 16 = bit z := digit_div k.isLt _
  have hlt : k.val + 16 * bit z < 32 := by have := bit_lt_two z; omega
  have hlt' : k.val + 16 * bit z < 18446744073709551616 := by omega
  cases c with
  | none =>
    have h : t ≠ .nf := by simpa using h
    exact .of_matrix rfl (by simp [Fields.matrix, hlt, hlt', h])
  | some r =>
    simp only [Bool.and_eq_true, beq_iff_eq, Bool.not_eq_true'] at h
    obtain ⟨⟨rfl, rfl⟩, hr⟩ := h
    simp only [bit_false, Nat.mul_zero, Nat.add_zero] at hz hlt hlt'
    exact .of_matrix rfl (by simp [Fields.matrix, MatTy.code, matTyOf, groupReg_code hr, hz, hlt, hlt'])
theorem encodes_accz (k : Fin 16) : (Instr.accz g k).Encodes := .of_matrix rfl (by simp [Fields.matrix])
theorem encodes_acc_v (k : Fin 16) (n : Fin 192) : ∀ op ∈ [Instr.accrdV, .accwrV], (op g k n).Encodes := by
  intro op hop
  fin_cases hop <;> exact .of_matrix rfl (by simp [Fields.matrix])
theorem encodes_acc_sp (k : Fin 16) (a : Option Reg) (off : Option Word) : ∀ op ∈ [Instr.accrdSp, .accwrSp], (op g k a off).Encodes := by
  obtain ⟨hlow, hnb, hlt, hk⟩ := below_base_bit k (by decide) a.isNone
  intro op hop
  fin_cases hop <;> exact .of_matrix rfl (by simp [-Fin.ofNat_eq_cast, Fields.matrix, hlow, hnb, hlt, hk, Fields.base_of_sra])
theorem encodes_acc_t {t : Fin 8} {n : Fin 64} (h : (n.val % 2 == 0) = true) : ∀ op ∈ [Instr.accrdT, .accwrT], (op g t n).Encodes := by
  have h := beq_iff_eq.1 h
  intro op hop
  fin_cases hop <;> exact .of_matrix rfl (by simp [Fields.matrix, h])
theorem encodes_mmat (t : MatTy) (k : Fin 16) (z : Bool) (ta tb : Fin 8) (oa ob : Option (Fin 64)) : (Instr.mmat g t k z ta tb oa ob).Encodes := by
  obtain ⟨e, he⟩ : ∃ e, e = k.val + 16 * bit z + 32 * ta.val + 256 * tb.val + 2048 * bit oa.isSome + 4096 * bit ob.isSome := ⟨_, rfl⟩
  have hz := bit_lt_two z
  have ha := bit_lt_two oa.isSome
  have hb := bit_lt_two ob.isSome
  have hbits : e / 16 % 2 = bit z ∧ e / 2048 % 2 = bit oa.isSome ∧ e / 4096 = bit ob.isSome ∧ e < 8192 ∧ e < 18446744073709551616 := by omega
  have hk : Fin.ofNat 16 e = k ∧ Fin.ofNat 8 (e / 32) = ta ∧ Fin.ofNat 8 (e / 256) = tb := by
    refine ⟨Fin.ext ?_, Fin.ext ?_, Fin.ext ?_⟩ <;> simp <;> omega
  exact .of_matrix rfl (by simp [-Fin.ofNat_eq_cast, ← he, Fields.matrix, hbits, hk])
theorem encodes_mvsScale (c p : Fin 16) (ta tb : Fin 8) (ofs : Option (Fin 64)) : (Instr.mvsScale g c p ta tb ofs).Encodes := by
  obtain ⟨e, he⟩ : ∃ e, e = c.val + 16 * p.val + 256 * ta.val + 2048 * tb.val + 16384 * bit ofs.isSome := ⟨_, rfl⟩
  have hs := bit_lt_two ofs.isSome
  have hbits : e / 16384 = bit ofs.isSome ∧ e < 32768 ∧ e < 4294967296 := by omega
  have hk : Fin.ofNat 16 e = c ∧ Fin.ofNat 16 (e / 16) = p ∧ Fin.ofNat 8 (e / 256) = ta ∧ Fin.ofNat 8 (e / 2048) = tb := by
    refine ⟨Fin.ext ?_, Fin.ext ?_, Fin.ext ?_, Fin.ext ?_⟩ <;> simp <;> omega
  exact .of_matrix rfl (by simp [-Fin.ofNat_eq_cast, ← he, Fields.matrix, hbits, hk])
theorem encodes_mvs (c : Fin 16) (ta : Fin 8) (ofs : Option (Fin 64)) : ∀ op ∈ [Instr.mvsSt, .mvsStbf, .mvsLd], (op g c ta ofs).Encodes := by
  obtain ⟨e, he⟩ : ∃ e, e = c.val + 256 * ta.val + 16384 * bit ofs.isSome := ⟨_, rfl⟩
  have hs := bit_lt_two ofs.isSome
  have hbits : e / 16384 = bit ofs.isSome ∧ e < 32768 ∧ e < 4294967296 ∧ e / 16 % 16 = 0 ∧ e / 2048 % 8 = 0 := by omega
  have hk : Fin.ofNat 16 e = c ∧ Fin.ofNat 8 (e / 256) = ta := by
    refine ⟨Fin.ext ?_, Fin.ext ?_⟩ <;> simp <;> omega
  intro op hop
  fin_cases hop <;> exact .of_matrix rfl (by simp [-Fin.ofNat_eq_cast, ← he, Fields.matrix, hbits, hk])

/-! ### Engines, copies, collectives and geometry -/

theorem encodes_fork {w : Word} (h : okDisp w = true) : ∀ op ∈ [Instr.forkM, .forkC], (op g w).Encodes := by
  have h : w.toNat % 4 = 0 := by simpa [okDisp] using h
  intro op hop
  fin_cases hop <;> exact .of_engine rfl (by simp [Fields.engine, Fields.withImm, Fields.disp, h])
theorem encodes_rdvThread (k : SeqKind) (d : Fin 64) : (Instr.rdvThread g k d).Encodes := by
  cases k <;> exact .of_engine rfl (by simp [Fields.engine])
theorem encodes_rdvSequencer : (Instr.rdvSequencer g).Encodes := .of_engine rfl (by simp [Fields.engine])
theorem CplSize.count_read (c : Fin 8) : c.val / 8 = 0 ∧ c.val / 16 = 0 ∧ (8 + c.val) / 8 = 1 ∧ (8 + c.val) / 16 = 0 ∧ 8 + c.val < 64
    ∧ c.val % 16 < 16 ∧ (8 + c.val) % 16 < 16 ∧ Fin.ofNat 8 (8 + c.val) = c := by
  refine ⟨by omega, by omega, by omega, by omega, by omega, by omega, by omega, Fin.ext ?_⟩
  simp
theorem encodes_cpl {dir : CplDir} {size : CplSize} {dst src : Reg}
    (h : (match dir with | .gs => src.okPair true | .sg _ => dst.okPair true | .gg _ => src.okPair true && dst.okPair true) = true) :
    (Instr.cpl g dir size dst src).Encodes := by
  cases dir with
  | gs => cases size <;> exact .of_engine rfl (by simp [Fields.engine, CplSize.type, CplSize.xmod, regOf_code h])
  | sg c =>
    have hc := CplSize.count_read c
    cases size <;> exact .of_engine rfl (by simp [-Fin.ofNat_eq_cast, Fields.engine, CplSize.type, CplSize.xmod, regOf_code h, hc])
  | gg c =>
    obtain ⟨hsrc, hdst⟩ := Bool.and_eq_true_iff.1 h
    have hc := CplSize.count_read c
    cases size <;> exact .of_engine rfl (by simp [-Fin.ofNat_eq_cast, Fields.engine, CplSize.type, CplSize.xmod, regOf_code hsrc, regOf_code hdst, hc])
theorem encodes_cpt (a b c : Fin 64) (cnt : Fin 8) : (Instr.cptIn g a b c).Encodes ∧ (Instr.cptOut g a b c cnt).Encodes := by
  have hcnt : Fin.ofNat 8 ((1 + 2 * cnt.val) / 2) = cnt := Fin.ext (by simp; omega)
  have hext : 1 + 2 * cnt.val < 16 ∧ 1 + 2 * cnt.val < 18446744073709551616 ∧ (1 + 2 * cnt.val) % 2 = 1 := by omega
  exact ⟨.of_engine rfl (by simp [Fields.engine]), .of_engine rfl (by simp [-Fin.ofNat_eq_cast, Fields.engine, hcnt, hext])⟩
theorem encodes_own (t : Fin 8) (ofs : Option (Fin 64)) : ∀ op ∈ [Instr.ownEng, .ownThr], (op g t ofs).Encodes := by
  intro op hop
  fin_cases hop <;> exact .of_engine rfl (by simp [Fields.engine])
theorem encodes_residOpen {p : Fin 4} {d a b : Fin 64} (h : (a.val % 2 == 0 && b.val % 2 == 0) = true) : (Instr.residOpen g p d a b).Encodes := by
  simp only [Bool.and_eq_true, beq_iff_eq] at h
  exact .of_engine rfl (by simp [Fields.engine, h]; omega)
theorem encodes_resid (p : Fin 4) (d a : Fin 64) : (Instr.residPrio g p d a).Encodes ∧ (Instr.residClose g d a).Encodes := by
  refine ⟨.of_engine rfl ?_, .of_engine rfl ?_⟩ <;> simp [Fields.engine]
  omega
theorem encodes_nxch (dir : Compass) (c : CollImm) : (Instr.nxch g dir c).Encodes := by
  cases dir <;> exact .of_engine rfl (by simp [Fields.engine, Compass.code])
theorem encodes_nred {op : NredOp} (h : op.ok = true) (x : ShardGroup) (c : CollImm) : (Instr.nred g op x c).Encodes :=
  .of_engine rfl (by simp [Fields.engine, op.codes_lt, nredOf_code h])
theorem encodes_nbc {x : ShardGroup} {r : Fin 64} {c : CollImm} (h : (r.val % 2 == 0) = true) : (Instr.nbc g x r c).Encodes := by
  have h := beq_iff_eq.1 h
  exact .of_engine rfl (by simp [Fields.engine, h])
theorem encodes_emit {slot : Fin 4} {a : Reg} {b c : Fin 64} (h : (a.okGroup 11 && b.val % 2 == 0) = true) : (Instr.emit g slot a b c).Encodes := by
  simp only [Bool.and_eq_true, beq_iff_eq] at h
  exact .of_engine rfl (by simp [Fields.engine, groupReg_code h.1, h.2]; omega)
theorem encodes_emitend (slot : Fin 4) (a : Fin 64) : (Instr.emitend g slot a).Encodes := .of_engine rfl (by simp [Fields.engine]; omega)

/-! ### System instructions (R368) -/

theorem sysNum_read (num : Byte) : num.toNat / 4 * 4 + num.toNat % 4 = num.toNat ∧ num.toNat / 4 < 64 ∧ num.toNat % 4 < 4 := by
  have := num.isLt
  omega
theorem encodes_sysrd {num : Byte} {w : Bool} {d : Fin 64} (h : (!w || d.val % 2 == 0) = true) : (Instr.sysrd g num w d).Encodes := by
  obtain ⟨hnum, hx, hr⟩ := sysNum_read num
  have hd : Reg.okPair (.s d) w = true := h
  exact .of_system rfl (by simp [Fields.system, hnum, hx, hr, uniOf_val hd])
/-- What the decoder makes of a SYSWR: the registers of number 3 at 64 bits and 4 at 32 have rows of their own (R368). -/
theorem system_withSys {x r : Nat} {a : SysOperand} {w : Bool} (h : a.ok w = true) :
    ({ blank g 0xF1 with type := wideCode w, xmod := x, rnd := r }.withSys a).system =
      if (x * 4 + r == 3 && w) = true then .ok (.syswrTtb g a) else if (x * 4 + r == 4 && !w) = true then .ok (.syswrCeil g a)
      else .ok (.syswr g (BitVec.ofNat 8 (x * 4 + r)) w a) := by
  cases a with
  | s n => simp [Fields.system, Fields.withSys, Fields.sysOperand, uniOf_val (show Reg.okPair (.s n) w = true from h)]
  | imm y => simp [Fields.system, Fields.withSys, Fields.withImm, Fields.sysOperand]
  | imm64 y =>
    obtain rfl : w = true := h
    simp [Fields.system, Fields.withSys, Fields.sysOperand]
theorem inRange_withSys {x r : Nat} (a : SysOperand) (w : Bool) (hx : x < 64) (hr : r < 4) :
    ({ blank g 0xF1 with type := wideCode w, xmod := x, rnd := r }.withSys a).inRange = true := by
  cases a <;> simp [Fields.withSys, Fields.withImm, hx, hr]
theorem toNat_beq (x y : Byte) : (x.toNat == y.toNat) = (x == y) := by
  rw [Bool.eq_iff_iff, beq_iff_eq, beq_iff_eq, BitVec.toNat_inj]
theorem encodes_syswr {num : Byte} {w : Bool} {a : SysOperand} (h : (a.ok w && !(num == 3 && w) && !(num == 4 && !w)) = true) :
    (Instr.syswr g num w a).Encodes := by
  simp only [Bool.and_eq_true, Bool.not_eq_true'] at h
  obtain ⟨⟨ha, httb⟩, hceil⟩ := h
  obtain ⟨hnum, hx, hr⟩ := sysNum_read num
  have h3 : (num.toNat == 3 && w) = false := by rwa [show (num.toNat == 3) = (num == 3) from toNat_beq num 3]
  have h4 : (num.toNat == 4 && !w) = false := by rwa [show (num.toNat == 4) = (num == 4) from toNat_beq num 4]
  exact .of_system rfl ⟨inRange_withSys a w hx hr, by simp, (system_withSys ha).trans (by simp [hnum, h3, h4])⟩
theorem encodes_syswrTtb {a : SysOperand} (h : a.ok true = true) : (Instr.syswrTtb g a).Encodes :=
  .of_system rfl ⟨inRange_withSys a true (by decide) (by decide), by simp, system_withSys h⟩
theorem encodes_syswrCeil {a : SysOperand} (h : a.ok false = true) : (Instr.syswrCeil g a).Encodes :=
  .of_system rfl ⟨inRange_withSys a false (by decide) (by decide), by simp, system_withSys h⟩
theorem encodes_system : ∀ op ∈ [Instr.eret, .tlbinvCtx, .wdclr], (op g).Encodes := by
  intro op hop
  fin_cases hop <;> exact .of_system rfl (by simp [Fields.system])
theorem encodes_system_uni (a : UOperand) : ∀ op ∈ [Instr.halt, .stamp], (op g a).Encodes := by
  intro op hop
  fin_cases hop <;> cases a <;> exact .of_system rfl (by simp [Fields.system, Fields.uniOrImm, Fields.withUni, Fields.withImm])
theorem encodes_page {a : Fin 64} (h : (a.val % 2 == 0) = true) : ∀ op ∈ [Instr.tlbinvPage, .invrep], (op g a).Encodes := by
  have h := beq_iff_eq.1 h
  intro op hop
  fin_cases hop <;> exact .of_system rfl (by simp [Fields.system, h])
theorem encodes_range {a : Fin 64} (h : (a.val % 2 == 0) = true) (b : Fin 64) : ∀ op ∈ [Instr.tlbinvRange, .invrepRange], (op g a b).Encodes := by
  have h := beq_iff_eq.1 h
  intro op hop
  fin_cases hop <;> exact .of_system rfl (by simp [Fields.system, h])
theorem encodes_context {a : Fin 64} (h : (a.val % 2 == 0) = true) (d : Fin 64) :
    ∀ op ∈ [Instr.ctxsaveCopy, .ctxsavePark, .ctxload], (op g d a).Encodes := by
  have h := beq_iff_eq.1 h
  intro op hop
  fin_cases hop <;> exact .of_system rfl (by simp [Fields.system, h])

end

end Sys2Proof
end

section
/-! Every well-formed instruction has a word that decodes to it (O58), and the words the spec writes out (O57). -/

namespace Sys2Proof
open Machine

/-- Every well-formed instruction of a program has a word that decodes to it. -/
theorem Instr.encodes_of_wellFormed {i : Instr} : i.wellFormed = true → i.Encodes := by
  cases i
  -- Control.
  case nop | exit | yield | trap | bkpt => exact fun _ => encodes_bare _ (by simp)
  case brx a | ret a => exact fun _ => encodes_jump a _ (by simp)
  case nap n | perf n => exact fun _ => encodes_control_uni n _ (by simp)
  case napImm w | perfImm w | trapImm w => exact fun _ => encodes_control_imm w _ (by simp)
  case bra => exact fun h => (encodes_branch h 0 0).1
  case call d _ => exact fun h => (encodes_branch h d 0).2.1
  case meet k _ => exact fun h => (encodes_branch h 0 k).2.2
  case callx d a => exact fun _ => encodes_callx d a
  case mleave k => exact fun _ => encodes_mleave k
  -- Integer arithmetic.
  case iadd | isub => exact fun h => encodes_sum h _ (by simp)
  case imul | imulh | idiv | irem | imin | imax => exact fun h => encodes_word2 h _ (by simp)
  case iadd3 | imad | clamp => exact fun h => encodes_word3 h _ (by simp)
  case imadw => exact encodes_imadw
  case iabs | ineg => exact fun h => encodes_word1 h _ (by simp)
  -- Logic, shifts and bit fields.
  case and | or | xor | andn | orn => exact fun h => encodes_logic h _ (by simp)
  case shl | shr | sar | rot => exact fun h => encodes_shift h _ (by simp)
  case fsh => exact encodes_fsh
  case bfx => exact encodes_bfx
  case bfi | bytesel => exact fun h => encodes_insert h _ (by simp)
  case popc | clz | ctz | brev => exact fun h => encodes_count h _ (by simp)
  case lea => exact encodes_lea
  -- Compare, select, moves and predicates.
  case icmp => exact encodes_icmp
  case sel => exact encodes_sel
  case mov => exact encodes_mov
  case movi => exact encodes_movi
  case movs => exact encodes_movs
  case pcomb pd pa pb pc tt => exact fun _ => encodes_pcomb pd pa pb pc tt
  case psetm => exact encodes_psetm
  case psetmMask pd k => exact fun _ => encodes_psetmMask pd k
  case pmovToReg p d => exact fun _ => (encodes_pmov p d (.v d)).1
  case pmovToPred p r => exact fun _ => (encodes_pmov p 0 r).2
  case pmovFromMask => exact encodes_pmovFromMask
  -- Binary32 arithmetic.
  case fadd | fsub | fmul | fscale | fdiv => exact fun h => encodes_float2 h _ (by simp)
  case fmin | fmax => exact fun h => encodes_fminmax h _ (by simp)
  case ffma => exact encodes_ffma
  case frnd | frcp | fsqrt => exact fun h => encodes_float1 h _ (by simp)
  case ffract | frsq | fexp2 | flog2 | fsin | fcos => exact fun h => encodes_function h _ (by simp)
  case fcmp => exact encodes_fcmp
  case fclass => exact encodes_fclass
  -- Paired arithmetic, conversions, NF and ray tests.
  case hadd2 | hmul2 => exact fun h => encodes_half2 h _ (by simp)
  case hfma2 | fdot2 => exact fun h => encodes_half3 h _ (by simp)
  case hmin2 | hmax2 => exact fun h => encodes_hminmax h _ (by simp)
  case cvtfi => exact encodes_cvtfi
  case cvtif => exact encodes_cvtif
  case cvtff pk =>
    cases pk with
    | none => exact encodes_cvtff
    | some b => exact encodes_cvtff_pair
  case iwiden => exact encodes_iwiden
  case inarrow b =>
    cases b with
    | none => exact encodes_inarrow
    | some b => exact encodes_inarrow_pair
  case nfpack | nfunp => exact fun h => encodes_nf h _ (by simp)
  case scaleblk => exact encodes_scaleblk
  case rbox => exact encodes_rbox
  case rtri => exact encodes_rtri
  -- Memory access.
  case ld => exact encodes_ld
  case st a _ _ => exact fun h => (encodes_st h a).1
  case stF c => exact fun h => (encodes_st h c).2
  case lds | ldc => exact fun h => encodes_local_load h _ (by simp)
  case sts a _ _ => exact fun h => encodes_sts h a
  case ldq => exact encodes_ldq
  case pref => exact encodes_pref
  case sptest pd a _ => exact fun _ => encodes_sptest pd a
  -- Atomics.
  case atom => exact encodes_atom
  case atoms => exact encodes_atoms
  case cas => exact encodes_cas
  case red => exact encodes_red
  case atagg => exact encodes_atagg
  -- Fences, barriers, queues, folios and launches.
  case fenceG => exact fun _ => (encodes_fence 0 (.s 0)).1
  case fenceS => exact fun _ => (encodes_fence 0 (.s 0)).2.1
  case fenceC k d => exact fun _ => (encodes_fence k d).2.2
  case bar b pd => exact fun _ => encodes_bar b pd
  case barArrive b => exact fun _ => encodes_barArrive b
  case barinit b ext c => exact fun _ => encodes_barinit b ext c
  case barinv b | qclose b => exact fun _ => encodes_object b _ (by simp)
  case qinit q a | qpush q a => exact fun _ => encodes_queue q a _ (by simp)
  case qpop q pd d | qtry q pd d => exact fun _ => encodes_qget q pd d _ (by simp)
  case fopen d a => exact fun _ => encodes_fopen d a
  case fclose a => exact fun _ => encodes_fclose a
  case launch => exact encodes_launch
  -- Cross-lane instructions.
  case shfl mode _ _ =>
    cases mode with
    | none => exact encodes_shfl_rev
    | some m => exact encodes_shfl
  case vote m pd pa neg => exact fun _ => encodes_vote m pd pa neg
  case ballot => exact encodes_ballot
  case match_ alleq _ _ => exact fun h => encodes_match h alleq
  case gred => exact encodes_gred
  case gscan op excl d a => exact fun _ => encodes_gscan op excl d a
  -- Matrix instructions.
  case mma => exact encodes_mma
  case accz k => exact fun _ => encodes_accz k
  case accrdV k n | accwrV k n => exact fun _ => encodes_acc_v k n _ (by simp)
  case accrdSp k a off | accwrSp k a off => exact fun _ => encodes_acc_sp k a off _ (by simp)
  case accrdT | accwrT => exact fun h => encodes_acc_t h _ (by simp)
  case mmat t k z ta tb oa ob => exact fun _ => encodes_mmat t k z ta tb oa ob
  case mvsScale c p ta tb ofs => exact fun _ => encodes_mvsScale c p ta tb ofs
  case mvsSt c ta ofs | mvsStbf c ta ofs | mvsLd c ta ofs => exact fun _ => encodes_mvs c ta ofs _ (by simp)
  -- Engines, copies, collectives and geometry.
  case forkM | forkC => exact fun h => encodes_fork h _ (by simp)
  case rdvThread k d => exact fun _ => encodes_rdvThread k d
  case rdvSequencer => exact fun _ => encodes_rdvSequencer
  case cpl => exact encodes_cpl
  case cptIn a b c => exact fun _ => (encodes_cpt a b c 0).1
  case cptOut a b c cnt => exact fun _ => (encodes_cpt a b c cnt).2
  case ownEng t ofs | ownThr t ofs => exact fun _ => encodes_own t ofs _ (by simp)
  case residOpen => exact encodes_residOpen
  case residPrio p d a => exact fun _ => (encodes_resid p d a).1
  case residClose d a => exact fun _ => (encodes_resid 0 d a).2
  case nxch dir c => exact fun _ => encodes_nxch dir c
  case nred x c => exact fun h => encodes_nred h x c
  case nbc => exact encodes_nbc
  case emit => exact encodes_emit
  case emitend slot a => exact fun _ => encodes_emitend slot a
  -- System instructions.
  case sysrd => exact encodes_sysrd
  case syswr => exact encodes_syswr
  case syswrTtb => exact encodes_syswrTtb
  case syswrCeil => exact encodes_syswrCeil
  case eret | tlbinvCtx | wdclr => exact fun _ => encodes_system _ (by simp)
  case halt a | stamp a => exact fun _ => encodes_system_uni a _ (by simp)
  case tlbinvPage | invrep => exact fun h => encodes_page h _ (by simp)
  case tlbinvRange b | invrepRange b => exact fun h => encodes_range h b _ (by simp)
  case ctxsaveCopy d _ | ctxsavePark d _ | ctxload d _ => exact fun h => encodes_context h d _ (by simp)
  -- The steps of the panel's own units have no word and are not well formed.
  all_goals exact fun h => absurd h Bool.false_ne_true

/-- Settles O58: the fields of a word are its digits, and the word of a well-formed instruction decodes to it. -/
theorem roundTrip : Obligations.RoundTrip := by
  unfold Obligations.RoundTrip
  refine ⟨fun f => Fields.unpack_pack, fun w hw hlen => ⟨Fields.pack_unpack w, Fields.inRange_unpack hw hlen⟩, fun i hi => ?_⟩
  obtain ⟨f, hf, hr, hd⟩ := Instr.encodes_of_wellFormed hi
  have hbytes : i.bytes = lengthBytes f.len := by simp only [Instr.bytes, hf]
  have hw : encode i = some f.pack := by rw [encode, hf]; rfl
  have hb : encodeBytes i = some (toBytesLE (lengthBytes f.len) f.pack) := by rw [encodeBytes, hf]; rfl
  have hdecode {n : Nat} (hn : lengthBytes f.len ≤ n) : decodeBytes (toBytesLE n f.pack) = .ok i := by
    rw [decodeBytes, bytesFields_pack hr hn, ok_bind, hd]
  refine ⟨⟨f.pack, hw, hbytes ▸ Fields.pack_lt hr⟩, fun n w h => ?_, fun bs h => ?_⟩
  · obtain rfl := Option.some.inj (hw.symm.trans h)
    have hlen : lengthBytes f.len ≤ 16 := by
      obtain ⟨hlen, -⟩ := Fields.inRange_iff.1 hr
      unfold lengthBytes
      omega
    rw [decodeTableWord, hdecode hlen]
    rfl
  · obtain rfl := Option.some.inj (hb.symm.trans h)
    exact ⟨hdecode le_rfl, by rw [length_toBytesLE, hbytes]⟩

/-- Settles O57, by running the decoder on each word. -/
theorem decodedWords : Obligations.DecodedWords := by
  unfold Obligations.DecodedWords
  decide +kernel

end Sys2Proof
end

section
/-! A step with an issue in progress is what its fetch says: a pad, a trap, or an instruction (R181, R182, R194, R380; O55). -/

namespace Sys2Proof.Machine

/-- What is decided of a word ahead of every other check: a system opcode at U, and a word outside a sequencer's subset (R194, R326, R380). -/
def headTrap (a : Agent) (atS : Bool) (bs : List Byte) : Option Trap :=
  let f := Fields.unpack (ofBytesLE (bs.take 16))
  match a with
  | .gang _ => if systemOpcode f.opc = true ∧ atS = false then some { cause := 2, check := 1 } else none
  | .seq k => if (if bs.length < 8 then f.headSubset k else f.engineSubset k) = true then none else some { cause := 12 }

/-- Where a trapped word's issue goes on, and its guard. -/
def wordSite (pc : Word) (bs : List Byte) : Option (Word × Guard) :=
  let f := Fields.unpack (ofBytesLE (bs.take 16))
  if f.len = 3 then none else some (pc + BitVec.ofNat 32 (lengthBytes f.len), f.guard)

section
variable {a : Agent} {atS : Bool} {pc : Word} {bs : List Byte}

theorem fetched_of_pad (h : ofBytesLE (bs.take 4) = 0xFFFFFFFF) : fetched a atS pc bs = .pad := if_pos h

/-- A word that is no pad is its head's trap, or what it decodes to. -/
theorem fetched_of_not_pad (h : ofBytesLE (bs.take 4) ≠ 0xFFFFFFFF) :
    fetched a atS pc bs = match headTrap a atS bs with
      | some e => .trap e (wordSite pc bs)
      | none => match decodeBytes bs with
        | .ok i => .instr i
        | .error _ => .trap (if writesReadOnly (Fields.unpack (ofBytesLE (bs.take 16))) bs.length then { cause := 2, check := 1 } else Trap.illegal 1)
            (wordSite pc bs) := by
  unfold fetched
  rw [if_neg h]
  cases a with
  | gang g => simp only [Bool.and_eq_true, Bool.not_eq_true']; rfl
  | seq k => rfl
end

/-! ### A step, by what its fetch answers -/

section
variable {s t : State} {n : Issue} {c : Site} (hn : s.issue = some n) (hc : s.site = some c)
include hn hc

theorem step_of_fetch_instr {i : Instr} (h : s.fetch c = (.instr i, t)) : step s = exec i t := by simp only [step, hn, issueStep, hc, h]
theorem step_of_fetch_pad (h : s.fetch c = (.pad, t)) : step s = .next (t.skipPad c) := by simp only [step, hn, issueStep, hc, h]
theorem step_of_fetch_trap {e : Trap} {w : Option (Word × Guard)} (h : s.fetch c = (.trap e w, t)) : step s = .next (t.fetchTrap c e w) := by
  simp only [step, hn, issueStep, hc, h]

end

theorem step_of_no_issue {s : State} (h : s.issue = none) : step s = panelStep s := by simp only [step, h]

end Sys2Proof.Machine

namespace Sys2Proof
open Machine

/-- Settles O55: the step reads its fetch, and the fetch's word is a pad, its head's trap, or what the decoder says. -/
theorem stepRunsTheDecoded : Obligations.StepRunsTheDecoded := by
  unfold Obligations.StepRunsTheDecoded
  refine ⟨fun s t c n hn hc => ⟨fun i => step_of_fetch_instr hn hc, step_of_fetch_pad hn hc, fun e w => step_of_fetch_trap hn hc⟩,
    fun s => step_of_no_issue, fun a atS pc bs => ⟨fetched_of_pad, fun h => ⟨fun e he => ?_, fun hn i hi => ?_, fun hn e hi => ?_⟩⟩⟩
  · rw [fetched_of_not_pad h, show headTrap a atS bs = some e from he]
    rfl
  · rw [fetched_of_not_pad h, show headTrap a atS bs = none from hn, hi]
  · rw [fetched_of_not_pad h, show headTrap a atS bs = none from hn, hi]
    rfl

end Sys2Proof
end

section
/-! An outcome that answers, and what instructions share answers when what it goes on with does (R194). -/

namespace Sys2Proof.Machine

/-- An outcome that is a next state or a fault. -/
inductive Answers : Host.Outcome State Fault Refusal → Prop
  | next {t : State} : Answers (.next t)
  | fault {f : Fault} : Answers (.fault f)

namespace Answers

variable {i : Instr} {g : Guard} {s : State}

theorem not_refused {o : Host.Outcome State Fault Refusal} (h : Answers o) (r : Refusal) : o ≠ .refused r := by
  cases h <;> exact nofun
theorem ite {p : Prop} [Decidable p] {a b : Host.Outcome State Fault Refusal} (ha : Answers a) (hb : Answers b) : Answers (if p then a else b) := by
  split <;> assumption

/-! ### What instructions share: entering, checks, and families -/

theorem enter {k : Site → Host.Outcome State Fault Refusal} (hk : ∀ c, Answers (k c)) : Answers (enter i s k) := by
  fun_cases Machine.enter i s k
  · exact .fault
  · exact .next
  · exact hk _
theorem enterGang {k : Site → Host.Outcome State Fault Refusal} (hk : ∀ c, Answers (k c)) : Answers (enterGang i g s k) :=
  .enter fun c => .ite (hk c) .next
theorem enterMem {k : State → Site → Host.Outcome State Fault Refusal} (hk : ∀ s c, Answers (k s c)) : Answers (enterMem i s k) := by
  refine .enter fun c => ?_
  dsimp only
  split
  · exact .fault
  · exact hk _ _
theorem enterMemGang {k : State → Site → Host.Outcome State Fault Refusal} (hk : ∀ s c, Answers (k s c)) : Answers (enterMemGang i g s k) :=
  .enterMem fun s c => .ite (hk s c) .next
theorem orTrap {α : Type} {c : Site} {r : Except (Trap × State) α} {k : α → Host.Outcome State Fault Refusal} (hk : ∀ a, Answers (k a)) :
    Answers (orTrap c i r k) := by
  fun_cases Machine.orTrap c i r k
  · exact .next
  · exact hk _
theorem alu {f : View → Regs} : Answers (alu i s f) := .enter fun _ => .next
theorem alu1 {d : Reg} {a : Operand} {f : Word → Word} : Answers (alu1 i g d a f s) := .alu
theorem alu2 {d : Reg} {a b : Operand} {f : Word → Word → Word} : Answers (alu2 i g d a b f s) := .alu
theorem alu3 {d : Reg} {a b c : Operand} {f : Word → Word → Word → Word} : Answers (alu3 i g d a b c f s) := .alu
theorem alu2w {d : Reg} {a b : Operand} {f : DWord → DWord → DWord} : Answers (alu2w i g d a b f s) := .alu
theorem alu2m {d : Reg} {a b : Operand} {f : DWord → Word → DWord} : Answers (alu2m i g d a b f s) := .alu
theorem spadAccess {c : Site} {n : Nat} {reads : Bool} {xs : List (Nat × Nat)} {k : Host.Outcome State Fault Refusal} (hk : Answers k) :
    Answers (spadAccess i s c n reads xs k) := by
  fun_cases Machine.spadAccess i s c n reads xs k
  iterate 3 exact .next
  exact hk
theorem accMove {f : View → Regs} : Answers (accMove i g s f) := .enterGang fun _ => .ite .next .next
theorem accSpad {a : Option Reg} {off : Option Word} {reads : Bool} {act : State → Site → Nat → List Nat → State} :
    Answers (accSpad i g a off reads s act) :=
  .enterMemGang fun _ _ => .ite .next (.ite .next (.ite .next (.ite .next (.ite .next .next))))
theorem onTiles {ok : Site → Bool} {lines : Site → List Nat} {reads : Site → List Tile} {beats : Site → Nat} {act : State → Site → State} :
    Answers (onTiles i g s ok lines reads beats act) :=
  .enterMemGang fun _ _ => .ite .next (.ite .next (.ite .next .next))
theorem mvsStore {k : Fin 16} {ta : Fin 8} {ofs : Option (Fin 64)} {n : Nat} {f : Word → Nat} : Answers (mvsStore i g k ta ofs n f s) := by
  unfold Machine.mvsStore
  exact .onTiles
theorem forkSeq {k : SeqKind} {disp : Word} : Answers (forkSeq i g k disp s) := .enterMemGang fun _ _ => .ite .next .next
theorem flipOwner {eng : Bool} {t : Fin 8} {ofs : Option (Fin 64)} : Answers (flipOwner i g eng t ofs s) :=
  .enterMemGang fun _ _ => .ite .next (.ite .next .next)
theorem residency {d : Fin 64} {drew : Bool} {f : View → Context → Context × Nat} : Answers (residency i g d s drew f) := by
  refine .enterGang fun c => ?_
  split <;> exact .next
theorem jump {d : Option (Fin 192)} {a : Reg} : Answers (jump i g d a s) := by
  refine .enter fun c => ?_
  split <;> exact .next
theorem napFor {value : Site → Word} : Answers (napFor i g value s) := .enterGang fun _ => .next
theorem perfRequest {value : Site → Word} : Answers (perfRequest i g value s) := .enterGang fun _ => .next
theorem sysAccess {n : Nat} {wide : Bool} {k : Site → Host.Outcome State Fault Refusal} (hk : ∀ c, Answers (k c)) :
    Answers (sysAccess i g n wide s k) :=
  .enter fun c => .ite .next (.ite (hk c) .next)
theorem tlbinv {pages : View → Option Pages} {f : State → Site → State} : Answers (tlbinv i g s pages f) := by
  refine .enterMemGang fun s c => ?_
  split <;> exact .next
theorem invrep {pages : View → Option Pages} : Answers (invrep i g s pages) := by
  refine .enterMemGang fun s c => ?_
  split <;> exact .next
theorem nfOp {k : Nat} {d : Reg} {b : Operand} {f : View → Nat → Word} : Answers (nfOp i g k d b s f) := by
  refine .enter fun c => .ite .next ?_
  split <;> exact .next
theorem popOrElse {q : Fin 16} {pd : Fin 8} {d : Fin 64} {wait : Bool} : Answers (popOrElse i g q pd d wait s) := by
  refine .enterMemGang fun s c => ?_
  dsimp only
  split
  · exact .next
  · split
    · exact .next
    · exact .ite .next .next
theorem barrierArrive {b : Fin 16} {pd : Option (Fin 8)} : Answers (barrierArrive i g b pd s) := by
  refine .enterMem fun s c => ?_
  split
  · exact .next
  · exact .ite .next .next
theorem collective {im : CollImm} {key : Nat} {op : FoldOp} {root : Site → Nat} {members : Launch → Nat → Nat} :
    Answers (collective i g im key op root members s) := by
  refine .enterMemGang fun s c => ?_
  split
  · exact .next
  · exact .ite .next (.ite .next (.ite .next .next))
theorem tensorCopy {rec line org : Fin 64} {out : Option (Fin 8)} : Answers (tensorCopy i g rec line org out s) := by
  refine .enterMemGang fun s c => ?_
  dsimp only
  split
  · exact .next
  · refine .ite .next (.ite .next (.ite .next (.ite .next (.orTrap fun ⟨xs, s'⟩ => ?_))))
    dsimp only
    split
    · exact .next
    · exact .ite .next .next
theorem ctxsave {park : Bool} {d a : Fin 64} : Answers (ctxsave i g park d a s) := by
  refine .enterMemGang fun s c => .ite .next (.orTrap fun _ => ?_)
  dsimp only
  split
  · exact .next
  · refine .ite .next ?_
    split
    · exact .next
    · exact .ite .next .next
theorem command {code : Nat} {pen : Bool} {h : CmdHdr} {k : Host.Outcome State Fault Refusal} (hk : Answers k) : Answers (command code pen h s k) :=
  .ite .fault (.ite .next (.ite .next hk))
theorem onContext {code : Nat} {h : CmdHdr} {cx : Nat} {k : State → Context → Host.Outcome State Fault Refusal} (hk : ∀ s c, Answers (k s c)) :
    Answers (onContext code h cx s k) := by
  fun_cases Machine.onContext code h cx s k
  · exact .next
  · exact hk _ _
end Answers
end Sys2Proof.Machine
end

section
/-! Each instruction that looks something up before it goes on, each step of the panel's own units and each command answers. -/

namespace Sys2Proof.Machine
namespace Answers

variable {g : Guard} {s : State}

/-! ### Instructions of gangs that look something up -/

theorem execLd {ty : LoadTy} {d a : Reg} {off : Option Word} : Answers (execLd g ty d a off s) := by
  unfold Machine.execLd
  refine .enterMem fun s c => .orTrap fun ⟨xs, s'⟩ => ?_
  dsimp only
  split <;> exact .next
theorem execStF {ty : MemTy} {a b h : Reg} {off : Option Word} : Answers (execStF g ty a off b h s) := by
  unfold Machine.execStF
  refine .enterMem fun s c => ?_
  split
  · exact .next
  · dsimp only
    split
    · exact .next
    · refine .orTrap fun ⟨xs, s'⟩ => ?_
      dsimp only
      split <;> exact .next
theorem execLdc {ty : LoadTy} {d : Reg} {a : Option Reg} {off : Option Word} : Answers (execLdc g ty d a off s) := by
  refine .enter fun c => ?_
  dsimp only
  split
  · exact .next
  · split <;> exact .next
theorem execLdq {ty : TexTy} {mode : TexMode} {d : Fin 192} {a b rec : Reg} : Answers (execLdq g ty mode d a b rec s) := by
  unfold Machine.execLdq
  refine .enterMem fun s c => ?_
  dsimp only
  split
  · exact .next
  · refine .ite .next ?_
    split
    · exact .next
    · split
      · exact .next
      · refine .orTrap fun ⟨xs, s'⟩ => ?_
        dsimp only
        split <;> exact .next
theorem execSptest {pd : Fin 8} {a : Option Reg} {off : Option Word} : Answers (execSptest g pd a off s) := by
  unfold Machine.execSptest
  refine .enterMem fun s c => ?_
  dsimp only
  split <;> exact .next
theorem execAtom {op : AtomOp} {d a b : Reg} {off : Option Word} : Answers (execAtom g op d a off b s) := by
  unfold Machine.execAtom
  refine .enterMem fun s c => .orTrap fun ⟨xs, s'⟩ => ?_
  dsimp only
  split <;> exact .next
theorem execCas {ty : BitTy} {d a b n : Reg} {off : Option Word} : Answers (execCas g ty d a off b n s) := by
  unfold Machine.execCas
  refine .enterMem fun s c => .orTrap fun ⟨xs, s'⟩ => ?_
  dsimp only
  split <;> exact .next
theorem execAtagg {op : AggOp} {d b : Reg} {a : Fin 64} {off : Option Word} : Answers (execAtagg g op d a off b s) := by
  unfold Machine.execAtagg
  refine .enterMem fun s c => ?_
  dsimp only
  split
  · exact .next
  · refine .orTrap fun ⟨xs, s'⟩ => ?_
    dsimp only
    split <;> exact .next
theorem execMma {ty : MatTy} {acc : Fin 16} {z : Bool} {a b : Fin 192} {f : Option Reg} : Answers (execMma g ty acc z a b f s) := by
  refine .enterGang fun c => .ite .next ?_
  split
  · exact .next
  · exact .ite .next (.ite .next .next)
theorem execMmat {ty : MatTy} {acc : Fin 16} {z : Bool} {ta tb : Fin 8} {oa ob : Option (Fin 64)} : Answers (execMmat g ty acc z ta tb oa ob s) := by
  unfold Machine.execMmat
  exact .onTiles
theorem execMvsScale {k p : Fin 16} {ta tb : Fin 8} {ofs : Option (Fin 64)} : Answers (execMvsScale g k p ta tb ofs s) := by
  unfold Machine.execMvsScale
  exact .onTiles
theorem execMvsLd {k : Fin 16} {ta : Fin 8} {ofs : Option (Fin 64)} : Answers (execMvsLd g k ta ofs s) := by
  unfold Machine.execMvsLd
  exact .onTiles
theorem execRdvThread {which : SeqKind} {d : Fin 64} : Answers (execRdvThread g which d s) := by
  refine .enterMemGang fun s c => ?_
  dsimp only
  split <;> exact .next
theorem execRdvSequencer : Answers (execRdvSequencer g s) := by
  refine .enterGang fun c => ?_
  split
  · exact .next
  · exact .ite .next .next
theorem execCpl {dir : CplDir} {size : CplSize} {dst src : Reg} : Answers (execCpl g dir size dst src s) := by
  unfold Machine.execCpl
  refine .enterMem fun s c => .orTrap fun ⟨xs, s'⟩ => ?_
  dsimp only
  split
  · exact .next
  · exact .ite .next (.ite .next .next)
theorem execExit : Answers (execExit g s) := by
  refine .enter fun c => ?_
  split
  · exact .next
  · exact .ite .next .next
theorem execMeet {k : Fin 8} {disp : Word} : Answers (execMeet g k disp s) := by
  refine .enter fun c => .ite .next ?_
  split <;> exact .next
theorem execFopen {d : Fin 64} {a : UOperand} : Answers (execFopen g d a s) := by
  refine .enterMemGang fun s c => .ite .next ?_
  split
  · exact .next
  · split <;> exact .next
theorem execFclose {a : Fin 64} : Answers (execFclose g a s) := by
  refine .enterMemGang fun s c => ?_
  split
  · exact .next
  · dsimp only
    split <;> exact .next
theorem execEmit {slot : Fin 4} {a : Reg} {b d : Fin 64} : Answers (execEmit g slot a b d s) := by
  unfold Machine.execEmit
  refine .enterMem fun s c => ?_
  dsimp only
  split
  · refine .orTrap fun ⟨r, v, s'⟩ => ?_
    dsimp only
    split
    · exact .next
    · exact .ite .next .next
  · exact .next
theorem execEmitend {slot : Fin 4} {a : Fin 64} : Answers (execEmitend g slot a s) := by
  refine .enterMemGang fun s c => ?_
  split
  · exact .ite .next (.ite .next .next)
  · exact .next
theorem execEret : Answers (execEret g s) := by
  refine .enterMemGang fun s c => ?_
  split
  · exact .next
  · exact .orTrap fun ⟨bs, v, s'⟩ => .ite .next (.ite .next .next)
theorem execStamp {a : UOperand} : Answers (execStamp g a s) := by
  refine .enterMemGang fun s c => ?_
  split
  · exact .next
  · refine .ite .next (.orTrap fun ⟨xs, s'⟩ => ?_)
    dsimp only
    split <;> exact .next
theorem execLaunch {d : Fin 64} {a : AddrOperand} : Answers (execLaunch g d a s) := by
  refine .enterMemGang fun s c => .ite .next ?_
  dsimp only
  split
  · exact .next
  · exact .next
  · split <;> exact .next
theorem execQpush {q : Fin 16} {a : UOperand} : Answers (execQpush g q a s) := by
  refine .enterMemGang fun s c => ?_
  dsimp only
  split
  · exact .next
  · split
    · exact .next
    · refine .ite .next (.ite ?_ .next)
      split <;> exact .next
theorem execQclose {q : Fin 16} : Answers (execQclose g q s) := by
  refine .enterMemGang fun s c => ?_
  dsimp only
  split <;> exact .next

theorem execSt {ty : MemTy} {a b : Reg} {off : Option Word} : Answers (execSt g ty a off b s) := by
  unfold Machine.execSt
  exact .enterMem fun _ _ => .orTrap fun _ => .next
theorem execRed {op : AtomOp} {a b : Reg} {off : Option Word} : Answers (execRed g op a off b s) := by
  unfold Machine.execRed
  exact .enterMem fun _ _ => .orTrap fun _ => .next
theorem execLds {ty : LoadTy} {d : Reg} {a : Option Reg} {off : Option Word} : Answers (execLds g ty d a off s) := by
  unfold Machine.execLds
  exact .enterMem fun _ _ => .spadAccess .next
theorem execSts {ty : MemTy} {a : Option Reg} {off : Option Word} {b : Reg} : Answers (execSts g ty a off b s) := by
  unfold Machine.execSts
  exact .enterMem fun _ _ => .spadAccess .next
theorem execAtoms {op : AtomOp} {d : Reg} {a : Option Reg} {off : Option Word} {b : Reg} : Answers (execAtoms g op d a off b s) := by
  unfold Machine.execAtoms
  exact .enterMem fun _ _ => .spadAccess .next
theorem execFenceG : Answers (execFenceG g s) := by
  unfold Machine.execFenceG
  exact .enterMem fun _ _ => .next
theorem execFenceS : Answers (execFenceS g s) := by
  unfold Machine.execFenceS
  exact .enterMem fun _ _ => .next
theorem execFenceC {k : Fin 8} {d : Reg} : Answers (execFenceC g k d s) := by
  unfold Machine.execFenceC
  exact .enterMem fun _ _ => .next
theorem execIwiden {ty : NarrowTy} {d : Reg} {a : Operand} : Answers (execIwiden g ty d a s) := by
  unfold Machine.execIwiden
  exact .alu
theorem execInarrow {ty : NarrowTy} {sat : Bool} {d : Reg} {a : Operand} {b : Option Operand} : Answers (execInarrow g ty sat d a b s) := by
  unfold Machine.execInarrow
  exact .alu

/-! ### The panel's own units: every branch of a definition is an answer -/


theorem execWriteAtHome {id : Nat} : Answers (execWriteAtHome id s) := by fun_cases Machine.execWriteAtHome id s <;> constructor
theorem execCopyCompletion {id : Nat} : Answers (execCopyCompletion id s) := by fun_cases Machine.execCopyCompletion id s <;> constructor
theorem execCollectiveCompletion {id : Nat} : Answers (execCollectiveCompletion id s) := by fun_cases Machine.execCollectiveCompletion id s <;> constructor
theorem execNapEnd {sheet gang : Nat} : Answers (execNapEnd sheet gang s) := by fun_cases Machine.execNapEnd sheet gang s <;> constructor
theorem execFolioClose {ctx slot : Nat} : Answers (execFolioClose ctx slot s) := by fun_cases Machine.execFolioClose ctx slot s <;> constructor
theorem execPrimitivePacket {id : Nat} : Answers (execPrimitivePacket id s) := by fun_cases Machine.execPrimitivePacket id s <;> constructor
theorem execCloseMarker {id : Nat} : Answers (execCloseMarker id s) := by fun_cases Machine.execCloseMarker id s <;> constructor
theorem execRasteriseGroup {die ctx slot : Nat} : Answers (execRasteriseGroup die ctx slot s) := by fun_cases Machine.execRasteriseGroup die ctx slot s <;> constructor
theorem execDrawAdvance {ctx slot : Nat} : Answers (execDrawAdvance ctx slot s) := by fun_cases Machine.execDrawAdvance ctx slot s <;> constructor
theorem execReplicaConversion {ctx page : Nat} : Answers (execReplicaConversion ctx page s) := by fun_cases Machine.execReplicaConversion ctx page s <;> constructor
theorem execPageWalk {ctx cluster page : Nat} : Answers (execPageWalk ctx cluster page s) := by fun_cases Machine.execPageWalk ctx cluster page s <;> constructor
theorem execDeadlockWatchdog {ctx : Nat} : Answers (execDeadlockWatchdog ctx s) := by fun_cases Machine.execDeadlockWatchdog ctx s <;> constructor
theorem execExternalWaitTimeout {sheet gang : Nat} : Answers (execExternalWaitTimeout sheet gang s) := by fun_cases Machine.execExternalWaitTimeout sheet gang s <;> constructor
theorem execSupervisorWatchdog {sheet gang : Nat} : Answers (execSupervisorWatchdog sheet gang s) := by fun_cases Machine.execSupervisorWatchdog sheet gang s <;> constructor
theorem execAsyncErrorDelivery {sheet : Nat} : Answers (execAsyncErrorDelivery sheet s) := by fun_cases Machine.execAsyncErrorDelivery sheet s <;> constructor
theorem execPlaceSheet {die : Nat} : Answers (execPlaceSheet die s) := by fun_cases Machine.execPlaceSheet die s <;> constructor
theorem execStealRequest {die : Nat} : Answers (execStealRequest die s) := by fun_cases Machine.execStealRequest die s <;> constructor
theorem execStealRetry {die : Nat} : Answers (execStealRetry die s) := by fun_cases Machine.execStealRetry die s <;> constructor
theorem execPreemptionRequest {die : Nat} : Answers (execPreemptionRequest die s) := by fun_cases Machine.execPreemptionRequest die s <;> constructor
theorem execRestoreListPass {die sheet : Nat} : Answers (execRestoreListPass die sheet s) := by fun_cases Machine.execRestoreListPass die sheet s <;> constructor
theorem execDrainTimeout {sheet : Nat} : Answers (execDrainTimeout sheet s) := by fun_cases Machine.execDrainTimeout sheet s <;> constructor
theorem execSave {sheet : Nat} : Answers (execSave sheet s) := by fun_cases Machine.execSave sheet s <;> constructor
theorem execFlush {sheet : Nat} : Answers (execFlush sheet s) := by fun_cases Machine.execFlush sheet s <;> constructor
theorem execSheetRetire {sheet : Nat} : Answers (execSheetRetire sheet s) := by fun_cases Machine.execSheetRetire sheet s <;> constructor
theorem execLaunchRetire {launch : Nat} : Answers (execLaunchRetire launch s) := by fun_cases Machine.execLaunchRetire launch s <;> constructor
theorem execRollback {sheet gang : Nat} {consumed : Bool} : Answers (execRollback sheet gang consumed s) := by fun_cases Machine.execRollback sheet gang consumed s <;> constructor
theorem execBlotterSweep {bad : LostWords} : Answers (execBlotterSweep bad s) := by fun_cases Machine.execBlotterSweep bad s <;> constructor
theorem execEccReencode {region : EccRegion} {bad : LostWords} : Answers (execEccReencode region bad s) := by fun_cases Machine.execEccReencode region bad s <;> constructor
theorem execCountersignReplay {audit : Nat} : Answers (execCountersignReplay audit s) := by fun_cases Machine.execCountersignReplay audit s <;> constructor
theorem execMigrationCutover {id : Nat} : Answers (execMigrationCutover id s) := by fun_cases Machine.execMigrationCutover id s <;> constructor
theorem execBoostIntervalBoundary {die : Nat} : Answers (execBoostIntervalBoundary die s) := by fun_cases Machine.execBoostIntervalBoundary die s <;> constructor
theorem execPermitRefill {die : Nat} : Answers (execPermitRefill die s) := by fun_cases Machine.execPermitRefill die s <;> constructor
theorem execRetentionEntry {cluster : Nat} : Answers (execRetentionEntry cluster s) := by fun_cases Machine.execRetentionEntry cluster s <;> constructor
theorem execRetentionWake {cluster : Nat} : Answers (execRetentionWake cluster s) := by fun_cases Machine.execRetentionWake cluster s <;> constructor
theorem execWeightWindowOpen {cluster : Nat} : Answers (execWeightWindowOpen cluster s) := by fun_cases Machine.execWeightWindowOpen cluster s <;> constructor
theorem execPowerOn {r : PowerOnRecord} : Answers (execPowerOn r s) := by fun_cases Machine.execPowerOn r s <;> constructor
theorem execLeaseLapse : Answers (execLeaseLapse s) := by fun_cases Machine.execLeaseLapse s <;> constructor
theorem execCheckpointComplete {id : Nat} : Answers (execCheckpointComplete id s) := by fun_cases Machine.execCheckpointComplete id s <;> constructor
theorem execRdmaWrite {rkey va : Nat} {data : List Byte} : Answers (execRdmaWrite rkey va data s) := by fun_cases Machine.execRdmaWrite rkey va data s <;> constructor
theorem execRdmaRead {rkey va len : Nat} : Answers (execRdmaRead rkey va len s) := by fun_cases Machine.execRdmaRead rkey va len s <;> constructor
theorem execLinkUnreachable {device : Nat} : Answers (execLinkUnreachable device s) := by fun_cases Machine.execLinkUnreachable device s <;> constructor
theorem execReAdmission {who : Readmitted} : Answers (execReAdmission who s) := by fun_cases Machine.execReAdmission who s <;> constructor
theorem execBarrierWaveRelease {sheet gang : Nat} : Answers (execBarrierWaveRelease sheet gang s) := by fun_cases Machine.execBarrierWaveRelease sheet gang s <;> constructor

/-! ### The steward's commands -/

section
variable {h : CmdHdr} {b : List Byte}

theorem execPartCreate : Answers (execPartCreate h b s) := by
  refine .command ?_
  split
  · exact .next
  · exact .ite .next (.ite .next .next)
theorem execPreempt : Answers (execPreempt h b s) := by
  refine .command (.ite .next (.onContext fun s' _ => ?_))
  dsimp only
  split
  · exact .next
  · exact .ite .next .next
theorem execKeyLoad : Answers (execKeyLoad h b s) := by
  refine .command (.ite .next ?_)
  split <;> exact .next
theorem execReplicate : Answers (execReplicate h b s) := by
  refine .command (.ite .next (.onContext fun s' _ => ?_))
  split
  · exact .next
  · exact .ite .next (.ite .next (.ite .next .next))
theorem execMigrate : Answers (execMigrate h b s) := by
  refine .command (.ite .next (.onContext fun s' c => ?_))
  split
  · exact .next
  · refine .ite .next (.ite .next ?_)
    split <;> exact .next
theorem execCheckpoint : Answers (execCheckpoint h b s) := by
  refine .command (.ite .next ?_)
  split <;> exact .next
theorem execRestore : Answers (execRestore h b s) := by
  refine .command (.ite .next ?_)
  split
  · exact .ite .next .next
  · exact .next
theorem execCtxCreate : Answers (execCtxCreate h b s) := .command (.ite .next (.ite .next (.ite .next (.ite .next .next))))
theorem execCtxEnd : Answers (execCtxEnd h b s) := .command (.ite .next (.onContext fun _ _ => .next))
theorem execStewardLaunch : Answers (execStewardLaunch h b s) := .command (.ite .next (.onContext fun _ _ => .next))
theorem execRegion : Answers (execRegion h b s) := .command (.ite .next (.onContext fun _ _ => .ite .next (.ite .next (.ite .next .next))))
end
end Answers
end Sys2Proof.Machine
end

section
/-! Every instruction answers, and the panel always goes on (R9, R194; O56). -/

namespace Sys2Proof.Machine

/-- Execution gives every instruction an answer: by what the instruction's definition is made of. -/
theorem exec_answers (i : Instr) (s : State) : Answers (exec i s) := by
  unfold exec
  cases i
  -- Arithmetic, logic and moves.
  case iadd | isub | and | or | xor | andn | orn => exact .ite .alu2w .alu2
  case shl | shr | sar | rot => exact .ite .alu2m .alu2
  case iadd3 | imad | clamp | fsh | bfi | bytesel | ffma | hfma2 | fdot2 => exact .alu3
  case imul | imulh | idiv | irem | imin | imax | bfx | fadd | fsub | fmul | fdiv | fmin | fmax | fscale | hadd2 | hmul2 | hmin2 | hmax2 => exact .alu2
  case iabs | ineg | popc | clz | ctz | brev | frnd | ffract | frcp | frsq | fsqrt | fexp2 | flog2 | fsin | fcos | fclass => exact .alu1
  case lea => exact .alu2m
  case imadw | fcmp | icmp | sel | pcomb | psetm | psetmMask | pmovToReg | pmovToPred | pmovFromMask | mov | movi | cvtfi | cvtif | cvtff | rbox | rtri
      | shfl | vote | ballot | match_ | gred | gscan => exact .alu
  case iwiden => exact .execIwiden
  case inarrow => exact .execInarrow
  case nfpack | nfunp => exact .nfOp
  case scaleblk => exact .enter fun _ => .ite .next (.ite .next .next)
  -- Control.
  case nop | bra | call | pref | movs => exact .enter fun _ => .next
  case brx | callx | ret => exact .jump
  case mleave => exact .enter fun _ => .ite .next .next
  case yield | trap | trapImm | bkpt | accrdT | accwrT | syswrCeil | halt | wdclr => exact .enterGang fun _ => .next
  case nap | napImm => exact .napFor
  case perf | perfImm => exact .perfRequest
  case exit => exact .execExit
  case meet => exact .execMeet
  -- Memory.
  case ld => exact .execLd
  case st => exact .execSt
  case stF => exact .execStF
  case lds => exact .execLds
  case sts => exact .execSts
  case ldc => exact .execLdc
  case ldq => exact .execLdq
  case sptest => exact .execSptest
  case atom => exact .execAtom
  case atoms => exact .execAtoms
  case cas => exact .execCas
  case red => exact .execRed
  case atagg => exact .execAtagg
  case fenceG => exact .execFenceG
  case fenceS => exact .execFenceS
  case fenceC => exact .execFenceC
  -- Synchronisation.
  case bar | barArrive => exact .barrierArrive
  case barinit | qinit => exact .enterMemGang fun _ _ => .ite .next (.ite .next .next)
  case barinv => exact .enterMemGang fun _ _ => .ite .next .next
  case qpush => exact .execQpush
  case qpop | qtry => exact .popOrElse
  case qclose => exact .execQclose
  case fopen => exact .execFopen
  case fclose => exact .execFclose
  case launch => exact .execLaunch
  -- Engines, copies, collectives and geometry.
  case mma => exact .execMma
  case accz | accrdV | accwrV => exact .accMove
  case accrdSp | accwrSp => exact .accSpad
  case mmat => exact .execMmat
  case mvsScale => exact .execMvsScale
  case mvsLd => exact .execMvsLd
  case mvsSt | mvsStbf => exact .mvsStore
  case forkM | forkC => exact .forkSeq
  case rdvThread => exact .execRdvThread
  case rdvSequencer => exact .execRdvSequencer
  case cpl => exact .execCpl
  case cptIn | cptOut => exact .tensorCopy
  case ownEng | ownThr => exact .flipOwner
  case residOpen | residPrio | residClose => exact .residency
  case nxch | nred | nbc => exact .collective
  case emit => exact .execEmit
  case emitend => exact .execEmitend
  -- System instructions.
  case sysrd => exact .sysAccess fun _ => .next
  case syswr => exact .ite (.enter fun _ => .next) (.sysAccess fun _ => .next)
  case syswrTtb | tlbinvPage | tlbinvRange | tlbinvCtx => exact .tlbinv
  case invrep | invrepRange => exact .invrep
  case eret => exact .execEret
  case ctxsaveCopy | ctxsavePark => exact .ctxsave
  case ctxload => exact .enterMemGang fun _ _ => .ite .next (.orTrap fun _ => .orTrap fun _ => .next)
  case stamp => exact .execStamp
  -- The steps of the panel's own units.
  case writeAtHome => exact .execWriteAtHome
  case copyCompletion => exact .execCopyCompletion
  case collectiveCompletion => exact .execCollectiveCompletion
  case napEnd => exact .execNapEnd
  case barrierWaveRelease => exact .execBarrierWaveRelease
  case folioClose => exact .execFolioClose
  case primitivePacket => exact .execPrimitivePacket
  case closeMarker => exact .execCloseMarker
  case rasteriseGroup => exact .execRasteriseGroup
  case drawAdvance => exact .execDrawAdvance
  case replicaConversion => exact .execReplicaConversion
  case pageWalk => exact .execPageWalk
  case deadlockWatchdog => exact .execDeadlockWatchdog
  case externalWaitTimeout => exact .execExternalWaitTimeout
  case supervisorWatchdog => exact .execSupervisorWatchdog
  case asyncErrorDelivery => exact .execAsyncErrorDelivery
  case weightWindowOpen => exact .execWeightWindowOpen
  case placeSheet => exact .execPlaceSheet
  case stealRequest => exact .execStealRequest
  case stealRetry => exact .execStealRetry
  case preemptionRequest => exact .execPreemptionRequest
  case restoreListPass => exact .execRestoreListPass
  case drainTimeout => exact .execDrainTimeout
  case save => exact .execSave
  case flush => exact .execFlush
  case sheetRetire => exact .execSheetRetire
  case launchRetire => exact .execLaunchRetire
  case rollback => exact .execRollback
  case blotterSweep => exact .execBlotterSweep
  case eccReencode => exact .execEccReencode
  case countersignReplay => exact .execCountersignReplay
  case migrationCutover => exact .execMigrationCutover
  case boostIntervalBoundary => exact .execBoostIntervalBoundary
  case permitRefill => exact .execPermitRefill
  case retentionEntry => exact .execRetentionEntry
  case retentionWake => exact .execRetentionWake
  case powerOn => exact .execPowerOn
  case leaseLapse => exact .execLeaseLapse
  case checkpointComplete => exact .execCheckpointComplete
  case rdmaWrite => exact .execRdmaWrite
  case rdmaRead => exact .execRdmaRead
  case linkUnreachable => exact .execLinkUnreachable
  case reAdmission => exact .execReAdmission
  -- The steward's commands.
  case claim => exact .command (.ite .next (.ite .next (.ite .next .next)))
  case heartbeat | handover | status | attest | notices | keyClear | keyGrant | reset => exact .command (.ite .next .next)
  case partEnd => exact .command (.ite .next (.ite .next .next))
  case clset => exact .command (.ite .next (.ite .next (.ite .next .next)))
  case partCreate => exact .execPartCreate
  case ctxCreate => exact .execCtxCreate
  case ctxEnd => exact .execCtxEnd
  case stewardLaunch => exact .execStewardLaunch
  case preempt => exact .execPreempt
  case keyLoad => exact .execKeyLoad
  case replicate => exact .execReplicate
  case migrate => exact .execMigrate
  case region => exact .execRegion
  case checkpoint => exact .execCheckpoint
  case restore => exact .execRestore

/-- POWER_ON has a next state while the steward is down (R457). -/
theorem execPowerOn_of_down {r : PowerOnRecord} {s : State} (h : s.steward.up = false) : ∃ t, execPowerOn r s = .next t := by
  unfold execPowerOn
  rw [if_neg (by simp [h])]
  exact ⟨_, rfl⟩
/-- Without an issue there is always a next state: bring-up, a pad, or a happening (R9). -/
theorem panelStep_next (s : State) : ∃ t, panelStep s = .next t := by
  unfold panelStep
  split
  · next h => exact execPowerOn_of_down (by simpa using h)
  · dsimp only
    split
    · exact ⟨_, rfl⟩
    · exact ⟨_, rfl⟩

end Sys2Proof.Machine

namespace Sys2Proof
open Machine

/-- Settles O56: every instruction's execution answers, and so does the panel's step, which brings up, pads, or chooses a happening. -/
theorem nothingRefused : Obligations.NothingRefused := by
  unfold Obligations.NothingRefused
  refine ⟨fun i s r => (exec_answers i s).not_refused r, fun s h => ?_⟩
  rw [step_of_no_issue h]
  exact panelStep_next s

end Sys2Proof
end

section
/-! The integer functions of words are the exact operations on their values (R73, R228 to R238): sums, products, quotients, order,
fields, counts and selected bytes. -/

namespace Sys2Proof.Machine

/-! ### The exact values of words (R73) -/

/-- A word is its own value modulo 2^32, by either type. -/
@[simp] theorem wrap32_val (t : IntTy) (a : Word) : wrap32 (t.val a) = a := by
  cases t
  · exact BitVec.ofInt_toInt
  · simp [wrap32, IntTy.val]
theorem wrap32_add (x y : Int) : wrap32 (x + y) = wrap32 x + wrap32 y := BitVec.ofInt_add x y
theorem wrap32_neg (x : Int) : wrap32 (-x) = -wrap32 x := BitVec.ofInt_neg
theorem wrap32_sub (x y : Int) : wrap32 (x - y) = wrap32 x - wrap32 y := by
  rw [sub_eq_add_neg, wrap32_add, wrap32_neg, ← BitVec.sub_eq_add_neg]
theorem wrap32_mul (x y : Int) : wrap32 (x * y) = wrap32 x * wrap32 y := BitVec.ofInt_mul x y
@[simp] theorem wrap32_natCast (n : Nat) : wrap32 n = BitVec.ofNat 32 n := BitVec.ofInt_natCast 32 n
theorem val_inj {t : IntTy} {a b : Word} : t.val a = t.val b ↔ a = b :=
  ⟨fun h => by rw [← wrap32_val t a, h, wrap32_val], fun h => h ▸ rfl⟩

/-- A word of either type widened to 64 bits. -/
def widened (t : IntTy) (a : Word) : DWord :=
  match t with
  | .i32 => a.signExtend 64
  | .n32 => a.setWidth 64
theorem ofInt_val (t : IntTy) (a : Word) : BitVec.ofInt 64 (t.val a) = widened t a := by
  cases t
  · rfl
  · rw [IntTy.val, widened, BitVec.ofInt_natCast, BitVec.ofNat_toNat]

/-! ### Sums (R228) -/

theorem narrow_false (t : IntTy) (x : Int) : narrow t false x = wrap32 x := rfl
theorem addSub_add (t : IntTy) (a b : Word) : addSub false t false a b = a + b := by
  simp [addSub, narrow_false, wrap32_add]
theorem addSub_sub (t : IntTy) (a b : Word) : addSub true t false a b = a - b := by
  simp [addSub, narrow_false, wrap32_sub]

/-! ### Products (R229) -/

/-- The high word of a number of 64 bits is its quotient by 2^32. -/
theorem extractLsb'_ofInt (x : Int) : (BitVec.ofInt 64 x).extractLsb' 32 32 = wrap32 (x / 4294967296) := by
  apply BitVec.eq_of_toNat_eq
  simp only [BitVec.extractLsb'_toNat, wrap32, BitVec.toNat_ofInt, Nat.shiftRight_eq_div_pow]
  omega
theorem mulHigh_eq (t : IntTy) (a b : Word) : mulHigh t a b = (widened t a * widened t b).extractLsb' 32 32 := by
  rw [mulHigh, ← extractLsb'_ofInt, BitVec.ofInt_mul, ofInt_val, ofInt_val]
theorem mulAddWide_eq (t : IntTy) (a b : Word) (c : DWord) : mulAddWide t a b c = widened t a * widened t b + c := by
  rw [mulAddWide, BitVec.ofInt_mul, ofInt_val, ofInt_val]

/-! ### Quotients (R230, R74) -/

theorem divWord_of_ne (t : IntTy) (a : Word) {b : Word} (h : b ≠ 0) : divWord t a b = wrap32 ((t.val a).tdiv (t.val b)) := if_neg h
theorem remWord_of_ne (t : IntTy) (a : Word) {b : Word} (h : b ≠ 0) : remWord t a b = wrap32 ((t.val a).tmod (t.val b)) := if_neg h
theorem divWord_n32 (a : Word) {b : Word} (h : b ≠ 0) : divWord .n32 a b = a / b := by
  have e : (IntTy.n32.val a).tdiv (IntTy.n32.val b) = ((a / b).toNat : Int) := by
    rw [BitVec.toNat_udiv, Int.ofNat_tdiv]; rfl
  rw [divWord_of_ne _ _ h, e, wrap32_natCast, BitVec.ofNat_toNat, BitVec.setWidth_eq]
theorem remWord_n32 (a : Word) {b : Word} (h : b ≠ 0) : remWord .n32 a b = a % b := by
  have e : (IntTy.n32.val a).tmod (IntTy.n32.val b) = ((a % b).toNat : Int) := by
    rw [BitVec.toNat_umod, Int.ofNat_tmod]; rfl
  rw [remWord_of_ne _ _ h, e, wrap32_natCast, BitVec.ofNat_toNat, BitVec.setWidth_eq]
/-- The remainder is what the quotient leaves of the dividend. -/
theorem remWord_eq_sub (t : IntTy) (a : Word) {b : Word} (h : b ≠ 0) : remWord t a b = a - b * divWord t a b := by
  rw [remWord_of_ne _ _ h, divWord_of_ne _ _ h, Int.tmod_def, wrap32_sub, wrap32_mul, wrap32_val, wrap32_val]

/-! ### Order and sign (R231) -/

theorem minWord_i32 (a b : Word) : minWord .i32 a b = if BitVec.slt b a then b else a :=
  if_congr BitVec.slt_iff_toInt_lt.symm rfl rfl
theorem minWord_n32 (a b : Word) : minWord .n32 a b = if BitVec.ult b a then b else a := by
  simp [minWord, IntTy.val, BitVec.ult]
theorem maxWord_i32 (a b : Word) : maxWord .i32 a b = if BitVec.slt a b then b else a :=
  if_congr BitVec.slt_iff_toInt_lt.symm rfl rfl
theorem maxWord_n32 (a b : Word) : maxWord .n32 a b = if BitVec.ult a b then b else a := by
  simp [maxWord, IntTy.val, BitVec.ult]

/-- A value within the bounds of the type is not clamped. -/
theorem narrow_of_mem {t : IntTy} {x : Int} (sat : Bool) (hlo : t.lo ≤ x) (hhi : x ≤ t.hi) : narrow t sat x = wrap32 x := by
  cases sat
  · rfl
  · rw [narrow, if_pos rfl, min_eq_left hhi, max_eq_right hlo]
/-- The smallest number has no negative: with .sat the largest stands for it. -/
theorem negWord_eq (sat : Bool) (a : Word) :
    negWord sat a = if sat = true ∧ a = 0x80000000 then 0x7FFFFFFF else -a := by
  by_cases ha : a = 0x80000000
  · subst ha
    cases sat <;> decide
  · have hne : a.toInt ≠ -2147483648 := fun h => ha (BitVec.eq_of_toInt_eq (h.trans (by decide)))
    have hlo := BitVec.le_toInt a
    have hhi := BitVec.toInt_lt (x := a)
    rw [if_neg fun h => ha h.2, negWord, narrow_of_mem sat (by simp only [IntTy.lo]; omega) (by simp only [IntTy.hi]; omega),
      wrap32_neg]
    exact congrArg _ (wrap32_val .i32 a)
theorem absWord_eq (sat : Bool) (a : Word) :
    absWord sat a = if sat = true ∧ a = 0x80000000 then 0x7FFFFFFF else if a.msb then -a else a := by
  by_cases hneg : a.toInt < 0
  · have e : absWord sat a = negWord sat a := by rw [absWord, if_pos hneg, negWord]
    have hmsb : a.msb = true := by rw [BitVec.msb_eq_toInt]; exact decide_eq_true hneg
    rw [e, negWord_eq, hmsb, if_pos (rfl : true = true)]
  · have hhi := BitVec.toInt_lt (x := a)
    have hmsb : a.msb = false := by rw [BitVec.msb_eq_toInt]; exact decide_eq_false hneg
    have hne : a ≠ 0x80000000 := fun h => by subst h; exact hneg (by decide)
    rw [if_neg fun h => hne h.2, absWord, if_neg hneg, narrow_of_mem sat (by simp only [IntTy.lo]; omega) (by simp only [IntTy.hi]; omega), hmsb]
    exact wrap32_val .i32 a

/-! ### Shifts of two words and of scaled offsets (R234, R238) -/

/-- The value of a pair is its high word times 2^32 and its low word. -/
theorem toNat_pair (a b : Word) : (a ++ b : DWord).toNat = a.toNat * 4294967296 + b.toNat := by
  rw [BitVec.toNat_append, ← Nat.shiftLeft_add_eq_or_of_lt b.isLt, Nat.shiftLeft_eq]
theorem funnel_right (a b n : Word) : funnel false a b n = ((a ++ b : DWord) >>> min n.toNat 32).setWidth 32 := by
  apply BitVec.eq_of_toNat_eq
  simp [funnel, toNat_pair, Nat.shiftRight_eq_div_pow]
theorem funnel_left (a b n : Word) : funnel true a b n = ((a ++ b : DWord) <<< min n.toNat 32).extractLsb' 32 32 := by
  apply BitVec.eq_of_toNat_eq
  simp only [funnel, if_true, BitVec.toNat_ofNat, BitVec.extractLsb'_toNat, BitVec.toNat_shiftLeft, toNat_pair,
    Nat.shiftRight_eq_div_pow, Nat.shiftLeft_eq]
  omega
theorem scaledAddress_eq (a : DWord) (b : Word) (k : Nat) (sx : Bool) :
    scaledAddress a b k sx = a + (if sx then b.signExtend 64 else b.setWidth 64) <<< k := by
  have e : BitVec.ofNat 64 (2 ^ k) = BitVec.twoPow 64 k := BitVec.eq_of_toNat_eq (by simp)
  rw [scaledAddress, BitVec.shiftLeft_eq_mul_twoPow, e]
/-! ### Bit fields (R235) -/

/-- The position of a field is bits 7:0 of its control. -/
theorem toNat_setWidth_eight (b : Word) : (b.setWidth 8).toNat = fieldPos b := BitVec.toNat_setWidth ..
/-- The length of a field is bits 15:8 of its control, at most 32. -/
theorem min_toNat_extractLsb' (b : Word) : min (b.extractLsb' 8 8).toNat 32 = fieldLen b := by
  rw [BitVec.extractLsb'_toNat, Nat.shiftRight_eq_div_pow, fieldLen]
/-- The field of a word, unsigned. -/
theorem bitField_n32 (a b : Word) : bitField .n32 a b = (((a >>> fieldPos b).setWidth (fieldLen b)).setWidth 32 : Word) := by
  have e : ((a.toNat : Int) / 2 ^ fieldPos b) % 2 ^ fieldLen b = ((a.toNat / 2 ^ fieldPos b % 2 ^ fieldLen b : Nat) : Int) := by
    push_cast; rfl
  apply BitVec.eq_of_toNat_eq
  simp only [bitField, IntTy.val, e, wrap32_natCast, BitVec.toNat_ofNat, BitVec.toNat_setWidth, BitVec.toNat_ushiftRight,
    Nat.shiftRight_eq_div_pow]
/-- A field of a word, signed, is the low bits of the word shifted right with its sign. -/
theorem bitField_i32 (a b : Word) : bitField .i32 a b = ((a.sshiftRight (fieldPos b)).setWidth (fieldLen b)).signExtend 32 := by
  have hd : (2 ^ fieldLen b : Nat) ∣ 2 ^ 32 := Nat.pow_dvd_pow 2 (min_le_right ..)
  have hz : (a.sshiftRight (fieldPos b)).toInt = a.toInt / 2 ^ fieldPos b := by
    rw [BitVec.toInt_sshiftRight, Int.shiftRight_eq_div_pow]; push_cast; rfl
  have hx : ((a.sshiftRight (fieldPos b)).setWidth (fieldLen b)).toInt = (a.toInt / 2 ^ fieldPos b).bmod (2 ^ fieldLen b) := by
    rw [BitVec.toInt_setWidth, ← Int.bmod_bmod_of_dvd hd, ← BitVec.toInt_eq_toNat_bmod, hz]
  rw [BitVec.signExtend, hx, Int.bmod_def]
  by_cases hn : fieldLen b = 0
  · simp [bitField, hn]
  · obtain ⟨m, hm⟩ := Nat.exists_eq_succ_of_ne_zero hn
    have hhalf : (((2 ^ fieldLen b : Nat) : Int) + 1) / 2 = 2 ^ (fieldLen b - 1) := by
      rw [hm, Nat.succ_sub_one, Nat.pow_succ]; push_cast; omega
    rw [bitField, hhalf]
    simp only [IntTy.val, if_neg hn, ge_iff_le, ← not_lt, ite_not, wrap32]
    push_cast
    rfl
theorem getLsbD_bitField_n32 (a b : Word) {k : Nat} (hk : k < 32) :
    (bitField .n32 a b).getLsbD k = (decide (k < fieldLen b) && a.getLsbD (fieldPos b + k)) := by
  rw [bitField_n32, BitVec.getLsbD_setWidth, BitVec.getLsbD_setWidth, BitVec.getLsbD_ushiftRight, decide_eq_true hk, Bool.true_and]
theorem getLsbD_bitField_i32 (a b : Word) {k : Nat} (hk : k < 32) :
    (bitField .i32 a b).getLsbD k = (decide (fieldLen b ≠ 0)
      && (let j := fieldPos b + (if k < fieldLen b then k else fieldLen b - 1); if j < 32 then a.getLsbD j else a.msb)) := by
  have hbit (j : Nat) (hj : j < 32) : (a.sshiftRight (fieldPos b)).getLsbD j
      = if fieldPos b + j < 32 then a.getLsbD (fieldPos b + j) else a.msb := by
    simp [BitVec.getLsbD_sshiftRight, Nat.not_le.2 hj]
  have hlen : fieldLen b ≤ 32 := min_le_right ..
  rw [bitField_i32, BitVec.getLsbD_signExtend, decide_eq_true hk, Bool.true_and]
  by_cases hlt : k < fieldLen b
  · simp only [if_pos hlt, BitVec.getLsbD_setWidth, decide_eq_true hlt, Bool.true_and, hbit k hk, decide_eq_true (Nat.ne_zero_of_lt hlt)]
  · by_cases hn : fieldLen b = 0
    · simp [hn, BitVec.msb_eq_getLsbD_last]
    · rw [if_neg hlt, if_neg hlt, BitVec.msb_eq_getLsbD_last, BitVec.getLsbD_setWidth, hbit _ (by omega), decide_eq_true hn]
      simp; omega

/-- A field laid into a word: its bits inside, the word's own outside. -/
theorem getLsbD_bitInsert (a b c : Word) {k : Nat} (hk : k < 32) :
    (bitInsert a b c).getLsbD k = if fieldPos b ≤ k ∧ k < fieldPos b + fieldLen b then a.getLsbD (k - fieldPos b) else c.getLsbD k := by
  have hmask : ((2 ^ fieldLen b - 1) * 2 ^ fieldPos b).testBit k = decide (fieldPos b ≤ k ∧ k < fieldPos b + fieldLen b) := by
    rw [Nat.testBit_mul_two_pow, Nat.testBit_two_pow_sub_one, ← Bool.decide_and]
    exact decide_eq_decide.2 (by omega)
  have hfield : (a.toNat * 2 ^ fieldPos b).testBit k = (decide (fieldPos b ≤ k) && a.getLsbD (k - fieldPos b)) := by
    rw [Nat.testBit_mul_two_pow, BitVec.testBit_toNat]
  simp only [bitInsert, BitVec.getLsbD_or, BitVec.getLsbD_and, BitVec.getLsbD_not, BitVec.getLsbD_ofNat, hmask, hfield, decide_eq_true hk,
    Bool.true_and]
  by_cases h : fieldPos b ≤ k ∧ k < fieldPos b + fieldLen b
  · simp [h]
  · simp [h]

/-! ### Counts and reversal (R236) -/

theorem popCount_eq_countP (a : Word) : popCount a = (List.range 32).countP a.getLsbD := List.countP_eq_length_filter.symm
/-- The zeros above the highest one bit are those before the first one from the top. -/
theorem leadingZeros_eq_find? (a : Word) : leadingZeros a = ((List.range 32).find? fun k => a.getLsbD (31 - k)).getD 32 := by
  by_cases ha : a = 0
  · subst ha
    decide
  · have hne : a.toNat ≠ 0 := fun h => ha (BitVec.eq_of_toNat_eq h)
    have hlog : a.toNat.log2 < 32 := (Nat.log2_lt hne).2 a.isLt
    have hfind : ((List.range 32).find? fun k => a.getLsbD (31 - k)) = some (31 - a.toNat.log2) := by
      rw [List.find?_range_eq_some]
      refine ⟨?_, List.mem_range.2 (by omega), fun j hj => ?_⟩
      · rw [Nat.sub_sub_self (by omega), ← BitVec.testBit_toNat, Nat.testBit_log2 hne]
      · have hlt : a.toNat < 2 ^ (31 - j) := (Nat.log2_lt hne).1 (by omega)
        rw [← BitVec.testBit_toNat, Nat.testBit_lt_two_pow hlt, Bool.not_false]
    rw [leadingZeros, if_neg ha, hfind, Option.getD_some]
/-- The one bits of a word below its bit `n`, laid in from the top. -/
def reversedBelow (a : Word) (n : Nat) : Nat := ((List.range n).filter a.getLsbD).foldl (fun x i => x + 2 ^ (31 - i)) 0
theorem reversedBelow_succ (a : Word) (n : Nat) :
    reversedBelow a (n + 1) = if a.getLsbD n then reversedBelow a n + 2 ^ (31 - n) else reversedBelow a n := by
  cases h : a.getLsbD n <;> simp [reversedBelow, List.range_succ, h]
theorem getLsbD_reversedBelow (a : Word) {n k : Nat} (hn : n ≤ 32) (hk : k < 32) :
    (BitVec.ofNat 32 (reversedBelow a n)).getLsbD k = (decide (31 - k < n) && a.getLsbD (31 - k)) := by
  induction n generalizing k with
  | zero => simp [reversedBelow]
  | succ n ih =>
    rw [reversedBelow_succ]
    cases h : a.getLsbD n with
    | false =>
      rw [if_neg Bool.false_ne_true, ih (by omega) hk]
      by_cases he : 31 - k = n
      · simp [he, h]
      · congr 1; exact decide_eq_decide.2 (by omega)
    | true =>
      have e : BitVec.ofNat 32 (2 ^ (31 - n)) = BitVec.twoPow 32 (31 - n) := BitVec.eq_of_toNat_eq (by simp)
      have hfree : BitVec.ofNat 32 (reversedBelow a n) &&& BitVec.twoPow 32 (31 - n) = 0#32 := by
        rw [BitVec.and_twoPow, ih (by omega) (by omega), if_neg]
        simp; omega
      rw [if_pos rfl, BitVec.ofNat_add, e, BitVec.add_eq_or_of_and_eq_zero _ _ hfree, BitVec.getLsbD_or, ih (by omega) hk, BitVec.getLsbD_twoPow]
      by_cases he : 31 - k = n
      · simp [he, h]; omega
      · have h1 : 31 - n ≠ k := by omega
        have h2 : 31 - k < n + 1 ↔ 31 - k < n := by omega
        simp [h1, h2]
theorem bitReverse_eq (a : Word) : bitReverse a = a.reverse := by
  apply BitVec.eq_of_getLsbD_eq
  intro k hk
  rw [BitVec.getLsbD_reverse, BitVec.getMsbD_eq_getLsbD]
  exact (getLsbD_reversedBelow a le_rfl hk).trans (by simp [hk]; omega)

/-! ### Selected bytes (R237) -/

theorem selectByte_lt (x sel : Nat) : selectByte x sel < 256 := by
  unfold selectByte
  dsimp only
  split <;> (try split) <;> omega
/-- Each byte of the result is the byte its selector names. -/
theorem byteSelect_byte (a b c : Word) {i : Nat} (hi : i < 4) :
    ((byteSelect a b c) >>> (8 * i)).setWidth 8 = BitVec.ofNat 8 (selectByte (b ++ a : DWord).toNat (c.toNat / 2 ^ (8 * i) % 256)) := by
  have hc := c.isLt
  have h0 := selectByte_lt (b ++ a : DWord).toNat (c.toNat % 256)
  have h1 := selectByte_lt (b ++ a : DWord).toNat (c.toNat / 256 % 256)
  have h2 := selectByte_lt (b ++ a : DWord).toNat (c.toNat / 65536 % 256)
  have h3 := selectByte_lt (b ++ a : DWord).toNat (c.toNat / 16777216)
  have e3 : c.toNat / 16777216 % 256 = c.toNat / 16777216 := by omega
  have hx : a.toNat + 4294967296 * b.toNat = (b ++ a : DWord).toNat := by rw [toNat_pair]; omega
  apply BitVec.eq_of_toNat_eq
  simp only [byteSelect, hx, BitVec.toNat_setWidth, BitVec.toNat_ushiftRight, BitVec.toNat_ofNat, Nat.shiftRight_eq_div_pow]
  interval_cases i <;> simp only [Nat.mul_zero, Nat.pow_zero, Nat.div_one, Nat.reduceMul, Nat.reducePow, e3] <;> omega
theorem ofNat_selectByte (x : DWord) (sel : Nat) :
    BitVec.ofNat 8 (selectByte x.toNat sel) = (match sel / 8 % 4 with
      | 0 => (x >>> (8 * (sel % 8))).setWidth 8
      | 1 => (0 : Byte)
      | 2 => if ((x >>> (8 * (sel % 8))).setWidth 8 : Byte).msb then 255 else 0
      | _ => 255) := by
  have hx : x.toNat / 256 ^ (sel % 8) % 256 = ((x >>> (8 * (sel % 8))).setWidth 8 : Byte).toNat := by
    rw [BitVec.toNat_setWidth, BitVec.toNat_ushiftRight, Nat.shiftRight_eq_div_pow, Nat.pow_mul]
  simp only [selectByte, hx]
  generalize sel / 8 % 4 = mode, (x >>> (8 * (sel % 8))).setWidth 8 = y
  match mode with
  | 0 => exact BitVec.ofNat_toNat .. |>.trans (BitVec.setWidth_eq y)
  | 1 => rfl
  | 2 => rw [BitVec.msb_eq_decide]; by_cases h : y.toNat ≥ 128 <;> simp [h]
  | n + 3 => rfl
/-- Bits 2:0 of a selector byte name the byte, bits 4:3 the mode. -/
theorem toNat_selector (c : Word) (i : Nat) : ((c >>> (8 * i)).setWidth 3).toNat = c.toNat / 2 ^ (8 * i) % 256 % 8 := by
  rw [BitVec.toNat_setWidth, BitVec.toNat_ushiftRight, Nat.shiftRight_eq_div_pow]
  omega
theorem toNat_selectorMode (c : Word) (i : Nat) : ((c >>> (8 * i + 3)).setWidth 2 : BitVec 2).toNat = c.toNat / 2 ^ (8 * i) % 256 / 8 % 4 := by
  rw [BitVec.toNat_setWidth, BitVec.toNat_ushiftRight, Nat.shiftRight_eq_div_pow, Nat.pow_add, ← Nat.div_div_eq_div_mul]
  omega
end Sys2Proof.Machine
end

section
/-! Instructions that only compute registers complete with them: integer arithmetic, logic, shifts and bit fields (R226 to R238). -/

namespace Sys2Proof.Machine

/-! ### Instructions that only compute registers -/

section
variable {i : Instr} {s : State} {c : Site} {g : Guard} {d : Reg} {x y z : Operand} {P : Regs → Prop} {w : Nat → Word} {p : Nat → DWord}

/-- An instruction that computes registers from registers completes with them. -/
theorem runs_alu {f : View → Regs} (he : exec i s = alu i s f) (hP : P (f c.view)) (h : Starts i s c) : Runs i s c P :=
  ⟨f c.view, he.trans (alu_of h.1 h.2 f), hP⟩
theorem runs_word {f : View → Nat → Word} (he : exec i s = alu i s fun v => v.put32 g d (f v)) (hf : ∀ l, f c.view l = w l) (h : Starts i s c) :
    Runs i s c (Writes32 c.view g d w) := runs_alu he (funext hf ▸ View.put32_writes ..) h
theorem runs_pair {f : View → Nat → DWord} (he : exec i s = alu i s fun v => v.put64 g d (f v)) (hf : ∀ l, f c.view l = p l) (h : Starts i s c) :
    Runs i s c (Writes64 c.view g d p) := runs_alu he (funext hf ▸ View.put64_writes ..) h
theorem runs_pred {pd : Fin 8} {b : Nat → Bool} {f : View → Nat → Bool} (he : exec i s = alu i s fun v => v.putPred g pd (f v))
    (hf : ∀ l, f c.view l = b l) (h : Starts i s c) : Runs i s c (WritesPred c.view g pd b) :=
  runs_alu he (funext hf ▸ View.putPred_writes ..) h
theorem runs_alu1 {f : Word → Word} (he : exec i s = alu1 i g d x f s) (hf : ∀ l, f (c.view.src32 l x) = w l) :
    Starts i s c → Runs i s c (Writes32 c.view g d w) := runs_word he hf
theorem runs_alu2 {f : Word → Word → Word} (he : exec i s = alu2 i g d x y f s) (hf : ∀ l, f (c.view.src32 l x) (c.view.src32 l y) = w l) :
    Starts i s c → Runs i s c (Writes32 c.view g d w) := runs_word he hf
theorem runs_alu3 {f : Word → Word → Word → Word} (he : exec i s = alu3 i g d x y z f s)
    (hf : ∀ l, f (c.view.src32 l x) (c.view.src32 l y) (c.view.src32 l z) = w l) :
    Starts i s c → Runs i s c (Writes32 c.view g d w) := runs_word he hf
theorem runs_alu2w {f : DWord → DWord → DWord} (he : exec i s = alu2w i g d x y f s) (hf : ∀ l, f (c.view.src64 l x) (c.view.src64 l y) = p l) :
    Starts i s c → Runs i s c (Writes64 c.view g d p) := runs_pair he hf
theorem runs_alu2m {f : DWord → Word → DWord} (he : exec i s = alu2m i g d x y f s) (hf : ∀ l, f (c.view.src64 l x) (c.view.src32 l y) = p l) :
    Starts i s c → Runs i s c (Writes64 c.view g d p) := runs_pair he hf
end

end Sys2Proof.Machine

namespace Sys2Proof
open Machine

/-! ### Integer arithmetic (R226 to R231) -/

theorem exec_iadd_word {t : AddTy} (ht : t ≠ .b64) (g : Guard) (sat : Bool) (d : Reg) (x y : Operand) (s : State) :
    exec (.iadd g t sat d x y) s = alu2 (.iadd g t sat d x y) g d x y (addSub false t.int sat) s := if_neg ht
theorem exec_isub_word {t : AddTy} (ht : t ≠ .b64) (g : Guard) (sat : Bool) (d : Reg) (x y : Operand) (s : State) :
    exec (.isub g t sat d x y) s = alu2 (.isub g t sat d x y) g d x y (addSub true t.int sat) s := if_neg ht

/-- Settles O1: a sum of words is the exact sum of their values, narrowed; a product that of the words widened by type. -/
theorem integerSums : Obligations.IntegerSums := by
  unfold Obligations.IntegerSums
  refine ⟨fun s c g d x y z => ⟨?_, ?_, ?_, ?_, ?_, ?_, ?_, ?_, ?_⟩, fun s c g t d x y z => ⟨?_, ?_, ?_, ?_⟩⟩
  · exact fun _ => runs_alu2w ((exec_iadd ..).trans (if_pos rfl)) fun _ => rfl
  · exact fun _ => runs_alu2w ((exec_isub ..).trans (if_pos rfl)) fun _ => rfl
  · exact fun _ => runs_alu3 (exec_iadd3 ..) fun _ => rfl
  · exact fun _ => runs_alu2 (exec_iadd_word (t := .i32) nofun ..) fun _ => rfl
  · exact fun _ => runs_alu2 (exec_isub_word (t := .i32) nofun ..) fun _ => rfl
  · exact fun _ => runs_alu2 (exec_iadd_word (t := .n32) nofun ..) fun _ => rfl
  · exact fun _ => runs_alu2 (exec_isub_word (t := .n32) nofun ..) fun _ => rfl
  · exact fun _ ht => runs_alu2 (exec_iadd_word ht ..) fun _ => addSub_add ..
  · exact fun _ ht => runs_alu2 (exec_isub_word ht ..) fun _ => addSub_sub ..
  · exact runs_alu2 (exec_imul ..) fun _ => rfl
  · exact runs_alu2 (exec_imulh ..) fun _ => by rw [mulHigh_eq]; cases t <;> rfl
  · exact runs_alu3 (exec_imad ..) fun _ => rfl
  · exact runs_pair (exec_imadw ..) fun _ => by rw [mulAddWide_eq]; cases t <;> rfl

/-- Settles O2: quotient and remainder are those of the exact values, rounded toward zero. -/
theorem integerQuotients : Obligations.IntegerQuotients := by
  unfold Obligations.IntegerQuotients
  refine ⟨fun s c g t d x y => ⟨?_, ?_⟩, fun a b hb => ⟨?_, ?_, ?_, ?_⟩, fun _ _ _ _ _ => ⟨rfl, rfl⟩, fun _ _ => ⟨rfl, rfl⟩, by decide, by decide⟩
  · exact runs_alu2 (exec_idiv ..) fun _ => rfl
  · exact runs_alu2 (exec_irem ..) fun _ => rfl
  · exact divWord_n32 a hb
  · exact remWord_n32 a hb
  · exact divWord_of_ne .i32 a hb
  · exact fun t => remWord_eq_sub t a hb

/-- Settles O3: the values of a type are ordered as its words are. -/
theorem integerOrder : Obligations.IntegerOrder := by
  unfold Obligations.IntegerOrder
  intro s c g t d x y z low high
  have hlow (a b : Word) : minWord t a b = low a b := by
    cases t
    · exact minWord_i32 a b
    · exact minWord_n32 a b
  have hhigh (a b : Word) : maxWord t a b = high a b := by
    cases t
    · exact maxWord_i32 a b
    · exact maxWord_n32 a b
  refine ⟨?_, ?_, ?_, ?_, ?_⟩
  · exact runs_alu2 (exec_imin ..) fun _ => hlow ..
  · exact runs_alu2 (exec_imax ..) fun _ => hhigh ..
  · exact runs_alu3 (exec_clamp ..) fun _ => by rw [hlow, hhigh]
  · exact fun sat => runs_alu1 (exec_iabs ..) fun _ => absWord_eq ..
  · exact fun sat => runs_alu1 (exec_ineg ..) fun _ => negWord_eq ..

/-! ### Logic, shifts and bit fields (R233 to R238) -/

/-- Settles O4: each of the nine is its function of words or pairs, the shifts with the amount of 32 bits. -/
theorem logicAndShifts : Obligations.LogicAndShifts := by
  unfold Obligations.LogicAndShifts
  intro s c g d x y word pair shift
  refine ⟨?_, ?_, ?_, ?_, ?_, ?_, ?_, ?_, ?_, ?_, ?_, ?_, ?_, ?_, ?_, ?_, ?_, ?_⟩
  · exact runs_alu2 ((exec_and ..).trans (if_neg nofun)) fun _ => rfl
  · exact runs_alu2w ((exec_and ..).trans (if_pos rfl)) fun _ => rfl
  · exact runs_alu2 ((exec_or ..).trans (if_neg nofun)) fun _ => rfl
  · exact runs_alu2w ((exec_or ..).trans (if_pos rfl)) fun _ => rfl
  · exact runs_alu2 ((exec_xor ..).trans (if_neg nofun)) fun _ => rfl
  · exact runs_alu2w ((exec_xor ..).trans (if_pos rfl)) fun _ => rfl
  · exact runs_alu2 ((exec_andn ..).trans (if_neg nofun)) fun _ => rfl
  · exact runs_alu2w ((exec_andn ..).trans (if_pos rfl)) fun _ => rfl
  · exact runs_alu2 ((exec_orn ..).trans (if_neg nofun)) fun _ => rfl
  · exact runs_alu2w ((exec_orn ..).trans (if_pos rfl)) fun _ => rfl
  · exact runs_alu2 ((exec_shl ..).trans (if_neg nofun)) fun _ => rfl
  · exact runs_alu2m ((exec_shl ..).trans (if_pos rfl)) fun _ => rfl
  · exact runs_alu2 ((exec_shr ..).trans (if_neg nofun)) fun _ => rfl
  · exact runs_alu2m ((exec_shr ..).trans (if_pos rfl)) fun _ => rfl
  · exact runs_alu2 ((exec_sar ..).trans (if_neg nofun)) fun _ => rfl
  · exact runs_alu2m ((exec_sar ..).trans (if_pos rfl)) fun _ => rfl
  · exact runs_alu2 ((exec_rot ..).trans (if_neg nofun)) fun _ => rfl
  · exact runs_alu2m ((exec_rot ..).trans (if_pos rfl)) fun _ => rfl

/-- Settles O5: the control's position and length give the field bit by bit, the selectors the bytes. -/
theorem funnelAndBitFields : Obligations.FunnelAndBitFields := by
  unfold Obligations.FunnelAndBitFields
  refine ⟨?_, ?_, ?_, ?_⟩
  · intro s c g d x y z one two three
    refine ⟨?_, ?_, ?_, ?_, ?_, ?_, ?_, ?_, ?_, ?_⟩
    · exact runs_alu3 (exec_fsh ..) fun _ => funnel_right ..
    · exact runs_alu3 (exec_fsh ..) fun _ => funnel_left ..
    · exact fun _ => runs_alu2 (exec_bfx ..) fun _ => rfl
    · exact runs_alu3 (exec_bfi ..) fun _ => rfl
    · exact runs_alu1 (exec_popc ..) fun _ => by rw [popCount_eq_countP]
    · exact runs_alu1 (exec_clz ..) fun _ => by rw [leadingZeros_eq_find?]
    · exact runs_alu1 (exec_ctz ..) fun _ => rfl
    · exact runs_alu1 (exec_brev ..) fun _ => bitReverse_eq _
    · exact runs_alu3 (exec_bytesel ..) fun _ => rfl
    · exact fun sc sx => runs_alu2m (exec_lea ..) fun _ => scaledAddress_eq ..
  · intro a b k hk
    simp only [toNat_setWidth_eight, min_toNat_extractLsb']
    exact ⟨getLsbD_bitField_n32 a b hk, getLsbD_bitField_i32 a b hk⟩
  · intro a b c k hk
    simp only [toNat_setWidth_eight, min_toNat_extractLsb']
    exact getLsbD_bitInsert a b c hk
  · intro a b c i hi
    simp only [byteSelect_byte a b c hi, ofNat_selectByte, toNat_selector, toNat_selectorMode] <;> rfl

end Sys2Proof
end

section
/-! Compares, predicates and moves complete with what they compute (R239 to R246). -/

namespace Sys2Proof.Machine

/-! ### Compares and predicates (R239 to R243) -/

/-- The order of words by type. -/
def ltWord (t : IntTy) (a b : Word) : Bool :=
  match t with
  | .i32 => BitVec.slt a b
  | .n32 => BitVec.ult a b
theorem decide_val_lt (t : IntTy) (a b : Word) : decide (t.val a < t.val b) = ltWord t a b := by
  cases t
  · rfl
  · exact decide_eq_decide.2 Int.ofNat_lt
theorem decide_val_le (t : IntTy) (a b : Word) : decide (t.val a ≤ t.val b) = (ltWord t a b || a == b) := by
  rw [← decide_val_lt, Bool.beq_eq_decide_eq, ← Bool.decide_or]
  exact decide_eq_decide.2 (by rw [← val_inj (t := t)]; exact le_iff_lt_or_eq)
theorem val_beq (t : IntTy) (a b : Word) : (t.val a == t.val b) = (a == b) := by
  rw [Bool.beq_eq_decide_eq, Bool.beq_eq_decide_eq]
  exact decide_eq_decide.2 val_inj
/-- The comparisons by type in terms of the order and equality of words. -/
theorem icmpHolds_val (cmp : ICmp) (t : IntTy) (a b : Word) :
    icmpHolds cmp (t.val a) (t.val b) = match cmp with
      | .eq => a == b
      | .ne => a != b
      | .lt => ltWord t a b
      | .le => ltWord t a b || a == b
      | .gt => !(ltWord t a b || a == b)
      | .ge => !ltWord t a b := by
  cases cmp with
  | eq => exact val_beq ..
  | ne => exact congrArg (!·) (val_beq ..)
  | lt => exact decide_val_lt ..
  | le => exact decide_val_le ..
  | gt => rw [← decide_val_le, ← decide_not]; exact decide_eq_decide.2 Int.not_le.symm
  | ge => rw [← decide_val_lt, ← decide_not]; exact decide_eq_decide.2 Int.not_lt.symm
theorem truthBit_eq (tt : Byte) (a b c : Bool) : truthBit tt a b c = tt.getLsbD (a.toNat + 2 * b.toNat + 4 * c.toNat) := by
  cases a <;> cases b <;> cases c <;> rfl

/-! ### Specials (R60, R246) -/

theorem runs_movs_word {s : State} {c : Site} {g : Guard} {num : Fin 15} {d : Reg} {w : Nat → Word} (hn : specialWide num.val = false)
    (hf : ∀ l, BitVec.ofNat 32 (s.special c num.val l) = w l) (h : Starts (.movs g num d) s c) : Runs (.movs g num d) s c (Writes32 c.view g d w) := by
  refine ⟨c.view.put32 g d w, ?_, View.put32_writes ..⟩
  rw [exec_movs, execMovs, enter_of h.1 h.2]
  simp only [hn, Bool.false_eq_true, if_false, funext hf, putRegs_finish]
theorem runs_movs_pair {s : State} {c : Site} {g : Guard} {num : Fin 15} {d : Reg} {w : Nat → DWord} (hn : specialWide num.val = true)
    (hf : ∀ l, BitVec.ofNat 64 (s.special c num.val l) = w l) (h : Starts (.movs g num d) s c) : Runs (.movs g num d) s c (Writes64 c.view g d w) := by
  refine ⟨c.view.put64 g d w, ?_, View.put64_writes ..⟩
  rw [exec_movs, execMovs, enter_of h.1 h.2]
  simp only [hn, if_true, funext hf, putRegs_finish]
theorem State.special_four {s : State} {c : Site} {q : Launch} (h : tabGet c.sh.launch s.launches = some q) (l : Nat) :
    s.special c 4 l = (q.coords c.sh.index).1 + 2 ^ 32 * (q.coords c.sh.index).2.1 + 2 ^ 48 * (q.coords c.sh.index).2.2 := by
  simp only [State.special, h, Nat.reducePow]
theorem State.special_ten {s : State} {c : Site} {n : Nat} {q : Gang} (ha : c.agent = .gang n) (hq : tabGet n c.sh.gangs = some q) (l : Nat) :
    s.special c 10 l = ((tabGet l q.threads).map Thread.clock).getD 0 := by
  simp only [State.special, Site.gang, ha, hq, Option.bind_some]
theorem State.special_thirteen {s : State} {c : Site} {x : Context} (h : tabGet c.sh.ctx s.ctxs = some x) (l : Nat) :
    s.special c 13 l = min c.sh.preq x.ceil := by
  simp only [State.special, State.classOf, h, Option.map_some, Option.getD_some]

end Sys2Proof.Machine

namespace Sys2Proof
open Machine

/-- Settles O6: a comparison by type is one of words. -/
theorem predicates : Obligations.Predicates := by
  unfold Obligations.Predicates
  intro s c g
  refine ⟨?_, ?_, ?_, ?_, ?_, ?_, ?_, ?_, ?_⟩
  · refine fun t cmp comb pd x y => runs_pred (exec_icmp ..) fun l => ?_
    rw [icmpHolds_val]
    cases t <;> cases cmp <;> cases comb <;> rfl
  · exact fun p neg d x y => runs_word (exec_sel ..) fun l => apply_ite (c.view.src32 l) ..
  · exact fun p neg d x y => runs_pair (exec_sel ..) fun l => apply_ite (c.view.src64 l) ..
  · exact fun pd pa pb pc tt => runs_pred (exec_pcomb ..) fun l => truthBit_eq ..
  · exact fun pd a => runs_pred (exec_psetm ..) fun _ => rfl
  · exact fun pd k => runs_pred (exec_psetmMask ..) fun _ => rfl
  · exact fun p d => runs_word (exec_pmovToReg ..) fun _ => rfl
  · exact fun pd a => runs_pred (exec_pmovToPred ..) fun _ => rfl
  · exact fun k d => runs_pair (exec_pmovFromMask ..) fun _ => rfl

/-- Settles O7: a special is of one word or a pair by its number. -/
theorem moves : Obligations.Moves := by
  unfold Obligations.Moves
  intro s c g d word pair
  refine ⟨?_, ?_, ?_, ?_, ?_, ?_, ?_, ?_, ?_, ?_, ?_, ?_, ?_, ?_, ?_, ?_, ?_, ?_, ?_, ?_, ?_⟩
  · exact fun a => runs_word (exec_mov ..) fun _ => rfl
  · exact fun a => runs_pair (exec_mov ..) fun _ => rfl
  · exact fun w => runs_word (exec_movi ..) fun _ => rfl
  · exact fun w => runs_pair (exec_movi ..) fun _ => rfl
  · exact fun w => runs_pair (exec_movi ..) fun _ => rfl
  · exact runs_movs_word rfl fun _ => rfl
  · exact runs_movs_word rfl fun _ => rfl
  · exact runs_movs_word rfl fun _ => rfl
  · exact runs_movs_pair rfl fun _ => rfl
  · exact fun q hq => runs_movs_pair rfl fun l => congrArg _ (State.special_four hq l)
  · exact runs_movs_word rfl fun _ => rfl
  · exact runs_movs_word rfl fun _ => rfl
  · exact runs_movs_pair rfl fun _ => rfl
  · exact runs_movs_pair rfl fun _ => rfl
  · exact runs_movs_pair rfl fun _ => rfl
  · exact fun n q ha hq => runs_movs_pair rfl fun l => congrArg _ (State.special_ten ha hq l)
  · exact runs_movs_word rfl fun _ => rfl
  · exact runs_movs_word rfl fun _ => rfl
  · exact fun x hx => runs_movs_word rfl fun l => congrArg _ (State.special_thirteen hx l)
  · exact runs_movs_word rfl fun _ => rfl
  · intro num h
    cases hn : specialWide num.val with
    | true => obtain ⟨r, hr, -⟩ := runs_movs_pair hn (fun _ => rfl) h; exact ⟨r, hr⟩
    | false => obtain ⟨r, hr, -⟩ := runs_movs_word hn (fun _ => rfl) h; exact ⟨r, hr⟩

end Sys2Proof
end

section
/-! Branches, pauses and user traps (R212, R217, R223 to R225, R290). -/

namespace Sys2Proof.Machine

/-! ### Branches (R217) -/

section
variable {s : State} {c : Site} {i : Instr} {g : Guard} {target : Nat → Word} {a : Reg} {d : Fin 192}

theorem finishAt_branchPc (hs : s.site = some c) : s.finishAt c i (branchPc c i g target)
    = (s.moved c i c.view.regs fun l => if c.view.regs.guardAt g l then target l else c.next i).reap := finishAt_moved hs ..
theorem putRegs_branchPc (r : Regs) : (s.putRegs c r).finishAt c i (branchPc c i g target)
    = (s.moved c i r fun l => if c.view.regs.guardAt g l then target l else c.next i).reap := putRegs_finishAt ..

/-- The active lanes stand in increasing order. -/
theorem View.active_pairwise (v : View) (g : Guard) : (v.active g).Pairwise (· < ·) := (List.pairwise_lt_range.filter _).filter _
/-- The first of some numbers in increasing order to meet a condition is the lowest that does. -/
theorem find?_lowest {p : Nat → Bool} {ls : List Nat} {l : Nat} (hs : ls.Pairwise (· < ·)) (hf : ls.find? p = some l) :
    l ∈ ls ∧ p l = true ∧ ∀ j ∈ ls, j < l → p j = false := by
  obtain ⟨hp, as, bs, rfl, has⟩ := List.find?_eq_some_iff_append.1 hf
  refine ⟨by simp, hp, fun j hj hlt => ?_⟩
  rcases List.mem_append.1 hj with hj | hj
  · simpa using has j hj
  · have hle : l ≤ j := (List.mem_cons.1 hj).elim (fun e => e.ge) fun h => (List.rel_of_pairwise_cons (List.pairwise_append.1 hs).2.1 h).le
    omega

theorem badTarget_eq_none (h : ∀ l ∈ c.view.active g, (c.view.reg32 l a).toNat % 4 = 0) : badTarget c g a = none := by
  rw [badTarget, List.find?_eq_none.2 fun l hl => by simp [h l hl]]
  rfl
/-- The trap of a misaligned target names the lowest active lane with one. -/
theorem badTarget_eq_some (h : ¬∀ l ∈ c.view.active g, (c.view.reg32 l a).toNat % 4 = 0) :
    ∃ l ∈ c.view.active g, (c.view.reg32 l a).toNat % 4 ≠ 0 ∧ (∀ j ∈ c.view.active g, j < l → (c.view.reg32 j a).toNat % 4 = 0)
      ∧ badTarget c g a = some { cause := 3, check := 3, lane := some l, addr := (c.view.reg32 l a).toNat } := by
  push Not at h
  obtain ⟨k, hk, hbad⟩ := h
  obtain ⟨l, hl⟩ := Option.isSome_iff_exists.1 (List.find?_isSome (p := fun l => decide ((c.view.reg32 l a).toNat % 4 ≠ 0)).2 ⟨k, hk, decide_eq_true hbad⟩)
  obtain ⟨hmem, hp, hlow⟩ := find?_lowest (c.view.active_pairwise g) hl
  exact ⟨l, hmem, of_decide_eq_true hp, fun j hj hlt => by simpa using hlow j hj hlt, by rw [badTarget, hl]; rfl⟩

theorem jump_of_aligned (h : Starts i s c) (ha : ∀ l ∈ c.view.active g, (c.view.reg32 l a).toNat % 4 = 0) :
    jump i g none a s = .next (s.moved c i c.view.regs fun l => if c.view.regs.guardAt g l then c.view.reg32 l a else c.next i).reap := by
  simp only [jump, enter_of h.1 h.2, badTarget_eq_none ha, finishAt_branchPc h.1]
/-- A branch with a link takes its target as it was before the link is written. -/
theorem jump_link_of_aligned (h : Starts i s c) (ha : ∀ l ∈ c.view.active g, (c.view.reg32 l a).toNat % 4 = 0) :
    ∃ r, Writes32 c.view g (.v d) (fun _ => c.next i) r
      ∧ jump i g (some d) a s = .next (s.moved c i r fun l => if c.view.regs.guardAt g l then c.view.reg32 l a else c.next i).reap := by
  refine ⟨_, View.put32_writes .., ?_⟩
  simp only [jump, enter_of h.1 h.2, badTarget_eq_none ha, putRegs_branchPc, View.put32]
theorem jump_of_misaligned (h : Starts i s c) {d : Option (Fin 192)} (ha : ¬∀ l ∈ c.view.active g, (c.view.reg32 l a).toNat % 4 = 0) :
    ∃ l ∈ c.view.active g, (c.view.reg32 l a).toNat % 4 ≠ 0 ∧ (∀ j ∈ c.view.active g, j < l → (c.view.reg32 j a).toNat % 4 = 0)
      ∧ jump i g d a s = .next (s.raise c i { cause := 3, check := 3, lane := some l, addr := (c.view.reg32 l a).toNat }) := by
  obtain ⟨l, hl, hbad, hlow, ht⟩ := badTarget_eq_some ha
  exact ⟨l, hl, hbad, hlow, by simp only [jump, enter_of h.1 h.2, ht]⟩
end

/-! ### The trap frame (R383) -/

theorem fieldAt_append_left {xs ys : List Byte} {o n : Nat} (h : o + n ≤ xs.length) : fieldAt (xs ++ ys) o n = fieldAt xs o n := by
  rw [fieldAt, fieldAt, List.drop_append_of_le_length (by omega), List.take_append_of_le_length (by rw [List.length_drop]; omega)]
theorem fieldAt_append_right {xs ys : List Byte} {o n : Nat} (h : xs.length ≤ o) : fieldAt (xs ++ ys) o n = fieldAt ys (o - xs.length) n := by
  rw [fieldAt, fieldAt, List.drop_append, List.drop_of_length_le h, List.nil_append]
/-- A field that is all of its bytes. -/
theorem fieldAt_toBytesLE (n x : Nat) : fieldAt (toBytesLE n x) 0 n = x % 256 ^ n := by
  rw [fieldAt, List.drop_zero, List.take_of_length_le (length_toBytesLE ..).le, ofBytesLE_toBytesLE]
theorem length_flatMap_toBytesLE {α : Type} (n : Nat) (f : α → Nat) (l : List α) : (l.flatMap fun a => toBytesLE n (f a)).length = l.length * n :=
  length_flatMap_of_length (fun _ => length_toBytesLE ..) l
/-- The `k`th of a list of fields of one size. -/
theorem fieldAt_flatMap_toBytesLE {α : Type} {n k : Nat} {f : α → Nat} {l : List α} {a : α} (hk : l[k]? = some a) :
    fieldAt (l.flatMap fun a => toBytesLE n (f a)) (n * k) n = f a % 256 ^ n := by
  rw [fieldAt, take_drop_flatMap (fun _ => length_toBytesLE ..) hk, ofBytesLE_toBytesLE]

section
variable (s : State) (ts : TrapSite) (h : Sheet) (q : Gang) (t : Trap) (f : TrapFlag) (lost : Nat)

/-- INFO stands at offset 24 of the frame. -/
theorem State.frameBytes_info : fieldAt (s.frameBytes ts h q t f lost) 24 8 = t.info % 2 ^ 64 := by
  unfold State.frameBytes
  simp (disch := simp [length_toBytesLE]) only [fieldAt_append_left]
  rw [fieldAt_append_right (by simp [length_toBytesLE])]
  simp only [List.length_append, length_toBytesLE, Nat.reduceAdd, Nat.sub_self, fieldAt_toBytesLE, Nat.reducePow]
/-- RPC of lane `l` stands at offset 256 + 4 l: the next offset for an active lane that resumes there (R385). -/
theorem State.frameBytes_rpc {l : Nat} (hl : l < 64) {x : Thread} (hx : tabGet l q.threads = some x) :
    fieldAt (s.frameBytes ts h q t f lost) (256 + 4 * l) 4 = (if resumesNext t f && laneOn ts.act l then ts.noff else x.pc).toNat := by
  unfold State.frameBytes
  simp (disch := (simp [length_toBytesLE, length_flatMap_toBytesLE]; omega)) only [fieldAt_append_left]
  rw [fieldAt_append_right (by simp [length_toBytesLE])]
  simp only [List.length_append, length_toBytesLE, length_flatMap_toBytesLE, List.length_range, Nat.reduceMul, Nat.reduceAdd, Nat.add_sub_cancel_left]
  rw [fieldAt_flatMap_toBytesLE (List.getElem?_range hl), hx]
  exact Nat.mod_eq_of_lt (BitVec.isLt _)
end

end Sys2Proof.Machine

namespace Sys2Proof
open Machine

/-- Settles O19: a target is misaligned in the lowest active lane that finds it so. -/
theorem branches : Obligations.Branches := by
  unfold Obligations.Branches
  intro s c g disp d a v goes link aligned bad
  refine ⟨fun h => ?_, fun h => ⟨_, View.put32_writes .., ?_⟩, fun h ha => ?_, fun h ha => ?_, fun h ha => ?_, fun h ha => ?_, fun h ha => ?_, fun h ha => ?_⟩
  · simp only [goes, exec_bra, execBra, enter_of h.1 h.2, finishAt_branchPc h.1, v]
  · simp only [goes, exec_call, execCall, enter_of h.1 h.2, putRegs_branchPc, v, View.put32]
  · exact jump_of_aligned h ha
  · exact jump_of_aligned h ha
  · exact jump_link_of_aligned h ha
  · exact jump_of_misaligned (d := none) h ha
  · exact jump_of_misaligned (d := none) h ha
  · exact jump_of_misaligned (d := some d) h ha

/-- Settles O22: a pause changes the gang or its sheet and then completes. -/
theorem gangPauses : Obligations.GangPauses := by
  unfold Obligations.GangPauses
  refine ⟨fun s c g => ⟨fun h => ?_, fun l2 a off h => ?_, fun h => ?_, ⟨fun a h => ?_, fun n h => ?_⟩, fun a h => ?_, fun n h => ?_⟩, ?_⟩
  · exact ⟨_, (enter_of h.1 h.2 _).trans (congrArg _ (finish_after h.1 _)), rfl⟩
  · exact ⟨_, (enter_of h.1 h.2 _).trans (congrArg _ (finish_after h.1 _)), rfl⟩
  · exact enterGang_of h.1.1 h.1.2 h.2 _
  · exact enterGang_of h.1.1 h.1.2 h.2 _
  · exact enterGang_of h.1.1 h.1.2 h.2 _
  · exact enterGang_of h.1.1 h.1.2 h.2 _
  · exact enterGang_of h.1.1 h.1.2 h.2 _
  · intro s sheet gang h q hs hg due hdue
    have hls : q.lanesIn (TState.napOver s.now) = due := rfl
    simp only [exec_napEnd, execNapEnd, hs, Option.bind_some, hg, hls, List.isEmpty_iff, hdue, if_false]

/-- Settles O23: the lead lane's guard true, each raises its trap, whose frame holds the code and the next offset. -/
theorem userTraps : Obligations.UserTraps := by
  unfold Obligations.UserTraps
  intro s c g
  refine ⟨fun h => ?_, fun code h => ?_, fun h => ?_, fun h hg => ?_, fun code h hg => ?_, fun h hg => ?_, fun ts h q t lost ht => ⟨?_, fun l hl hact hth => ?_⟩⟩
  · exact enterGang_of h.1.1 h.1.2 h.2 _
  · exact enterGang_of h.1.1 h.1.2 h.2 _
  · exact enterGang_of h.1.1 h.1.2 h.2 _
  · exact enterGang_off h.1 h.2 hg _
  · exact enterGang_off h.1 h.2 hg _
  · exact enterGang_off h.1 h.2 hg _
  · exact s.frameBytes_info ..
  · obtain ⟨x, hx⟩ := Option.isSome_iff_exists.1 hth
    have hnext : resumesNext t .plain = true := by simpa [resumesNext] using ht
    simp only [s.frameBytes_rpc _ _ _ _ _ _ hl hx, hnext, hact, Bool.and_self, if_true]

end Sys2Proof
end

section
/-! Instructions that act once for the gang, with a false guard (R213). -/

namespace Sys2Proof
open Machine

/-! ### The guard an instruction's word holds -/

theorem Fields.withUni_grd (f : Fields) (a : UOperand) : (f.withUni a).grd = f.grd := by cases a <;> rfl
theorem Fields.withBase_grd (f : Fields) (a : Option Reg) : (f.withBase a).grd = f.grd := by cases a <;> rfl
theorem Fields.withSys_grd (f : Fields) (a : SysOperand) : (f.withSys a).grd = f.grd := by cases a <;> rfl
/-- The guard of an instruction is the one its word holds. -/
theorem Instr.guard_of_word {i : Instr} {f : Fields} {g : Guard} (hi : encodeFields i = some f) (hf : f.grd = g.code) : i.guard = g := by
  simp only [Instr.guard, hi, Fields.guard_eq, hf, Guard.ofCode_code]

end Sys2Proof

namespace Sys2Proof.Machine

/-! ### The shared meanings that ask the guard once -/

/-- The outcome is that of an instruction that asks the guard once before anything else, and reaches nothing outside its registers. -/
def EntersGang (i : Instr) (g : Guard) (s : State) (o : Host.Outcome State Fault Refusal) : Prop := ∃ k, o = enterGang i g s k
/-- The same, of an instruction that reaches memory, scratchpad or a sheet object. -/
def EntersMemGang (i : Instr) (g : Guard) (s : State) (o : Host.Outcome State Fault Refusal) : Prop := ∃ k, o = enterMemGang i g s k

section
variable {i : Instr} {s t : State} {c : Site} {g : Guard} {f : Fields} {p : Prop}

theorem EntersGang.napFor {value : Site → Word} : EntersGang i g s (napFor i g value s) := ⟨_, rfl⟩
theorem EntersGang.perfRequest {value : Site → Word} : EntersGang i g s (perfRequest i g value s) := ⟨_, rfl⟩
theorem EntersGang.accMove {r : View → Regs} : EntersGang i g s (accMove i g s r) := ⟨_, rfl⟩
theorem EntersGang.residency {d : Fin 64} {drew : Bool} {r : View → Context → Context × Nat} : EntersGang i g s (residency i g d s drew r) := ⟨_, rfl⟩
theorem EntersMemGang.popOrElse {q : Fin 16} {pd : Fin 8} {d : Fin 64} {wait : Bool} : EntersMemGang i g s (popOrElse i g q pd d wait s) := ⟨_, rfl⟩
theorem EntersMemGang.accSpad {a : Option Reg} {off : Option Word} {reads : Bool} {act : State → Site → Nat → List Nat → State} :
    EntersMemGang i g s (accSpad i g a off reads s act) := ⟨_, rfl⟩
theorem EntersMemGang.forkSeq {k : SeqKind} {disp : Word} : EntersMemGang i g s (forkSeq i g k disp s) := ⟨_, rfl⟩
theorem EntersMemGang.tensorCopy {rec line org : Fin 64} {out : Option (Fin 8)} : EntersMemGang i g s (tensorCopy i g rec line org out s) := ⟨_, rfl⟩
theorem EntersMemGang.flipOwner {eng : Bool} {n : Fin 8} {ofs : Option (Fin 64)} : EntersMemGang i g s (flipOwner i g eng n ofs s) := ⟨_, rfl⟩
theorem EntersMemGang.collective {im : CollImm} {key : Nat} {op : FoldOp} {root : Site → Nat} {members : Launch → Nat → Nat} :
    EntersMemGang i g s (collective i g im key op root members s) := ⟨_, rfl⟩
theorem EntersMemGang.onTiles {ok : Site → Bool} {lines : Site → List Nat} {reads : Site → List Tile} {beats : Site → Nat} {act : State → Site → State} :
    EntersMemGang i g s (onTiles i g s ok lines reads beats act) := ⟨_, rfl⟩
theorem EntersMemGang.mvsStore {k : Fin 16} {ta : Fin 8} {ofs : Option (Fin 64)} {n : Nat} {value : Word → Nat} :
    EntersMemGang i g s (mvsStore i g k ta ofs n value s) := by
  unfold Machine.mvsStore
  exact onTiles
theorem EntersMemGang.execMmat {ty : MatTy} {acc : Fin 16} {z : Bool} {ta tb : Fin 8} {oa ob : Option (Fin 64)} :
    EntersMemGang (.mmat g ty acc z ta tb oa ob) g s (execMmat g ty acc z ta tb oa ob s) := by
  unfold Machine.execMmat
  exact onTiles
theorem EntersMemGang.execMvsScale {k l : Fin 16} {ta tb : Fin 8} {ofs : Option (Fin 64)} :
    EntersMemGang (.mvsScale g k l ta tb ofs) g s (execMvsScale g k l ta tb ofs s) := by
  unfold Machine.execMvsScale
  exact onTiles
theorem EntersMemGang.execMvsLd {k : Fin 16} {ta : Fin 8} {ofs : Option (Fin 64)} : EntersMemGang (.mvsLd g k ta ofs) g s (execMvsLd g k ta ofs s) := by
  unfold Machine.execMvsLd
  exact onTiles
theorem EntersMemGang.tlbinv {pages : View → Option Pages} {act : State → Site → State} : EntersMemGang i g s (tlbinv i g s pages act) := ⟨_, rfl⟩
theorem EntersMemGang.invrep {pages : View → Option Pages} : EntersMemGang i g s (invrep i g s pages) := ⟨_, rfl⟩
theorem EntersMemGang.ctxsave {park : Bool} {d a : Fin 64} : EntersMemGang i g s (ctxsave i g park d a s) := ⟨_, rfl⟩

/-! ### A false guard (R213) -/

/-- With the guard of the lead lane false the instruction completes: where `p` holds in the state it is issued in, and otherwise in
the state its accesses would be made in. -/
def OffCompletes (i : Instr) (s t : State) (c : Site) (p : Prop) : Prop :=
  (p → Starts i s c → Does i s s c) ∧ (¬p → Reaches i s t c → Does i s t c)

theorem OffCompletes.near (hp : p) {o : Host.Outcome State Fault Refusal} (he : exec i s = o) (ho : EntersGang i g s o) (hi : encodeFields i = some f) (hf : f.grd = g.code)
    (hg : c.view.acts i.guard = false) : OffCompletes i s t c p := by
  obtain ⟨k, rfl⟩ := ho
  rw [Instr.guard_of_word hi hf] at hg
  exact ⟨fun _ h => he.trans (enterGang_off h.1 h.2 hg k), fun hn => absurd hp hn⟩
theorem OffCompletes.far (hp : ¬p) {o : Host.Outcome State Fault Refusal} (he : exec i s = o) (ho : EntersMemGang i g s o) (hi : encodeFields i = some f) (hf : f.grd = g.code)
    (hg : c.view.acts i.guard = false) : OffCompletes i s t c p := by
  obtain ⟨k, rfl⟩ := ho
  rw [Instr.guard_of_word hi hf] at hg
  exact ⟨fun hn => absurd hn hp, fun _ h => he.trans (enterMemGang_off h hg k)⟩

theorem sysAccess_off {n : Nat} {wide : Bool} {k : Site → Host.Outcome State Fault Refusal} (h : Starts i s c) (hn : sysRegWide n = some wide)
    (hg : c.view.acts g = false) : sysAccess i g n wide s k = .next (s.finish c i) := by
  simp only [sysAccess, enter_of h.1 h.2, hn, hg, ne_eq, not_true_eq_false, Bool.false_eq_true, if_false]
theorem OffCompletes.sysrd {num : Byte} {wide : Bool} {d : Fin 64} (hp : p) (hn : sysRegWide num.toNat = some wide)
    (hg : c.view.acts (Instr.sysrd g num wide d).guard = false) : OffCompletes (.sysrd g num wide d) s t c p := by
  rw [Instr.guard_of_word (g := g) (i := .sysrd g num wide d) rfl rfl] at hg
  exact ⟨fun _ h => sysAccess_off h hn hg, fun hp' => absurd hp hp'⟩
/-- SYSWR of a register that S may write looks at the guard before its value. -/
theorem OffCompletes.syswr {num : Byte} {wide : Bool} {a : SysOperand} (hp : p) (hlo : 3 ≤ num.toNat) (hhi : num.toNat ≤ 9)
    (hn : sysRegWide num.toNat = some wide) (hg : c.view.acts (Instr.syswr g num wide a).guard = false) :
    OffCompletes (.syswr g num wide a) s t c p := by
  rw [Instr.guard_of_word (g := g) (i := .syswr g num wide a) rfl (Fields.withSys_grd ..)] at hg
  have hw : sysReadOnly num.toNat = false := by simp [sysReadOnly, sysRegWritable, hlo, hhi]
  refine ⟨fun _ h => ?_, fun hp' => absurd hp hp'⟩
  rw [Does, exec_syswr, execSyswr, hw]
  exact sysAccess_off h hn hg
end

end Sys2Proof.Machine

namespace Sys2Proof
open Machine

/-- Settles O27: each of these instructions asks its guard once, before its operands; the others act per lane, their opcodes below the
system range (R359). -/
theorem guardFalse : Obligations.GuardFalse := by
  unfold Obligations.GuardFalse
  intro i s t c hi hg hrd hwr near
  change OffCompletes i s t c near
  cases i with
  | yield g => exact .near trivial (exec_yield ..) ⟨_, rfl⟩ rfl rfl hg
  | nap g a => exact .near trivial (exec_nap ..) .napFor rfl rfl hg
  | napImm g n => exact .near trivial (exec_napImm ..) .napFor rfl rfl hg
  | trap g => exact .near trivial (exec_trap ..) ⟨_, rfl⟩ rfl rfl hg
  | trapImm g code => exact .near trivial (exec_trapImm ..) ⟨_, rfl⟩ rfl rfl hg
  | bkpt g => exact .near trivial (exec_bkpt ..) ⟨_, rfl⟩ rfl rfl hg
  | perf g a => exact .near trivial (exec_perf ..) .perfRequest rfl rfl hg
  | perfImm g n => exact .near trivial (exec_perfImm ..) .perfRequest rfl rfl hg
  | mma g ty acc z a b f => exact .near trivial (exec_mma ..) ⟨_, rfl⟩ rfl rfl hg
  | accz g k => exact .near trivial (exec_accz ..) .accMove rfl rfl hg
  | accrdV g k d => exact .near trivial (exec_accrdV ..) .accMove rfl rfl hg
  | accwrV g k a => exact .near trivial (exec_accwrV ..) .accMove rfl rfl hg
  | accrdT g n d => exact .near trivial (exec_accrdT ..) ⟨_, rfl⟩ rfl rfl hg
  | accwrT g n a => exact .near trivial (exec_accwrT ..) ⟨_, rfl⟩ rfl rfl hg
  | rdvSequencer g => exact .near trivial (exec_rdvSequencer ..) ⟨_, rfl⟩ rfl rfl hg
  | residOpen g p d a b => exact .near trivial (exec_residOpen ..) .residency rfl rfl hg
  | residPrio g p d a => exact .near trivial (exec_residPrio ..) .residency rfl rfl hg
  | residClose g d a => exact .near trivial (exec_residClose ..) .residency rfl rfl hg
  | syswrCeil g a => exact .near trivial (exec_syswrCeil ..) ⟨_, rfl⟩ rfl (Fields.withSys_grd ..) hg
  | halt g a => exact .near trivial (exec_halt ..) ⟨_, rfl⟩ rfl (Fields.withUni_grd ..) hg
  | wdclr g => exact .near trivial (exec_wdclr ..) ⟨_, rfl⟩ rfl rfl hg
  | barinit g b ext counts => cases counts <;> exact .far id (exec_barinit ..) ⟨_, rfl⟩ rfl rfl hg
  | barinv g b => exact .far id (exec_barinv ..) ⟨_, rfl⟩ rfl rfl hg
  | qinit g q a => exact .far id (exec_qinit ..) ⟨_, rfl⟩ rfl (Fields.withUni_grd ..) hg
  | qpush g q a => exact .far id (exec_qpush ..) ⟨_, rfl⟩ rfl (Fields.withUni_grd ..) hg
  | qpop g q pd d => exact .far id (exec_qpop ..) .popOrElse rfl rfl hg
  | qtry g q pd d => exact .far id (exec_qtry ..) .popOrElse rfl rfl hg
  | qclose g q => exact .far id (exec_qclose ..) ⟨_, rfl⟩ rfl rfl hg
  | fopen g d a => exact .far id (exec_fopen ..) ⟨_, rfl⟩ rfl (Fields.withUni_grd ..) hg
  | fclose g a => exact .far id (exec_fclose ..) ⟨_, rfl⟩ rfl rfl hg
  | launch g d a => cases a <;> exact .far id (exec_launch ..) ⟨_, rfl⟩ rfl rfl hg
  | accrdSp g k a off => exact .far id (exec_accrdSp ..) .accSpad rfl ((Fields.withOffset_grd ..).trans (Fields.withBase_grd ..)) hg
  | accwrSp g k a off => exact .far id (exec_accwrSp ..) .accSpad rfl ((Fields.withOffset_grd ..).trans (Fields.withBase_grd ..)) hg
  | forkM g disp => exact .far id (exec_forkM ..) .forkSeq rfl rfl hg
  | forkC g disp => exact .far id (exec_forkC ..) .forkSeq rfl rfl hg
  | rdvThread g k d => exact .far id (exec_rdvThread ..) ⟨_, rfl⟩ rfl rfl hg
  | cptIn g a b n => exact .far id (exec_cptIn ..) .tensorCopy rfl rfl hg
  | cptOut g a b n cnt => exact .far id (exec_cptOut ..) .tensorCopy rfl rfl hg
  | ownEng g n ofs => exact .far id (exec_ownEng ..) .flipOwner rfl rfl hg
  | ownThr g n ofs => exact .far id (exec_ownThr ..) .flipOwner rfl rfl hg
  | nxch g dir im => exact .far id (exec_nxch ..) .collective rfl rfl hg
  | nred g op gr im => exact .far id (exec_nred ..) .collective rfl rfl hg
  | nbc g gr r im => exact .far id (exec_nbc ..) .collective rfl rfl hg
  | emitend g slot a => exact .far id (exec_emitend ..) ⟨_, rfl⟩ rfl rfl hg
  | mmat g ty acc z ta tb oa ob => exact .far id (exec_mmat ..) .execMmat rfl rfl hg
  | mvsScale g k p ta tb ofs => exact .far id (exec_mvsScale ..) .execMvsScale rfl rfl hg
  | mvsSt g k ta ofs => exact .far id (exec_mvsSt ..) .mvsStore rfl rfl hg
  | mvsStbf g k ta ofs => exact .far id (exec_mvsStbf ..) .mvsStore rfl rfl hg
  | mvsLd g k ta ofs => exact .far id (exec_mvsLd ..) .execMvsLd rfl rfl hg
  | syswrTtb g a => exact .far id (exec_syswrTtb ..) .tlbinv rfl (Fields.withSys_grd ..) hg
  | eret g => exact .far id (exec_eret ..) ⟨_, rfl⟩ rfl rfl hg
  | tlbinvPage g a => exact .far id (exec_tlbinvPage ..) .tlbinv rfl rfl hg
  | tlbinvRange g a b => exact .far id (exec_tlbinvRange ..) .tlbinv rfl rfl hg
  | tlbinvCtx g => exact .far id (exec_tlbinvCtx ..) .tlbinv rfl rfl hg
  | invrep g a => exact .far id (exec_invrep ..) .invrep rfl rfl hg
  | invrepRange g a b => exact .far id (exec_invrepRange ..) .invrep rfl rfl hg
  | ctxsaveCopy g d a => exact .far id (exec_ctxsaveCopy ..) .ctxsave rfl rfl hg
  | ctxsavePark g d a => exact .far id (exec_ctxsavePark ..) .ctxsave rfl rfl hg
  | ctxload g d a => exact .far id (exec_ctxload ..) ⟨_, rfl⟩ rfl rfl hg
  | stamp g a => exact .far id (exec_stamp ..) ⟨_, rfl⟩ rfl (Fields.withUni_grd ..) hg
  | sysrd g num wide d => exact .sysrd trivial (hrd _ _ _ _ rfl) hg
  | syswr g num wide a =>
    obtain ⟨hlo, hhi, hn⟩ := hwr _ _ _ _ rfl
    exact .syswr trivial hlo hhi hn hg
  | cvtff _ _ _ _ _ _ x | inarrow _ _ _ _ _ x | shfl _ _ x | match_ _ _ x | cpl _ x =>
    cases x <;> simp [Instr.gangLevel, Instr.sequencerOnly, Instr.isSystem, Instr.opcode, encodeFields, systemOpcode] at hi
  | _ => simp [Instr.gangLevel, Instr.sequencerOnly, Instr.isSystem, Instr.opcode, encodeFields, systemOpcode, Fields.withImm, objMods] at hi

end Sys2Proof
end

section
/-! The binary32 instructions complete with the operations on codes: arithmetic, roots, integral and fractional parts, the choice of
the smaller or larger, comparison and classification (R250 to R256). -/

namespace Sys2Proof.Machine

/-! ### Words as codes (R65) -/

theorem ofBits_toNat {w : Nat} (h : fmt32.Code w) : (ofBits w).toNat = w := by
  rw [ofBits, BitVec.toNat_ofNat, Nat.mod_eq_of_lt (fmt32_code_iff.1 h)]
/-- Every word is a code of binary32. -/
theorem fmt32_code_word (a : Word) : fmt32.Code a.toNat := a.isLt

section
variable {i : Instr} {s : State} {c : Site} {g : Guard} {d : Reg} {x y z : Operand}

/-- An instruction that computes a word for each lane completes with it. -/
theorem exec_word {f : View → Nat → Word} (he : exec i s = alu i s fun v => v.put32 g d (f v)) (h : Starts i s c) :
    exec i s = .next (s.after c i (c.view.put32 g d (f c.view))).reap := he.trans (alu_of h.1 h.2 _)
theorem exec_alu1 {f : Word → Word} (he : exec i s = alu1 i g d x f s) (h : Starts i s c) :
    exec i s = .next (s.after c i (c.view.put32 g d fun l => f (c.view.src32 l x))).reap := exec_word (f := fun v l => f (v.src32 l x)) he h
theorem exec_alu2 {f : Word → Word → Word} (he : exec i s = alu2 i g d x y f s) (h : Starts i s c) :
    exec i s = .next (s.after c i (c.view.put32 g d fun l => f (c.view.src32 l x) (c.view.src32 l y))).reap :=
  exec_word (f := fun v l => f (v.src32 l x) (v.src32 l y)) he h
theorem exec_alu3 {f : Word → Word → Word → Word} (he : exec i s = alu3 i g d x y z f s) (h : Starts i s c) :
    exec i s = .next (s.after c i (c.view.put32 g d fun l => f (c.view.src32 l x) (c.view.src32 l y) (c.view.src32 l z))).reap :=
  exec_word (f := fun v l => f (v.src32 l x) (v.src32 l y) (v.src32 l z)) he h
end

section
variable {f : Fmt} (hp : 0 < f.p) (r : Rnd) (a b k : Nat)
include hp
theorem Fmt.code_add : f.Code (f.add r a b) := Fmt.code_write hp ..
theorem Fmt.code_sub : f.Code (f.sub r a b) := Fmt.code_write hp ..
theorem Fmt.code_mul : f.Code (f.mul r a b) := Fmt.code_write hp ..
theorem Fmt.code_fma : f.Code (f.fma r a b k) := Fmt.code_write hp ..
end

/-! ### A value given by a cut (R69) -/

/-- The rounding of a value strictly between two bounds is that of the rationals between them, when these all round alike. -/
theorem Fmt.nearest_of_between {f : Fmt} {r : Rnd} {lt gt : Rat → Prop} {lo hi : Rat} {w : Nat} (hlohi : lo < hi) (hlo : ∀ a ≤ lo, lt a)
    (hhi : ∀ a, hi ≤ a → gt a) (hapart : ∀ a, lt a → ¬gt a) (h : ∀ v, lo < v → v < hi → f.Nearest r (· < v) (v < ·) w) : f.Nearest r lt gt w := by
  have hbelow {a : Rat} (ha : ¬lt a) : ∃ v < a, f.Nearest r (· < v) (v < ·) w := by
    obtain ⟨v, h1, h2⟩ := exists_between (lt_min hlohi (lt_of_not_ge fun hle => ha (hlo a hle)))
    exact ⟨v, h2.trans_le (min_le_right _ _), h v h1 (h2.trans_le (min_le_left _ _))⟩
  have habove {a : Rat} (ha : ¬gt a) : ∃ v > a, f.Nearest r (· < v) (v < ·) w := by
    obtain ⟨v, h1, h2⟩ := exists_between (max_lt hlohi (lt_of_not_ge fun hle => ha (hhi a hle)))
    exact ⟨v, (le_max_right _ _).trans_lt h1, h v ((le_max_left _ _).trans_lt h1) h2⟩
  have hnlt {a : Rat} (ha : gt a) : ¬lt a := fun hl => hapart a hl ha
  obtain ⟨v, h1, h2⟩ := exists_between hlohi
  have hv := h v h1 h2
  cases r
  case rn =>
    refine ⟨hv.1, fun hw => ?_, fun hw => ?_⟩
    · by_contra hc
      obtain ⟨v, hva, -, hv, -⟩ := hbelow fun hl => hc (.inl hl)
      exact (hv hw).elim hva.asymm fun h => h.1 hva
    · by_contra hc
      obtain ⟨v, hva, -, -, hv⟩ := habove fun hg => hc (.inl hg)
      exact (hv hw).elim hva.asymm fun h => h.1 hva
  case rp =>
    refine ⟨hv.1, hv.2.1, ?_, fun hw hl => ?_⟩
    · by_contra hl
      obtain ⟨v, hva, -, -, hv, -⟩ := hbelow hl
      exact hva.asymm hv
    · obtain ⟨v, hva, -, -, -, hv⟩ := habove (hapart _ hl)
      exact hv hw hva
  all_goals
    refine ⟨hv.1, fun hg => ?_, fun hw => ?_⟩
    · obtain ⟨v, hva, -, hv, -⟩ := hbelow (hnlt hg)
      exact hv hva
    · by_contra hg
      obtain ⟨v, hva, -, -, hv⟩ := habove hg
      exact hva.asymm (hv hw)

/-! ### Square roots (R251, R254) -/

theorem isqrtGo_spec (n : Nat) : ∀ i r : Nat, r * r ≤ n → n < (r + 2 ^ i) * (r + 2 ^ i) →
    isqrtGo n i r * isqrtGo n i r ≤ n ∧ n < (isqrtGo n i r + 1) * (isqrtGo n i r + 1)
  | 0, r, hlo, hhi => ⟨hlo, hhi⟩
  | i + 1, r, hlo, hhi => by
    rw [isqrtGo]
    split
    · next h => exact isqrtGo_spec n i _ h (by rwa [add_assoc, ← two_mul, ← pow_succ'])
    · next h => exact isqrtGo_spec n i r hlo (not_le.1 h)

/-- The integer square root is the greatest integer whose square is not above. -/
theorem isqrt_spec (n : Nat) : isqrt n * isqrt n ≤ n ∧ n < (isqrt n + 1) * (isqrt n + 1) := by
  refine isqrtGo_spec n _ 0 (Nat.zero_le _) ?_
  calc n < 2 ^ bitLen n := lt_two_pow_bitLen n
    _ ≤ 2 ^ (bitLen n / 2 + 1 + (bitLen n / 2 + 1)) := Nat.pow_le_pow_right two_pos (by omega)
    _ = (0 + 2 ^ (bitLen n / 2 + 1)) * (0 + 2 ^ (bitLen n / 2 + 1)) := by rw [pow_add, Nat.zero_add]

theorem le_isqrt {a n : Nat} (h : a * a ≤ n) : a ≤ isqrt n := by
  by_contra hlt
  have := Nat.mul_le_mul (not_le.1 hlt) (not_le.1 hlt)
  exact absurd (this.trans h) (not_le.2 (isqrt_spec n).2)

/-- The positive number whose square is `d / c`, found to `q` whole units of `2 ^ E`, is rounded once. -/
theorem Fmt.round_root {f : Fmt} {r : Rnd} {c d : Rat} {q : Nat} {E : Int} {sticky : Bool} (hp : 0 < f.p) (hinf : 0 < f.infBits) (hc : 0 < c)
    (hq : 2 ^ (f.p + 2) ≤ q) (hlo : (q * 2 ^ E : Rat) * (q * 2 ^ E) * c ≤ d) (hhi : d < ((q + 1 : Rat) * 2 ^ E) * ((q + 1) * 2 ^ E) * c)
    (hst : sticky = false ↔ (q * 2 ^ E : Rat) * (q * 2 ^ E) * c = d) :
    f.Nearest r (fun y => y < 0 ∨ y * y * c < d) (fun y => 0 ≤ y ∧ d < y * y * c) (f.round r false q E sticky) := by
  have hU : (0 : Rat) < 2 ^ E := by positivity
  have hq0 : 0 < q := hq.trans_lt' (Nat.two_pow_pos _)
  have hqU : (0 : Rat) ≤ q * 2 ^ E := by positivity
  have hmono {a b : Rat} (ha : 0 ≤ a) (hab : a ≤ b) : a * a * c ≤ b * b * c := mul_le_mul_of_nonneg_right (mul_self_le_mul_self ha hab) hc.le
  have hmono' {a b : Rat} (ha : 0 ≤ a) (hab : a < b) : a * a * c < b * b * c := mul_lt_mul_of_pos_right (mul_self_lt_mul_self ha hab) hc
  cases sticky
  · have hd := hst.1 rfl
    have hlt : (fun y : Rat => y < 0 ∨ y * y * c < d) = (· < (q * 2 ^ E : Rat)) := by
      funext y
      refine propext ⟨fun h => h.elim (fun h => h.trans_le hqU) fun h => ?_, fun h => or_iff_not_imp_left.2 fun h0 => hd ▸ hmono' (not_lt.1 h0) h⟩
      by_contra hle
      exact absurd (hd ▸ hmono hqU (not_lt.1 hle)) (not_le.2 h)
    have hgt : (fun y : Rat => 0 ≤ y ∧ d < y * y * c) = ((q * 2 ^ E : Rat) < ·) := by
      funext y
      refine propext ⟨fun ⟨h0, h⟩ => ?_, fun h => ⟨hqU.trans h.le, hd ▸ hmono' hqU h⟩⟩
      by_contra hle
      exact absurd (hd ▸ hmono h0 (not_lt.1 hle)) (not_le.2 h)
    rw [hlt, hgt]
    exact f.round_nearest hp hinf hq0 (by simp) ⟨le_rfl, lt_add_one _, by simp⟩
  · have hne : (q * 2 ^ E : Rat) * (q * 2 ^ E) * c < d := lt_of_le_of_ne hlo fun h => by simpa using hst.2 h
    refine Fmt.nearest_of_between (lo := q * 2 ^ E) (hi := (q + 1) * 2 ^ E) ?_ (fun a ha => ?_) (fun a ha => ?_) (fun a ha hg => ?_) fun v h1 h2 => ?_
    · exact mul_lt_mul_of_pos_right (lt_add_one _) hU
    · exact or_iff_not_imp_left.2 fun h0 => (hmono (not_lt.1 h0) ha).trans_lt hne
    · have h0 : (0 : Rat) ≤ (q + 1) * 2 ^ E := by positivity
      exact ⟨h0.trans ha, hhi.trans_le (hmono h0 ha)⟩
    · exact ha.elim (not_lt.2 hg.1) hg.2.asymm
    · have hv : StandsAt q true (v / 2 ^ E) := standsAt_div (by rw [if_pos rfl]; exact ⟨h1, by push_cast; exact h2⟩)
      have := f.round_nearest (r := r) (e := E) hp hinf hq0 (fun _ => hq) hv
      rwa [div_mul_cancel₀ _ hU.ne'] at this

/-- The square of some units of `2 ^ E`, in units of `2 ^ (2 * E)`. -/
theorem units_mul_self (x : Rat) (E : Int) : (x * 2 ^ E) * (x * 2 ^ E) = x * x * 2 ^ (2 * E) := by
  rw [mul_mul_mul_comm, ← zpow_add₀ two_ne_zero, two_mul]

/-- Half of an exponent made even. -/
theorem two_mul_half_even (e : Int) : 2 * ((e - (e % 2).toNat) / 2) = e - (e % 2).toNat := by omega

theorem Fmt.Code.not_neg {f : Fmt} {a : Nat} (h : a < f.infBits) : ¬f.neg a := not_le.2 (h.trans f.infBits_lt_signBit)
theorem Fmt.abs_of_lt {f : Fmt} {a : Nat} (h : a < f.signBit) : f.abs a = a := Nat.mod_eq_of_lt h

/-- The root of a positive number of units. -/
theorem Fmt.sqrt_of_fin {f : Fmt} (r : Rnd) {a m : Nat} {e : Int} (hra : f.read a = .fin false m e) (hm : m ≠ 0) :
    f.sqrt r a = f.round r false (isqrt (m * 2 ^ ((e % 2).toNat + 2 * (f.p + 4)))) ((e - (e % 2).toNat) / 2 - (f.p + 4 : Nat))
      (isqrt (m * 2 ^ ((e % 2).toNat + 2 * (f.p + 4))) * isqrt (m * 2 ^ ((e % 2).toNat + 2 * (f.p + 4))) != m * 2 ^ ((e % 2).toNat + 2 * (f.p + 4))) := by
  rw [Fmt.sqrt, hra]
  simp only [beq_iff_eq, hm, if_false, Bool.false_eq_true]

/-- The reciprocal root of a positive number of units. -/
theorem Fmt.rsqrt_of_fin {f : Fmt} {a m : Nat} {e : Int} (hra : f.read a = .fin false m e) (hm : m ≠ 0) {M k : Nat} (hM : M = m * 2 ^ (e % 2).toNat)
    (hk : k = f.p + 4 + bitLen M) :
    f.rsqrt a = f.round .rn false (isqrt (2 ^ (2 * k) / M)) (-(e - (e % 2).toNat) / 2 - k)
      (isqrt (2 ^ (2 * k) / M) * isqrt (2 ^ (2 * k) / M) * M != 2 ^ (2 * k)) := by
  subst hM hk
  rw [Fmt.rsqrt, hra]
  simp only [beq_iff_eq, hm, if_false, Bool.false_eq_true]

/-- A positive finite code reads as a number of units. -/
theorem Fmt.read_of_pos {f : Fmt} {a : Nat} (h0 : 0 < a) (h1 : a < f.infBits) : ∃ m e, f.read a = .fin false m e ∧ f.val a = m * 2 ^ e ∧ m ≠ 0 := by
  have hs := h1.trans f.infBits_lt_signBit
  have ha : f.Code a := show a < 2 * f.signBit by omega
  have habs := Fmt.abs_of_lt hs
  obtain ⟨m, e, hra, hva, hm⟩ := ha.read_of_fin (habs.trans_lt h1)
  rw [decide_eq_false (not_le.2 hs)] at hra hva
  exact ⟨m, e, hra, by simpa [unitsVal] using hva, fun h => h0.ne' (habs.symm.trans (hm.1 h))⟩

section
variable {f : Fmt} {r : Rnd} (hp : 0 < f.p) (hinf : 0 < f.infBits)
include hp hinf

/-- The square root of a positive number of units is rounded once. -/
theorem Fmt.sqrt_nearest {a m : Nat} {e : Int} (hra : f.read a = .fin false m e) (hm : m ≠ 0) :
    f.Nearest r (fun y => y < 0 ∨ y * y < m * 2 ^ e) (fun y => 0 ≤ y ∧ m * 2 ^ e < y * y) (f.sqrt r a) := by
  rw [f.sqrt_of_fin r hra hm]
  have heven := two_mul_half_even e
  set odd := (e % 2).toNat
  set n := m * 2 ^ (odd + 2 * (f.p + 4)) with hn
  obtain ⟨hlo, hhi⟩ := isqrt_spec n
  have hbig : 2 ^ (f.p + 2) ≤ isqrt n := (Nat.pow_le_pow_right two_pos (by omega)).trans (le_isqrt (a := 2 ^ (f.p + 4)) (by
    rw [← pow_add, hn]
    exact (Nat.pow_le_pow_right two_pos (by omega)).trans (Nat.le_mul_of_pos_left _ (Nat.pos_of_ne_zero hm))))
  generalize isqrt n = q at hlo hhi hbig ⊢
  set E : Int := (e - odd) / 2 - (f.p + 4 : Nat) with hE
  have hU : (0 : Rat) < 2 ^ (2 * E) := by positivity
  have hval : (m : Rat) * 2 ^ e = n * 2 ^ (2 * E) := by
    rw [hn]
    push_cast
    rw [mul_assoc, ← zpow_natCast, ← zpow_add₀ two_ne_zero]
    congr 2
    push_cast
    omega
  have hcast : ((q * q : Nat) : Rat) = q * q := Nat.cast_mul q q
  have := f.round_root (r := r) (c := 1) (d := m * 2 ^ e) (q := q) (E := E) (sticky := q * q != n) hp hinf one_pos hbig
    (by rw [hval, mul_one, units_mul_self, mul_le_mul_iff_left₀ hU]; exact_mod_cast hlo)
    (by rw [hval, mul_one, units_mul_self, mul_lt_mul_iff_left₀ hU]; exact_mod_cast hhi)
    (by rw [hval, mul_one, units_mul_self, mul_left_inj' hU.ne', bne_eq_false_iff_eq]; norm_cast)
  simpa only [mul_one] using this

/-- The reciprocal of the square root of a positive number of units is rounded once. -/
theorem Fmt.rsqrt_nearest {a m : Nat} {e : Int} (hra : f.read a = .fin false m e) (hm : m ≠ 0) :
    f.Nearest .rn (fun y => y < 0 ∨ y * y * (m * 2 ^ e) < 1) (fun y => 0 ≤ y ∧ 1 < y * y * (m * 2 ^ e)) (f.rsqrt a) := by
  obtain ⟨M, hM⟩ : ∃ M, M = m * 2 ^ (e % 2).toNat := ⟨_, rfl⟩
  obtain ⟨k, hk⟩ : ∃ k, k = f.p + 4 + bitLen M := ⟨_, rfl⟩
  rw [f.rsqrt_of_fin hra hm hM hk]
  have heven := two_mul_half_even e
  have hMpos : 0 < M := hM ▸ Nat.mul_pos (Nat.pos_of_ne_zero hm) (Nat.two_pow_pos _)
  set odd := (e % 2).toNat
  obtain ⟨hlo, hhi⟩ := isqrt_spec (2 ^ (2 * k) / M)
  have hbig : 2 ^ (f.p + 2) ≤ isqrt (2 ^ (2 * k) / M) := by
    refine le_isqrt ?_
    rw [← pow_add, Nat.le_div_iff_mul_le hMpos]
    calc 2 ^ (f.p + 2 + (f.p + 2)) * M ≤ 2 ^ (f.p + 2 + (f.p + 2)) * 2 ^ bitLen M := Nat.mul_le_mul_left _ (lt_two_pow_bitLen M).le
      _ = 2 ^ (f.p + 2 + (f.p + 2) + bitLen M) := (pow_add ..).symm
      _ ≤ 2 ^ (2 * k) := Nat.pow_le_pow_right two_pos (by omega)
  rw [Nat.le_div_iff_mul_le hMpos] at hlo
  rw [Nat.div_lt_iff_lt_mul hMpos] at hhi
  generalize isqrt (2 ^ (2 * k) / M) = q at hlo hhi hbig ⊢
  set E : Int := -(e - odd) / 2 - k with hE
  have hval : (m : Rat) * 2 ^ e * 2 ^ (2 * E) = M / 2 ^ (2 * k) := by
    rw [hM, eq_div_iff (by positivity)]
    push_cast
    rw [mul_assoc, mul_assoc, ← zpow_natCast, ← zpow_natCast, ← zpow_add₀ two_ne_zero, ← zpow_add₀ two_ne_zero]
    congr 2
    push_cast
    omega
  have hK : (0 : Rat) < 2 ^ (2 * k) := by positivity
  have hsq (x : Rat) : x * 2 ^ E * (x * 2 ^ E) * (m * 2 ^ e) = x * x * M / 2 ^ (2 * k) := by
    rw [units_mul_self, mul_assoc, mul_comm (2 ^ (2 * E) : Rat), hval, mul_div_assoc]
  refine f.round_root hp hinf (mul_pos (Nat.cast_pos.2 (Nat.pos_of_ne_zero hm)) (by positivity)) hbig ?_ ?_ ?_
  · rw [hsq, div_le_one hK]
    exact_mod_cast hlo
  · rw [hsq, one_lt_div hK]
    exact_mod_cast hhi
  · rw [hsq, div_eq_one_iff_eq hK.ne', bne_eq_false_iff_eq]
    norm_cast

theorem Fmt.root_spec {a : Nat} (ha : f.Code a) : f.IsRoot r a (f.sqrt r a) := by
  refine ⟨fun h => ?_, fun h => ?_, fun h0 h1 => ?_⟩
  · rcases h with h | ⟨hneg, hz⟩
    · rw [Fmt.sqrt, ha.read_of_nan h]
    · rcases f.class_cases a with h | h | h
      · rw [Fmt.sqrt, ha.read_of_nan h]
      · rw [Fmt.sqrt, ha.read_of_inf h, decide_eq_true hneg]
        rfl
      · obtain ⟨m, e, hra, -, hm⟩ := ha.read_of_fin h
        rw [Fmt.sqrt, hra, decide_eq_true hneg]
        simp only [beq_iff_eq, mt hm.1 hz, if_false, if_true]
  · rcases h with h | rfl
    · obtain ⟨m, e, hra, -, hm⟩ := ha.read_of_fin (h.trans_lt hinf)
      rw [Fmt.sqrt, hra, hm.2 h]
      exact (h ▸ ha.eq_withSign).symm
    · rw [Fmt.sqrt, ha.read_of_inf (Fmt.abs_of_lt f.infBits_lt_signBit), decide_eq_false (not_le.2 f.infBits_lt_signBit)]
      rfl
  · obtain ⟨m, e, hra, hva, hm⟩ := Fmt.read_of_pos h0 h1
    rw [hva]
    exact f.sqrt_nearest hp hinf hra hm
end

theorem Fmt.code_sqrt {f : Fmt} (hp : 0 < f.p) (r : Rnd) (a : Nat) : f.Code (f.sqrt r a) := by
  have hnan : f.Code f.nanBits := Fmt.code_nanBits hp
  unfold Fmt.sqrt
  split
  · exact hnan
  · split
    · exact hnan
    · exact Fmt.code_withSign false le_rfl
  · dsimp only
    split
    · exact Fmt.code_withSign _ (Nat.zero_le _)
    · split
      · exact hnan
      · exact f.code_round ..

theorem Fmt.code_rsqrt {f : Fmt} (hp : 0 < f.p) (a : Nat) : f.Code (f.rsqrt a) := by
  have hnan : f.Code f.nanBits := Fmt.code_nanBits hp
  unfold Fmt.rsqrt
  split
  · exact hnan
  · split
    · exact hnan
    · exact Fmt.code_withSign _ (Nat.zero_le _)
  · dsimp only
    split
    · exact Fmt.code_withSign _ le_rfl
    · split
      · exact hnan
      · exact f.code_round ..

/-! ### Exact results (R69) -/

/-- Of the codes only the value's own is nearest to it. -/
theorem Fmt.Nearest.eq_of_mag {f : Fmt} {r : Rnd} {w c : Nat} (h : f.Nearest r (· < f.mag c) (f.mag c < ·) w) (hc : c < f.infBits) : w = c := by
  have hmono := f.mag_strictMono
  cases r
  case rn =>
    by_contra hne
    rcases h.rn_abs hc.le (Ne.symm hne) with h | ⟨h, -⟩
    · rw [sub_self, abs_zero] at h
      exact absurd h (not_lt.2 (abs_nonneg _))
    · rw [sub_self, abs_zero, abs_eq_zero, sub_eq_zero] at h
      exact hne (hmono.injective h).symm
  case rp =>
    obtain ⟨hle, h0, hlo, hhi⟩ := h
    have h1 := hmono.lt_iff_lt.1 hlo
    have h2 := fun hw => not_lt.1 (mt hmono.lt_iff_lt.2 (hhi hw))
    rcases hle.lt_or_eq with hw | hw
    · have := h2 hw
      omega
    · omega
  all_goals
    obtain ⟨hlt, hlo, hhi⟩ := h
    have h1 := not_lt.1 (mt hmono.lt_iff_lt.2 hlo)
    have h2 := fun hw => hmono.lt_iff_lt.1 (hhi hw)
    by_cases hw : w + 1 < f.infBits
    · have := h2 hw
      omega
    · omega

/-- A magnitude that a code has is rounded to that code in every mode. -/
theorem Fmt.round_of_mag {f : Fmt} (hp : 0 < f.p) (r : Rnd) (neg : Bool) {m c : Nat} {e : Int} (hm : m ≠ 0) (hc : c < f.infBits)
    (h : f.mag c = m * 2 ^ e) : f.round r neg m e false = f.withSign neg c := by
  have key (r : Rnd) : f.round r false m e false = c := by
    have hpos : (0 : Rat) < m * 2 ^ e := mul_pos (Nat.cast_pos.2 (Nat.pos_of_ne_zero hm)) (by positivity)
    have hr := f.round_units (r := r) (neg := false) (m := m) (e := e) hp (Nat.zero_lt_of_lt hc) hm
    simp only [unitsVal, Bool.false_eq_true, if_false] at hr
    have := hr.1 hpos
    rw [← h] at this
    exact this.eq_of_mag hc
  cases neg
  · exact key r
  · rw [f.round_neg, key, Fmt.withSign, if_pos rfl, Nat.add_comm]

/-- A number of no more bits than the format has is a code's magnitude when the format goes down to its units. -/
theorem Fmt.exists_mag_eq {f : Fmt} {m : Nat} {e : Int} (hm : 0 < m) (hbits : m ≤ 2 ^ f.p) (he : f.low ≤ e) : ∃ c, f.mag c = m * 2 ^ e := by
  have hlen : bitLen m ≤ f.p + 1 := by
    have := (two_pow_bitLen_le hm).trans hbits
    have := (Nat.pow_le_pow_iff_right one_lt_two).1 this
    omega
  have hq : f.unitExp m e = max (e + bitLen m - 1 - f.p) f.low := rfl
  obtain ⟨hrange, hnormal⟩ := f.unitExp_spec (e := e) hm le_rfl (lt_add_one _)
  have hqe : f.unitExp m e ≤ e := by omega
  have hlow : f.low ≤ f.unitExp m e := by omega
  generalize f.unitExp m e = q at hrange hnormal hqe hlow
  obtain ⟨n, rfl⟩ := Int.le.dest hlow
  obtain ⟨k, hk⟩ := Int.le.dest hqe
  have hmk : (m : Rat) * 2 ^ (e - (f.low + n)) = (m * 2 ^ k : Nat) := by
    push_cast
    rw [← zpow_natCast]
    congr 2
    omega
  rw [hmk] at hrange hnormal
  refine ⟨n * 2 ^ f.p + m * 2 ^ k, ?_⟩
  rw [f.mag_binade (by exact_mod_cast hrange.le) (hnormal.imp (fun h => by omega) fun h => by exact_mod_cast h), ← hmk, mul_assoc,
    ← zpow_add₀ two_ne_zero, sub_add_cancel]

theorem Fmt.abs_withSign {f : Fmt} (neg : Bool) {mag : Nat} (h : mag < f.signBit) : f.abs (f.withSign neg mag) = mag := by
  rw [Fmt.abs, Fmt.withSign]
  cases neg
  · exact Nat.mod_eq_of_lt h
  · rw [if_pos rfl, Nat.add_mod_right, Nat.mod_eq_of_lt h]
theorem Fmt.neg_withSign {f : Fmt} {neg : Bool} {mag : Nat} (h : mag < f.signBit) : f.neg (f.withSign neg mag) ↔ neg = true := by
  rw [Fmt.neg, Fmt.withSign]
  cases neg
  · simpa using h
  · simp
theorem Fmt.val_withSign {f : Fmt} {neg : Bool} {mag m : Nat} {e : Int} (h : mag < f.signBit) (hm : f.mag mag = m * 2 ^ e) :
    f.val (f.withSign neg mag) = unitsVal neg m e := by
  rw [Fmt.val, if_congr (Fmt.neg_withSign h) rfl rfl, Fmt.abs_withSign neg h, hm, unitsVal, apply_ite (· * (2 : Rat) ^ e), neg_mul]

/-! ### Integral and fractional values (R72, R253) -/

/-- A negative number is rounded by the mode mirrored. -/
theorem RoundsToInt.neg {r : Rnd} {y : Rat} {k : Int} (h0 : 0 ≤ y) (h : RoundsToInt (mirrorMode r) y k) : RoundsToInt r (-y) (-k) := by
  cases r
  case rn =>
    rcases h with ⟨h1, h2⟩ | ⟨h1 | h1, h2⟩
    · exact .inl ⟨by push_cast; linarith, by push_cast; linarith⟩
    · exact .inr ⟨.inr (by push_cast; linarith), by omega⟩
    · exact .inr ⟨.inl (by push_cast; linarith), by omega⟩
  case rz =>
    obtain ⟨h1, h2⟩ : (k : Rat) ≤ y ∧ y < k + 1 := by simpa [RoundsToInt, mirrorMode, h0] using h
    rw [RoundsToInt]
    push_cast
    split
    · have hy : y = 0 := by linarith
      subst hy
      have hk : k = 0 := le_antisymm (by exact_mod_cast h1) (Int.lt_add_one_iff.1 (by exact_mod_cast h2))
      simp [hk]
    · exact ⟨by linarith, by linarith⟩
  all_goals
    obtain ⟨h1, h2⟩ := h
    exact ⟨by push_cast; linarith, by push_cast; linarith⟩

/-- The magnitude that a number of units is rounded to. -/
theorem roundsToInt_units (r : Rnd) (m : Nat) (e : Int) :
    RoundsToInt r (m * 2 ^ e) (if 0 ≤ e then m * 2 ^ e.toNat else dropBits r false m (-e).toNat false : Nat) := by
  split
  · next h =>
    have : (m : Rat) * 2 ^ e = (m * 2 ^ e.toNat : Nat) := by
      push_cast
      rw [← zpow_natCast, Int.toNat_of_nonneg h]
    rw [this]
    exact roundsToInt_natCast r _
  · next h =>
    have : (m : Rat) * 2 ^ e = m / 2 ^ (-e).toNat := by
      rw [← zpow_natCast, Int.toNat_of_nonneg (by omega), div_eq_mul_inv, ← zpow_neg, neg_neg]
    rw [this]
    exact dropBits_roundsToInt ⟨le_rfl, lt_add_one _, by simp⟩ (by omega)

theorem roundInt_spec (r : Rnd) (neg : Bool) (m : Nat) (e : Int) : RoundsToInt r (unitsVal neg m e) (roundInt r neg m e) := by
  cases neg
  · exact roundsToInt_units r m e
  · rw [unitsVal, if_pos rfl, neg_mul]
    simp only [roundInt, dropBits_neg, if_true]
    exact (roundsToInt_units (mirrorMode r) m e).neg (by positivity)

/-- The sign of a rounded number is its own, or it is zero. -/
theorem roundInt_eq (r : Rnd) (neg : Bool) (m : Nat) (e : Int) :
    (roundInt r neg m e : Rat) = unitsVal neg (roundInt r neg m e).natAbs 0 := by
  rw [roundInt]
  generalize (if 0 ≤ e then m * 2 ^ e.toNat else dropBits r neg m (-e).toNat false) = k
  cases neg <;> simp [unitsVal]

theorem natAbs_roundInt (r : Rnd) (neg : Bool) (m : Nat) (e : Int) : (roundInt r neg m e).natAbs
    = if 0 ≤ e then m * 2 ^ e.toNat else dropBits (if neg then mirrorMode r else r) false m (-e).toNat false := by
  cases neg <;> simp only [roundInt, dropBits_neg, Bool.false_eq_true, if_true, if_false, Int.natAbs_neg, Int.natAbs_natCast]

theorem Fmt.read_lt {f : Fmt} {a m : Nat} {neg : Bool} {e : Int} (h : f.read a = .fin neg m e) : m < 2 ^ (f.p + 1) := by
  have hm := Nat.mod_lt a (Nat.two_pow_pos f.p)
  rw [pow_succ]
  simp only [Fmt.read] at h
  split at h
  · split at h <;> cases h
  · split at h
    · cases h
      omega
    · cases h
      omega

theorem fmt32_mag_infBits : fmt32.mag fmt32.infBits = 2 ^ 128 := by norm_num [Fmt.mag, fmt32, Fmt.infBits]

/-- A magnitude below that of the infinity is a finite code's. -/
theorem fmt32_lt_infBits {c : Nat} (h : fmt32.mag c < 2 ^ 128) : c < fmt32.infBits :=
  fmt32.mag_strictMono.lt_iff_lt.1 (h.trans_eq fmt32_mag_infBits.symm)

/-- An integer that a code of binary32 is rounded to is a code of binary32. -/
theorem fmt32_integral {a m : Nat} {neg : Bool} {e : Int} (hfin : fmt32.isFin a) (hra : fmt32.read a = .fin neg m e)
    (hva : fmt32.mag (fmt32.abs a) = m * 2 ^ e) (r : Rnd) (hk : (roundInt r neg m e).natAbs ≠ 0) :
    ∃ c < fmt32.infBits, fmt32.mag c = ((roundInt r neg m e).natAbs : Nat) * 2 ^ (0 : Int) := by
  rw [natAbs_roundInt] at hk ⊢
  have hround := roundsToInt_units (if neg then mirrorMode r else r) m e
  by_cases he : 0 ≤ e
  · refine ⟨fmt32.abs a, hfin, ?_⟩
    rw [if_pos he, hva, zpow_zero, mul_one]
    push_cast
    rw [← zpow_natCast, Int.toNat_of_nonneg he]
  · rw [if_neg he] at hk hround ⊢
    generalize dropBits _ false m (-e).toNat false = k at hk hround ⊢
    have hk1 := (roundsToInt_bounds (by positivity) hround).2
    have hm : (m : Rat) + 1 ≤ 2 ^ 24 := by exact_mod_cast Fmt.read_lt hra
    have he2 : (2 : Rat) ^ e ≤ 1 / 2 := by
      calc (2 : Rat) ^ e ≤ 2 ^ (-1 : Int) := zpow_le_zpow_right₀ one_le_two (by omega)
        _ = 1 / 2 := by norm_num
    have hle : (k : Rat) < 2 ^ 23 + 1 := by
      have : (m : Rat) * 2 ^ e ≤ m * (1 / 2) := mul_le_mul_of_nonneg_left he2 m.cast_nonneg
      linarith
    have hk23 : k ≤ 2 ^ 23 := Nat.lt_succ_iff.1 (by exact_mod_cast hle)
    obtain ⟨c, hc⟩ := Fmt.exists_mag_eq (f := fmt32) (Nat.pos_of_ne_zero hk) hk23 (by decide : fmt32.low ≤ 0)
    refine ⟨c, fmt32_lt_infBits ?_, hc⟩
    rw [hc, zpow_zero, mul_one]
    linarith

/-- The integral value a code is rounded to is one of the format, of the same sign. -/
theorem fmt32_toIntegral_of_fin {a : Nat} (ha : fmt32.Code a) (hfin : fmt32.isFin a) (r : Rnd) :
    fmt32.isFin (fmt32.toIntegral r a) ∧ (fmt32.neg (fmt32.toIntegral r a) ↔ fmt32.neg a)
      ∧ ∃ n : Int, fmt32.val (fmt32.toIntegral r a) = n ∧ RoundsToInt r (fmt32.val a) n := by
  obtain ⟨hp, hinf⟩ := fmt32_pos
  obtain ⟨m, e, hra, hva, -⟩ := ha.read_of_fin hfin
  obtain ⟨c, hc, hmag⟩ : ∃ c < fmt32.infBits, fmt32.mag c = ((roundInt r (decide (fmt32.neg a)) m e).natAbs : Nat) * 2 ^ (0 : Int) := by
    by_cases hk : (roundInt r (decide (fmt32.neg a)) m e).natAbs = 0
    · exact ⟨0, hinf, by rw [hk, Nat.cast_zero, zero_mul, fmt32.mag_subnormal (Nat.two_pow_pos _), Nat.cast_zero, zero_mul]⟩
    · refine fmt32_integral hfin hra ?_ r hk
      rw [Fmt.val, unitsVal] at hva
      by_cases hneg : fmt32.neg a <;> simpa [hneg] using hva
  have hs := hc.trans fmt32.infBits_lt_signBit
  have hw : fmt32.toIntegral r a = fmt32.withSign (decide (fmt32.neg a)) c := by
    rw [Fmt.toIntegral, hra]
    by_cases hk : (roundInt r (decide (fmt32.neg a)) m e).natAbs = 0
    · have hc0 : c = 0 := by
        refine fmt32.mag_strictMono.injective (hmag.trans ?_)
        rw [hk, Nat.cast_zero, zero_mul, fmt32.mag_subnormal (Nat.two_pow_pos _), Nat.cast_zero, zero_mul]
      simp only [hk, hc0, Fmt.round_zero, Fmt.withSign, Nat.zero_add]
    · exact fmt32.round_of_mag hp .rn _ hk hc hmag
  rw [hw, Fmt.isFin, Fmt.abs_withSign _ hs, Fmt.neg_withSign hs, decide_eq_true_iff]
  refine ⟨hc, Iff.rfl, _, ?_, hva ▸ roundInt_spec r _ m e⟩
  rw [Fmt.val_withSign hs hmag, ← roundInt_eq]

/-- A code rounded to an integral value (R253). -/
theorem fmt32_toIntegral_spec {a : Nat} (ha : fmt32.Code a) (r : Rnd) :
    (fmt32.isNan a → fmt32.toIntegral r a = 0x7FC00000) ∧ (fmt32.isInf a → fmt32.toIntegral r a = a)
      ∧ (fmt32.isFin a → fmt32.isFin (fmt32.toIntegral r a) ∧ (fmt32.neg (fmt32.toIntegral r a) ↔ fmt32.neg a)
        ∧ ∃ n : Int, fmt32.val (fmt32.toIntegral r a) = n ∧ RoundsToInt r (fmt32.val a) n) := by
  refine ⟨fun h => ?_, fun h => ?_, fun h => fmt32_toIntegral_of_fin ha h r⟩
  · rw [Fmt.toIntegral, ha.read_of_nan h]
    rfl
  · rw [Fmt.toIntegral, ha.read_of_inf h]
    exact (ha.eq_withSign_of_inf h).symm
theorem Fmt.code_toIntegral {f : Fmt} (hp : 0 < f.p) (r : Rnd) (a : Nat) : f.Code (f.toIntegral r a) := by
  unfold Fmt.toIntegral
  split
  · exact Fmt.code_nanBits hp
  · exact Fmt.code_withSign _ le_rfl
  · exact f.code_round ..

/-- A code times a power of two (R251). -/
theorem Fmt.scale_spec {f : Fmt} {r : Rnd} (hp : 0 < f.p) (hinf : 0 < f.infBits) {a : Nat} (ha : f.Code a) (n : Int) :
    (f.isNan a → f.scale r a n = f.nanBits) ∧ (f.isZero a ∨ f.isInf a → f.scale r a n = a)
      ∧ (f.isFin a → ¬f.isZero a → f.Rounds r (f.val a * 2 ^ n) (f.scale r a n)) := by
  refine ⟨fun h => ?_, fun h => ?_, fun h hz => ?_⟩
  · rw [Fmt.scale, ha.read_of_nan h]
  · rcases h with h | h
    · obtain ⟨m, e, hra, -, hm⟩ := ha.read_of_fin (h.trans_lt hinf)
      rw [Fmt.scale, hra, hm.2 h]
      exact (h ▸ ha.eq_withSign).symm
    · rw [Fmt.scale, ha.read_of_inf h]
      exact (ha.eq_withSign_of_inf h).symm
  · obtain ⟨m, e, hra, hva, hm⟩ := ha.read_of_fin h
    have hval : f.val a * 2 ^ n = unitsVal (decide (f.neg a)) m (e + n) := by
      rw [hva, unitsVal, unitsVal, zpow_add₀ two_ne_zero, mul_assoc]
    rw [hval, Fmt.scale, hra]
    simp only [beq_iff_eq, mt hm.1 hz, if_false]
    exact f.round_units hp hinf (mt hm.1 hz)
theorem Fmt.code_scale {f : Fmt} (hp : 0 < f.p) (r : Rnd) (a : Nat) (n : Int) : f.Code (f.scale r a n) := by
  unfold Fmt.scale
  split
  · exact Fmt.code_nanBits hp
  · exact Fmt.code_withSign _ le_rfl
  · split
    · exact Fmt.code_withSign _ (Nat.zero_le _)
    · exact f.code_round ..

/-- The signed integer of units below 1 that a code reads as: its floor is a quotient and its fractional part a remainder. -/
theorem units_sub_floor (x : Int) {e : Int} (he : e < 0) :
    (x : Rat) * 2 ^ e - ((x : Rat) * 2 ^ e).floor = ((x % 2 ^ (-e).toNat).toNat : Nat) * 2 ^ e := by
  set s := (-e).toNat with hs
  have hpow : (2 : Rat) ^ e = ((2 ^ s : Nat) : Rat)⁻¹ := by
    push_cast
    rw [← zpow_natCast, hs, Int.toNat_of_nonneg (by omega), zpow_neg, inv_inv]
  have hfloor : ((x : Rat) * 2 ^ e).floor = x / ((2 ^ s : Nat) : Int) := by
    rw [hpow, ← div_eq_mul_inv]
    exact Rat.floor_intCast_div_natCast x (2 ^ s)
  have hmod : (((x % 2 ^ s).toNat : Nat) : Rat) = x - ((2 ^ s : Nat) : Rat) * (x / ((2 ^ s : Nat) : Int) : Int) := by
    have h0 : 0 ≤ x % 2 ^ s := Int.emod_nonneg _ (by positivity)
    have : (((x % 2 ^ s).toNat : Nat) : Int) = x - ((2 ^ s : Nat) : Int) * (x / ((2 ^ s : Nat) : Int)) := by
      rw [Int.toNat_of_nonneg h0, Int.emod_def]
      push_cast
      rfl
    exact_mod_cast this
  have hne : ((2 ^ s : Nat) : Rat) ≠ 0 := by positivity
  rw [hfloor, hmod, hpow, sub_mul, mul_right_comm, mul_inv_cancel₀ hne, one_mul]

theorem fmt32_one : fmt32.round .rn false 1 0 false = 0x3F800000 := by decide

/-- What a code lies above its floor, rounded, and kept below 1 (R253). -/
theorem fmt32_fract_of_fin {a : Nat} (ha : fmt32.Code a) (hfin : fmt32.isFin a) :
    let y := fmt32.val a - (fmt32.val a).floor
    (y = 0 → fmt32.fract a = 0) ∧ (y ≠ 0 → ∃ m, fmt32.Rounds .rn y m ∧ fmt32.fract a = if m = 0x3F800000 then 0x3F7FFFFF else m) := by
  intro y
  obtain ⟨hp, hinf⟩ := fmt32_pos
  obtain ⟨m, e, hra, hva, -⟩ := ha.read_of_fin hfin
  obtain ⟨x, hx⟩ : ∃ x : Int, x = if decide (fmt32.neg a) then -(m : Int) else m := ⟨_, rfl⟩
  have hval : fmt32.val a = x * 2 ^ e := by
    rw [hva, unitsVal, hx]
    by_cases h : fmt32.neg a <;> simp [h]
  by_cases he : 0 ≤ e
  · have hy : y = 0 := by
      have hint : fmt32.val a = ((x * 2 ^ e.toNat : Int) : Rat) := by
        rw [hval]
        push_cast
        rw [← zpow_natCast, Int.toNat_of_nonneg he]
      simp only [y, hint, Rat.floor_intCast, sub_self]
    exact ⟨fun _ => by rw [Fmt.fract, hra]; exact if_pos he, fun h => absurd hy h⟩
  · have hy : y = ((x % 2 ^ (-e).toNat).toNat : Nat) * 2 ^ e := by
      rw [← units_sub_floor x (not_le.1 he), ← hval]
    have hw : fmt32.fract a = if fmt32.round .rn false (x % 2 ^ (-e).toNat).toNat e false = 0x3F800000 then 0x3F7FFFFF
        else fmt32.round .rn false (x % 2 ^ (-e).toNat).toNat e false := by
      rw [Fmt.fract, hra]
      simp only [if_neg he, ← hx, fmt32_one, beq_iff_eq]
      split
      · next h => rw [h]
      · rfl
    generalize (x % 2 ^ (-e).toNat).toNat = k at hy hw
    have hU : (2 : Rat) ^ e ≠ 0 := by positivity
    refine ⟨fun h0 => ?_, fun h0 => ⟨_, ?_, hw⟩⟩
    · have hk : k = 0 := by
        rw [hy] at h0
        exact_mod_cast (mul_eq_zero.1 h0).resolve_right hU
      rw [hw, hk, fmt32.round_zero]
      rfl
    · have hk : k ≠ 0 := by
        rintro rfl
        exact h0 (by rw [hy, Nat.cast_zero, zero_mul])
      rw [hy]
      exact fmt32.round_units (neg := false) hp hinf hk
theorem fmt32_fract_of_not_fin {a : Nat} (ha : fmt32.Code a) (h : ¬fmt32.isFin a) : fmt32.fract a = 0x7FC00000 := by
  rcases fmt32.class_cases a with hn | hi | hf
  · rw [Fmt.fract, ha.read_of_nan hn]
    rfl
  · rw [Fmt.fract, ha.read_of_inf hi]
    rfl
  · exact absurd hf h
theorem fmt32_code_fract (a : Nat) : fmt32.Code (fmt32.fract a) := by
  have hnan : fmt32.Code fmt32.nanBits := Fmt.code_nanBits fmt32_pos.1
  unfold Fmt.fract
  split
  · exact hnan
  · exact hnan
  · dsimp only
    split
    · exact fmt32_code_iff.2 (by norm_num)
    · generalize hw : fmt32.round .rn false _ _ false = w
      have hcode : fmt32.Code w := hw ▸ fmt32.code_round ..
      split
      · exact (Nat.sub_le _ _).trans_lt hcode
      · exact hcode

end Sys2Proof.Machine

namespace Sys2Proof
open Machine

/-- Settles O8: each is its operation on codes, rounded once. -/
theorem floatArithmetic : Obligations.FloatArithmetic := by
  unfold Obligations.FloatArithmetic
  intro s c g r d x y z f A B C gives
  obtain ⟨hp, hinf⟩ := fmt32_pos
  have hA (l : Nat) : fmt32.Code (A l) := fmt32_code_word _
  have hB (l : Nat) : fmt32.Code (B l) := fmt32_code_word _
  have hC (l : Nat) : fmt32.Code (C l) := fmt32_code_word _
  have hone : fmt32.Code 0x3F800000 := fmt32_code_iff.2 (by norm_num)
  refine ⟨?_, ?_, ?_, ?_, ?_, ?_, ?_, ?_, ?_, ?_⟩
  · refine fun h => ⟨_, _, exec_alu2 (exec_fadd ..) h, fun l => ?_, View.put32_writes ..⟩
    rw [ofBits_toNat (Fmt.code_add hp ..)]
    exact fmt32.sum_spec hp hinf (hA l) (hB l)
  · refine fun h => ⟨_, _, exec_alu2 (exec_fsub ..) h, fun l => ?_, View.put32_writes ..⟩
    rw [ofBits_toNat (Fmt.code_sub hp ..)]
    exact Fmt.difference_spec hp hinf (hA l) (hB l)
  · refine fun h => ⟨_, _, exec_alu2 (exec_fmul ..) h, fun l => ?_, View.put32_writes ..⟩
    rw [ofBits_toNat (Fmt.code_mul hp ..)]
    exact fmt32.product_spec hp hinf (hA l) (hB l)
  · refine fun h => ⟨_, _, exec_alu3 (exec_ffma ..) h, fun l => ?_, View.put32_writes ..⟩
    rw [ofBits_toNat (Fmt.code_fma hp ..)]
    exact fmt32.fused_spec hp hinf (hA l) (hB l) (hC l)
  · refine fun h => ⟨_, _, exec_alu2 (exec_fdiv ..) h, fun l => ?_, View.put32_writes ..⟩
    rw [ofBits_toNat (Fmt.code_div hp ..)]
    exact fmt32.quotient_spec hp hinf (hA l) (hB l)
  · refine fun h => ⟨_, _, exec_alu1 (exec_frcp ..) h, fun l => ?_, View.put32_writes ..⟩
    rw [ofBits_toNat (Fmt.code_div hp ..)]
    exact fmt32.quotient_spec hp hinf hone (hA l)
  · refine fun h => ⟨_, _, exec_alu1 (exec_fsqrt ..) h, fun l => ?_, View.put32_writes ..⟩
    rw [ofBits_toNat (Fmt.code_sqrt hp ..)]
    exact fmt32.root_spec hp hinf (hA l)
  · refine fun h => ⟨_, _, exec_alu2 (exec_fscale ..) h, fun l => ?_, View.put32_writes ..⟩
    rw [ofBits_toNat (Fmt.code_scale hp ..)]
    exact fmt32.scale_spec hp hinf (hA l) _
  · refine fun h => ⟨_, _, exec_alu1 (exec_frnd ..) h, fun l => ?_, View.put32_writes ..⟩
    rw [ofBits_toNat (Fmt.code_toIntegral hp ..)]
    exact fmt32_toIntegral_spec (hA l) r
  · refine fun h => ⟨_, _, exec_alu1 (exec_ffract ..) h, fun l => ?_, View.put32_writes ..⟩
    rw [ofBits_toNat (fmt32_code_fract _)]
    exact ⟨fmt32_fract_of_not_fin (hA l), fmt32_fract_of_fin (hA l)⟩

end Sys2Proof
end


section
/-! The choice of the smaller or larger of two codes, the comparisons of codes, and the classes of a code (R252, R255, R256). -/

namespace Sys2Proof.Machine

/-! ### A word's sign and magnitude (R65) -/

/-- The magnitude of a word as a code. -/
theorem toNat_and_magnitude (a : Word) : (a &&& 0x7FFFFFFF).toNat = fmt32.abs a.toNat := by
  rw [BitVec.toNat_and]
  exact Nat.and_two_pow_sub_one_eq_mod a.toNat 31
theorem ult_magnitude (a : Word) : BitVec.ult 0x7F800000 (a &&& 0x7FFFFFFF) = fmt32.isNaN a.toNat := by
  rw [BitVec.ult, toNat_and_magnitude, Bool.eq_iff_iff, (fmt32_code_word a).isNaN_iff, decide_eq_true_iff]
  rfl
theorem msb_eq_neg (a : Word) : a.msb = decide (fmt32.neg a.toNat) := BitVec.msb_eq_decide a

/-! ### The smaller and the larger code (R252) -/

section
variable {f : Fmt} {w : Nat} (hw : f.Code w)
include hw

theorem Fmt.Code.key_eq : f.key w = if f.neg w then -1 - (f.abs w : Int) else f.abs w := by
  rw [Fmt.key, hw.div_signBit, Fmt.abs]
  by_cases h : f.neg w
  · simp only [h, if_true, beq_self_eq_true]
    omega
  · simp [h]
end

/-- The order key of a word. -/
theorem key_word (a : Word) : fmt32.key a.toNat = if a.msb then -1 - ((a &&& 0x7FFFFFFF).toNat : Int) else a.toNat := by
  rw [(fmt32_code_word a).key_eq, toNat_and_magnitude, msb_eq_neg]
  by_cases h : fmt32.neg a.toNat
  · simp [h]
  · simp [h, Fmt.abs_of_lt (not_le.1 h)]

theorem ofBits_word (a : Word) : ofBits a.toNat = a := BitVec.ofNat_toNat .. |>.trans (BitVec.setWidth_eq a)

/-- The smaller or, with `low` false, the larger of two words (R252). -/
def pickWord (low : Bool) (a b : Word) : Word :=
  if fmt32.isNaN a.toNat ∧ fmt32.isNaN b.toNat then 0x7FC00000 else if fmt32.isNaN a.toNat then b else if fmt32.isNaN b.toNat then a
  else if low then (if fmt32.key b.toNat < fmt32.key a.toNat then b else a) else (if fmt32.key a.toNat < fmt32.key b.toNat then b else a)

theorem ofBits_minBits (a b : Word) : ofBits (fmt32.minBits a.toNat b.toNat) = pickWord true a b := by
  unfold Fmt.minBits pickWord
  by_cases ha : fmt32.isNaN a.toNat <;> by_cases hb : fmt32.isNaN b.toNat <;> simp only [ha, hb, if_true, if_false, and_self, and_false, and_true, apply_ite ofBits, ofBits_word, Bool.false_eq_true]
  rfl
theorem ofBits_maxBits (a b : Word) : ofBits (fmt32.maxBits a.toNat b.toNat) = pickWord false a b := by
  unfold Fmt.maxBits pickWord
  by_cases ha : fmt32.isNaN a.toNat <;> by_cases hb : fmt32.isNaN b.toNat <;> simp only [ha, hb, if_true, if_false, and_self, and_false, and_true, apply_ite ofBits, ofBits_word, Bool.false_eq_true]
  rfl

/-! ### Comparisons (R255) -/

/-- The comparison key of a word: the two zeros are equal. -/
theorem cmpKey_word (a : Word) : fmt32.cmpKey a.toNat = if a.msb then -((a &&& 0x7FFFFFFF).toNat : Int) else a.toNat := by
  rw [(fmt32_code_word a).cmpKey_eq, toNat_and_magnitude, msb_eq_neg]
  by_cases h : fmt32.neg a.toNat
  · simp [h]
  · simp [h, Fmt.abs_of_lt (not_le.1 h)]

/-- The comparisons in terms of whether an operand is NaN and of the keys. -/
theorem fcmpHolds_eq (cmp : FCmp) (a b : Nat) :
    fcmpHolds cmp a b =
      let u := fmt32.isNaN a || fmt32.isNaN b
      let x := fmt32.cmpKey a
      let y := fmt32.cmpKey b
      match cmp with
      | .eq => !u && x == y
      | .ne => !u && x != y
      | .lt => !u && x < y
      | .le => !u && x ≤ y
      | .gt => !u && y < x
      | .ge => !u && y ≤ x
      | .ueq => u || x == y
      | .une => u || x != y
      | .ult => u || x < y
      | .ule => u || x ≤ y
      | .ugt => u || y < x
      | .uge => u || y ≤ x
      | .num => !u
      | .nan => u := by
  simp only [fcmpHolds, Fmt.eq, Fmt.lt, Fmt.le]
  generalize fmt32.isNaN a = na, fmt32.isNaN b = nb
  cases na <;> cases nb <;> cases cmp <;> simp [bne]

/-! ### Classes (R256) -/

/-- The class bit of a code by its fields. -/
theorem Fmt.two_pow_classBit (f : Fmt) (a : Nat) :
    2 ^ f.classBit a =
      let m := a % 2 ^ f.p
      let ex := a / 2 ^ f.p % 2 ^ f.e
      let neg := a / f.signBit % 2 = 1
      if ex = 2 ^ f.e - 1 then (if m ≠ 0 then 0x100 else if neg then 0x001 else 0x080)
      else if ex ≠ 0 then (if neg then 0x002 else 0x040)
      else if m ≠ 0 then (if neg then 0x004 else 0x020) else if neg then 0x008 else 0x010 := by
  have hm := Nat.mod_lt a (Nat.two_pow_pos f.p)
  simp only [Fmt.classBit, Fmt.read, beq_iff_eq]
  generalize a % 2 ^ f.p = m at hm ⊢
  generalize a / 2 ^ f.p % 2 ^ f.e = ex
  by_cases htop : ex = 2 ^ f.e - 1
  · simp only [htop, if_true]
    by_cases hm0 : m = 0 <;> by_cases hneg : a / f.signBit % 2 = 1 <;> simp [hm0, hneg]
  · simp only [htop, if_false]
    by_cases h0 : ex = 0
    · by_cases hm0 : m = 0 <;> by_cases hneg : a / f.signBit % 2 = 1 <;> simp [h0, hm0, hm, hneg]
    · by_cases hneg : a / f.signBit % 2 = 1 <;> simp [h0, hneg]

theorem halfOf_eq (hi : Bool) (x : Word) : halfOf hi x = (if hi then x >>> 16 else x &&& 0xFFFF).toNat := by
  cases hi
  · exact (Nat.and_two_pow_sub_one_eq_mod x.toNat 16).symm
  · simp [halfOf, Nat.shiftRight_eq_div_pow]

end Sys2Proof.Machine

namespace Sys2Proof
open Machine

/-- Settles O10: the keys order two words as their ranks do. -/
theorem floatChoice : Obligations.FloatChoice := by
  unfold Obligations.FloatChoice
  intro s c g d x y nan rank pick
  have hpick (low : Bool) (a b : Word) : pickWord low a b = pick low a b := by
    simp only [pick, nan, rank, ult_magnitude, ← key_word, pickWord]
  refine ⟨?_, ?_⟩
  · exact runs_alu2 (exec_fmin ..) fun l => (ofBits_minBits ..).trans (hpick ..)
  · exact runs_alu2 (exec_fmax ..) fun l => (ofBits_maxBits ..).trans (hpick ..)

/-- Settles O11: a comparison is one of keys, a class one of fields. -/
theorem floatTests : Obligations.FloatTests := by
  unfold Obligations.FloatTests
  intro s c g x y nan rank
  refine ⟨fun cmp comb pd => runs_pred (exec_fcmp ..) fun l => ?_, fun ty hi d => runs_alu1 (exec_fclass ..) fun l => ?_⟩
  · simp only [nan, rank, ult_magnitude, ← cmpKey_word, fcmpHolds_eq]
    cases cmp <;> cases comb <;> rfl
  · rw [ofBits, Fmt.two_pow_classBit, halfOf_eq]
    cases ty <;> simp only [reduceCtorEq, if_true, if_false, apply_ite (BitVec.ofNat 32)] <;> rfl

end Sys2Proof
end


section
/-! The paired half-precision instructions act on each half by itself; FDOT2 is one exact sum of three terms (R257 to R259). -/

namespace Sys2Proof.Machine

/-! ### The smaller and the larger code of a format (R252) -/

section
variable {f : Fmt} {a b : Nat}

theorem Fmt.code_minBits (hp : 0 < f.p) (ha : f.Code a) (hb : f.Code b) : f.Code (f.minBits a b) := by
  have hnan : f.Code f.nanBits := Fmt.code_nanBits hp
  unfold Fmt.minBits
  repeat' split
  all_goals assumption
theorem Fmt.code_maxBits (hp : 0 < f.p) (ha : f.Code a) (hb : f.Code b) : f.Code (f.maxBits a b) := by
  have hnan : f.Code f.nanBits := Fmt.code_nanBits hp
  unfold Fmt.maxBits
  repeat' split
  all_goals assumption

/-- The rank of a code that is no NaN is its key. -/
theorem Fmt.Code.rank_eq {w : Nat} (hw : f.Code w) : (if f.signBit ≤ w then -1 - (f.abs w : Int) else w) = f.key w := by
  rw [hw.key_eq]
  by_cases h : f.neg w
  · rw [if_pos h, if_pos h]
  · rw [if_neg h, if_neg h, Fmt.abs_of_lt (not_le.1 h)]

variable (ha : f.Code a) (hb : f.Code b)
include ha hb

theorem Fmt.minBits_spec : f.IsChoice true a b (f.minBits a b) := by
  simp only [Fmt.IsChoice, if_true, ← ha.isNaN_iff, ← hb.isNaN_iff]
  refine ⟨fun h1 h2 => ?_, fun h1 h2 => ?_, fun h1 h2 => ?_, fun h1 h2 => ?_⟩
  · rw [Fmt.minBits, if_pos h1, if_pos h2]
  · rw [Fmt.minBits, if_pos h1, if_neg h2]
  · rw [Fmt.minBits, if_neg h1, if_pos h2]
  · rw [Fmt.minBits, if_neg h1, if_neg h2]
    split
    · next h => exact ⟨.inr rfl, by rw [ha.rank_eq, hb.rank_eq]; omega⟩
    · next h => exact ⟨.inl rfl, by rw [ha.rank_eq, hb.rank_eq]; omega⟩
theorem Fmt.maxBits_spec : f.IsChoice false a b (f.maxBits a b) := by
  simp only [Fmt.IsChoice, Bool.false_eq_true, if_false, ← ha.isNaN_iff, ← hb.isNaN_iff]
  refine ⟨fun h1 h2 => ?_, fun h1 h2 => ?_, fun h1 h2 => ?_, fun h1 h2 => ?_⟩
  · rw [Fmt.maxBits, if_pos h1, if_pos h2]
  · rw [Fmt.maxBits, if_pos h1, if_neg h2]
  · rw [Fmt.maxBits, if_neg h1, if_pos h2]
  · rw [Fmt.maxBits, if_neg h1, if_neg h2]
    split
    · next h => exact ⟨.inr rfl, by rw [ha.rank_eq, hb.rank_eq]; omega⟩
    · next h => exact ⟨.inl rfl, by rw [ha.rank_eq, hb.rank_eq]; omega⟩
end

/-! ### The halves of a word (R67) -/

theorem halfFmt_pos (ty : HalfTy) : 0 < (halfFmt ty).p ∧ 0 < (halfFmt ty).infBits := by
  cases ty <;> decide
theorem halfFmt_code_iff {ty : HalfTy} {w : Nat} : (halfFmt ty).Code w ↔ w < 65536 := by
  cases ty <;> rfl

/-- Half `k` of a word. -/
def halfAt (a : Word) (k : Nat) : Nat := a.toNat / 65536 ^ k % 65536
theorem halfOf_false (a : Word) : halfOf false a = halfAt a 0 := by simp [halfOf, halfAt]
theorem halfOf_true (a : Word) : halfOf true a = halfAt a 1 := by
  have := a.isLt
  simp only [halfOf, halfAt, if_true, pow_one]
  omega
theorem code_halfAt (ty : HalfTy) (a : Word) (k : Nat) : (halfFmt ty).Code (halfAt a k) :=
  halfFmt_code_iff.2 (Nat.mod_lt _ (by norm_num))

/-- The halves of a word made of two codes. -/
theorem forall_half {ok : Nat → Nat → Prop} {lo hi : Nat} (hlo : lo < 65536) (hhi : hi < 65536) (h0 : ok 0 lo) (h1 : ok 1 hi) :
    ∀ k < 2, ok k ((ofBits (lo + 65536 * hi)).toNat / 65536 ^ k % 65536) := by
  have hw : (ofBits (lo + 65536 * hi)).toNat = lo + 65536 * hi := ofBits_toNat (fmt32_code_iff.2 (by omega))
  have e0 : (lo + 65536 * hi) / 65536 ^ 0 % 65536 = lo := by omega
  have e1 : (lo + 65536 * hi) / 65536 ^ 1 % 65536 = hi := by omega
  intro k hk
  rw [hw]
  interval_cases k
  · rwa [e0]
  · rwa [e1]

/-- A function of two words that acts on each half by itself. -/
theorem pairwise2_spec {ok : Nat → Nat → Nat → Prop} {ty : HalfTy} {F : Nat → Nat → Nat} (a b : Word)
    (h : ∀ x y, (halfFmt ty).Code x → (halfFmt ty).Code y → (halfFmt ty).Code (F x y) ∧ ok x y (F x y)) :
    ∀ k < 2, ok (halfAt a k) (halfAt b k) ((pairwise2 F a b).toNat / 65536 ^ k % 65536) := by
  have hk (k : Nat) := h _ _ (code_halfAt ty a k) (code_halfAt ty b k)
  rw [pairwise2, halfOf_false, halfOf_false, halfOf_true, halfOf_true]
  exact forall_half (ok := fun k w => ok (halfAt a k) (halfAt b k) w) (halfFmt_code_iff.1 (hk 0).1) (halfFmt_code_iff.1 (hk 1).1) (hk 0).2 (hk 1).2

/-! ### Exact sums of products (R83, R259) -/

/-- The value a finite number in units stands for. -/
def FVal.rat : FVal → Rat
  | .fin n m e => unitsVal n m e
  | _ => 0
/-- Whether a value is the zero of a sign. -/
def FVal.IsZero (neg : Bool) : FVal → Prop
  | .fin n m _ => n = neg ∧ m = 0
  | _ => False

/-- One addition of an exact sum. -/
def FVal.sumStep : FVal → FVal → FVal
  | .nan, _ | _, .nan => .nan
  | .inf x, .inf y => if x == y then .inf x else .nan
  | .inf x, .fin .. => .inf x
  | .fin .., .inf y => .inf y
  | .fin n1 m1 e1, .fin n2 m2 e2 =>
    let lo := min e1 e2
    let s := scaled n1 m1 e1 lo + scaled n2 m2 e2 lo
    if s == 0 then .fin (n1 && m1 == 0 && n2 && m2 == 0) 0 lo else .fin (s < 0) s.natAbs lo
theorem sumExact_cons (v : FVal) (vs : List FVal) : sumExact (v :: vs) = v.sumStep (sumExact vs) := by
  rw [sumExact.eq_def]
  dsimp only
  generalize sumExact vs = w
  cases v <;> cases w <;> rfl
theorem FVal.sumStep_nan (v : FVal) : v.sumStep .nan = .nan := by cases v <;> rfl

/-- The sum of two numbers in units is the exact one; it is a negative zero when both are. -/
theorem FVal.sumStep_fin (n1 n2 : Bool) (m1 m2 : Nat) (e1 e2 : Int) :
    ∃ n m e, (FVal.fin n1 m1 e1).sumStep (.fin n2 m2 e2) = .fin n m e ∧ unitsVal n m e = unitsVal n1 m1 e1 + unitsVal n2 m2 e2
      ∧ (m = 0 → (n = true ↔ (n1 = true ∧ m1 = 0) ∧ n2 = true ∧ m2 = 0)) := by
  have hU : (2 : Rat) ^ (min e1 e2) ≠ 0 := by positivity
  have hval : unitsVal n1 m1 e1 + unitsVal n2 m2 e2 = (scaled n1 m1 e1 (min e1 e2) + scaled n2 m2 e2 (min e1 e2) : Int) * 2 ^ (min e1 e2) := by
    rw [Int.cast_add, add_mul, scaled_mul (min_le_left ..), scaled_mul (min_le_right ..)]
  by_cases hs : scaled n1 m1 e1 (min e1 e2) + scaled n2 m2 e2 (min e1 e2) = 0
  · refine ⟨n1 && m1 == 0 && n2 && m2 == 0, 0, min e1 e2, ?_, ?_, fun _ => by simp [and_assoc]⟩
    · simp only [FVal.sumStep, hs, beq_self_eq_true, if_true]
    · rw [hval, hs, Int.cast_zero, zero_mul, unitsVal_eq_zero_iff]
  · have hne : unitsVal n1 m1 e1 + unitsVal n2 m2 e2 ≠ 0 := by
      rw [hval]
      exact mul_ne_zero (Int.cast_ne_zero.2 hs) hU
    obtain ⟨n, m, e, hadd, hm, hv⟩ := FVal.add_of_ne_zero (r := .rn) hne
    refine ⟨n, m, e, ?_, hv, fun h0 => absurd h0 hm⟩
    rw [← hadd]
    simp only [FVal.sumStep, FVal.add, beq_iff_eq, hs, if_false]

section
variable {vs : List FVal}

/-- A term that is NaN makes the sum NaN. -/
theorem sumExact_of_nan (h : .nan ∈ vs) : sumExact vs = .nan := by
  induction vs with
  | nil => cases h
  | cons v vs ih =>
    rw [sumExact_cons]
    rcases List.mem_cons.1 h with rfl | h
    · rfl
    · rw [ih h, FVal.sumStep_nan]

/-- A term that is an infinity makes the sum that infinity or NaN. -/
theorem sumExact_of_inf {n : Bool} (h : .inf n ∈ vs) : sumExact vs = .nan ∨ sumExact vs = .inf n := by
  induction vs with
  | nil => cases h
  | cons v vs ih =>
    rw [sumExact_cons]
    rcases List.mem_cons.1 h with rfl | h
    · cases sumExact vs with
      | nan => exact .inl rfl
      | inf y => cases n <;> cases y <;> simp [FVal.sumStep]
      | fin => exact .inr rfl
    · rcases ih h with e | e <;> rw [e]
      · exact .inl v.sumStep_nan
      · cases v with
        | nan => exact .inl rfl
        | inf x => cases n <;> cases x <;> simp [FVal.sumStep]
        | fin => exact .inr rfl

/-- A sum that is an infinity has it as a term. -/
theorem mem_of_sumExact_inf {n : Bool} (h : sumExact vs = .inf n) : .inf n ∈ vs := by
  induction vs with
  | nil => cases h
  | cons v vs ih =>
    rw [sumExact_cons] at h
    generalize sumExact vs = w at h ih
    cases v with
    | nan => cases h
    | inf x =>
      have hx : x = n := by
        cases w with
        | nan => cases h
        | inf y => cases x <;> cases y <;> cases h <;> rfl
        | fin => cases h; rfl
      exact hx ▸ List.mem_cons_self ..
    | fin n1 m1 e1 =>
      cases w with
      | nan => cases h
      | inf y => exact List.mem_cons_of_mem _ (ih h)
      | fin n2 m2 e2 =>
        obtain ⟨_, _, _, hs, -⟩ := FVal.sumStep_fin n1 n2 m1 m2 e1 e2
        cases hs.symm.trans h

/-- A sum that is NaN has a NaN among its terms, or both infinities. -/
theorem mem_of_sumExact_nan (h : sumExact vs = .nan) : .nan ∈ vs ∨ (.inf true ∈ vs ∧ .inf false ∈ vs) := by
  induction vs with
  | nil => cases h
  | cons v vs ih =>
    rw [sumExact_cons] at h
    have hmem {x : FVal} := List.mem_cons_of_mem (a := x) v (l := vs)
    generalize hw : sumExact vs = w at h ih
    cases w with
    | nan => exact (ih rfl).imp hmem fun h => ⟨hmem h.1, hmem h.2⟩
    | inf y =>
      have hy := hmem (mem_of_sumExact_inf hw)
      cases v with
      | nan => exact .inl (List.mem_cons_self ..)
      | inf x =>
        have hx : FVal.inf x ∈ FVal.inf x :: vs := List.mem_cons_self ..
        cases x <;> cases y
        · cases h
        · exact .inr ⟨hy, hx⟩
        · exact .inr ⟨hx, hy⟩
        · cases h
      | fin => cases h
    | fin n2 m2 e2 =>
      cases v with
      | nan => exact .inl (List.mem_cons_self ..)
      | inf x => cases h
      | fin n1 m1 e1 =>
        obtain ⟨_, _, _, hs, -⟩ := FVal.sumStep_fin n1 n2 m1 m2 e1 e2
        cases hs.symm.trans h

theorem sumExact_of_infs (h1 : .inf true ∈ vs) (h2 : .inf false ∈ vs) : sumExact vs = .nan :=
  (sumExact_of_inf h1).elim id fun e1 => (sumExact_of_inf h2).elim id fun e2 => by cases e1.symm.trans e2
theorem sumExact_of_one_inf {n : Bool} (hnan : .nan ∉ vs) (h1 : .inf n ∈ vs) (h2 : .inf (!n) ∉ vs) : sumExact vs = .inf n := by
  refine (sumExact_of_inf h1).resolve_left fun h => (mem_of_sumExact_nan h).elim hnan fun ⟨ht, hf⟩ => h2 ?_
  cases n
  · exact ht
  · exact hf

/-- A sum of finite terms is the exact sum of their values; it is a negative zero when they all are. -/
theorem sumExact_of_fin (h : ∀ v ∈ vs, ∃ n m e, v = .fin n m e) : ∃ n m e, sumExact vs = .fin n m e
    ∧ unitsVal n m e = (vs.map FVal.rat).sum ∧ (m = 0 → (n = true ↔ ∀ v ∈ vs, v.IsZero true)) := by
  induction vs with
  | nil => exact ⟨true, 0, 0, rfl, by simp [unitsVal], by simp⟩
  | cons v vs ih =>
    obtain ⟨n1, m1, e1, rfl⟩ := h v (List.mem_cons_self ..)
    obtain ⟨n2, m2, e2, hs2, hv2, hz2⟩ := ih fun v hv => h v (List.mem_cons_of_mem _ hv)
    obtain ⟨n, m, e, hs, hv, hz⟩ := FVal.sumStep_fin n1 n2 m1 m2 e1 e2
    rw [sumExact_cons, hs2]
    refine ⟨n, m, e, hs, by rw [hv, hv2]; rfl, fun hm => ?_⟩
    have hall : (∀ v ∈ vs, v.IsZero true) → m2 = 0 := fun hall => by
      have hsum : (vs.map FVal.rat).sum = 0 := List.sum_eq_zero fun x hx => by
        obtain ⟨v, hvm, rfl⟩ := List.mem_map.1 hx
        obtain ⟨n, m, e, rfl⟩ := h v (List.mem_cons_of_mem _ hvm)
        exact unitsVal_eq_zero_iff.2 (hall _ hvm).2
      exact unitsVal_eq_zero_iff.1 (hv2.trans hsum)
    rw [hz hm, List.forall_mem_cons]
    refine and_congr_right fun _ => ⟨fun ⟨h1, h2⟩ => (hz2 h2).1 h1, fun h => ⟨(hz2 (hall h)).2 h, hall h⟩⟩

end

/-! ### FDOT2 (R259) -/

/-- A product of two codes that has no value (R70). -/
def Fmt.Undefined (f : Fmt) (a b : Nat) : Prop := f.isNan a ∨ f.isNan b ∨ (f.isInf a ∧ f.isZero b) ∨ (f.isZero a ∧ f.isInf b)

/-- The exact product of two codes by its class. -/
inductive Fmt.Product (f : Fmt) (a b : Nat) : FVal → Prop
  | nan : f.Undefined a b → f.Product a b .nan
  | inf {n : Bool} : ¬f.Undefined a b → f.isInf a ∨ f.isInf b → (n = true ↔ f.signOf a b ≠ 0) → f.Product a b (.inf n)
  | fin {n : Bool} {m : Nat} {e : Int} : ¬f.Undefined a b → ¬(f.isInf a ∨ f.isInf b) → (n = true ↔ f.signOf a b ≠ 0) →
      unitsVal n m e = f.val a * f.val b → (m = 0 ↔ f.isZero a ∨ f.isZero b) → f.Product a b (.fin n m e)

theorem Fmt.signOf_ne_zero (f : Fmt) (a b : Nat) : (decide (f.neg a) != decide (f.neg b)) = true ↔ f.signOf a b ≠ 0 := by
  rw [f.signOf_eq]
  split
  · next h => simp [h, f.signBit_pos.ne']
  · next h => simp [h]

theorem Fmt.product_mul {f : Fmt} (hinf : 0 < f.infBits) {a b : Nat} (ha : f.Code a) (hb : f.Code b) : f.Product a b ((f.read a).mul (f.read b)) := by
  by_cases hu : f.Undefined a b
  · rw [ha.mul_undefined hb hinf hu]
    exact .nan hu
  have ha' := (f.class_cases a).resolve_left fun h => hu (.inl h)
  have hb' := (f.class_cases b).resolve_left fun h => hu (.inr (.inl h))
  by_cases hi : f.isInf a ∨ f.isInf b
  · have hmul : (f.read a).mul (f.read b) = .inf (decide (f.neg a) != decide (f.neg b)) := by
      rcases hi with h | h
      · exact ha.mul_of_inf_left hb h hb' fun hz => hu (.inr (.inr (.inl ⟨h, hz⟩)))
      · exact ha.mul_of_inf_right hb h ha' fun hz => hu (.inr (.inr (.inr ⟨hz, h⟩)))
    rw [hmul]
    exact .inf hu hi (f.signOf_ne_zero a b)
  · obtain ⟨m1, e1, hra, hva, hza⟩ := ha.read_of_fin (ha'.resolve_left fun h => hi (.inl h))
    obtain ⟨m2, e2, hrb, hvb, hzb⟩ := hb.read_of_fin (hb'.resolve_left fun h => hi (.inr h))
    rw [hra, hrb]
    refine .fin hu hi (f.signOf_ne_zero a b) ?_ ?_
    · rw [hva, hvb, unitsVal_mul]
    · rw [Nat.mul_eq_zero, hza, hzb]

theorem Fmt.Product.nan_iff {f : Fmt} {a b : Nat} {v : FVal} (h : f.Product a b v) : v = .nan ↔ f.Undefined a b := by
  cases h with
  | nan h => simp [h]
  | inf h => simp [h]
  | fin h => simp [h]
theorem Fmt.Product.inf_iff {f : Fmt} {a b : Nat} {v : FVal} {n : Bool} (h : f.Product a b v) :
    v = .inf n ↔ (¬f.Undefined a b ∧ (f.isInf a ∨ f.isInf b)) ∧ (n = true ↔ f.signOf a b ≠ 0) := by
  cases h with
  | nan h => simp [h]
  | inf h hi hn =>
    rw [FVal.inf.injEq, and_iff_right ⟨h, hi⟩, ← hn, Bool.eq_iff_iff]
    exact Iff.comm
  | fin _ h => simp [h]
theorem Fmt.Code.read_eq_nan_iff {f : Fmt} {w : Nat} (hw : f.Code w) : f.read w = .nan ↔ f.isNan w := by
  rw [← hw.isNaN_iff, Fmt.isNaN, beq_iff_eq]
theorem Fmt.Code.read_eq_inf_iff {f : Fmt} {w : Nat} {n : Bool} (hw : f.Code w) : f.read w = .inf n ↔ w = f.withSign n f.infBits := by
  have hs := f.infBits_lt_signBit
  refine ⟨fun h => ?_, ?_⟩
  · rcases f.class_cases w with hc | hc | hc
    · cases (hw.read_of_nan hc).symm.trans h
    · cases (hw.read_of_inf hc).symm.trans h
      exact hw.eq_withSign_of_inf hc
    · obtain ⟨m, e, hread, -⟩ := hw.read_of_fin hc
      cases hread.symm.trans h
  · rintro rfl
    rw [hw.read_of_inf (Fmt.abs_withSign n hs)]
    exact congrArg _ (Bool.eq_iff_iff.2 (by rw [decide_eq_true_iff, Fmt.neg_withSign hs]))

/-- FDOT2's code from its three terms. -/
def dotCode (r : Rnd) (p0 p1 c : FVal) : Nat :=
  match sumExact [p0, p1, c] with
  | .fin n 0 e =>
    let allPos := (match p0, p1, c with
      | .fin n0 m0 _, .fin n1 m1 _, .fin n2 m2 _ =>
        !n0 && m0 == 0 && !n1 && m1 == 0 && !n2 && m2 == 0
      | _, _, _ => false)
    fmt32.write r (.fin (n || (r == .rm && !allPos)) 0 e)
  | v => fmt32.write r v
theorem fdot2Bits_eq (f : Fmt) (r : Rnd) (a b c : Word) : fdot2Bits f r a.toNat b.toNat c.toNat
    = dotCode r ((f.read (halfAt a 0)).mul (f.read (halfAt b 0))) ((f.read (halfAt a 1)).mul (f.read (halfAt b 1))) (fmt32.read c.toNat) := by
  simp only [← halfOf_true, ← halfOf_false]
  rfl

theorem dotCode_of_nan {r : Rnd} {p0 p1 c : FVal} (h : sumExact [p0, p1, c] = .nan) : dotCode r p0 p1 c = 0x7FC00000 := by
  unfold dotCode
  rw [h]
  rfl
theorem dotCode_of_inf {r : Rnd} {p0 p1 c : FVal} {n : Bool} (h : sumExact [p0, p1, c] = .inf n) :
    dotCode r p0 p1 c = if n then 0xFF800000 else 0x7F800000 := by
  unfold dotCode
  rw [h]
  cases n <;> rfl

/-- The sum of three finite terms, rounded once; a zero sum is negative where every term is −0, and by the mode unless every one
is +0. -/
theorem dotCode_of_fin {r : Rnd} {n0 n1 n2 : Bool} {m0 m1 m2 : Nat} {e0 e1 e2 : Int} {x : Rat}
    (hx : x = unitsVal n0 m0 e0 + unitsVal n1 m1 e1 + unitsVal n2 m2 e2) {w : Nat} (hw : w = dotCode r (.fin n0 m0 e0) (.fin n1 m1 e1) (.fin n2 m2 e2)) :
    (x ≠ 0 → fmt32.Rounds r x w) ∧ (x = 0 → w = if ((n0 = true ∧ m0 = 0) ∧ (n1 = true ∧ m1 = 0) ∧ n2 = true ∧ m2 = 0)
      ∨ (r = .rm ∧ ¬((n0 = false ∧ m0 = 0) ∧ (n1 = false ∧ m1 = 0) ∧ n2 = false ∧ m2 = 0)) then 0x80000000 else 0) := by
  obtain ⟨hp, hinf⟩ := fmt32_pos
  obtain ⟨n, m, e, hs, hv, hz⟩ := sumExact_of_fin (vs := [.fin n0 m0 e0, .fin n1 m1 e1, .fin n2 m2 e2]) (by simp)
  have hval : unitsVal n m e = x := by
    rw [hv, hx]
    simp [FVal.rat, add_assoc]
  simp only [List.forall_mem_cons, FVal.IsZero] at hz
  rw [dotCode, hs] at hw
  cases m with
  | succ k =>
    have hne : x ≠ 0 := hval ▸ mt unitsVal_eq_zero_iff.1 (Nat.succ_ne_zero k)
    refine ⟨fun _ => ?_, fun h => absurd h hne⟩
    rw [hw, ← hval]
    exact fmt32.round_units hp hinf (Nat.succ_ne_zero k)
  | zero =>
    have h0 : x = 0 := hval ▸ unitsVal_eq_zero_iff.2 rfl
    refine ⟨fun h => absurd h0 h, fun _ => ?_⟩
    rw [hw]
    refine (fmt32.round_zero ..).trans (if_congr ?_ rfl rfl)
    simp only [Bool.or_eq_true, Bool.and_eq_true, Bool.not_eq_true', beq_iff_eq, hz rfl, ← Bool.not_eq_true]
    simp only [and_assoc, List.not_mem_nil, false_imp_iff, implies_true, and_true, Bool.not_eq_true]

theorem code_dotCode (r : Rnd) (p0 p1 c : FVal) : fmt32.Code (dotCode r p0 p1 c) := by
  unfold dotCode
  split
  · exact Fmt.code_write fmt32_pos.1 ..
  · exact Fmt.code_write fmt32_pos.1 ..

/-- The zero of a sign as a code. -/
theorem Fmt.Code.eq_zero_iff {f : Fmt} {v : Nat} (hv : f.Code v) (n : Bool) : v = (if n then f.signBit else 0) ↔ decide (f.neg v) = n ∧ f.isZero v := by
  refine ⟨fun h => ?_, fun ⟨hn, hz⟩ => (hv.eq_withSign_of_zero_iff hz).2 hn⟩
  have hz : f.isZero v := by cases n <;> simp [h, Fmt.isZero, Fmt.abs]
  exact ⟨(hv.eq_withSign_of_zero_iff hz).1 h, hz⟩

theorem exists_lt_two {p : Nat → Prop} : (∃ k < 2, p k) ↔ p 0 ∨ p 1 := by
  simp [Nat.le_one_iff_eq_zero_or_eq_one, or_and_right, exists_or]

end Sys2Proof.Machine

namespace Sys2Proof
open Machine

/-- Settles O14: the halves are codes of the element format; the three terms of FDOT2 are summed exactly. -/
theorem halfPairs : Obligations.HalfPairs := by
  unfold Obligations.HalfPairs
  intro s c g ty r d x y z f part gives pair
  have hf : f = halfFmt ty := by cases ty <;> rfl
  clear_value f
  subst hf
  obtain ⟨hp, hinf⟩ := halfFmt_pos ty
  refine ⟨?_, ?_, ?_, ?_, ?_, ?_⟩
  · refine fun h => ⟨_, _, exec_alu2 (exec_hadd2 ..) h, fun l => ?_, View.put32_writes ..⟩
    exact pairwise2_spec (ok := fun a b w => (halfFmt ty).IsSum r a b w) _ _ fun a b ha hb => ⟨Fmt.code_add hp .., Fmt.sum_spec hp hinf ha hb⟩
  · refine fun h => ⟨_, _, exec_alu2 (exec_hmul2 ..) h, fun l => ?_, View.put32_writes ..⟩
    exact pairwise2_spec (ok := fun a b w => (halfFmt ty).IsProduct r a b w) _ _ fun a b ha hb => ⟨Fmt.code_mul hp .., Fmt.product_spec hp hinf ha hb⟩
  · refine fun h => ⟨_, _, exec_alu3 (exec_hfma2 ..) h, fun l => ?_, View.put32_writes ..⟩
    simp only [halfOf_true, halfOf_false]
    have hcode (k : Nat) := halfFmt_code_iff.1 (Fmt.code_fma hp r (halfAt (c.view.src32 l x) k) (halfAt (c.view.src32 l y) k) (halfAt (c.view.src32 l z) k))
    have hspec (k : Nat) := Fmt.fused_spec (r := r) hp hinf (code_halfAt ty (c.view.src32 l x) k) (code_halfAt ty (c.view.src32 l y) k) (code_halfAt ty (c.view.src32 l z) k)
    exact forall_half (ok := fun k w => (halfFmt ty).IsFused r (part x l k) (part y l k) (part z l k) w) (hcode 0) (hcode 1) (hspec 0) (hspec 1)
  · refine fun h => ⟨_, _, exec_alu2 (exec_hmin2 ..) h, fun l => ?_, View.put32_writes ..⟩
    exact pairwise2_spec (ok := fun a b w => (halfFmt ty).IsChoice true a b w) _ _ fun a b ha hb => ⟨Fmt.code_minBits hp ha hb, Fmt.minBits_spec ha hb⟩
  · refine fun h => ⟨_, _, exec_alu2 (exec_hmax2 ..) h, fun l => ?_, View.put32_writes ..⟩
    exact pairwise2_spec (ok := fun a b w => (halfFmt ty).IsChoice false a b w) _ _ fun a b ha hb => ⟨Fmt.code_maxBits hp ha hb, Fmt.maxBits_spec ha hb⟩
  · refine fun h => ⟨_, _, exec_alu3 (exec_fdot2 ..) h, fun l => ?_, View.put32_writes ..⟩
    rw [fdot2Bits_eq, ofBits_toNat (code_dotCode ..)]
    have h0 := Fmt.product_mul hinf (code_halfAt ty (c.view.src32 l x) 0) (code_halfAt ty (c.view.src32 l y) 0)
    have h1 := Fmt.product_mul hinf (code_halfAt ty (c.view.src32 l x) 1) (code_halfAt ty (c.view.src32 l y) 1)
    have hz := Fmt.reads_read (fmt32_code_word (c.view.src32 l z))
    generalize ((halfFmt ty).read (halfAt (c.view.src32 l x) 0)).mul _ = p0 at h0 ⊢
    generalize ((halfFmt ty).read (halfAt (c.view.src32 l x) 1)).mul _ = p1 at h1 ⊢
    generalize hV : fmt32.read (c.view.src32 l z).toNat = V at hz ⊢
    beta_reduce
    intro a b v undef inf minus up down none sum allZero
    have hv : fmt32.Code v := fmt32_code_word _
    have hnone : none ↔ .nan ∈ [p0, p1, V] := by
      simp only [none, exists_lt_two, List.mem_cons, List.not_mem_nil, or_false, eq_comm (a := FVal.nan), h0.nan_iff, h1.nan_iff, ← hV, (fmt32_code_word _).read_eq_nan_iff, or_assoc]
      rfl
    have hup : up ↔ .inf false ∈ [p0, p1, V] := by
      simp only [up, exists_lt_two, List.mem_cons, List.not_mem_nil, or_false, eq_comm (a := FVal.inf false), h0.inf_iff, h1.inf_iff, ← hV, (fmt32_code_word _).read_eq_inf_iff, or_assoc, Bool.false_eq_true, false_iff]
      rfl
    have hdown : down ↔ .inf true ∈ [p0, p1, V] := by
      simp only [down, exists_lt_two, List.mem_cons, List.not_mem_nil, or_false, eq_comm (a := FVal.inf true), h0.inf_iff, h1.inf_iff, ← hV, (fmt32_code_word _).read_eq_inf_iff, or_assoc, true_iff]
      rfl
    rw [hnone, hup, hdown]
    refine ⟨fun h => ?_, fun hn hu hd => ?_, fun hn hd hu => ?_, fun hn hu hd => ?_⟩
    · exact dotCode_of_nan (h.elim sumExact_of_nan fun h => sumExact_of_infs h.2 h.1)
    · exact dotCode_of_inf (sumExact_of_one_inf hn hu hd)
    · exact dotCode_of_inf (sumExact_of_one_inf hn hd hu)
    · have hfin (u : FVal) (hu' : u ∈ [p0, p1, V]) : ∃ n m e, u = .fin n m e := by
        cases u with
        | nan => exact absurd hu' hn
        | inf n => cases n <;> contradiction
        | fin n m e => exact ⟨n, m, e, rfl⟩
      obtain ⟨n0, m0, e0, rfl⟩ := hfin p0 (by simp)
      obtain ⟨n1, m1, e1, rfl⟩ := hfin p1 (by simp)
      obtain ⟨n2, m2, e2, rfl⟩ := hfin V (by simp)
      cases h0 with | fin _ _ hn0 hv0 hz0 => ?_
      cases h1 with | fin _ _ hn1 hv1 hz1 => ?_
      cases hz with | fin _ hv2 hz2 => ?_
      obtain ⟨hne, heq⟩ := dotCode_of_fin (r := r) (x := sum) (congrArg₂ (· + ·) (congrArg₂ (· + ·) hv0.symm hv1.symm) hv2) rfl
      refine ⟨hne, fun h => ?_⟩
      have hall (n : Bool) (k : Nat) {i : Bool} {m : Nat} (hi : i = true ↔ minus k) (hm : m = 0 ↔ (halfFmt ty).isZero (a k) ∨ (halfFmt ty).isZero (b k)) :
          allZero (n = true) k ↔ i = n ∧ m = 0 :=
        (and_congr hm.symm ((iff_congr hi.symm Iff.rfl).trans Bool.coe_iff_coe)).trans and_comm
      have hthird (n : Bool) : v = (if n then fmt32.signBit else 0) ↔ decide (fmt32.neg v) = n ∧ m2 = 0 := by
        rw [hz2, hv.eq_zero_iff n]
      have hminus : (allZero True 0 ∧ allZero True 1 ∧ v = 0x80000000) ↔ (n0 = true ∧ m0 = 0) ∧ (n1 = true ∧ m1 = 0) ∧ decide (fmt32.neg v) = true ∧ m2 = 0 := by
        have h0 := hall true 0 hn0 hz0
        have h1 := hall true 1 hn1 hz1
        simp only at h0 h1
        exact and_congr h0 (and_congr h1 (hthird true))
      have hplus : (allZero False 0 ∧ allZero False 1 ∧ v = 0) ↔ (n0 = false ∧ m0 = 0) ∧ (n1 = false ∧ m1 = 0) ∧ decide (fmt32.neg v) = false ∧ m2 = 0 := by
        have h0 := hall false 0 hn0 hz0
        have h1 := hall false 1 hn1 hz1
        simp only [Bool.false_eq_true] at h0 h1
        exact and_congr h0 (and_congr h1 (hthird false))
      rw [heq h, hminus, hplus]
      split
      · next hc => exact ⟨.inl rfl, iff_of_true rfl hc⟩
      · next hc => exact ⟨.inr rfl, iff_of_false (by decide) hc⟩

end Sys2Proof
end


section
/-! The conversions: a value into an integer range or another format, and narrow elements widened and laid in (R72, R75, R260 to
R264). -/

namespace Sys2Proof.Machine

/-! ### Values converted (R72) -/

/-- A code put into another format. -/
theorem Fmt.convert_spec {h f : Fmt} {r : Rnd} (hp : 0 < f.p) (hinf : 0 < f.infBits) {a : Nat} (ha : h.Code a) (hh : 0 < h.infBits) :
    h.Converts f r a (h.convert f r a) := by
  rw [Fmt.convert]
  refine ⟨fun hn => ?_, fun hi => ?_, fun hz => ?_, fun hf hz => ?_⟩
  · rw [ha.read_of_nan hn]
    rfl
  · rw [ha.read_of_inf hi, Fmt.write, f.withSign_infBits]
    by_cases hneg : h.neg a <;> simp [hneg]
  · obtain ⟨m, e, hra, -, hm⟩ := ha.read_of_fin (hz.trans_lt hh)
    rw [hra, hm.2 hz, Fmt.write, f.round_zero, if_congr decide_eq_true_iff rfl rfl]
  · obtain ⟨m, e, hra, hva, hm⟩ := ha.read_of_fin hf
    rw [hra, hva]
    exact f.round_units hp hinf (mt hm.1 hz)

theorem Fmt.code_convert {h f : Fmt} (hp : 0 < f.p) (r : Rnd) (a : Nat) : f.Code (h.convert f r a) := Fmt.code_write hp ..
theorem Fmt.code_ofInt (f : Fmt) (r : Rnd) (n : Int) : f.Code (f.ofInt r n) := f.code_round ..

/-- A code converted to an integer of a range. -/
theorem toIntSat_spec {f : Fmt} {r : Rnd} {a : Nat} (ha : f.Code a) (signed : Bool) (w : Nat) :
    f.ConvertsToInt r (if signed then -(2 ^ (w - 1)) else 0) (if signed then 2 ^ (w - 1) - 1 else 2 ^ w - 1) a (toIntSat r signed w (f.read a)) := by
  refine ⟨fun hn => ?_, fun hi => ?_, fun hf => ?_⟩
  · rw [ha.read_of_nan hn]
    rfl
  · rw [ha.read_of_inf hi]
    exact if_congr decide_eq_true_iff rfl rfl
  · obtain ⟨m, e, hra, hva, -⟩ := ha.read_of_fin hf
    rw [hra, hva]
    exact ⟨_, roundInt_spec r _ m e, rfl⟩

/-- The format of a conversion's source. -/
def srcFmt : CvtSrc → Fmt
  | .f32 => fmt32
  | .f16 _ => fmt16
  | .bf16 _ => fmtB16
  | .f64 => fmt64
theorem halfOf_eq_setWidth (hi : Bool) (w : Word) : halfOf hi w = ((if hi then w >>> 16 else w).setWidth 16).toNat := by
  have := w.isLt
  cases hi
  · simp [halfOf]
  · simp only [halfOf, if_true, BitVec.toNat_setWidth, BitVec.toNat_ushiftRight, Nat.shiftRight_eq_div_pow]
    omega

theorem fmt16_code_iff {w : Nat} : fmt16.Code w ↔ w < 65536 := Iff.rfl
theorem fmtB16_code_iff {w : Nat} : fmtB16.Code w ↔ w < 65536 := Iff.rfl
theorem fmt64_code_iff {w : Nat} : fmt64.Code w ↔ w < 2 ^ 64 := Iff.rfl
theorem ofNat64_toNat {w : Nat} (h : fmt64.Code w) : (BitVec.ofNat 64 w).toNat = w := by
  rw [BitVec.toNat_ofNat, Nat.mod_eq_of_lt (fmt64_code_iff.1 h)]
theorem srcFmt_infBits_pos (src : CvtSrc) : 0 < (srcFmt src).infBits := by
  cases src with
  | f32 => exact (fmt_pos fmt32 (by simp)).2
  | f16 => exact (fmt_pos fmt16 (by simp)).2
  | bf16 => exact (fmt_pos fmtB16 (by simp)).2
  | f64 => exact (fmt_pos fmt64 (by simp)).2

theorem cvtSource_code (v : View) (l : Nat) (src : CvtSrc) (a : Operand) : (cvtSource v l src a).1.Code (cvtSource v l src a).2 := by
  have half (hi : Bool) : halfOf hi (v.src32 l a) < 65536 := by
    rw [halfOf_eq_setWidth]
    exact BitVec.isLt _
  cases src with
  | f32 => exact fmt32_code_word (v.src32 l a)
  | f16 hi => exact fmt16_code_iff.2 (half hi)
  | bf16 hi => exact fmtB16_code_iff.2 (half hi)
  | f64 => exact fmt64_code_iff.2 (BitVec.isLt (v.src64 l a))
theorem cvtSource_fmt (v : View) (l : Nat) (src : CvtSrc) (a : Operand) : (cvtSource v l src a).1 = srcFmt src := by
  cases src <;> rfl
theorem cvtDst_pos (t : CvtDst) : 0 < (cvtDst t).p ∧ 0 < (cvtDst t).infBits := by
  cases t <;> decide
theorem fmtOf_pos (t : FloatTy) : 0 < (fmtOf t).p ∧ 0 < (fmtOf t).infBits := by
  cases t <;> decide
theorem fmtOf_code {t : FloatTy} {w : Nat} (h : (fmtOf t).Code w) : fmt32.Code w := by
  refine h.trans_le ?_
  cases t <;> decide
theorem cvtDst_code {t : CvtDst} {w : Nat} (ht : t ≠ .f64) (h : (cvtDst t).Code w) : fmt32.Code w := by
  refine h.trans_le ?_
  cases t with
  | f64 => contradiction
  | _ => decide

/-! ### Narrow elements (R75, R263, R264) -/

theorem toNat_element (b k : Nat) (x : Word) : ((x >>> (b * k)).setWidth b).toNat = x.toNat / 2 ^ (b * k) % 2 ^ b := by
  rw [BitVec.toNat_setWidth, BitVec.toNat_ushiftRight, Nat.shiftRight_eq_div_pow]
theorem element_unsigned (b k : Nat) (x : Word) : element b k false x = ((x >>> (b * k)).setWidth b).toNat := by
  rw [toNat_element]
  rfl
theorem element_signed {b : Nat} (hb : 0 < b) (k : Nat) (x : Word) : element b k true x = ((x >>> (b * k)).setWidth b).toInt := by
  obtain ⟨b, rfl⟩ := Nat.exists_eq_succ_of_ne_zero hb.ne'
  rw [BitVec.toInt_eq_toNat_cond, toNat_element, element]
  simp only [Bool.true_and, decide_eq_true_eq, Nat.succ_eq_add_one, Nat.add_sub_cancel, Nat.pow_succ]
  have key (v B : Nat) : (if v ≥ B then (v : Int) - B * 2 else v) = if 2 * v < B * 2 then (v : Int) else v - (B * 2 : Nat) := by
    split <;> split <;> omega
  rw [Int.pow_succ, show (2 : Int) ^ b = (2 ^ b : Nat) by push_cast; rfl]
  exact key ..

theorem wrap32_element_signed {b : Nat} (hb : 0 < b) (k : Nat) (x : Word) : wrap32 (element b k true x) = ((x >>> (b * k)).setWidth b).signExtend 32 :=
  congrArg wrap32 (element_signed hb k x)
theorem wrap32_element_unsigned (b k : Nat) (x : Word) : wrap32 (element b k false x) = ((x >>> (b * k)).setWidth b).setWidth 32 := by
  rw [element_unsigned, wrap32_natCast, BitVec.ofNat_toNat]
theorem ofInt_element_word (sx : Bool) (x : Word) : BitVec.ofInt 64 (element 32 0 sx x) = if sx then x.signExtend 64 else x.setWidth 64 := by
  have hx : (x >>> (32 * 0)).setWidth 32 = x := by simp
  cases sx
  · rw [element_unsigned, hx, BitVec.ofInt_natCast, BitVec.ofNat_toNat]
    rfl
  · rw [element_signed (by decide), hx]
    rfl

/-- A field of `n` bits from bit `b` on, laid into a number, bit by bit. -/
theorem testBit_laid {b n v : Nat} (x : Nat) (hv : v < 2 ^ n) (j : Nat) :
    (x / 2 ^ (b + n) * 2 ^ (b + n) + v * 2 ^ b + x % 2 ^ b).testBit j = if b ≤ j ∧ j < b + n then v.testBit (j - b) else x.testBit j := by
  have hsum : x / 2 ^ (b + n) * 2 ^ (b + n) + v * 2 ^ b + x % 2 ^ b = 2 ^ b * (2 ^ n * (x / 2 ^ (b + n)) + v) + x % 2 ^ b := by
    rw [pow_add]
    ring
  rw [hsum, Nat.testBit_two_pow_mul_add _ (Nat.mod_lt _ (Nat.two_pow_pos b)), Nat.testBit_two_pow_mul_add _ hv]
  by_cases h1 : j < b
  · rw [if_pos h1, if_neg (by omega), Nat.testBit_mod_two_pow]
    simp [h1]
  · rw [if_neg h1]
    by_cases h2 : j - b < n
    · rw [if_pos h2, if_pos (by omega)]
    · rw [if_neg h2, if_neg (by omega), Nat.testBit_div_two_pow]
      congr 1
      omega

/-- The low bits of an integer, as a word of that many. -/
theorem ofNat_emod (w : Nat) (n : Int) : BitVec.ofNat w (n % 2 ^ w).toNat = BitVec.ofInt w n := by
  apply BitVec.eq_of_toNat_eq
  have hpos : (0 : Int) < 2 ^ w := by positivity
  have : (n % 2 ^ w).toNat < 2 ^ w := by
    have := Int.emod_lt_of_pos n hpos
    have := Int.emod_nonneg n hpos.ne'
    zify
    omega
  rw [BitVec.toNat_ofNat, BitVec.toNat_ofInt, Nat.mod_eq_of_lt this]
  push_cast
  rfl
/-- An integer narrowed, or clamped first (R264). -/
def narrowed (w : Nat) (signed sat : Bool) (x : Int) : Int :=
  if !sat then x else if signed then clampInt x (-(2 ^ (w - 1))) (2 ^ (w - 1) - 1) else clampInt x 0 (2 ^ w - 1)
theorem narrowTo_eq (w : Nat) (signed sat : Bool) (x : Int) : narrowTo w signed sat x = (narrowed w signed sat x % 2 ^ w).toNat := rfl
theorem ofBits_narrowTo_pair (sx sat : Bool) (x : DWord) : ofBits (narrowTo 32 sx sat (if sx then x.toInt else x.toNat)) = BitVec.ofInt 32
    (if !sat then x.toInt else if sx then max (-2 ^ 31) (min x.toInt (2 ^ 31 - 1)) else min x.toNat (2 ^ 32 - 1)) := by
  rw [narrowTo_eq, ofBits, ofNat_emod, narrowed]
  cases sat
  · cases sx
    · have h : BitVec.ofInt 32 x.toInt = x.setWidth 32 := BitVec.signExtend_eq_setWidth_of_le x (by decide)
      simp only [Bool.not_false, if_true, Bool.false_eq_true, if_false, h, BitVec.ofInt_natCast, BitVec.ofNat_toNat]
    · rfl
  · cases sx
    · simp only [Bool.not_true, Bool.false_eq_true, if_false, clampInt]
      congr 1
      omega
    · rfl
theorem narrowTo_lt (w : Nat) (signed sat : Bool) (x : Int) : narrowTo w signed sat x < 2 ^ w := by
  have h0 : (0 : Int) < 2 ^ w := by positivity
  have := Int.emod_lt_of_pos (narrowed w signed sat x) h0
  have := Int.emod_nonneg (narrowed w signed sat x) h0.ne'
  rw [narrowTo_eq]
  zify
  omega

/-- The low bits of an integer are those of it as a word. -/
theorem testBit_emod {w i : Nat} (n : Int) (hi : i < w) (hw : w ≤ 32) : (n % 2 ^ w).toNat.testBit i = (BitVec.ofInt 32 n).getLsbD i := by
  have hdvd : (2 ^ w : Int) ∣ 2 ^ 32 := pow_dvd_pow 2 hw
  have : (n % 2 ^ w).toNat = (n % 2 ^ 32).toNat % 2 ^ w := by
    zify
    rw [Int.toNat_of_nonneg (Int.emod_nonneg _ (by positivity)), Int.toNat_of_nonneg (Int.emod_nonneg _ (by positivity)), Int.emod_emod_of_dvd _ hdvd]
  rw [this, Nat.testBit_mod_two_pow, decide_eq_true hi, Bool.true_and, ← ofNat_emod, BitVec.getLsbD_ofNat, decide_eq_true (by omega), Bool.true_and]

/-- A narrow element laid into a word replaces the bits of its place. -/
theorem laid_eq {w k : Nat} (hk : w * (k + 1) ≤ 32) (y : Word) (signed sat : Bool) (x : Int) :
    ofBits (y.toNat / 2 ^ (w * (k + 1)) * 2 ^ (w * (k + 1)) + narrowTo w signed sat x * 2 ^ (w * k) + y.toNat % 2 ^ (w * k))
      = (y &&& ~~~(BitVec.ofNat 32 (2 ^ w - 1) <<< (w * k))) ||| ((BitVec.ofInt 32 (narrowed w signed sat x) <<< (w * k)) &&& (BitVec.ofNat 32 (2 ^ w - 1) <<< (w * k))) := by
  rw [Nat.mul_succ] at hk ⊢
  have hlt := narrowTo_lt w signed sat x
  apply BitVec.eq_of_getLsbD_eq
  intro j hj
  rw [ofBits, BitVec.getLsbD_ofNat, testBit_laid _ hlt]
  simp only [BitVec.getLsbD_or, BitVec.getLsbD_and, BitVec.getLsbD_not, BitVec.getLsbD_shiftLeft, BitVec.getLsbD_ofNat, Nat.testBit_two_pow_sub_one, hj,
    decide_true, Bool.true_and]
  by_cases h1 : j < w * k
  · simp [h1, BitVec.testBit_toNat]
  · by_cases h2 : j - w * k < w
    · rw [if_pos (by omega), narrowTo_eq, testBit_emod _ h2 (by omega)]
      simp [h1, h2, show j - w * k < 32 by omega]
    · rw [if_neg (by omega), BitVec.testBit_toNat]
      simp [h2]

/-! ### The outcomes -/

section
variable {s : State} {c : Site} {g : Guard} {d : Reg} {a : Operand} {ty : IntTy} {src : CvtSrc} {r : Rnd} {dst : CvtDst}

theorem exec_cvtfi_word (h : Starts (.cvtfi g ty false src r d a) s c) :
    exec (.cvtfi g ty false src r d a) s = .next (s.after c (.cvtfi g ty false src r d a) (c.view.put32 g d fun l =>
      wrap32 (toIntSat r (ty == .i32) 32 ((cvtSource c.view l src a).1.read (cvtSource c.view l src a).2)))).reap := by
  rw [exec_cvtfi, execCvtfi, alu_of h.1 h.2]
  rfl
theorem exec_cvtfi_pair (h : Starts (.cvtfi g ty true src r d a) s c) :
    exec (.cvtfi g ty true src r d a) s = .next (s.after c (.cvtfi g ty true src r d a) (c.view.put64 g d fun l =>
      BitVec.ofInt 64 (toIntSat r (ty == .i32) 64 ((cvtSource c.view l src a).1.read (cvtSource c.view l src a).2)))).reap := by
  rw [exec_cvtfi, execCvtfi, alu_of h.1 h.2]
  rfl
theorem exec_cvtff_word (hd : dst ≠ .f64) (h : Starts (.cvtff g dst src r d a none) s c) :
    exec (.cvtff g dst src r d a none) s = .next (s.after c (.cvtff g dst src r d a none) (c.view.put32 g d fun l =>
      ofBits ((cvtSource c.view l src a).1.convert (cvtDst dst) r (cvtSource c.view l src a).2))).reap := by
  rw [exec_cvtff, execCvtff, alu_of h.1 h.2]
  simp only [if_neg hd]
theorem exec_cvtff_pair (h : Starts (.cvtff g .f64 src r d a none) s c) :
    exec (.cvtff g .f64 src r d a none) s = .next (s.after c (.cvtff g .f64 src r d a none) (c.view.put64 g d fun l =>
      BitVec.ofNat 64 ((cvtSource c.view l src a).1.convert fmt64 r (cvtSource c.view l src a).2))).reap := by
  rw [exec_cvtff, execCvtff, alu_of h.1 h.2]
  rfl
theorem exec_cvtff_halves {b : Operand} (h : Starts (.cvtff g dst src r d a (some b)) s c) :
    exec (.cvtff g dst src r d a (some b)) s = .next (s.after c (.cvtff g dst src r d a (some b)) (c.view.put32 g d fun l =>
      ofBits ((cvtSource c.view l src a).1.convert (cvtDst dst) r (cvtSource c.view l src a).2
        + 65536 * (cvtSource c.view l src b).1.convert (cvtDst dst) r (cvtSource c.view l src b).2))).reap := by
  rw [exec_cvtff, execCvtff, alu_of h.1 h.2]

variable {t : NarrowTy} {b : Operand} {sat sx : Bool}

theorem exec_iwiden_word (ht : t.isB32 = false) : exec (.iwiden g t d a) s = alu (.iwiden g t d a) s fun v => v.put32 g d fun l =>
    wrap32 (element (narrowShape t).1 (narrowShape t).2.1 (narrowShape t).2.2 (v.src32 l a)) := by
  rw [exec_iwiden, execIwiden]
  simp only [ht, Bool.false_eq_true, if_false]
theorem exec_iwiden_pair : exec (.iwiden g (.b32 sx) d a) s = alu (.iwiden g (.b32 sx) d a) s fun v => v.put64 g d fun l =>
    BitVec.ofInt 64 (element 32 0 sx (v.src32 l a)) := by
  rw [exec_iwiden, execIwiden]
  rfl
theorem exec_inarrow_pair : exec (.inarrow g (.b32 sx) sat d a none) s = alu (.inarrow g (.b32 sx) sat d a none) s fun v => v.put32 g d fun l =>
    ofBits (narrowTo 32 sx sat (if sx then (v.src64 l a).toInt else (v.src64 l a).toNat)) := by
  rw [exec_inarrow, execInarrow]
  rfl
theorem exec_inarrow_laid : exec (.inarrow g t sat d a (some b)) s = alu (.inarrow g t sat d a (some b)) s fun v => v.put32 g d fun l =>
    ofBits ((v.src32 l b).toNat / 2 ^ ((narrowShape t).1 * ((narrowShape t).2.1 + 1)) * 2 ^ ((narrowShape t).1 * ((narrowShape t).2.1 + 1))
      + narrowTo (narrowShape t).1 (narrowShape t).2.2 sat (if (narrowShape t).2.2 then (v.src32 l a).toInt else (v.src32 l a).toNat)
        * 2 ^ ((narrowShape t).1 * (narrowShape t).2.1) + (v.src32 l b).toNat % 2 ^ ((narrowShape t).1 * (narrowShape t).2.1)) := by
  rw [exec_inarrow, execInarrow]
end

/-- A narrow element lies within the word. -/
theorem narrowShape_le (t : NarrowTy) : (narrowShape t).1 * ((narrowShape t).2.1 + 1) ≤ 32 := by
  cases t <;> simp only [narrowShape] <;> omega

end Sys2Proof.Machine

namespace Sys2Proof
open Machine

/-- Settles O15: conversions round the value of a code once; elements are the bits of their place. -/
theorem conversions : Obligations.Conversions := by
  unfold Obligations.Conversions
  intro s c g d x y v half code form dest gives gives64
  have hsrc (src : CvtSrc) (o : Operand) (l : Nat) : cvtSource v l src o = (form src, code src o l) := by
    cases src with
    | f16 hi | bf16 hi => exact congrArg (Prod.mk _) (halfOf_eq_setWidth ..)
    | f32 | f64 => rfl
  have hcode (src : CvtSrc) (o : Operand) (l : Nat) : (form src).Code (code src o l) := by
    have := cvtSource_code v l src o
    rwa [hsrc] at this
  have hform (src : CvtSrc) : form src = srcFmt src := by
    cases src <;> rfl
  have hdest (dst : CvtDst) : dest dst = cvtDst dst := by
    cases dst <;> rfl
  have hconv (dst : CvtDst) (r : Rnd) (src : CvtSrc) (o : Operand) (l : Nat) :
      (form src).Converts (dest dst) r (code src o l) ((cvtSource v l src o).1.convert (cvtDst dst) r (cvtSource v l src o).2) := by
    obtain ⟨hp, hinf⟩ := cvtDst_pos dst
    rw [hdest, hsrc]
    exact Fmt.convert_spec hp hinf (hcode ..) (hform src ▸ srcFmt_infBits_pos src)
  have hint (r : Rnd) (signed : Bool) (w : Nat) (src : CvtSrc) (l : Nat) : (form src).ConvertsToInt r (if signed then -(2 ^ (w - 1)) else 0)
      (if signed then 2 ^ (w - 1) - 1 else 2 ^ w - 1) (code src x l) (toIntSat r signed w ((cvtSource v l src x).1.read (cvtSource v l src x).2)) := by
    rw [hsrc]
    exact toIntSat_spec (hcode ..) ..
  refine ⟨?_, ?_, ?_, ?_, ?_, ?_, ?_, ?_, ?_, ?_, ?_, ?_, ?_, ?_⟩
  · refine fun ty src r h => ⟨_, _, exec_cvtfi_word h, fun l => ⟨_, rfl, ?_⟩, View.put32_writes ..⟩
    cases ty
    · exact hint r true 32 src l
    · exact hint r false 32 src l
  · refine fun ty src r h => ⟨_, _, exec_cvtfi_pair h, fun l => ⟨_, rfl, ?_⟩, View.put64_writes ..⟩
    cases ty
    · exact hint r true 64 src l
    · exact hint r false 64 src l
  · refine fun ty src r h => ⟨_, _, exec_word (exec_cvtif ..) h, fun l => ?_, View.put32_writes ..⟩
    obtain ⟨hp, hinf⟩ := fmtOf_pos ty
    rw [ofBits_toNat (fmtOf_code ((fmtOf ty).code_ofInt ..))]
    have := (fmtOf ty).ofInt_spec (r := r) hp hinf (cvtInt v l src x)
    cases ty <;> cases src <;> exact this
  · refine fun dst src r hd h => ⟨_, _, exec_cvtff_word hd h, fun l => ?_, View.put32_writes ..⟩
    rw [ofBits_toNat (cvtDst_code hd (Fmt.code_convert (cvtDst_pos _).1 ..))]
    exact hconv ..
  · refine fun src r h => ⟨_, _, exec_cvtff_pair h, fun l => ?_, View.put64_writes ..⟩
    beta_reduce
    rw [ofNat64_toNat (Fmt.code_convert (by decide) ..)]
    exact hconv .f64 ..
  · refine fun dst r hd h => ⟨_, _, exec_cvtff_halves h, fun l => ?_, View.put32_writes ..⟩
    have hhalf (o : Operand) : (cvtSource v l .f32 o).1.convert (cvtDst dst) r (cvtSource v l .f32 o).2 < 65536 := by
      have := Fmt.code_convert (h := (cvtSource v l .f32 o).1) (cvtDst_pos dst).1 r (cvtSource v l .f32 o).2
      rcases hd with rfl | rfl <;> exact this
    have hx := hconv dst r .f32 x l
    have hy := hconv dst r .f32 y l
    have hlo := hhalf x
    have hhi := hhalf y
    generalize (cvtSource v l .f32 x).1.convert (cvtDst dst) r (cvtSource v l .f32 x).2 = lo at *
    generalize (cvtSource v l .f32 y).1.convert (cvtDst dst) r (cvtSource v l .f32 y).2 = hi at *
    rw [ofBits_toNat (fmt32_code_iff.2 (by omega))]
    beta_reduce
    rw [show (lo + 65536 * hi) % 65536 = lo by omega, show (lo + 65536 * hi) / 65536 = hi by omega]
    exact ⟨hx, hy⟩
  · exact fun k => runs_word (exec_iwiden_word rfl) fun l => wrap32_element_signed (Nat.succ_pos _) ..
  · exact fun k => runs_word (exec_iwiden_word rfl) fun l => wrap32_element_unsigned ..
  · exact fun k => runs_word (exec_iwiden_word rfl) fun l => wrap32_element_signed (Nat.succ_pos _) ..
  · exact fun k => runs_word (exec_iwiden_word rfl) fun l => wrap32_element_unsigned ..
  · intro k sx
    refine runs_word (exec_iwiden_word rfl) fun l => ?_
    cases sx
    · exact wrap32_element_unsigned ..
    · exact wrap32_element_signed (Nat.succ_pos _) ..
  · exact fun sx => runs_pair exec_iwiden_pair fun l => ofInt_element_word ..
  · exact fun sx sat => runs_word exec_inarrow_pair fun l => ofBits_narrowTo_pair ..
  · intro ty sat hty
    refine runs_word exec_inarrow_laid fun l => (laid_eq (narrowShape_le ty) ..).trans ?_
    cases ty with
    | b32 => cases hty
    | _ => rfl

end Sys2Proof
end


section
/-! The cross-lane instructions: the source lane of a shuffle, votes, masks of lanes, and folds in increasing order of lanes (R272 to
R276). -/

namespace Sys2Proof.Machine

/-! ### Masks of lanes -/

theorem laneOn_foldl_or (ls : List Nat) (m : Mask) (j : Nat) (hj : j < 64) :
    laneOn (ls.foldl (fun m l => m ||| BitVec.ofNat 64 (2 ^ l)) m) j = (laneOn m j || decide (j ∈ ls)) := by
  induction ls generalizing m with
  | nil => simp
  | cons l ls ih =>
    rw [List.foldl_cons, ih, laneOn, BitVec.getLsbD_or, BitVec.getLsbD_ofNat, Nat.testBit_two_pow, decide_eq_true hj, Bool.true_and,
      Bool.or_assoc, ← Bool.decide_or]
    simp only [laneOn, List.mem_cons, eq_comm (a := l)]
theorem laneOn_maskOf (ls : List Nat) {j : Nat} (hj : j < 64) : laneOn (maskOf ls) j = true ↔ j ∈ ls := by
  rw [maskOf, laneOn_foldl_or ls 0 j hj]
  simp [laneOn]
/-- Masks of lists of lanes are equal when the lists have the same lanes. -/
theorem maskOf_eq_iff {ls js : List Nat} (hl : ∀ l ∈ ls, l < 64) (hj : ∀ l ∈ js, l < 64) : maskOf ls = maskOf js ↔ ∀ l, l ∈ ls ↔ l ∈ js := by
  refine ⟨fun h l => ?_, fun h => BitVec.eq_of_getLsbD_eq fun j hj => ?_⟩
  · by_cases hlt : l < 64
    · rw [← laneOn_maskOf ls hlt, h, laneOn_maskOf js hlt]
    · exact iff_of_false (fun hm => hlt (hl l hm)) fun hm => hlt (hj l hm)
  · have := (laneOn_maskOf ls hj).trans ((h j).trans (laneOn_maskOf js hj).symm)
    exact Bool.eq_iff_iff.2 this

/-! ### Shuffles (R274) -/

/-- The lane `b` below a lane, modulo W. -/
theorem shflLane_back (W l b : Nat) : shflLane W l (some .back) b = (((l : Int) - b) % W).toNat := by
  rw [shflLane]
  rcases Nat.eq_zero_or_pos W with rfl | hW
  · simp only [Nat.mod_zero, Nat.cast_zero, Int.emod_zero]
    omega
  · have hmod := Nat.mod_lt b hW
    have hdiv : (b : Int) = W * (b / W : Nat) + (b % W : Nat) := by exact_mod_cast (Nat.div_add_mod b W).symm
    have e : ((l + W - b % W : Nat) : Int) = ((l : Int) - b) + W * ((b / W : Nat) + 1) := by
      rw [Nat.cast_sub (by omega), Nat.cast_add]
      linarith
    rw [← Int.add_mul_emod_self_left ((l : Int) - b) W ((b / W : Nat) + 1), ← e]
    exact (Int.toNat_natCast _).symm

/-! ### Folds (R276) -/

section
variable (c : View) (part : List Nat) (op : FoldOp) (a : Reg)

theorem foldTo_zero : foldTo c part op a 0 = foldIdentity op := rfl
theorem foldTo_succ (n : Nat) : foldTo c part op a (n + 1) = foldStep op (foldTo c part op a n) (foldLane c part op a n) := by
  rw [foldTo, List.range_succ, List.foldl_append]
  rfl
theorem foldLane_of_mem {k : Nat} (h : k ∈ part) : foldLane c part op a k = c.reg32 k a := by simp [foldLane, h]
theorem foldLane_of_not_mem {k : Nat} (h : k ∉ part) : foldLane c part op a k = foldIdentity op := by simp [foldLane, h]
end

/-! ### A predicate written beside registers -/

/-- A write of a predicate after a write of registers. -/
theorem Regs.but_putPred {v : View} {g : Guard} {pd : Fin 8} {f : Nat → Bool} {r : Regs} {V : Nat → Nat → Prop} {U : Nat → Prop}
    (h : v.regs.but r V U fun _ _ => False) : v.regs.but (r.putPred pd (v.active g) f) V U fun q l => q = pd ∧ pd.val ≠ 7 ∧ l ∈ v.active g := by
  obtain ⟨hv, hu, hp, ht, hm, ha⟩ := h
  have hset (x : Mask) : (r.setPred pd x).t = r.t ∧ (r.setPred pd x).m = r.m ∧ (r.setPred pd x).a = r.a := by
    unfold Regs.setPred
    split <;> exact ⟨rfl, rfl, rfl⟩
  obtain ⟨ht', hm', ha'⟩ := hset ((v.active g).foldl (fun m l => setLane m l (f l)) (r.pred pd))
  refine ⟨fun n l hl hn => ?_, fun n hn => ?_, fun q l hn => ?_, ht'.trans ht, hm'.trans hm, ha'.trans ha⟩
  · rw [Regs.putPred, Regs.vec_setPred, hv n l hl hn]
  · rw [Regs.putPred, Regs.uni_setPred, hu n hn]
  · rw [r.predAt_putPred pd q _ f l fun l => View.active_lt, if_neg hn, hp q l id]
@[simp] theorem Regs.vec_putPred (r : Regs) (pd : Fin 8) (ls : List Nat) (f : Nat → Bool) (n l : Nat) : (r.putPred pd ls f).vec n l = r.vec n l :=
  r.vec_setPred pd _ n l

/-! ### Matches and votes (R275) -/

/-- A lane's value as MATCH compares it. -/
def matchVal (v : View) (ty : BitTy) (a : Reg) (l : Nat) : Nat := if ty = .b64 then (v.reg64 l a).toNat else (v.reg32 l a).toNat
theorem matchVal_eq_iff {v : View} {ty : BitTy} {a : Reg} {l j : Nat} : matchVal v ty a j = matchVal v ty a l ↔ match ty with
    | .b32 => v.reg32 j a = v.reg32 l a
    | .b64 => v.reg64 j a = v.reg64 l a := by
  cases ty <;> exact BitVec.toNat_inj
/-- The active lanes whose value is a lane's. -/
def matchPeers (v : View) (g : Guard) (ty : BitTy) (a : Reg) (l : Nat) : Mask :=
  maskOf ((v.active g).filter fun j => matchVal v ty a j == matchVal v ty a l)
theorem laneOn_matchPeers {v : View} {g : Guard} {ty : BitTy} {a : Reg} {l j : Nat} (hj : j < 64) :
    laneOn (matchPeers v g ty a l) j = true ↔ j ∈ v.active g ∧ matchVal v ty a j = matchVal v ty a l := by
  rw [matchPeers, laneOn_maskOf _ hj, List.mem_filter, beq_iff_eq]
/-- Whether every active lane's peers are all the active lanes. -/
def matchAll (v : View) (g : Guard) (ty : BitTy) (a : Reg) : Bool := (v.active g).all fun l => matchPeers v g ty a l == maskOf (v.active g)
theorem matchAll_iff {v : View} {g : Guard} {ty : BitTy} {a : Reg} :
    matchAll v g ty a = true ↔ ∀ l ∈ v.active g, ∀ j ∈ v.active g, matchVal v ty a j = matchVal v ty a l := by
  have hact : ∀ l ∈ v.active g, l < 64 := fun l => View.active_lt
  simp only [matchAll, List.all_eq_true, beq_iff_eq, matchPeers]
  refine forall₂_congr fun l hl => ?_
  rw [maskOf_eq_iff (fun j hj => hact j (List.mem_filter.1 hj).1) hact]
  simp only [List.mem_filter, beq_iff_eq, and_iff_left_iff_imp]

/-- The outcome of a vote over the lanes of a list. -/
def voteOver (mode : VoteMode) (ps : List Bool) : Bool :=
  match mode with
  | .all => ps.all id
  | .any => ps.any id
  | .same => ps.all id || !(ps.any id)
theorem voteOver_iff {mode : VoteMode} {ls : List Nat} {p : Nat → Bool} : voteOver mode (ls.map p) = true ↔ match mode with
    | .all => ∀ l ∈ ls, p l = true
    | .any => ∃ l ∈ ls, p l = true
    | .same => ∀ l ∈ ls, ∀ j ∈ ls, p l = true ↔ p j = true := by
  cases mode with
  | all => simp [voteOver]
  | any => simp [voteOver]
  | same =>
    simp only [voteOver, Bool.or_eq_true, Bool.not_eq_true', List.all_eq_true, List.any_eq_false, List.forall_mem_map, id]
    constructor
    · rintro (h | h) l hl j hj
      · exact iff_of_true (h l hl) (h j hj)
      · exact iff_of_false (h l hl) (h j hj)
    · intro h
      by_cases hex : ∃ l ∈ ls, p l = true
      · obtain ⟨l, hl, hp⟩ := hex
        exact .inl fun j hj => (h l hl j hj).1 hp
      · exact .inr fun j hj hp => hex ⟨j, hj, hp⟩

section
variable {s : State} {c : Site} {g : Guard} {d : Fin 192} {a : Reg} {mode : Option (ShflMode × Operand)}

/-- The lane that a shuffle reads. -/
def shflFrom (v : View) (mode : Option (ShflMode × Operand)) (l : Nat) : Nat :=
  shflLane v.W l (mode.map (·.1)) ((mode.map fun m => (v.src32 l m.2).toNat).getD 0)
theorem exec_shfl_word : exec (.shfl g .b32 mode d a) s = alu (.shfl g .b32 mode d a) s fun v => v.put32 g (.v d) fun l => v.reg32 (shflFrom v mode l) a := by
  rw [exec_shfl, execShfl]
  rfl
theorem exec_shfl_pair : exec (.shfl g .b64 mode d a) s = alu (.shfl g .b64 mode d a) s fun v => v.put64 g (.v d) fun l => v.reg64 (shflFrom v mode l) a := by
  rw [exec_shfl, execShfl]
  rfl
theorem exec_match_peers {ty : BitTy} (h : Starts (.match_ g ty none d a) s c) :
    exec (.match_ g ty none d a) s = .next (s.after c (.match_ g ty none d a) (c.view.put64 g (.v d) (matchPeers c.view g ty a))).reap := by
  rw [exec_match_, execMatch, alu_of h.1 h.2]
  rfl
theorem exec_match_all {ty : BitTy} {pd : Fin 8} (h : Starts (.match_ g ty (some pd) d a) s c) :
    exec (.match_ g ty (some pd) d a) s = .next (s.after c (.match_ g ty (some pd) d a)
      ((c.view.put64 g (.v d) fun _ => if matchAll c.view g ty a then maskOf (c.view.active g) else 0).putPred pd (c.view.active g)
        fun _ => matchAll c.view g ty a)).reap := by
  rw [exec_match_, execMatch, alu_of h.1 h.2]
  rfl
theorem exec_vote_over {m : VoteMode} {pd pa : Fin 8} {neg : Bool} (h : Starts (.vote g m pd pa neg) s c) :
    exec (.vote g m pd pa neg) s = .next (s.after c (.vote g m pd pa neg)
      (c.view.putPred g pd fun _ => voteOver m ((c.view.active g).map fun l => c.view.regs.predAt pa l != neg))).reap := by
  rw [exec_vote, execVote, alu_of h.1 h.2]
  rfl
end

end Sys2Proof.Machine

namespace Sys2Proof
open Machine

/-- Settles O18: masks hold the lanes of a list, and a fold takes one lane more at each step. -/
theorem crossLane : Obligations.CrossLane := by
  unfold Obligations.CrossLane
  intro s c g v act gives source mask pair fact signed identity step folds
  have hsource (mode : ShflMode) (b : Operand) (l : Nat) : shflFrom v (some (mode, b)) l = source mode l (v.src32 l b).toNat := by
    cases mode with
    | back => exact shflLane_back ..
    | _ => rfl
  have hact : ∀ l ∈ act, l < 64 := fun l => View.active_lt
  have hfolds (op : FoldOp) (part : List Nat) (a : Reg) : folds op part a (foldTo v part op a) := by
    have hid : identity op (foldIdentity op) := by
      cases op with
      | minI t | maxI t => cases t <;> decide
      | _ => rfl
    have hstep (r x : Word) : step op r x (foldStep op r x) := by
      obtain ⟨hp, hinf⟩ := fmt32_pos
      have hr := fmt32_code_word r
      have hx := fmt32_code_word x
      cases op with
      | addF m =>
        have := fmt32.sum_spec (r := m) hp hinf hr hx
        rw [← Fmt.add, ← ofBits_toNat (Fmt.code_add hp ..)] at this
        exact this
      | minF =>
        have := Fmt.minBits_spec hr hx
        rw [← ofBits_toNat (Fmt.code_minBits hp hr hx)] at this
        exact this
      | maxF =>
        have := Fmt.maxBits_spec hr hx
        rw [← ofBits_toNat (Fmt.code_maxBits hp hr hx)] at this
        exact this
      | minI t | maxI t => cases t <;> rfl
      | _ => rfl
    refine ⟨hid, fun k _ => ⟨foldLane v part op a k, ?_, foldTo_succ v part op a k ▸ hstep ..⟩⟩
    split
    · next h => exact foldLane_of_mem v part op a h
    · next h => exact foldLane_of_not_mem v part op a h ▸ hid
  refine ⟨?_, ?_, ?_, ?_, ?_, ?_, ?_, ?_, ?_, ?_, ?_, ?_⟩
  · exact fun mode d a b => runs_word exec_shfl_word fun l => congrArg (v.reg32 · a) (hsource mode b l)
  · exact fun mode d a b => runs_pair exec_shfl_pair fun l => congrArg (v.reg64 · a) (hsource mode b l)
  · exact fun d a => runs_word exec_shfl_word fun l => rfl
  · exact fun d a => runs_pair exec_shfl_pair fun l => rfl
  · intro mode pd pa neg h
    refine ⟨_, exec_vote_over h, _, View.putPred_writes .., voteOver_iff.trans ?_⟩
    cases mode <;> simp only [bne_iff_ne] <;> rfl
  · intro d pa neg h
    refine ⟨_, (exec_ballot ..).trans (alu_of h.1 h.2 _), _, fun l hl j hj => ?_, View.put64_writes ..⟩
    rw [laneOn_maskOf _ hj, List.mem_filter, bne_iff_ne]
  · exact fun d a h => ⟨_, exec_match_peers h, _, fun l hl j hj => (laneOn_matchPeers hj).trans (and_congr_right fun _ => matchVal_eq_iff), View.put64_writes ..⟩
  · exact fun d a h => ⟨_, exec_match_peers h, _, fun l hl j hj => (laneOn_matchPeers hj).trans (and_congr_right fun _ => matchVal_eq_iff), View.put64_writes ..⟩
  · intro ty d pd a h
    obtain ⟨hd, hbut⟩ := View.put64_writes v g (.v d) fun _ => if matchAll v g ty a then maskOf (v.active g) else 0
    refine ⟨_, exec_match_all h, matchAll v g ty a, ?_, ⟨if matchAll v g ty a then maskOf (v.active g) else 0, fun j hj => ?_, fun l hl => ?_⟩,
      Regs.but_putPred hbut⟩
    · exact matchAll_iff.trans (by simp only [matchVal_eq_iff]; rfl)
    · cases matchAll v g ty a
      · simp [laneOn]
      · simp [laneOn_maskOf _ hj, act]
    · obtain ⟨h0, h1⟩ := hd l hl
      refine ⟨(Regs.vec_putPred ..).trans h0, (Regs.vec_putPred ..).trans h1, fun hpd => ?_⟩
      exact (Regs.predAt_putPred _ pd pd _ _ l fun l => View.active_lt).trans (if_pos ⟨rfl, hpd, hl⟩)
  · exact fun op d a h => ⟨_, exec_word (exec_gred ..) h, _, hfolds op _ a, View.put32_writes ..⟩
  · exact fun op d a h => ⟨_, exec_word (exec_gscan ..) h, _, hfolds op act a, View.put32_writes ..⟩
  · exact fun op d a h => ⟨_, exec_word (exec_gscan ..) h, _, hfolds op act a, View.put32_writes ..⟩

end Sys2Proof
end


section
/-! The ray tests: the interval of a ray in a box and the hit of a triangle, each step rounded once, in the order of the rules (R268
to R271). -/

namespace Sys2Proof.Machine

/-! ### Groups of registers -/

/-- Words written to a group of registers in one lane. -/
def Regs.putWords (r : Regs) (n l : Nat) (ws : List Word) : Regs := ws.zipIdx.foldl (fun r p => r.setVec (n + p.2) l p.1) r
theorem View.putGroup_eq (v : View) (n : Nat) (ls : List Nat) (f : Nat → List Word) :
    v.putGroup n ls f = ls.foldl (fun r l => r.putWords n l (f l)) v.regs := rfl

section
variable {k n l m : Nat} {r : Regs}
/-- Words are written from place `k` of a group on. -/
theorem Regs.foldl_setVec (ws : List Word) (hl : l < 64) :
    let r' := (ws.zipIdx k).foldl (fun r p => r.setVec (n + p.2) l p.1) r
    (∀ j < ws.length, r'.vec (n + (k + j)) l = ws.getD j 0)
      ∧ r.but r' (fun m i => n + k ≤ m ∧ m < n + k + ws.length ∧ i = l) (fun _ => False) fun _ _ => False := by
  induction ws generalizing k r with
  | nil => simp [Regs.but]
  | cons w ws ih =>
    obtain ⟨hw, hv, hu, hp, ht, hm, ha⟩ := ih (k := k + 1) (r := r.setVec (n + k) l w)
    simp only [List.zipIdx_cons, List.foldl_cons]
    refine ⟨fun j hj => ?_, fun q i hi hn => ?_, hu, hp, ht, hm, ha⟩
    · cases j with
      | zero =>
        exact (hv (n + k) l hl (by omega)).trans (by rw [Regs.vec_setVec _ _ _ _ _ _ hl hl, if_pos ⟨rfl, rfl⟩]; rfl)
      | succ j =>
        have := hw j (by simpa using hj)
        rw [show k + (j + 1) = k + 1 + j by omega, this]
        rfl
    · rw [List.length_cons] at hn
      rw [hv q i hi (by omega), Regs.vec_setVec _ _ _ _ _ _ hl hi, if_neg (by omega)]
theorem Regs.but_trans {r1 r2 r3 : Regs} {V V' : Nat → Nat → Prop} {U : Nat → Prop} {P : Fin 8 → Nat → Prop} (h1 : r1.but r2 V U P) (h2 : r2.but r3 V' U P) :
    r1.but r3 (fun m l => V m l ∨ V' m l) U P := by
  obtain ⟨hv, hu, hp, ht, hm, ha⟩ := h1
  obtain ⟨hv', hu', hp', ht', hm', ha'⟩ := h2
  exact ⟨fun n l hl hn => (hv' n l hl fun h => hn (.inr h)).trans (hv n l hl fun h => hn (.inl h)), fun n hn => (hu' n hn).trans (hu n hn),
    fun q l hn => (hp' q l hn).trans (hp q l hn), ht'.trans ht, hm'.trans hm, ha'.trans ha⟩
theorem Regs.but_mono {r r' : Regs} {V V' : Nat → Nat → Prop} {U : Nat → Prop} {P : Fin 8 → Nat → Prop} (h : r.but r' V U P)
    (hV : ∀ m l, V m l → V' m l) : r.but r' V' U P := ⟨fun n l hl hn => h.1 n l hl (mt (hV n l) hn), h.2⟩

/-- A group of registers written in each of some lanes. -/
theorem Regs.foldl_putWords {f : Nat → List Word} (hf : ∀ l, (f l).length = k) {ls : List Nat} (hls : ∀ l ∈ ls, l < 64) :
    let r' := ls.foldl (fun r l => r.putWords n l (f l)) r
    (∀ l ∈ ls, ∀ j < k, r'.vec (n + j) l = (f l).getD j 0)
      ∧ r.but r' (fun m l => n ≤ m ∧ m < n + k ∧ l ∈ ls) (fun _ => False) fun _ _ => False := by
  induction ls generalizing r with
  | nil => simp [Regs.but]
  | cons i ls ih =>
    have hi := hls i (List.mem_cons_self ..)
    obtain ⟨hw, hb⟩ := Regs.foldl_setVec (k := 0) (n := n) (r := r) (f i) hi
    simp only [Nat.zero_add, Nat.add_zero, hf] at hw hb
    obtain ⟨hw', hb'⟩ := ih (r := r.putWords n i (f i)) fun l hl => hls l (List.mem_cons_of_mem _ hl)
    refine ⟨fun l hl j hj => ?_, Regs.but_mono (Regs.but_trans hb hb') fun m l h => ?_⟩
    · by_cases hl' : l ∈ ls
      · exact hw' l hl' j hj
      · obtain rfl := (List.mem_cons.1 hl).resolve_right hl'
        exact (hb'.1 (n + j) l hi fun h => hl' h.2.2).trans (hw j hj)
    · rcases h with ⟨h1, h2, rfl⟩ | ⟨h1, h2, h3⟩
      · exact ⟨h1, h2, List.mem_cons_self ..⟩
      · exact ⟨h1, h2, List.mem_cons_of_mem _ h3⟩
end

/-- `putGroup` writes its words in the active lanes and nothing else. -/
theorem View.putGroup_writes (v : View) (g : Guard) (d : Fin 192) {n : Nat} {f : Nat → List Word} (hf : ∀ l, (f l).length = n) :
    WritesWords v (v.active g) (.v d) n f (v.putGroup d.val (v.active g) f) := by
  rw [View.putGroup_eq]
  exact Regs.foldl_putWords hf fun l => View.active_lt

/-! ### The steps (R269, R271) -/

/-- A code written as it reads is itself, unless it is NaN. -/
theorem Fmt.Code.write_read {f : Fmt} {w : Nat} (hw : f.Code w) (hp : 0 < f.p) (r : Rnd) (hn : ¬f.isNan w) : f.write r (f.read w) = w := by
  rcases (f.class_cases w).resolve_left hn with h | h
  · rw [hw.read_of_inf h]
    exact (hw.eq_withSign_of_inf h).symm
  · obtain ⟨m, e, hread, hval, hm⟩ := hw.read_of_fin h
    rw [hread, Fmt.write]
    by_cases h0 : m = 0
    · rw [h0, f.round_zero]
      exact (hw.eq_withSign_of_zero (hm.1 h0)).symm
    · have hmag : f.mag (f.abs w) = m * 2 ^ e := by
        rw [Fmt.val, unitsVal] at hval
        by_cases hneg : f.neg w <;> simpa [hneg] using hval
      rw [f.round_of_mag hp r _ h0 h hmag]
      exact hw.eq_withSign.symm

/-- A binary32 code with its sign reversed, the canonical NaN for a NaN: the second operand of a difference (R70, R269). -/
def reversed (w : Nat) : Nat := if fmt32.isNan w then 0x7FC00000 else if w < 2 ^ 31 then w + 2 ^ 31 else w - 2 ^ 31
theorem reversed_of_nan {w : Nat} (h : fmt32.isNan w) : reversed w = fmt32.nanBits := if_pos h
theorem reversed_of_not_nan {w : Nat} (h : ¬fmt32.isNan w) : reversed w = fmt32.flip w := if_neg h

/-- The negation of the ray tests reverses the sign. -/
theorem rNeg_eq {w : Nat} (hw : fmt32.Code w) : rNeg w = reversed w := by
  rw [rNeg]
  by_cases h : fmt32.isNan w
  · rw [hw.read_of_nan h, reversed_of_nan h]
    rfl
  · rw [← hw.read_flip, reversed_of_not_nan h]
    refine hw.flip.write_read fmt32_pos.1 .rn ?_
    rwa [Fmt.isNan, fmt32.abs_flip]

section
variable {a b c : Nat} (ha : fmt32.Code a) (hb : fmt32.Code b)
theorem code_rSub : fmt32.Code (rSub a b) := Fmt.code_sub fmt32_pos.1 ..
theorem code_rMul : fmt32.Code (rMul a b) := Fmt.code_mul fmt32_pos.1 ..
theorem code_rFma : fmt32.Code (rFma a b c) := Fmt.code_fma fmt32_pos.1 ..
theorem code_rNeg : fmt32.Code (rNeg a) := Fmt.code_write fmt32_pos.1 ..
theorem code_rAdd : fmt32.Code (rAdd a b) := Fmt.code_add fmt32_pos.1 ..
include ha hb
/-- A difference is the sum with the reversed second operand. -/
theorem rSub_spec : fmt32.IsSum .rn a (reversed b) (rSub a b) := by
  have hdiff := fmt32.difference_spec (r := .rn) fmt32_pos.1 fmt32_pos.2 ha hb
  by_cases h : fmt32.isNan b
  · have hnan : fmt32.isNan (fmt32.flip b) := by rwa [Fmt.isNan, fmt32.abs_flip]
    have hsub : rSub a b = fmt32.write .rn (FVal.add .rn (fmt32.read a) (fmt32.read fmt32.nanBits)) := by
      rw [(Fmt.code_nanBits fmt32_pos.1).read_of_nan (by decide), FVal.add_nan]
      exact hdiff.1 (.inr hnan)
    rw [reversed_of_nan h, hsub]
    exact fmt32.sum_spec fmt32_pos.1 fmt32_pos.2 ha (Fmt.code_nanBits fmt32_pos.1)
  · rw [reversed_of_not_nan h]
    exact hdiff
theorem rAdd_spec : fmt32.IsSum .rn a b (rAdd a b) := fmt32.sum_spec fmt32_pos.1 fmt32_pos.2 ha hb
theorem rMul_spec : fmt32.IsProduct .rn a b (rMul a b) := fmt32.product_spec fmt32_pos.1 fmt32_pos.2 ha hb
theorem rFma_spec (hc : fmt32.Code c) : fmt32.IsFused .rn a b c (rFma a b c) := fmt32.fused_spec fmt32_pos.1 fmt32_pos.2 ha hb hc
end

section
variable {f : Fmt} {w v : Nat} (hw : f.Code w) (hv : f.Code v)
include hw hv
theorem Fmt.Code.le_iff : f.le w v = true ↔
    ¬f.isNan w ∧ ¬f.isNan v ∧ (if f.neg w then -(f.abs w : Int) else f.abs w) ≤ if f.neg v then -(f.abs v : Int) else f.abs v := by
  rw [Fmt.le, hw.cmpKey_eq, hv.cmpKey_eq, Bool.and_eq_true, Bool.and_eq_true, Bool.not_eq_true', Bool.not_eq_true', ← hw.isNaN_iff, ← hv.isNaN_iff,
    Bool.not_eq_true, Bool.not_eq_true, decide_eq_true_eq, and_assoc]
end

theorem Fmt.Code.eq_bits_zero_iff {a : Nat} (ha : fmt32.Code a) : fmt32.eq a 0 = true ↔ fmt32.isZero a := by
  obtain ⟨hnan0, hkey0⟩ : fmt32.isNaN 0 = false ∧ fmt32.cmpKey 0 = 0 := by decide
  have hnan (hz : fmt32.abs a = 0) : fmt32.isNaN a = false := by
    rw [← Bool.not_eq_true, ha.isNaN_iff, Fmt.isNan, hz]
    exact Nat.not_lt_zero _
  have hkey : fmt32.cmpKey a = 0 ↔ fmt32.abs a = 0 := by
    rw [ha.cmpKey_eq]
    split <;> omega
  rw [Fmt.eq, hnan0, hkey0, Bool.and_eq_true, Bool.and_eq_true, beq_iff_eq, hkey]
  exact ⟨fun h => h.2, fun hz => ⟨⟨by rw [hnan hz]; rfl, rfl⟩, hz⟩⟩

/-- Of a number other than zero, being below or above zero is a matter of its sign. -/
theorem Fmt.Code.lt_zero_iff {a : Nat} (ha : fmt32.Code a) (hnan : ¬fmt32.isNan a) (hz : ¬fmt32.isZero a) :
    (fmt32.lt a 0 = true ↔ fmt32.neg a) ∧ (fmt32.lt 0 a = true ↔ ¬fmt32.neg a) := by
  have h0 : fmt32.Code 0 := fmt32_code_word 0
  obtain ⟨hnan0, hneg0, habs0⟩ : ¬fmt32.isNan 0 ∧ ¬fmt32.neg 0 ∧ fmt32.abs 0 = 0 := by decide
  have habs : 0 < fmt32.abs a := Nat.pos_of_ne_zero hz
  rw [ha.lt_iff h0, h0.lt_iff ha, if_neg hneg0, habs0]
  by_cases hneg : fmt32.neg a
  · simp only [hneg, hnan, hnan0, if_true, not_false_iff, true_and, not_true, iff_true, iff_false]
    omega
  · simp only [hneg, hnan, hnan0, if_false, not_false_iff, true_and, iff_true, iff_false]
    omega

/-- The triangles RTRI misses by their determinant (R271). -/
theorem missed_iff {det : Nat} {cull : Fin 3} (hdet : fmt32.Code det) :
    (fmt32.eq det 0 || fmt32.isNaN det || (cull.val = 1 && fmt32.lt det 0 || cull.val = 2 && fmt32.lt 0 det)) = true
      ↔ fmt32.isZero det ∨ fmt32.isNan det ∨ (cull = 1 ∧ fmt32.neg det) ∨ (cull = 2 ∧ ¬fmt32.neg det) := by
  have hcull (k : Fin 3) : cull.val = k.val ↔ cull = k := Fin.val_inj
  simp only [Bool.or_eq_true, Bool.and_eq_true, decide_eq_true_eq, hdet.eq_bits_zero_iff, hdet.isNaN_iff, or_assoc]
  by_cases hz : fmt32.isZero det
  · exact iff_of_true (.inl hz) (.inl hz)
  by_cases hnan : fmt32.isNan det
  · exact iff_of_true (.inr (.inl hnan)) (.inr (.inl hnan))
  rw [(hdet.lt_zero_iff hnan hz).1, (hdet.lt_zero_iff hnan hz).2, ← hcull 1, ← hcull 2]
  rfl

/-- The two bounds of a slab, the near one and the far one (R269). -/
def slabBounds (lo hi origin inverse : Nat) : Nat × Nat :=
  let p := rMul (rSub lo origin) inverse
  let q := rMul (rSub hi origin) inverse
  (if fmt32.isNaN (fmt32.minBits p q) then 0xFF800000 else fmt32.minBits p q, if fmt32.isNaN (fmt32.maxBits p q) then 0x7F800000 else fmt32.maxBits p q)
theorem boxTest_eq (a b : Nat → Nat) :
    let bound (ax : Nat) := slabBounds (b ax) (b (3 + ax)) (a ax) (a (3 + ax))
    let near := fmt32.maxBits (fmt32.maxBits (fmt32.maxBits (a 6) (bound 0).1) (bound 1).1) (bound 2).1
    let far := fmt32.minBits (fmt32.minBits (fmt32.minBits (a 7) (bound 0).2) (bound 1).2) (bound 2).2
    boxTest a b = (near, far, fmt32.le near far) := rfl
theorem code_slabBounds (lo hi origin inverse : Nat) :
    fmt32.Code (slabBounds lo hi origin inverse).1 ∧ fmt32.Code (slabBounds lo hi origin inverse).2 := by
  have hinf : fmt32.Code 0xFF800000 ∧ fmt32.Code 0x7F800000 := ⟨fmt32_code_word 0xFF800000, fmt32_code_word 0x7F800000⟩
  refine ⟨?_, ?_⟩
  · dsimp only [slabBounds]
    split
    · exact hinf.1
    · exact Fmt.code_minBits fmt32_pos.1 code_rMul code_rMul
  · dsimp only [slabBounds]
    split
    · exact hinf.2
    · exact Fmt.code_maxBits fmt32_pos.1 code_rMul code_rMul

theorem forall_lt_three {P : Nat → Prop} (h0 : P 0) (h1 : P 1) (h2 : P 2) : ∀ k < 3, P k
  | 0, _ => h0
  | 1, _ => h1
  | 2, _ => h2

/-- A component of a triple. -/
def component (p : Nat × Nat × Nat) : Nat → Nat
  | 0 => p.1
  | 1 => p.2.1
  | _ => p.2.2

/-- Three words of a group. -/
def triple (f : Nat → Nat) (n : Nat) : Nat × Nat × Nat := (f n, f (n + 1), f (n + 2))
theorem code_triple {f : Nat → Nat} (hf : ∀ k, fmt32.Code (f k)) (n : Nat) : ∀ k, fmt32.Code (component (triple f n) k)
  | 0 | 1 | _ + 2 => hf _
/-- The triangle test from the vectors it computes. -/
theorem triTest_eq (cull : Nat) {a b : Nat → Nat} {e1 e2 pv tv qv : Nat × Nat × Nat} {det : Nat} (h1 : rSub3 (triple b 3) (triple b 0) = e1)
    (h2 : rSub3 (triple b 6) (triple b 0) = e2) (hpv : rCross (triple a 3) e2 = pv) (htv : rSub3 (triple a 0) (triple b 0) = tv)
    (hqv : rCross tv e1 = qv) (hdet : rDot e1 pv = det) :
    let inv := fmt32.div .rn 0x3F800000 det
    let u := rMul (rDot tv pv) inv
    let v := rMul (rDot (triple a 3) qv) inv
    let t := rMul (rDot e2 qv) inv
    triTest cull a b = if (fmt32.eq det 0 || fmt32.isNaN det || (cull = 1 && fmt32.lt det 0 || cull = 2 && fmt32.lt 0 det)) = true then
        (fmt32.nanBits, fmt32.nanBits, fmt32.nanBits, false)
      else (t, u, v, fmt32.le 0 u && fmt32.le 0 v && fmt32.le (rAdd u v) 0x3F800000 && fmt32.le (a 6) t && fmt32.le t (a 7)) := by
  subst h1 h2 hpv htv hqv hdet
  rfl
theorem code_rSub3 (p q : Nat × Nat × Nat) : ∀ k, fmt32.Code (component (rSub3 p q) k)
  | 0 | 1 | _ + 2 => code_rSub
theorem code_rCross (p q : Nat × Nat × Nat) : ∀ k, fmt32.Code (component (rCross p q) k)
  | 0 | 1 | _ + 2 => code_rFma

section
variable {g : Guard} {pd : Fin 8} {d : Fin 192} {a b : Reg} {s : State} {c : Site}
theorem exec_rbox_group (h : Starts (.rbox g pd d a b) s c) :
    let hit (l : Nat) := boxTest (c.view.groupAt l a) (c.view.groupAt l b)
    exec (.rbox g pd d a b) s = .next (s.after c (.rbox g pd d a b)
      ((c.view.putGroup d.val (c.view.active g) fun l => [ofBits (hit l).1, ofBits (hit l).2.1]).putPred pd (c.view.active g) fun l => (hit l).2.2)).reap := by
  rw [exec_rbox, execRbox, alu_of h.1 h.2]
theorem exec_rtri_group {cull : Fin 3} (h : Starts (.rtri g pd cull d a b) s c) :
    let hit (l : Nat) := triTest cull.val (c.view.groupAt l a) (c.view.groupAt l b)
    exec (.rtri g pd cull d a b) s = .next (s.after c (.rtri g pd cull d a b)
      ((c.view.putGroup d.val (c.view.active g) fun l => [ofBits (hit l).1, ofBits (hit l).2.1, ofBits (hit l).2.2.1]).putPred pd (c.view.active g)
        fun l => (hit l).2.2.2)).reap := by
  rw [exec_rtri, execRtri, alu_of h.1 h.2]
end

end Sys2Proof.Machine

namespace Sys2Proof
open Machine

/-- Settles O17: each step is one rounded operation on codes, and the group and the predicate are written in the active lanes. -/
theorem rayTests : Obligations.RayTests := by
  unfold Obligations.RayTests
  intro s c g pd d a b v f ray obj minus diff prod fused least most rank le slab box cr cross dot tri group
  have hray (l k : Nat) : fmt32.Code (ray l k) := fmt32_code_word _
  have hobj (l k : Nat) : fmt32.Code (obj l k) := fmt32_code_word _
  have hdiff {x y : Nat} (hx : fmt32.Code x) (hy : fmt32.Code y) : diff x y (rSub x y) := rSub_spec hx hy
  have hle {x y : Nat} (hx : fmt32.Code x) (hy : fmt32.Code y) : fmt32.le x y = true ↔ le x y := hx.le_iff hy
  have hcr (x y z u : Nat) (hx : fmt32.Code x) (hy : fmt32.Code y) (hz : fmt32.Code z) (hu : fmt32.Code u) : cr x y z u (rCross1 x y z u) := by
    refine ⟨rMul z u, rMul_spec hz hu, ?_⟩
    show fmt32.IsFused .rn x y (reversed (rMul z u)) (rFma x y (rNeg (rMul z u)))
    rw [← rNeg_eq code_rMul]
    exact rFma_spec hx hy code_rNeg
  have hcross {p q : Nat × Nat × Nat} (hp : ∀ k, fmt32.Code (component p k)) (hq : ∀ k, fmt32.Code (component q k)) :
      cross (component p) (component q) (component (rCross p q)) :=
    ⟨hcr _ _ _ _ (hp 1) (hq 2) (hp 2) (hq 1), hcr _ _ _ _ (hp 2) (hq 0) (hp 0) (hq 2), hcr _ _ _ _ (hp 0) (hq 1) (hp 1) (hq 0)⟩
  have hdot {p q : Nat × Nat × Nat} (hp : ∀ k, fmt32.Code (component p k)) (hq : ∀ k, fmt32.Code (component q k)) :
      dot (component p) (component q) (rDot p q) :=
    ⟨_, _, rMul_spec (hp 0) (hq 0), rFma_spec (hp 1) (hq 1) code_rMul, rFma_spec (hp 2) (hq 2) code_rFma⟩
  have hsub (p q : Nat × Nat × Nat) (hp : ∀ k, fmt32.Code (component p k)) (hq : ∀ k, fmt32.Code (component q k)) (k : Nat) :
      diff (component p k) (component q k) (component (rSub3 p q) k) := by
    rcases k with _ | _ | k
    · exact hdiff (hp 0) (hq 0)
    · exact hdiff (hp 1) (hq 1)
    · exact hdiff (hp 2) (hq 2)
  have hslab (l ax : Nat) : slab l ax (slabBounds (obj l ax) (obj l (3 + ax)) (ray l ax) (ray l (3 + ax))).1
      (slabBounds (obj l ax) (obj l (3 + ax)) (ray l ax) (ray l (3 + ax))).2 := by
    refine ⟨_, _, _, _, _, _, hdiff (hobj ..) (hray ..), rMul_spec code_rSub (hray ..), hdiff (hobj ..) (hray ..), rMul_spec code_rSub (hray ..),
      Fmt.minBits_spec code_rMul code_rMul, Fmt.maxBits_spec code_rMul code_rMul, ?_, ?_⟩
    · exact if_congr (Fmt.code_minBits fmt32_pos.1 code_rMul code_rMul).isNaN_iff rfl rfl
    · exact if_congr (Fmt.code_maxBits fmt32_pos.1 code_rMul code_rMul).isNaN_iff rfl rfl
  have hregs {n : Nat} {w : Nat → List Word} (p : Nat → Bool) (hw : ∀ l, (w l).length = n) :
      let r := (v.putGroup d.val (v.active g) w).putPred pd (v.active g) p
      group n r ∧ ∀ l ∈ v.active g, (∀ j < n, r.vec (d.val + j) l = (w l).getD j 0) ∧ (pd.val ≠ 7 → r.predAt pd l = p l) := by
    obtain ⟨hvec, hbut⟩ := View.putGroup_writes v g d hw
    refine ⟨Regs.but_putPred hbut, fun l hl => ⟨fun j hj => (Regs.vec_putPred ..).trans (hvec l hl j hj), fun hpd => ?_⟩⟩
    exact (Regs.predAt_putPred _ pd pd _ _ l fun l => View.active_lt).trans (if_pos ⟨rfl, hpd, hl⟩)
  have hbox (l : Nat) : ∃ near far hit, boxTest (ray l) (obj l) = (near, far, hit) ∧ fmt32.Code near ∧ fmt32.Code far ∧ box l near far
      ∧ (hit = true ↔ le near far) := by
    have hcode (ax : Nat) := code_slabBounds (obj l ax) (obj l (3 + ax)) (ray l ax) (ray l (3 + ax))
    have hmax {x y : Nat} (hx : fmt32.Code x) (hy : fmt32.Code y) := Fmt.code_maxBits fmt32_pos.1 hx hy
    have hmin {x y : Nat} (hx : fmt32.Code x) (hy : fmt32.Code y) := Fmt.code_minBits fmt32_pos.1 hx hy
    have hn0 := hmax (hray l 6) (hcode 0).1
    have hn1 := hmax hn0 (hcode 1).1
    have hf0 := hmin (hray l 7) (hcode 0).2
    have hf1 := hmin hf0 (hcode 1).2
    have hn2 := hmax hn1 (hcode 2).1
    have hf2 := hmin hf1 (hcode 2).2
    exact ⟨_, _, _, boxTest_eq .., hn2, hf2,
      ⟨_, _, _, _, _, _, fun ax _ => hslab l ax, Fmt.maxBits_spec (hray l 6) (hcode 0).1, Fmt.maxBits_spec hn0 (hcode 1).1, Fmt.maxBits_spec hn1 (hcode 2).1,
        Fmt.minBits_spec (hray l 7) (hcode 0).2, Fmt.minBits_spec hf0 (hcode 1).2, Fmt.minBits_spec hf1 (hcode 2).2⟩, hle hn2 hf2⟩
  have htri (cull : Fin 3) (l : Nat) : ∃ t u w hit, triTest cull.val (ray l) (obj l) = (t, u, w, hit) ∧ fmt32.Code t ∧ fmt32.Code u ∧ fmt32.Code w
      ∧ tri cull l t u w (hit = true) := by
    have hd := code_triple (hray l) 3
    have hp0 := code_triple (hobj l) 0
    obtain ⟨e1, h1⟩ : ∃ e, rSub3 (triple (obj l) 3) (triple (obj l) 0) = e := ⟨_, rfl⟩
    obtain ⟨e2, h2⟩ : ∃ e, rSub3 (triple (obj l) 6) (triple (obj l) 0) = e := ⟨_, rfl⟩
    obtain ⟨pv, hpv⟩ : ∃ e, rCross (triple (ray l) 3) e2 = e := ⟨_, rfl⟩
    obtain ⟨tv, htv⟩ : ∃ e, rSub3 (triple (ray l) 0) (triple (obj l) 0) = e := ⟨_, rfl⟩
    obtain ⟨qv, hqv⟩ : ∃ e, rCross tv e1 = e := ⟨_, rfl⟩
    obtain ⟨det, hdet⟩ : ∃ e, rDot e1 pv = e := ⟨_, rfl⟩
    have hc1 : ∀ k, fmt32.Code (component e1 k) := h1 ▸ code_rSub3 _ _
    have hc2 : ∀ k, fmt32.Code (component e2 k) := h2 ▸ code_rSub3 _ _
    have hcp : ∀ k, fmt32.Code (component pv k) := hpv ▸ code_rCross _ _
    have hct : ∀ k, fmt32.Code (component tv k) := htv ▸ code_rSub3 _ _
    have hcq : ∀ k, fmt32.Code (component qv k) := hqv ▸ code_rCross _ _
    have hcd : fmt32.Code det := hdet ▸ code_rFma
    have hs1 := h1 ▸ hsub _ _ (code_triple (hobj l) 3) hp0
    have hs2 := h2 ▸ hsub _ _ (code_triple (hobj l) 6) hp0
    have hst := htv ▸ hsub _ _ (code_triple (hray l) 0) hp0
    have hp1 := forall_lt_three (P := fun k => diff (obj l (3 + k)) (obj l k) (component e1 k)) (hs1 0) (hs1 1) (hs1 2)
    have hp2 := forall_lt_three (P := fun k => diff (obj l (6 + k)) (obj l k) (component e2 k)) (hs2 0) (hs2 1) (hs2 2)
    have hpt := forall_lt_three (P := fun k => diff (ray l k) (obj l k) (component tv k)) (hst 0) (hst 1) (hst 2)
    have hcpv := hpv ▸ hcross hd hc2
    have hdet' := hdet ▸ hdot hc1 hcp
    have hzero : fmt32.Code 0 := fmt32_code_word 0
    have hone : fmt32.Code 0x3F800000 := fmt32_code_word 0x3F800000
    have htest := triTest_eq cull.val h1 h2 hpv htv hqv hdet
    by_cases hmiss : fmt32.isZero det ∨ fmt32.isNan det ∨ (cull = 1 ∧ fmt32.neg det) ∨ (cull = 2 ∧ ¬fmt32.neg det)
    · exact ⟨_, _, _, _, htest.trans (if_pos ((missed_iff hcd).2 hmiss)), Fmt.code_nanBits fmt32_pos.1, Fmt.code_nanBits fmt32_pos.1,
        Fmt.code_nanBits fmt32_pos.1, _, _, _, det, hp1, hp2, hcpv, hdet', (if_pos hmiss).mpr ⟨rfl, rfl, rfl, Bool.false_ne_true⟩⟩
    · refine ⟨_, _, _, _, htest.trans (if_neg (mt (missed_iff hcd).1 hmiss)), code_rMul, code_rMul, code_rMul, _, _, _, det, hp1, hp2, hcpv, hdet',
        (if_neg hmiss).mpr ⟨_, _, _, _, _, _, _, fmt32.quotient_spec fmt32_pos.1 fmt32_pos.2 hone hcd, hpt, hdot hct hcp, rMul_spec code_rFma (Fmt.code_div fmt32_pos.1 ..),
          hqv ▸ hcross hct hc1, hdot hd hcq, rMul_spec code_rFma (Fmt.code_div fmt32_pos.1 ..), hdot hc2 hcq, rMul_spec code_rFma (Fmt.code_div fmt32_pos.1 ..),
          rAdd_spec code_rMul code_rMul, ?_⟩⟩
      simp only [Bool.and_eq_true, and_assoc, hle hzero code_rMul, hle code_rAdd hone, hle (hray l 6) code_rMul, hle code_rMul (hray l 7)]
  refine ⟨fun h => ?_, fun cull h => ?_⟩
  · obtain ⟨hgroup, hlanes⟩ := hregs (fun l => (boxTest (ray l) (obj l)).2.2) (n := 2)
      (w := fun l => [ofBits (boxTest (ray l) (obj l)).1, ofBits (boxTest (ray l) (obj l)).2.1]) fun l => rfl
    refine ⟨_, exec_rbox_group h, hgroup, fun l hl => ?_⟩
    obtain ⟨near, far, hit, heq, hn, hf, hspec, hhit⟩ := hbox l
    obtain ⟨hvec, hpred⟩ := hlanes l hl
    have h0 := congrArg BitVec.toNat ((hvec 0 (by decide)).trans (congrArg (fun t : Nat × Nat × Bool => ofBits t.1) heq))
    have h1 := congrArg BitVec.toNat ((hvec 1 (by decide)).trans (congrArg (fun t : Nat × Nat × Bool => ofBits t.2.1) heq))
    rw [ofBits_toNat hn, Nat.add_zero] at h0
    rw [ofBits_toNat hf] at h1
    subst h0 h1
    exact ⟨hspec, fun hpd => (Bool.eq_iff_iff.1 ((hpred hpd).trans (congrArg (fun t : Nat × Nat × Bool => t.2.2) heq))).trans hhit⟩
  · obtain ⟨hgroup, hlanes⟩ := hregs (fun l => (triTest cull.val (ray l) (obj l)).2.2.2) (n := 3)
      (w := fun l => [ofBits (triTest cull.val (ray l) (obj l)).1, ofBits (triTest cull.val (ray l) (obj l)).2.1,
        ofBits (triTest cull.val (ray l) (obj l)).2.2.1]) fun l => rfl
    refine ⟨_, exec_rtri_group h, hgroup, fun l hl => ?_⟩
    obtain ⟨t, u, w, hit, heq, ht, hu, hw, hspec⟩ := htri cull l
    obtain ⟨hvec, hpred⟩ := hlanes l hl
    have h0 := congrArg BitVec.toNat ((hvec 0 (by decide)).trans (congrArg (fun t : Nat × Nat × Nat × Bool => ofBits t.1) heq))
    have h1 := congrArg BitVec.toNat ((hvec 1 (by decide)).trans (congrArg (fun t : Nat × Nat × Nat × Bool => ofBits t.2.1) heq))
    have h2 := congrArg BitVec.toNat ((hvec 2 (by decide)).trans (congrArg (fun t : Nat × Nat × Nat × Bool => ofBits t.2.2.1) heq))
    rw [ofBits_toNat ht, Nat.add_zero] at h0
    rw [ofBits_toNat hu] at h1
    rw [ofBits_toNat hw] at h2
    subst h0 h1 h2
    exact ⟨_, hspec, fun hpd => Bool.eq_iff_iff.1 ((hpred hpd).trans (congrArg (fun t : Nat × Nat × Nat × Bool => t.2.2.2) heq))⟩

end Sys2Proof
end


section
/-! The functions of one operand: the reciprocal root, and the results of FEXP2, FLOG2, FSIN and FCOS that the table lists (R249,
R254). -/

namespace Sys2Proof.Machine

/-! ### Codes of integral value -/

section
variable {neg : Bool} {m : Nat} {e n : Int} (h : unitsVal neg m e = n)
include h
/-- Units of at least 1 that make an integer. -/
theorem units_eq_of_nonneg (he : 0 ≤ e) : (if neg then -(((m * 2 ^ e.toNat : Nat)) : Int) else (m * 2 ^ e.toNat : Nat)) = n := by
  have h2 : (2 : Rat) ^ e = 2 ^ e.toNat := by rw [← zpow_natCast, Int.toNat_of_nonneg he]
  rw [unitsVal, h2] at h
  have : ((if neg then -(((m * 2 ^ e.toNat : Nat)) : Int) else (m * 2 ^ e.toNat : Nat) : Int) : Rat) = n := by
    rw [← h]
    cases neg <;> push_cast <;> simp
  exact_mod_cast this
/-- Fractional units that make an integer. -/
theorem units_eq_of_neg (he : e < 0) : (if neg then -(m : Int) else m) = n * 2 ^ (-e).toNat := by
  have h2 : (2 : Rat) ^ e = (2 ^ (-e).toNat)⁻¹ := by rw [← zpow_natCast, Int.toNat_of_nonneg (by omega), zpow_neg, inv_inv]
  rw [unitsVal, h2, mul_inv_eq_iff_eq_mul₀ (by positivity)] at h
  have : ((if neg then -(m : Int) else m : Int) : Rat) = n * 2 ^ (-e).toNat := by
    rw [← h]
    cases neg <;> simp
  exact_mod_cast this
theorem units_natAbs_of_nonneg (he : 0 ≤ e) : m * 2 ^ e.toNat = n.natAbs := by
  have := congrArg Int.natAbs (units_eq_of_nonneg h he)
  rw [← this]
  cases neg <;> simp [Int.natAbs_mul]
theorem units_natAbs_of_neg (he : e < 0) : m = n.natAbs * 2 ^ (-e).toNat := by
  have := congrArg Int.natAbs (units_eq_of_neg h he)
  rw [Int.natAbs_mul, Int.natAbs_pow] at this
  rw [show (2 : Nat) = (2 : Int).natAbs from rfl, ← this]
  cases neg <;> simp
end

/-! ### Powers of two (R249) -/

theorem fmt32_round_pow (n : Int) : fmt32.Rounds .rn (2 ^ n) (fmt32.round .rn false 1 n false) := by
  have := fmt32.round_units (r := .rn) (neg := false) (m := 1) (e := n) fmt32_pos.1 fmt32_pos.2 one_ne_zero
  rwa [unitsVal, if_neg Bool.false_ne_true, Nat.cast_one, one_mul] at this

section
variable {n : Int} {w : Nat} (h : fmt32.Rounds .rn (2 ^ n) w)
include h
/-- A power of two that is a code's value. -/
theorem fmt32_rounds_pow_val (h1 : -149 ≤ n) (h2 : n ≤ 127) : fmt32.val w = 2 ^ n := by
  obtain ⟨c, hc⟩ := Fmt.exists_mag_eq (f := fmt32) (m := 1) (e := n) one_pos (by decide) h1
  rw [Nat.cast_one, one_mul] at hc
  have hlt : c < fmt32.infBits := fmt32_lt_infBits (hc ▸ zpow_lt_zpow_right₀ one_lt_two (by omega : n < 128))
  have hw := h.1 (by positivity)
  rw [← hc] at hw
  obtain rfl := hw.eq_of_mag hlt
  have := Fmt.val_withSign (f := fmt32) (neg := false) (hlt.trans fmt32.infBits_lt_signBit) (m := 1) (e := n) (by rw [hc, Nat.cast_one, one_mul])
  rwa [Fmt.withSign, if_neg Bool.false_ne_true, Nat.add_zero, unitsVal, if_neg Bool.false_ne_true, Nat.cast_one, one_mul] at this
/-- A power of two beyond the finite values. -/
theorem fmt32_rounds_pow_inf (h1 : 127 < n) : w = 0x7F800000 := by
  obtain ⟨hle, -, hhi⟩ := Fmt.nearest_rn_iff.1 (h.1 (by positivity))
  by_contra hne
  have hw : w < fmt32.infBits := lt_of_le_of_ne hle hne
  have hbig : (2 : Rat) ^ 128 ≤ 2 ^ n := by exact_mod_cast zpow_le_zpow_right₀ (one_le_two (α := Rat)) (by omega : (128 : Int) ≤ n)
  have hsmall : fmt32.half w < 2 ^ 128 := by
    have h1 := (fmt32.mag_strictMono hw).trans_eq fmt32_mag_infBits
    have h2 := (fmt32.mag_strictMono.monotone (Nat.succ_le_of_lt hw)).trans_eq fmt32_mag_infBits
    rw [Fmt.half]
    linarith
  rcases hhi hw with h | ⟨h, -⟩ <;> linarith
/-- A power of two below every code. -/
theorem fmt32_rounds_pow_zero (h1 : n < -149) : w = 0 := by
  obtain ⟨hle, hlo, -⟩ := Fmt.nearest_rn_iff.1 (h.1 (by positivity))
  by_contra hne
  have hm0 : fmt32.mag 0 = 0 := by norm_num [Fmt.mag, fmt32]
  have hm1 : fmt32.mag 1 = 2 * 2 ^ (-150 : Int) := by norm_num [Fmt.mag, fmt32]
  have hsmall : (2 : Rat) ^ n ≤ 2 ^ (-150 : Int) := zpow_le_zpow_right₀ one_le_two (by omega)
  have hpos : (0 : Rat) < 2 ^ (-150 : Int) := by positivity
  generalize (2 : Rat) ^ (-150 : Int) = x at *
  have hw0 := fmt32.mag_strictMono.monotone (Nat.zero_le (w - 1))
  have hw1 := fmt32.mag_strictMono.monotone (by omega : 1 ≤ w - 1 + 1)
  rcases hlo (Nat.pos_of_ne_zero hne) with h | ⟨h, heven⟩
  · rw [Fmt.half] at h
    linarith
  · have := fmt32.mag_strictMono.monotone (by omega : 1 ≤ w - 1)
    rw [Fmt.half] at h
    linarith
end

/-! ### The functions of exact operands (R254) -/

/-- FEXP2 of an integral value is the power of two rounded. -/
theorem fexp2Bits_of_int {a m : Nat} {neg : Bool} {e n : Int} (hra : fmt32.read a = .fin neg m e) (hval : unitsVal neg m e = n) :
    fmt32.Rounds .rn (2 ^ n) (fexp2Bits a) := by
  have hpow := fmt32_round_pow n
  by_cases he : 0 ≤ e ∨ m = 0
  · have hk : (if neg then -(((m * 2 ^ e.toNat : Nat)) : Int) else (m * 2 ^ e.toNat : Nat)) = n := by
      rcases he with he | rfl
      · exact units_eq_of_nonneg hval he
      · rw [unitsVal_eq_zero_iff.2 rfl] at hval
        rw [Nat.zero_mul, Nat.cast_zero, neg_zero, ite_self]
        exact_mod_cast hval
    have hbits : fexp2Bits a = if m * 2 ^ e.toNat ≥ 256 then (if neg then 0 else fmt32.infBits) else fmt32.round .rn false 1 n false := by
      rw [← hk, fexp2Bits, hra]
      simp only [Bool.or_eq_true, decide_eq_true_eq, beq_iff_eq, he, if_true]
    rw [hbits]
    clear hbits
    generalize m * 2 ^ e.toNat = k at hk
    split
    · next h256 =>
      cases neg
      · rw [if_neg Bool.false_ne_true] at hk
        rwa [fmt32_rounds_pow_inf hpow (by omega)] at hpow
      · rw [if_pos rfl] at hk
        rwa [fmt32_rounds_pow_zero hpow (by omega)] at hpow
    · exact hpow
  · obtain ⟨he, hm⟩ := not_or.1 he
    have hx := units_eq_of_neg hval (not_le.1 he)
    have hs : (2 : Int) ^ (-e).toNat ≠ 0 := by positivity
    have hbits : fexp2Bits a = fmt32.round .rn false 1 n false := by
      rw [fexp2Bits, hra]
      simp only [Bool.or_eq_true, decide_eq_true_eq, beq_iff_eq, he, hm, or_self, if_false, hx, Int.mul_ediv_cancel _ hs, Int.mul_emod_left, Int.toNat_zero,
        if_true]
    rwa [hbits]

theorem pow_succ_succ_two (s : Nat) : 2 ^ (s + 2) = 2 ^ s * 4 := pow_add 2 s 2

/-- FSIN of an integral value is a zero of the value's sign. -/
theorem fsinBits_of_int {a m : Nat} {neg : Bool} {e n : Int} (hra : fmt32.read a = .fin neg m e) (hval : unitsVal neg m e = n) :
    fsinBits a = fmt32.withSign neg 0 := by
  rw [fsinBits, hra]
  by_cases he : 0 ≤ e
  · simp only [he, if_true]
  · have hx : m * 4 % 2 ^ ((-e).toNat + 2) = 0 := by
      rw [units_natAbs_of_neg hval (not_le.1 he), mul_assoc, ← pow_succ_succ_two]
      exact Nat.mul_mod_left ..
    simp only [he, if_false, hx, beq_self_eq_true, if_true]

/-- The bounds of cos 0 round to 1. -/
theorem roundBounds_cos_zero (neg : Bool) (s : Nat) :
    roundBounds neg 0 (fun P => cosBounds P 0 s) (precisions 32) = fmt32.withSign neg 0x3F800000 := by
  have hcos (P : Nat) : cosBounds P 0 s = cosBounds P 0 0 := by simp only [cosBounds, Nat.mul_zero, Nat.zero_div]
  simp only [hcos]
  cases neg <;> decide +kernel

/-- FCOS of an integral value is 1 with the sign of its parity. -/
theorem fcosBits_of_int {a m : Nat} {neg : Bool} {e n : Int} (hra : fmt32.read a = .fin neg m e) (hval : unitsVal neg m e = n) :
    fcosBits a = if n % 2 = 0 then 0x3F800000 else 0xBF800000 := by
  have hsign : fmt32.withSign (n.natAbs % 2 == 1) 0x3F800000 = if n % 2 = 0 then 0x3F800000 else 0xBF800000 := by
    rcases Int.emod_two_eq n with h | h
    · rw [if_pos h, show n.natAbs % 2 = 0 by omega]
      rfl
    · rw [if_neg (by omega), show n.natAbs % 2 = 1 by omega]
      rfl
  rw [fcosBits, hra, ← hsign]
  by_cases he : 0 ≤ e
  · simp only [he, if_true, units_natAbs_of_nonneg hval he, fmt32_one]
  · have hS : 0 < 2 ^ ((-e).toNat + 1) := Nat.two_pow_pos _
    have hpow : 2 ^ ((-e).toNat + 2) = 2 * 2 ^ ((-e).toNat + 1) := pow_succ' ..
    have hx : m * 4 = n.natAbs * (2 * 2 ^ ((-e).toNat + 1)) := by
      rw [units_natAbs_of_neg hval (not_le.1 he), mul_assoc, ← hpow, ← pow_succ_succ_two]
    have hquarter (odd : Bool) : sinQuarter odd (2 ^ ((-e).toNat + 1)) ((-e).toNat + 2) = fmt32.withSign odd 0x3F800000 := by
      rw [sinQuarter, if_neg (by simp), hpow, if_neg (by omega), Nat.mul_div_cancel_left _ two_pos, Nat.sub_self, roundBounds_cos_zero]
    simp only [he, if_false, hx, hpow, Nat.mul_mod_left, Nat.mul_div_cancel _ (Nat.mul_pos two_pos hS), Nat.mul_div_cancel_left _ two_pos, hS,
      if_true, Nat.sub_zero, hquarter, beq_iff_eq, hS.ne]

/-- FCOS of an integer and a half is a zero. -/
theorem fcosBits_of_half {a m : Nat} {neg : Bool} {e n : Int} (hra : fmt32.read a = .fin neg m e) (hval : unitsVal neg m e = n + 1 / 2) :
    fcosBits a = 0 := by
  have htwice : unitsVal neg m (e + 1) = (2 * n + 1 : Int) := by
    rw [unitsVal, zpow_add_one₀ two_ne_zero, ← mul_assoc, ← unitsVal, hval]
    push_cast
    ring
  have he : ¬0 ≤ e := fun he => by
    have := units_natAbs_of_nonneg htwice (by omega)
    rw [show (e + 1).toNat = e.toNat + 1 by omega, pow_succ, ← mul_assoc] at this
    omega
  obtain ⟨t, ht⟩ : ∃ t, (-e).toNat = t + 1 := ⟨(-e).toNat - 1, by omega⟩
  have hm : m = (2 * n + 1).natAbs * 2 ^ t := by
    rcases (show e + 1 ≤ 0 by omega).lt_or_eq with h | h
    · rw [units_natAbs_of_neg htwice h, show (-(e + 1)).toNat = t by omega]
    · have := units_natAbs_of_nonneg htwice h.ge
      rw [h, Int.toNat_zero, pow_zero, mul_one] at this
      rw [this, show t = 0 by omega, pow_zero, mul_one]
  have hr : m * 4 % 2 ^ (t + 1 + 2) = 2 ^ (t + 1 + 2) / 2 := by
    have hS : 0 < 2 ^ t := Nat.two_pow_pos _
    rw [hm, mul_assoc, show 2 ^ (t + 1 + 2) = 2 * (2 ^ t * 4) by rw [pow_succ_succ_two, pow_succ]; ring, Nat.mul_div_cancel_left _ two_pos,
      Nat.mul_mod_mul_right, show (2 * n + 1).natAbs % 2 = 1 by omega, one_mul]
  rw [fcosBits, hra]
  simp only [he, if_false, ht, hr, beq_self_eq_true, if_true]

/-- A small integer is a code's value. -/
theorem fmt32_val_ofInt {n : Int} (h : n.natAbs ≤ 2 ^ 23) : fmt32.val (fmt32.ofInt .rn n) = n := by
  by_cases h0 : n = 0
  · subst h0
    norm_num [Fmt.val, Fmt.ofInt, Fmt.round, Fmt.withSign, Fmt.mag, Fmt.abs, Fmt.signBit]
  · have hpos : 0 < n.natAbs := Int.natAbs_pos.2 h0
    obtain ⟨c, hc⟩ := Fmt.exists_mag_eq (f := fmt32) (e := 0) hpos h (by decide)
    have hlt : c < fmt32.infBits := by
      refine fmt32_lt_infBits ?_
      rw [hc, zpow_zero, mul_one]
      calc (n.natAbs : Rat) ≤ 2 ^ 23 := by exact_mod_cast h
        _ < 2 ^ 128 := by norm_num
    rw [Fmt.ofInt, Fmt.round_of_mag fmt32_pos.1 .rn _ hpos.ne' hlt hc, Fmt.val_withSign (hlt.trans fmt32.infBits_lt_signBit) hc, unitsVal, zpow_zero, mul_one]
    rcases lt_or_ge n 0 with hn | hn
    · rw [if_pos (decide_eq_true hn), ← Int.cast_natCast, Int.ofNat_natAbs_of_nonpos hn.le]
      push_cast
      ring
    · rw [if_neg (by simpa using hn), ← Int.cast_natCast, Int.natAbs_of_nonneg hn]

theorem bitLen_two_pow (t : Nat) : bitLen (2 ^ t) - 1 = t := by
  rw [bitLen, if_neg (by simp), Nat.log2_two_pow]
  rfl

/-- FLOG2 of a power of two is its exponent. -/
theorem flog2Bits_of_pow {a m : Nat} {e n : Int} (hra : fmt32.read a = .fin false m e) (hval : (m : Rat) * 2 ^ e = 2 ^ n) (h1 : -149 ≤ n) (h2 : n ≤ 127) :
    fmt32.val (flog2Bits a) = n := by
  have hm : (m : Rat) = 2 ^ (n - e) := by rw [zpow_sub₀ two_ne_zero, ← hval, mul_div_cancel_right₀ _ (by positivity)]
  have hne : 0 ≤ n - e := by
    by_contra hlt
    have : (2 : Rat) ^ (n - e) < 2 ^ (0 : Int) := zpow_lt_zpow_right₀ one_lt_two (not_le.1 hlt)
    rw [← hm, zpow_zero] at this
    have h0 : m = 0 := Nat.lt_one_iff.1 (by exact_mod_cast this)
    rw [h0, Nat.cast_zero] at hm
    exact absurd hm (by positivity)
  obtain ⟨t, ht⟩ := Int.eq_ofNat_of_zero_le hne
  rw [ht, zpow_natCast] at hm
  obtain rfl : m = 2 ^ t := by exact_mod_cast hm
  rw [flog2Bits, hra]
  simp only [beq_iff_eq, pow_eq_zero_iff', OfNat.ofNat_ne_zero, false_and, if_false, Bool.false_eq_true, bitLen_two_pow, if_true]
  rw [show e + t = n by omega]
  exact fmt32_val_ofInt (by omega)

/-! ### The codes of the functions -/

theorem code_roundBounds (neg : Bool) (e : Int) (b : Nat → Bounds) (ps : List Nat) : fmt32.Code (roundBounds neg e b ps) := by
  induction ps with
  | nil => exact fmt32_code_word 0
  | cons P ps ih =>
    rw [roundBounds]
    split
    · exact Fmt.code_round ..
    · exact ih

theorem fmt32_code_nan : fmt32.Code fmt32.nanBits := Fmt.code_nanBits fmt32_pos.1
theorem fmt32_code_zero (neg : Bool) : fmt32.Code (fmt32.withSign neg 0) := Fmt.code_withSign neg (Nat.zero_le _)
theorem fmt32_code_inf (neg : Bool) : fmt32.Code (fmt32.withSign neg fmt32.infBits) := Fmt.code_withSign neg le_rfl

theorem code_sinQuarter (neg : Bool) (x s : Nat) : fmt32.Code (sinQuarter neg x s) := by
  unfold sinQuarter
  split
  · exact fmt32_code_zero neg
  · split <;> exact code_roundBounds ..
theorem code_fexp2Bits (a : Nat) : fmt32.Code (fexp2Bits a) := by
  have h0 : fmt32.Code 0 := fmt32_code_zero false
  have hinf : fmt32.Code fmt32.infBits := fmt32_code_inf false
  unfold fexp2Bits
  cases fmt32.read a with
  | nan => exact fmt32_code_nan
  | inf neg => cases neg <;> assumption
  | fin neg m e =>
    dsimp only
    generalize (if neg then -(m : Int) else m) = x
    split
    · split
      · cases neg <;> assumption
      · exact Fmt.code_round ..
    · split
      · exact Fmt.code_round ..
      · exact code_roundBounds ..
theorem code_flog2Bits (a : Nat) : fmt32.Code (flog2Bits a) := by
  unfold flog2Bits
  cases fmt32.read a with
  | nan => exact fmt32_code_nan
  | inf neg => cases neg with
    | true => exact fmt32_code_nan
    | false => exact fmt32_code_inf false
  | fin neg m e =>
    dsimp only
    split
    · exact fmt32_code_inf true
    · split
      · exact fmt32_code_nan
      · split
        · exact Fmt.code_round ..
        · split <;> exact code_roundBounds ..
theorem code_fsinBits (a : Nat) : fmt32.Code (fsinBits a) := by
  unfold fsinBits
  cases fmt32.read a with
  | nan | inf => exact fmt32_code_nan
  | fin neg m e =>
    dsimp only
    split
    · exact fmt32_code_zero neg
    · split
      · exact fmt32_code_zero neg
      · exact code_sinQuarter ..
theorem code_fcosBits (a : Nat) : fmt32.Code (fcosBits a) := by
  unfold fcosBits
  cases fmt32.read a with
  | nan | inf => exact fmt32_code_nan
  | fin neg m e =>
    dsimp only
    split
    · rw [fmt32_one]
      exact Fmt.code_withSign _ (by decide)
    · split
      · exact fmt32_code_zero false
      · split <;> exact code_sinQuarter ..

/-! ### The reciprocal root and the range of exponents -/

theorem fmt32_rsqrt_of_invalid {a : Nat} (ha : fmt32.Code a) (h : fmt32.isNan a ∨ (fmt32.neg a ∧ ¬fmt32.isZero a)) : fmt32.rsqrt a = 0x7FC00000 := by
  rcases fmt32.class_cases a with hc | hc | hc
  · rw [Fmt.rsqrt, ha.read_of_nan hc]
    rfl
  · have hneg := (h.resolve_left hc.not_gt).1
    rw [Fmt.rsqrt, ha.read_of_inf hc, decide_eq_true hneg]
    rfl
  · obtain ⟨hneg, hz⟩ := h.resolve_left hc.not_gt
    obtain ⟨m, e, hread, -, hm⟩ := ha.read_of_fin hc
    rw [Fmt.rsqrt, hread, decide_eq_true hneg]
    simp only [beq_iff_eq, mt hm.1 hz, if_false, if_true]
    rfl

/-- The exponents of the powers of two that finite codes stand for. -/
theorem fmt32_pow_range {a : Nat} {n : Int} (hfin : fmt32.isFin a) (h : fmt32.mag (fmt32.abs a) = 2 ^ n) : -149 ≤ n ∧ n ≤ 127 := by
  have hmag : fmt32.mag 1 = 2 ^ (-149 : Int) := by norm_num [Fmt.mag, fmt32]
  have h0 : 0 < fmt32.abs a := by
    refine Nat.pos_of_ne_zero fun h0 => ?_
    rw [h0, show fmt32.mag 0 = 0 by norm_num [Fmt.mag, fmt32]] at h
    exact absurd h.symm (by positivity)
  have hlo := fmt32.mag_strictMono.monotone (Nat.succ_le_of_lt h0)
  have hhi := fmt32.mag_strictMono hfin
  rw [h, Nat.succ_eq_add_one, zero_add, hmag, zpow_le_zpow_iff_right₀ one_lt_two] at hlo
  rw [h, fmt32_mag_infBits, ← zpow_natCast, zpow_lt_zpow_iff_right₀ one_lt_two] at hhi
  exact ⟨hlo, Int.lt_add_one_iff.1 hhi⟩

end Sys2Proof.Machine

namespace Sys2Proof
open Machine

/-- Settles O12: FRSQ is one rounding of the exact reciprocal root, and the other functions' exact operands are tested before any
bound is taken. -/
theorem floatFunctions : Obligations.FloatFunctions := by
  unfold Obligations.FloatFunctions
  refine ⟨?_, ?_, ?_, ?_, ?_, ?_, ?_, ?_, ?_⟩
  · intro s c g d x f A gives
    have hA (l : Nat) : fmt32.Code (A l) := fmt32_code_word _
    refine ⟨?_, ?_, ?_, ?_, ?_⟩
    · refine fun h => ⟨_, _, exec_alu1 (exec_frsq ..) h, fun l => ?_, View.put32_writes ..⟩
      rw [ofBits_toNat (Fmt.code_rsqrt fmt32_pos.1 _)]
      refine ⟨fmt32_rsqrt_of_invalid (hA l), fun h => ?_, fun h => ?_, fun h => ?_, fun h0 h1 => ?_⟩
      · show fmt32.rsqrt (A l) = 0
        rw [h]
        decide
      · show fmt32.rsqrt (A l) = _
        rw [h]
        decide
      · show fmt32.rsqrt (A l) = _
        rw [h]
        decide
      · obtain ⟨m, e, hra, hva, hm⟩ := Fmt.read_of_pos (f := fmt32) h0 h1
        rw [hva]
        exact Fmt.rsqrt_nearest fmt32_pos.1 fmt32_pos.2 hra hm
    · exact fun h => ⟨_, _, exec_alu1 (exec_fexp2 ..) h, fun l => ofBits_toNat (code_fexp2Bits _), View.put32_writes ..⟩
    · exact fun h => ⟨_, _, exec_alu1 (exec_flog2 ..) h, fun l => ofBits_toNat (code_flog2Bits _), View.put32_writes ..⟩
    · exact fun h => ⟨_, _, exec_alu1 (exec_fsin ..) h, fun l => ofBits_toNat (code_fsinBits _), View.put32_writes ..⟩
    · exact fun h => ⟨_, _, exec_alu1 (exec_fcos ..) h, fun l => ofBits_toNat (code_fcosBits _), View.put32_writes ..⟩
  · intro a ha hnan
    have hread := Fmt.Code.read_of_nan (f := fmt32) ha hnan
    rw [fexp2Bits, flog2Bits, fsinBits, fcosBits, hread]
    exact ⟨rfl, rfl, rfl, rfl⟩
  · rw [fexp2Bits, flog2Bits, fsinBits, fcosBits, show fmt32.read 0xFF800000 = .inf true by decide]
    exact ⟨rfl, rfl, rfl, rfl⟩
  · rw [fexp2Bits, flog2Bits, fsinBits, fcosBits, show fmt32.read 0x7F800000 = .inf false by decide]
    exact ⟨rfl, rfl, rfl, rfl⟩
  · intro a ha
    have hread : ∃ neg, fmt32.read a = .fin neg 0 (-149) ∧ a = fmt32.withSign neg 0 := by
      rcases List.mem_cons.1 ha with rfl | ha
      · exact ⟨false, rfl, rfl⟩
      · exact ⟨true, List.mem_singleton.1 ha ▸ rfl, List.mem_singleton.1 ha⟩
    obtain ⟨neg, hread, hself⟩ := hread
    have hval : unitsVal neg 0 (-149) = (0 : Int) := unitsVal_eq_zero_iff.2 rfl
    refine ⟨?_, ?_, (fsinBits_of_int hread hval).trans hself.symm, fcosBits_of_int hread hval⟩
    · rw [fexp2Bits, hread]
      cases neg <;> exact fmt32_one
    · rw [flog2Bits, hread]
      rfl
  · intro a h1 h2
    have hs : fmt32.signBit = 0x80000000 := by decide
    have hi : fmt32.infBits = 0x7F800000 := by decide
    have habs : fmt32.abs a = a - fmt32.signBit := by
      rw [Fmt.abs, Nat.mod_eq_sub_mod (by omega), Nat.mod_eq_of_lt (by omega)]
    have ha : fmt32.Code a := (by omega : a < 2 ^ 32)
    obtain ⟨m, e, hread, -, hm⟩ := ha.read_of_fin (show fmt32.abs a < _ by omega)
    have hm0 : m ≠ 0 := fun h => by
      have : fmt32.abs a = 0 := hm.1 h
      omega
    rw [flog2Bits, hread, decide_eq_true (show fmt32.signBit ≤ a by omega)]
    simp only [beq_iff_eq, hm0, if_false, if_true]
    rfl
  · intro a n ha hfin hval
    obtain ⟨m, e, hread, hunits, -⟩ := Fmt.Code.read_of_fin (f := fmt32) ha hfin
    rw [hunits] at hval
    have hexp := fexp2Bits_of_int hread hval
    refine ⟨fmt32_rounds_pow_val hexp, fmt32_rounds_pow_inf hexp, fmt32_rounds_pow_zero hexp, ?_, fcosBits_of_int hread hval⟩
    rw [fsinBits_of_int hread hval]
    rw [Fmt.withSign, Nat.zero_add, if_congr decide_eq_true_iff rfl rfl]
    rfl
  · intro a n ha hfin hval
    obtain ⟨m, e, hread, hunits, -⟩ := Fmt.Code.read_of_fin (f := fmt32) ha hfin
    exact fcosBits_of_half hread (hunits ▸ hval)
  · intro a n hfin ha hval
    have hpos : ¬fmt32.neg a := not_le.2 ha
    obtain ⟨m, e, hread, hunits, -⟩ := Fmt.Code.read_of_fin (f := fmt32) (show a < 2 ^ 32 by omega) hfin
    rw [decide_eq_false hpos] at hread hunits
    have hmag : fmt32.mag (fmt32.abs a) = 2 ^ n := by rw [← hval, Fmt.val, if_neg hpos]
    obtain ⟨h1, h2⟩ := fmt32_pow_range hfin hmag
    rw [hunits, unitsVal, if_neg Bool.false_ne_true] at hval
    exact flog2Bits_of_pow hread hval h1 h2

end Sys2Proof
end


section
/-! The NF formats (R76 to R82): the finite codes of one sign lie in order of magnitude, as the codes of a binary format do, so the
code a value is rounded to is an ordinal. -/

namespace Sys2Proof.Machine

/-! ### Codes in order (R78) -/

/-- What R77 asks of the layout of a format word. -/
structure NFWord.Shaped (f : NFWord) : Prop where
  two_le_wid : 2 ≤ f.wid
  wid_le : f.wid ≤ 8
  sgn_le : f.sgn ≤ 1
  fits : f.sgn + f.exb ≤ f.wid
  spec_le : f.spec ≤ 2
  integer : f.exb = 0 → f.spec = 0
  nan_only : f.spec = 1 → 1 ≤ f.exb ∧ 2 ≤ f.wid - f.sgn
  with_inf : f.spec = 2 → 2 ≤ f.exb ∧ 1 ≤ f.man

/-- A code without its sign bit. -/
def NFWord.ord (f : NFWord) (c : Nat) : Nat := c % 2 ^ (f.wid - f.sgn)
/-- The magnitude at an ordinal, as if the exponents went on without end. -/
def NFWord.grid (f : NFWord) (c : Nat) : Rat := (if f.exb = 0 then (c : Rat) else ({ p := f.man, e := 1 } : Fmt).mag c) * 2 ^ (-f.bias)

theorem NFWord.grid_strictMono (f : NFWord) : StrictMono f.grid := by
  intro a b h
  refine mul_lt_mul_of_pos_right ?_ (by positivity)
  split
  · exact_mod_cast h
  · exact Fmt.mag_strictMono _ h
theorem NFWord.grid_zero (f : NFWord) : f.grid 0 = 0 := by
  rw [NFWord.grid, Fmt.mag_eq]
  simp
theorem NFWord.grid_nonneg (f : NFWord) (c : Nat) : 0 ≤ f.grid c := f.grid_zero ▸ f.grid_strictMono.monotone (Nat.zero_le c)
theorem NFWord.grid_eq_zero_iff (f : NFWord) {c : Nat} : f.grid c = 0 ↔ c = 0 := by
  rw [← f.grid_zero, f.grid_strictMono.injective.eq_iff]

/-- The least nonzero magnitude. -/
theorem NFWord.grid_one (f : NFWord) : f.grid 1 = 2 ^ f.minExp := by
  rw [NFWord.grid, NFWord.minExp]
  simp only [beq_iff_eq]
  split
  · rw [Nat.cast_one, one_mul]
  · have hlow : ({ p := f.man, e := 1 } : Fmt).low = 1 - f.man := by simp [Fmt.low, Fmt.bias]
    have hmag := Fmt.mag_binade ({ p := f.man, e := 1 } : Fmt) (n := 0) (j := 1) Nat.one_le_two_pow (.inl rfl)
    rw [Nat.zero_mul, Nat.zero_add] at hmag
    rw [hmag, hlow, Nat.cast_one, one_mul, ← zpow_add₀ two_ne_zero]
    congr 1
    simp only [Nat.cast_zero]
    ring

/-- The binade of a nonzero number of units. -/
theorem units_binade {m : Nat} (hm : m ≠ 0) (e : Int) : (2 : Rat) ^ (e + bitLen m - 1) ≤ m * 2 ^ e ∧ (m : Rat) * 2 ^ e < 2 ^ (e + bitLen m) := by
  have hpos := Nat.pos_of_ne_zero hm
  obtain ⟨t, ht⟩ : ∃ t, bitLen m = t + 1 := Nat.exists_eq_add_one.2 (bitLen_pos hpos)
  have hlo := two_pow_bitLen_le hpos
  have hhi := lt_two_pow_bitLen m
  rw [ht] at hlo hhi ⊢
  have hU : (0 : Rat) < 2 ^ e := by positivity
  refine ⟨?_, ?_⟩
  · rw [show e + (t + 1 : Nat) - 1 = t + e by omega, zpow_add₀ two_ne_zero, zpow_natCast]
    exact mul_le_mul_of_nonneg_right (by exact_mod_cast hlo) hU.le
  · rw [show e + (t + 1 : Nat) = (t + 1 : Nat) + e by omega, zpow_add₀ two_ne_zero, zpow_natCast]
    exact mul_lt_mul_of_pos_right (by exact_mod_cast hhi) hU

section
variable {f : NFWord} (hf : f.Shaped)
include hf

theorem NFWord.Shaped.wid_sub : f.wid - f.sgn = f.man + f.exb := by
  have := hf.fits
  rw [NFWord.man]
  omega
theorem NFWord.Shaped.man_cast : ((f.wid : Int) - f.sgn - f.exb) = f.man := by
  have := hf.fits
  rw [NFWord.man]
  omega
theorem NFWord.Shaped.ord_lt (c : Nat) : f.ord c < 2 ^ f.man * 2 ^ f.exb := by
  rw [← pow_add, ← hf.wid_sub]
  exact Nat.mod_lt _ (Nat.two_pow_pos _)
theorem NFWord.Shaped.E_eq (c : Nat) : f.E c = f.ord c / 2 ^ f.man := by
  rw [NFWord.ord, hf.wid_sub, pow_add, Nat.mod_mul_right_div_self]
  rfl
theorem NFWord.Shaped.M_eq (c : Nat) : f.M c = f.ord c % 2 ^ f.man := by
  rw [NFWord.ord, hf.wid_sub, pow_add, Nat.mod_mul_right_mod]
  rfl

/-- The magnitude of a code is that of its place in the order. -/
theorem NFWord.Shaped.mag_eq (c : Nat) : f.mag c = f.grid (f.ord c) := by
  have hlt := hf.ord_lt c
  rw [NFWord.mag, NFWord.grid, hf.E_eq, hf.M_eq, hf.man_cast]
  by_cases h0 : f.exb = 0
  · rw [if_pos h0, if_pos h0, Nat.mod_eq_of_lt (by simpa [h0] using hlt)]
  · rw [if_neg h0, if_neg h0, Fmt.mag_eq]
    have hlow : ({ p := f.man, e := 1 } : Fmt).low = 1 - f.man := by simp [Fmt.low, Fmt.bias]
    simp only [hlow]
    have hdiv : f.ord c / 2 ^ f.man = 0 ↔ f.ord c < 2 ^ f.man := by rw [Nat.div_eq_zero_iff_lt (Nat.two_pow_pos _)]
    rw [if_congr hdiv rfl rfl]
    split
    · next h =>
      rw [Nat.mod_eq_of_lt h, mul_assoc, ← zpow_add₀ two_ne_zero]
      congr 2
      ring
    · rw [mul_assoc, ← zpow_add₀ two_ne_zero]
      unfold NFWord.man
      congr 2
      ring

theorem NFWord.Shaped.maxCode_eq : f.maxCode = 2 ^ f.man * 2 ^ f.exb - 1 - (if f.spec = 1 then 1 else if f.spec = 2 then 2 ^ f.man else 0) := by
  rw [NFWord.maxCode, hf.wid_sub, pow_add]
  simp only [beq_iff_eq]
  split
  · rfl
  · split <;> rfl

theorem NFWord.Shaped.four_le (h : f.spec ≠ 0) : 4 ≤ 2 ^ f.man * 2 ^ f.exb := by
  have h1 := hf.nan_only
  have h2 := hf.with_inf
  have hle := hf.spec_le
  have hw := hf.wid_sub
  rw [← pow_add]
  exact Nat.pow_le_pow_right two_pos (by omega : 2 ≤ f.man + f.exb)

/-- The codes that are no number lie above the others (R78). -/
theorem NFWord.Shaped.isFin_iff (c : Nat) : f.isFin c ↔ c < 2 ^ f.wid ∧ f.ord c ≤ f.maxCode := by
  have hM := hf.M_eq c
  have hE := hf.E_eq c
  have hlt := Nat.div_lt_of_lt_mul (hf.ord_lt c)
  have hmod := Nat.mod_lt (f.ord c) (Nat.two_pow_pos f.man)
  have hsplit := Nat.div_add_mod (f.ord c) (2 ^ f.man)
  rw [← hE] at hlt hsplit
  rw [← hM] at hsplit hmod
  rw [hf.maxCode_eq, NFWord.isFin, NFWord.isNan, NFWord.isInf]
  show c < 2 ^ f.wid ∧ ¬(f.exb ≠ 0 ∧ f.E c = 2 ^ f.exb - 1 ∧ ((f.spec = 1 ∧ f.M c = 2 ^ f.man - 1) ∨ (f.spec = 2 ∧ f.M c ≠ 0)))
    ∧ ¬(f.exb ≠ 0 ∧ f.spec = 2 ∧ f.E c = 2 ^ f.exb - 1 ∧ f.M c = 0) ↔ _
  refine and_congr_right fun _ => ?_
  have h1 := hf.nan_only
  have h2 := hf.with_inf
  obtain ⟨Q, hQ⟩ : ∃ Q, 2 ^ f.exb = Q + 1 := Nat.exists_eq_add_one.2 (Nat.two_pow_pos _)
  have hstep : f.E c < Q → 2 ^ f.man * (f.E c + 1) ≤ 2 ^ f.man * Q := fun h => Nat.mul_le_mul_left _ h
  have hlast : f.E c = Q → 2 ^ f.man * f.E c = 2 ^ f.man * Q := fun h => by rw [h]
  have hpos := Nat.two_pow_pos f.man
  have hfour := hf.four_le
  have hone : f.exb ≠ 0 → 2 ^ f.man * 1 ≤ 2 ^ f.man * Q := fun h => by
    have : 1 < 2 ^ f.exb := Nat.one_lt_two_pow h
    exact Nat.mul_le_mul_left _ (by omega)
  rw [hQ] at hlt hfour ⊢
  rw [Nat.add_sub_cancel, Nat.mul_succ]
  rw [Nat.mul_succ] at hstep hfour
  generalize 2 ^ f.man * f.E c = x at *
  generalize 2 ^ f.man * Q = y at *
  generalize 2 ^ f.man = P at *
  by_cases hs1 : f.spec = 1
  · rw [if_pos hs1]
    omega
  · rw [if_neg hs1]
    by_cases hs2 : f.spec = 2
    · rw [if_pos hs2]
      omega
    · rw [if_neg hs2]
      omega

theorem NFWord.Shaped.maxCode_lt : f.maxCode < 2 ^ (f.wid - f.sgn) := by
  have := Nat.mul_pos (Nat.two_pow_pos f.man) (Nat.two_pow_pos f.exb)
  rw [hf.maxCode_eq, hf.wid_sub, pow_add]
  omega
theorem NFWord.Shaped.maxCode_pos : 0 < f.maxCode := by
  have h2 := hf.with_inf
  have hsgn := hf.sgn_le
  have hwid := hf.two_le_wid
  have hfour := hf.four_le
  have htwo : 2 ≤ 2 ^ f.man * 2 ^ f.exb := by
    have := hf.wid_sub
    rw [← pow_add]
    exact Nat.pow_le_pow_right two_pos (by omega : 1 ≤ f.man + f.exb)
  have hmul : 2 ≤ f.exb → 2 ^ f.man * 4 ≤ 2 ^ f.man * 2 ^ f.exb := fun h => Nat.mul_le_mul_left _ (Nat.pow_le_pow_right two_pos h)
  have hpos := Nat.two_pow_pos f.man
  rw [hf.maxCode_eq]
  split
  · omega
  · split <;> omega

theorem NFWord.Shaped.ord_of_le {c : Nat} (h : c ≤ f.maxCode) : f.ord c = c := Nat.mod_eq_of_lt (h.trans_lt hf.maxCode_lt)
theorem NFWord.Shaped.lt_of_le {c : Nat} (h : c ≤ f.maxCode) : c < 2 ^ f.wid :=
  (h.trans_lt hf.maxCode_lt).trans_le (Nat.pow_le_pow_right two_pos (Nat.sub_le ..))
theorem NFWord.Shaped.isFin_of_le {c : Nat} (h : c ≤ f.maxCode) : f.isFin c := (hf.isFin_iff c).2 ⟨hf.lt_of_le h, (hf.ord_of_le h).trans_le h⟩
theorem NFWord.Shaped.mag_of_le {c : Nat} (h : c ≤ f.maxCode) : f.mag c = f.grid c := by rw [hf.mag_eq, hf.ord_of_le h]
theorem NFWord.Shaped.mag_le {c : Nat} (h : f.isFin c) : f.mag c ≤ f.grid f.maxCode :=
  (hf.mag_eq c).trans_le (f.grid_strictMono.monotone ((hf.isFin_iff c).1 h).2)

/-! ### Signs (R78) -/

theorem NFWord.Shaped.S_of_lt {c : Nat} (h : c < 2 ^ (f.wid - f.sgn)) : f.S c = 0 := by
  have := hf.sgn_le
  rw [NFWord.S]
  split
  · next hs =>
    rw [hs] at h
    rw [Nat.div_eq_of_lt h]
  · rfl
/-- A code with a sign, in a format that has the sign or for a value that is not negative. -/
theorem NFWord.Shaped.signed_spec {neg : Bool} {c : Nat} (hc : c < 2 ^ (f.wid - f.sgn)) (hs : f.sgn = 1 ∨ neg = false) :
    f.signed neg c = (if neg then c + 2 ^ (f.wid - 1) else c) ∧ f.signed neg c < 2 ^ f.wid ∧ f.ord (f.signed neg c) = c
      ∧ (f.S (f.signed neg c) = 1 ↔ neg = true) := by
  have hwid := hf.two_le_wid
  cases neg
  · have : f.signed false c = c := by simp [NFWord.signed]
    rw [this]
    exact ⟨rfl, hc.trans_le (Nat.pow_le_pow_right two_pos (Nat.sub_le ..)), Nat.mod_eq_of_lt hc, by rw [hf.S_of_lt hc]; simp⟩
  · have hs : f.sgn = 1 := hs.resolve_right (by simp)
    have hself : f.signed true c = c + 2 ^ (f.wid - 1) := by simp [NFWord.signed, hs]
    have hpow : 2 ^ f.wid = 2 ^ (f.wid - 1) + 2 ^ (f.wid - 1) := by rw [← mul_two, ← pow_succ, Nat.sub_add_cancel (by omega)]
    rw [hs] at hc
    rw [hself, NFWord.ord, NFWord.S, hs]
    refine ⟨rfl, by omega, by rw [Nat.add_mod_right, Nat.mod_eq_of_lt hc], ?_⟩
    rw [if_pos rfl, Nat.add_div_right _ (Nat.two_pow_pos _), Nat.div_eq_of_lt hc]
    simp

/-! ### The value of a code (R78) -/

theorem NFWord.Shaped.value_eq {c : Nat} (hc : c < 2 ^ f.wid) : f.value c =
    if f.exb = 0 then .fin (decide (f.S c = 1)) (f.M c) (-f.bias)
    else if f.spec = 1 ∧ f.E c = 2 ^ f.exb - 1 ∧ f.M c = 2 ^ f.man - 1 then .nan
    else if f.spec = 2 ∧ f.E c = 2 ^ f.exb - 1 then (if f.M c = 0 then .inf (decide (f.S c = 1)) else .nan)
    else if f.E c = 0 then .fin (decide (f.S c = 1)) (f.M c) (1 - f.bias - f.man)
    else .fin (decide (f.S c = 1)) (2 ^ f.man + f.M c) (f.E c - f.bias - f.man) := by
  have hE : c / 2 ^ f.man % 2 ^ f.exb = f.E c := rfl
  have hM : c % 2 ^ f.man = f.M c := rfl
  have hwid := hf.two_le_wid
  have hS : (f.sgn == 1 && c / 2 ^ (f.wid - 1) == 1) = decide (f.S c = 1) := by
    have hpow : 2 ^ f.wid = 2 ^ (f.wid - 1) * 2 := by rw [← pow_succ, Nat.sub_add_cancel (by omega)]
    have hlt : c / 2 ^ (f.wid - 1) < 2 := Nat.div_lt_of_lt_mul (hpow ▸ hc)
    rw [NFWord.S]
    by_cases h : f.sgn = 1
    · simp [h, Nat.mod_eq_of_lt hlt]
      rfl
    · simp [h]
  simp only [NFWord.value, Nat.mod_eq_of_lt hc, hE, hM, hS, beq_iff_eq, Bool.and_eq_true, and_assoc]

theorem NFWord.Shaped.value_of_nan {c : Nat} (hc : c < 2 ^ f.wid) (h : f.isNan c) : f.value c = .nan := by
  obtain ⟨h0, hE, h⟩ := h
  rw [hf.value_eq hc, if_neg h0]
  rcases h with ⟨hs, hM⟩ | ⟨hs, hM⟩
  · rw [if_pos ⟨hs, hE, hM⟩]
  · rw [if_neg (by omega), if_pos ⟨hs, hE⟩, if_neg hM]
theorem NFWord.Shaped.value_of_inf {c : Nat} (hc : c < 2 ^ f.wid) (h : f.isInf c) : f.value c = .inf (decide (f.S c = 1)) := by
  obtain ⟨h0, hs, hE, hM⟩ := h
  rw [hf.value_eq hc, if_neg h0, if_neg (by omega), if_pos ⟨hs, hE⟩, if_pos hM]
theorem NFWord.Shaped.value_of_fin {c : Nat} (h : f.isFin c) : ∃ m e, f.value c = .fin (decide (f.S c = 1)) m e ∧ f.mag c = m * 2 ^ e := by
  obtain ⟨hc, hnan, hinf⟩ := h
  rw [hf.value_eq hc, NFWord.mag, hf.man_cast]
  by_cases h0 : f.exb = 0
  · rw [if_pos h0, if_pos h0]
    exact ⟨_, _, rfl, rfl⟩
  · have h1 : ¬(f.spec = 1 ∧ f.E c = 2 ^ f.exb - 1 ∧ f.M c = 2 ^ f.man - 1) := fun ⟨hs, hE, hM⟩ => hnan ⟨h0, hE, .inl ⟨hs, hM⟩⟩
    have h2 : ¬(f.spec = 2 ∧ f.E c = 2 ^ f.exb - 1) := fun ⟨hs, hE⟩ => by
      by_cases hM : f.M c = 0
      · exact hinf ⟨h0, hs, hE, hM⟩
      · exact hnan ⟨h0, hE, .inr ⟨hs, hM⟩⟩
    rw [if_neg h0, if_neg h0, if_neg h1, if_neg h2]
    split
    · exact ⟨_, _, rfl, rfl⟩
    · exact ⟨_, _, rfl, rfl⟩

/-- The largest finite magnitude and its binade. -/
theorem NFWord.Shaped.value_maxCode : ∃ m e, f.value f.maxCode = .fin false m e ∧ m ≠ 0 ∧ f.grid f.maxCode = m * 2 ^ e := by
  obtain ⟨m, e, hval, hmag⟩ := hf.value_of_fin (hf.isFin_of_le le_rfl)
  rw [hf.mag_of_le le_rfl] at hmag
  rw [hf.S_of_lt hf.maxCode_lt] at hval
  refine ⟨m, e, hval, ?_, hmag⟩
  rintro rfl
  rw [Nat.cast_zero, zero_mul, f.grid_eq_zero_iff] at hmag
  exact hf.maxCode_pos.ne' hmag

/-- The model's test of a format word is R77's. -/
theorem NFWord.Shaped.range_iff : (∀ k < 2 ^ f.wid, f.isFin k → f.mag k < 2 ^ 128 ∧ (f.mag k ≠ 0 → 2 ^ (-149 : Int) ≤ f.mag k))
    ↔ magLog2 (f.value f.maxCode) < 128 ∧ -149 ≤ f.minExp := by
  obtain ⟨m, e, hval, hm, hmax⟩ := hf.value_maxCode
  obtain ⟨hlo, hhi⟩ := units_binade hm e
  rw [← hmax] at hlo hhi
  have hlog : magLog2 (f.value f.maxCode) = e + bitLen m - 1 := by rw [hval]; rfl
  have htop : f.grid f.maxCode < 2 ^ 128 ↔ e + bitLen m - 1 < 128 := by
    rw [← zpow_natCast]
    refine ⟨fun h => (zpow_lt_zpow_iff_right₀ one_lt_two).1 (hlo.trans_lt h), fun h => hhi.trans_le ?_⟩
    exact zpow_le_zpow_right₀ one_le_two (by push_cast; omega)
  have hbottom : (2 : Rat) ^ (-149 : Int) ≤ f.grid 1 ↔ -149 ≤ f.minExp := by rw [f.grid_one, zpow_le_zpow_iff_right₀ one_lt_two]
  rw [hlog, ← htop, ← hbottom]
  refine ⟨fun h => ?_, fun ⟨h1, h2⟩ k _ hk => ⟨(hf.mag_le hk).trans_lt h1, fun h0 => h2.trans ?_⟩⟩
  · obtain ⟨h1, -⟩ := h _ (hf.lt_of_le le_rfl) (hf.isFin_of_le le_rfl)
    obtain ⟨-, h2⟩ := h _ (hf.lt_of_le hf.maxCode_pos) (hf.isFin_of_le hf.maxCode_pos)
    rw [hf.mag_of_le le_rfl] at h1
    rw [hf.mag_of_le hf.maxCode_pos] at h2
    exact ⟨h1, h2 (by rw [ne_eq, f.grid_eq_zero_iff]; exact one_ne_zero)⟩
  · rw [hf.mag_eq] at h0 ⊢
    exact f.grid_strictMono.monotone (Nat.pos_of_ne_zero (mt f.grid_eq_zero_iff.2 h0))

end

theorem NFWord.WellFormed.shaped {f : NFWord} (hs : f.sgn ≤ 1) (hspec : f.spec ≤ 3) (h : f.WellFormed) : f.Shaped := by
  obtain ⟨h2, h8, hfit, hspec', -, -, -, -, -, hint, hnan, hinf, -⟩ := h
  exact ⟨h2, h8, hs, hfit, by omega, hint, hnan, hinf⟩
theorem NFWord.wf_iff {f : NFWord} (hs : f.sgn ≤ 1) (hspec : f.spec ≤ 3) : f.wf = true ↔ f.WellFormed := by
  have hfields : f.wf = true ↔ (2 ≤ f.wid ∧ f.wid ≤ 8 ∧ f.sgn + f.exb ≤ f.wid ∧ f.spec ≠ 3 ∧ f.blk ≠ 3 ∧ f.sck ≤ 1 ∧ f.prnd ≠ 3 ∧ f.top = 0
      ∧ (f.blk = 0 ↔ f.sck = 0) ∧ (f.exb = 0 → f.spec = 0) ∧ (f.spec = 1 → 1 ≤ f.exb ∧ 2 ≤ f.wid - f.sgn) ∧ (f.spec = 2 → 2 ≤ f.exb ∧ 1 ≤ f.man))
      ∧ magLog2 (f.value f.maxCode) < 128 ∧ -149 ≤ f.minExp := by
    have hblk : ((f.blk == 0) = (f.sck == 0)) ↔ (f.blk = 0 ↔ f.sck = 0) := by rw [Bool.eq_iff_iff, beq_iff_eq, beq_iff_eq]
    simp only [NFWord.wf, Bool.and_eq_true, Bool.or_eq_true, decide_eq_true_eq, bne_iff_ne, beq_iff_eq, ne_eq, hblk]
    simp only [← imp_iff_not_or, and_assoc, Nat.lt_succ_iff]
    iterate 2 refine and_congr_right fun _ => ?_
    refine and_congr_right fun hfit => ?_
    iterate 7 refine and_congr_right fun _ => ?_
    refine and_congr_right fun hnan => ?_
    iterate 2 refine and_congr_right fun _ => ?_
    by_cases h : ¬f.exb = 0 ∧ f.man = 0
    · -- Without a mantissa the least magnitude is the one of exponent 1.
      have hman : f.wid - f.sgn - f.exb = 0 := h.2
      rw [if_pos h, if_neg (by omega), decide_eq_true_eq, NFWord.minExp, if_neg (by simpa using h.1), h.2, Nat.cast_zero, sub_zero]
    · rw [if_neg h, decide_eq_true_eq]
  rw [hfields, NFWord.WellFormed]
  constructor
  · rintro ⟨⟨h2, h8, hfit, hspec', hblk, hsck, hprnd, htop, hiff, hint, hnan, hinf⟩, hrange⟩
    have hf : f.Shaped := ⟨h2, h8, hs, hfit, by omega, hint, hnan, hinf⟩
    exact ⟨h2, h8, hfit, hspec', hblk, hsck, hprnd, htop, hiff, hint, hnan, hinf, hf.range_iff.2 hrange⟩
  · intro h
    have hf := NFWord.WellFormed.shaped hs hspec h
    obtain ⟨h2, h8, hfit, hspec', hblk, hsck, hprnd, htop, hiff, hint, hnan, hinf, hrange⟩ := h
    exact ⟨⟨h2, h8, hfit, hspec', hblk, hsck, hprnd, htop, hiff, hint, hnan, hinf⟩, hf.range_iff.1 hrange⟩

/-! ### Unpacking (R78, R82) -/

theorem NFWord.unpackScaled_eq {f : NFWord} {c s : Nat} (hs : f.sck = 0 → s = 127) (h : s ≠ 255) :
    f.unpackScaled c s = fmt32.write .rn (match f.value c with | .fin n m e => .fin n m (e + ((s : Int) - 127)) | v => v) := by
  rw [NFWord.unpackScaled]
  by_cases h0 : f.sck = 0
  · rw [if_pos (by simpa using h0), hs h0]
    cases f.value c with
    | fin n m e => simp
    | _ => rfl
  · rw [if_neg (by simpa using h0), if_neg (by simpa using h)]
    cases f.value c <;> rfl

theorem NFWord.Shaped.unpack_spec {f : NFWord} (hf : f.Shaped) {c s : Nat} (hc : c < 2 ^ f.wid) (hs : f.sck = 0 → s = 127) :
    f.Unpacks s c (f.unpackScaled c s) := by
  have hS : f.S c = 0 ∨ f.S c = 1 := by
    rw [NFWord.S]
    split <;> omega
  refine ⟨fun h => ?_, fun h1 h2 h3 => ?_, fun h1 h2 h3 => ?_⟩
  · by_cases h255 : s = 255
    · rw [NFWord.unpackScaled, if_neg (by simp; omega), if_pos (by simpa using h255)]
      rfl
    · rw [NFWord.unpackScaled_eq hs h255, hf.value_of_nan hc (h.resolve_right h255)]
      rfl
  · rw [NFWord.unpackScaled_eq hs h2, hf.value_of_inf hc h3]
    rcases hS with h | h <;> rw [h] <;> rfl
  · obtain ⟨m, e, hval, hmag⟩ := hf.value_of_fin ⟨hc, h1, h3⟩
    have hx : f.mag c * 2 ^ ((s : Int) - 127) = m * 2 ^ (e + ((s : Int) - 127)) := by rw [hmag, mul_assoc, ← zpow_add₀ two_ne_zero]
    rw [NFWord.unpackScaled_eq hs h2, hval]
    dsimp only
    rw [hx]
    refine ⟨fun h => ?_, fun h => ?_⟩
    · rw [mul_eq_zero_iff_right (by positivity), Nat.cast_eq_zero] at h
      rw [h, Fmt.write, fmt32.round_zero]
      rcases hS with h | h <;> rw [h] <;> rfl
    · have hm : m ≠ 0 := by
        rintro rfl
        simp at h
      have := fmt32.round_units (r := .rn) (neg := decide (f.S c = 1)) (e := e + ((s : Int) - 127)) fmt32_pos.1 fmt32_pos.2 hm
      rw [unitsVal] at this
      rw [Fmt.write]
      rcases hS with h | h <;> rw [h] at this ⊢
      · simpa using this
      · simpa using this

/-! ### Packing (R80, R82) -/

theorem RoundsToInt.near {x : Rat} {a : Int} (h : RoundsToInt .rn x a) :
    2 * x - 1 ≤ 2 * a ∧ (2 * a : Rat) ≤ 2 * x + 1 ∧ (2 * x - 1 = 2 * a ∨ (2 * a : Rat) = 2 * x + 1 → a % 2 = 0) := by
  rcases h with ⟨h1, h2⟩ | ⟨h, heven⟩
  · exact ⟨h1.le, h2.le, fun h => by rcases h with h | h <;> linarith⟩
  · refine ⟨?_, ?_, fun _ => heven⟩ <;> rcases h with h | h <;> linarith
/-- Toward zero and to nearest a number is rounded to one integer. -/
theorem RoundsToInt.unique {r : Rnd} {x : Rat} {a b : Int} (hr : r = .rn ∨ r = .rz) (h0 : 0 ≤ x) (ha : RoundsToInt r x a) (hb : RoundsToInt r x b) : a = b := by
  rcases hr with rfl | rfl
  · obtain ⟨ha1, ha2, ha3⟩ := ha.near
    obtain ⟨hb1, hb2, hb3⟩ := hb.near
    have hab : a ≤ b + 1 := by exact_mod_cast (by linarith : (a : Rat) ≤ b + 1)
    have hba : b ≤ a + 1 := by exact_mod_cast (by linarith : (b : Rat) ≤ a + 1)
    by_contra hne
    -- One apart they would be the two neighbours of a tie, both even.
    have hpar : a % 2 = 0 ∧ b % 2 = 0 := by
      rcases (show a = b + 1 ∨ b = a + 1 by omega) with rfl | rfl
      · push_cast at ha2 ha3
        exact ⟨ha3 (.inr (by linarith)), hb3 (.inl (by linarith))⟩
      · push_cast at hb2 hb3
        exact ⟨ha3 (.inl (by linarith)), hb3 (.inr (by linarith))⟩
    omega
  · rw [RoundsToInt, if_pos h0] at ha hb
    have h1 : a < b + 1 := by exact_mod_cast ha.1.trans_lt hb.2
    have h2 : b < a + 1 := by exact_mod_cast hb.1.trans_lt ha.2
    omega

/-- The rounding mode of a format word. -/
def NFWord.mode (f : NFWord) : Rnd := if f.prnd = 1 then .rz else .rn
theorem NFWord.mode_cases (f : NFWord) : f.mode = .rn ∨ f.mode = .rz := by
  rw [NFWord.mode]
  split
  · exact .inr rfl
  · exact .inl rfl
/-- The exponent of the grid step at a number of units. -/
def NFWord.stepExp (f : NFWord) (m : Nat) (e : Int) : Int := if f.exb = 0 then -f.bias else max (e + bitLen m - 1) (1 - f.bias) - f.man
/-- A number of units rounded to whole grid steps. -/
def NFWord.steps (f : NFWord) (m : Nat) (e : Int) : Nat :=
  if 0 ≤ e - f.stepExp m e then m * 2 ^ (e - f.stepExp m e).toNat else dropBits f.mode false m (-(e - f.stepExp m e)).toNat false
/-- The ordinal of a number of units rounded on the grid. -/
def NFWord.place (f : NFWord) (m : Nat) (e : Int) : Nat :=
  if f.exb = 0 then f.steps m e else (f.stepExp m e - (1 - f.bias - f.man)).toNat * 2 ^ f.man + f.steps m e

theorem NFWord.steps_spec (f : NFWord) (m : Nat) (e : Int) : RoundsToInt f.mode (m * 2 ^ (e - f.stepExp m e)) (f.steps m e) :=
  roundsToInt_units ..

/-- The code at the place stands for the rounded number. -/
theorem NFWord.grid_place (f : NFWord) {m : Nat} (hm : m ≠ 0) (e : Int) : f.grid (f.place m e) = f.steps m e * 2 ^ f.stepExp m e := by
  rw [NFWord.grid, NFWord.place]
  by_cases h0 : f.exb = 0
  · rw [if_pos h0, if_pos h0, NFWord.stepExp, if_pos h0]
  · rw [if_neg h0, if_neg h0]
    set F : Fmt := { p := f.man, e := 1 }
    have hlow : F.low = 1 - f.man := by simp [F, Fmt.low, Fmt.bias]
    have hq : F.unitExp m (e + f.bias) = f.stepExp m e + f.bias := by
      have : F.unitExp m (e + f.bias) = max (e + f.bias + bitLen m - 1 - f.man) F.low := rfl
      rw [this, hlow, NFWord.stepExp, if_neg h0]
      omega
    obtain ⟨hrange, hnormal⟩ := F.unitExp_spec (e := e + f.bias) (Nat.pos_of_ne_zero hm) le_rfl (lt_add_one _)
    have hround := f.steps_spec m e
    rw [hq, add_sub_add_right_eq_sub] at hrange hnormal
    obtain ⟨h1, h2⟩ := roundsToInt_bounds (by positivity) hround
    obtain ⟨n, hn⟩ : ∃ n : Nat, f.stepExp m e = (1 - f.bias - f.man) + n := by
      refine Int.le.dest (?_ : 1 - f.bias - f.man ≤ f.stepExp m e) |>.imp fun n h => h.symm
      rw [NFWord.stepExp, if_neg h0]
      omega
    have hK : f.steps m e ≤ 2 ^ (F.p + 1) := by
      have : (f.steps m e : Rat) < (2 ^ (F.p + 1) : Nat) + 1 := by
        push_cast
        linarith
      exact Nat.lt_succ_iff.1 (by exact_mod_cast this)
    have hbin : n = 0 ∨ 2 ^ F.p ≤ f.steps m e := by
      refine hnormal.imp (fun h => by omega) fun h => ?_
      have : ((2 ^ F.p : Nat) : Rat) < f.steps m e + 1 := by
        push_cast
        linarith
      exact Nat.lt_succ_iff.1 (by exact_mod_cast this)
    rw [hn, add_sub_cancel_left, Int.toNat_natCast, F.mag_binade hK hbin, hlow, mul_assoc, ← zpow_add₀ two_ne_zero]
    congr 2
    ring

/-- Packing a finite value goes by its place in the order of the codes. -/
theorem NFWord.Shaped.pack_of_fin {f : NFWord} (hf : f.Shaped) {neg : Bool} {m : Nat} {e : Int} (hm : m ≠ 0) (hs : f.sgn = 1 ∨ neg = false) (hexp : e + f.bias ≤ 512) :
    f.pack (.fin neg m e) = if f.place m e > f.maxCode then f.beyond neg else f.signed neg (f.place m e) := by
  have hneg : (f.sgn == 0 && neg) = false := by rcases hs with h | h <;> simp [h]
  have hq : (if f.exb = 0 then -f.bias else max (e + bitLen m - 1 - f.man) (1 - f.bias - f.man)) = f.stepExp m e := by
    rw [NFWord.stepExp]
    split <;> omega
  have hk : (if f.stepExp m e ≤ e then m * 2 ^ min (e - f.stepExp m e).toNat 512 else dropBits f.mode neg m (f.stepExp m e - e).toNat false)
      = f.steps m e := by
    have hmode : (if neg then mirrorMode f.mode else f.mode) = f.mode := by rcases f.mode_cases with h | h <;> rw [h] <;> cases neg <;> rfl
    have hdrop : dropBits f.mode neg m (f.stepExp m e - e).toNat false = dropBits f.mode false m (f.stepExp m e - e).toNat false := by
      cases neg
      · rfl
      · rw [dropBits_neg]
        exact congrArg (dropBits · false m _ false) hmode
    have hpos := bitLen_pos (Nat.pos_of_ne_zero hm)
    have hbound : (e - f.stepExp m e).toNat ≤ 512 := by
      have hwid := hf.wid_le
      rw [NFWord.stepExp, NFWord.man]
      split <;> omega
    rw [NFWord.steps, hdrop, min_eq_left hbound, neg_sub, if_congr sub_nonneg rfl rfl]
  have hr : (if f.prnd = 1 then Rnd.rz else Rnd.rn) = f.mode := rfl
  rw [NFWord.pack]
  simp only [hneg, hr, beq_iff_eq, hm, hq, hk, if_false, Bool.false_eq_true]
  rfl

/-- A magnitude beyond the finite codes (rule 4 of R80), as R80 tells it. -/
def NFWord.Far (f : NFWord) (minus : Bool) (code : Nat) : Prop :=
  (f.prnd = 0 ∧ f.spec = 2 ∧ f.isInf code ∧ code < 2 ^ f.wid ∧ (f.S code = 1 ↔ minus = true))
    ∨ (f.prnd = 0 ∧ f.spec = 1 ∧ code = 2 ^ (f.wid - f.sgn) - 1)
    ∨ ((f.prnd ≠ 0 ∨ f.spec = 0) ∧ ∃ c < 2 ^ f.wid, f.isMax c ∧ code = if minus then c + 2 ^ (f.wid - 1) else c)

section
variable {f : NFWord} (hf : f.Shaped)
include hf
theorem NFWord.Shaped.isMax_maxCode : f.isMax f.maxCode :=
  ⟨hf.isFin_of_le le_rfl, hf.S_of_lt hf.maxCode_lt, fun k _ hk => by rw [hf.mag_of_le le_rfl]; exact hf.mag_le hk⟩
/-- The code of +max is the last finite one. -/
theorem NFWord.Shaped.mag_of_isMax {c : Nat} (h : f.isMax c) : f.mag c = f.grid f.maxCode := by
  obtain ⟨hc, -, hmax⟩ := h
  exact le_antisymm (hf.mag_le hc) (hf.mag_of_le le_rfl ▸ hmax _ (hf.lt_of_le le_rfl) (hf.isFin_of_le le_rfl))

theorem NFWord.Shaped.infCode_lt : (2 ^ f.exb - 1) * 2 ^ f.man < 2 ^ (f.wid - f.sgn) := by
  rw [hf.wid_sub, pow_add, Nat.mul_comm]
  exact Nat.mul_lt_mul_of_pos_left (Nat.sub_lt (Nat.two_pow_pos _) one_pos) (Nat.two_pow_pos _)
theorem NFWord.Shaped.beyond_far {neg : Bool} (hs : f.sgn = 1 ∨ neg = false) : f.Far neg (f.beyond neg) := by
  have hspec := hf.spec_le
  rw [NFWord.beyond]
  simp only [Bool.and_eq_true, beq_iff_eq]
  split
  · next h =>
    obtain ⟨hexb, hman⟩ := hf.with_inf h.2
    obtain ⟨-, hwid, hord, hS⟩ := hf.signed_spec hf.infCode_lt hs
    refine .inl ⟨h.1, h.2, ⟨by omega, h.2, ?_, ?_⟩, hwid, hS⟩
    · rw [hf.E_eq, hord, Nat.mul_div_cancel _ (Nat.two_pow_pos _)]
    · rw [hf.M_eq, hord, Nat.mul_mod_left]
  · next h1 =>
    split
    · next h =>
      refine .inr (.inl ⟨h.1, h.2, ?_⟩)
      rw [NFWord.nanCode, if_neg (by simp [h.2])]
    · next h2 =>
      exact .inr (.inr ⟨by omega, f.maxCode, hf.lt_of_le le_rfl, hf.isMax_maxCode, (hf.signed_spec hf.maxCode_lt hs).1⟩)
/-- A value of which R80 rounds the magnitude packs to the code of the rounded one, or as one beyond the codes. -/
theorem NFWord.Shaped.pack_fin_spec {neg : Bool} {m : Nat} {e : Int} (hs : f.sgn = 1 ∨ neg = false) (hexp : e + f.bias ≤ 512) {b q : Int} {k : Nat}
    (hb : (m : Rat) * 2 ^ e ≠ 0 → 2 ^ b ≤ (m : Rat) * 2 ^ e ∧ (m : Rat) * 2 ^ e < 2 ^ (b + 1))
    (hq : q = (if f.exb = 0 then -f.bias else max b (1 - f.bias) - ((f.wid : Int) - f.sgn - f.exb)))
    (hk : RoundsToInt f.mode (m * 2 ^ e * 2 ^ (-q)) k) :
    ((∃ c < 2 ^ f.wid, f.isFin c ∧ (k : Rat) * 2 ^ q ≤ f.mag c) → f.isFin (f.pack (.fin neg m e)) ∧ f.mag (f.pack (.fin neg m e)) = k * 2 ^ q
      ∧ (f.sgn = 1 → (f.S (f.pack (.fin neg m e)) = 1 ↔ neg = true)))
    ∧ ((∀ c < 2 ^ f.wid, f.isFin c → f.mag c < k * 2 ^ q) → f.Far neg (f.pack (.fin neg m e))) := by
  have hcode {c : Nat} (hc : c ≤ f.maxCode) : f.isFin (f.signed neg c) ∧ f.mag (f.signed neg c) = f.grid c ∧ (f.S (f.signed neg c) = 1 ↔ neg = true) := by
    obtain ⟨-, hwid, hord, hS⟩ := hf.signed_spec (hc.trans_lt hf.maxCode_lt) hs
    exact ⟨(hf.isFin_iff _).2 ⟨hwid, hord.trans_le hc⟩, by rw [hf.mag_eq, hord], hS⟩
  obtain ⟨place, hplace, hpack⟩ : ∃ place, f.grid place = k * 2 ^ q
      ∧ f.pack (.fin neg m e) = if place > f.maxCode then f.beyond neg else f.signed neg place := by
    by_cases hm : m = 0
    · subst hm
      have hk0 : (k : Int) = 0 := by
        refine RoundsToInt.unique f.mode_cases le_rfl ?_ (by simpa using roundsToInt_natCast f.mode 0)
        simpa using hk
      have hneg : (f.sgn == 0 && neg) = false := by rcases hs with h | h <;> simp [h]
      refine ⟨0, by rw [f.grid_zero, Nat.cast_eq_zero.2 (by exact_mod_cast hk0), zero_mul], ?_⟩
      rw [NFWord.pack, hneg]
      rfl
    · obtain ⟨hlo, hhi⟩ := units_binade hm e
      obtain ⟨hblo, hbhi⟩ := hb (by positivity)
      have hbe : b = e + bitLen m - 1 := by
        have h1 := (zpow_lt_zpow_iff_right₀ one_lt_two).1 (hblo.trans_lt hhi)
        have h2 := (zpow_lt_zpow_iff_right₀ one_lt_two).1 (hlo.trans_lt hbhi)
        omega
      have hqe : q = f.stepExp m e := by rw [hq, hbe, hf.man_cast]; rfl
      have hx : (m : Rat) * 2 ^ e * 2 ^ (-q) = m * 2 ^ (e - f.stepExp m e) := by rw [hqe, mul_assoc, ← zpow_add₀ two_ne_zero, sub_eq_add_neg]
      have hke : k = f.steps m e := by
        rw [hx] at hk
        exact_mod_cast RoundsToInt.unique f.mode_cases (by positivity) hk (f.steps_spec m e)
      exact ⟨f.place m e, by rw [f.grid_place hm, hke, hqe], hf.pack_of_fin hm hs hexp⟩
  rw [hpack, ← hplace]
  refine ⟨fun ⟨c, _, hc, hle⟩ => ?_, fun h => ?_⟩
  · have hin := f.grid_strictMono.le_iff_le.1 (hle.trans (hf.mag_le hc))
    rw [if_neg (not_lt.2 hin)]
    obtain ⟨hfin, hmag, hS⟩ := hcode hin
    exact ⟨hfin, hmag, fun _ => hS⟩
  · have hmax := h _ (hf.lt_of_le le_rfl) (hf.isFin_of_le le_rfl)
    rw [hf.mag_of_le le_rfl] at hmax
    rw [if_pos (f.grid_strictMono.lt_iff_lt.1 hmax)]
    exact hf.beyond_far hs

end

theorem fmt32_read_exp_le {a m : Nat} {neg : Bool} {e : Int} (h : fmt32.read a = .fin neg m e) : e ≤ 104 := by
  have hlt := Nat.mod_lt (a / 2 ^ fmt32.p) (Nat.two_pow_pos fmt32.e)
  have he : 2 ^ fmt32.e = 256 := by decide
  have hlow : fmt32.low = -149 := by decide
  simp only [Fmt.read, beq_iff_eq] at h
  rw [he] at h hlt
  rw [hlow] at h
  split at h
  · split at h <;> cases h
  · split at h
    · cases h
      decide
    · cases h
      omega

theorem unscaleVal_255 (v : FVal) : unscaleVal 255 v = .nan := by simp [unscaleVal]
theorem unscaleVal_nan (s : Nat) : unscaleVal s .nan = .nan := ite_self FVal.nan
theorem unscaleVal_inf {s : Nat} (h : s ≠ 255) (neg : Bool) : unscaleVal s (.inf neg) = .inf neg := by simp [unscaleVal, h]
theorem unscaleVal_fin {s : Nat} (h : s ≠ 255) (neg : Bool) (m : Nat) (e : Int) :
    unscaleVal s (.fin neg m e) = .fin neg m (e - ((s : Int) - 127)) := by simp [unscaleVal, h]

theorem NFWord.pack_inf {f : NFWord} {neg : Bool} (h : f.sgn = 1 ∨ neg = false) : f.pack (.inf neg) = f.beyond neg := by
  have hneg : (f.sgn == 0 && neg) = false := by rcases h with h | h <;> simp [h]
  simp only [NFWord.pack, NFWord.beyond, hneg, Bool.and_comm (f.prnd == 0), Bool.false_eq_true, if_false]
theorem NFWord.pack_unsigned {f : NFWord} (h : f.sgn = 0) {v : FVal} (hv : (∃ m e, v = .fin true m e) ∨ v = .inf true) : f.pack v = 0 := by
  rcases hv with ⟨m, e, rfl⟩ | rfl <;> simp [NFWord.pack, h]

/-- NFPACK's value under a scale (R82). -/
theorem NFWord.Shaped.pack_spec {f : NFWord} (hf : f.Shaped) (hbias : f.bias ≤ 127) {a s : Nat} (ha : fmt32.Code a) : f.Packs s a (f.packScaled a s) := by
  have hneg : decide (fmt32.neg a) = decide (2 ^ 31 ≤ a) := rfl
  have hminus {P : Prop} [Decidable P] (hs : f.sgn = 1 ∨ ¬P) : f.sgn = 1 ∨ decide P = false := hs.imp_right decide_eq_false
  refine ⟨fun h => ?_, fun h hs hm => ?_, fun h hs hi => ?_, fun h hs hfin => ?_⟩
  · have hnan : unscaleVal s (fmt32.read a) = .nan := by
      rcases h with h | rfl
      · rw [ha.read_of_nan h, unscaleVal_nan]
      · exact unscaleVal_255 _
    have hpack : f.packScaled a s = if f.spec = 0 then f.maxCode else 2 ^ (f.wid - f.sgn) - 1 := by
      rw [NFWord.packScaled, hnan, NFWord.pack, NFWord.nanCode]
      simp only [beq_iff_eq]
    rw [hpack]
    split
    · exact hf.isMax_maxCode
    · rfl
  · obtain ⟨hnan, h255⟩ := not_or.1 h
    refine NFWord.pack_unsigned hs ?_
    rcases (fmt32.class_cases a).resolve_left hnan with hc | hc
    · rw [ha.read_of_inf hc, unscaleVal_inf h255, hneg, decide_eq_true hm]
      exact .inr rfl
    · obtain ⟨m, e, hread, -⟩ := ha.read_of_fin hc
      rw [hread, unscaleVal_fin h255, hneg, decide_eq_true hm]
      exact .inl ⟨_, _, rfl⟩
  · obtain ⟨-, h255⟩ := not_or.1 h
    have hpack : f.packScaled a s = f.beyond (decide (2 ^ 31 ≤ a)) := by
      rw [NFWord.packScaled, ha.read_of_inf hi, unscaleVal_inf h255, hneg, NFWord.pack_inf (hminus hs)]
    have hfar := hf.beyond_far (hminus hs)
    rw [← hpack] at hfar
    simpa only [NFWord.Far, decide_eq_true_eq] using hfar
  · obtain ⟨-, h255⟩ := not_or.1 h
    obtain ⟨m, e, hread, hval, -⟩ := ha.read_of_fin hfin
    have hmag : fmt32.mag (fmt32.abs a) = m * 2 ^ e := by
      rw [Fmt.val, unitsVal] at hval
      by_cases hn : fmt32.neg a <;> simpa [hn] using hval
    have hx : fmt32.mag (fmt32.abs a) * 2 ^ (127 - (s : Int)) = m * 2 ^ (e - ((s : Int) - 127)) := by
      rw [hmag, mul_assoc, ← zpow_add₀ two_ne_zero]
      congr 2
      ring
    have hexp := fmt32_read_exp_le hread
    have hpack : f.packScaled a s = f.pack (.fin (decide (2 ^ 31 ≤ a)) m (e - ((s : Int) - 127))) := by
      rw [NFWord.packScaled, hread, unscaleVal_fin h255, hneg]
    intro x mm b q k hb hb0 hq hk y
    simp only [x, hx] at hb hk
    have hspec := hf.pack_fin_spec (hminus hs) (by omega) hb hq hk
    rw [← hpack] at hspec
    simpa only [NFWord.Far, decide_eq_true_eq] using hspec

end Sys2Proof.Machine
end


section
/-! The NF instructions (R265 to R267): the scale of a block, and what NFPACK, NFUNP and SCALEBLK write or refuse. -/

namespace Sys2Proof.Machine

/-! ### The scale of a block (R82, R267) -/

theorem foldl_max_le {α : Type} {g : α → Int} {l : List α} {t b : Int} : l.foldl (fun a v => max a (g v)) t ≤ b ↔ t ≤ b ∧ ∀ v ∈ l, g v ≤ b := by
  induction l generalizing t with
  | nil => simp
  | cons v l ih => simp [ih, and_assoc]

/-- The number of units of a finite code and its binade. -/
theorem fmt32_read_mag {a : Nat} (ha : fmt32.Code a) (h : fmt32.isFin a) :
    ((fmt32.read a).mag.1 = 0 ↔ fmt32.isZero a)
    ∧ (¬fmt32.isZero a → (2 : Rat) ^ magLog2 (fmt32.read a) ≤ fmt32.mag (fmt32.abs a) ∧ fmt32.mag (fmt32.abs a) < 2 ^ (magLog2 (fmt32.read a) + 1)) := by
  obtain ⟨m, e, hread, hval, hm⟩ := ha.read_of_fin h
  have hmag : fmt32.mag (fmt32.abs a) = m * 2 ^ e := by
    rw [Fmt.val, unitsVal] at hval
    by_cases hn : fmt32.neg a <;> simpa [hn] using hval
  rw [hread, hmag]
  refine ⟨hm, fun h0 => ?_⟩
  have := units_binade (mt hm.1 h0) e
  rw [← sub_add_cancel (e + bitLen m) 1, add_sub_cancel_right] at this
  exact this

/-- A value that is no number. -/
def FVal.special (v : FVal) : Bool := match v with
  | .nan | .inf _ => true
  | _ => false
theorem fmt32_special_iff {a : Nat} (ha : fmt32.Code a) : (fmt32.read a).special = true ↔ ¬fmt32.isFin a := by
  rcases fmt32.class_cases a with h | h | h
  · rw [ha.read_of_nan h]
    exact iff_of_true rfl h.not_gt
  · rw [ha.read_of_inf h]
    exact iff_of_true rfl h.not_lt
  · obtain ⟨m, e, hread, -⟩ := ha.read_of_fin h
    rw [hread]
    exact iff_of_false Bool.false_ne_true (not_not.2 h)

theorem NFWord.blockScale_eq (f : NFWord) (xs : List Nat) : f.blockScale xs =
    if (xs.map fmt32.read).any FVal.special then 255
    else if ((xs.map fmt32.read).filter fun v => v.mag.1 != 0).isEmpty then 127
    else (clampInt (((xs.map fmt32.read).filter fun v => v.mag.1 != 0).foldl (fun a v => max a (magLog2 v)) (-1000)
      - magLog2 (f.value f.maxCode) + 127) 0 254).toNat := rfl

theorem NFWord.Shaped.blockScale_spec {f : NFWord} (hf : f.Shaped) {xs : List Nat} (hxs : ∀ a ∈ xs, fmt32.Code a) : f.IsScale xs (f.blockScale xs) := by
  have hspecial : (xs.map fmt32.read).any FVal.special = true ↔ ∃ a ∈ xs, ¬fmt32.isFin a := by
    rw [List.any_map, List.any_eq_true]
    exact exists_congr fun a => and_congr_right fun h => fmt32_special_iff (hxs a h)
  have hlive : (∀ a ∈ xs, fmt32.isFin a) → (((xs.map fmt32.read).filter fun v => v.mag.1 != 0).isEmpty = true ↔ ∀ a ∈ xs, fmt32.isZero a) := fun h => by
    rw [List.isEmpty_iff, List.filter_eq_nil_iff, List.forall_mem_map]
    refine forall_congr' fun a => forall_congr' fun ha => ?_
    rw [bne_iff_ne, not_not, (fmt32_read_mag (hxs a ha) (h a ha)).1]
  rw [NFWord.blockScale_eq]
  refine ⟨fun h => if_pos (hspecial.2 h), fun h => ?_, fun h b e c hb hall hc hmax he1 he2 => ?_⟩
  · have hfin : ∀ a ∈ xs, fmt32.isFin a := fun a ha => (h a ha).trans_lt fmt32_pos.2
    rw [if_neg (mt hspecial.1 (by push Not; exact hfin)), if_pos ((hlive hfin).2 h)]
  · obtain ⟨a, ha, hba⟩ := hb
    have hzero {a : Nat} (h0 : fmt32.isZero a) : fmt32.mag (fmt32.abs a) = 0 := by rw [h0, Fmt.mag_eq]; simp
    have hnz : ¬fmt32.isZero a := fun h0 => absurd (hba.trans_eq (hzero h0)) (not_le.2 (by positivity))
    rw [if_neg (mt hspecial.1 (by push Not; exact h)), if_neg (mt (hlive h).1 fun h0 => hnz (h0 a ha))]
    have htop : ((xs.map fmt32.read).filter fun v => v.mag.1 != 0).foldl (fun a v => max a (magLog2 v)) (-1000) = b := by
      have hmem {a : Nat} (ha : a ∈ xs) (h0 : ¬fmt32.isZero a) : fmt32.read a ∈ (xs.map fmt32.read).filter fun v => v.mag.1 != 0 :=
        List.mem_filter.2 ⟨List.mem_map_of_mem ha, bne_iff_ne.2 (mt (fmt32_read_mag (hxs a ha) (h a ha)).1.1 h0)⟩
      refine le_antisymm (foldl_max_le.2 ⟨?_, fun v hv => ?_⟩) ?_
      · have hone : fmt32.mag 1 = 2 ^ (-149 : Int) := by norm_num [Fmt.mag, fmt32]
        have := ((fmt32.mag_strictMono.monotone (Nat.pos_of_ne_zero hnz)).trans_lt (hall a ha))
        rw [hone, zpow_lt_zpow_iff_right₀ one_lt_two] at this
        omega
      · obtain ⟨hv, hlive⟩ := List.mem_filter.1 hv
        obtain ⟨a, ha, rfl⟩ := List.mem_map.1 hv
        obtain ⟨hz, hbin⟩ := fmt32_read_mag (hxs a ha) (h a ha)
        have := (hbin (mt hz.2 (bne_iff_ne.1 hlive))).1.trans_lt (hall a ha)
        rw [zpow_lt_zpow_iff_right₀ one_lt_two] at this
        omega
      · have := hba.trans_lt ((fmt32_read_mag (hxs a ha) (h a ha)).2 hnz).2
        rw [zpow_lt_zpow_iff_right₀ one_lt_two] at this
        exact (Int.lt_add_one_iff.1 this).trans ((foldl_max_le.1 le_rfl).2 _ (hmem ha hnz))
    have hmaxlog : magLog2 (f.value f.maxCode) = e := by
      obtain ⟨m, e', hval, hm, hgrid⟩ := hf.value_maxCode
      obtain ⟨hlo, hhi⟩ := units_binade hm e'
      rw [hf.mag_of_isMax hmax, hgrid] at he1 he2
      have h1 := (zpow_lt_zpow_iff_right₀ one_lt_two).1 (hlo.trans_lt he2)
      have h2 := (zpow_lt_zpow_iff_right₀ one_lt_two).1 (he1.trans_lt hhi)
      have hlog : magLog2 (f.value f.maxCode) = e' + bitLen m - 1 := by rw [hval]; rfl
      omega
    rw [htop, hmaxlog, clampInt, Int.toNat_of_nonneg (le_max_left ..)]

/-- The scale depends on which values the block holds, not on their order. -/
theorem NFWord.IsScale.congr {f : NFWord} {xs ys : List Nat} {x : Nat} (h : f.IsScale xs x) (hmem : ∀ a, a ∈ xs ↔ a ∈ ys) : f.IsScale ys x := by
  simpa only [NFWord.IsScale, hmem] using h

theorem NFWord.blockScale_lt (f : NFWord) (xs : List Nat) : f.blockScale xs < 256 := by
  rw [NFWord.blockScale_eq]
  split
  · decide
  · split
    · decide
    · rw [clampInt]
      omega

/-- The places of a block. -/
theorem mem_block_iff {n l e : Nat} (hn : 0 < n) : (∃ j ∈ List.range n, l / n * n + j = e) ↔ e / n = l / n := by
  constructor
  · rintro ⟨j, hj, rfl⟩
    rw [Nat.mul_comm, Nat.mul_add_div hn, Nat.div_eq_of_lt (List.mem_range.1 hj), Nat.add_zero]
  · intro h
    exact ⟨e % n, List.mem_range.2 (Nat.mod_lt _ hn), h ▸ Nat.div_add_mod' e n⟩

/-- The values of a block (R267). -/
def blockElems (v : View) (part : List Nat) (n : Nat) (a c : Operand) (l : Nat) : List Nat :=
  (part.filter fun j => j / n = l / n).map (fun j => (v.src32 j a).toNat) ++ (part.filter fun j => (v.W + j) / n = l / n).map fun j => (v.src32 j c).toNat

theorem mem_blockElems {v : View} {part : List Nat} {n : Nat} (hn : 0 < n) (hpart : ∀ l ∈ part, l < v.W) (a c : Operand) (l x : Nat) :
    x ∈ (((List.range n).map fun j => l / n * n + j).filterMap fun e =>
      if e < v.W then (if part.contains e then some (v.src32 e a).toNat else none)
      else if e < 2 * v.W then (if part.contains (e - v.W) then some (v.src32 (e - v.W) c).toNat else none)
      else none) ↔ x ∈ blockElems v part n a c l := by
  rw [List.mem_filterMap, blockElems, List.mem_append, List.mem_map, List.mem_map]
  simp only [List.mem_map, mem_block_iff hn, List.mem_filter, decide_eq_true_eq, List.contains_iff_mem]
  constructor
  · rintro ⟨e, he, hx⟩
    split at hx
    · split at hx
      · next hmem => exact .inl ⟨e, ⟨hmem, he⟩, Option.some.inj hx⟩
      · cases hx
    · next hW =>
      split at hx
      · split at hx
        · next hmem => exact .inr ⟨e - v.W, ⟨hmem, by rwa [Nat.add_sub_cancel' (not_lt.1 hW)]⟩, Option.some.inj hx⟩
        · cases hx
      · cases hx
  · rintro (⟨j, ⟨hj, hjn⟩, rfl⟩ | ⟨j, ⟨hj, hjn⟩, rfl⟩)
    · exact ⟨j, hjn, by rw [if_pos (hpart j hj), if_pos hj]⟩
    · have := hpart j hj
      exact ⟨v.W + j, hjn, by rw [if_neg (by omega), if_pos (by omega), Nat.add_sub_cancel_left, if_pos hj]⟩

theorem blockScaleAt_spec {v : View} {part : List Nat} {f : NFWord} (hf : f.Shaped) (hblk : f.blk = 1 ∨ f.blk = 2) (hpart : ∀ l ∈ part, l < v.W)
    (a c : Operand) (l : Nat) : f.IsScale (blockElems v part (16 * f.blk) a c l) (blockScaleAt v part f a c l) := by
  have hblock : f.block = 16 * f.blk := by
    rw [NFWord.block]
    rcases hblk with h | h <;> rw [h] <;> rfl
  have hmem := mem_blockElems (n := f.block) (by omega) hpart a c l
  rw [← hblock]
  refine NFWord.IsScale.congr (hf.blockScale_spec fun x hx => ?_) hmem
  rcases List.mem_append.1 ((hmem x).1 hx) with h | h
  · obtain ⟨j, -, rfl⟩ := List.mem_map.1 h
    exact fmt32_code_word _
  · obtain ⟨j, -, rfl⟩ := List.mem_map.1 h
    exact fmt32_code_word _

/-! ### Codes in their containers (R79, R266) -/

section
variable {f : NFWord} (hf : f.Shaped)
include hf
theorem NFWord.Shaped.signed_lt (neg : Bool) {c : Nat} (hc : c < 2 ^ (f.wid - f.sgn)) : f.signed neg c < 2 ^ f.wid := by
  by_cases hs : f.sgn = 1 ∨ neg = false
  · exact (hf.signed_spec hc hs).2.1
  · have : f.signed neg c = c := by
      rw [NFWord.signed, beq_eq_false_iff_ne.2 (not_or.1 hs).1, Bool.and_false]
      rfl
    exact this.trans_lt (hc.trans_le (Nat.pow_le_pow_right two_pos (Nat.sub_le ..)))
theorem NFWord.Shaped.nanCode_lt : f.nanCode < 2 ^ f.wid := by
  rw [NFWord.nanCode]
  split
  · exact hf.lt_of_le le_rfl
  · exact (Nat.sub_lt (Nat.two_pow_pos _) one_pos).trans_le (Nat.pow_le_pow_right two_pos (Nat.sub_le ..))
theorem NFWord.Shaped.beyond_lt (neg : Bool) : f.beyond neg < 2 ^ f.wid := by
  rw [NFWord.beyond]
  split
  · exact hf.signed_lt neg hf.infCode_lt
  · split
    · exact hf.nanCode_lt
    · exact hf.signed_lt neg hf.maxCode_lt
theorem NFWord.Shaped.pack_lt (v : FVal) : f.pack v < 2 ^ f.wid := by
  have hzero : 0 < 2 ^ f.wid := Nat.two_pow_pos _
  have hplace (neg : Bool) (c : Nat) : (if c > f.maxCode then f.beyond neg else f.signed neg c) < 2 ^ f.wid := by
    split
    · exact hf.beyond_lt neg
    · next h => exact hf.signed_lt neg ((not_lt.1 h).trans_lt hf.maxCode_lt)
  unfold NFWord.pack
  cases v with
  | nan => exact hf.nanCode_lt
  | inf neg =>
    dsimp only
    split
    · exact hzero
    · split
      · exact hf.signed_lt neg hf.infCode_lt
      · split
        · exact hf.nanCode_lt
        · exact hf.signed_lt neg hf.maxCode_lt
  | fin neg m e =>
    dsimp only
    split
    · exact hzero
    · split
      · exact hf.signed_lt neg (Nat.two_pow_pos _)
      · exact hplace neg _
end

/-- A container laid into a number, and the other containers. -/
theorem laid_box {n k v : Nat} (x : Nat) (hv : v < 2 ^ n) (j : Nat) :
    (x / 2 ^ (n * (k + 1)) * 2 ^ (n * (k + 1)) + v * 2 ^ (n * k) + x % 2 ^ (n * k)) / 2 ^ (n * j) % 2 ^ n
      = if j = k then v else x / 2 ^ (n * j) % 2 ^ n := by
  refine Nat.eq_of_testBit_eq fun i => ?_
  rw [Nat.mul_succ, Nat.testBit_mod_two_pow, Nat.testBit_div_two_pow, testBit_laid x hv]
  by_cases hi : i < n
  · by_cases hj : j = k
    · rw [if_pos hj, hj, if_pos (by omega), Nat.add_sub_cancel, decide_eq_true hi, Bool.true_and]
    · have hout : ¬(n * k ≤ i + n * j ∧ i + n * j < n * k + n) := by
        rcases Nat.lt_or_gt_of_ne hj with h | h
        · have := Nat.mul_le_mul_left n (Nat.succ_le_of_lt h)
          rw [Nat.mul_succ] at this
          omega
        · have := Nat.mul_le_mul_left n (Nat.succ_le_of_lt h)
          rw [Nat.mul_succ] at this
          omega
      rw [if_neg hj, if_neg hout, Nat.testBit_mod_two_pow, Nat.testBit_div_two_pow]
  · rw [decide_eq_false hi, Bool.false_and]
    split
    · exact (Nat.testBit_lt_two_pow (hv.trans_le (Nat.pow_le_pow_right two_pos (not_lt.1 hi)))).symm
    · rw [Nat.testBit_mod_two_pow, decide_eq_false hi, Bool.false_and]
theorem laid_lt {n k v : Nat} (x : Word) (hv : v < 2 ^ n) (hk : n * (k + 1) ≤ 32) :
    x.toNat / 2 ^ (n * (k + 1)) * 2 ^ (n * (k + 1)) + v * 2 ^ (n * k) + x.toNat % 2 ^ (n * k) < 2 ^ 32 := by
  rw [Nat.mul_succ] at hk ⊢
  refine Nat.lt_pow_two_of_testBit _ fun i hi => ?_
  rw [testBit_laid _ hv, if_neg (by omega)]
  exact Nat.testBit_lt_two_pow (x.isLt.trans_le (Nat.pow_le_pow_right two_pos hi))

/-! ### The instructions -/

theorem NFWord.ofNat_bounds (w : Nat) :
    (NFWord.ofNat w).sgn ≤ 1 ∧ (NFWord.ofNat w).spec ≤ 3 ∧ (NFWord.ofNat w).blk ≤ 3 ∧ (NFWord.ofNat w).bias ≤ 127 := by
  refine ⟨?_, ?_, ?_, ?_⟩
  · exact Nat.le_of_lt_succ (Nat.mod_lt _ two_pos)
  · exact Nat.le_of_lt_succ (Nat.mod_lt _ (by decide))
  · exact Nat.le_of_lt_succ (Nat.mod_lt _ (by decide))
  · show (if w / 256 % 256 < 128 then ((w / 256 % 256 : Nat) : Int) else (w / 256 % 256 : Nat) - 256) ≤ 127
    split <;> omega

/-- A format word that an NF instruction takes for container `k` (R266). -/
def NFWord.Takes (f : NFWord) (k : Nat) : Prop := f.WellFormed ∧ k < 32 / if f.wid ≤ 4 then 4 else 8
theorem NFWord.takes_iff (w k : Nat) : (!(NFWord.ofNat w).wf || decide ((NFWord.ofNat w).perWord ≤ k)) = true ↔ ¬(NFWord.ofNat w).Takes k := by
  obtain ⟨hsgn, hspec, -⟩ := NFWord.ofNat_bounds w
  have hper : (NFWord.ofNat w).perWord = 32 / if (NFWord.ofNat w).wid ≤ 4 then 4 else 8 := by
    rw [NFWord.perWord]
    split <;> rfl
  rw [NFWord.Takes, ← NFWord.wf_iff hsgn hspec, hper, Bool.or_eq_true, Bool.not_eq_true', decide_eq_true_eq, not_and_or, not_lt, Bool.not_eq_true]

section
variable {s : State} {c : Site} {i : Instr} {g : Guard} {k : Nat} {d : Reg} {b : Operand} {f : View → Nat → Word} (h : Starts i s c)
include h
/-- With every active lane's format word good an NF instruction writes its result. -/
theorem nfOp_of_good (hgood : ∀ l ∈ c.view.active g, (NFWord.ofNat (c.view.src32 l b).toNat).Takes k) :
    nfOp i g k d b s f = .next (s.after c i (c.view.put32 g d (f c.view))).reap := by
  rw [nfOp, enter_of h.1 h.2]
  split
  · next hg =>
    cases d with
    | v n => cases hg
    | s n =>
      have hacts : c.view.acts g = false := (by simpa using hg : _ ∧ _).2
      rw [finish_after h.1, View.put32, if_neg (by rw [hacts]; exact Bool.false_ne_true)]
  · have hnone : badFormat c g k b = none := by
      rw [badFormat, Option.map_eq_none_iff, List.find?_eq_none]
      exact fun l hl => mt (NFWord.takes_iff _ k).1 (not_not.2 (hgood l hl))
    rw [hnone]
    exact congrArg _ (putRegs_finish ..)
/-- With a bad one it is illegal, for the lowest such lane. -/
theorem nfOp_of_bad (hd : d.isVec = true ∨ c.view.acts g = true) (hbad : ∃ l ∈ c.view.active g, ¬(NFWord.ofNat (c.view.src32 l b).toNat).Takes k) :
    ∃ l ∈ c.view.active g, ¬(NFWord.ofNat (c.view.src32 l b).toNat).Takes k
      ∧ nfOp i g k d b s f = .next (s.raise c i { cause := 1, check := 2, lane := some l }) := by
  have hguard : ¬(!d.isVec && !c.view.acts g) = true := by rcases hd with h | h <;> simp [h]
  obtain ⟨l, hl, hbad⟩ := hbad
  have hfind := List.find?_isSome (p := fun l => !(NFWord.ofNat (c.view.src32 l b).toNat).wf || decide ((NFWord.ofNat (c.view.src32 l b).toNat).perWord ≤ k)).2
    ⟨l, hl, (NFWord.takes_iff _ k).2 hbad⟩
  obtain ⟨j, hj⟩ := Option.isSome_iff_exists.1 hfind
  have hjbad := List.find?_some hj
  refine ⟨j, List.mem_of_find?_eq_some hj, (NFWord.takes_iff _ k).1 hjbad, ?_⟩
  have hsome : badFormat c g k b = some { cause := 1, check := 2, lane := some j } := by
    rw [badFormat]
    exact congrArg (Option.map _) hj
  rw [nfOp, enter_of h.1 h.2, if_neg hguard, hsome]
end

/-- What NFPACK writes in a lane. -/
def packedAt (v : View) (k : Nat) (d : Reg) (x y z : Operand) (l : Nat) : Nat :=
  let f := NFWord.ofNat (v.src32 l y).toNat
  let old := (v.reg32 l d).toNat
  old / 2 ^ (f.container * (k + 1)) * 2 ^ (f.container * (k + 1))
    + f.packScaled (v.src32 l x).toNat (scaleByte f (v.src32 l z)) * 2 ^ (f.container * k) + old % 2 ^ (f.container * k)
/-- What NFUNP writes in a lane. -/
def unpackedAt (v : View) (k : Nat) (x y z : Operand) (l : Nat) : Nat :=
  let f := NFWord.ofNat (v.src32 l y).toNat
  f.unpackScaled ((v.src32 l x).toNat / 2 ^ (f.container * k) % 2 ^ f.wid) (scaleByte f (v.src32 l z))

section
variable {s : State} {c : Site} {g : Guard} {k : Fin 8} {d : Reg} {x y z : Operand}
theorem exec_nfpack_good (h : Starts (.nfpack g k d x y z) s c) (hgood : ∀ l ∈ c.view.active g, (NFWord.ofNat (c.view.src32 l y).toNat).Takes k.val) :
    exec (.nfpack g k d x y z) s = .next (s.after c (.nfpack g k d x y z)
      (c.view.put32 g d fun l => ofBits (packedAt c.view k.val d x y z l))).reap := by
  rw [exec_nfpack, execNfpack, nfOp_of_good h hgood]
  rfl
theorem exec_nfunp_good (h : Starts (.nfunp g k d x y z) s c) (hgood : ∀ l ∈ c.view.active g, (NFWord.ofNat (c.view.src32 l y).toNat).Takes k.val) :
    exec (.nfunp g k d x y z) s = .next (s.after c (.nfunp g k d x y z)
      (c.view.put32 g d fun l => ofBits (unpackedAt c.view k.val x y z l))).reap := by
  rw [exec_nfunp, execNfunp, nfOp_of_good h hgood]
  rfl
theorem exec_nf_bad {i : Instr} (hi : i ∈ [Instr.nfpack g k d x y z, .nfunp g k d x y z]) (h : Starts i s c) (hd : d.isVec = true ∨ c.view.acts g = true)
    (hbad : ∃ l ∈ c.view.active g, ¬(NFWord.ofNat (c.view.src32 l y).toNat).Takes k.val) :
    ∃ l ∈ c.view.active g, ¬(NFWord.ofNat (c.view.src32 l y).toNat).Takes k.val
      ∧ exec i s = .next (s.raise c i { cause := 1, check := 2, lane := some l }) := by
  rcases List.mem_cons.1 hi with rfl | hi
  · rw [exec_nfpack, execNfpack]
    exact nfOp_of_bad h hd hbad
  · obtain rfl := List.mem_singleton.1 hi
    rw [exec_nfunp, execNfunp]
    exact nfOp_of_bad h hd hbad
end

theorem NFWord.code_unpackScaled (f : NFWord) (c s : Nat) : fmt32.Code (f.unpackScaled c s) := by
  rw [NFWord.unpackScaled]
  split
  · exact Fmt.code_write fmt32_pos.1 ..
  · split
    · exact fmt32_code_nan
    · split <;> exact Fmt.code_write fmt32_pos.1 ..

/-- The lanes of an NF scale (R267). -/
def scaleLanes (v : View) (g : Guard) (d : Reg) : List Nat := if d.isVec then v.active g else v.enabled

section
variable {s : State} {c : Site} {g : Guard} {d : Reg} {x y z : Operand} (h : Starts (.scaleblk g d x y z) s c)
include h
theorem exec_scaleblk_good (hgood : (NFWord.ofNat (c.view.src32 c.view.lead y).toNat).WellFormed ∧ (NFWord.ofNat (c.view.src32 c.view.lead y).toNat).sck = 1) :
    exec (.scaleblk g d x y z) s = .next (s.after c (.scaleblk g d x y z) (c.view.put32 g d fun l =>
      ofBits (blockScaleAt c.view (scaleLanes c.view g d) (NFWord.ofNat (c.view.src32 c.view.lead y).toNat) x z l))).reap := by
  obtain ⟨hsgn, hspec, -⟩ := NFWord.ofNat_bounds (c.view.src32 c.view.lead y).toNat
  have hwf := (NFWord.wf_iff hsgn hspec).2 hgood.1
  rw [exec_scaleblk, execScaleblk, enter_of h.1 h.2]
  split
  · next hg =>
    cases d with
    | v n => cases hg
    | s n =>
      have hacts : c.view.acts g = false := (by simpa using hg : _ ∧ _).2
      rw [finish_after h.1, View.put32, if_neg (by rw [hacts]; exact Bool.false_ne_true)]
  · dsimp only
    rw [if_neg (by simp [hwf, hgood.2]), putRegs_finish]
    rfl
theorem exec_scaleblk_bad (hd : if d.isVec then c.view.active g ≠ [] else c.view.acts g = true)
    (hbad : ¬((NFWord.ofNat (c.view.src32 c.view.lead y).toNat).WellFormed ∧ (NFWord.ofNat (c.view.src32 c.view.lead y).toNat).sck = 1)) :
    exec (.scaleblk g d x y z) s = .next (s.raise c (.scaleblk g d x y z) (Trap.illegal 2)) := by
  obtain ⟨hsgn, hspec, -⟩ := NFWord.ofNat_bounds (c.view.src32 c.view.lead y).toNat
  rw [← NFWord.wf_iff hsgn hspec] at hbad
  have hguard : ¬(!d.isVec && !c.view.acts g) = true := by
    cases d with
    | v n => exact Bool.false_ne_true
    | s n =>
      have hacts : c.view.acts g = true := hd
      rw [hacts, Bool.not_true, Bool.and_false]
      exact Bool.false_ne_true
  have hlanes : scaleLanes c.view g d ≠ [] := by
    cases d with
    | v n => exact hd
    | s n =>
      have hacts : c.view.acts g = true := hd
      intro hnone
      rw [View.acts, show c.view.enabled = [] from hnone] at hacts
      cases hacts
  rw [exec_scaleblk, execScaleblk, enter_of h.1 h.2, if_neg hguard]
  dsimp only
  rw [if_pos]
  have hempty : (if d.isVec = true then c.view.active g else c.view.enabled).isEmpty = false := List.isEmpty_eq_false_iff.2 hlanes
  rw [hempty, Bool.not_false, Bool.and_true, Bool.not_eq_true', ← Bool.not_eq_true, Bool.and_eq_true, decide_eq_true_eq]
  exact hbad
end

theorem scaleLanes_lt {v : View} {g : Guard} {d : Reg} {l : Nat} (h : l ∈ scaleLanes v g d) : l < v.W := by
  have henabled : l ∈ v.enabled := by
    rw [scaleLanes] at h
    split at h
    · exact List.mem_of_mem_filter h
    · exact h
  exact (mem_lanesOf.1 henabled).1

end Sys2Proof.Machine

namespace Sys2Proof
open Machine

/-- Settles O16: a code is packed by its place in the order of magnitudes, and the first lane with a bad format word is the trap's. -/
theorem narrowFormats : Obligations.NarrowFormats := by
  unfold Obligations.NarrowFormats
  intro s c g k d x y z v act A C word bits good scale box gives one elems
  have hbounds (l : Nat) := NFWord.ofNat_bounds (v.src32 l y).toNat
  have hshape {l : Nat} (h : good l) : (word l).Shaped := h.1.shaped (hbounds l).1 (hbounds l).2.1
  have hwid {l : Nat} (h : good l) : 2 ^ (word l).wid ≤ 2 ^ bits l := by
    have := (hshape h).wid_le
    refine Nat.pow_le_pow_right two_pos ?_
    show (word l).wid ≤ if (word l).wid ≤ 4 then 4 else 8
    split <;> omega
  have hk {l : Nat} (h : good l) : bits l * (k.val + 1) ≤ 32 := (Nat.mul_le_mul_left _ (Nat.succ_le_of_lt h.2)).trans (Nat.mul_div_le 32 (bits l))
  refine ⟨fun hall h => ?_, fun hall h => ?_, fun hd hbad i hi h => exec_nf_bad hi h hd hbad, fun hwf hsck h => ?_, fun hd hbad h => exec_scaleblk_bad h hd hbad⟩
  · refine ⟨_, _, exec_nfpack_good h hall, fun l hl => ?_, View.put32_writes ..⟩
    have hl := hall l hl
    have hlt := ((hshape hl).pack_lt (unscaleVal (scale l) (fmt32.read (A l)))).trans_le (hwid hl)
    have hout : (ofBits (packedAt v k.val d x y z l)).toNat = packedAt v k.val d x y z l := ofBits_toNat (laid_lt _ hlt (hk hl))
    have hbox (j : Nat) : box l (packedAt v k.val d x y z l) j = if j = k.val then (word l).packScaled (A l) (scale l) else box l (v.reg32 l d).toNat j :=
      laid_box _ hlt j
    rw [hout]
    refine ⟨?_, fun j _ hj => (hbox j).trans (if_neg hj)⟩
    rw [hbox, if_pos rfl]
    exact (hshape hl).pack_spec (hbounds l).2.2.2 (fmt32_code_word _)
  · refine ⟨_, _, exec_nfunp_good h hall, fun l hl => ?_, View.put32_writes ..⟩
    have hl := hall l hl
    have hdvd : 2 ^ (word l).wid ∣ 2 ^ bits l := Nat.pow_dvd_pow 2 ((Nat.pow_le_pow_iff_right one_lt_two).1 (hwid hl))
    have hcode : box l (A l) k.val % 2 ^ (word l).wid = A l / 2 ^ (bits l * k.val) % 2 ^ (word l).wid := Nat.mod_mod_of_dvd _ hdvd
    have hout : (ofBits (unpackedAt v k.val x y z l)).toNat = unpackedAt v k.val x y z l := ofBits_toNat (NFWord.code_unpackScaled ..)
    rw [hout]
    beta_reduce
    rw [hcode]
    exact (hshape hl).unpack_spec (Nat.mod_lt _ (Nat.two_pow_pos _)) fun h0 => if_neg (by rw [h0]; exact zero_ne_one)
  · refine ⟨_, _, exec_scaleblk_good h ⟨hwf, hsck⟩, fun l _ => ?_, View.put32_writes ..⟩
    obtain ⟨hsgn, hspec, hblk3, -⟩ := NFWord.ofNat_bounds (v.src32 v.lead y).toNat
    have hblk : one.blk = 1 ∨ one.blk = 2 := by
      obtain ⟨-, -, -, -, hne, -, -, -, hiff, -⟩ := hwf
      have hle : one.blk ≤ 3 := hblk3
      omega
    have hout : (ofBits (blockScaleAt v (scaleLanes v g d) one x z l)).toNat = blockScaleAt v (scaleLanes v g d) one x z l :=
      ofBits_toNat ((NFWord.blockScale_lt ..).trans (by decide : 256 < 2 ^ 32))
    rw [hout]
    exact blockScaleAt_spec (hwf.shaped hsgn hspec) hblk (fun l => scaleLanes_lt) x z l

end Sys2Proof
end


section
/-! The bounds of FEXP2, FLOG2, FSIN and FCOS against the functions they bound (R249): each fixed-point series stays within a few
thousand units of the function, and the series' tails are geometric. -/

namespace Sys2Proof.Machine

/-! ### Fixed-point numbers near real ones -/

/-- Both bounds lie within `ε` units of a real number of units. -/
def Bounds.Near (b : Bounds) (X ε : ℝ) : Prop := |(b.lo : ℝ) - X| ≤ ε ∧ |(b.hi : ℝ) - X| ≤ ε

theorem abs_natDiv_sub_div_le (n d : ℕ) : |((n / d : ℕ) : ℝ) - n / d| ≤ 1 := by
  have h1 : ((n / d : ℕ) : ℝ) ≤ n / d := Nat.cast_div_le
  have h2 : (n : ℝ) / d ≤ (n / d : ℕ) + 1 := (Nat.lt_floor_add_one ((n : ℝ) / d)).le.trans_eq (by rw [Nat.floor_div_eq_div])
  rw [abs_le]
  constructor <;> linarith

/-- A floored quotient of a number near a real one. -/
theorem abs_natDiv_sub_le {a d : ℕ} {X ε : ℝ} (h : |(a : ℝ) - X| ≤ ε) : |((a / d : ℕ) : ℝ) - X / d| ≤ ε / d + 1 := by
  calc |((a / d : ℕ) : ℝ) - X / d| ≤ |((a / d : ℕ) : ℝ) - a / d| + |(a : ℝ) / d - X / d| := abs_sub_le ..
    _ ≤ 1 + ε / d := by
      refine add_le_add (abs_natDiv_sub_div_le a d) ?_
      rw [← sub_div, abs_div, Nat.abs_cast]
      exact div_le_div_of_nonneg_right h (Nat.cast_nonneg d)
    _ = ε / d + 1 := add_comm ..
theorem abs_natDiv_sub_le_add_one {a d : ℕ} {X ε : ℝ} (hd : 0 < d) (h : |(a : ℝ) - X| ≤ ε) : |((a / d : ℕ) : ℝ) - X / d| ≤ ε + 1 :=
  (abs_natDiv_sub_le h).trans (add_le_add_left (div_le_self ((abs_nonneg _).trans h) (by exact_mod_cast hd)) 1)

/-- A floored product of numbers near real ones of at most one. -/
theorem abs_natMul_sub_le {P a b : ℕ} {X Y ε δ : ℝ} (ha : |(a : ℝ) - X| ≤ ε) (hb : |(b : ℝ) - Y| ≤ δ) (hX : |X| ≤ 2 ^ P) (hY : |Y| ≤ 2 ^ P) (hε : ε ≤ 2 ^ P) :
    |((a * b / 2 ^ P : ℕ) : ℝ) - X * Y / 2 ^ P| ≤ ε + 2 * δ + 1 := by
  have hU : (0 : ℝ) < 2 ^ P := by positivity
  have hprod : |((a * b : ℕ) : ℝ) - X * Y| ≤ (ε + 2 * δ) * 2 ^ P := by
    have hsplit : ((a * b : ℕ) : ℝ) - X * Y = (a - X) * Y + a * (b - Y) := by push_cast; ring
    have haX : |(a : ℝ)| ≤ 2 * 2 ^ P := by
      have := abs_sub_abs_le_abs_sub (a : ℝ) X
      linarith
    calc |((a * b : ℕ) : ℝ) - X * Y| ≤ |(a : ℝ) - X| * |Y| + |(a : ℝ)| * |(b : ℝ) - Y| := by
          rw [hsplit, ← abs_mul, ← abs_mul]
          exact abs_add_le ..
      _ ≤ ε * 2 ^ P + 2 * 2 ^ P * δ := by
          refine add_le_add (mul_le_mul ha hY (abs_nonneg _) ((abs_nonneg _).trans ha)) (mul_le_mul haX hb (abs_nonneg _) (by positivity))
      _ = (ε + 2 * δ) * 2 ^ P := by ring
  have := abs_natDiv_sub_le (d := 2 ^ P) hprod
  push_cast at this
  rwa [mul_div_cancel_right₀ _ hU.ne'] at this

theorem Bounds.Near.mul {P : ℕ} {x y : Bounds} {X Y ε δ : ℝ} (hx : x.Near X ε) (hy : y.Near Y δ) (hX : |X| ≤ 2 ^ P) (hY : |Y| ≤ 2 ^ P) (hε : ε ≤ 2 ^ P) :
    (x.mul P y).Near (X * Y / 2 ^ P) (ε + 2 * δ + 2) := by
  have hlo := abs_natMul_sub_le hx.1 hy.1 hX hY hε
  have hhi := abs_natMul_sub_le hx.2 hy.2 hX hY hε
  refine ⟨hlo.trans (by linarith), ?_⟩
  rw [Bounds.mul]
  push_cast
  rw [abs_le] at hhi ⊢
  constructor <;> linarith

theorem Bounds.Near.mono {b : Bounds} {X ε δ : ℝ} (h : b.Near X ε) (hle : ε ≤ δ) : b.Near X δ := ⟨h.1.trans hle, h.2.trans hle⟩

/-! ### ln 2 and π -/

theorem atanhSum_near {q2 : ℕ} (hq : 2 ≤ q2) (n i : ℕ) {pw : ℕ} {T : ℝ} (h : |(pw : ℝ) - T| ≤ 2) :
    |(atanhSum q2 n i pw : ℝ) - ∑ j ∈ Finset.range n, T * (1 / q2) ^ j / (2 * (i + j) + 1)| ≤ 3 * n := by
  induction n generalizing i pw T with
  | zero => simp [atanhSum]
  | succ n ih =>
    have hq' : (2 : ℝ) ≤ q2 := by exact_mod_cast hq
    have hterm := abs_natDiv_sub_le_add_one (d := 2 * i + 1) (Nat.succ_pos _) h
    have hnext : |((pw / q2 : ℕ) : ℝ) - T * (1 / q2)| ≤ 2 := by
      rw [mul_one_div]
      refine (abs_natDiv_sub_le h).trans ?_
      have : (2 : ℝ) / q2 ≤ 1 := (div_le_one (by linarith)).2 hq'
      linarith
    have hrest := ih (i + 1) hnext
    have hshift (j : ℕ) : T * (1 / q2) ^ (j + 1) / (2 * (i + ((j + 1 : ℕ) : ℝ)) + 1) = T * (1 / q2) * (1 / q2) ^ j / (2 * (((i + 1 : ℕ) : ℝ) + j) + 1) := by
      push_cast
      ring
    rw [Finset.sum_range_succ', atanhSum]
    simp only [hshift]
    push_cast at hterm hrest ⊢
    rw [abs_le] at hterm hrest ⊢
    simp only [pow_zero, mul_one, add_zero]
    constructor <;> linarith

/-- What a series of ratio 1/9 leaves out beyond a third of the bits. -/
theorem two_pow_mul_ninth_le (P : ℕ) : (2 : ℝ) ^ P * (1 / 9) ^ (P / 3 + 2) ≤ 1 := by
  have h : 2 ^ P ≤ 9 ^ (P / 3 + 2) := by
    calc 2 ^ P ≤ 2 ^ (3 * (P / 3 + 2)) := Nat.pow_le_pow_right two_pos (by omega)
      _ = 8 ^ (P / 3 + 2) := by rw [pow_mul]; rfl
      _ ≤ 9 ^ (P / 3 + 2) := Nat.pow_le_pow_left (by decide) _
  rw [one_div, inv_pow, ← div_eq_mul_inv, div_le_one (by positivity)]
  exact_mod_cast h

/-- The series of ln((1 + z) / (1 - z)) up to z = 1/3. -/
theorem log_series_tail {z : ℝ} (h0 : 0 ≤ z) (h1 : z ≤ 1 / 3) (n : ℕ) :
    |∑ j ∈ Finset.range n, 2 * (1 / (2 * (j : ℝ) + 1)) * z ^ (2 * j + 1) - (Real.log (1 + z) - Real.log (1 - z))| ≤ (1 / 9) ^ n := by
  have hz : |z| < 1 := by rw [abs_of_nonneg h0]; linarith
  have hterm (k : ℕ) : ‖2 * (1 / (2 * (k : ℝ) + 1)) * z ^ (2 * k + 1)‖ ≤ 2 / 3 * (1 / 9) ^ k := by
    rw [Real.norm_of_nonneg (by positivity)]
    have hpow : z ^ (2 * k + 1) ≤ (1 / 3) ^ (2 * k + 1) := pow_le_pow_left₀ h0 h1 _
    have hdiv : 1 / (2 * (k : ℝ) + 1) ≤ 1 := (div_le_one (by positivity)).2 (by linarith [k.cast_nonneg (α := ℝ)])
    calc 2 * (1 / (2 * (k : ℝ) + 1)) * z ^ (2 * k + 1) ≤ 2 * 1 * (1 / 3) ^ (2 * k + 1) := by gcongr
      _ = 2 / 3 * (1 / 9) ^ k := by rw [pow_succ, pow_mul]; norm_num; ring
  have := norm_sub_le_of_geometric_bound_of_hasSum (by norm_num : (1 / 9 : ℝ) < 1) hterm (Real.hasSum_log_sub_log_of_abs_lt_one hz) n
  refine this.trans ?_
  have : (0 : ℝ) ≤ (1 / 9) ^ n := by positivity
  rw [div_le_iff₀ (by norm_num)]
  linarith

theorem ln2Bounds_near (P : ℕ) : (ln2Bounds P).Near (2 ^ P * Real.log 2) (4 * P + 29) := by
  obtain ⟨n, hn⟩ : ∃ n, n = P / 3 + 2 := ⟨_, rfl⟩
  have hcast : (n : ℝ) ≤ P / 3 + 2 := by
    rw [hn]
    push_cast
    linarith [Nat.cast_div_le (α := ℝ) (m := P) (n := 3)]
  have hsum := atanhSum_near (q2 := 9) (by decide) n 0 (pw := 2 ^ P / 3) (T := 2 ^ P / 3) (by
    have := abs_natDiv_sub_div_le (2 ^ P) 3
    push_cast at this
    linarith)
  have htail := log_series_tail (z := 1 / 3) (by norm_num) le_rfl n
  have hlog : Real.log (1 + 1 / 3) - Real.log (1 - 1 / 3) = Real.log 2 := by
    rw [← Real.log_div (by norm_num) (by norm_num)]
    norm_num
  have hseries : 2 * ∑ j ∈ Finset.range n, (2 ^ P / 3 : ℝ) * (1 / (9 : ℕ)) ^ j / (2 * (((0 : ℕ) : ℝ) + j) + 1)
      = 2 ^ P * ∑ j ∈ Finset.range n, 2 * (1 / (2 * (j : ℝ) + 1)) * (1 / 3) ^ (2 * j + 1) := by
    rw [Finset.mul_sum, Finset.mul_sum]
    refine Finset.sum_congr rfl fun j _ => ?_
    rw [pow_succ, pow_mul]
    norm_num
    ring
  rw [hlog] at htail
  have htail' : |2 ^ P * ∑ j ∈ Finset.range n, 2 * (1 / (2 * (j : ℝ) + 1)) * (1 / 3) ^ (2 * j + 1) - 2 ^ P * Real.log 2| ≤ 1 := by
    rw [← mul_sub, abs_mul, abs_of_pos (by positivity)]
    exact (mul_le_mul_of_nonneg_left htail (by positivity)).trans (hn ▸ two_pow_mul_ninth_le P)
  rw [← hseries] at htail'
  have hlo : ((ln2Bounds P).lo : ℝ) = 2 * atanhSum 9 n 0 (2 ^ P / 3) := by rw [hn]; simp [ln2Bounds]
  have hhi : ((ln2Bounds P).hi : ℝ) = 2 * atanhSum 9 n 0 (2 ^ P / 3) + 6 * n + 4 := by rw [hn]; simp [ln2Bounds]
  rw [Bounds.Near, hlo, hhi]
  rw [abs_le] at hsum htail'
  obtain ⟨h1, h2⟩ := hsum
  obtain ⟨h3, h4⟩ := htail'
  constructor <;> rw [abs_le] <;> constructor <;> linarith

/-! ### π -/

theorem atanSum_near {q2 : ℕ} (hq : 2 ≤ q2) (n i : ℕ) {pw : ℕ} {T : ℝ} (neg : Bool) (h : |(pw : ℝ) - T| ≤ 2) :
    |(atanSum q2 n i pw neg : ℝ) - ∑ j ∈ Finset.range n, (if neg then -1 else 1) * (-1) ^ j * (T * (1 / q2) ^ j / (2 * (i + j) + 1))| ≤ 3 * n := by
  induction n generalizing i pw T neg with
  | zero => simp [atanSum]
  | succ n ih =>
    have hq' : (2 : ℝ) ≤ q2 := by exact_mod_cast hq
    have hterm := abs_natDiv_sub_le_add_one (d := 2 * i + 1) (Nat.succ_pos _) h
    have hnext : |((pw / q2 : ℕ) : ℝ) - T * (1 / q2)| ≤ 2 := by
      rw [mul_one_div]
      refine (abs_natDiv_sub_le h).trans ?_
      have : (2 : ℝ) / q2 ≤ 1 := (div_le_one (by linarith)).2 hq'
      linarith
    have hrest := ih (i + 1) (!neg) hnext
    have hshift (j : ℕ) : (if neg then -1 else 1 : ℝ) * (-1) ^ (j + 1) * (T * (1 / q2) ^ (j + 1) / (2 * (i + ((j + 1 : ℕ) : ℝ)) + 1))
        = (if !neg then -1 else 1) * (-1) ^ j * (T * (1 / q2) * (1 / q2) ^ j / (2 * (((i + 1 : ℕ) : ℝ) + j) + 1)) := by
      cases neg <;> simp only [Bool.not_true, Bool.not_false, if_true, if_false, Bool.false_eq_true] <;> push_cast <;> ring
    rw [Finset.sum_range_succ', atanSum]
    simp only [hshift]
    generalize pw / (2 * i + 1) = t at hterm ⊢
    push_cast at hterm hrest ⊢
    rw [abs_le] at hterm hrest ⊢
    obtain ⟨h1, h2⟩ := hterm
    obtain ⟨h3, h4⟩ := hrest
    cases neg
    · simp only [pow_zero, mul_one, add_zero, one_mul, if_false, Bool.false_eq_true] at *
      constructor <;> linarith
    · simp only [pow_zero, mul_one, add_zero, if_true] at *
      constructor <;> linarith

theorem two_pow_mul_twentyfifth_le (P : ℕ) : (2 : ℝ) ^ P * (1 / 25) ^ (P / 4 + 4) ≤ 1 := by
  have h : 2 ^ P ≤ 25 ^ (P / 4 + 4) := by
    calc 2 ^ P ≤ 2 ^ (4 * (P / 4 + 4)) := Nat.pow_le_pow_right two_pos (by omega)
      _ = 16 ^ (P / 4 + 4) := by rw [pow_mul]; rfl
      _ ≤ 25 ^ (P / 4 + 4) := Nat.pow_le_pow_left (by decide) _
  rw [one_div, inv_pow, ← div_eq_mul_inv, div_le_one (by positivity)]
  exact_mod_cast h

theorem arctan_series_tail {z : ℝ} (h0 : 0 ≤ z) (h1 : z ≤ 1 / 5) (n : ℕ) :
    |∑ j ∈ Finset.range n, (-1) ^ j * z ^ (2 * j + 1) / ((2 * j + 1 : ℕ) : ℝ) - Real.arctan z| ≤ (1 / 25) ^ n := by
  have hz : ‖z‖ < 1 := by rw [Real.norm_of_nonneg h0]; linarith
  have hterm (k : ℕ) : ‖(-1) ^ k * z ^ (2 * k + 1) / ((2 * k + 1 : ℕ) : ℝ)‖ ≤ 1 / 5 * (1 / 25) ^ k := by
    rw [norm_div, norm_mul, norm_pow, norm_neg, norm_one, one_pow, one_mul, Real.norm_of_nonneg (by positivity), Real.norm_natCast]
    have hpow : z ^ (2 * k + 1) ≤ (1 / 5) ^ (2 * k + 1) := pow_le_pow_left₀ h0 h1 _
    calc z ^ (2 * k + 1) / ((2 * k + 1 : ℕ) : ℝ) ≤ z ^ (2 * k + 1) := div_le_self (by positivity) (by exact_mod_cast Nat.succ_pos _)
      _ ≤ (1 / 5) ^ (2 * k + 1) := hpow
      _ = 1 / 5 * (1 / 25) ^ k := by rw [pow_succ, pow_mul]; norm_num; ring
  have := norm_sub_le_of_geometric_bound_of_hasSum (by norm_num : (1 / 25 : ℝ) < 1) hterm (Real.hasSum_arctan hz) n
  refine this.trans ?_
  have : (0 : ℝ) ≤ (1 / 25) ^ n := by positivity
  rw [div_le_iff₀ (by norm_num)]
  linarith

/-- The sum for arctan(1/q) in units. -/
theorem atanSum_arctan_near (P : ℕ) {q : ℕ} (hq : 5 ≤ q) :
    |(atanSum (q * q) (P / 4 + 4) 0 (2 ^ P / q) false : ℝ) - 2 ^ P * Real.arctan (q : ℝ)⁻¹| ≤ 3 * (P / 4 + 4 : ℕ) + 1 := by
  have hq0 : (0 : ℝ) < q := by exact_mod_cast (show 0 < q by omega)
  have hq5 : (q : ℝ)⁻¹ ≤ 1 / 5 := by
    rw [one_div]
    exact inv_anti₀ (by norm_num) (by exact_mod_cast hq)
  have hpw : |((2 ^ P / q : ℕ) : ℝ) - 2 ^ P * (q : ℝ)⁻¹| ≤ 2 := by
    have := abs_natDiv_sub_div_le (2 ^ P) q
    push_cast at this
    rw [← div_eq_mul_inv]
    linarith
  have hsum := atanSum_near (q2 := q * q) (by nlinarith) (P / 4 + 4) 0 false hpw
  have htail := arctan_series_tail (inv_nonneg.2 hq0.le) hq5 (P / 4 + 4)
  have htail' : |2 ^ P * ∑ j ∈ Finset.range (P / 4 + 4), (-1) ^ j * (q : ℝ)⁻¹ ^ (2 * j + 1) / ((2 * j + 1 : ℕ) : ℝ) - 2 ^ P * Real.arctan (q : ℝ)⁻¹| ≤ 1 := by
    rw [← mul_sub, abs_mul, abs_of_pos (by positivity)]
    exact (mul_le_mul_of_nonneg_left htail (by positivity)).trans (two_pow_mul_twentyfifth_le P)
  have hseries : ∑ j ∈ Finset.range (P / 4 + 4), (if false then -1 else 1 : ℝ) * (-1) ^ j * (2 ^ P * (q : ℝ)⁻¹ * (1 / ((q * q : ℕ) : ℝ)) ^ j / (2 * (((0 : ℕ) : ℝ) + j) + 1))
      = 2 ^ P * ∑ j ∈ Finset.range (P / 4 + 4), (-1) ^ j * (q : ℝ)⁻¹ ^ (2 * j + 1) / ((2 * j + 1 : ℕ) : ℝ) := by
    rw [Finset.mul_sum]
    refine Finset.sum_congr rfl fun j _ => ?_
    have hsq : (1 / ((q * q : ℕ) : ℝ)) = (q : ℝ)⁻¹ ^ 2 := by
      push_cast
      rw [one_div, mul_inv, sq]
    rw [hsq, if_neg Bool.false_ne_true, pow_succ _ (2 * j), pow_mul]
    push_cast
    ring
  rw [hseries] at hsum
  calc _ ≤ _ := abs_sub_le _ _ _
    _ ≤ _ := add_le_add hsum htail'

/-- A difference that stops at zero is no farther from a number that is not negative. -/
theorem abs_natSub_sub_le {a b : ℕ} {e : ℝ} (he : 0 ≤ e) : |((a - b : ℕ) : ℝ) - e| ≤ |(a : ℝ) - b - e| := by
  rcases le_total b a with h | h
  · rw [Nat.cast_sub h]
  · rw [Nat.sub_eq_zero_of_le h, Nat.cast_zero, zero_sub, abs_neg, abs_of_nonneg he]
    have : (a : ℝ) ≤ b := by exact_mod_cast h
    rw [abs_of_nonpos (by linarith)]
    linarith
theorem abs_toNat_sub_le {z : ℤ} {e : ℝ} (he : 0 ≤ e) : |(z.toNat : ℝ) - e| ≤ |(z : ℝ) - e| := by
  rcases le_total 0 z with h | h
  · have : ((z.toNat : ℤ) : ℝ) = z := by rw [Int.toNat_of_nonneg h]
    rw [← this, Int.cast_natCast]
  · rw [Int.toNat_of_nonpos h, Nat.cast_zero, zero_sub, abs_neg, abs_of_nonneg he]
    have : (z : ℝ) ≤ 0 := by exact_mod_cast h
    rw [abs_of_nonpos (by linarith)]
    linarith

theorem piBounds_near (P : ℕ) : (piBounds P).Near (2 ^ P * Real.pi) (25 * P + 460) := by
  have h5 := atanSum_arctan_near P (q := 5) le_rfl
  have h239 := atanSum_arctan_near P (q := 239) (by decide)
  have hcast : ((P / 4 + 4 : ℕ) : ℝ) ≤ P / 4 + 4 := by
    push_cast
    linarith [Nat.cast_div_le (α := ℝ) (m := P) (n := 4)]
  have hmachin := Real.four_mul_arctan_inv_5_sub_arctan_inv_239
  obtain ⟨n, hn⟩ : ∃ n, n = P / 4 + 4 := ⟨_, rfl⟩
  rw [← hn] at h5 h239 hcast
  obtain ⟨z, hz⟩ : ∃ z : ℤ, z = 16 * atanSum 25 n 0 (2 ^ P / 5) false - 4 * atanSum 57121 n 0 (2 ^ P / 239) false := ⟨_, rfl⟩
  have hpos : (0 : ℝ) ≤ 2 ^ P * Real.pi := by positivity
  have hzr : |(z : ℝ) - 2 ^ P * Real.pi| ≤ 60 * n + 20 := by
    have hpi : 2 ^ P * Real.pi = 16 * (2 ^ P * Real.arctan 5⁻¹) - 4 * (2 ^ P * Real.arctan 239⁻¹) := by
      have : Real.pi = 4 * (4 * Real.arctan 5⁻¹ - Real.arctan 239⁻¹) := by rw [hmachin]; ring
      rw [this]
      ring
    rw [hpi, hz]
    push_cast
    norm_num at h5 h239
    rw [abs_le] at h5 h239 ⊢
    obtain ⟨h1, h2⟩ := h5
    obtain ⟨h3, h4⟩ := h239
    constructor <;> linarith
  have hnat := (abs_toNat_sub_le hpos).trans hzr
  have hlo : (piBounds P).lo = z.toNat - (40 * n + 40) := by rw [hz, hn]; rfl
  have hhi : (piBounds P).hi = z.toNat + (40 * n + 40) := by rw [hz, hn]; rfl
  rw [Bounds.Near, hlo, hhi]
  refine ⟨(abs_natSub_sub_le hpos).trans ?_, ?_⟩ <;> push_cast <;> rw [abs_le] at hnat ⊢ <;> obtain ⟨h1, h2⟩ := hnat <;> constructor <;> linarith

/-! ### 2^f -/

/-- A power over a factorial is one of the unit interval. -/
theorem pow_div_factorial_le {θ : ℝ} (h0 : 0 ≤ θ) (h1 : θ ≤ 1) (i : ℕ) : 0 ≤ θ ^ i / i.factorial ∧ θ ^ i / i.factorial ≤ 1 := by
  have hf : (1 : ℝ) ≤ i.factorial := by exact_mod_cast i.factorial_pos
  exact ⟨by positivity, (div_le_self (by positivity) hf).trans (pow_le_one₀ h0 h1)⟩

/-- The exponential's terms in units, each near the exact one. -/
theorem expSum_near {P : ℕ} {x : Bounds} {θ δ : ℝ} (h0 : 0 ≤ θ) (h1 : θ ≤ 1) (hx : x.Near (2 ^ P * θ) δ) (n i : ℕ) {t : Bounds} {ε : ℝ}
    (ht : t.Near (2 ^ P * (θ ^ i / i.factorial)) ε) (hε : ε + n * (2 * δ + 3) ≤ 2 ^ P) :
    (expSum P x n (i + 1) t).Near (2 ^ P * ∑ j ∈ Finset.range n, θ ^ (i + j) / (i + j).factorial) (n * (ε + n * (2 * δ + 3))) := by
  induction n generalizing i t ε with
  | zero => simp [expSum, Bounds.Near]
  | succ n ih =>
    have hU : (0 : ℝ) < 2 ^ P := by positivity
    have hδ : 0 ≤ δ := (abs_nonneg _).trans hx.1
    have hε0 : 0 ≤ ε := (abs_nonneg _).trans ht.1
    push_cast at hε
    have hn : (0 : ℝ) ≤ n * (2 * δ + 3) := by positivity
    obtain ⟨hT0, hT1⟩ := pow_div_factorial_le h0 h1 i
    have hT : |2 ^ P * (θ ^ i / i.factorial)| ≤ 2 ^ P := by
      rw [abs_of_nonneg (by positivity)]
      exact mul_le_of_le_one_right hU.le hT1
    have hX : |2 ^ P * θ| ≤ 2 ^ P := by
      rw [abs_of_nonneg (by positivity)]
      exact mul_le_of_le_one_right hU.le h1
    have hmul {a b : ℕ} (ha : |(a : ℝ) - 2 ^ P * (θ ^ i / i.factorial)| ≤ ε) (hb : |(b : ℝ) - 2 ^ P * θ| ≤ δ) :
        |((a * b / 2 ^ P / (i + 1) : ℕ) : ℝ) - 2 ^ P * (θ ^ (i + 1) / (i + 1).factorial)| ≤ ε + 2 * δ + 2 := by
      have := abs_natDiv_sub_le_add_one (d := i + 1) i.succ_pos (abs_natMul_sub_le (P := P) ha hb hT hX (by linarith))
      have hnext : 2 ^ P * (θ ^ i / i.factorial) * (2 ^ P * θ) / 2 ^ P / ((i + 1 : ℕ) : ℝ) = 2 ^ P * (θ ^ (i + 1) / (i + 1).factorial) := by
        rw [Nat.factorial_succ, pow_succ]
        push_cast
        field_simp
      rw [hnext] at this
      linarith
    have hrest := ih (i + 1) (t := { lo := t.lo * x.lo / 2 ^ P / (i + 1), hi := t.hi * x.hi / 2 ^ P / (i + 1) + 1 }) (ε := ε + (2 * δ + 3))
      ⟨(hmul ht.1 hx.1).trans (by linarith), by
        have := hmul ht.2 hx.2
        push_cast at this ⊢
        rw [abs_le] at this ⊢
        constructor <;> linarith⟩ (by linarith)
    have hsum : 2 ^ P * ∑ j ∈ Finset.range (n + 1), θ ^ (i + j) / ((i + j).factorial : ℝ)
        = 2 ^ P * (θ ^ i / i.factorial) + 2 ^ P * ∑ j ∈ Finset.range n, θ ^ (i + 1 + j) / ((i + 1 + j).factorial : ℝ) := by
      have hidx : ∑ j ∈ Finset.range n, θ ^ (i + (j + 1)) / ((i + (j + 1)).factorial : ℝ) = ∑ j ∈ Finset.range n, θ ^ (i + 1 + j) / ((i + 1 + j).factorial : ℝ) :=
        Finset.sum_congr rfl fun j _ => by rw [Nat.add_right_comm i 1 j, Nat.add_assoc]
      rw [Finset.sum_range_succ', mul_add, add_comm, hidx, Nat.add_zero]
    have hle : n * (ε + (2 * δ + 3) + n * (2 * δ + 3)) + ε ≤ ((n + 1 : ℕ) : ℝ) * (ε + ((n + 1 : ℕ) : ℝ) * (2 * δ + 3)) := by
      push_cast
      nlinarith
    obtain ⟨hr1, hr2⟩ := hrest
    obtain ⟨ht1, ht2⟩ := ht
    rw [hsum]
    refine ⟨le_trans ?_ hle, le_trans ?_ hle⟩
    · rw [expSum]
      push_cast
      rw [abs_le] at hr1 ht1 ⊢
      constructor <;> linarith
    · rw [expSum]
      push_cast
      rw [abs_le] at hr2 ht2 ⊢
      constructor <;> linarith

/-- A part of a number near a real one. -/
theorem abs_part_sub_le {a x s : ℕ} {X ε : ℝ} (h : |(a : ℝ) - X| ≤ ε) (hx : x ≤ 2 ^ s) : |((a * x / 2 ^ s : ℕ) : ℝ) - X * (x / 2 ^ s)| ≤ ε + 1 := by
  have hS : (0 : ℝ) < 2 ^ s := by positivity
  have hx' : (x : ℝ) ≤ 2 ^ s := by exact_mod_cast hx
  have hmul : |((a * x : ℕ) : ℝ) - X * x| ≤ ε * x := by
    rw [Nat.cast_mul, ← sub_mul, abs_mul, Nat.abs_cast]
    exact mul_le_mul_of_nonneg_right h x.cast_nonneg
  have := abs_natDiv_sub_le (d := 2 ^ s) hmul
  push_cast at this
  rw [mul_div_assoc] at this
  refine this.trans (add_le_add_left ?_ 1)
  rw [div_le_iff₀ hS]
  exact mul_le_mul_of_nonneg_left hx' ((abs_nonneg _).trans h)
/-- The bounds of a part of a real number. -/
theorem Bounds.Near.part {b : Bounds} {x s : ℕ} {X ε : ℝ} (h : b.Near X ε) (hx : x ≤ 2 ^ s) :
    ({ lo := b.lo * x / 2 ^ s, hi := b.hi * x / 2 ^ s + 1 } : Bounds).Near (X * (x / 2 ^ s)) (ε + 2) := by
  refine ⟨(abs_part_sub_le h.1 hx).trans (by linarith), ?_⟩
  have := abs_part_sub_le h.2 hx
  push_cast at this ⊢
  rw [abs_le] at this ⊢
  constructor <;> linarith

theorem two_pow_le_two_mul_factorial (n : ℕ) : (2 : ℝ) ^ n ≤ 2 * n.factorial := by
  cases n with
  | zero => norm_num
  | succ k =>
    have h : (1).factorial * (1 + 1) ^ k ≤ (1 + k).factorial := Nat.factorial_mul_pow_le_factorial
    rw [Nat.factorial_one, one_mul, Nat.add_comm 1 k] at h
    have : (2 : ℝ) ^ k ≤ (k + 1).factorial := by exact_mod_cast h
    rw [pow_succ]
    linarith

theorem exp_series_tail {θ : ℝ} (h0 : 0 ≤ θ) (h1 : θ ≤ 1) {n : ℕ} (hn : 0 < n) :
    |∑ j ∈ Finset.range n, θ ^ j / (j.factorial : ℝ) - Real.exp θ| ≤ 4 / 2 ^ n := by
  have hbound := Real.exp_bound (by rwa [abs_of_nonneg h0]) hn
  rw [abs_sub_comm]
  refine hbound.trans ?_
  have hfac := two_pow_le_two_mul_factorial n
  have hn1 : (1 : ℝ) ≤ n := by exact_mod_cast hn
  have hpow : |θ| ^ n ≤ 1 := by
    rw [abs_of_nonneg h0]
    exact pow_le_one₀ h0 h1
  have hfpos : (0 : ℝ) < n.factorial := by exact_mod_cast n.factorial_pos
  calc |θ| ^ n * (n.succ / (n.factorial * n)) ≤ 1 * (n.succ / (n.factorial * n)) := mul_le_mul_of_nonneg_right hpow (by positivity)
    _ ≤ 4 / 2 ^ n := by
      rw [one_mul, div_le_div_iff₀ (by positivity) (by positivity)]
      push_cast
      nlinarith

theorem exp2Bounds_near {P x s : ℕ} (h96 : 96 ≤ P) (h512 : P ≤ 512) (hx : x ≤ 2 ^ s) :
    |((exp2Bounds P x s).lo : ℝ) - 2 ^ P * 2 ^ ((x : ℝ) / 2 ^ s)| ≤ 2 ^ P / 2 ^ 48 := by
  have hρ0 : (0 : ℝ) ≤ x / 2 ^ s := by positivity
  have hρ1 : (x : ℝ) / 2 ^ s ≤ 1 := (div_le_one (by positivity)).2 (by exact_mod_cast hx)
  have hlog0 : 0 ≤ Real.log 2 := Real.log_nonneg one_le_two
  have hlog1 : Real.log 2 ≤ 1 := Real.log_two_lt_d9.le.trans (by norm_num)
  obtain ⟨θ, hθ⟩ : ∃ θ, θ = Real.log 2 * (x / 2 ^ s) := ⟨_, rfl⟩
  have hθ0 : 0 ≤ θ := hθ ▸ mul_nonneg hlog0 hρ0
  have hθ1 : θ ≤ 1 := hθ ▸ mul_le_one₀ hlog1 hρ0 hρ1
  have hy := (ln2Bounds_near P).part hx
  rw [mul_assoc, ← hθ] at hy
  obtain ⟨n, hn⟩ : ∃ n, n = P / 2 + 4 := ⟨_, rfl⟩
  have hP : (P : ℝ) ≤ 512 := by exact_mod_cast h512
  have hnP : (n : ℝ) ≤ 260 := by exact_mod_cast (by omega : n ≤ 260)
  have hpow : (2 : ℝ) ^ 96 ≤ 2 ^ P := pow_le_pow_right₀ one_le_two h96
  have herr : (n : ℝ) * (2 * (4 * P + 29 + 2) + 3) ≤ 2 ^ 21 := by nlinarith [n.cast_nonneg (α := ℝ), P.cast_nonneg (α := ℝ)]
  have hsum := expSum_near hθ0 hθ1 hy n 0 (t := { lo := 2 ^ P, hi := 2 ^ P }) (ε := 0) (by simp [Bounds.Near]) (by linarith)
  have hsum1 := hsum.1
  have htail := exp_series_tail hθ0 hθ1 (n := n) (by omega)
  have hexp : Real.exp θ = 2 ^ ((x : ℝ) / 2 ^ s) := by rw [hθ, Real.rpow_def_of_pos two_pos]
  have htail' : |2 ^ P * ∑ j ∈ Finset.range n, θ ^ (0 + j) / ((0 + j).factorial : ℝ) - 2 ^ P * 2 ^ ((x : ℝ) / 2 ^ s)| ≤ 2 ^ P / 2 ^ 50 := by
    simp only [Nat.zero_add]
    rw [← hexp, ← mul_sub, abs_mul, abs_of_pos (by positivity), div_eq_mul_inv]
    refine mul_le_mul_of_nonneg_left (htail.trans ?_) (by positivity)
    have : (2 : ℝ) ^ 52 ≤ 2 ^ n := pow_le_pow_right₀ one_le_two (by omega)
    rw [div_le_iff₀ (by positivity)]
    linarith
  have hlo : (exp2Bounds P x s).lo = (expSum P { lo := (ln2Bounds P).lo * x / 2 ^ s, hi := (ln2Bounds P).hi * x / 2 ^ s + 1 } n (0 + 1)
      { lo := 2 ^ P, hi := 2 ^ P }).lo := by rw [hn]; rfl
  rw [hlo]
  refine (abs_sub_le _ _ _).trans ((add_le_add hsum1 htail').trans ?_)
  have : (n : ℝ) * (0 + n * (2 * (4 * P + 29 + 2) + 3)) ≤ 260 * 2 ^ 21 := by nlinarith [n.cast_nonneg (α := ℝ)]
  linarith

/-! ### log2 -/

theorem lnBounds_go_near {P : ℕ} {z2 : Bounds} {z δ : ℝ} (h0 : 0 ≤ z) (h1 : z ≤ 1) (hz : z2.Near (2 ^ P * z ^ 2) δ) (n i : ℕ) {t : Bounds} {ε : ℝ}
    (ht : t.Near (2 ^ P * z ^ (2 * i + 1)) ε) (hε : ε + n * (2 * δ + 2) ≤ 2 ^ P) :
    (lnBounds.go P z2 n i t).Near (2 ^ P * ∑ j ∈ Finset.range n, z ^ (2 * (i + j) + 1) / ((2 * (i + j) + 1 : ℕ) : ℝ)) (n * (ε + 2 + n * (2 * δ + 2))) := by
  induction n generalizing i t ε with
  | zero => simp [lnBounds.go, Bounds.Near]
  | succ n ih =>
    have hU : (0 : ℝ) < 2 ^ P := by positivity
    have hδ : 0 ≤ δ := (abs_nonneg _).trans hz.1
    have hε0 : 0 ≤ ε := (abs_nonneg _).trans ht.1
    push_cast at hε
    have hn : (0 : ℝ) ≤ n * (2 * δ + 2) := by positivity
    have hpow (k : ℕ) : |2 ^ P * z ^ k| ≤ 2 ^ P := by
      rw [abs_of_nonneg (by positivity)]
      exact mul_le_of_le_one_right hU.le (pow_le_one₀ h0 h1)
    have hnext := ht.mul hz (hpow _) (hpow _) (by linarith)
    have hexact : 2 ^ P * z ^ (2 * i + 1) * (2 ^ P * z ^ 2) / 2 ^ P = 2 ^ P * z ^ (2 * (i + 1) + 1) := by
      rw [show 2 * (i + 1) + 1 = 2 * i + 1 + 2 by ring, pow_add z (2 * i + 1)]
      field_simp
    rw [hexact] at hnext
    have hrest := ih (i + 1) hnext (by linarith)
    have hterm {a : ℕ} (ha : |(a : ℝ) - 2 ^ P * z ^ (2 * i + 1)| ≤ ε) :
        |((a / (2 * i + 1) : ℕ) : ℝ) - 2 ^ P * (z ^ (2 * i + 1) / ((2 * i + 1 : ℕ) : ℝ))| ≤ ε + 1 := by
      have := abs_natDiv_sub_le_add_one (d := 2 * i + 1) (Nat.succ_pos _) ha
      rwa [mul_div_assoc] at this
    have hsum : 2 ^ P * ∑ j ∈ Finset.range (n + 1), z ^ (2 * (i + j) + 1) / ((2 * (i + j) + 1 : ℕ) : ℝ)
        = 2 ^ P * (z ^ (2 * i + 1) / ((2 * i + 1 : ℕ) : ℝ)) + 2 ^ P * ∑ j ∈ Finset.range n, z ^ (2 * (i + 1 + j) + 1) / ((2 * (i + 1 + j) + 1 : ℕ) : ℝ) := by
      have hidx : ∑ j ∈ Finset.range n, z ^ (2 * (i + (j + 1)) + 1) / ((2 * (i + (j + 1)) + 1 : ℕ) : ℝ)
          = ∑ j ∈ Finset.range n, z ^ (2 * (i + 1 + j) + 1) / ((2 * (i + 1 + j) + 1 : ℕ) : ℝ) :=
        Finset.sum_congr rfl fun j _ => by rw [Nat.add_right_comm i 1 j, Nat.add_assoc]
      rw [Finset.sum_range_succ', mul_add, add_comm, hidx]
      simp only [Nat.add_zero]
    have hle : n * (ε + 2 * δ + 2 + 2 + n * (2 * δ + 2)) + (ε + 2) ≤ ((n + 1 : ℕ) : ℝ) * (ε + 2 + ((n + 1 : ℕ) : ℝ) * (2 * δ + 2)) := by
      push_cast
      nlinarith
    obtain ⟨hr1, hr2⟩ := hrest
    have ht1 := hterm ht.1
    have ht2 := hterm ht.2
    rw [hsum, lnBounds.go]
    refine ⟨le_trans ?_ hle, le_trans ?_ hle⟩ <;> dsimp only
    · rw [Nat.cast_add]
      rw [abs_le] at hr1 ht1 ⊢
      constructor <;> linarith
    · rw [Nat.cast_add, Nat.cast_add, Nat.cast_one]
      rw [abs_le] at hr2 ht2 ⊢
      constructor <;> linarith

theorem lnBounds_near {P m b : ℕ} (h96 : 96 ≤ P) (h512 : P ≤ 512) (hm1 : 2 ^ b ≤ m) (hm2 : m < 2 * 2 ^ b) :
    (lnBounds P m b).Near (2 ^ P * Real.log (m / 2 ^ b)) (2 ^ 22) := by
  have hB : (0 : ℝ) < 2 ^ b := by positivity
  have hm1' : (2 : ℝ) ^ b ≤ m := by exact_mod_cast hm1
  have hm2' : (m : ℝ) ≤ 2 * 2 ^ b := by exact_mod_cast hm2.le
  have hv : (0 : ℝ) < m + 2 ^ b := by positivity
  obtain ⟨z, hz⟩ : ∃ z : ℝ, z = (m - 2 ^ b) / (m + 2 ^ b) := ⟨_, rfl⟩
  have hz0 : 0 ≤ z := hz ▸ div_nonneg (by linarith) hv.le
  have hz1 : z ≤ 1 / 3 := by
    rw [hz, div_le_iff₀ hv]
    linarith
  have hlog : Real.log (1 + z) - Real.log (1 - z) = Real.log (m / 2 ^ b) := by
    rw [← Real.log_div (by linarith) (by linarith), hz]
    congr 1
    field_simp
    ring
  obtain ⟨n, hn⟩ : ∃ n, n = P / 3 + 2 := ⟨_, rfl⟩
  have hnP : (n : ℝ) ≤ 172 := by exact_mod_cast (by omega : n ≤ 172)
  have hpow : (2 : ℝ) ^ 96 ≤ 2 ^ P := pow_le_pow_right₀ one_le_two h96
  obtain ⟨Z, hZ⟩ : ∃ Z : Bounds, Z = { lo := (m - 2 ^ b) * 2 ^ P / (m + 2 ^ b), hi := (m - 2 ^ b) * 2 ^ P / (m + 2 ^ b) + 1 } := ⟨_, rfl⟩
  have hZnear : Z.Near (2 ^ P * z) 2 := by
    have hquot := abs_natDiv_sub_div_le ((m - 2 ^ b) * 2 ^ P) (m + 2 ^ b)
    have hexact : (((m - 2 ^ b) * 2 ^ P : ℕ) : ℝ) / ((m + 2 ^ b : ℕ) : ℝ) = 2 ^ P * z := by
      rw [hz]
      push_cast [Nat.cast_sub hm1]
      ring
    rw [hexact] at hquot
    rw [hZ, Bounds.Near]
    push_cast
    rw [abs_le] at hquot
    obtain ⟨h1, h2⟩ := hquot
    constructor <;> rw [abs_le] <;> constructor <;> linarith
  have habs : |2 ^ P * z| ≤ 2 ^ P := by
    rw [abs_of_nonneg (by positivity)]
    exact mul_le_of_le_one_right (by positivity) (by linarith)
  have hZ2 := hZnear.mul hZnear habs habs (by linarith)
  have hsq : 2 ^ P * z * (2 ^ P * z) / 2 ^ P = 2 ^ P * z ^ 2 := by field_simp
  rw [hsq] at hZ2
  have hgo := lnBounds_go_near hz0 (by linarith) hZ2 n 0 (t := Z) (ε := 2) (by simpa using hZnear) (by linarith)
  have hlo : ((lnBounds P m b).lo : ℝ) = 2 * (lnBounds.go P (Z.mul P Z) n 0 Z).lo := by rw [hZ, hn, lnBounds]; push_cast; rfl
  have hhi : ((lnBounds P m b).hi : ℝ) = 2 * (lnBounds.go P (Z.mul P Z) n 0 Z).hi + 4 := by rw [hZ, hn, lnBounds]; push_cast; rfl
  have htail := log_series_tail hz0 hz1 n
  have htail' : |2 * (2 ^ P * ∑ j ∈ Finset.range n, z ^ (2 * (0 + j) + 1) / ((2 * (0 + j) + 1 : ℕ) : ℝ)) - 2 ^ P * Real.log (m / 2 ^ b)| ≤ 1 := by
    have hseries : 2 * (2 ^ P * ∑ j ∈ Finset.range n, z ^ (2 * (0 + j) + 1) / ((2 * (0 + j) + 1 : ℕ) : ℝ))
        = 2 ^ P * ∑ j ∈ Finset.range n, 2 * (1 / (2 * (j : ℝ) + 1)) * z ^ (2 * j + 1) := by
      rw [Finset.mul_sum, Finset.mul_sum, Finset.mul_sum]
      refine Finset.sum_congr rfl fun j _ => ?_
      rw [Nat.zero_add]
      push_cast
      ring
    rw [hseries, ← hlog, ← mul_sub, abs_mul, abs_of_pos (by positivity)]
    exact (mul_le_mul_of_nonneg_left htail (by positivity)).trans (hn ▸ two_pow_mul_ninth_le P)
  have herr : (n : ℝ) * (2 + 2 + n * (2 * (2 + 2 * 2 + 2) + 2)) ≤ 2 ^ 20 := by nlinarith [n.cast_nonneg (α := ℝ)]
  obtain ⟨hg1, hg2⟩ := hgo
  have hg1 := hg1.trans herr
  have hg2 := hg2.trans herr
  rw [Bounds.Near, hlo, hhi]
  rw [abs_le] at hg1 hg2 htail'
  obtain ⟨h1, h2⟩ := hg1
  obtain ⟨h3, h4⟩ := hg2
  obtain ⟨h5, h6⟩ := htail'
  constructor <;> rw [abs_le] <;> constructor <;> linarith

/-- A quotient of bounds of logarithms, near the logarithm to base 2. -/
theorem log_quotient_near {P m b a c : ℕ} (h96 : 96 ≤ P) (h512 : P ≤ 512) (hm1 : 2 ^ b ≤ m) (hm2 : m < 2 * 2 ^ b)
    (ha : |(a : ℝ) - 2 ^ P * Real.log (m / 2 ^ b)| ≤ 2 ^ 22) (hc : |(c : ℝ) - 2 ^ P * Real.log 2| ≤ 4 * P + 29) :
    |((a * 2 ^ P / c : ℕ) : ℝ) - 2 ^ P * Real.logb 2 (m / 2 ^ b)| ≤ 2 ^ 25 := by
  have hB : (0 : ℝ) < 2 ^ b := by positivity
  have hr1 : (1 : ℝ) ≤ m / 2 ^ b := (one_le_div hB).2 (by exact_mod_cast hm1)
  have hr2 : (m : ℝ) / 2 ^ b ≤ 2 := (div_le_iff₀ hB).2 (by exact_mod_cast hm2.le)
  have hL0 : 0 ≤ Real.log (m / 2 ^ b) := Real.log_nonneg hr1
  have hL1 : Real.log (m / 2 ^ b) ≤ Real.log 2 := Real.log_le_log (by linarith) hr2
  have hl := Real.log_two_gt_d9
  have hlu := Real.log_two_lt_d9
  have hP : (P : ℝ) ≤ 512 := by exact_mod_cast h512
  have hpow : (2 : ℝ) ^ 96 ≤ 2 ^ P := pow_le_pow_right₀ one_le_two h96
  rw [Real.logb]
  generalize Real.log (m / 2 ^ b) = L at *
  generalize Real.log 2 = l at *
  have hU : (0 : ℝ) < 2 ^ P := by positivity
  have hc4 : (2 : ℝ) ^ P / 4 ≤ c := by
    rw [abs_le] at hc
    nlinarith
  have hc0 : (0 : ℝ) < c := by linarith
  have hl0 : 0 < l := by linarith
  have hquot : |(a * 2 ^ P : ℝ) / c - 2 ^ P * (L / l)| ≤ 4 * (2 ^ 22 + (4 * P + 29)) := by
    have hsplit : (a * 2 ^ P : ℝ) / c - 2 ^ P * (L / l) = ((a - 2 ^ P * L) * l - L * (c - 2 ^ P * l)) * (2 ^ P / c) / l := by
      field_simp
      ring
    have hratio : (2 : ℝ) ^ P / c ≤ 4 := (div_le_iff₀ hc0).2 (by linarith)
    have hnum : |(a - 2 ^ P * L) * l - L * (c - 2 ^ P * l)| ≤ (2 ^ 22 + (4 * P + 29)) * l := by
      calc |(a - 2 ^ P * L) * l - L * (c - 2 ^ P * l)| ≤ |(a : ℝ) - 2 ^ P * L| * l + L * |(c : ℝ) - 2 ^ P * l| := by
            refine (abs_sub _ _).trans_eq ?_
            rw [abs_mul, abs_mul, abs_of_pos hl0, abs_of_nonneg hL0]
        _ ≤ 2 ^ 22 * l + l * (4 * P + 29) := by
            refine add_le_add (mul_le_mul_of_nonneg_right ha hl0.le) (mul_le_mul hL1 hc (abs_nonneg _) hl0.le)
        _ = (2 ^ 22 + (4 * P + 29)) * l := by ring
    rw [hsplit, abs_div, abs_mul, abs_of_pos hl0, abs_of_pos (by positivity : (0 : ℝ) < 2 ^ P / c), div_le_iff₀ hl0]
    calc _ ≤ (2 ^ 22 + (4 * P + 29)) * l * 4 := mul_le_mul hnum hratio (by positivity) (by positivity)
      _ = 4 * (2 ^ 22 + (4 * P + 29)) * l := by ring
  have hfloor := abs_natDiv_sub_div_le (a * 2 ^ P) c
  push_cast at hfloor
  refine (abs_sub_le _ _ _).trans ((add_le_add hfloor hquot).trans ?_)
  linarith

/-- A number above 1 of 24 bits has a logarithm of at least 2^-24, and so has 2 over it when it lies below 2. -/
theorem logb_bounds {m b : ℕ} (hm24 : m < 2 ^ 24) (hb : b ≤ 23) (hm1 : 2 ^ b < m) (hm2 : m < 2 * 2 ^ b) :
    1 / 2 ^ 24 ≤ Real.logb 2 (m / 2 ^ b) ∧ Real.logb 2 (m / 2 ^ b) ≤ 1 - 1 / 2 ^ 24 := by
  have hlog {r : ℝ} (hr : 1 ≤ r) : 1 - r⁻¹ ≤ Real.logb 2 r := by
    have h1 := Real.one_sub_inv_le_log_of_pos (by linarith : 0 < r)
    have h0 := Real.log_nonneg hr
    have hl := Real.log_two_lt_d9
    rw [Real.logb, le_div_iff₀ (Real.log_pos one_lt_two)]
    nlinarith [Real.log_pos one_lt_two, inv_le_one_of_one_le₀ hr]
  have hB : (0 : ℝ) < 2 ^ b := by positivity
  have hm0 : (0 : ℝ) < m := by exact_mod_cast (Nat.two_pow_pos b).trans hm1
  have hm24' : (m : ℝ) ≤ 2 ^ 24 := by exact_mod_cast hm24.le
  have hb' : (2 : ℝ) ^ b ≤ 2 ^ 23 := pow_le_pow_right₀ one_le_two hb
  have h1 : (2 : ℝ) ^ b + 1 ≤ m := by exact_mod_cast hm1
  have h2 : (m : ℝ) + 1 ≤ 2 * 2 ^ b := by exact_mod_cast hm2
  refine ⟨le_trans ?_ (hlog ((one_le_div hB).2 (by linarith))), ?_⟩
  · rw [inv_div, one_sub_div hm0.ne', div_le_div_iff₀ (by positivity) hm0]
    nlinarith
  · have hinv : Real.logb 2 (m / 2 ^ b) = 1 - Real.logb 2 (2 / (m / 2 ^ b)) := by
      rw [Real.logb_div two_ne_zero (by positivity), Real.logb_self_eq_one one_lt_two]
      ring
    have h := hlog (r := 2 / (m / 2 ^ b)) ((one_le_div (by positivity)).2 ((div_le_iff₀ hB).2 (by linarith)))
    have hgap : 1 / 2 ^ 24 ≤ 1 - (2 / ((m : ℝ) / 2 ^ b))⁻¹ := by
      rw [inv_div, div_div, one_sub_div (by positivity), div_le_div_iff₀ (by positivity) (by positivity)]
      nlinarith
    linarith

/-! ### Sine and cosine -/

/-- The terms of the alternating series in units, each near the exact one. -/
theorem altSum_near {P : ℕ} {x2 : Bounds} {θ δ : ℝ} (h0 : 0 ≤ θ) (h1 : θ ≤ 1) (hx : x2.Near (2 ^ P * θ ^ 2) δ) (n i : ℕ) {t : Bounds} {ε : ℝ} (neg : Bool)
    (ht : t.Near (2 ^ P * (θ ^ i / i.factorial)) ε) (hε : ε + n * (2 * δ + 3) ≤ 2 ^ P) :
    let S : ℝ := 2 ^ P * ∑ j ∈ Finset.range n, (if neg then -1 else 1) * (-1) ^ j * (θ ^ (i + 2 * j) / (i + 2 * j).factorial)
    |((altSum P x2 n i t neg).1 : ℝ) - S| ≤ n * (ε + n * (2 * δ + 3)) ∧ |((altSum P x2 n i t neg).2 : ℝ) - S| ≤ n * (ε + n * (2 * δ + 3)) := by
  induction n generalizing i t ε neg with
  | zero => simp [altSum]
  | succ n ih =>
    have hU : (0 : ℝ) < 2 ^ P := by positivity
    have hδ : 0 ≤ δ := (abs_nonneg _).trans hx.1
    have hε0 : 0 ≤ ε := (abs_nonneg _).trans ht.1
    push_cast at hε
    have hn : (0 : ℝ) ≤ n * (2 * δ + 3) := by positivity
    obtain ⟨hT0, hT1⟩ := pow_div_factorial_le h0 h1 i
    have hT : |2 ^ P * (θ ^ i / i.factorial)| ≤ 2 ^ P := by
      rw [abs_of_nonneg (by positivity)]
      exact mul_le_of_le_one_right hU.le hT1
    have hX : |2 ^ P * θ ^ 2| ≤ 2 ^ P := by
      rw [abs_of_nonneg (by positivity)]
      exact mul_le_of_le_one_right hU.le (pow_le_one₀ h0 h1)
    have hmul {a b : ℕ} (ha : |(a : ℝ) - 2 ^ P * (θ ^ i / i.factorial)| ≤ ε) (hb : |(b : ℝ) - 2 ^ P * θ ^ 2| ≤ δ) :
        |((a * b / 2 ^ P / ((i + 1) * (i + 2)) : ℕ) : ℝ) - 2 ^ P * (θ ^ (i + 2) / (i + 2).factorial)| ≤ ε + 2 * δ + 2 := by
      have := abs_natDiv_sub_le_add_one (d := (i + 1) * (i + 2)) (Nat.mul_pos i.succ_pos (Nat.succ_pos _))
        (abs_natMul_sub_le (P := P) ha hb hT hX (by linarith))
      have hnext : 2 ^ P * (θ ^ i / i.factorial) * (2 ^ P * θ ^ 2) / 2 ^ P / (((i + 1) * (i + 2) : ℕ) : ℝ) = 2 ^ P * (θ ^ (i + 2) / (i + 2).factorial) := by
        rw [Nat.factorial_succ, Nat.factorial_succ, pow_add θ i 2]
        push_cast
        field_simp
        ring
      rw [hnext] at this
      linarith
    have hrest := ih (i + 2) (t := { lo := t.lo * x2.lo / 2 ^ P / ((i + 1) * (i + 2)), hi := t.hi * x2.hi / 2 ^ P / ((i + 1) * (i + 2)) + 1 })
      (ε := ε + (2 * δ + 3)) (!neg)
      ⟨(hmul ht.1 hx.1).trans (by linarith), by
        have := hmul ht.2 hx.2
        rw [Nat.cast_add, Nat.cast_one]
        rw [abs_le] at this ⊢
        constructor <;> linarith⟩ (by linarith)
    have hsum : 2 ^ P * ∑ j ∈ Finset.range (n + 1), (if neg then -1 else 1 : ℝ) * (-1) ^ j * (θ ^ (i + 2 * j) / ((i + 2 * j).factorial : ℝ))
        = (if neg then -1 else 1) * (2 ^ P * (θ ^ i / i.factorial))
          + 2 ^ P * ∑ j ∈ Finset.range n, (if !neg then -1 else 1 : ℝ) * (-1) ^ j * (θ ^ (i + 2 + 2 * j) / ((i + 2 + 2 * j).factorial : ℝ)) := by
      have hidx : ∑ j ∈ Finset.range n, (if neg then -1 else 1 : ℝ) * (-1) ^ (j + 1) * (θ ^ (i + 2 * (j + 1)) / ((i + 2 * (j + 1)).factorial : ℝ))
          = ∑ j ∈ Finset.range n, (if !neg then -1 else 1 : ℝ) * (-1) ^ j * (θ ^ (i + 2 + 2 * j) / ((i + 2 + 2 * j).factorial : ℝ)) := by
        refine Finset.sum_congr rfl fun j _ => ?_
        rw [show i + 2 * (j + 1) = i + 2 + 2 * j by ring, pow_succ]
        cases neg <;> simp
      rw [Finset.sum_range_succ', mul_add, add_comm, hidx]
      simp only [Nat.mul_zero, Nat.add_zero, pow_zero, mul_one]
      ring
    have hle : n * (ε + (2 * δ + 3) + n * (2 * δ + 3)) + ε ≤ ((n + 1 : ℕ) : ℝ) * (ε + ((n + 1 : ℕ) : ℝ) * (2 * δ + 3)) := by
      push_cast
      nlinarith
    obtain ⟨hr1, hr2⟩ := hrest
    obtain ⟨ht1, ht2⟩ := ht
    dsimp only
    rw [hsum, altSum]
    generalize altSum P x2 n (i + 2) _ (!neg) = r at hr1 hr2 ⊢
    generalize 2 ^ P * ∑ j ∈ Finset.range n, _ = rest at hr1 hr2 ⊢
    rw [abs_le] at hr1 hr2 ht1 ht2
    obtain ⟨h1, h2⟩ := hr1
    obtain ⟨h3, h4⟩ := hr2
    obtain ⟨h5, h6⟩ := ht1
    obtain ⟨h7, h8⟩ := ht2
    cases neg
    · simp only [Bool.false_eq_true, if_false, one_mul]
      push_cast at hle ⊢
      constructor <;> refine le_trans ?_ hle <;> rw [abs_le] <;> constructor <;> linarith
    · simp only [if_true]
      push_cast at hle ⊢
      constructor <;> refine le_trans ?_ hle <;> rw [abs_le] <;> constructor <;> linarith

theorem sin_series_tail {θ : ℝ} (h0 : 0 ≤ θ) (h1 : θ ≤ 1) (n : ℕ) :
    |∑ j ∈ Finset.range n, (-1) ^ j * (θ ^ (1 + 2 * j) / ((1 + 2 * j).factorial : ℝ)) - Real.sin θ| ≤ 2 * θ * (1 / 4) ^ n := by
  have hsum := Real.hasSum_sin θ
  simp only [mul_div_assoc, Nat.add_comm _ 1] at hsum
  have hterm (k : ℕ) : ‖(-1) ^ k * (θ ^ (1 + 2 * k) / ((1 + 2 * k).factorial : ℝ))‖ ≤ θ * (1 / 4) ^ k := by
    have hfac := two_pow_le_two_mul_factorial (1 + 2 * k)
    have hpos : (0 : ℝ) < (1 + 2 * k).factorial := by exact_mod_cast Nat.factorial_pos _
    rw [norm_mul, norm_pow, norm_neg, norm_one, one_pow, one_mul, Real.norm_of_nonneg (by positivity), pow_add, pow_one, mul_div_assoc]
    refine mul_le_mul_of_nonneg_left ?_ h0
    have hθ : θ ^ (2 * k) ≤ 1 := pow_le_one₀ h0 h1
    rw [pow_add, pow_mul] at hfac
    rw [one_div, inv_pow, div_le_iff₀ hpos, ← div_eq_inv_mul, le_div_iff₀ (by positivity)]
    norm_num at hfac
    nlinarith [pow_pos (by norm_num : (0 : ℝ) < 4) k]
  refine (norm_sub_le_of_geometric_bound_of_hasSum (by norm_num : (1 / 4 : ℝ) < 1) hterm hsum n).trans ?_
  have : 0 ≤ θ * (1 / 4) ^ n := by positivity
  rw [div_le_iff₀ (by norm_num)]
  linarith

theorem cos_series_tail {θ : ℝ} (h0 : 0 ≤ θ) (h1 : θ ≤ 1) (n : ℕ) :
    |∑ j ∈ Finset.range n, (-1) ^ j * (θ ^ (0 + 2 * j) / ((0 + 2 * j).factorial : ℝ)) - Real.cos θ| ≤ 4 * (1 / 4) ^ n := by
  have hsum := Real.hasSum_cos θ
  simp only [mul_div_assoc] at hsum
  simp only [Nat.zero_add]
  have hterm (k : ℕ) : ‖(-1) ^ k * (θ ^ (2 * k) / ((2 * k).factorial : ℝ))‖ ≤ 2 * (1 / 4) ^ k := by
    have hfac := two_pow_le_two_mul_factorial (2 * k)
    have hpos : (0 : ℝ) < (2 * k).factorial := by exact_mod_cast Nat.factorial_pos _
    rw [norm_mul, norm_pow, norm_neg, norm_one, one_pow, one_mul, Real.norm_of_nonneg (by positivity)]
    have hθ : θ ^ (2 * k) ≤ 1 := pow_le_one₀ h0 h1
    rw [pow_mul] at hfac
    rw [one_div, inv_pow, div_le_iff₀ hpos, mul_assoc, ← div_eq_inv_mul, ← mul_div_assoc, le_div_iff₀ (by positivity)]
    norm_num at hfac
    nlinarith [pow_pos (by norm_num : (0 : ℝ) < 4) k]
  refine (norm_sub_le_of_geometric_bound_of_hasSum (by norm_num : (1 / 4 : ℝ) < 1) hterm hsum n).trans ?_
  have : (0 : ℝ) ≤ (1 / 4) ^ n := by positivity
  rw [div_le_iff₀ (by norm_num)]
  linarith

/-- The angle of a part of a half-turn, its square, and the errors of the two. -/
theorem angle_near {P x s : ℕ} (h96 : 96 ≤ P) (h512 : P ≤ 512) (hx : 4 * x ≤ 2 ^ s) :
    let y : Bounds := { lo := (piBounds P).lo * x / 2 ^ s, hi := (piBounds P).hi * x / 2 ^ s + 1 }
    let θ : ℝ := Real.pi * (x / 2 ^ s)
    0 ≤ θ ∧ θ ≤ 1 ∧ y.Near (2 ^ P * θ) 13500 ∧ (y.mul P y).Near (2 ^ P * θ ^ 2) 41000 := by
  intro y θ
  have hS : (0 : ℝ) < 2 ^ s := by positivity
  have hρ0 : (0 : ℝ) ≤ x / 2 ^ s := by positivity
  have hρ1 : (x : ℝ) / 2 ^ s ≤ 1 / 4 := by
    have : (4 : ℝ) * x ≤ 2 ^ s := by exact_mod_cast hx
    rw [div_le_iff₀ hS]
    linarith
  have hpi := Real.pi_lt_four
  have hθ0 : 0 ≤ θ := mul_nonneg Real.pi_pos.le hρ0
  have hθ1 : θ ≤ 1 := by nlinarith [Real.pi_pos]
  have hP : (P : ℝ) ≤ 512 := by exact_mod_cast h512
  have hpow : (2 : ℝ) ^ 96 ≤ 2 ^ P := pow_le_pow_right₀ one_le_two h96
  have hy : y.Near (2 ^ P * θ) 13500 := by
    have := (piBounds_near P).part (x := x) (s := s) (by omega)
    rw [mul_assoc] at this
    exact this.mono (by linarith)
  have habs : |2 ^ P * θ| ≤ 2 ^ P := by
    rw [abs_of_nonneg (by positivity)]
    exact mul_le_of_le_one_right (by positivity) hθ1
  have hsq := hy.mul hy habs habs (by linarith)
  have hexact : 2 ^ P * θ * (2 ^ P * θ) / 2 ^ P = 2 ^ P * θ ^ 2 := by field_simp
  rw [hexact] at hsq
  exact ⟨hθ0, hθ1, hy, hsq.mono (by norm_num)⟩

/-- What the alternating series leaves out at a quarter of the bits. -/
theorem quarter_pow_le {P : ℕ} (h96 : 96 ≤ P) : ((1 : ℝ) / 4) ^ (P / 4 + 4) ≤ 1 / 2 ^ 56 := by
  calc ((1 : ℝ) / 4) ^ (P / 4 + 4) ≤ (1 / 4) ^ 28 := pow_le_pow_of_le_one (by norm_num) (by norm_num) (by omega)
    _ = 1 / 2 ^ 56 := by norm_num

/-- The lower end of an alternating series' bounds, two units lowered. -/
theorem altSum_lowered {z : ℤ} {e ε : ℝ} (he : 0 ≤ e) (h : |(z : ℝ) - e| ≤ ε) : |(((z - 2).toNat : ℕ) : ℝ) - e| ≤ ε + 2 := by
  refine (abs_toNat_sub_le he).trans ?_
  push_cast
  rw [abs_le] at h ⊢
  constructor <;> linarith

theorem sinBounds_near {P x s : ℕ} (h512 : P ≤ 512) (hx : 4 * x ≤ 2 ^ s) (hbig : 2 ^ 96 * 2 ^ s ≤ 2 ^ P * x) :
    |((sinBounds P x s).lo : ℝ) - 2 ^ P * Real.sin (Real.pi * (x / 2 ^ s))| ≤ 2 ^ P * Real.sin (Real.pi * (x / 2 ^ s)) / 2 ^ 48 := by
  have hS : (0 : ℝ) < 2 ^ s := by positivity
  have h96 : 96 ≤ P := by
    have : 2 ^ 96 * 2 ^ s ≤ 2 ^ P * 2 ^ s := hbig.trans (Nat.mul_le_mul_left _ (by omega))
    exact (Nat.pow_le_pow_iff_right one_lt_two).1 (Nat.le_of_mul_le_mul_right this (Nat.two_pow_pos s))
  obtain ⟨hθ0, hθ1, hy, hy2⟩ := angle_near h96 h512 hx
  obtain ⟨ρ, hρ⟩ : ∃ ρ : ℝ, ρ = x / 2 ^ s := ⟨_, rfl⟩
  have hbig' : (2 : ℝ) ^ 96 ≤ 2 ^ P * ρ := by
    rw [hρ, ← mul_div_assoc, le_div_iff₀ hS]
    exact_mod_cast hbig
  have hρ0 : 0 ≤ ρ := hρ ▸ by positivity
  rw [← hρ] at hθ0 hθ1 hy hy2 ⊢
  obtain ⟨θ, hθ⟩ : ∃ θ, θ = Real.pi * ρ := ⟨_, rfl⟩
  rw [← hθ] at hθ0 hθ1 hy hy2 ⊢
  obtain ⟨n, hn⟩ : ∃ n, n = P / 4 + 4 := ⟨_, rfl⟩
  have hnP : (n : ℝ) ≤ 132 := by exact_mod_cast (by omega : n ≤ 132)
  have hpow : (2 : ℝ) ^ 96 ≤ 2 ^ P := pow_le_pow_right₀ one_le_two h96
  have herr : (n : ℝ) * (13500 + n * (2 * 41000 + 3)) ≤ 2 ^ 31 := by nlinarith [n.cast_nonneg (α := ℝ)]
  have hsin : 2 * ρ ≤ Real.sin θ := by
    have := Real.mul_le_sin hθ0 (hθ1.trans (by linarith [Real.pi_gt_three]))
    rwa [hθ, ← mul_assoc, div_mul_cancel₀ _ Real.pi_pos.ne', ← hθ] at this
  have hsum := (altSum_near hθ0 hθ1 hy2 n 1 false (by simpa using hy) (by nlinarith [n.cast_nonneg (α := ℝ)])).1
  simp only [Bool.false_eq_true, if_false, one_mul] at hsum
  have htail := sin_series_tail hθ0 hθ1 n
  have htail' : |2 ^ P * ∑ j ∈ Finset.range n, (-1) ^ j * (θ ^ (1 + 2 * j) / ((1 + 2 * j).factorial : ℝ)) - 2 ^ P * Real.sin θ| ≤ 2 ^ P * ρ / 2 ^ 53 := by
    rw [← mul_sub, abs_mul, abs_of_pos (by positivity), mul_div_assoc]
    refine mul_le_mul_of_nonneg_left (htail.trans ?_) (by positivity)
    have hq := hn ▸ quarter_pow_le h96
    have hθρ : θ ≤ 4 * ρ := hθ ▸ mul_le_mul_of_nonneg_right Real.pi_lt_four.le hρ0
    calc 2 * θ * (1 / 4) ^ n ≤ 2 * (4 * ρ) * (1 / 2 ^ 56) := by gcongr
      _ = ρ / 2 ^ 53 := by ring
  have hnear := altSum_lowered (mul_nonneg (by positivity) (by linarith) : (0 : ℝ) ≤ 2 ^ P * Real.sin θ) ((abs_sub_le _ _ _).trans (add_le_add (hsum.trans herr) htail'))
  have hlo : (sinBounds P x s).lo = ((altSum P (Bounds.mul P { lo := (piBounds P).lo * x / 2 ^ s, hi := (piBounds P).hi * x / 2 ^ s + 1 }
      { lo := (piBounds P).lo * x / 2 ^ s, hi := (piBounds P).hi * x / 2 ^ s + 1 }) n 1
      { lo := (piBounds P).lo * x / 2 ^ s, hi := (piBounds P).hi * x / 2 ^ s + 1 } false).1 - 2).toNat := by rw [hn]; rfl
  rw [hlo]
  refine hnear.trans ?_
  have : 2 ^ P * (2 * ρ) ≤ 2 ^ P * Real.sin θ := mul_le_mul_of_nonneg_left hsin (by positivity)
  linarith

theorem cosBounds_near {P x s : ℕ} (h96 : 96 ≤ P) (h512 : P ≤ 512) (hx : 4 * x ≤ 2 ^ s) :
    |((cosBounds P x s).lo : ℝ) - 2 ^ P * Real.cos (Real.pi * (x / 2 ^ s))| ≤ 2 ^ P * Real.cos (Real.pi * (x / 2 ^ s)) / 2 ^ 48 := by
  obtain ⟨hθ0, hθ1, -, hy2⟩ := angle_near h96 h512 hx
  obtain ⟨θ, hθ⟩ : ∃ θ : ℝ, θ = Real.pi * (x / 2 ^ s) := ⟨_, rfl⟩
  rw [← hθ] at hθ0 hθ1 hy2 ⊢
  obtain ⟨n, hn⟩ : ∃ n, n = P / 4 + 4 := ⟨_, rfl⟩
  have hnP : (n : ℝ) ≤ 132 := by exact_mod_cast (by omega : n ≤ 132)
  have hpow : (2 : ℝ) ^ 96 ≤ 2 ^ P := pow_le_pow_right₀ one_le_two h96
  have herr : (n : ℝ) * (0 + n * (2 * 41000 + 3)) ≤ 2 ^ 31 := by nlinarith [n.cast_nonneg (α := ℝ)]
  have hcos : 1 / 2 ≤ Real.cos θ := by
    have := Real.one_sub_sq_div_two_le_cos (x := θ)
    nlinarith
  have hsum := (altSum_near (t := { lo := 2 ^ P, hi := 2 ^ P }) (ε := 0) hθ0 hθ1 hy2 n 0 false (by simp [Bounds.Near])
    (by nlinarith [n.cast_nonneg (α := ℝ)])).1
  simp only [Bool.false_eq_true, if_false, one_mul] at hsum
  have htail := cos_series_tail hθ0 hθ1 n
  have htail' : |2 ^ P * ∑ j ∈ Finset.range n, (-1) ^ j * (θ ^ (0 + 2 * j) / ((0 + 2 * j).factorial : ℝ)) - 2 ^ P * Real.cos θ| ≤ 2 ^ P / 2 ^ 54 := by
    rw [← mul_sub, abs_mul, abs_of_pos (by positivity), div_eq_mul_inv]
    refine mul_le_mul_of_nonneg_left (htail.trans ?_) (by positivity)
    have hq := hn ▸ quarter_pow_le h96
    calc 4 * (1 / 4) ^ n ≤ 4 * (1 / 2 ^ 56) := by gcongr
      _ = ((2 : ℝ) ^ 54)⁻¹ := by norm_num
  have hnear := altSum_lowered (mul_nonneg (by positivity) (by linarith) : (0 : ℝ) ≤ 2 ^ P * Real.cos θ) ((abs_sub_le _ _ _).trans (add_le_add (hsum.trans herr) htail'))
  have hlo : (cosBounds P x s).lo = ((altSum P (Bounds.mul P { lo := (piBounds P).lo * x / 2 ^ s, hi := (piBounds P).hi * x / 2 ^ s + 1 }
      { lo := (piBounds P).lo * x / 2 ^ s, hi := (piBounds P).hi * x / 2 ^ s + 1 }) n 0 { lo := 2 ^ P, hi := 2 ^ P } false).1 - 2).toNat := by rw [hn]; rfl
  rw [hlo]
  refine hnear.trans ?_
  have : 2 ^ P * (1 / 2) ≤ 2 ^ P * Real.cos θ := mul_le_mul_of_nonneg_left hcos (by positivity)
  linarith

end Sys2Proof.Machine
end


section
/-! FEXP2, FLOG2, FSIN and FCOS round a number within one part in 2^48 of the function of their operand (R249, R254). -/

namespace Sys2Proof.Machine

/-! ### Rounding a number near the exact one -/

/-- The code is the rounding of a rational within one part in 2^48 of a nonzero real number. -/
def RoundsNear (e : ℝ) (w : ℕ) : Prop := e ≠ 0 → ∃ y : ℚ, |(y : ℝ) - e| ≤ |e| / 2 ^ 48 ∧ fmt32.Rounds .rn y w

theorem roundsNear_of_eq {y : ℚ} {e : ℝ} {w : ℕ} (h : (y : ℝ) = e) (hw : fmt32.Rounds .rn y w) : RoundsNear e w :=
  fun _ => ⟨y, by rw [h, sub_self, abs_zero]; positivity, hw⟩

theorem roundsNear_round (neg : Bool) {lo : ℕ} {E : ℤ} {v : ℝ} (hv : 0 < v) (h : |(lo : ℝ) * 2 ^ E - v| ≤ v / 2 ^ 48) :
    RoundsNear (if neg then -v else v) (fmt32.round .rn neg lo E false) := by
  have hlo : lo ≠ 0 := by
    rintro rfl
    rw [Nat.cast_zero, zero_mul, zero_sub, abs_neg, abs_of_pos hv] at h
    linarith
  refine fun _ => ⟨unitsVal neg lo E, ?_, fmt32.round_units fmt32_pos.1 fmt32_pos.2 hlo⟩
  rw [unitsVal]
  cases neg
  · simp only [Bool.false_eq_true, if_false]
    rw [abs_of_pos hv]
    push_cast
    exact h
  · simp only [if_true]
    have hflip : ((-(lo : ℚ) * 2 ^ E : ℚ) : ℝ) - -v = -(lo * 2 ^ E - v) := by
      push_cast
      ring
    rwa [hflip, abs_neg, abs_neg, abs_of_pos hv]

/-- The value that stands is the lower bound rounded at one of the precisions. -/
theorem roundBounds_mem (neg : Bool) (e : ℤ) (b : ℕ → Bounds) {ps : List ℕ} (h : ps ≠ []) :
    ∃ P ∈ ps, roundBounds neg e b ps = fmt32.round .rn neg (b P).lo (e - P) false := by
  induction ps with
  | nil => exact absurd rfl h
  | cons P ps ih =>
    rw [roundBounds]
    split
    · exact ⟨P, List.mem_cons_self .., rfl⟩
    · next hlast =>
      have hps : ps ≠ [] := by
        rintro rfl
        simp at hlast
      obtain ⟨Q, hQ, heq⟩ := ih hps
      exact ⟨Q, List.mem_cons_of_mem _ hQ, heq⟩

theorem roundsNear_roundBounds (neg : Bool) {e : ℤ} {b : ℕ → Bounds} {k : ℕ} {v : ℝ} (hv : 0 < v)
    (h : ∀ P, k + 64 ≤ P → P ≤ k + 256 → |((b P).lo : ℝ) - 2 ^ P * v| ≤ 2 ^ P * v / 2 ^ 48) :
    RoundsNear (if neg then -(v * 2 ^ e) else v * 2 ^ e) (roundBounds neg e b (precisions k)) := by
  obtain ⟨P, hP, heq⟩ := roundBounds_mem neg e b (ps := precisions k) (List.cons_ne_nil _ _)
  have hrange : k + 64 ≤ P ∧ P ≤ k + 256 := by
    simp only [precisions, List.mem_cons, List.not_mem_nil, or_false] at hP
    omega
  rw [heq]
  refine roundsNear_round neg (by positivity) ?_
  have hunit : (2 : ℝ) ^ (e - P) * 2 ^ P = 2 ^ e := by rw [← zpow_natCast, ← zpow_add₀ two_ne_zero, sub_add_cancel]
  have hsplit : ((b P).lo : ℝ) * 2 ^ (e - P) - v * 2 ^ e = ((b P).lo - 2 ^ P * v) * 2 ^ (e - P) := by
    rw [← hunit]
    ring
  rw [hsplit, abs_mul, abs_of_pos (by positivity : (0 : ℝ) < 2 ^ (e - P))]
  refine (mul_le_mul_of_nonneg_right (h P hrange.1 hrange.2) (by positivity)).trans_eq ?_
  rw [← hunit]
  ring

/-! ### FEXP2 -/

theorem unitsVal_cast (neg : Bool) (m : ℕ) (e : ℤ) : ((unitsVal neg m e : ℚ) : ℝ) = (if neg then -(m * 2 ^ e) else m * 2 ^ e : ℝ) := by
  cases neg <;> simp [unitsVal]

theorem fexp2Bits_near {a m : ℕ} {neg : Bool} {e : ℤ} (hra : fmt32.read a = .fin neg m e) :
    RoundsNear ((2 : ℝ) ^ ((unitsVal neg m e : ℚ) : ℝ)) (fexp2Bits a) := by
  by_cases hint : ∃ n : ℤ, unitsVal neg m e = n
  · obtain ⟨n, hn⟩ := hint
    refine roundsNear_of_eq ?_ (fexp2Bits_of_int hra hn)
    rw [hn]
    push_cast
    rw [Real.rpow_intCast]
  · have hm : m ≠ 0 := fun h => hint ⟨0, by rw [unitsVal_eq_zero_iff.2 h, Int.cast_zero]⟩
    have he : ¬0 ≤ e := fun he => hint ⟨if neg then -((m * 2 ^ e.toNat : ℕ) : ℤ) else (m * 2 ^ e.toNat : ℕ), by
      have h2 : (2 : ℚ) ^ e = 2 ^ e.toNat := by rw [← zpow_natCast, Int.toNat_of_nonneg he]
      rw [unitsVal, h2]
      cases neg <;> simp⟩
    obtain ⟨s, hs⟩ : ∃ s, s = (-e).toNat := ⟨_, rfl⟩
    obtain ⟨x, hx⟩ : ∃ x : ℤ, x = if neg then -(m : ℤ) else m := ⟨_, rfl⟩
    have hval : unitsVal neg m e = x / 2 ^ s := by
      have h2 : (2 : ℚ) ^ e = (2 ^ s)⁻¹ := by rw [hs, ← zpow_natCast, Int.toNat_of_nonneg (by omega), zpow_neg, inv_inv]
      rw [unitsVal, h2, hx]
      cases neg <;> simp [div_eq_mul_inv]
    have hS : (0 : ℤ) < 2 ^ s := by positivity
    have hr0 := Int.emod_nonneg x hS.ne'
    have hrlt := Int.emod_lt_of_pos x hS
    obtain ⟨r, hr⟩ := Int.eq_ofNat_of_zero_le hr0
    have hdiv := Int.mul_ediv_add_emod x (2 ^ s)
    have hr' : r ≠ 0 := fun h => hint ⟨x / 2 ^ s, by
      rw [hr, h] at hdiv
      rw [hval, div_eq_iff (by positivity)]
      have : x = x / 2 ^ s * 2 ^ s := by rw [mul_comm]; simpa using hdiv.symm
      exact_mod_cast this⟩
    have hbits : fexp2Bits a = roundBounds false (x / 2 ^ s) (fun P => exp2Bounds P r s) (precisions 32) := by
      rw [fexp2Bits, hra]
      simp only [Bool.or_eq_true, decide_eq_true_eq, beq_iff_eq, he, hm, or_self, if_false, ← hs, ← hx, hr, Int.toNat_natCast, hr']
    have hpart : ((unitsVal neg m e : ℚ) : ℝ) = ((x / 2 ^ s : ℤ) : ℝ) + r / 2 ^ s := by
      have hx : (x : ℝ) = 2 ^ s * ((x / 2 ^ s : ℤ) : ℝ) + r := by
        rw [hr] at hdiv
        exact_mod_cast hdiv.symm
      rw [hval]
      generalize x / 2 ^ s = q at hx
      push_cast
      rw [hx]
      field_simp
    have hrle : r ≤ 2 ^ s := by
      rw [hr] at hrlt
      exact_mod_cast hrlt.le
    have hpow : (1 : ℝ) ≤ 2 ^ ((r : ℝ) / 2 ^ s) := Real.one_le_rpow one_le_two (by positivity)
    have hnear := roundsNear_roundBounds false (e := x / 2 ^ s) (k := 32) (v := 2 ^ ((r : ℝ) / 2 ^ s)) (by positivity) fun P h1 h2 =>
      (exp2Bounds_near (P := P) (by omega) (by omega) hrle).trans (div_le_div_of_nonneg_right (le_mul_of_one_le_right (by positivity) hpow) (by positivity))
    rw [if_neg Bool.false_ne_true] at hnear
    rwa [hbits, hpart, Real.rpow_add two_pos, Real.rpow_intCast, mul_comm]

/-! ### FLOG2 -/

theorem roundsNear_ofInt (n : ℤ) : RoundsNear n (fmt32.ofInt .rn n) := fun h => by
  have hn : n ≠ 0 := by exact_mod_cast h
  have hval : unitsVal (decide (n < 0)) n.natAbs 0 = n := by
    rw [unitsVal, zpow_zero, mul_one]
    rcases lt_or_ge n 0 with hn | hn
    · rw [if_pos (decide_eq_true hn), ← Int.cast_natCast, Int.ofNat_natAbs_of_nonpos hn.le]
      push_cast
      ring
    · rw [if_neg (by simpa using hn), ← Int.cast_natCast, Int.natAbs_of_nonneg hn]
  refine roundsNear_of_eq (y := n) (by push_cast; rfl) ?_ h
  have := fmt32.round_units (r := .rn) (neg := decide (n < 0)) (e := 0) fmt32_pos.1 fmt32_pos.2 (Int.natAbs_ne_zero.2 hn)
  rwa [hval] at this

theorem flog2Bits_near {a m : ℕ} {e : ℤ} (hra : fmt32.read a = .fin false m e) (hm : m ≠ 0) :
    RoundsNear (Real.logb 2 (m * 2 ^ e)) (flog2Bits a) := by
  obtain ⟨b, hb⟩ : ∃ b, b = bitLen m - 1 := ⟨_, rfl⟩
  have hpos := Nat.pos_of_ne_zero hm
  have hlen := bitLen_pos hpos
  have hm24 : m < 2 ^ 24 := Fmt.read_lt hra
  have hm1 : 2 ^ b ≤ m := hb ▸ two_pow_bitLen_le hpos
  have hm2 : m < 2 * 2 ^ b := by
    have := lt_two_pow_bitLen m
    rwa [show bitLen m = b + 1 by omega, pow_succ'] at this
  have hb23 : b ≤ 23 := by
    have := (Nat.pow_lt_pow_iff_right one_lt_two).1 (hm1.trans_lt hm24)
    omega
  have hm0 : (0 : ℝ) < m := by exact_mod_cast hpos
  have hlog : Real.logb 2 (m * 2 ^ e) = ((e + b : ℤ) : ℝ) + Real.logb 2 (m / 2 ^ b) := by
    rw [Real.logb_mul hm0.ne' (by positivity), Real.logb_div hm0.ne' (by positivity), ← Real.rpow_intCast, ← Real.rpow_natCast, Real.logb_rpow two_pos (by norm_num),
      Real.logb_rpow two_pos (by norm_num)]
    push_cast
    ring
  have hbits : flog2Bits a = if m = 2 ^ b then fmt32.ofInt .rn (e + b)
      else if 0 ≤ e + b then roundBounds false 0 (fun P =>
        { lo := (e + b).toNat * 2 ^ P + (lnBounds P m b).lo * 2 ^ P / (ln2Bounds P).hi,
          hi := (e + b).toNat * 2 ^ P + (lnBounds P m b).hi * 2 ^ P / (ln2Bounds P).lo + 1 }) (precisions 64)
      else roundBounds true 0 (fun P =>
        { lo := (-(e + b)).toNat * 2 ^ P - ((lnBounds P m b).hi * 2 ^ P / (ln2Bounds P).lo + 1),
          hi := (-(e + b)).toNat * 2 ^ P - (lnBounds P m b).lo * 2 ^ P / (ln2Bounds P).hi }) (precisions 64) := by
    rw [flog2Bits, hra]
    simp only [beq_iff_eq, hm, if_false, Bool.false_eq_true, ← hb]
  rw [hbits]
  split
  · next h =>
    have h0 : Real.logb 2 (m / 2 ^ b) = 0 := by
      rw [h]
      push_cast
      rw [div_self (by positivity), Real.logb_one]
    rw [hlog, h0, add_zero]
    exact roundsNear_ofInt _
  · next hne =>
    obtain ⟨hlo, hhi⟩ := logb_bounds hm24 hb23 (lt_of_le_of_ne hm1 (Ne.symm hne)) hm2
    have hquot {P : ℕ} (h1 : 64 + 64 ≤ P) (h2 : P ≤ 64 + 256) :
        |(((lnBounds P m b).lo * 2 ^ P / (ln2Bounds P).hi : ℕ) : ℝ) - 2 ^ P * Real.logb 2 (m / 2 ^ b)| ≤ 2 ^ 25
        ∧ |(((lnBounds P m b).hi * 2 ^ P / (ln2Bounds P).lo : ℕ) : ℝ) - 2 ^ P * Real.logb 2 (m / 2 ^ b)| ≤ 2 ^ 25 := by
      have hln := lnBounds_near (P := P) (by omega) (by omega) hm1 hm2
      have hl2 := ln2Bounds_near P
      exact ⟨log_quotient_near (by omega) (by omega) hm1 hm2 hln.1 hl2.2, log_quotient_near (by omega) (by omega) hm1 hm2 hln.2 hl2.1⟩
    rw [hlog]
    generalize e + (b : ℤ) = n at *
    generalize Real.logb 2 (m / 2 ^ b) = L at *
    have hroom {P : ℕ} {v : ℝ} (h : 64 + 64 ≤ P) (hv : 1 / 2 ^ 24 ≤ v) : 2 ^ 25 + 1 ≤ 2 ^ P * v / 2 ^ 48 := by
      have hbig : (2 : ℝ) ^ 128 ≤ 2 ^ P := pow_le_pow_right₀ one_le_two h
      have : 2 ^ 128 * (1 / 2 ^ 24) ≤ 2 ^ P * v := mul_le_mul hbig hv (by positivity) (by positivity)
      linarith
    split
    · next h0 =>
      have hn0 : (0 : ℝ) ≤ n := by exact_mod_cast h0
      have hnear := roundsNear_roundBounds false (e := 0) (k := 64) (v := n + L) (by linarith) (b := fun P =>
        { lo := n.toNat * 2 ^ P + (lnBounds P m b).lo * 2 ^ P / (ln2Bounds P).hi,
          hi := n.toNat * 2 ^ P + (lnBounds P m b).hi * 2 ^ P / (ln2Bounds P).lo + 1 }) fun P h1 h2 => by
        have hcast : ((n.toNat : ℕ) : ℝ) = n := by exact_mod_cast Int.toNat_of_nonneg h0
        have hq := (hquot h1 h2).1
        refine le_trans ?_ (hroom h1 (by linarith))
        dsimp only
        rw [Nat.cast_add, Nat.cast_mul, hcast, Nat.cast_pow, Nat.cast_ofNat]
        rw [abs_le] at hq ⊢
        constructor <;> linarith
      rwa [if_neg Bool.false_ne_true, zpow_zero, mul_one] at hnear
    · next h0 =>
      have hn0 : (n : ℝ) ≤ -1 := by exact_mod_cast (by omega : n ≤ -1)
      have hnear := roundsNear_roundBounds true (e := 0) (k := 64) (v := -(n + L)) (by linarith) (b := fun P =>
        { lo := (-n).toNat * 2 ^ P - ((lnBounds P m b).hi * 2 ^ P / (ln2Bounds P).lo + 1),
          hi := (-n).toNat * 2 ^ P - (lnBounds P m b).lo * 2 ^ P / (ln2Bounds P).hi }) fun P h1 h2 => by
        have hcast : (((-n).toNat : ℕ) : ℝ) = -n := by exact_mod_cast Int.toNat_of_nonneg (by omega : 0 ≤ -n)
        have hq := (hquot h1 h2).2
        refine le_trans ((abs_natSub_sub_le (mul_nonneg (by positivity) (by linarith))).trans ?_) (hroom h1 (by linarith))
        rw [Nat.cast_mul, hcast, Nat.cast_add, Nat.cast_pow, Nat.cast_ofNat, Nat.cast_one]
        rw [abs_le] at hq ⊢
        constructor <;> linarith
      rwa [if_pos rfl, zpow_zero, mul_one, neg_neg] at hnear

/-! ### FSIN and FCOS -/

theorem sinQuarter_near (neg : Bool) {x s : ℕ} (hx0 : 0 < x) (hx : 2 * x ≤ 2 ^ s) (hs2 : 2 ≤ s) (hs : s ≤ 151) :
    RoundsNear (if neg then -Real.sin (Real.pi * (x / 2 ^ s)) else Real.sin (Real.pi * (x / 2 ^ s))) (sinQuarter neg x s) := by
  have hS : (0 : ℝ) < 2 ^ s := by positivity
  have hx0' : (0 : ℝ) < x := by exact_mod_cast hx0
  have hρ1 : (x : ℝ) / 2 ^ s ≤ 1 / 2 := by
    have : (2 : ℝ) * x ≤ 2 ^ s := by exact_mod_cast hx
    rw [div_le_iff₀ hS]
    linarith
  have hsin : 0 < Real.sin (Real.pi * (x / 2 ^ s)) :=
    Real.sin_pos_of_pos_of_lt_pi (by positivity) (by nlinarith [Real.pi_pos])
  have hbits : sinQuarter neg x s = if 4 * x ≤ 2 ^ s then roundBounds neg 0 (fun P => sinBounds P x s) (precisions (32 + s - (bitLen x - 1)))
      else roundBounds neg 0 (fun P => cosBounds P (2 ^ s / 2 - x) s) (precisions 32) := by
    rw [sinQuarter, if_neg (by simpa using hx0.ne')]
  by_cases hx4 : 4 * x ≤ 2 ^ s
  · rw [hbits, if_pos hx4]
    obtain ⟨t, ht⟩ : ∃ t, t = bitLen x - 1 := ⟨_, rfl⟩
    have hxt : 2 ^ t ≤ x := ht ▸ two_pow_bitLen_le hx0
    have hts : t ≤ s := (Nat.pow_le_pow_iff_right one_lt_two).1 (hxt.trans (by omega))
    have hnear := roundsNear_roundBounds neg (e := 0) (k := 32 + s - t) (b := fun P => sinBounds P x s) hsin fun P h1 h2 => by
      refine sinBounds_near (by omega) hx4 ?_
      calc 2 ^ 96 * 2 ^ s = 2 ^ (96 + s) := (pow_add ..).symm
        _ ≤ 2 ^ (P + t) := Nat.pow_le_pow_right two_pos (by omega)
        _ = 2 ^ P * 2 ^ t := pow_add ..
        _ ≤ 2 ^ P * x := Nat.mul_le_mul_left _ hxt
    rwa [zpow_zero, mul_one, ht] at hnear
  · rw [hbits, if_neg hx4]
    obtain ⟨S, hSe⟩ : ∃ S, 2 ^ s = 2 * S := ⟨2 ^ (s - 1), by rw [← pow_succ', Nat.sub_add_cancel (by omega)]⟩
    have hhalf : 2 ^ s / 2 = S := by rw [hSe, Nat.mul_div_cancel_left _ two_pos]
    have hcos : Real.cos (Real.pi * (((2 ^ s / 2 - x : ℕ) : ℝ) / 2 ^ s)) = Real.sin (Real.pi * (x / 2 ^ s)) := by
      have hpart : ((2 ^ s / 2 - x : ℕ) : ℝ) / 2 ^ s = 1 / 2 - x / 2 ^ s := by
        have hSr : (2 : ℝ) ^ s = 2 * S := by exact_mod_cast hSe
        have hS0 : (S : ℝ) ≠ 0 := by
          have : (0 : ℝ) < 2 * S := hSr ▸ hS
          exact (by linarith : (0 : ℝ) < S).ne'
        rw [hhalf, Nat.cast_sub (by omega), sub_div, hSr, div_mul_cancel_right₀ hS0, one_div]
      rw [hpart, ← Real.cos_pi_div_two_sub]
      congr 1
      ring
    have hnear := roundsNear_roundBounds neg (e := 0) (k := 32) (b := fun P => cosBounds P (2 ^ s / 2 - x) s) (hcos ▸ hsin) fun P h1 h2 =>
      cosBounds_near (by omega) (by omega) (by omega)
    rwa [zpow_zero, mul_one, hcos] at hnear

theorem fmt32_read_exp_ge {a m : Nat} {neg : Bool} {e : Int} (h : fmt32.read a = .fin neg m e) : -149 ≤ e := by
  have hlow : fmt32.low = -149 := by decide
  simp only [Fmt.read, beq_iff_eq] at h
  rw [hlow] at h
  split at h
  · split at h <;> cases h
  · split at h
    · cases h
      decide
    · cases h
      omega

/-- The sign of a whole number of half-turns. -/
theorem neg_one_pow_eq_ite (k : ℕ) : (-1 : ℝ) ^ k = if k % 2 == 1 then -1 else 1 := by
  rcases Nat.even_or_odd k with h | h
  · rw [h.neg_one_pow, Nat.even_iff.1 h]
    simp
  · rw [h.neg_one_pow, Nat.odd_iff.1 h]
    simp

/-- A fractional number of half-turns, in quarters of its unit: the whole ones and the part. -/
theorem half_turns (m : ℕ) {e : ℤ} (he : e < 0) {s : ℕ} (hs : s = (-e).toNat + 2) :
    (m : ℝ) * 2 ^ e = (m * 4 % 2 ^ s : ℕ) / 2 ^ s + (m * 4 / 2 ^ s : ℕ) := by
  have hsplit : ((m * 4 : ℕ) : ℝ) = 2 ^ s * (m * 4 / 2 ^ s : ℕ) + (m * 4 % 2 ^ s : ℕ) := by exact_mod_cast (Nat.div_add_mod (m * 4) (2 ^ s)).symm
  have hunit : (2 : ℝ) ^ e = 4 / 2 ^ s := by
    rw [hs, pow_add, ← zpow_natCast (2 : ℝ) (-e).toNat, Int.toNat_of_nonneg (by omega), zpow_neg]
    field_simp
    norm_num
  have : (m : ℝ) * 2 ^ e = ((m * 4 : ℕ) : ℝ) / 2 ^ s := by
    rw [hunit]
    push_cast
    ring
  rw [this, hsplit]
  field_simp
  ring

/-- A whole number of half-turns. -/
theorem units_half_turns {m : ℕ} {e : ℤ} (he : 0 ≤ e) : Real.pi * (m * 2 ^ e) = ((m * 2 ^ e.toNat : ℕ) : ℝ) * Real.pi := by
  have h2 : (2 : ℝ) ^ e = 2 ^ e.toNat := by rw [← zpow_natCast, Int.toNat_of_nonneg he]
  rw [h2]
  push_cast
  ring

theorem fsinBits_near {a m : ℕ} {neg : Bool} {e : ℤ} (hra : fmt32.read a = .fin neg m e) :
    RoundsNear (Real.sin (Real.pi * (if neg then -(m * 2 ^ e) else m * 2 ^ e : ℝ))) (fsinBits a) := by
  have hodd : Real.sin (Real.pi * (if neg then -(m * 2 ^ e) else m * 2 ^ e : ℝ)) = (if neg then -1 else 1) * Real.sin (Real.pi * (m * 2 ^ e)) := by
    cases neg <;> simp
  rw [hodd]
  by_cases he : 0 ≤ e
  · refine fun h => absurd ?_ h
    rw [units_half_turns he, Real.sin_nat_mul_pi, mul_zero]
  · have hge := fmt32_read_exp_ge hra
    obtain ⟨s, hs⟩ : ∃ s, s = (-e).toNat + 2 := ⟨_, rfl⟩
    have hturns := half_turns m (not_le.1 he) hs
    have hrlt := Nat.mod_lt (m * 4) (Nat.two_pow_pos s)
    obtain ⟨r, hr⟩ : ∃ r, r = m * 4 % 2 ^ s := ⟨_, rfl⟩
    obtain ⟨K, hK⟩ : ∃ K, K = m * 4 / 2 ^ s := ⟨_, rfl⟩
    rw [← hr, ← hK] at hturns
    rw [← hr] at hrlt
    have hsin : Real.sin (Real.pi * (m * 2 ^ e)) = (if K % 2 == 1 then -1 else 1) * Real.sin (Real.pi * (r / 2 ^ s)) := by
      rw [hturns, mul_add, mul_comm Real.pi (K : ℝ), Real.sin_add_nat_mul_pi, neg_one_pow_eq_ite]
    have hbits : fsinBits a = if r = 0 then fmt32.withSign neg 0 else sinQuarter (neg != (K % 2 == 1)) (if 2 * r ≤ 2 ^ s then r else 2 ^ s - r) s := by
      rw [fsinBits, hra]
      simp only [he, if_false, ← hs, ← hr, ← hK, beq_iff_eq]
    rw [hsin, hbits]
    by_cases h0 : r = 0
    · refine fun h => absurd ?_ h
      rw [h0, Nat.cast_zero, zero_div, mul_zero, Real.sin_zero, mul_zero, mul_zero]
    · rw [if_neg h0]
      obtain ⟨x, hx⟩ : ∃ x, x = if 2 * r ≤ 2 ^ s then r else 2 ^ s - r := ⟨_, rfl⟩
      have hfold : Real.sin (Real.pi * (r / 2 ^ s)) = Real.sin (Real.pi * (x / 2 ^ s)) := by
        rw [hx]
        split
        · rfl
        · rw [Nat.cast_sub hrlt.le, sub_div]
          push_cast
          rw [div_self (by positivity), mul_sub, mul_one, Real.sin_pi_sub]
      have hx2 : 0 < x ∧ 2 * x ≤ 2 ^ s := by
        rw [hx]
        split <;> omega
      have hnear := sinQuarter_near (neg != (K % 2 == 1)) hx2.1 hx2.2 (by omega) (by omega)
      rw [← hx, hfold]
      cases neg <;> cases hpar : K % 2 == 1 <;> simpa [hpar] using hnear

theorem fcosBits_near {a m : ℕ} {neg : Bool} {e : ℤ} (hra : fmt32.read a = .fin neg m e) :
    RoundsNear (Real.cos (Real.pi * (if neg then -(m * 2 ^ e) else m * 2 ^ e : ℝ))) (fcosBits a) := by
  have heven : Real.cos (Real.pi * (if neg then -(m * 2 ^ e) else m * 2 ^ e : ℝ)) = Real.cos (Real.pi * (m * 2 ^ e)) := by
    cases neg <;> simp
  rw [heven]
  by_cases he : 0 ≤ e
  · obtain ⟨k, hk⟩ : ∃ k, k = m * 2 ^ e.toNat := ⟨_, rfl⟩
    have hcos : Real.cos (Real.pi * (m * 2 ^ e)) = if k % 2 == 1 then -1 else 1 := by
      rw [units_half_turns he, ← hk, Real.cos_nat_mul_pi, neg_one_pow_eq_ite]
    have hbits : fcosBits a = fmt32.round .rn (k % 2 == 1) 1 0 false := by
      rw [fcosBits, hra]
      simp only [he, if_true, ← hk, fmt32_one]
      cases k % 2 == 1 <;> decide
    rw [hbits, hcos]
    refine roundsNear_of_eq ?_ (fmt32.round_units fmt32_pos.1 fmt32_pos.2 one_ne_zero)
    rw [unitsVal_cast, Nat.cast_one, zpow_zero, mul_one]
  · have hge := fmt32_read_exp_ge hra
    obtain ⟨s, hs⟩ : ∃ s, s = (-e).toNat + 2 := ⟨_, rfl⟩
    have hturns := half_turns m (not_le.1 he) hs
    have hrlt := Nat.mod_lt (m * 4) (Nat.two_pow_pos s)
    obtain ⟨r, hr⟩ : ∃ r, r = m * 4 % 2 ^ s := ⟨_, rfl⟩
    obtain ⟨K, hK⟩ : ∃ K, K = m * 4 / 2 ^ s := ⟨_, rfl⟩
    obtain ⟨H, hH⟩ : ∃ H, 2 ^ s = 2 * H := ⟨2 ^ (s - 1), by rw [← pow_succ', Nat.sub_add_cancel (by omega)]⟩
    have hHr : (2 : ℝ) ^ s = 2 * H := by exact_mod_cast hH
    rw [← hr, ← hK] at hturns
    rw [← hr] at hrlt
    have hcos : Real.cos (Real.pi * (m * 2 ^ e)) = (if K % 2 == 1 then -1 else 1) * Real.cos (Real.pi * (r / 2 ^ s)) := by
      rw [hturns, mul_add, mul_comm Real.pi (K : ℝ), Real.cos_add_nat_mul_pi, neg_one_pow_eq_ite]
    have hhalf : 2 ^ s / 2 = H := by rw [hH, Nat.mul_div_cancel_left _ two_pos]
    have hbits : fcosBits a = if r = H then 0 else if r < H then sinQuarter (K % 2 == 1) (H - r) s else sinQuarter (!(K % 2 == 1)) (r - H) s := by
      rw [fcosBits, hra]
      simp only [he, if_false, ← hs, ← hr, ← hK, beq_iff_eq, hhalf]
    have hpos : (0 : ℝ) < H := by
      have : (0 : ℝ) < 2 ^ s := by positivity
      linarith
    have hhalfturn : (H : ℝ) / 2 ^ s = 1 / 2 := by
      rw [hHr]
      field_simp
    rw [hcos, hbits]
    by_cases h0 : r = H
    · refine fun h => absurd ?_ h
      rw [h0, hhalfturn, mul_one_div, Real.cos_pi_div_two, mul_zero]
    · rw [if_neg h0]
      by_cases h1 : r < H
      · rw [if_pos h1]
        have hfold : Real.cos (Real.pi * (r / 2 ^ s)) = Real.sin (Real.pi * (((H - r : ℕ) : ℝ) / 2 ^ s)) := by
          rw [Nat.cast_sub h1.le, sub_div, hhalfturn, mul_sub, mul_one_div, Real.sin_pi_div_two_sub]
        have hnear := sinQuarter_near (K % 2 == 1) (x := H - r) (s := s) (by omega) (by omega) (by omega) (by omega)
        rw [hfold]
        cases hpar : K % 2 == 1 <;> simpa [hpar] using hnear
      · rw [if_neg h1]
        have hfold : Real.cos (Real.pi * (r / 2 ^ s)) = -Real.sin (Real.pi * (((r - H : ℕ) : ℝ) / 2 ^ s)) := by
          rw [Nat.cast_sub (not_lt.1 h1), sub_div, hhalfturn, mul_sub, mul_one_div, Real.sin_sub_pi_div_two, neg_neg]
        have hnear := sinQuarter_near (!(K % 2 == 1)) (x := r - H) (s := s) (by omega) (by omega) (by omega) (by omega)
        rw [hfold]
        cases hpar : K % 2 == 1 <;> simpa [hpar] using hnear

/-! ### The functions of a code's value -/

theorem cast_val {a m : ℕ} {neg : Bool} {e : ℤ} (h : fmt32.val a = unitsVal neg m e) :
    ((fmt32.val a : ℚ) : ℝ) = (if neg then -(m * 2 ^ e) else m * 2 ^ e : ℝ) := by
  rw [h, unitsVal_cast]

theorem fexp2Bits_roundsNear {a : ℕ} (ha : fmt32.Code a) (hfin : fmt32.isFin a) :
    RoundsNear ((2 : ℝ) ^ ((fmt32.val a : ℚ) : ℝ)) (fexp2Bits a) := by
  obtain ⟨m, e, hread, hval, -⟩ := ha.read_of_fin hfin
  rw [hval]
  exact fexp2Bits_near hread

theorem flog2Bits_roundsNear {a : ℕ} (ha : fmt32.Code a) (hfin : fmt32.isFin a) (hpos : 0 < fmt32.val a) :
    RoundsNear (Real.logb 2 ((fmt32.val a : ℚ) : ℝ)) (flog2Bits a) := by
  obtain ⟨m, e, hread, hval, -⟩ := ha.read_of_fin hfin
  have hneg : decide (fmt32.neg a) = false := by
    by_contra hneg
    rw [Bool.not_eq_false] at hneg
    rw [hval, hneg, unitsVal, if_pos rfl, neg_mul] at hpos
    exact absurd hpos (not_lt.2 (neg_nonpos.2 (by positivity)))
  rw [hneg] at hread hval
  have hm : m ≠ 0 := fun hm => by
    rw [hval, unitsVal_eq_zero_iff.2 hm] at hpos
    exact lt_irrefl _ hpos
  rw [cast_val hval, if_neg Bool.false_ne_true]
  exact flog2Bits_near hread hm

theorem fsinBits_roundsNear {a : ℕ} (ha : fmt32.Code a) (hfin : fmt32.isFin a) :
    RoundsNear (Real.sin (Real.pi * ((fmt32.val a : ℚ) : ℝ))) (fsinBits a) := by
  obtain ⟨m, e, hread, hval, -⟩ := ha.read_of_fin hfin
  rw [cast_val hval]
  exact fsinBits_near hread

theorem fcosBits_roundsNear {a : ℕ} (ha : fmt32.Code a) (hfin : fmt32.isFin a) :
    RoundsNear (Real.cos (Real.pi * ((fmt32.val a : ℚ) : ℝ))) (fcosBits a) := by
  obtain ⟨m, e, hread, hval, -⟩ := ha.read_of_fin hfin
  rw [cast_val hval]
  exact fcosBits_near hread

end Sys2Proof.Machine

namespace Sys2Proof
open Machine

/-- Settles O13: at each precision the bounds lie within one part in 2^48 of the function, and the value that stands is the rounding of
one of them. -/
theorem functionValues : Obligations.FunctionValues := by
  intro s c g d x
  have hcode (l : ℕ) : fmt32.Code (c.view.src32 l x).toNat := fmt32_code_word _
  refine ⟨fun h => ⟨_, _, exec_alu1 (exec_fexp2 ..) h, fun l hfin => ?_, View.put32_writes ..⟩,
    fun h => ⟨_, _, exec_alu1 (exec_flog2 ..) h, fun l hfin hpos => ?_, View.put32_writes ..⟩,
    fun h => ⟨_, _, exec_alu1 (exec_fsin ..) h, fun l hfin => ?_, View.put32_writes ..⟩,
    fun h => ⟨_, _, exec_alu1 (exec_fcos ..) h, fun l hfin => ?_, View.put32_writes ..⟩⟩
  · rw [ofBits_toNat (code_fexp2Bits _)]
    exact fexp2Bits_roundsNear (hcode l) hfin
  · rw [ofBits_toNat (code_flog2Bits _)]
    exact flog2Bits_roundsNear (hcode l) hfin hpos
  · rw [ofBits_toNat (code_fsinBits _)]
    exact fsinBits_roundsNear (hcode l) hfin
  · rw [ofBits_toNat (code_fcosBits _)]
    exact fcosBits_roundsNear (hcode l) hfin

end Sys2Proof
end
